-- ==== Sys2Proof/Word.lean ====
section
/-! DEFINITION. The word types of the D16 and the sparse tables the state is made of.
A table lists only the keys whose value differs from a default, in rising key order, so that equal tables are equal data. -/

namespace Sys2Proof

/-- A lane set, or a predicate or join mask read as an operand (R91): bit i stands for lane i. -/
abbrev Lanes := BitVec 32

/-- One 32-bit register or instruction word (R81, R104). -/
abbrev Word := BitVec 32

/-- One byte of memory. -/
abbrev Byte := BitVec 8

/-- A table from numbers to values of `α`: the keys that differ from a default, rising. -/
abbrev Sparse (α : Type) := List (Nat × α)

/-- The value at key `k`, or the default `d`. -/
def Sparse.get {α : Type} (d : α) : Sparse α → Nat → α
  | [], _ => d
  | (k', v) :: m, k => if k = k' then v else Sparse.get d m k

/-- Remove key `k`. -/
def Sparse.erase {α : Type} : Sparse α → Nat → Sparse α
  | [], _ => []
  | (k', v) :: m, k => if k = k' then Sparse.erase m k else (k', v) :: Sparse.erase m k

/-- Put `v` at key `k` in rising order, replacing what stood there. -/
def Sparse.insert {α : Type} : Sparse α → Nat → α → Sparse α
  | [], k, v => [(k, v)]
  | (k', v') :: m, k, v =>
    if k < k' then (k, v) :: (k', v') :: m
    else if k = k' then (k, v) :: m
    else (k', v') :: Sparse.insert m k v

/-- Write `v` at key `k`: writing the default removes the key. -/
def Sparse.set {α : Type} [DecidableEq α] (d : α) (m : Sparse α) (k : Nat) (v : α) : Sparse α :=
  if v = d then Sparse.erase m k else Sparse.insert m k v

/-- Every key is above `k`, and the keys rise. -/
def Sparse.above {α : Type} (k : Nat) : Sparse α → Bool
  | [] => true
  | (k', _) :: m => decide (k < k') && Sparse.above k' m

/-- The canonical form: keys strictly rising and no entry equal to the default. -/
def Sparse.wf {α : Type} [DecidableEq α] (d : α) : Sparse α → Bool
  | [] => true
  | (k, v) :: m => decide (v ≠ d) && Sparse.above k m && Sparse.wf d m

/-- Bits `[lo + w - 1 : lo]` of `x`. -/
def bits (x lo w : Nat) : Nat := (x >>> lo) % 2 ^ w

/-- Bit `i` of `x`. -/
def bitOf (x i : Nat) : Bool := x.testBit i

/-- `x` with its bits `[lo + w - 1 : lo]` replaced by the low `w` bits of `v`. -/
def setBits (x lo w v : Nat) : Nat :=
  x - bits x lo w * 2 ^ lo + v % 2 ^ w * 2 ^ lo

/-- `x`, `w` bits wide, read as two's complement (R57). -/
def signed (w x : Nat) : Int :=
  let y := x % 2 ^ w
  if w = 0 then 0 else if y < 2 ^ (w - 1) then (y : Int) else (y : Int) - 2 ^ w

/-- The low `w` bits of the integer `x` (R58). -/
def wrap (w : Nat) (x : Int) : Nat := (x % (2 ^ w : Int)).toNat

/-- `x` sign-extended from `w` bits to `v` bits. -/
def sextTo (w v x : Nat) : Nat := wrap v (signed w x)

/-- The 32 lane indices in increasing order. -/
def laneList : List Nat :=
  [0, 1, 2, 3, 4, 5, 6, 7, 8, 9, 10, 11, 12, 13, 14, 15,
   16, 17, 18, 19, 20, 21, 22, 23, 24, 25, 26, 27, 28, 29, 30, 31]

/-- The lanes of a set, in increasing order (R98: a loop over lanes runs in increasing index). -/
def Lanes.toList (m : Lanes) : List Nat := laneList.filter (fun i => m.getLsbD i)

/-- The lane set of a list of lane indices. -/
def Lanes.ofList (l : List Nat) : Lanes := l.foldl (fun m i => m ||| (1#32 <<< i)) 0#32

/-- The lanes at which `f` holds. -/
def Lanes.ofFn (f : Nat → Bool) : Lanes := Lanes.ofList (laneList.filter f)

/-- The lowest lane of a set, if any. -/
def Lanes.lowest (m : Lanes) : Option Nat := m.toList.head?

/-- `m` is a subset of `n`. -/
def Lanes.sub (m n : Lanes) : Bool := m &&& ~~~ n = 0#32

/-- Number of lanes. -/
def Lanes.count (m : Lanes) : Nat := m.toList.length

/-- All 32 lanes. -/
def Lanes.all : Lanes := 0xFFFFFFFF#32

/-- Byte `i` of `x` (R57: little-endian). -/
def byteOf (x i : Nat) : Byte := BitVec.ofNat 8 (x >>> (8 * i))

/-- The number that bytes, lowest first, stand for. -/
def ofBytes : List Byte → Nat
  | [] => 0
  | b :: bs => b.toNat + 256 * ofBytes bs

/-- The `n` low bytes of `x`, lowest first. -/
def toBytes (x : Nat) : Nat → List Byte
  | 0 => []
  | n + 1 => BitVec.ofNat 8 x :: toBytes (x / 256) n

/-- The numbers `a`, `a + 1`, …, `n` of them. -/
def rangeFrom (a : Nat) : Nat → List Nat
  | 0 => []
  | n + 1 => a :: rangeFrom (a + 1) n

/-- The element at index `i`, or `d`. -/
def nth {α : Type} (d : α) : List α → Nat → α
  | [], _ => d
  | x :: _, 0 => x
  | _ :: xs, i + 1 => nth d xs i

/-- Replace the element at index `i`. -/
def setNth {α : Type} : List α → Nat → α → List α
  | [], _, _ => []
  | _ :: xs, 0, v => v :: xs
  | x :: xs, i + 1, v => x :: setNth xs i v

/-- The smallest number of a list satisfying nothing further, if any. -/
def minOf : List Nat → Option Nat
  | [] => none
  | x :: xs => match minOf xs with
    | none => some x
    | some y => some (min x y)

end Sys2Proof
end

