-- ==== Sys2Proof/Config.lean ====
section
/-! DEFINITION. What an implementation fixes and the free values the spec leaves open: constants without a body,
so that no statement can rest on what they are. -/

namespace Sys2Proof

/-- A free byte, the n-th one taken (log 6). -/
opaque Config.freeByte : Nat → BitVec 8

/-- A free 32-bit value, the n-th one taken (log 6). -/
opaque Config.freeWord : Nat → BitVec 32

/-- A free choice among the numbers below the second argument, where the spec allows several outcomes (log 6, log 8). -/
opaque Config.freeChoice : Nat → Nat → Nat

/-- Encryption of a 16-byte block under a 256-bit key with its canonical address as the tweak (R253, log 7). -/
opaque Config.encipher : Nat → Nat → BitVec 128 → BitVec 128

/-- Decryption of such a block (R253, log 7). -/
opaque Config.decipher : Nat → Nat → BitVec 128 → BitVec 128

/-- Which of the values of an ack-lost byte a page walk reads: the n-th free value, the byte's address, how many values there are
(R232, log 6). -/
opaque Config.lostPick : Nat → Nat → Nat → Nat

/-- The 32-bit link identifier of a station (R359, log 53). -/
opaque Config.linkId : Nat → BitVec 32

/-- Flits beyond the first one that carry a request of a number of bytes (R359, log 53). -/
opaque Config.moreFlits : Nat → Nat

/-- The secret fused into a part at its manufacture (R413, log 11). -/
opaque Config.fusedSecret : List (BitVec 8)

/-- The private key of the ML-DSA-44 pair that is derived from a secret (R413, log 11). -/
opaque Config.privateKey : List (BitVec 8) → List (BitVec 8)

/-- The 1312-byte public key of that pair (R413, log 11). -/
opaque Config.publicKey : List (BitVec 8) → List (BitVec 8)

/-- The certificate chain by which Klomerat certifies a public key (R413, log 11). -/
opaque Config.certChain : List (BitVec 8) → List (BitVec 8)

/-- The 2420-byte ML-DSA-44 signature under a private key, in pure mode with an empty context string, of a message (R413, log 11). -/
opaque Config.signature : List (BitVec 8) → List (BitVec 8) → List (BitVec 8)

/-- The message that SPDM 1.2 forms for signing, of the requester's offers, its nonce and the measurement blocks (R413, log 11). -/
opaque Config.spdmMessage : List Nat → Nat → List (List (BitVec 8)) → List (BitVec 8)

/-- Spare rows a stack's base die is built with (R409, log 10). -/
opaque Config.spareRows : Nat → Nat

/-- Rows a bank of a stack holds (R409, log 10). -/
opaque Config.rowsOfBank : Nat → Nat → List Nat

/-- Bytes of one HBM row (R409, log 10). -/
opaque Config.rowBytes : Nat

/-- The host physical address that the HDM decoder registers, as the host has programmed them, assign to an HDM offset (R394, log 17). -/
opaque Config.hdmDecode : Nat → Nat → Nat

end Sys2Proof
end

