-- ==== Sys2Proof/Syntax.lean ====
section
/-! DEFINITION. The instructions of the D16: one constructor per row of spec/opcode_table.json.
Three kinds of row: steps of the device, the host and the management that no program word encodes (their arguments name
what they act on and carry what comes from outside the package), instructions of groups, and instructions of barges. -/

namespace Sys2Proof

/-- The fields of a base word with LEN 00 (R84). -/
structure BaseForm where
  /-- guard negate, bit [11] -/
  neg : Bool
  /-- guard, bits [10:8]: 0 to 6 name a predicate, 7 is always -/
  guard : BitVec 3
  /-- destination, bits [17:12] -/
  d : BitVec 6
  /-- source A, bits [23:18] -/
  a : BitVec 6
  /-- source B, bits [29:24] -/
  b : BitVec 6
  deriving DecidableEq, Repr

/-- The fields of the extended forms (R85), and of a base word with a literal (LEN 10), whose register fields stand here
as the operand names they mean (R95). -/
structure ExtForm where
  /-- base word followed by a literal (LEN 10) -/
  short : Bool
  neg : Bool
  guard : BitVec 3
  /-- type code, minor [15:12] (R86) -/
  ty : BitVec 4
  /-- destination operand name -/
  d : BitVec 11
  /-- source A operand name, or a plain number where the instruction says so -/
  a : BitVec 11
  /-- source B operand name -/
  b : BitVec 11
  /-- source C operand name -/
  c : BitVec 11
  /-- modifiers, word 1 [31:22] (R87) -/
  mods : BitVec 10
  /-- precondition mask, word 2 [31:16] (R88) -/
  mask : BitVec 16
  /-- output-token valid, word 2 [15] -/
  outv : Bool
  /-- output token, word 2 [14:11] -/
  out : BitVec 4
  /-- the literal, where the form has one (R82) -/
  lit : Option (BitVec 64)
  deriving DecidableEq, Repr

/-- The fields of a barge word (R268). -/
structure BargeForm where
  d : BitVec 4
  a : BitVec 4
  b : BitVec 4
  /-- bit [45]: the immediate replaces register B -/
  i : Bool
  /-- opcode-specific control, bits [44:32] -/
  x : BitVec 13
  /-- immediate, displacement or mask, bits [31:0] -/
  imm : BitVec 32
  deriving DecidableEq, Repr

/-- What a peer package asks of an export window (R361). -/
inductive PodKind where
  /-- a load (`rld`) -/
  | read
  /-- a store (`put`) -/
  | write
  /-- the 8-byte counter add of a put (R366) -/
  | counter
  /-- an atomic (`ratom`): op code of R214 and type code of R86 -/
  | atomic (op ty : Nat)
  deriving DecidableEq, Repr

/-- An incoming request of a peer (R361). -/
structure PodRequest where
  peer : Nat
  kind : PodKind
  /-- window offset, bits [37:0] of the space-5 address -/
  off : Nat
  /-- bytes, 1 to 256 -/
  size : Nat
  /-- data, operand or addend, little-endian -/
  data : Nat
  /-- compare value of `.cas` -/
  cmp : Nat
  /-- store mode: true is `.ga` -/
  ga : Bool
  /-- the station it comes in by, and the check values of its sectors as they cross (R360) -/
  station : Nat
  checks : List Nat
  deriving DecidableEq, Repr

/-- What comes back from peers for a lane: its bytes, little-endian, and the check values of their sectors as they cross (R360). -/
structure FarData where
  data : Nat
  checks : List Nat
  deriving DecidableEq, Repr

/-- The instructions and steps of the D16, one constructor per row of spec/opcode_table.json. -/
inductive Instr where
  /-- RESET (R416) -/
  | reset
  /-- BOOT_STAGE_LOAD (R412) -/
  | bootStageLoad (stage version : Nat) (image : List Nat)
  /-- THERMAL_SHUTDOWN (R408) -/
  | thermalShutdown (sensor deg : Nat)
  /-- POWER_SAMPLE (R407) -/
  | powerSample (milliwatts : Nat)
  /-- GET_MEASUREMENTS (R413) -/
  | getMeasurements (transport nonce : Nat)
  /-- NEGOTIATE_ALGORITHMS (R413) -/
  | negotiateAlgorithms (transport : Nat) (offers : List Nat)
  /-- SECURE_SESSION (R414) -/
  | secureSession (chainsToAnchor bothAuth : Bool)
  /-- SET_POD_IDENTIFIER (R357) -/
  | setPodIdentifier (id : Nat)
  /-- SET_EXPORT_SEGMENT (R361) -/
  | setExportSegment (idx entry : Nat)
  /-- KEY_SLOT_LOAD (R255) -/
  | keySlotLoad (slot : Nat) (key : Option Nat)
  /-- STATION_KEY_LOAD (R359) -/
  | stationKeyLoad (station dir key : Nat)
  /-- IDE_KEY_LOAD (R384) -/
  | ideKeyLoad (port key : Nat)
  /-- SET_HDM_KEY (R394) -/
  | setHdmKey (slot : Option Nat)
  /-- SET_SPACE3_WINDOW (R396) -/
  | setSpace3Window (port base limit : Nat)
  /-- SET_PRIVILEGE_MASK (R393) -/
  | setPrivilegeMask (mask : Nat)
  /-- SET_HOT_THRESHOLD (R41) -/
  | setHotThreshold (core deg : Nat)
  /-- SET_RESERVE_MARKS (R44) -/
  | setReserveMarks (die high low : Nat)
  /-- SET_RETIREMENT_THRESHOLD (R409) -/
  | setRetirementThreshold (kind n : Nat)
  /-- SET_POWER_LIMIT (R407) -/
  | setPowerLimit (watts : Nat)
  /-- DYNAMIC_CAPACITY_EXTENT (R384) -/
  | dynamicCapacityExtent (port : Nat) (add : Bool) (base len : Nat)
  /-- CORE_TEMPERATURE_READING (R41) -/
  | coreTemperatureReading (core deg : Nat)
  /-- DROOP_EVENT (R42) -/
  | droopEvent (core : Nat)
  /-- DROOP_QUIET (R42) -/
  | droopQuiet (core : Nat)
  /-- RESERVE_GROW (R44) -/
  | reserveGrow (die : Nat)
  /-- RESERVE_SHRINK (R44) -/
  | reserveShrink (die : Nat)
  /-- QUEUE_ENABLE (R387) -/
  | queueEnable (q size val : Nat)
  /-- QUEUE_DISABLE (R387) -/
  | queueDisable (q size val : Nat)
  /-- QTAIL_WRITE (R388) -/
  | qtailWrite (q size val : Nat)
  /-- REGISTER_WRITE (R385) -/
  | registerWrite (off size val : Nat)
  /-- PRE_EMPT (R389) -/
  | preEmpt (q launchid : Nat)
  /-- RESUME (R389) -/
  | resume (q launchid : Nat)
  /-- CANCEL (R389) -/
  | cancel (q launchid : Nat)
  /-- QCMD_INVALID_OP (R390) -/
  | qcmdInvalidOp (q op launchid : Nat)
  /-- HALT (R323) -/
  | halt
  /-- DEBUG_RESUME (R323) -/
  | debugResume
  /-- READ_REGISTER (R323) -/
  | readRegister
  /-- WRITE_REGISTER (R323) -/
  | writeRegister
  /-- FORCE_WRITE (R323) -/
  | forceWrite
  /-- READ_SPECIAL (R323) -/
  | readSpecial
  /-- DELIVER (R323) -/
  | deliver
  /-- SET_BREAKPOINT (R323) -/
  | setBreakpoint
  /-- STEP (R324) -/
  | step
  /-- UNCLAIMED_REQUEST (R395) -/
  | unclaimedRequest (addr : Nat)
  /-- HOST_HDM_READ (R394) -/
  | hostHdmRead (off : Nat)
  /-- HOST_HDM_WRITE (R394) -/
  | hostHdmWrite (off data mask : Nat)
  /-- HOST_WRITE_BACK (R398) -/
  | hostWriteBack (off data : Nat)
  /-- BISNP_RECEIVED (R396) -/
  | bisnpReceived (port off : Nat) (after : Option Nat)
  /-- HOST_SNOOP (R396) -/
  | hostSnoop (addr : Nat) (inv : Bool) (after : Option Nat)
  /-- RING_ENTRY_READ (R388) -/
  | ringEntryRead (q : Nat)
  /-- LAUNCH_TAKE (R417) -/
  | launchTake (q : Nat)
  /-- EDGE_SATISFY (R34) -/
  | edgeSatisfy (launch edge : Nat)
  /-- DISPATCH_BEGIN (R417) -/
  | dispatchBegin (q : Nat)
  /-- CLUSTER_REQUEST (R37) -/
  | clusterRequest (die col row : Nat)
  /-- CLUSTER_RELEASE (R37) -/
  | clusterRelease (cluster : Nat)
  /-- LAUNCH_COMPLETE (R36) -/
  | launchComplete (launch : Nat)
  /-- RACQ_GRANT (R47) -/
  | racqGrant (core : Nat)
  /-- MWAIT_DEADLINE (R151) -/
  | mwaitDeadline (grp mask : Nat)
  /-- SPECIAL_FUNCTION_LAND (R126) -/
  | specialFunctionLand (op : Nat)
  /-- SHUFFLE_LAND (R160) -/
  | shuffleLand (op : Nat)
  /-- SCRATCHPAD_LOAD_LAND (R197) -/
  | scratchpadLoadLand (op : Nat)
  /-- SCRATCHPAD_ATOMIC_LAND (R198) -/
  | scratchpadAtomicLand (op : Nat)
  /-- QUEUE_READ_LAND (R280) -/
  | queueReadLand (op : Nat)
  /-- POSTED_WRITE_LAND (R200) -/
  | postedWriteLand (op lane : Nat)
  /-- CPUT_INCREMENT (R199) -/
  | cputIncrement (op team : Nat)
  /-- HELD_OPERATION_START (R173) -/
  | heldOperationStart (op : Nat)
  /-- GLOBAL_ACCESS_RETIRE (R218) -/
  | globalAccessRetire (op : Nat)
  /-- DIE_SCRATCHPAD_RETIRE (R200) -/
  | dieScratchpadRetire (op : Nat)
  /-- CHAMBER_ARRIVE (R181) -/
  | chamberArrive (op : Nat)
  /-- ACK_LOST (R222) -/
  | ackLost (op : Nat)
  /-- WATCHDOG (R322) -/
  | watchdog (grp : Nat)
  /-- ADDRESS_BREAKPOINT (R323) -/
  | addressBreakpoint (grp : Nat)
  /-- HANDLER_ENTRY (R316) -/
  | handlerEntry (grp : Nat)
  /-- PAGE_WALK (R245) -/
  | pageWalk (core asid va kind : Nat)
  /-- RUN_AHEAD_FETCH (R250) -/
  | runAheadFetch (core asid va : Nat)
  /-- EF_STORE_FORWARD (R228) -/
  | efStoreForward (agent : Nat)
  /-- GA_STORE_ACKNOWLEDGE (R229) -/
  | gaStoreAcknowledge (op k : Nat)
  /-- WC_ENTRY_TIMEOUT (R363) -/
  | wcEntryTimeout (core peer line : Nat)
  /-- SLUICE_WINDOW (R303) -/
  | sluiceWindow (core : Nat)
  /-- MATRIX_OPERATION_START (R300) -/
  | matrixOperationStart (core : Nat)
  /-- MATRIX_OPERATION_RETIRE (R295) -/
  | matrixOperationRetire (core : Nat)
  /-- MMAC_RENDEZVOUS (R296) -/
  | mmacRendezvous (cluster tile : Nat)
  /-- MMAC_MULTICAST_LANDED (R296) -/
  | mmacMulticastLanded (cluster tile : Nat)
  /-- TILE_STORE_ZEROED (R288) -/
  | tileStoreZeroed (core : Nat)
  /-- MATRIX_QUEUE_PARK (R306) -/
  | matrixQueuePark (core : Nat)
  /-- BARGE_FAULT (R284) -/
  | bargeFault (barge : Nat)
  /-- BARGE_PARK (R285) -/
  | bargePark (barge : Nat)
  /-- ACC_PERFORM (R345) -/
  | accPerform (slot : Nat)
  /-- CLOSE_PERFORM (R345) -/
  | closePerform (slot : Nat)
  /-- NMV_RUN (R354) -/
  | nmvRun (op : Nat)
  /-- QFLUSH_RETIRE (R352) -/
  | qflushRetire (op : Nat)
  /-- PUT_RETIRE (R366); `fail`: what failed at a peer, its cause in [4:0] and above it a bit for each failed part, 2·lane + index,
  with bit 64 for the counter add -/
  | putRetire (op : Nat) (fail : Option Nat)
  /-- REMOTE_ACCESS_RETIRE (R366); `fail` as in PUT_RETIRE, `data`: what each active lane reads, in lane order -/
  | remoteAccessRetire (op : Nat) (fail : Option Nat) (data : List FarData)
  /-- INCOMING_POD_REQUEST (R361) -/
  | incomingPodRequest (req : PodRequest)
  /-- STATION_STOP (R358) -/
  | stationStop (station : Nat)
  /-- STATION_START (R358) -/
  | stationStart (station : Nat)
  /-- FLIT_AUTH_FAILURE (R359) -/
  | flitAuthFailure (station : Nat)
  /-- STATION_NONCE_EXHAUSTED (R359) -/
  | stationNonceExhausted (station : Nat)
  /-- CLPLAN_RUN (R372) -/
  | clplanRun (op : Nat)
  /-- CLGO_RENDEZVOUS (R372) -/
  | clgoRendezvous (op : Nat)
  /-- CHUNK_ARRIVAL (R374) -/
  | chunkArrival (op pos chunk : Nat) (data : FarData)
  /-- PLAN_ABORT (R375) -/
  | planAbort (op cause : Nat)
  /-- ABORT_NOTICE_ARRIVAL (R375) -/
  | abortNoticeArrival (tag sender cause : Nat)
  /-- CLGO_COMPLETE (R372) -/
  | clgoComplete (op : Nat)
  /-- RRING_RUN (R376) -/
  | rringRun (op : Nat)
  /-- RRING_PACKET_ARRIVAL (R376) -/
  | rringPacketArrival (packet : Nat)
  /-- HUB_LINK_FAILURE (R12) -/
  | hubLinkFailure (die : Nat)
  /-- HUB_LINK_RESTORED (R13) -/
  | hubLinkRestored (die : Nat)
  /-- LANE_RETIREMENT (R409) -/
  | laneRetirement (kind idx width : Nat)
  /-- CORE_RETIRE (R409) -/
  | coreRetire (core : Nat)
  /-- CORE_RETIREMENT_COMPLETE (R409) -/
  | coreRetirementComplete (core : Nat)
  /-- CORE_UNCORRECTABLE (R409) -/
  | coreUncorrectable (core : Nat)
  /-- SLICE_FLUSH (R257) -/
  | sliceFlush (die slice : Nat) (unreadable : List Nat)
  /-- SLICE_MAP_SWITCH (R257) -/
  | sliceMapSwitch (die : Nat)
  /-- CORE_MAP_ADOPT (R257) -/
  | coreMapAdopt (core : Nat)
  /-- SLICE_END (R257) -/
  | sliceEnd (die : Nat)
  /-- HBM_ROW_RETIRE (R409) -/
  | hbmRowRetire (stack row : Nat)
  /-- HBM_BANK_RETIRE (R409) -/
  | hbmBankRetire (stack bank : Nat)
  /-- BIAS_FLIP_HOST (R399) -/
  | biasFlipHost (granule : Nat)
  /-- BIAS_FLIP_DEVICE (R400) -/
  | biasFlipDevice (granule : Nat)
  /-- IADD (R116) -/
  | iadd (f : BaseForm)
  /-- IADD_X (R116) -/
  | iaddX (f : ExtForm)
  /-- ISUB (R116) -/
  | isub (f : BaseForm)
  /-- ISUB_X (R116) -/
  | isubX (f : ExtForm)
  /-- IMUL (R116) -/
  | imul (f : BaseForm)
  /-- IMUL_X (R116) -/
  | imulX (f : ExtForm)
  /-- IMAD (R116) -/
  | imad (f : ExtForm)
  /-- IMULH (R116) -/
  | imulh (f : ExtForm)
  /-- IMIN (R116) -/
  | imin (f : ExtForm)
  /-- IMAX (R116) -/
  | imax (f : ExtForm)
  /-- IABS (R116) -/
  | iabs (f : ExtForm)
  /-- INEG (R116) -/
  | ineg (f : ExtForm)
  /-- IADDC (R117) -/
  | iaddc (f : ExtForm)
  /-- AND (R118) -/
  | and (f : BaseForm)
  /-- AND_X (R118) -/
  | andX (f : ExtForm)
  /-- OR (R118) -/
  | or (f : BaseForm)
  /-- OR_X (R118) -/
  | orX (f : ExtForm)
  /-- XOR (R118) -/
  | xor (f : BaseForm)
  /-- XOR_X (R118) -/
  | xorX (f : ExtForm)
  /-- NOT (R118) -/
  | not (f : BaseForm)
  /-- NOT_X (R118) -/
  | notX (f : ExtForm)
  /-- BFN3 (R118) -/
  | bfn3 (f : ExtForm)
  /-- SHL (R119) -/
  | shl (f : BaseForm)
  /-- SHL_X (R119) -/
  | shlX (f : ExtForm)
  /-- SHR (R119) -/
  | shr (f : BaseForm)
  /-- SHR_X (R119) -/
  | shrX (f : ExtForm)
  /-- SAR (R119) -/
  | sar (f : BaseForm)
  /-- SAR_X (R119) -/
  | sarX (f : ExtForm)
  /-- ROT (R119) -/
  | rot (f : BaseForm)
  /-- ROT_X (R119) -/
  | rotX (f : ExtForm)
  /-- POPC (R119) -/
  | popc (f : ExtForm)
  /-- CLZ (R119) -/
  | clz (f : ExtForm)
  /-- BREV (R119) -/
  | brev (f : ExtForm)
  /-- BFE (R120) -/
  | bfe (f : ExtForm)
  /-- BFI (R120) -/
  | bfi (f : ExtForm)
  /-- ICMP (R121) -/
  | icmp (f : BaseForm)
  /-- ICMP_X (R121) -/
  | icmpX (f : ExtForm)
  /-- ICMPC (R121) -/
  | icmpc (f : ExtForm)
  /-- MOV (R122) -/
  | mov (f : BaseForm)
  /-- MOV_X (R122) -/
  | movX (f : ExtForm)
  /-- MOV_QUEUE_WRITE (R280) -/
  | movQueueWrite (f : ExtForm)
  /-- MOV_QUEUE_READ (R280) -/
  | movQueueRead (f : ExtForm)
  /-- NM_PUSH (R343) -/
  | nmPush (f : ExtForm)
  /-- NM_TAKE (R344) -/
  | nmTake (f : ExtForm)
  /-- SEL (R122) -/
  | sel (f : ExtForm)
  /-- MOVS (R122) -/
  | movs (f : BaseForm)
  /-- MOVS_X (R122) -/
  | movsX (f : ExtForm)
  /-- BCAST (R122) -/
  | bcast (f : BaseForm)
  /-- BCAST_X (R122) -/
  | bcastX (f : ExtForm)
  /-- MOVP (R122) -/
  | movp (f : ExtForm)
  /-- PERM (R123) -/
  | perm (f : ExtForm)
  /-- LEA (R123) -/
  | lea (f : BaseForm)
  /-- LEA_X (R123) -/
  | leaX (f : ExtForm)
  /-- FADD (R128) -/
  | fadd (f : BaseForm)
  /-- FADD_X (R128) -/
  | faddX (f : ExtForm)
  /-- FMUL (R128) -/
  | fmul (f : BaseForm)
  /-- FMUL_X (R128) -/
  | fmulX (f : ExtForm)
  /-- FFMA (R128) -/
  | ffma (f : ExtForm)
  /-- FMIN (R128) -/
  | fmin (f : BaseForm)
  /-- FMIN_X (R128) -/
  | fminX (f : ExtForm)
  /-- FMAX (R128) -/
  | fmax (f : ExtForm)
  /-- FSUB (R128) -/
  | fsub (f : ExtForm)
  /-- FCMP (R129) -/
  | fcmp (f : BaseForm)
  /-- FCMP_X (R129) -/
  | fcmpX (f : ExtForm)
  /-- FCLASS (R130) -/
  | fclass (f : ExtForm)
  /-- FRCP (R131) -/
  | frcp (f : BaseForm)
  /-- FRCP_X (R131) -/
  | frcpX (f : ExtForm)
  /-- FRSQ (R131) -/
  | frsq (f : BaseForm)
  /-- FRSQ_X (R131) -/
  | frsqX (f : ExtForm)
  /-- FSQRT (R131) -/
  | fsqrt (f : BaseForm)
  /-- FSQRT_X (R131) -/
  | fsqrtX (f : ExtForm)
  /-- FEXP2 (R131) -/
  | fexp2 (f : BaseForm)
  /-- FEXP2_X (R131) -/
  | fexp2X (f : ExtForm)
  /-- FLOG2 (R131) -/
  | flog2 (f : ExtForm)
  /-- FSIN (R131) -/
  | fsin (f : ExtForm)
  /-- FCOS (R131) -/
  | fcos (f : ExtForm)
  /-- FTANH (R131) -/
  | ftanh (f : ExtForm)
  /-- HADD2 (R128) -/
  | hadd2 (f : BaseForm)
  /-- HADD2_X (R128) -/
  | hadd2X (f : ExtForm)
  /-- HMUL2 (R128) -/
  | hmul2 (f : BaseForm)
  /-- HMUL2_X (R128) -/
  | hmul2X (f : ExtForm)
  /-- HFMA2 (R128) -/
  | hfma2 (f : ExtForm)
  /-- HMIN2 (R128) -/
  | hmin2 (f : BaseForm)
  /-- HMIN2_X (R128) -/
  | hmin2X (f : ExtForm)
  /-- HMAX2 (R128) -/
  | hmax2 (f : ExtForm)
  /-- DADD (R128) -/
  | dadd (f : BaseForm)
  /-- DADD_X (R128) -/
  | daddX (f : ExtForm)
  /-- DMUL (R128) -/
  | dmul (f : BaseForm)
  /-- DMUL_X (R128) -/
  | dmulX (f : ExtForm)
  /-- DFMA (R128) -/
  | dfma (f : ExtForm)
  /-- DCMP (R129) -/
  | dcmp (f : BaseForm)
  /-- DCMP_X (R129) -/
  | dcmpX (f : ExtForm)
  /-- DMIN (R128) -/
  | dmin (f : ExtForm)
  /-- DMAX (R128) -/
  | dmax (f : ExtForm)
  /-- CVT (R132) -/
  | cvt (f : BaseForm)
  /-- CVT_X (R132) -/
  | cvtX (f : ExtForm)
  /-- CPACK (R134) -/
  | cpack (f : BaseForm)
  /-- CPACK_X (R134) -/
  | cpackX (f : ExtForm)
  /-- CUNPK (R135) -/
  | cunpk (f : BaseForm)
  /-- CUNPK_X (R135) -/
  | cunpkX (f : ExtForm)
  /-- FRND (R133) -/
  | frnd (f : BaseForm)
  /-- FRND_X (R133) -/
  | frndX (f : ExtForm)
  /-- SHF (R159) -/
  | shf (f : BaseForm)
  /-- SHF_X (R159) -/
  | shfX (f : ExtForm)
  /-- SHFUP (R159) -/
  | shfup (f : BaseForm)
  /-- SHFUP_X (R159) -/
  | shfupX (f : ExtForm)
  /-- SHFDN (R159) -/
  | shfdn (f : BaseForm)
  /-- SHFDN_X (R159) -/
  | shfdnX (f : ExtForm)
  /-- SHFX (R159) -/
  | shfx (f : BaseForm)
  /-- SHFX_X (R159) -/
  | shfxX (f : ExtForm)
  /-- VALL (R161) -/
  | vall (f : BaseForm)
  /-- VALL_X (R161) -/
  | vallX (f : ExtForm)
  /-- VANY (R161) -/
  | vany (f : BaseForm)
  /-- VANY_X (R161) -/
  | vanyX (f : ExtForm)
  /-- VBAL (R161) -/
  | vbal (f : BaseForm)
  /-- VBAL_X (R161) -/
  | vbalX (f : ExtForm)
  /-- VMATCH (R161) -/
  | vmatch (f : BaseForm)
  /-- VMATCH_X (R161) -/
  | vmatchX (f : ExtForm)
  /-- VUNI (R161) -/
  | vuni (f : ExtForm)
  /-- GRED (R162) -/
  | gred (f : BaseForm)
  /-- GRED_X (R162) -/
  | gredX (f : ExtForm)
  /-- GSCAN (R163) -/
  | gscan (f : BaseForm)
  /-- GSCAN_X (R163) -/
  | gscanX (f : ExtForm)
  /-- BRA (R146) -/
  | bra (f : BaseForm)
  /-- BRA_X (R146) -/
  | braX (f : ExtForm)
  /-- BRX (R146) -/
  | brx (f : BaseForm)
  /-- BRX_X (R146) -/
  | brxX (f : ExtForm)
  /-- CALL (R146) -/
  | call (f : BaseForm)
  /-- CALL_X (R146) -/
  | callX (f : ExtForm)
  /-- RET (R146) -/
  | ret (f : BaseForm)
  /-- RET_X (R146) -/
  | retX (f : ExtForm)
  /-- JOIN (R149) -/
  | join (f : ExtForm)
  /-- LEAVE (R149) -/
  | leave (f : ExtForm)
  /-- MWAIT (R150) -/
  | mwait (f : ExtForm)
  /-- MWAIT_BOUNDED (R150) -/
  | mwaitBounded (f : ExtForm)
  /-- ELECT (R152) -/
  | elect (f : ExtForm)
  /-- MSET (R149) -/
  | mset (f : ExtForm)
  /-- MGET (R149) -/
  | mget (f : ExtForm)
  /-- EXIT (R154) -/
  | exit (f : BaseForm)
  /-- EXIT_X (R154) -/
  | exitX (f : ExtForm)
  /-- NOP (R154) -/
  | nop (f : BaseForm)
  /-- NOP_X (R154) -/
  | nopX (f : ExtForm)
  /-- YIELD (R154) -/
  | yield (f : BaseForm)
  /-- YIELD_X (R154) -/
  | yieldX (f : ExtForm)
  /-- LDS (R197) -/
  | lds (f : BaseForm)
  /-- LDS_X (R197) -/
  | ldsX (f : ExtForm)
  /-- STS (R197) -/
  | sts (f : BaseForm)
  /-- STS_X (R197) -/
  | stsX (f : ExtForm)
  /-- ATMS (R198) -/
  | atms (f : ExtForm)
  /-- LDL (R197) -/
  | ldl (f : BaseForm)
  /-- LDL_X (R197) -/
  | ldlX (f : ExtForm)
  /-- STL (R197) -/
  | stl (f : BaseForm)
  /-- STL_X (R197) -/
  | stlX (f : ExtForm)
  /-- LDC (R197) -/
  | ldc (f : ExtForm)
  /-- STC (R197) -/
  | stc (f : ExtForm)
  /-- CPUT (R199) -/
  | cput (f : ExtForm)
  /-- ATMC (R198) -/
  | atmc (f : ExtForm)
  /-- LDD (R197) -/
  | ldd (f : ExtForm)
  /-- STD (R197) -/
  | std (f : ExtForm)
  /-- LDG (R216) -/
  | ldg (f : ExtForm)
  /-- STG (R216) -/
  | stg (f : ExtForm)
  /-- ATG (R216) -/
  | atg (f : ExtForm)
  /-- REDG (R216) -/
  | redg (f : ExtForm)
  /-- PREF (R223) -/
  | pref (f : ExtForm)
  /-- CCLEAN (R223) -/
  | cclean (f : ExtForm)
  /-- CINVAL (R223) -/
  | cinval (f : ExtForm)
  /-- TWAIT (R176) -/
  | twait (f : ExtForm)
  /-- TTEST (R176) -/
  | ttest (f : ExtForm)
  /-- TSLEEP (R176) -/
  | tsleep (f : ExtForm)
  /-- TEXP (R177) -/
  | texp (f : ExtForm)
  /-- TJOIN (R178) -/
  | tjoin (f : ExtForm)
  /-- TCLR (R178) -/
  | tclr (f : ExtForm)
  /-- TSIG (R178) -/
  | tsig (f : ExtForm)
  /-- CHINI (R184) -/
  | chini (f : ExtForm)
  /-- CHARR (R184) -/
  | charr (f : ExtForm)
  /-- CHWAIT (R184) -/
  | chwait (f : ExtForm)
  /-- CHTEST (R184) -/
  | chtest (f : ExtForm)
  /-- NBARR (R204) -/
  | nbarr (f : ExtForm)
  /-- NBWAIT (R204) -/
  | nbwait (f : ExtForm)
  /-- NBSYNC (R204) -/
  | nbsync (f : ExtForm)
  /-- SINC (R208) -/
  | sinc (f : BaseForm)
  /-- SINC_X (R208) -/
  | sincX (f : ExtForm)
  /-- SWAIT (R208) -/
  | swait (f : BaseForm)
  /-- SWAIT_X (R208) -/
  | swaitX (f : ExtForm)
  /-- SREAD (R208) -/
  | sread (f : BaseForm)
  /-- SREAD_X (R208) -/
  | sreadX (f : ExtForm)
  /-- FENCE (R238) -/
  | fence (f : ExtForm)
  /-- TFENCE (R239) -/
  | tfence (f : ExtForm)
  /-- ACQR (R240) -/
  | acqr (f : ExtForm)
  /-- RACQ (R110) -/
  | racq (f : BaseForm)
  /-- RACQ_X (R110) -/
  | racqX (f : ExtForm)
  /-- RREL (R110) -/
  | rrel (f : BaseForm)
  /-- RREL_X (R110) -/
  | rrelX (f : ExtForm)
  /-- SRD (R111) -/
  | srd (f : ExtForm)
  /-- SWR (R111) -/
  | swr (f : ExtForm)
  /-- SWR_TOK (R185) -/
  | swrTok (f : ExtForm)
  /-- SWR_TOKX (R185) -/
  | swrTokx (f : ExtForm)
  /-- SWR_MX_Q (R307) -/
  | swrMxQ (f : ExtForm)
  /-- SWR_MX_BUDGET (R303) -/
  | swrMxBudget (f : ExtForm)
  /-- BGO (R264) -/
  | bgo (f : ExtForm)
  /-- BSTOP (R265) -/
  | bstop (f : ExtForm)
  /-- BRES (R266) -/
  | bres (f : ExtForm)
  /-- BRES_LD (R266) -/
  | bresLd (f : ExtForm)
  /-- BSTAT (R267) -/
  | bstat (f : ExtForm)
  /-- MXRES (R287) -/
  | mxres (f : ExtForm)
  /-- MXREL (R287) -/
  | mxrel (f : ExtForm)
  /-- MXSIGN (R292) -/
  | mxsign (f : ExtForm)
  /-- MMA (R295) -/
  | mma (f : ExtForm)
  /-- MMAC (R296) -/
  | mmac (f : ExtForm)
  /-- MXCLR (R298) -/
  | mxclr (f : ExtForm)
  /-- MXLD (R298) -/
  | mxld (f : ExtForm)
  /-- MXST (R298) -/
  | mxst (f : ExtForm)
  /-- MXSCL (R299) -/
  | mxscl (f : ExtForm)
  /-- NMCFG (R350) -/
  | nmcfg (f : ExtForm)
  /-- NMV (R354) -/
  | nmv (f : ExtForm)
  /-- QPOLL (R351) -/
  | qpoll (f : ExtForm)
  /-- QFLUSH (R352) -/
  | qflush (f : ExtForm)
  /-- PUT (R366) -/
  | put (f : ExtForm)
  /-- RLD (R366) -/
  | rld (f : ExtForm)
  /-- RATOM (R366) -/
  | ratom (f : ExtForm)
  /-- WCFLUSH (R366) -/
  | wcflush (f : ExtForm)
  /-- CLPLAN (R372) -/
  | clplan (f : ExtForm)
  /-- CLGO (R372) -/
  | clgo (f : ExtForm)
  /-- RRING (R376) -/
  | rring (f : ExtForm)
  /-- TRAP (R326) -/
  | trap (f : ExtForm)
  /-- RTT_RES (R319) -/
  | rttRes (f : ExtForm)
  /-- RTT_END (R319) -/
  | rttEnd (f : ExtForm)
  /-- RTT_SAVE (R319) -/
  | rttSave (f : ExtForm)
  /-- BRK (R326) -/
  | brk (f : ExtForm)
  /-- CSYNC (R327) -/
  | csync (f : ExtForm)
  /-- ICINV (R328) -/
  | icinv (f : ExtForm)
  /-- TLBINV (R249) -/
  | tlbinv (f : ExtForm)
  /-- BIASSET (R401) -/
  | biasset (f : ExtForm)
  /-- GSYNC (R329) -/
  | gsync (f : ExtForm)
  /-- PMRD (R330) -/
  | pmrd (f : ExtForm)
  /-- BNOP (R270) -/
  | bnop (f : BargeForm)
  /-- BEND (R281) -/
  | bend (f : BargeForm)
  /-- BMOV (R270) -/
  | bmov (f : BargeForm)
  /-- BMOVI (R270) -/
  | bmovi (f : BargeForm)
  /-- BADD (R270) -/
  | badd (f : BargeForm)
  /-- BSUB (R270) -/
  | bsub (f : BargeForm)
  /-- BMUL (R270) -/
  | bmul (f : BargeForm)
  /-- BSHL (R270) -/
  | bshl (f : BargeForm)
  /-- BSHR (R270) -/
  | bshr (f : BargeForm)
  /-- BAND (R270) -/
  | band (f : BargeForm)
  /-- BOR (R270) -/
  | bor (f : BargeForm)
  /-- BCMP (R270) -/
  | bcmp (f : BargeForm)
  /-- BBR (R271) -/
  | bbr (f : BargeForm)
  /-- BJMP (R271) -/
  | bjmp (f : BargeForm)
  /-- BLOOP (R272) -/
  | bloop (f : BargeForm)
  /-- BLDI (R279) -/
  | bldi (f : BargeForm)
  /-- BQIN (R280) -/
  | bqin (f : BargeForm)
  /-- BQOUT (R280) -/
  | bqout (f : BargeForm)
  /-- BADDR (R279) -/
  | baddr (f : BargeForm)
  /-- BCOPY (R275) -/
  | bcopy (f : BargeForm)
  /-- BGATH (R276) -/
  | bgath (f : BargeForm)
  /-- BSCAT (R276) -/
  | bscat (f : BargeForm)
  /-- BPOOL (R277) -/
  | bpool (f : BargeForm)
  /-- BARR_NB (R281) -/
  | barrNb (f : BargeForm)
  /-- BARR_SC (R281) -/
  | barrSc (f : BargeForm)
  /-- BSEM (R281) -/
  | bsem (f : BargeForm)
  /-- BWAIT (R281) -/
  | bwait (f : BargeForm)
  /-- BWAIT_SC (R281) -/
  | bwaitSc (f : BargeForm)
  /-- BWAIT_NB (R281) -/
  | bwaitNb (f : BargeForm)
  /-- BFENCE (R282) -/
  | bfence (f : BargeForm)
  /-- BTOK (R281) -/
  | btok (f : BargeForm)
  /-- LONG_LATENCY_FLAG (R51) -/
  | longLatencyFlag (grp flag : Nat)
  /-- BIRSPI_RECEIVED (R400) -/
  | birspiReceived (granule line : Nat) (dirty : Option Nat)
  /-- MEMBER_RENDEZVOUS (R372) -/
  | memberRendezvous (tag kind g sbytes sender : Nat)
  /-- PORT_LINK_TRAINING (R384) -/
  | portLinkTraining (port : Nat) (cxl : Bool) (rate width : Nat)
  deriving DecidableEq, Repr

end Sys2Proof
end

