-- ==== Sys2Proof/WellFormed.lean ====
section
/-! DEFINITION. Which terms of Instr stand for an encoding of the D16: the table of R95 with the fields, types, modifiers
and token rules of every group instruction, and the used fields of every barge instruction (R270). Everything here is
what the spec makes an illegal instruction (R97); illegal operands are the concern of the meanings. -/

namespace Sys2Proof

/-- What an encoding of one operation may hold. -/
structure OpSpec where
  /-- base class: none, `v` names (false) or `s` names (true) (R95) -/
  base : Option Bool
  /-- accepted type codes, the default first; code 0 is always accepted (R86) -/
  types : List Nat
  /-- used fields: 8 destination, 4 source A, 2 source B, 1 source C -/
  fields : Nat
  /-- modifier bits that may be set, reuse bits apart -/
  mods : Nat
  /-- a precondition mask is legal (R88) -/
  mask : Bool
  /-- an output token is required; without it none is legal (R88) -/
  tok : Bool
  /-- the further rules of the instruction's own description hold -/
  ok : Bool
  deriving DecidableEq, Repr

/-- An operation on registers alone. -/
def OpSpec.reg (base : Option Bool) (types : List Nat) (fields mods : Nat) (ok : Bool) : OpSpec :=
  { base := base, types := types, fields := fields, mods := mods, mask := false, tok := false, ok := ok }

/-- An engine operation: mask allowed, output token required. -/
def OpSpec.eng (types : List Nat) (fields mods : Nat) (ok : Bool) : OpSpec :=
  { base := none, types := types, fields := fields, mods := mods, mask := true, tok := true, ok := ok }

/-- Integer type codes `.s32` `.n32` `.s64` `.n64` (R86). -/
def tyInt : List Nat := [1, 2, 3, 4]

/-- Bit type codes `.b32` `.n64`. -/
def tyBits : List Nat := [5, 4]

/-- Types of the atomics (R196, R214). -/
def tyAtomic : List Nat := [1, 2, 3, 4, 6]

/-- Size field rule of R196: codes 0 to 5, and 0 alone under `.n64`. -/
def sizeOk (ty size : Nat) : Bool := size ≤ 5 && (ty != 4 || size == 0)

/-- Majors 0x01 to 0x05 and 0x0C (R115, R124). -/
def specRegister (major idx mods : Nat) (aq : Bool) : Option OpSpec :=
  match major with
  | 1 =>
    if idx ≤ 2 then some (.reg (some false) tyInt 14 4 true)
    else if idx = 3 then some (.reg none tyInt 15 4 true)
    else if idx ≤ 6 then some (.reg none tyInt 14 0 true)
    else if idx = 7 then some (.reg none [1, 3] 12 4 true)
    else if idx = 8 then some (.reg none tyInt 12 4 true)
    else if idx = 9 then some (.reg none tyInt 15 0 true)
    else none
  | 2 =>
    if idx ≤ 2 then some (.reg (some false) tyBits 14 0 true)
    else if idx = 3 then some (.reg (some false) tyBits 12 0 true)
    else if idx = 4 then some (.reg none tyBits 15 255 true)
    else none
  | 3 =>
    if idx ≤ 3 then some (.reg (some false) tyBits 14 0 true)
    else if idx ≤ 6 then some (.reg none tyBits 12 0 true)
    else if idx = 7 then some (.reg none [5, 1, 4, 3] 14 0 true)
    else if idx = 8 then some (.reg none tyBits 15 0 true)
    else none
  | 4 =>
    if idx = 0 then some (.reg (some false) tyInt 14 7 (bits mods 0 3 ≤ 5))
    else if idx = 1 then some (.reg none tyInt 15 31 (bits mods 0 3 ≤ 5 && bits mods 3 2 ≤ 2))
    else none
  | 5 =>
    if idx = 0 then some (.reg (some false) tyBits 12 (if aq then 128 else 0) true)
    else if idx = 1 then some (.reg none tyBits 15 0 true)
    else if idx ≤ 3 then some (.reg (some false) tyBits 14 0 true)
    else if idx = 4 then some (.reg none [5] 12 128 true)
    else none
  | 12 =>
    if idx = 0 then some (.reg none [5] 15 0 true)
    else if idx = 1 then some (.reg (some false) [2, 3, 4] 14 7 true)
    else none
  | _ => none

/-- `cpack` (R127, R134, R136): type code `ty`, modifiers `mods`. -/
def specPack (ty mods : Nat) : OpSpec :=
  let types := [8, 9, 10, 11, 12, 13, 14, 1, 2]
  let slot := bits mods 4 2
  if ty = 1 ∨ ty = 2 then
    .reg (some false) types 14 60 (if bitOf mods 3 then true else slot ≤ 1)
  else
    .reg (some false) types (if bitOf mods 3 then 15 else 14) 63
      (if ty = 14 then true else if ty = 0 ∨ ty = 8 ∨ ty = 9 then slot = 0 else slot ≤ 1)

/-- `cunpk` (R127, R135, R136). -/
def specUnpack (ty mods : Nat) : OpSpec :=
  let types := [8, 9, 10, 11, 12, 13, 14, 1, 2]
  if ty = 1 ∨ ty = 2 then .reg (some false) types 14 8 true
  else .reg (some false) types (if bitOf mods 3 then 15 else 14) 15 true

/-- Majors 0x06 to 0x0B (R127, R137). -/
def specFloat (major idx ty mods : Nat) : Option OpSpec :=
  let cmp := fun (t : Nat) => OpSpec.reg (some false) [t] (if bits mods 3 2 = 0 then 14 else 15) 31 true
  match major with
  | 6 =>
    if idx ≤ 1 then some (.reg (some false) [6] 14 7 true)
    else if idx = 2 then some (.reg none [6] 15 7 true)
    else if idx = 3 then some (.reg (some false) [6] 14 0 true)
    else if idx = 4 then some (.reg none [6] 14 0 true)
    else if idx = 5 then some (.reg none [6] 14 7 true)
    else none
  | 7 =>
    if idx = 0 then some (cmp 6)
    else if idx = 1 then some (.reg none [6, 7] 14 0 true)
    else none
  | 8 =>
    if idx ≤ 3 then some (.reg (some false) [6] 12 (if idx = 0 ∨ idx = 2 then 131 else 128) true)
    else if idx ≤ 7 then some (.reg none [6] 12 128 true)
    else none
  | 9 =>
    if idx ≤ 1 then some (.reg (some false) [8, 9] 14 7 true)
    else if idx = 2 then some (.reg none [8, 9] 15 7 true)
    else if idx = 3 then some (.reg (some false) [8, 9] 14 0 true)
    else if idx = 4 then some (.reg none [8, 9] 14 0 true)
    else none
  | 10 =>
    if idx ≤ 1 then some (.reg (some false) [7] 14 7 true)
    else if idx = 2 then some (.reg none [7] 15 7 true)
    else if idx = 3 then some (cmp 7)
    else if idx ≤ 5 then some (.reg none [7] 14 0 true)
    else none
  | 11 =>
    if idx = 0 then some (.reg (some false) [6, 1, 2, 3, 4, 7, 9, 8, 10, 11, 12, 13, 14] 12 247
      (bits mods 4 4 != 5 && bits mods 4 4 != 15))
    else if idx = 1 then some (specPack ty mods)
    else if idx = 2 then some (specUnpack ty mods)
    else if idx = 3 then some (.reg (some false) [6, 7] 12 3 true)
    else none
  | _ => none

/-- The rule of R158 and R164 for the op and rounding fields of `gred` and `gscan`. -/
def redOk (ty mods : Nat) : Bool :=
  let op := bits mods 2 3
  let fl := ty == 6 || ty == 7
  op != 7 && (!fl || !(op == 3 || op == 4 || op == 5)) && (fl || op != 6) &&
    (bits mods 0 2 == 0 || (fl && op == 0))

/-- Majors 0x0D to 0x12 (R145, R148, R154, R158). -/
def specControl (major idx ty mods : Nat) : Option OpSpec :=
  match major with
  | 13 => if idx ≤ 3 then some (.reg (some false) tyBits 14 135 (bits mods 0 3 ≤ 5)) else none
  | 14 =>
    if idx ≤ 2 then some (.reg (some false) [5] 12 0 true)
    else if idx = 3 then some (.reg (some false) tyBits 12 0 true)
    else if idx = 4 then some (.reg none tyBits 12 0 true)
    else none
  | 15 =>
    if idx = 0 then some (.reg (some false) [1, 2, 3, 4, 6, 7] 12 31 (redOk ty mods))
    else if idx = 1 then some (.reg (some false) [1, 2, 3, 4, 6, 7] 12 63 (redOk ty mods))
    else none
  | 16 =>
    if idx = 0 then some (.reg (some true) [] 2 0 true)
    else if idx = 2 then some (.reg (some true) [] 10 0 true)
    else if idx ≤ 3 then some (.reg (some true) [] 4 0 true)
    else none
  | 17 =>
    if idx ≤ 1 then some (.reg none [] 8 0 true)
    else if idx = 2 then some (.reg none [] (if bitOf mods 0 then 14 else 4) 1 true)
    else if idx = 3 then some (.reg none [] 12 0 true)
    else if idx = 4 then some (.reg none [] 10 0 true)
    else if idx = 5 then some (.reg none [] 14 0 true)
    else none
  | 18 => if idx ≤ 2 then some (.reg (some true) [] 0 0 true) else none
  | _ => none

/-- The op and rounding rule of `atms` and `atmc` (R198, R210). -/
def atomicOk (ty mods : Nat) : Bool :=
  let op := bits mods 2 4
  op ≤ 7 && (ty != 6 || !(op == 3 || op == 4 || op == 5)) && (bits mods 0 2 == 0 || (ty == 6 && op == 0))

/-- The op rule of `atg`, `redg` and `ratom` (R214, R365). -/
def globalOpOk (ty mods top : Nat) : Bool :=
  let op := bits mods 0 3
  op ≤ top && (ty != 6 || !(op == 3 || op == 4 || op == 5))

/-- Majors 0x13 to 0x18 (R196, R214). -/
def specMemory (major idx ty mods : Nat) : Option OpSpec :=
  let size := sizeOk ty (bits mods 0 3)
  match major with
  | 19 =>
    if idx = 0 then some (.reg (some false) tyBits 14 135 size)
    else if idx = 1 then some (.reg (some false) tyBits 14 7 size)
    else if idx = 2 then some (.reg none tyAtomic 15 191 (atomicOk ty mods))
    else none
  | 20 =>
    if idx = 0 then some (.reg (some false) tyBits 14 135 size)
    else if idx = 1 then some (.reg (some false) tyBits 14 7 size)
    else none
  | 21 =>
    if idx = 0 then some (.reg none tyBits 14 135 size)
    else if idx = 1 then some (.reg none tyBits 14 7 size)
    else if idx = 2 then some (.reg none tyBits 15 7 size)
    else if idx = 3 then some (.reg none tyAtomic 15 191 (atomicOk ty mods))
    else none
  | 22 => if idx ≤ 1 then some (.eng tyBits 14 7 size) else none
  | 23 =>
    if idx = 0 then some (.eng tyBits 14 7 size)
    else if idx = 1 then some (.eng tyBits 14 71 size)
    else if idx = 2 then some (.eng tyAtomic 15 127 (globalOpOk ty mods 7))
    else if idx = 3 then some (.eng tyAtomic 14 127 (globalOpOk ty mods 5))
    else none
  | 24 =>
    if idx = 0 then some (.reg none [] 6 56 true)
    else if idx ≤ 2 then some (.eng [] 6 56 true)
    else none
  | _ => none

/-- Majors 0x19 to 0x1F (R175, R183, R203, R207, R238, R109, R111). -/
def specSync (major idx mods : Nat) : Option OpSpec :=
  match major with
  | 25 =>
    if idx = 0 then some (.reg none [] (if bitOf mods 7 then 14 else 6) 128 true)
    else if idx = 1 then some (.reg none [] 12 0 true)
    else if idx = 2 then some (.reg none [] 2 1 true)
    else if idx = 3 then some (.reg none [] 7 56 true)
    else if idx = 4 then some (.eng [] 0 0 true)
    else if idx = 5 then some (.reg none [] 2 0 true)
    else if idx = 6 then some { OpSpec.eng [] 2 128 true with mask := false }
    else none
  | 26 =>
    if idx = 0 then some (.reg none [] 15 56 true)
    else if idx = 1 then some (.reg none [] 7 184 true)
    else if idx = 2 then some (.reg none [] (if bitOf mods 7 then 15 else 7) 184 true)
    else if idx = 3 then some (.reg none [] 15 56 true)
    else none
  | 27 =>
    if idx = 1 then some (.reg none [] 4 0 true)
    else if idx ≤ 2 then some (.reg none [] 6 0 true)
    else none
  | 28 =>
    if idx ≤ 1 then some (.reg (some true) [] 6 0 true)
    else if idx = 2 then some (.reg (some true) [] 12 0 true)
    else none
  | 29 =>
    if idx = 0 then some (.reg none [] 0 59 (bits mods 0 2 != 0))
    else if idx = 1 then some (.reg none [] 0 56 true)
    else if idx = 2 then some (.eng tyBits 14 56 true)
    else none
  | 30 => if idx ≤ 1 then some (.reg (some true) [] 0 0 true) else none
  | 31 => if idx ≤ 1 then some (.reg none [] 12 0 true) else none
  | _ => none

/-- Majors 0x20 to 0x28 (R263, R293, R350, R365, R378, R325, R249, R401). -/
def specEngine (major idx ty mods : Nat) : Option OpSpec :=
  match major with
  | 32 =>
    if idx = 0 then some (.eng [] (if bitOf mods 7 then 15 else 7) 207 true)
    else if idx = 1 then some (.eng [] 2 0 true)
    else if idx = 2 then
      if bitOf mods 7 then some (.reg none [] 6 128 true) else some (.eng [] 2 79 true)
    else if idx = 3 then some (.reg none [] 11 0 true)
    else none
  | 33 =>
    if idx = 0 ∨ idx = 2 then some (.reg none [] 8 0 true)
    else if idx = 1 then some (.reg none [] 0 0 true)
    else none
  | 34 =>
    if idx ≤ 1 then some (.eng [8, 9, 10, 11, 12, 13, 14, 15, 1] 15
      (if ty = 1 then 192 else if ty = 15 then 56 else 0) (bits mods 3 3 ≤ 4))
    else none
  | 35 =>
    if idx = 0 then some (.eng [] 9 0 true)
    else if idx = 1 then some (.eng [5, 8, 9] 13 0 true)
    else if idx = 2 then some (.eng [5, 8, 9] 13 (if ty = 8 ∨ ty = 9 then 7 else 0) true)
    else if idx = 3 then some (.eng [] 15 0 true)
    else none
  | 36 =>
    if idx = 0 then some (.reg none [] 15 0 true)
    else if idx = 1 then some (.eng [6, 8, 10, 11] 6 0 true)
    else if idx = 2 then some (.reg none [] 12 0 true)
    else if idx = 3 then some (.eng [] 4 0 true)
    else none
  | 37 =>
    if idx = 0 then some (.eng tyBits 15 71 (sizeOk ty (bits mods 0 3)))
    else if idx = 1 then some (.eng tyBits 14 7 (sizeOk ty (bits mods 0 3)))
    else if idx = 2 then some (.eng tyAtomic 15 71 (globalOpOk ty mods 7))
    else if idx = 3 then some (.eng [] 0 0 true)
    else none
  | 38 => if idx ≤ 2 then some (.eng [] 6 0 true) else none
  | 39 =>
    if idx = 0 ∨ idx = 2 then some (.reg none [] 2 0 true)
    else if idx = 1 then some (.reg none [] 0 3 (bits mods 0 2 ≤ 2))
    else if idx = 3 then some (.reg none [] 0 1 true)
    else if idx = 4 then some (.eng [] 6 56 true)
    else if idx = 5 then
      let k := bits mods 0 2
      some (.eng [] (if k = 0 then 0 else if k = 1 then 2 else 6) 3 (k ≤ 2))
    else if idx = 6 then some (.eng [] 6 1 true)
    else if idx = 7 then some (.reg none [] 0 0 true)
    else none
  | 40 => if idx = 0 then some (.reg none [4] 12 0 true) else none
  | _ => none

/-- The row of R95 for a major and an operation index, under a type code and modifiers; `aq` says that source A names a queue. -/
def opSpec (major idx ty mods : Nat) (aq : Bool) : Option OpSpec :=
  if major ≤ 5 ∨ major = 12 then specRegister major idx mods aq
  else if major ≤ 11 then specFloat major idx ty mods
  else if major ≤ 18 then specControl major idx ty mods
  else if major ≤ 24 then specMemory major idx ty mods
  else if major ≤ 31 then specSync major idx mods
  else specEngine major idx ty mods

/-- The reuse bits [31] and [30] that an instruction accepts (R87, R111, R112), as bits 9 and 8 of the modifiers. -/
def reuseBits (major idx fields : Nat) : Nat :=
  if major = 31 then 768
  else if (1 ≤ major ∧ major ≤ 15) ∨ (19 ≤ major ∧ major ≤ 24) ∨ major = 37 ∨ major = 38 ∨ (major = 29 ∧ idx = 2) then
    (if bitOf fields 2 then 512 else 0) + (if bitOf fields 1 then 256 else 0)
  else 0

/-- Why an encoding is not an instruction: the rows of R97 whose fate is illegal instruction, and for a barge R284. -/
inductive DecodeError where
  /-- major 0x29 to 0x3F, or an operation index not listed for its major -/
  | reservedOpcode
  /-- a base word of a class or index without base form -/
  | noBaseForm
  /-- major 0x00 with LEN other than 00 -/
  | headerLength
  /-- a clause header where an instruction is decoded -/
  | header
  /-- extended word 0 bit [31] set -/
  | reservedBit
  /-- guard 7 with guard negate set -/
  | guardNegate
  /-- a type code the instruction does not accept -/
  | typeCode
  /-- a non-zero unused field -/
  | unusedField
  /-- a modifier bit or value the instruction does not define -/
  | modifier
  /-- a literal form without source B, or with a non-zero B field -/
  | literalForm
  /-- a token field used against R88 -/
  | tokenField
  /-- barge opcode 0x1C to 0x3F -/
  | bargeOpcode
  /-- fewer bits than the encoding has -/
  | short
  deriving DecidableEq, Repr

/-- The first rule of R97 that an extended form breaks, if any. -/
def ExtForm.check (major idx : Nat) (f : ExtForm) : Option DecodeError :=
  let ty := f.ty.toNat
  let mods := f.mods.toNat
  match opSpec major idx ty mods (1600 ≤ f.a.toNat && f.a.toNat ≤ 1663) with
  | none => some .reservedOpcode
  | some p =>
    if f.neg && f.guard = 7#3 then some .guardNegate
    else if ty ≠ 0 ∧ ty ∉ p.types then some .typeCode
    else if (!bitOf p.fields 3 && f.d ≠ 0#11) || (!bitOf p.fields 2 && f.a ≠ 0#11) ||
        (!bitOf p.fields 1 && f.b ≠ 0#11 ) || (!bitOf p.fields 0 && f.c ≠ 0#11) then some .unusedField
    else if mods &&& (p.mods ||| reuseBits major idx p.fields) ≠ mods then some .modifier
    else if !p.ok then some .modifier
    else if f.lit.isSome && (!bitOf p.fields 1 || f.b ≠ 0#11) then some .literalForm
    else if (!p.mask && f.mask ≠ 0#16) || (p.tok != f.outv) || (!f.outv && f.out ≠ 0#4) then some .tokenField
    else if f.short && (p.base.isNone || f.lit.isNone || f.ty ≠ 0#4 || f.mods ≠ 0#10 || f.c ≠ 0#11) then some .noBaseForm
    else none

/-- The base names of a class: `v0`–`v63` or `s0`–`s63` (R84, R95). -/
def baseName (scalar : Bool) (r : BitVec 6) : BitVec 11 :=
  if scalar then BitVec.ofNat 11 (1536 + r.toNat) else BitVec.ofNat 11 r.toNat

/-- The operation has a base form, whose registers are of this class. -/
def baseClass (major idx : Nat) : Option Bool :=
  match opSpec major idx 0 0 false with
  | some p => if idx < 4 then p.base else none
  | none => none

/-- The extended form that encodes the same instruction as a base word (R95). -/
def BaseForm.toExt (major idx : Nat) (f : BaseForm) : ExtForm :=
  let cls := (baseClass major idx).getD false
  let flds := match opSpec major idx 0 0 false with
    | some p => p.fields
    | none => 0
  { short := false, neg := f.neg, guard := f.guard, ty := 0
    d := if bitOf flds 3 then baseName cls f.d else 0
    a := if bitOf flds 2 then baseName cls f.a else 0
    b := if bitOf flds 1 then baseName cls f.b else 0
    c := 0, mods := 0, mask := 0, outv := false, out := 0, lit := none }

/-- The first rule of R97 that a base word breaks, if any. -/
def BaseForm.check (major idx : Nat) (f : BaseForm) : Option DecodeError :=
  match opSpec major idx 0 0 false with
  | none => some .reservedOpcode
  | some p =>
    if p.base.isNone || !decide (idx < 4) then some .noBaseForm
    else if f.neg && f.guard = 7#3 then some .guardNegate
    else if (!bitOf p.fields 3 && f.d ≠ 0#6) || (!bitOf p.fields 2 && f.a ≠ 0#6) ||
        (!bitOf p.fields 1 && f.b ≠ 0#6) then some .unusedField
    else none

/-- A LEN 10 form's registers are those a base word can name (R84). -/
def ExtForm.shortNames (major idx : Nat) (f : ExtForm) : Bool :=
  let cls := (baseClass major idx).getD false
  let fits := fun (n : BitVec 11) => if cls then 1536 ≤ n.toNat && n.toNat < 1600 else n.toNat < 64
  match opSpec major idx 0 0 false with
  | none => false
  | some p => !f.short || (decide (idx < 4) && (!bitOf p.fields 3 || fits f.d) && (!bitOf p.fields 2 || fits f.a))

/-- The used fields of a barge word: D, A, B, I, and the bits of X and imm (R270, R281). -/
structure BargeUse where
  d : Bool
  a : Bool
  b : Bool
  i : Bool
  x : Nat
  imm : Nat
  deriving DecidableEq, Repr

/-- The fields each barge opcode uses; for forms with B or an immediate, the one that I selects. -/
def bargeUse (op : Nat) (i : Bool) (x : Nat) : Option BargeUse :=
  let u := fun (d a b i : Bool) (x imm : Nat) => some { d := d, a := a, b := b, i := i, x := x, imm := imm : BargeUse }
  let all := 0xFFFFFFFF
  let alu := fun (x : Nat) => u true true (!i) true x (if i then all else 0)
  match op with
  | 0x00 => u false false false false 0 0
  | 0x01 => u false false false false 0 0
  | 0x02 => u true true false false 0 0
  | 0x03 => u true false false false 0x1000 all
  | 0x04 => alu 0
  | 0x05 => alu 0
  | 0x06 => alu 0
  | 0x07 => alu 0
  | 0x08 => alu 0x1000
  | 0x09 => alu 0
  | 0x0A => alu 0
  | 0x0B => alu 0x1E00
  | 0x0C => u false true false false 0x1000 all
  | 0x0D => u false (!i) false true 0 (if i then all else 0)
  | 0x0E => u false (!i) false true (if i then 0x1FFF else 0) all
  | 0x0F => u true true false false 0x1F00 all
  | 0x10 => u true false false false 0 all
  | 0x11 => u false true false false 0 all
  | 0x12 => u true true true false 0 0
  | 0x13 => u true true true false 0 0xFFF
  | 0x14 => u true true true false 0x1F00 0xFFF
  | 0x15 => u true true true false 0x1F00 0
  | 0x16 => u true true true false 0x1FFC 0
  | 0x17 =>
    if bits x 11 2 = 0 then u false false false false 0x1800 0x3F0F
    else u false true true false 0x1F80 0
  | 0x18 => u false false (!i) true 0 0x1F
  | 0x19 =>
    if bits x 11 2 = 0 then u false false (!i) true 0x1800 0x1F
    else if bits x 11 2 = 1 then u false true false false 0x1F00 1
    else u false false false false 0x1800 0x10F
  | 0x1A => u false false false false 0x700 0
  | 0x1B => u false false false false 0 0
  | _ => none

/-- The rule of R268 and R284 that a barge word breaks, if any. -/
def BargeForm.check (op : Nat) (f : BargeForm) : Option DecodeError :=
  match bargeUse op f.i f.x.toNat with
  | none => some .bargeOpcode
  | some u =>
    if (!u.d && f.d ≠ 0#4) || (!u.a && f.a ≠ 0#4) || (!u.b && f.b ≠ 0#4) || (!u.i && f.i) ||
        f.x.toNat &&& u.x ≠ f.x.toNat || f.imm.toNat &&& u.imm ≠ f.imm.toNat then some .unusedField
    else none

/-- How an instruction stands in memory: not at all, as a base word, in an extended form, or as a barge word. -/
inductive Enc where
  | step
  | base (major idx : Nat) (f : BaseForm)
  | ext (major idx : Nat) (f : ExtForm)
  | barge (op : Nat) (f : BargeForm)
  deriving DecidableEq, Repr

/-- The encoding of every instruction, by the opcode map of R95 and the table of R270. -/
def Instr.enc (i : Instr) : Enc :=
  match i with
  | .reset => .step
  | .bootStageLoad _ _ _ => .step
  | .thermalShutdown _ _ => .step
  | .powerSample _ => .step
  | .getMeasurements _ _ => .step
  | .negotiateAlgorithms _ _ => .step
  | .secureSession _ _ => .step
  | .setPodIdentifier _ => .step
  | .setExportSegment _ _ => .step
  | .keySlotLoad _ _ => .step
  | .stationKeyLoad _ _ _ => .step
  | .ideKeyLoad _ _ => .step
  | .setHdmKey _ => .step
  | .setSpace3Window _ _ _ => .step
  | .setPrivilegeMask _ => .step
  | .setHotThreshold _ _ => .step
  | .setReserveMarks _ _ _ => .step
  | .setRetirementThreshold _ _ => .step
  | .setPowerLimit _ => .step
  | .dynamicCapacityExtent _ _ _ _ => .step
  | .coreTemperatureReading _ _ => .step
  | .droopEvent _ => .step
  | .droopQuiet _ => .step
  | .reserveGrow _ => .step
  | .reserveShrink _ => .step
  | .queueEnable _ _ _ => .step
  | .queueDisable _ _ _ => .step
  | .qtailWrite _ _ _ => .step
  | .registerWrite _ _ _ => .step
  | .preEmpt _ _ => .step
  | .resume _ _ => .step
  | .cancel _ _ => .step
  | .qcmdInvalidOp _ _ _ => .step
  | .halt => .step
  | .debugResume => .step
  | .readRegister => .step
  | .writeRegister => .step
  | .forceWrite => .step
  | .readSpecial => .step
  | .deliver => .step
  | .setBreakpoint => .step
  | .step => .step
  | .unclaimedRequest _ => .step
  | .hostHdmRead _ => .step
  | .hostHdmWrite _ _ _ => .step
  | .hostWriteBack _ _ => .step
  | .bisnpReceived _ _ _ => .step
  | .hostSnoop _ _ _ => .step
  | .ringEntryRead _ => .step
  | .launchTake _ => .step
  | .edgeSatisfy _ _ => .step
  | .dispatchBegin _ => .step
  | .clusterRequest _ _ _ => .step
  | .clusterRelease _ => .step
  | .launchComplete _ => .step
  | .racqGrant _ => .step
  | .mwaitDeadline _ _ => .step
  | .specialFunctionLand _ => .step
  | .shuffleLand _ => .step
  | .scratchpadLoadLand _ => .step
  | .scratchpadAtomicLand _ => .step
  | .queueReadLand _ => .step
  | .postedWriteLand _ _ => .step
  | .cputIncrement _ _ => .step
  | .heldOperationStart _ => .step
  | .globalAccessRetire _ => .step
  | .dieScratchpadRetire _ => .step
  | .chamberArrive _ => .step
  | .ackLost _ => .step
  | .watchdog _ => .step
  | .addressBreakpoint _ => .step
  | .handlerEntry _ => .step
  | .pageWalk _ _ _ _ => .step
  | .runAheadFetch _ _ _ => .step
  | .efStoreForward _ => .step
  | .gaStoreAcknowledge _ _ => .step
  | .wcEntryTimeout _ _ _ => .step
  | .sluiceWindow _ => .step
  | .matrixOperationStart _ => .step
  | .matrixOperationRetire _ => .step
  | .mmacRendezvous _ _ => .step
  | .mmacMulticastLanded _ _ => .step
  | .tileStoreZeroed _ => .step
  | .matrixQueuePark _ => .step
  | .bargeFault _ => .step
  | .bargePark _ => .step
  | .accPerform _ => .step
  | .closePerform _ => .step
  | .nmvRun _ => .step
  | .qflushRetire _ => .step
  | .putRetire _ _ => .step
  | .remoteAccessRetire _ _ _ => .step
  | .incomingPodRequest _ => .step
  | .stationStop _ => .step
  | .stationStart _ => .step
  | .flitAuthFailure _ => .step
  | .stationNonceExhausted _ => .step
  | .clplanRun _ => .step
  | .clgoRendezvous _ => .step
  | .chunkArrival _ _ _ _ => .step
  | .planAbort _ _ => .step
  | .abortNoticeArrival _ _ _ => .step
  | .clgoComplete _ => .step
  | .rringRun _ => .step
  | .rringPacketArrival _ => .step
  | .hubLinkFailure _ => .step
  | .hubLinkRestored _ => .step
  | .laneRetirement _ _ _ => .step
  | .coreRetire _ => .step
  | .coreRetirementComplete _ => .step
  | .coreUncorrectable _ => .step
  | .sliceFlush _ _ _ => .step
  | .sliceMapSwitch _ => .step
  | .coreMapAdopt _ => .step
  | .sliceEnd _ => .step
  | .hbmRowRetire _ _ => .step
  | .hbmBankRetire _ _ => .step
  | .biasFlipHost _ => .step
  | .biasFlipDevice _ => .step
  | .iadd f => .base 0x01 0 f
  | .iaddX f => .ext 0x01 0 f
  | .isub f => .base 0x01 1 f
  | .isubX f => .ext 0x01 1 f
  | .imul f => .base 0x01 2 f
  | .imulX f => .ext 0x01 2 f
  | .imad f => .ext 0x01 3 f
  | .imulh f => .ext 0x01 4 f
  | .imin f => .ext 0x01 5 f
  | .imax f => .ext 0x01 6 f
  | .iabs f => .ext 0x01 7 f
  | .ineg f => .ext 0x01 8 f
  | .iaddc f => .ext 0x01 9 f
  | .and f => .base 0x02 0 f
  | .andX f => .ext 0x02 0 f
  | .or f => .base 0x02 1 f
  | .orX f => .ext 0x02 1 f
  | .xor f => .base 0x02 2 f
  | .xorX f => .ext 0x02 2 f
  | .not f => .base 0x02 3 f
  | .notX f => .ext 0x02 3 f
  | .bfn3 f => .ext 0x02 4 f
  | .shl f => .base 0x03 0 f
  | .shlX f => .ext 0x03 0 f
  | .shr f => .base 0x03 1 f
  | .shrX f => .ext 0x03 1 f
  | .sar f => .base 0x03 2 f
  | .sarX f => .ext 0x03 2 f
  | .rot f => .base 0x03 3 f
  | .rotX f => .ext 0x03 3 f
  | .popc f => .ext 0x03 4 f
  | .clz f => .ext 0x03 5 f
  | .brev f => .ext 0x03 6 f
  | .bfe f => .ext 0x03 7 f
  | .bfi f => .ext 0x03 8 f
  | .icmp f => .base 0x04 0 f
  | .icmpX f => .ext 0x04 0 f
  | .icmpc f => .ext 0x04 1 f
  | .mov f => .base 0x05 0 f
  | .movX f => .ext 0x05 0 f
  | .movQueueWrite f => .ext 0x05 0 f
  | .movQueueRead f => .ext 0x05 0 f
  | .nmPush f => .ext 0x05 0 f
  | .nmTake f => .ext 0x05 0 f
  | .sel f => .ext 0x05 1 f
  | .movs f => .base 0x05 2 f
  | .movsX f => .ext 0x05 2 f
  | .bcast f => .base 0x05 3 f
  | .bcastX f => .ext 0x05 3 f
  | .movp f => .ext 0x05 4 f
  | .perm f => .ext 0x0C 0 f
  | .lea f => .base 0x0C 1 f
  | .leaX f => .ext 0x0C 1 f
  | .fadd f => .base 0x06 0 f
  | .faddX f => .ext 0x06 0 f
  | .fmul f => .base 0x06 1 f
  | .fmulX f => .ext 0x06 1 f
  | .ffma f => .ext 0x06 2 f
  | .fmin f => .base 0x06 3 f
  | .fminX f => .ext 0x06 3 f
  | .fmax f => .ext 0x06 4 f
  | .fsub f => .ext 0x06 5 f
  | .fcmp f => .base 0x07 0 f
  | .fcmpX f => .ext 0x07 0 f
  | .fclass f => .ext 0x07 1 f
  | .frcp f => .base 0x08 0 f
  | .frcpX f => .ext 0x08 0 f
  | .frsq f => .base 0x08 1 f
  | .frsqX f => .ext 0x08 1 f
  | .fsqrt f => .base 0x08 2 f
  | .fsqrtX f => .ext 0x08 2 f
  | .fexp2 f => .base 0x08 3 f
  | .fexp2X f => .ext 0x08 3 f
  | .flog2 f => .ext 0x08 4 f
  | .fsin f => .ext 0x08 5 f
  | .fcos f => .ext 0x08 6 f
  | .ftanh f => .ext 0x08 7 f
  | .hadd2 f => .base 0x09 0 f
  | .hadd2X f => .ext 0x09 0 f
  | .hmul2 f => .base 0x09 1 f
  | .hmul2X f => .ext 0x09 1 f
  | .hfma2 f => .ext 0x09 2 f
  | .hmin2 f => .base 0x09 3 f
  | .hmin2X f => .ext 0x09 3 f
  | .hmax2 f => .ext 0x09 4 f
  | .dadd f => .base 0x0A 0 f
  | .daddX f => .ext 0x0A 0 f
  | .dmul f => .base 0x0A 1 f
  | .dmulX f => .ext 0x0A 1 f
  | .dfma f => .ext 0x0A 2 f
  | .dcmp f => .base 0x0A 3 f
  | .dcmpX f => .ext 0x0A 3 f
  | .dmin f => .ext 0x0A 4 f
  | .dmax f => .ext 0x0A 5 f
  | .cvt f => .base 0x0B 0 f
  | .cvtX f => .ext 0x0B 0 f
  | .cpack f => .base 0x0B 1 f
  | .cpackX f => .ext 0x0B 1 f
  | .cunpk f => .base 0x0B 2 f
  | .cunpkX f => .ext 0x0B 2 f
  | .frnd f => .base 0x0B 3 f
  | .frndX f => .ext 0x0B 3 f
  | .shf f => .base 0x0D 0 f
  | .shfX f => .ext 0x0D 0 f
  | .shfup f => .base 0x0D 1 f
  | .shfupX f => .ext 0x0D 1 f
  | .shfdn f => .base 0x0D 2 f
  | .shfdnX f => .ext 0x0D 2 f
  | .shfx f => .base 0x0D 3 f
  | .shfxX f => .ext 0x0D 3 f
  | .vall f => .base 0x0E 0 f
  | .vallX f => .ext 0x0E 0 f
  | .vany f => .base 0x0E 1 f
  | .vanyX f => .ext 0x0E 1 f
  | .vbal f => .base 0x0E 2 f
  | .vbalX f => .ext 0x0E 2 f
  | .vmatch f => .base 0x0E 3 f
  | .vmatchX f => .ext 0x0E 3 f
  | .vuni f => .ext 0x0E 4 f
  | .gred f => .base 0x0F 0 f
  | .gredX f => .ext 0x0F 0 f
  | .gscan f => .base 0x0F 1 f
  | .gscanX f => .ext 0x0F 1 f
  | .bra f => .base 0x10 0 f
  | .braX f => .ext 0x10 0 f
  | .brx f => .base 0x10 1 f
  | .brxX f => .ext 0x10 1 f
  | .call f => .base 0x10 2 f
  | .callX f => .ext 0x10 2 f
  | .ret f => .base 0x10 3 f
  | .retX f => .ext 0x10 3 f
  | .join f => .ext 0x11 0 f
  | .leave f => .ext 0x11 1 f
  | .mwait f => .ext 0x11 2 f
  | .mwaitBounded f => .ext 0x11 2 f
  | .elect f => .ext 0x11 3 f
  | .mset f => .ext 0x11 4 f
  | .mget f => .ext 0x11 5 f
  | .exit f => .base 0x12 0 f
  | .exitX f => .ext 0x12 0 f
  | .nop f => .base 0x12 1 f
  | .nopX f => .ext 0x12 1 f
  | .yield f => .base 0x12 2 f
  | .yieldX f => .ext 0x12 2 f
  | .lds f => .base 0x13 0 f
  | .ldsX f => .ext 0x13 0 f
  | .sts f => .base 0x13 1 f
  | .stsX f => .ext 0x13 1 f
  | .atms f => .ext 0x13 2 f
  | .ldl f => .base 0x14 0 f
  | .ldlX f => .ext 0x14 0 f
  | .stl f => .base 0x14 1 f
  | .stlX f => .ext 0x14 1 f
  | .ldc f => .ext 0x15 0 f
  | .stc f => .ext 0x15 1 f
  | .cput f => .ext 0x15 2 f
  | .atmc f => .ext 0x15 3 f
  | .ldd f => .ext 0x16 0 f
  | .std f => .ext 0x16 1 f
  | .ldg f => .ext 0x17 0 f
  | .stg f => .ext 0x17 1 f
  | .atg f => .ext 0x17 2 f
  | .redg f => .ext 0x17 3 f
  | .pref f => .ext 0x18 0 f
  | .cclean f => .ext 0x18 1 f
  | .cinval f => .ext 0x18 2 f
  | .twait f => .ext 0x19 0 f
  | .ttest f => .ext 0x19 1 f
  | .tsleep f => .ext 0x19 2 f
  | .texp f => .ext 0x19 3 f
  | .tjoin f => .ext 0x19 4 f
  | .tclr f => .ext 0x19 5 f
  | .tsig f => .ext 0x19 6 f
  | .chini f => .ext 0x1A 0 f
  | .charr f => .ext 0x1A 1 f
  | .chwait f => .ext 0x1A 2 f
  | .chtest f => .ext 0x1A 3 f
  | .nbarr f => .ext 0x1B 0 f
  | .nbwait f => .ext 0x1B 1 f
  | .nbsync f => .ext 0x1B 2 f
  | .sinc f => .base 0x1C 0 f
  | .sincX f => .ext 0x1C 0 f
  | .swait f => .base 0x1C 1 f
  | .swaitX f => .ext 0x1C 1 f
  | .sread f => .base 0x1C 2 f
  | .sreadX f => .ext 0x1C 2 f
  | .fence f => .ext 0x1D 0 f
  | .tfence f => .ext 0x1D 1 f
  | .acqr f => .ext 0x1D 2 f
  | .racq f => .base 0x1E 0 f
  | .racqX f => .ext 0x1E 0 f
  | .rrel f => .base 0x1E 1 f
  | .rrelX f => .ext 0x1E 1 f
  | .srd f => .ext 0x1F 0 f
  | .swr f => .ext 0x1F 1 f
  | .swrTok f => .ext 0x1F 1 f
  | .swrTokx f => .ext 0x1F 1 f
  | .swrMxQ f => .ext 0x1F 1 f
  | .swrMxBudget f => .ext 0x1F 1 f
  | .bgo f => .ext 0x20 0 f
  | .bstop f => .ext 0x20 1 f
  | .bres f => .ext 0x20 2 f
  | .bresLd f => .ext 0x20 2 f
  | .bstat f => .ext 0x20 3 f
  | .mxres f => .ext 0x21 0 f
  | .mxrel f => .ext 0x21 1 f
  | .mxsign f => .ext 0x21 2 f
  | .mma f => .ext 0x22 0 f
  | .mmac f => .ext 0x22 1 f
  | .mxclr f => .ext 0x23 0 f
  | .mxld f => .ext 0x23 1 f
  | .mxst f => .ext 0x23 2 f
  | .mxscl f => .ext 0x23 3 f
  | .nmcfg f => .ext 0x24 0 f
  | .nmv f => .ext 0x24 1 f
  | .qpoll f => .ext 0x24 2 f
  | .qflush f => .ext 0x24 3 f
  | .put f => .ext 0x25 0 f
  | .rld f => .ext 0x25 1 f
  | .ratom f => .ext 0x25 2 f
  | .wcflush f => .ext 0x25 3 f
  | .clplan f => .ext 0x26 0 f
  | .clgo f => .ext 0x26 1 f
  | .rring f => .ext 0x26 2 f
  | .trap f => .ext 0x27 0 f
  | .rttRes f => .ext 0x27 1 f
  | .rttEnd f => .ext 0x27 1 f
  | .rttSave f => .ext 0x27 1 f
  | .brk f => .ext 0x27 2 f
  | .csync f => .ext 0x27 3 f
  | .icinv f => .ext 0x27 4 f
  | .tlbinv f => .ext 0x27 5 f
  | .biasset f => .ext 0x27 6 f
  | .gsync f => .ext 0x27 7 f
  | .pmrd f => .ext 0x28 0 f
  | .bnop f => .barge 0x00 f
  | .bend f => .barge 0x01 f
  | .bmov f => .barge 0x02 f
  | .bmovi f => .barge 0x03 f
  | .badd f => .barge 0x04 f
  | .bsub f => .barge 0x05 f
  | .bmul f => .barge 0x06 f
  | .bshl f => .barge 0x07 f
  | .bshr f => .barge 0x08 f
  | .band f => .barge 0x09 f
  | .bor f => .barge 0x0A f
  | .bcmp f => .barge 0x0B f
  | .bbr f => .barge 0x0C f
  | .bjmp f => .barge 0x0D f
  | .bloop f => .barge 0x0E f
  | .bldi f => .barge 0x0F f
  | .bqin f => .barge 0x10 f
  | .bqout f => .barge 0x11 f
  | .baddr f => .barge 0x12 f
  | .bcopy f => .barge 0x13 f
  | .bgath f => .barge 0x14 f
  | .bscat f => .barge 0x15 f
  | .bpool f => .barge 0x16 f
  | .barrNb f => .barge 0x17 f
  | .barrSc f => .barge 0x17 f
  | .bsem f => .barge 0x18 f
  | .bwait f => .barge 0x19 f
  | .bwaitSc f => .barge 0x19 f
  | .bwaitNb f => .barge 0x19 f
  | .bfence f => .barge 0x1A f
  | .btok f => .barge 0x1B f
  | .longLatencyFlag _ _ => .step
  | .birspiReceived _ _ _ => .step
  | .memberRendezvous _ _ _ _ _ => .step
  | .portLinkTraining _ _ _ _ => .step

/-- `n` is one of the queue names `q<lo>` to `q<hi>` (R91). -/
def isQueue (n : BitVec 11) (lo hi : Nat) : Bool := 1600 + lo ≤ n.toNat && n.toNat ≤ 1600 + hi

/-- Which constructor an encoding of a shared opcode belongs to: the queue forms of `mov` (R280, R343), the bounded `mwait`
(R148), the register that `swr` names (R111), `bres.ld` (R266), the kinds of `rtt` (R319) and of the barge's `barr` and `bwait` (R281). -/
def Instr.formOk (i : Instr) : Bool :=
  match i with
  | .movQueueWrite f => isQueue f.d 32 63 && !isQueue f.a 0 63
  | .nmPush f => isQueue f.d 0 31 && !isQueue f.a 0 63
  | .movQueueRead f => isQueue f.a 32 63 && !isQueue f.d 0 63
  | .nmTake f => isQueue f.a 0 31 && !isQueue f.d 0 63
  | .movX f => isQueue f.d 0 63 == isQueue f.a 0 63
  | .mwait f => !bitOf f.mods.toNat 0
  | .mwaitBounded f => bitOf f.mods.toNat 0
  | .swrTok f => 96 ≤ f.a.toNat && f.a.toNat ≤ 111
  | .swrTokx f => 112 ≤ f.a.toNat && f.a.toNat ≤ 127
  | .swrMxQ f => f.a.toNat == 177
  | .swrMxBudget f => f.a.toNat == 173
  | .swr f => !(96 ≤ f.a.toNat && f.a.toNat ≤ 127) && f.a.toNat != 177 && f.a.toNat != 173
  | .bres f => !bitOf f.mods.toNat 7
  | .bresLd f => bitOf f.mods.toNat 7
  | .rttRes f => bits f.mods.toNat 0 2 == 0
  | .rttEnd f => bits f.mods.toNat 0 2 == 1
  | .rttSave f => bits f.mods.toNat 0 2 == 2
  | .barrNb f => bits f.x.toNat 11 2 != 1
  | .barrSc f => bits f.x.toNat 11 2 == 1
  | .bwait f => bits f.x.toNat 11 2 != 1 && bits f.x.toNat 11 2 != 2
  | .bwaitSc f => bits f.x.toNat 11 2 == 1
  | .bwaitNb f => bits f.x.toNat 11 2 == 2
  | _ => true

/-- The instruction stands for an encoding of the D16. A step that no program word encodes has nothing to check. -/
def Instr.wf (i : Instr) : Bool :=
  i.formOk &&
  match i.enc with
  | .step => true
  | .base major idx f => (f.check major idx).isNone
  | .ext major idx f => (f.check major idx).isNone && f.shortNames major idx
  | .barge op f => (f.check op).isNone

end Sys2Proof
end

