-- ==== Sys2Proof/Decode.lean ====
section
/-! DEFINITION. From bits to instructions and back: the decoder of group instructions (R81 to R97) and of barge words
(R268, R270), total and rejecting by name, and after it the encoder, written from the same tables. -/

namespace Sys2Proof

/-- The instruction of a base word (LEN 00), by major and minor. -/
noncomputable def mkBase (major idx : Nat) (f : BaseForm) : Option Instr :=
  match major with
  | 0x01 => match idx with
    | 0 => some (.iadd f)
    | 1 => some (.isub f)
    | 2 => some (.imul f)
    | _ => none
  | 0x02 => match idx with
    | 0 => some (.and f)
    | 1 => some (.or f)
    | 2 => some (.xor f)
    | 3 => some (.not f)
    | _ => none
  | 0x03 => match idx with
    | 0 => some (.shl f)
    | 1 => some (.shr f)
    | 2 => some (.sar f)
    | 3 => some (.rot f)
    | _ => none
  | 0x04 => match idx with
    | 0 => some (.icmp f)
    | _ => none
  | 0x05 => match idx with
    | 0 => some (.mov f)
    | 2 => some (.movs f)
    | 3 => some (.bcast f)
    | _ => none
  | 0x06 => match idx with
    | 0 => some (.fadd f)
    | 1 => some (.fmul f)
    | 3 => some (.fmin f)
    | _ => none
  | 0x07 => match idx with
    | 0 => some (.fcmp f)
    | _ => none
  | 0x08 => match idx with
    | 0 => some (.frcp f)
    | 1 => some (.frsq f)
    | 2 => some (.fsqrt f)
    | 3 => some (.fexp2 f)
    | _ => none
  | 0x09 => match idx with
    | 0 => some (.hadd2 f)
    | 1 => some (.hmul2 f)
    | 3 => some (.hmin2 f)
    | _ => none
  | 0x0A => match idx with
    | 0 => some (.dadd f)
    | 1 => some (.dmul f)
    | 3 => some (.dcmp f)
    | _ => none
  | 0x0B => match idx with
    | 0 => some (.cvt f)
    | 1 => some (.cpack f)
    | 2 => some (.cunpk f)
    | 3 => some (.frnd f)
    | _ => none
  | 0x0C => match idx with
    | 1 => some (.lea f)
    | _ => none
  | 0x0D => match idx with
    | 0 => some (.shf f)
    | 1 => some (.shfup f)
    | 2 => some (.shfdn f)
    | 3 => some (.shfx f)
    | _ => none
  | 0x0E => match idx with
    | 0 => some (.vall f)
    | 1 => some (.vany f)
    | 2 => some (.vbal f)
    | 3 => some (.vmatch f)
    | _ => none
  | 0x0F => match idx with
    | 0 => some (.gred f)
    | 1 => some (.gscan f)
    | _ => none
  | 0x10 => match idx with
    | 0 => some (.bra f)
    | 1 => some (.brx f)
    | 2 => some (.call f)
    | 3 => some (.ret f)
    | _ => none
  | 0x12 => match idx with
    | 0 => some (.exit f)
    | 1 => some (.nop f)
    | 2 => some (.yield f)
    | _ => none
  | 0x13 => match idx with
    | 0 => some (.lds f)
    | 1 => some (.sts f)
    | _ => none
  | 0x14 => match idx with
    | 0 => some (.ldl f)
    | 1 => some (.stl f)
    | _ => none
  | 0x1C => match idx with
    | 0 => some (.sinc f)
    | 1 => some (.swait f)
    | 2 => some (.sread f)
    | _ => none
  | 0x1E => match idx with
    | 0 => some (.racq f)
    | 1 => some (.rrel f)
    | _ => none
  | _ => none

/-- The five instructions of the opcode of `mov` (R115, R280, R343). -/
noncomputable def mkMov (f : ExtForm) : Instr :=
  if isQueue f.d 0 63 == isQueue f.a 0 63 then .movX f
  else if isQueue f.d 32 63 then .movQueueWrite f
  else if isQueue f.d 0 31 then .nmPush f
  else if isQueue f.a 32 63 then .movQueueRead f
  else .nmTake f

/-- The instructions of the opcode of `swr`, by the register named (R111, R185, R303, R307). -/
noncomputable def mkSwr (f : ExtForm) : Instr :=
  let n := f.a.toNat
  if 96 ≤ n ∧ n ≤ 111 then .swrTok f
  else if 112 ≤ n ∧ n ≤ 127 then .swrTokx f
  else if n = 177 then .swrMxQ f
  else if n = 173 then .swrMxBudget f
  else .swr f

/-- The kinds of `rtt` (R325). -/
noncomputable def mkRtt (f : ExtForm) : Instr :=
  if bits f.mods.toNat 0 2 = 0 then .rttRes f
  else if bits f.mods.toNat 0 2 = 1 then .rttEnd f
  else .rttSave f

/-- The instruction of an extended or literal form, by major and operation index. -/
noncomputable def mkExt (major idx : Nat) (f : ExtForm) : Option Instr :=
  match major with
  | 0x01 => match idx with
    | 0 => some (.iaddX f)
    | 1 => some (.isubX f)
    | 2 => some (.imulX f)
    | 3 => some (.imad f)
    | 4 => some (.imulh f)
    | 5 => some (.imin f)
    | 6 => some (.imax f)
    | 7 => some (.iabs f)
    | 8 => some (.ineg f)
    | 9 => some (.iaddc f)
    | _ => none
  | 0x02 => match idx with
    | 0 => some (.andX f)
    | 1 => some (.orX f)
    | 2 => some (.xorX f)
    | 3 => some (.notX f)
    | 4 => some (.bfn3 f)
    | _ => none
  | 0x03 => match idx with
    | 0 => some (.shlX f)
    | 1 => some (.shrX f)
    | 2 => some (.sarX f)
    | 3 => some (.rotX f)
    | 4 => some (.popc f)
    | 5 => some (.clz f)
    | 6 => some (.brev f)
    | 7 => some (.bfe f)
    | 8 => some (.bfi f)
    | _ => none
  | 0x04 => match idx with
    | 0 => some (.icmpX f)
    | 1 => some (.icmpc f)
    | _ => none
  | 0x05 => match idx with
    | 0 => some (mkMov f)
    | 1 => some (.sel f)
    | 2 => some (.movsX f)
    | 3 => some (.bcastX f)
    | 4 => some (.movp f)
    | _ => none
  | 0x06 => match idx with
    | 0 => some (.faddX f)
    | 1 => some (.fmulX f)
    | 2 => some (.ffma f)
    | 3 => some (.fminX f)
    | 4 => some (.fmax f)
    | 5 => some (.fsub f)
    | _ => none
  | 0x07 => match idx with
    | 0 => some (.fcmpX f)
    | 1 => some (.fclass f)
    | _ => none
  | 0x08 => match idx with
    | 0 => some (.frcpX f)
    | 1 => some (.frsqX f)
    | 2 => some (.fsqrtX f)
    | 3 => some (.fexp2X f)
    | 4 => some (.flog2 f)
    | 5 => some (.fsin f)
    | 6 => some (.fcos f)
    | 7 => some (.ftanh f)
    | _ => none
  | 0x09 => match idx with
    | 0 => some (.hadd2X f)
    | 1 => some (.hmul2X f)
    | 2 => some (.hfma2 f)
    | 3 => some (.hmin2X f)
    | 4 => some (.hmax2 f)
    | _ => none
  | 0x0A => match idx with
    | 0 => some (.daddX f)
    | 1 => some (.dmulX f)
    | 2 => some (.dfma f)
    | 3 => some (.dcmpX f)
    | 4 => some (.dmin f)
    | 5 => some (.dmax f)
    | _ => none
  | 0x0B => match idx with
    | 0 => some (.cvtX f)
    | 1 => some (.cpackX f)
    | 2 => some (.cunpkX f)
    | 3 => some (.frndX f)
    | _ => none
  | 0x0C => match idx with
    | 0 => some (.perm f)
    | 1 => some (.leaX f)
    | _ => none
  | 0x0D => match idx with
    | 0 => some (.shfX f)
    | 1 => some (.shfupX f)
    | 2 => some (.shfdnX f)
    | 3 => some (.shfxX f)
    | _ => none
  | 0x0E => match idx with
    | 0 => some (.vallX f)
    | 1 => some (.vanyX f)
    | 2 => some (.vbalX f)
    | 3 => some (.vmatchX f)
    | 4 => some (.vuni f)
    | _ => none
  | 0x0F => match idx with
    | 0 => some (.gredX f)
    | 1 => some (.gscanX f)
    | _ => none
  | 0x10 => match idx with
    | 0 => some (.braX f)
    | 1 => some (.brxX f)
    | 2 => some (.callX f)
    | 3 => some (.retX f)
    | _ => none
  | 0x11 => match idx with
    | 0 => some (.join f)
    | 1 => some (.leave f)
    | 2 => some (if bitOf f.mods.toNat 0 then .mwaitBounded f else .mwait f)
    | 3 => some (.elect f)
    | 4 => some (.mset f)
    | 5 => some (.mget f)
    | _ => none
  | 0x12 => match idx with
    | 0 => some (.exitX f)
    | 1 => some (.nopX f)
    | 2 => some (.yieldX f)
    | _ => none
  | 0x13 => match idx with
    | 0 => some (.ldsX f)
    | 1 => some (.stsX f)
    | 2 => some (.atms f)
    | _ => none
  | 0x14 => match idx with
    | 0 => some (.ldlX f)
    | 1 => some (.stlX f)
    | _ => none
  | 0x15 => match idx with
    | 0 => some (.ldc f)
    | 1 => some (.stc f)
    | 2 => some (.cput f)
    | 3 => some (.atmc f)
    | _ => none
  | 0x16 => match idx with
    | 0 => some (.ldd f)
    | 1 => some (.std f)
    | _ => none
  | 0x17 => match idx with
    | 0 => some (.ldg f)
    | 1 => some (.stg f)
    | 2 => some (.atg f)
    | 3 => some (.redg f)
    | _ => none
  | 0x18 => match idx with
    | 0 => some (.pref f)
    | 1 => some (.cclean f)
    | 2 => some (.cinval f)
    | _ => none
  | 0x19 => match idx with
    | 0 => some (.twait f)
    | 1 => some (.ttest f)
    | 2 => some (.tsleep f)
    | 3 => some (.texp f)
    | 4 => some (.tjoin f)
    | 5 => some (.tclr f)
    | 6 => some (.tsig f)
    | _ => none
  | 0x1A => match idx with
    | 0 => some (.chini f)
    | 1 => some (.charr f)
    | 2 => some (.chwait f)
    | 3 => some (.chtest f)
    | _ => none
  | 0x1B => match idx with
    | 0 => some (.nbarr f)
    | 1 => some (.nbwait f)
    | 2 => some (.nbsync f)
    | _ => none
  | 0x1C => match idx with
    | 0 => some (.sincX f)
    | 1 => some (.swaitX f)
    | 2 => some (.sreadX f)
    | _ => none
  | 0x1D => match idx with
    | 0 => some (.fence f)
    | 1 => some (.tfence f)
    | 2 => some (.acqr f)
    | _ => none
  | 0x1E => match idx with
    | 0 => some (.racqX f)
    | 1 => some (.rrelX f)
    | _ => none
  | 0x1F => match idx with
    | 0 => some (.srd f)
    | 1 => some (mkSwr f)
    | _ => none
  | 0x20 => match idx with
    | 0 => some (.bgo f)
    | 1 => some (.bstop f)
    | 2 => some (if bitOf f.mods.toNat 7 then .bresLd f else .bres f)
    | 3 => some (.bstat f)
    | _ => none
  | 0x21 => match idx with
    | 0 => some (.mxres f)
    | 1 => some (.mxrel f)
    | 2 => some (.mxsign f)
    | _ => none
  | 0x22 => match idx with
    | 0 => some (.mma f)
    | 1 => some (.mmac f)
    | _ => none
  | 0x23 => match idx with
    | 0 => some (.mxclr f)
    | 1 => some (.mxld f)
    | 2 => some (.mxst f)
    | 3 => some (.mxscl f)
    | _ => none
  | 0x24 => match idx with
    | 0 => some (.nmcfg f)
    | 1 => some (.nmv f)
    | 2 => some (.qpoll f)
    | 3 => some (.qflush f)
    | _ => none
  | 0x25 => match idx with
    | 0 => some (.put f)
    | 1 => some (.rld f)
    | 2 => some (.ratom f)
    | 3 => some (.wcflush f)
    | _ => none
  | 0x26 => match idx with
    | 0 => some (.clplan f)
    | 1 => some (.clgo f)
    | 2 => some (.rring f)
    | _ => none
  | 0x27 => match idx with
    | 0 => some (.trap f)
    | 1 => some (mkRtt f)
    | 2 => some (.brk f)
    | 3 => some (.csync f)
    | 4 => some (.icinv f)
    | 5 => some (.tlbinv f)
    | 6 => some (.biasset f)
    | 7 => some (.gsync f)
    | _ => none
  | 0x28 => match idx with
    | 0 => some (.pmrd f)
    | _ => none
  | _ => none

/-- The instruction of a barge word, by opcode (R270, R281). -/
noncomputable def mkBarge (op : Nat) (f : BargeForm) : Option Instr :=
  match op with
  | 0x00 => some (.bnop f)
  | 0x01 => some (.bend f)
  | 0x02 => some (.bmov f)
  | 0x03 => some (.bmovi f)
  | 0x04 => some (.badd f)
  | 0x05 => some (.bsub f)
  | 0x06 => some (.bmul f)
  | 0x07 => some (.bshl f)
  | 0x08 => some (.bshr f)
  | 0x09 => some (.band f)
  | 0x0A => some (.bor f)
  | 0x0B => some (.bcmp f)
  | 0x0C => some (.bbr f)
  | 0x0D => some (.bjmp f)
  | 0x0E => some (.bloop f)
  | 0x0F => some (.bldi f)
  | 0x10 => some (.bqin f)
  | 0x11 => some (.bqout f)
  | 0x12 => some (.baddr f)
  | 0x13 => some (.bcopy f)
  | 0x14 => some (.bgath f)
  | 0x15 => some (.bscat f)
  | 0x16 => some (.bpool f)
  | 0x17 => some (if bits f.x.toNat 11 2 = 1 then .barrSc f else .barrNb f)
  | 0x18 => some (.bsem f)
  | 0x19 => some (if bits f.x.toNat 11 2 = 1 then .bwaitSc f else if bits f.x.toNat 11 2 = 2 then .bwaitNb f else .bwait f)
  | 0x1A => some (.bfence f)
  | 0x1B => some (.btok f)
  | _ => none

/-- The base word's fields (R84). -/
def BaseForm.ofWord (w : BitVec 32) : BaseForm :=
  { neg := w.getLsbD 11, guard := w.extractLsb' 8 3, d := w.extractLsb' 12 6, a := w.extractLsb' 18 6, b := w.extractLsb' 24 6 }

/-- The three extended words' fields (R85). -/
def ExtForm.ofWords (w0 w1 w2 : BitVec 32) (lit : Option (BitVec 64)) : ExtForm :=
  { short := false, neg := w0.getLsbD 19, guard := w0.extractLsb' 16 3, ty := w0.extractLsb' 12 4
    d := w0.extractLsb' 20 11, a := w1.extractLsb' 0 11, b := w1.extractLsb' 11 11, c := w2.extractLsb' 0 11
    mods := w1.extractLsb' 22 10, mask := w2.extractLsb' 16 16, outv := w2.getLsbD 15, out := w2.extractLsb' 11 4, lit := lit }

/-- A base word with a literal (LEN 10), its registers as operand names (R82, R95). -/
def ExtForm.ofShort (major idx : Nat) (w : BitVec 32) (lit : BitVec 64) : ExtForm :=
  { (BaseForm.ofWord w).toExt major idx with short := true, b := 0, lit := some lit }

/-- How many 32-bit words an instruction has, from its first word (R81). -/
def wordsOf (w : BitVec 32) : Nat :=
  match (w.extractLsb' 0 2).toNat with
  | 0 => 1
  | 3 => 5
  | _ => 3

/-- The first word is a clause header (R89). -/
def isHeader (w : BitVec 32) : Bool := w.extractLsb' 0 8 = 0#8

/-- The header's setA or setB field is 12 to 14 (R89, R97). -/
def headerBad (w : BitVec 32) : Bool :=
  let a := (w.extractLsb' 20 4).toNat
  let b := (w.extractLsb' 24 4).toNat
  (12 ≤ a && a ≤ 14) || (12 ≤ b && b ≤ 14)

/-- What stands at an address: an encoding that passed every check of R97, or the rule it breaks. -/
abbrev Decoded := Except DecodeError Enc

/-- An encoding, unless a check refuses it. -/
def accept (c : Option DecodeError) (e : Enc) : Decoded :=
  match c with
  | some c => .error c
  | none => .ok e

/-- Look at one group instruction's words; words past its length are ignored (R81 to R88, R97). -/
def decodeWords (w0 w1 w2 w3 w4 : BitVec 32) : Decoded :=
  let len := (w0.extractLsb' 0 2).toNat
  let major := (w0.extractLsb' 2 6).toNat
  if major = 0 then (if len = 0 then .error .header else .error .headerLength)
  else if len = 0 then
    let idx := (w0.extractLsb' 30 2).toNat
    let f := BaseForm.ofWord w0
    accept (f.check major idx) (.base major idx f)
  else if len = 2 then
    let idx := (w0.extractLsb' 30 2).toNat
    let g := BaseForm.ofWord w0
    let f := ExtForm.ofShort major idx w0 (w2 ++ w1)
    if (g.check major idx).isSome then accept (g.check major idx) (.base major idx g)
    else if g.b ≠ 0#6 then .error .literalForm
    else accept (f.check major idx) (.ext major idx f)
  else if w0.getLsbD 31 then .error .reservedBit
  else
    let idx := (w0.extractLsb' 8 4).toNat
    let f := ExtForm.ofWords w0 w1 w2 (if len = 3 then some (w4 ++ w3) else none)
    accept (f.check major idx) (.ext major idx f)

/-- Modifiers under which the used fields of an operation differ (R86 to R88). -/
def fieldProbes : List Nat := [0, 1, 2, 128]

/-- A first word that begins no instruction, whatever follows it (R97). -/
def firstBad (w0 : BitVec 32) : Bool :=
  let len := (w0.extractLsb' 0 2).toNat
  let major := (w0.extractLsb' 2 6).toNat
  if major = 0 || len = 0 || len = 2 then
    match decodeWords w0 0 0 0 0 with
    | .ok _ => false
    | .error _ => true
  else if w0.getLsbD 31 then true
  else
    let idx := (w0.extractLsb' 8 4).toNat
    let f := ExtForm.ofWords w0 0 0 (if len = 3 then some 0 else none)
    (f.neg && f.guard = 7#3) || fieldProbes.all (fun m =>
      match opSpec major idx f.ty.toNat m false with
      | none => true
      | some p => (f.ty ≠ 0#4 && !decide (f.ty.toNat ∈ p.types)) || (!bitOf p.fields 3 && f.d ≠ 0#11) || (f.lit.isSome && !bitOf p.fields 1))

/-- Words that begin no instruction, whatever follows them (R97): the third word of an extended form, where it is not known, is taken as
its description asks; a literal is never wrong. -/
def prefixBad (w0 : BitVec 32) (ws : List (BitVec 32)) : Bool :=
  let len := (w0.extractLsb' 0 2).toNat
  let bad := fun (d : Decoded) => match d with
    | .ok _ => false
    | .error _ => true
  match ws with
  | [] => firstBad w0
  | w1 :: rest =>
    if len = 0 || len = 2 then firstBad w0
    else match rest with
      | w2 :: _ => bad (decodeWords w0 w1 w2 0 0)
      | [] =>
        let major := (w0.extractLsb' 2 6).toNat
        let idx := (w0.extractLsb' 8 4).toNat
        let f := ExtForm.ofWords w0 w1 0 (if len = 3 then some 0 else none)
        firstBad w0 || (match opSpec major idx f.ty.toNat f.mods.toNat (1600 ≤ f.a.toNat && f.a.toNat ≤ 1663) with
          | none => true
          | some p => (ExtForm.check major idx { f with outv := p.tok }).isSome)

/-- Look at one barge word (R268, R270). -/
def decodeBarge (w : BitVec 64) : Decoded :=
  let op := (w.extractLsb' 58 6).toNat
  let f : BargeForm :=
    { d := w.extractLsb' 54 4, a := w.extractLsb' 50 4, b := w.extractLsb' 46 4, i := w.getLsbD 45
      x := w.extractLsb' 32 13, imm := w.extractLsb' 0 32 }
  accept (f.check op) (.barge op f)

/-- The instruction an encoding stands for, by the opcode map (R95, R270).
Lean's runtime gives a constructor with fields a tag of at most 244, so what builds an Instr is evaluated by the kernel
alone; the machine runs the encoding itself (`Enc.run`), which is `exec` of this instruction. -/
noncomputable def Enc.instr (e : Enc) : Option Instr :=
  match e with
  | .step => none
  | .base major idx f => mkBase major idx f
  | .ext major idx f => mkExt major idx f
  | .barge op f => mkBarge op f

/-- The instruction that a group's words stand for, or the rule they break. -/
noncomputable def decode (w0 w1 w2 w3 w4 : BitVec 32) : Except DecodeError Instr :=
  match decodeWords w0 w1 w2 w3 w4 with
  | .error c => .error c
  | .ok e => match e.instr with
    | some i => .ok i
    | none => .error .reservedOpcode

/-- The instruction that a barge word stands for, or the rule it breaks. -/
noncomputable def decodeBargeWord (w : BitVec 64) : Except DecodeError Instr :=
  match decodeBarge w with
  | .error c => .error c
  | .ok e => match e.instr with
    | some i => .ok i
    | none => .error .reservedOpcode

/-- The words of a base form (R84). -/
def BaseForm.word (major idx : Nat) (f : BaseForm) (len : Nat) : BitVec 32 :=
  BitVec.ofNat 2 idx ++ f.b ++ f.a ++ f.d ++ BitVec.ofBool f.neg ++ f.guard ++ BitVec.ofNat 6 major ++ BitVec.ofNat 2 len

/-- Extended word 0 (R85). -/
def ExtForm.word0 (major idx : Nat) (f : ExtForm) : BitVec 32 :=
  0#1 ++ f.d ++ BitVec.ofBool f.neg ++ f.guard ++ f.ty ++ BitVec.ofNat 4 idx ++ BitVec.ofNat 6 major ++
    (if f.lit.isSome then 3#2 else 1#2)

/-- Extended word 1 (R85). -/
def ExtForm.word1 (f : ExtForm) : BitVec 32 := f.mods ++ f.b ++ f.a

/-- Extended word 2 (R85). -/
def ExtForm.word2 (f : ExtForm) : BitVec 32 := f.mask ++ BitVec.ofBool f.outv ++ f.out ++ f.c

/-- The base word of a LEN 10 form: the low six bits of each register name stand in its field. -/
def ExtForm.shortWord (major idx : Nat) (f : ExtForm) : BitVec 32 :=
  let g : BaseForm := { neg := f.neg, guard := f.guard, d := f.d.extractLsb' 0 6, a := f.a.extractLsb' 0 6, b := 0 }
  g.word major idx 2

/-- The words of the literal (R81: bits [31:0] first). -/
def litWords (l : Option (BitVec 64)) : List (BitVec 32) :=
  match l with
  | none => []
  | some v => [v.extractLsb' 0 32, v.extractLsb' 32 32]

/-- The barge word (R268). -/
def BargeForm.word (op : Nat) (f : BargeForm) : BitVec 64 :=
  BitVec.ofNat 6 op ++ f.d ++ f.a ++ f.b ++ BitVec.ofBool f.i ++ f.x ++ f.imm

/-- The words of an instruction, in the order of R81; a barge word as two 32-bit words, the low one first. -/
def encode (i : Instr) : List (BitVec 32) :=
  match i.enc with
  | .step => []
  | .base major idx f => [f.word major idx 0]
  | .ext major idx f =>
    if f.short then f.shortWord major idx :: litWords f.lit
    else f.word0 major idx :: f.word1 :: f.word2 :: litWords f.lit
  | .barge op f => [(f.word op).extractLsb' 0 32, (f.word op).extractLsb' 32 32]

/-- Look at the words found at a group's address. -/
def decodeList (ws : List (BitVec 32)) : Decoded :=
  match ws with
  | [] => .error .short
  | w0 :: _ =>
    if ws.length < wordsOf w0 then .error .short
    else decodeWords w0 (nth 0 ws 1) (nth 0 ws 2) (nth 0 ws 3) (nth 0 ws 4)

/-- The instruction that a list of words stands for: a group's words, or with `barge` two words of a barge. -/
noncomputable def decodeInstr (barge : Bool) (ws : List (BitVec 32)) : Except DecodeError Instr :=
  if barge then decodeBargeWord (nth 0 ws 1 ++ nth 0 ws 0)
  else decode (nth 0 ws 0) (nth 0 ws 1) (nth 0 ws 2) (nth 0 ws 3) (nth 0 ws 4)

/-- Word `k` of the bits `w` numbered as the opcode table numbers them. -/
def tableWord (w k : Nat) : BitVec 32 := BitVec.ofNat 32 (w >>> (32 * k))

/-- The instruction whose bits, numbered as spec/opcode_table.json numbers them, are `w`: 64 bits are a barge word (R268),
any other number a group instruction, whose bits above `nbits` are zero. -/
noncomputable def decodeTableWord (nbits w : Nat) : Option Instr :=
  let v := w % 2 ^ nbits
  let r := if nbits = 64 then decodeBargeWord (BitVec.ofNat 64 v)
    else decode (tableWord v 0) (tableWord v 1) (tableWord v 2) (tableWord v 3) (tableWord v 4)
  match r with
  | .ok i => some i
  | .error _ => none

end Sys2Proof
end

