-- ==== Sys2Proof/Machine/Float.lean ====
section
/-! DEFINITION. The numbers of file 03: floating formats, exact values, the one rounding, comparisons, conversions, the
special functions, and the MX block forms. -/

namespace Sys2Proof.Machine

open Sys2Proof

/-- A floating format (R59, R60). -/
structure Fmt where
  /-- exponent bits -/
  eb : Nat
  /-- mantissa bits -/
  mb : Nat
  bias : Nat
  hasInf : Bool
  /-- the canonical NaN, 0 where the format has none (R61, R64) -/
  nan : Nat
  /-- magnitude bits of the largest finite value -/
  maxMag : Nat
  deriving DecidableEq, Repr

/-- Width of an encoding. -/
def Fmt.width (t : Fmt) : Nat := 1 + t.eb + t.mb

def Fmt.f64 : Fmt := ⟨11, 52, 1023, true, 0x7FF8000000000000, 0x7FEFFFFFFFFFFFFF⟩
def Fmt.f32 : Fmt := ⟨8, 23, 127, true, 0x7FC00000, 0x7F7FFFFF⟩
def Fmt.f16 : Fmt := ⟨5, 10, 15, true, 0x7E00, 0x7BFF⟩
def Fmt.bf16 : Fmt := ⟨8, 7, 127, true, 0x7FC0, 0x7F7F⟩
def Fmt.e5m2 : Fmt := ⟨5, 2, 15, true, 0x7E, 0x7B⟩
def Fmt.e4m3 : Fmt := ⟨4, 3, 7, false, 0x7F, 0x7E⟩
def Fmt.e3m2 : Fmt := ⟨3, 2, 3, false, 0, 0x1F⟩
def Fmt.e2m3 : Fmt := ⟨2, 3, 1, false, 0, 0x1F⟩
def Fmt.e2m1 : Fmt := ⟨2, 1, 1, false, 0, 7⟩

/-- An exact value: a number m × 2^e with a sign, an infinity, or NaN (R64). -/
inductive XVal where
  | nan
  | inf (neg : Bool)
  | fin (neg : Bool) (m : Nat) (e : Int)
  deriving DecidableEq, Repr

/-- Magnitude bits and sign bit of an encoding. -/
def Fmt.mag (t : Fmt) (x : Nat) : Nat := x % 2 ^ (t.eb + t.mb)

def Fmt.neg (t : Fmt) (x : Nat) : Bool := bitOf x (t.eb + t.mb)

/-- The encoding is a NaN (R59). -/
def Fmt.isNaN (t : Fmt) (x : Nat) : Bool :=
  let g := t.mag x
  if t.hasInf then t.maxMag + 1 < g else t.maxMag < g

/-- The encoding is an infinity (R59). -/
def Fmt.isInf (t : Fmt) (x : Nat) : Bool := t.hasInf && t.mag x = t.maxMag + 1

/-- The value of an encoding (R60). -/
def Fmt.value (t : Fmt) (x : Nat) : XVal :=
  if t.isNaN x then .nan
  else if t.isInf x then .inf (t.neg x)
  else
    let m := bits x 0 t.mb
    let e := bits x t.mb t.eb
    if e = 0 then .fin (t.neg x) m (1 - (t.bias : Int) - (t.mb : Int))
    else .fin (t.neg x) (2 ^ t.mb + m) ((e : Int) - (t.bias : Int) - (t.mb : Int))

/-- An encoding with this sign and these magnitude bits. -/
def Fmt.pack (t : Fmt) (neg : Bool) (mag : Nat) : Nat := (if neg then 2 ^ (t.eb + t.mb) else 0) + mag

/-- Whether a magnitude whose discarded part is `rem` of `2 * half` rounds up (R63). -/
def roundsUp (rm : Nat) (neg odd : Bool) (rem half : Nat) : Bool :=
  match rm with
  | 0 => decide (half < rem) || (decide (rem = half) && odd)
  | 1 => false
  | 2 => neg && decide (0 < rem)
  | _ => !neg && decide (0 < rem)

/-- m × 2^e rounded to a multiple of 2^q: the multiple. -/
def roundAt (rm : Nat) (neg : Bool) (m : Nat) (e q : Int) : Nat :=
  if q ≤ e then m * 2 ^ (e - q).toNat
  else
    let d := (q - e).toNat
    let n := m / 2 ^ d
    if roundsUp rm neg (n % 2 = 1) (m % 2 ^ d) (2 ^ (d - 1)) then n + 1 else n

/-- The rounding of a finite overflow (R64). -/
def Fmt.overflow (t : Fmt) (neg : Bool) (rm : Nat) (sat : Bool) : Nat :=
  let toZero := rm = 1 || (rm = 2 && !neg) || (rm = 3 && neg)
  if sat || toZero || !(t.hasInf || t.nan ≠ 0) then t.pack neg t.maxMag
  else if t.hasInf then t.pack neg (t.maxMag + 1)
  else t.nan

/-- `round_to`: the single rounding of every floating result (R64). -/
def roundTo (x : XVal) (t : Fmt) (rm : Nat) (sat : Bool) : Nat :=
  match x with
  | .nan => t.nan
  | .inf neg =>
    if t.hasInf && !sat then t.pack neg (t.maxMag + 1)
    else if t.nan ≠ 0 && !sat then t.nan
    else t.pack neg t.maxMag
  | .fin neg m e =>
    if m = 0 then t.pack neg 0
    else
      let qmin : Int := 1 - (t.bias : Int) - (t.mb : Int)
      let q := max ((m.log2 : Int) + e - (t.mb : Int)) qmin
      let mag := (q - qmin).toNat * 2 ^ t.mb + roundAt rm neg m e q
      if mag ≤ t.maxMag then t.pack neg mag else t.overflow neg rm sat

/-- A number from an integer times a power of two. -/
def XVal.ofInt (i : Int) (e : Int) : XVal := .fin (decide (i < 0)) i.natAbs e

def XVal.negate : XVal → XVal
  | .nan => .nan
  | .inf n => .inf (!n)
  | .fin n m e => .fin (!n) m e

/-- Multiply by a power of two. -/
def XVal.scale (k : Int) : XVal → XVal
  | .fin n m e => .fin n m (e + k)
  | x => x

def XVal.isZero : XVal → Bool
  | .fin _ m _ => m = 0
  | _ => false

def XVal.isNegZero : XVal → Bool
  | .fin n m _ => n && m = 0
  | _ => false

/-- The sum of two numbers with its sign: R65 for a zero, under mode `rm`. -/
def addFin (rm : Nat) (n1 : Bool) (m1 : Nat) (e1 : Int) (n2 : Bool) (m2 : Nat) (e2 : Int) : XVal :=
  let e := min e1 e2
  let a : Int := (m1 * 2 ^ (e1 - e).toNat : Nat)
  let b : Int := (m2 * 2 ^ (e2 - e).toNat : Nat)
  let s : Int := (if n1 then -a else a) + (if n2 then -b else b)
  if s = 0 then
    if m1 = 0 && m2 = 0 && n1 = n2 then .fin n1 0 0
    else .fin (rm = 2) 0 0
  else .ofInt s e

/-- The exact sum (R128). -/
def XVal.add (rm : Nat) : XVal → XVal → XVal
  | .nan, _ => .nan
  | _, .nan => .nan
  | .inf a, .inf b => if a = b then .inf a else .nan
  | .inf a, _ => .inf a
  | _, .inf b => .inf b
  | .fin n1 m1 e1, .fin n2 m2 e2 => addFin rm n1 m1 e1 n2 m2 e2

/-- The exact product (R128). -/
def XVal.mul : XVal → XVal → XVal
  | .nan, _ => .nan
  | _, .nan => .nan
  | .inf a, .inf b => .inf (a != b)
  | .inf a, .fin n m _ => if m = 0 then .nan else .inf (a != n)
  | .fin n m _, .inf b => if m = 0 then .nan else .inf (n != b)
  | .fin n1 m1 e1, .fin n2 m2 e2 => .fin (n1 != n2) (m1 * m2) (e1 + e2)

/-- Floating arithmetic of one element (R128): sum, difference, product, and fused product and sum. -/
def fpAdd (t : Fmt) (rm : Nat) (sat : Bool) (a b : Nat) : Nat := roundTo (XVal.add rm (t.value a) (t.value b)) t rm sat

def fpSub (t : Fmt) (rm : Nat) (sat : Bool) (a b : Nat) : Nat :=
  roundTo (XVal.add rm (t.value a) (t.value b).negate) t rm sat

def fpMul (t : Fmt) (rm : Nat) (sat : Bool) (a b : Nat) : Nat := roundTo (XVal.mul (t.value a) (t.value b)) t rm sat

def fpFma (t : Fmt) (rm : Nat) (sat : Bool) (a b c : Nat) : Nat :=
  roundTo (XVal.add rm (XVal.mul (t.value a) (t.value b)) (t.value c)) t rm sat

/-- An encoding as a number that orders as its value does, −0 and +0 alike (R67). -/
def Fmt.order (t : Fmt) (x : Nat) : Int := if t.neg x then -(t.mag x : Int) else (t.mag x : Int)

/-- Below, with −0 below +0 (R67). -/
def Fmt.below (t : Fmt) (a b : Nat) : Bool :=
  decide (t.order a < t.order b) || (decide (t.order a = t.order b) && t.neg a && !t.neg b)

/-- Minimum (R67): an operand bit for bit. -/
def fpMin (t : Fmt) (a b : Nat) : Nat :=
  if t.isNaN a && t.isNaN b then t.nan
  else if t.isNaN a then b
  else if t.isNaN b then a
  else if t.below b a then b else a

/-- Maximum (R67). -/
def fpMax (t : Fmt) (a b : Nat) : Nat :=
  if t.isNaN a && t.isNaN b then t.nan
  else if t.isNaN a then b
  else if t.isNaN b then a
  else if t.below a b then b else a

/-- The condition codes of `fcmp` and `dcmp` (R129). -/
def fpCond (t : Fmt) (cc a b : Nat) : Bool :=
  let un := t.isNaN a || t.isNaN b
  let x := t.order a
  let y := t.order b
  match cc with
  | 0 => !un && decide (x = y)
  | 1 => !un && decide (x ≠ y)
  | 2 => !un && decide (x < y)
  | 3 => !un && decide (x ≤ y)
  | 4 => !un && decide (y < x)
  | 5 => !un && decide (y ≤ x)
  | 6 => un
  | _ => !un

/-- The class bit number of an encoding (R130). -/
def fpClass (t : Fmt) (x : Nat) : Nat :=
  let g := t.mag x
  if t.isNaN x then (if bitOf x (t.mb - 1) then 9 else 8)
  else if t.isInf x then (if t.neg x then 0 else 7)
  else if g = 0 then (if t.neg x then 3 else 4)
  else if g < 2 ^ t.mb then (if t.neg x then 2 else 5)
  else (if t.neg x then 1 else 6)

/-- Clamp an integer to a range. -/
def clampInt (lo hi x : Int) : Int := if x < lo then lo else if hi < x then hi else x

/-- The range of an integer type of `w` bits. -/
def intMin (isSigned : Bool) (w : Nat) : Int := if isSigned then -(2 ^ (w - 1) : Int) else 0

def intMax (isSigned : Bool) (w : Nat) : Int := if isSigned then 2 ^ (w - 1) - 1 else 2 ^ w - 1

/-- An exact integer clamped to its type, as bits (R58, R116). -/
def satInt (isSigned : Bool) (w : Nat) (x : Int) : Nat := wrap w (clampInt (intMin isSigned w) (intMax isSigned w) x)

/-- A conversion to an integer type (R69). -/
def toIntType (x : XVal) (isSigned : Bool) (w rm : Nat) : Nat :=
  match x with
  | .nan => 0
  | .inf neg => wrap w (if neg then intMin isSigned w else intMax isSigned w)
  | .fin neg m e =>
    let n : Int := roundAt rm neg m e 0
    satInt isSigned w (if neg then -n else n)

/-- `frnd` (R133). -/
def fpRint (t : Fmt) (rm : Nat) (x : Nat) : Nat :=
  match t.value x with
  | .nan => t.nan
  | .inf n => roundTo (.inf n) t rm false
  | .fin n m e => if 0 ≤ e then x % 2 ^ t.width else roundTo (.fin n (roundAt rm n m e 0) 0) t rm false

/-! ### Special functions (R72). Irrational results are formed in fixed point with 450 fraction bits and stand for the
exact value by an odd last bit below every rounding boundary (log 19). -/

/-- Fraction bits. -/
def fixP : Nat := 450

/-- ⌊ln 2 × 2^450⌋. -/
def fixLn2 : Nat := 0x2c5c85fdf473de6af278ece600fcbdabd03cd0c99ca62d8b628345d6e2eabe8af9ee1d881b7aeb26156554bed2be86c43b4bab8d704e08510

/-- ⌊π/2 × 2^450⌋. -/
def fixHalfPi : Nat := 0x6487ed5110b4611a62633145c06e0e68948127044533e63a0105df531d89cd9128a5043cc71a026ef7ca8cd9e69d218d98158536f92f8a1ba

/-- Integer square root by bits, from bit `k` down. -/
def isqrtFrom (n : Nat) : Nat → Nat → Nat
  | 0, r => r
  | k + 1, r =>
    let r' := r + 2 ^ k
    if r' * r' ≤ n then isqrtFrom n k r' else isqrtFrom n k r

/-- ⌊√n⌋. -/
def isqrt (n : Nat) : Nat := isqrtFrom n (n.log2 / 2 + 1) 0

/-- A magnitude n × 2^e, and something more below 2^e where it is not exact. -/
def inexact (neg : Bool) (n : Nat) (e : Int) (exact : Bool) : XVal :=
  if exact then .fin neg n e else .fin neg (2 * n + 1) (e - 1)

/-- 1/x. -/
def xRcp : XVal → XVal
  | .nan => .nan
  | .inf n => .fin n 0 0
  | .fin n m e =>
    if m = 0 then .inf n
    else
      let k := m.log2 + 64
      inexact n (2 ^ k / m) (-(k : Int) - e) (2 ^ k % m = 0)

/-- √x. -/
def xSqrt : XVal → XVal
  | .nan => .nan
  | .inf n => if n then .nan else .inf false
  | .fin n m e =>
    if m = 0 then .fin n 0 0
    else if n then .nan
    else
      let k : Nat := 64 + (e % 2).toNat
      let m' := m * 2 ^ k
      let r := isqrt m'
      inexact false r ((e - (k : Int)) / 2) (r * r = m')

/-- 1/√x. -/
def xRsq : XVal → XVal
  | .nan => .nan
  | .inf n => if n then .nan else .fin false 0 0
  | .fin n m e =>
    if m = 0 then .inf n
    else if n then .nan
    else
      let k : Nat := 160 + (e % 2).toNat
      let r := isqrt (2 ^ k / m)
      inexact false r (-(((k : Int) + e) / 2)) (r * r * m = 2 ^ k)

/-- The exponential series of `r` (below 2^450) from term `t` at index `k`. -/
def expSeries (r : Nat) : Nat → Nat → Nat → Nat
  | 0, _, _ => 0
  | fuel + 1, k, t => t + expSeries r fuel (k + 1) (t * r / 2 ^ fixP / (k + 1))

/-- e^t in fixed point. -/
def fixExp (t : Nat) : Nat := expSeries (t % fixLn2) 110 0 (2 ^ fixP) * 2 ^ (t / fixLn2)

/-- The fixed-point number m × 2^e, rounded down. -/
def toFix (m : Nat) (e : Int) : Nat :=
  let k := e + (fixP : Int)
  if 0 ≤ k then m * 2 ^ k.toNat else m / 2 ^ (-k).toNat

/-- 2^x. -/
def xExp2 : XVal → XVal
  | .nan => .nan
  | .inf n => if n then .fin false 0 0 else .inf false
  | .fin n m e =>
    if m = 0 then .fin false 1 0
    else if 8 ≤ (m.log2 : Int) + e then (if n then .fin false 1 (-1000) else .inf false)
    else
      let x : Int := if n then -(toFix m e : Int) else (toFix m e : Int)
      let whole := x / (2 ^ fixP : Int)
      let part := (x % (2 ^ fixP : Int)).toNat
      if part = 0 then .fin false 1 whole
      else inexact false (fixExp (part * fixLn2 / 2 ^ fixP)) (whole - (fixP : Int)) false

/-- The series of artanh `z`, from power `p` at index `k`. -/
def artanhSeries (z2 : Nat) : Nat → Nat → Nat → Nat
  | 0, _, _ => 0
  | fuel + 1, k, p => p / (2 * k + 1) + artanhSeries z2 fuel (k + 1) (p * z2 / 2 ^ fixP)

/-- log₂ x. -/
def xLog2 : XVal → XVal
  | .nan => .nan
  | .inf n => if n then .nan else .inf false
  | .fin n m e =>
    if m = 0 then .inf true
    else if n then .nan
    else
      let l := m.log2
      let whole : Int := (l : Int) + e
      if m = 2 ^ l then .ofInt whole 0
      else
        let z := (m - 2 ^ l) * 2 ^ fixP / (m + 2 ^ l)
        let ln := 2 * artanhSeries (z * z / 2 ^ fixP) 160 0 z
        let v : Int := whole * (2 ^ fixP : Int) + ((ln * 2 ^ fixP / fixLn2 : Nat) : Int)
        inexact (decide (v < 0)) v.natAbs (-(fixP : Int)) false

/-- The sine or cosine series of the angle whose square is `r2`, from term `t` at index `k`. -/
def circSeries (r2 : Nat) : Nat → Nat → Nat → Int
  | 0, _, _ => 0
  | fuel + 1, k, t => (t : Int) - circSeries r2 fuel (k + 2) (t * r2 / 2 ^ fixP / ((k + 1) * (k + 2)))

/-- Quarter turns in the magnitude m × 2^e, and the angle left over. -/
def quarterTurns (m : Nat) (e : Int) : Nat × Nat :=
  let x := toFix m e
  (x / fixHalfPi, x % fixHalfPi)

/-- Sine of `q` quarter turns and the angle `r`. -/
def fixSin (q r : Nat) : Int :=
  let r2 := r * r / 2 ^ fixP
  let s := circSeries r2 60 1 r
  let c := circSeries r2 60 0 (2 ^ fixP)
  match q % 4 with
  | 0 => s
  | 1 => c
  | 2 => -s
  | _ => -c

/-- sin x. -/
def xSin : XVal → XVal
  | .nan => .nan
  | .inf _ => .nan
  | .fin n m e =>
    if m = 0 then .fin n 0 0
    else
      let qr := quarterTurns m e
      let v := fixSin qr.1 qr.2
      inexact (n != decide (v < 0)) v.natAbs (-(fixP : Int)) false

/-- cos x. -/
def xCos : XVal → XVal
  | .nan => .nan
  | .inf _ => .nan
  | .fin _ m e =>
    if m = 0 then .fin false 1 0
    else
      let qr := quarterTurns m e
      let v := fixSin (qr.1 + 1) qr.2
      inexact (decide (v < 0)) v.natAbs (-(fixP : Int)) false

/-- tanh x. -/
def xTanh : XVal → XVal
  | .nan => .nan
  | .inf n => .fin n 1 0
  | .fin n m e =>
    if m = 0 then .fin n 0 0
    else if 4 ≤ (m.log2 : Int) + e then .fin n (2 ^ 100 - 1) (-100)
    else
      let w := fixExp (2 * toFix m e)
      inexact n ((w - 2 ^ fixP) * 2 ^ fixP / (w + 2 ^ fixP)) (-(fixP : Int)) false

/-- The special function of index `i` of major 0x08 (R127, R131). -/
def specialFn (i rm : Nat) (x : Nat) : Nat :=
  let v := Fmt.f32.value x
  match i with
  | 0 => roundTo (xRcp v) .f32 rm false
  | 1 => roundTo (xRsq v) .f32 0 false
  | 2 => roundTo (xSqrt v) .f32 rm false
  | 3 => roundTo (xExp2 v) .f32 0 false
  | 4 => roundTo (xLog2 v) .f32 0 false
  | 5 => roundTo (xSin v) .f32 0 false
  | 6 => roundTo (xCos v) .f32 0 false
  | _ => roundTo (xTanh v) .f32 0 false

/-! ### Narrow elements and MX blocks -/

/-- The floating format of a type code (R86). -/
def fmtOf : Nat → Option Fmt
  | 6 => some .f32
  | 7 => some .f64
  | 8 => some .bf16
  | 9 => some .f16
  | 10 => some .e4m3
  | 11 => some .e5m2
  | 12 => some .e3m2
  | 13 => some .e2m3
  | 14 => some .e2m1
  | _ => none

/-- The power of two of an E8M0 byte; `none` for NaN (R60). -/
def e8m0 (s : Nat) : Option Int := if s = 0xFF then none else some ((s : Int) - 127)

/-- A value under an E8M0 scale (R70). -/
def XVal.mx (s : Nat) (x : XVal) : XVal := match e8m0 s with
  | none => .nan
  | some k => x.scale k

/-- Magnitudes of two exact values, compared. -/
def XVal.magLt : XVal → XVal → Bool
  | .fin _ m1 e1, .fin _ m2 e2 =>
    let e := min e1 e2
    decide (m1 * 2 ^ (e1 - e).toNat < m2 * 2 ^ (e2 - e).toNat)
  | .fin _ _ _, .inf _ => true
  | _, _ => false

/-- Exponent of the largest binade of an element format (R71). -/
def Fmt.emax (t : Fmt) : Int := (t.maxMag / 2 ^ t.mb : Nat) - (t.bias : Int)

/-- `mx_pack` (R71): the scale byte and the elements. -/
def mxPack (v : List XVal) (t : Fmt) (rm : Nat) : Nat × List Nat :=
  if v.any (fun x => match x with | .fin _ _ _ => false | _ => true) then (0xFF, v.map (fun _ => 0))
  else
    let amax := v.foldl (fun a x => if XVal.magLt a x then x else a) (.fin false 0 0)
    let x : Int := match amax with
      | .fin _ m e => if m = 0 then -127 else clampInt (-127) 127 ((m.log2 : Int) + e - t.emax)
      | _ => -127
    ((x + 127).toNat, v.map (fun y => roundTo (y.scale (-x)) t rm true))

/-- The sum of a floating reduction's active lanes in the fixed pairwise tree (R78): one level. -/
def treeLevel (f : Nat → Nat → Nat) : List (Option Nat) → List (Option Nat)
  | some a :: some b :: l => some (f a b) :: treeLevel f l
  | some a :: none :: l => some a :: treeLevel f l
  | none :: b :: l => b :: treeLevel f l
  | [x] => [x]
  | [] => []

/-- Five levels (R78). -/
def treeFold (f : Nat → Nat → Nat) (l : List (Option Nat)) : Option Nat :=
  match treeLevel f (treeLevel f (treeLevel f (treeLevel f (treeLevel f l)))) with
  | x :: _ => x
  | [] => none

end Sys2Proof.Machine
end

