-- ==== Sys2Proof/Machine/State.lean ====
section
/-! DEFINITION. The state of the D16: plain data, everything the spec gives the machine (INVENTORY.md, heading State).
Keys of the tables: core = 128·slot + 8·column + row (R406); team = launch·2^28 + grid.team; group = 32·team + group.idx;
barge = 4·team + index; slot = 16·team + n; tables list only what differs from the default. -/

namespace Sys2Proof.Machine

open Sys2Proof

/-- Why the machine stops. Raised by `step` alone. -/
inductive Fault where
  /-- `step` when power has been removed (R408): nothing runs until the package is reset. Safe: it claims nothing. -/
  | powerRemoved
  deriving DecidableEq, Repr

/-- Why an instruction has no meaning. -/
inductive Refusal where
  /-- an arm of `exec` that has not been given its meaning; safe: it claims nothing -/
  | notModelled (mnemonic : String)
  deriving DecidableEq, Repr

/-- The choice of who moves next: log 2. -/
inductive Turn where
  /-- the quadrant selects a group (R50) and its best entry issues -/
  | issue (core quad : Nat)
  /-- the next entry, an address and its lanes, of a group already selected in this cycle (R141) -/
  | path (grp pc : Nat) (lanes : Lanes)
  /-- a barge executes its next instruction -/
  | barge (b : Nat)
  /-- the k-th copy instruction in flight of a barge performs up to `n` units (R278, R282) -/
  | copy (b k n : Nat)
  /-- a step of the device, the host or the management -/
  | event (e : Instr)
  /-- part `k` of operation `op` is performed (R227) -/
  | perform (op k : Nat)
  /-- the k-th invalidation on its way reaches its die (R228) -/
  | invalidate (k : Nat)
  /-- a die drops its copy of a line that holds no unforwarded store -/
  | evict (line die : Nat)
  /-- a translation cache drops its k-th entry -/
  | evictTlb (k : Nat)
  /-- a walk cache drops its k-th entry -/
  | evictWalk (k : Nat)
  /-- an instruction cache drops its k-th word -/
  | evictWord (k : Nat)
  /-- a path of a group fetches the word at an address ahead of its issue (R142) -/
  | fetch (grp va : Nat)
  /-- a barge fetches the word at an address ahead of its execution (R268) -/
  | fetchBarge (b va : Nat)
  /-- a barge's instruction cache drops its words (R261) -/
  | evictBarge (b : Nat)
  /-- the k-th walk in progress ends (R247) -/
  | walkEnd (k : Nat)
  /-- a core takes the k-th reduce team, or the k-th reduce team runs (R374) -/
  | reduce (k core : Nat)
  /-- a cycle of a core ends -/
  | tick (core : Nat)
  /-- a distributor cycle of a die ends (R44, R257) -/
  | mesh (die : Nat)
  /-- the peer of the k-th entry of a core's write-combining buffer has performed its write (R364) -/
  | landed (core k : Nat)
  /-- the host modifies 64 bytes in its cache, by HDM offset (R398) -/
  | hostModify (off data : Nat)
  /-- the host answers the k-th back-invalidate snoop of a line in device bias (R394, R402) -/
  | hostReply (k : Nat)
  /-- the host changes 128 bytes of its own memory of which the package holds no copy (R396) -/
  | hostMemory (line data : Nat)
  /-- a memory device poisons a 32-byte sector of space 3 (R396) -/
  | devicePoison (sector : Nat)
  /-- the host programs the device's HDM decoder registers (R394) -/
  | hdmDecoder (value : Nat)
  /-- the bytes of a 32-byte sector of memory no longer match its check value (R221, R411) -/
  | badSector (sector : Nat)
  /-- the k-th store on its way home, to space 3 or 4, fails its check at port-die exit (R411) -/
  | badExit (k : Nat)
  /-- the k-th entry of a core's write-combining buffer, or a part of a remote operation, fails its check at fabric egress (R360, R411) -/
  | badEgress (core k : Nat)
  /-- the first request that has waited for a granule goes on (R399, R400) -/
  | waiting
  /-- an error of a unit is counted: kind as R409's table lists them, unit within the kind (R409) -/
  | unitError (kind unit : Nat)
  /-- an uncorrectable failure strikes a unit (R409) -/
  | unitFailure (kind unit : Nat)
  /-- management requests come over a path from now on (R392, R414) -/
  | askingFrom (path : Nat)
  /-- the secure session of a path ends (R414) -/
  | sessionEnd (path : Nat)
  deriving DecidableEq, Repr

/-- The issue in hand, set by `step` before `exec`. -/
structure Cur where
  /-- group key -/
  grp : Nat := 0
  /-- present lanes (R98) -/
  lanes : Lanes := 0
  /-- address of the instruction's first word -/
  pc : Nat := 0
  /-- address just after its last word -/
  npc : Nat := 0
  /-- clause header in force, the headers before the instruction included (R142) -/
  hdr : Nat := 0
  /-- barge key, for a barge instruction -/
  barge : Nat := 0
  deriving DecidableEq, Repr

/-- Whose turn it is, the clocks, and the counters that number things. -/
structure Sched where
  agenda : List Turn := []
  cur : Cur := {}
  /-- free values taken so far (log 6) -/
  fresh : Nat := 0
  /-- number of the next operation, in issue order -/
  nextId : Nat := 1
  /-- cycles of each core since its reset (R3, R103) -/
  cycles : Sparse Nat := []
  deriving DecidableEq, Repr

/-- What a 32-byte sector of HBM was last written as (R254, R416, R257). -/
inductive Tag where
  /-- no write since reset -/
  | fresh
  /-- written as plaintext (0) or under a key, as `State.keyNum` numbers it -/
  | under (key : Nat)
  /-- unreadable until a write covers it whole -/
  | bad
  /-- its bytes do not match its check value (R221) -/
  | wrong
  deriving DecidableEq, Repr

/-- A die's L2 copy of a 128-byte line (R228). -/
structure Copy where
  /-- mask of the bytes held -/
  valid : Nat := 0
  /-- the bytes, little-endian -/
  data : Nat := 0
  /-- key identifier and plaintext bit of the access that brought it in (R253), as `State.keyNum` numbers them -/
  key : Nat := 0
  deriving DecidableEq, Repr

/-- A leaf translation as `tlbinv` names it (R249). -/
structure Leaf where
  isGlobal : Bool := false
  asid : Nat := 0
  va : Nat := 0
  /-- its size in bits -/
  size : Nat := 0
  deriving DecidableEq, Repr

/-- A store performed at a die's copy, on its way to the home (R228), or a `.ga` store bound pending (R229). -/
structure Store where
  /-- the operation it belongs to, 0 for a barge's or another package's, and the part: of a group's access its part, of a barge's copy the
  unit, of `mxst` the element -/
  op : Nat
  part : Nat
  /-- number in issue order: one for each instruction -/
  seq : Nat
  /-- whose path it was issued in: core, 2048 + core for a matrix engine, 4096 for another package, or 4097 + barge key (log 20) -/
  agent : Nat
  die : Nat
  /-- canonical physical address (R251) -/
  addr : Nat
  bytes : List Byte
  key : Nat
  /-- launch it counts for (R36) -/
  launch : Nat := 0
  /-- the translation it used (R249), its virtual address, and the cycle of its issue (R222) -/
  leaf : Leaf := {}
  va : Nat := 0
  birth : Nat := 0
  deriving DecidableEq, Repr

/-- An invalidation on its way to a die's copy (R228). -/
structure Inval where
  line : Nat
  die : Nat
  agent : Nat
  seq : Nat
  launch : Nat := 0
  leaf : Leaf := {}
  deriving DecidableEq, Repr

/-- Memory and its copies. -/
structure Memory where
  /-- bytes by canonical physical address; an address not listed reads 0 (R416, log 1) -/
  cells : List Host.Cell := []
  /-- sectors of HBM, by address ÷ 32 -/
  sectors : Sparse Tag := []
  /-- die copies, by 16·line + die -/
  copies : Sparse Copy := []
  /-- stores performed at a copy and not at the home, oldest first -/
  fwd : List Store := []
  /-- `.ga` stores bound pending -/
  gaPend : List Store := []
  invals : List Inval := []
  /-- ack-lost bytes: the values a read may return (R232) -/
  lost : Sparse (List Byte) := []
  /-- initialised chambers: twice the place of the chamber, plus 1 once a plain store has touched it (R181, log 16) -/
  spoiled : List Nat := []
  /-- lines of spaces 3 and 4 whose home slice holds them modified (R223, R396) -/
  dirtyHome : List Nat := []
  /-- 256-byte chunks of the buffers of running plans, by address ÷ 256, and those that have been written since (R372) -/
  watched : List Nat := []
  touched : List Nat := []
  deriving DecidableEq, Repr

/-- A cached leaf translation (R248). -/
structure TlbEntry where
  /-- core, or 4096 + die -/
  owner : Nat
  asid : Nat
  isGlobal : Bool
  /-- first virtual and physical address of the page, and its size in bits -/
  va : Nat
  pa : Nat
  size : Nat
  /-- the entry as read, and where it stands -/
  entry : Nat
  entryAt : Nat
  /-- the key of the walk that read it (R386) -/
  rootKey : Nat
  deriving DecidableEq, Repr

/-- A walk in progress (R247): its identity and the leaf it has read. -/
structure Walk where
  asid : Nat
  /-- VA[56:16] -/
  page : Nat
  leaf : TlbEntry
  /-- a `tlbinv` has removed translations meanwhile: operations numbered below this alone receive its result, which nobody caches (R249) -/
  upto : Option Nat := none
  deriving DecidableEq, Repr

/-- An instruction word held by a core's instruction cache (R250, R328), or a 64-bit one by a barge's (R261). -/
structure CodeWord where
  core : Nat
  asid : Nat
  va : Nat
  pa : Nat
  word : Nat
  /-- key identifier and plaintext bit of the fetch, as `State.keyNum` numbers them (R253) -/
  key : Nat := 0
  deriving DecidableEq, Repr

/-- A table entry in a walk cache (R247): its address, the key of the walk that read it (R386), and its value. -/
structure TableWord where
  addr : Nat
  key : Nat
  value : Nat
  deriving DecidableEq, Repr

/-- A die's slice map and the retirement in course (R256, R257). -/
structure SliceState where
  /-- entries that differ from entry mod 512 -/
  map : Sparse Nat := []
  /-- the map that cores are adopting -/
  newMap : Sparse Nat := []
  /-- 0 none, 1 flush, 2 switch -/
  phase : Nat := 0
  slice : Nat := 0
  /-- cores of the die that have adopted the new map -/
  adopted : List Nat := []
  /-- consecutive mesh cycles, since every core has adopted, with empty input queues -/
  quiet : Nat := 0
  retired : List Nat := []
  deriving DecidableEq, Repr

/-- Address translation, keys and slices. -/
structure Xlat where
  /-- ASID root table (R386) -/
  roots : Sparse Nat := []
  tlb : List TlbEntry := []
  /-- walk-cache content (R247) -/
  walk : List TableWord := []
  /-- walks in progress, at most 64 -/
  walks : List Walk := []
  code : List CodeWord := []
  /-- key slots: 0 empty, key + 1 (R253) -/
  keys : Sparse Nat := []
  /-- slots whose load waits for the accesses in flight: the number of the next operation when it was asked for (R255) -/
  loads : Sparse Nat := []
  slices : Sparse SliceState := []
  deriving DecidableEq, Repr

/-- A sub-tile predicted zero (R302): the team whose engine read it, the scratchpad offset of its first byte, and the 16-byte blocks it
lies in. -/
structure ZeroTile where
  team : Nat
  off : Nat
  blocks : List Nat
  deriving DecidableEq, Repr

/-- On-chip memories (R187). -/
structure Scratch where
  /-- core scratchpads, by team·2^20 + offset -/
  core : Sparse Byte := []
  /-- lane-private areas, by group·2^20 + area offset (R192) -/
  lane : Sparse Byte := []
  /-- die scratchpads, by die·2^25 + physical offset (R194) -/
  die : Sparse Byte := []
  /-- physical units of a launch on a die, by 16·launch + die (R194) -/
  units : Sparse (List Nat) := []
  /-- what the matrix engines predict of core scratchpads (R302) -/
  zero : List ZeroTile := []
  deriving DecidableEq, Repr

/-- A token (R169), with the failure record `tokf` (R220) and the operations outstanding in it, oldest first (R172). -/
structure Token where
  cls : Nat := 0
  count : Nat := 0
  bytes : Nat := 0
  poison : Bool := false
  cause : Nat := 0
  armed : Bool := false
  scope : Nat := 0
  addr : Nat := 0
  tokf : Nat := 0
  fifo : List Nat := []
  deriving DecidableEq, Repr

/-- A path parked at an `mwait` (R150). -/
structure Parked where
  lanes : Lanes
  /-- predicate destination name -/
  pd : Nat
  bounded : Bool
  deadline : Nat
  /-- address after the `mwait` -/
  npc : Nat
  deriving DecidableEq, Repr

/-- A join mask (R147) with its signed set (R292). -/
structure JoinMask where
  members : Lanes := 0
  parked : Lanes := 0
  site : Option Nat := none
  paths : List Parked := []
  signed : Lanes := 0
  deriving DecidableEq, Repr

/-- What a group is doing (R311, R317, R320, R323). -/
inductive Mode where
  | running
  /-- stopped, before its handler -/
  | halted
  | handler
  | debugStop
  /-- context saved, no core held -/
  | saved
  deriving DecidableEq, Repr

/-- What a raised cause leaves for the frame (R310, R314). -/
structure CauseRec where
  cause : Nat := 0
  lane : Nat := 0
  code : Nat := 0
  /-- cause of each lane -/
  causes : Sparse Nat := []
  present : Lanes := 0
  tokv : Bool := false
  token : Nat := 0
  tcause : Nat := 0
  /-- the group is an origin -/
  self : Bool := false
  deriving DecidableEq, Repr

/-- A queue read withdrawn at a halt (R166). -/
structure QRead where
  dest : Nat
  queue : Nat
  wide : Bool
  fb : Bool
  lanes : Lanes
  deriving DecidableEq, Repr

/-- A fence that waits (R238). -/
structure Fence where
  pc : Nat
  scope : Nat
  rel : Bool
  acq : Bool
  /-- operations and stores numbered below this are covered -/
  upto : Nat
  /-- it holds the accesses of the group's other paths: a `fence` does, a `tfence` does not (R238, R239) -/
  holds : Bool := true
  /-- begun in this cycle: the cycle's other path has been selected with it (R141) -/
  now : Bool := true
  deriving DecidableEq, Repr

/-- An operand latch of a frontier entry (R112). -/
structure Latch where
  /-- lanes of the entry -/
  lanes : Lanes
  /-- the latch of source B -/
  second : Bool
  /-- operand name, 32-bit words, and the value of each lane -/
  name : Nat
  words : Nat
  vals : Sparse Nat
  deriving DecidableEq, Repr

/-- One group (R104). -/
structure Group where
  admitted : Bool := false
  quad : Nat := 0
  /-- in the active set (R49) -/
  active : Bool := false
  live : Lanes := 0
  pcs : Sparse Nat := []
  /-- clause header in force of each lane -/
  hdrs : Sparse Nat := []
  /-- lanes whose next word must be a header (R30, R90) -/
  need : Lanes := 0
  /-- vector registers, by 32·register + lane -/
  v : Sparse Word := []
  s : Sparse Word := []
  p : Sparse Word := []
  joins : Sparse JoinMask := []
  held : Bool := false
  /-- a `racq` that waits: its lanes, the address after it, and its header (R110) -/
  racq : Option (Lanes × Nat × Nat) := none
  /-- an `rrel` at this address blocks the group (R110) -/
  rrelAt : Option Nat := none
  flags : Sparse Nat := []
  /-- the flags as they stood at the start of the cycle (R165) -/
  flags0 : Sparse Nat := []
  /-- flags that have become long-latency (R51) -/
  longFlags : List Nat := []
  toks : Sparse Token := []
  htoks : Sparse Token := []
  /-- poison marks: register name to what covers it (R167): own token + 1, handler token + 17, 33 where no token is known -/
  marks : Sparse Nat := []
  /-- the marks as they stood at handler entry -/
  savedMarks : Sparse Nat := []
  /-- tokens that a `tclr` has cleared already, by its address (R178) -/
  clears : Sparse Nat := []
  /-- operand latches of the entries (R112) -/
  latches : List Latch := []
  nbpend : Nat := 0
  nbph : Nat := 0
  gen : Nat := 0
  /-- team-wide barriers arrived at (R327) -/
  csGen : Nat := 0
  mode : Mode := .running
  /-- instructions still allowed after a halt broadcast (R311) -/
  skidLeft : Option Nat := none
  skid : Nat := 0
  /-- entered for pre-emption, or after resumption (R314) -/
  entPreempt : Bool := false
  entResume : Bool := false
  cause : CauseRec := {}
  /-- queue reads withdrawn, the oldest first: the frame records the first (R166, log 47) -/
  qread : List QRead := []
  /-- lanes live at handler entry (R319) -/
  liveAtEntry : Lanes := 0
  /-- tokens a `tsleep` waits for, any of them, and its address (R176) -/
  sleep : Option (Nat × Bool × Nat) := none
  fences : List Fence := []
  /-- paths that wait at a named barrier: address, barrier, and whether its phase has flipped (R204) -/
  nbWaits : List (Nat × Nat × Bool) := []
  /-- paths that wait at `csync.team` or `gsync`: address, and the generation awaited (R327, R329) -/
  genWaits : List (Nat × Nat) := []
  /-- words the group's paths have fetched and not issued (R142, R327) -/
  fetched : Sparse Nat := []
  /-- paths stalled on an operation whose flag field is 15 (R90): operation and lanes -/
  stalls : List (Nat × Lanes) := []
  /-- semaphore waits of the group's paths: semaphore and address of the `swait` -/
  semWaits : List (Nat × Nat) := []
  /-- a breakpoint does not fire on the next instruction (R324) -/
  skipBreak : Bool := false
  /-- instructions a step command still allows (R324) -/
  stepLeft : Nat := 0
  /-- counters 0 to 3 of `pmrd` (R330) -/
  issued : Nat := 0
  resident : Nat := 0
  unselected : Nat := 0
  ineligible : Nat := 0
  /-- cycles without an issue (R322) -/
  idle : Nat := 0
  /-- this cycle: selected, the entries selected that have not issued yet (R141), entries issued, scalars and predicates written
  (by the how-manieth entry to issue, name, value for another one; R93), a cause raised, issued alone -/
  tried : Bool := false
  picks : List (Nat × Lanes) := []
  issuedNow : Nat := 0
  prot : List (Nat × Nat × Lanes) := []
  /-- scalars that operations issued in this cycle will write: by the how-manieth entry to issue, name, operation (R93) -/
  late : List (Nat × Nat × Nat) := []
  raisedNow : Bool := false
  /-- cause of a double fault that waits for the other entry of this cycle (R310, R318) -/
  dfault : Option Nat := none
  alone : Bool := false
  /-- not selected in the next cycle (R154) -/
  yielded : Bool := false
  /-- its last lane has exited and its registers are back (R154) -/
  left : Bool := false
  deriving DecidableEq, Repr

/-- A named barrier (R202). -/
structure Barrier where
  expected : Nat := 0
  arrived : Nat := 0
  phase : Bool := false
  mask : Nat := 0
  deriving DecidableEq, Repr

/-- The scale set (R299). -/
structure ScaleSet where
  m : Nat
  n : Nat
  kq : Nat
  /-- bytes by row·64 + group -/
  sa : Sparse Nat
  sb : Sparse Nat
  deriving DecidableEq, Repr

/-- One team. -/
structure Team where
  resident : Bool := false
  core : Nat := 0
  /-- cycle of admission or resumption (R47), made distinct by the order of commits -/
  age : Nat := 0
  launch : Nat := 0
  cluster : Nat := 0
  exited : Bool := false
  nbs : Sparse Barrier := []
  /-- barge queues q32 to q63 (R280) -/
  queues : Sparse (List Nat) := []
  /-- breakpoints: address + 1 (R323) -/
  breaks : Sparse Nat := []
  /-- reported cause and origin of the halt (R310) -/
  cause : Nat := 0
  origin : Nat := 0
  /-- the halt leads to debug stop, not to the handler -/
  debug : Bool := false
  /-- a debugger's halt waits for the handlers to end (R317) -/
  wantDebug : Bool := false
  /-- origins whose halt broadcast waits for the handlers to end (R317) -/
  wantHalt : List Nat := []
  /-- a step command runs -/
  stepping : Bool := false
  /-- team-wide barriers completed (R327) -/
  csEpoch : Nat := 0
  /-- barges whose `.halt` fault is held (R264) -/
  heldHalts : List Nat := []
  /-- group index, plus 32 times the elected lane, of the entries of the parked matrix queue, in order (R306, log 22) -/
  mxOwners : List Nat := []
  /-- the scale sets with which those of them had started, in order (R299, R306, log 22) -/
  mxScales : List (Option ScaleSet) := []
  /-- it held the matrix engine when its context was saved (R288) -/
  mxHeld : Bool := false
  /-- ring passes it has issued that wait for a packet, and packets forwarded to it, by ring identifier (R376) -/
  ringsOut : Sparse Nat := []
  ringsIn : Sparse Nat := []
  deriving DecidableEq, Repr

/-- One cluster: by launch·2^24 + clu.idx. -/
structure Cluster where
  placed : Bool := false
  /-- context saved, waiting to resume (R40) -/
  saved : Bool := false
  released : Bool := false
  launch : Nat := 0
  die : Nat := 0
  col : Nat := 0
  row : Nat := 0
  deriving DecidableEq, Repr

/-- Where a launch stands. -/
inductive Stage where
  /-- in its queue, not at dispatch -/
  | queued
  /-- dispatching or running -/
  | running
  | preempted
  /-- completion record written or refused -/
  | complete
  deriving DecidableEq, Repr

/-- An edge of a launch (R33, R35): its producer as the edge table was read, or the status of one no longer live, and its regions. -/
structure Edge where
  producer : Option Nat := none
  status : Nat := 0
  /-- base and length -/
  regions : List (Nat × Nat) := []
  deriving DecidableEq, Repr

/-- A launch: its record (R28), its trap control block (R313) and its progress. -/
structure Launch where
  stage : Stage := .queued
  queue : Nat := 0
  asid : Nat := 0
  launchid : Nat := 0
  clusters : Nat := 0
  w : Nat := 1
  h : Nat := 1
  gridsync : Bool := false
  comm : Bool := false
  entry : Nat := 0
  groups : Nat := 1
  full : Nat := 32
  scalars : Nat := 0
  preds : Nat := 0
  lanepriv : Nat := 0
  scratch : Nat := 0
  barges : Nat := 0
  diescratch : Nat := 0
  args : Nat := 0
  done : Nat := 0
  edges : Nat := 0
  edgecnt : Nat := 0
  edgeList : List Edge := []
  /-- edges resolved, and whether a producer did not complete with 0x00 -/
  satisfied : List Nat := []
  edgeBad : Bool := false
  /-- dispatch has begun: the trap control block has been read -/
  begun : Bool := false
  /-- a pre-emption is in course -/
  halting : Bool := false
  handler : Nat := 0
  savebase : Nat := 0
  slot : Nat := 0
  priv : Bool := false
  pmcore : Bool := false
  debug : Bool := false
  wdog : Nat := 0
  next : Nat := 0
  exits : Nat := 0
  /-- status, cause and team of an outcome already fixed (R36, R389) -/
  outcome : Option (Nat × Nat × Nat) := none
  /-- grid barrier (R329) -/
  epoch : Nat := 0
  count : Nat := 0
  /-- a gang being placed (R55) -/
  gang : Bool := false
  cancelled : Bool := false
  deriving DecidableEq, Repr

/-- The command processor's queues and their launches. -/
structure Work where
  launches : Sparse Launch := []
  /-- launches of each queue in order -/
  order : Sparse (List Nat) := []
  /-- a ring entry read, its launch record not yet taken: record address + 1 -/
  taking : Sparse Nat := []
  /-- the last 256 completed: launchid and status (R35) -/
  recent : Sparse (List (Nat × Nat)) := []
  clusters : Sparse Cluster := []
  nextLaunch : Nat := 1
  /-- number of rectangles committed, which orders team ages -/
  commits : Nat := 0
  /-- launches dispatched as gangs, in the order in which they became so (R55) -/
  gangs : List Nat := []
  /-- queue served last, by priority (R32) -/
  lastServed : Sparse Nat := []
  deriving DecidableEq, Repr

/-- Kinds of outstanding operation. -/
inductive OpKind where
  | special | shuffle | load | atom | queueRead | posted | charr
  | global | dieScratch | acqr | clean | inval | icinv | tlbinv | bias
  | tjoin | tsig | bargeRun | bstop | bres | matrix | nmv | qflush
  | put | rld | ratom | wcflush | clplan | clgo | rring
  deriving DecidableEq, Repr

/-- The failure of an access (R219). -/
structure Failure where
  cause : Nat
  lane : Nat := 0
  addr : Nat := 0
  write : Bool := false
  /-- the failure is one that `tokf` records -/
  valid : Bool := true
  deriving DecidableEq, Repr

/-- An outstanding operation. -/
structure Op where
  kind : OpKind := .special
  grp : Nat := 0
  core : Nat := 0
  major : Nat := 0
  idx : Nat := 0
  f : Option ExtForm := none
  active : Lanes := 0
  flag : Option Nat := none
  /-- output token, of the handler's sixteen or of the group's -/
  tok : Option Nat := none
  handler : Bool := false
  /-- held on preconditions: further retirements awaited, by token (R173) -/
  held : Bool := false
  mask : Nat := 0
  waits : Sparse Nat := []
  /-- the state of its preconditions, set when the last awaited retirement is in: the cause of a poisoned one (R173) -/
  pre : Option (Option Nat) := none
  /-- a halt has withdrawn this queue read, which takes no entry any more (R166) -/
  withdrawn : Bool := false
  /-- register names it will write, in word order (R167) -/
  dests : List Nat := []
  /-- scalars among them that the other path of its cycle writes too, with that path's operation, 0 for a write already made (R93) -/
  rivals : List (Nat × Nat) := []
  addr : Sparse Nat := []
  data : Sparse Nat := []
  cmp : Sparse Nat := []
  vals : Sparse Nat := []
  /-- parts performed, and parts whose write has reached its home -/
  performed : List Nat := []
  homed : List Nat := []
  /-- the translation each part used (R249) -/
  leaves : Sparse Leaf := []
  /-- stations by which the parts of a remote access were sent, plus 1 (R358) -/
  sentBy : Sparse Nat := []
  fail : Option Failure := none
  /-- bytes not transferred because a part failed -/
  lostBytes : Nat := 0
  /-- finished and waiting for older operations of its token: bytes, and the failure -/
  result : Option (Nat × Option Failure) := none
  birth : Nat := 0
  /-- kind-specific numbers -/
  x : Nat := 0
  y : Nat := 0
  z : List Nat := []
  deriving DecidableEq, Repr

/-- States of a barge (R262). -/
inductive BargeMode where
  | idle | armed | running | waiting | faulted | stopped
  deriving DecidableEq, Repr

/-- A fault of a barge: cause and failing access (R267, R284). -/
structure BargeFault where
  cause : Nat
  valid : Bool := false
  write : Bool := false
  space : Nat := 0
  addr : Nat := 0
  ndone : Nat := 0
  deriving DecidableEq, Repr

/-- An entry of a barge's loop stack. -/
structure LoopEntry where
  count : Nat
  start : Nat
  stop : Nat
  deriving DecidableEq, Repr

/-- A copy instruction in flight: it has begun, and later instructions may begin before it is complete (R282). -/
structure Flight where
  /-- its opcode, 0x13 to 0x16, its fields, its word and address, and the registers and loops as it found them -/
  op : Nat
  f : BargeForm
  word : Nat
  pc : Nat
  a : Sparse Nat
  loops : List LoopEntry
  /-- the two layout records as it read them, 64 bytes each (R273) -/
  recs : Nat × Nat
  /-- its number in issue order -/
  seq : Nat
  /-- units performed; of them, those of an earlier run (R284) -/
  unit : Nat := 0
  first : Nat := 0
  fault : Option BargeFault := none
  deriving DecidableEq, Repr

/-- A barge (R261). -/
structure Barge where
  mode : BargeMode := .idle
  pc : Nat := 0
  a : Sparse Nat := []
  /-- top first -/
  loops : List LoopEntry := []
  owner : Nat := 0
  token : Nat := 0
  handler : Bool := false
  left : Nat := 0
  /-- operations of the run still outstanding -/
  ops : List Nat := []
  since : Nat := 0
  halt : Bool := false
  mask : Nat := 0
  waits : Sparse Nat := []
  /-- the state of its preconditions when the last awaited retirement was in (R173) -/
  pre : Option (Option Nat) := none
  cause : Nat := 0
  word : Nat := 0
  fault : BargeFault := { cause := 0 }
  /-- a fault found and not yet taken -/
  pending : Option BargeFault := none
  code : List CodeWord := []
  parked : Bool := false
  /-- it stops at its next instruction boundary, its run poisoned with this cause (R389) -/
  stopping : Option Nat := none
  /-- copy instructions begun and not complete, in program order (R282) -/
  flight : List Flight := []
  /-- units of the instruction at pc that an earlier run has performed (R284) -/
  first : Nat := 0
  /-- operations and stores below this number are covered by the release the barge waits in (R233, R282) -/
  rel : Option Nat := none
  /-- semaphore whose queue it has joined, plus 1 -/
  semWait : Nat := 0
  /-- named barrier at which it waits, and whether its phase has flipped (R204, R281) -/
  nbWait : Option (Nat × Bool) := none
  deriving DecidableEq, Repr

/-- Who waits in a semaphore's queue (R208). -/
inductive Waiter where
  | path (grp pc : Nat)
  | barge (b : Nat)
  deriving DecidableEq, Repr

/-- An operation of a matrix engine's queue, and a parked image (R300, R307). -/
structure MxOp where
  /-- outstanding operation, 0 for one loaded from an image whose operation is not known -/
  op : Nat := 0
  major : Nat := 0
  minor : Nat := 0
  mods : Nat := 0
  grp : Nat := 0
  token : Nat := 0
  handler : Bool := false
  mask : Nat := 0
  waits : Sparse Nat := []
  /-- the state of its preconditions when the last awaited retirement was in (R173) -/
  pre : Option (Option Nat) := none
  shape : Nat := 0
  a : Nat := 0
  b : Nat := 0
  lane : Nat := 0
  /-- it computes or transfers; K completed ÷ 16; rendezvous and multicast done -/
  started : Bool := false
  kdone : Nat := 0
  mc : Bool := false
  /-- the engine has read its records: 64 bytes each, as numbers -/
  opened : Bool := false
  recA : Nat := 0
  recB : Nat := 0
  /-- its cluster tile has met, its multicast is on its way (R296) -/
  met : Bool := false
  /-- cause of a record check that failed -/
  bad : Nat := 0
  /-- the transfer has made its accesses: bytes, and the first failure with its element (R298) -/
  sent : Option (Nat × Option (Nat × Failure)) := none
  /-- the scale set as it stood when a `.mx` operation started (R299) -/
  scales : Option ScaleSet := none
  /-- a pre-emption has found it started: whether it stops at its next k-step boundary (R306) -/
  parks : Option Bool := none
  deriving DecidableEq, Repr

/-- A matrix engine (R287 to R307). -/
structure Engine where
  holder : Option Nat := none
  zeroing : Bool := false
  /-- accumulators by 256·row + column -/
  tile : Sparse Word := []
  scales : Option ScaleSet := none
  queue : List MxOp := []
  /-- images of the parked queue: doublewords by 8·entry + word -/
  images : Sparse Nat := []
  nimages : Nat := 0
  /-- operations behind the parked images, for their tokens -/
  parked : List MxOp := []
  budget : Nat := 64
  budgetNow : Nat := 64
  /-- 64-cycle window in course, and steps made in it (R303) -/
  window : Nat := 0
  steps : Nat := 0
  /-- half steps made of the k-step in course -/
  progress : Nat := 0
  stall : Nat := 0
  zmiss : Nat := 0
  zskip : Nat := 0
  deriving DecidableEq, Repr

/-- An entry of the write-combining buffer (R363). -/
structure WcEntry where
  peer : Nat
  line : Nat
  mask : Nat
  data : Nat
  ga : Bool
  birth : Nat
  /-- its drain has started, not yet performed -/
  draining : Bool := false
  /-- the station it has been sent by (R358) -/
  via : Option Nat := none
  /-- looped back and performed at its home under this number, copies still to be invalidated; 0 before (R228) -/
  seq : Nat := 0
  /-- operations whose bytes it carries -/
  ops : List Nat := []
  deriving DecidableEq, Repr

/-- A ring packet (R376). -/
structure Packet where
  /-- team it goes to -/
  team : Nat
  id : Nat
  pos : Nat
  n : Nat
  fmt : Nat
  bytes : Nat
  poisoned : Bool
  data : List Word
  deriving DecidableEq, Repr

/-- One core. -/
structure Core where
  sems : Sparse Nat := []
  semQueues : Sparse (List Waiter) := []
  engine : Engine := {}
  wc : List WcEntry := []
  packets : List Packet := []
  hot : Nat := 95
  /-- latest reading of its temperature sensor -/
  reading : Option Nat := none
  tooHot : Bool := false
  /-- cycles of the droop events of the last 65,536 -/
  droops : List Nat := []
  lastDroop : Nat := 0
  drooping : Bool := false
  marked : Bool := false
  retired : Bool := false
  /-- counters 4 to 7 of `pmrd` (R330) -/
  quadIssues : Nat := 0
  misses : Nat := 0
  bargeBytes : Nat := 0
  mxSteps : Nat := 0
  /-- quadrants that have issued this cycle -/
  served : List Nat := []
  /-- vector registers returned in this cycle, which the next one may grant (R110) -/
  returned : Nat := 0
  deriving DecidableEq, Repr

/-- A bag of a table slot (R345). -/
structure Bag where
  isOpen : Bool := false
  poisoned : Bool := false
  cause : Nat := 0
  count : Nat := 0
  acc : Sparse Word := []
  deriving DecidableEq, Repr

/-- A table slot (R338). -/
structure Slot where
  configured : Bool := false
  base : Nat := 0
  rows : Nat := 0
  rowunits : Nat := 0
  fmt : Nat := 0
  bags : Nat := 0
  bagbase : Nat := 0
  stack : Nat := 0
  units : Nat := 0
  /-- commands not yet performed, oldest first, each with the number of the next operation at its push -/
  cmds : List (Nat × Nat) := []
  done : List Nat := []
  bag : Sparse Bag := []
  /-- an `nmcfg` of the slot waits: group and address (R343, R350) -/
  cfgWaits : List (Nat × Nat) := []
  deriving DecidableEq, Repr

/-- Near memory. -/
structure Near where
  slots : Sparse Slot := []
  /-- accumulator units in use, by stack, of 2048 -/
  used : Sparse Nat := []
  deriving DecidableEq, Repr

/-- A UALink station (R357 to R359). -/
structure Station where
  down : Bool := false
  lanes : Nat := 4
  /-- key + 1 of each direction, 0 none -/
  tx : Nat := 0
  rx : Nat := 0
  /-- flits sent under the current key, and flits in a row that failed authentication (R359) -/
  count : Nat := 0
  fails : Nat := 0
  deriving DecidableEq, Repr

/-- How something leaves: its station, and the nonce of its first flit (R358, R359). -/
structure Flit where
  station : Nat
  nonce : Nat
  deriving DecidableEq, Repr

/-- What the package sends to a peer or hands to the host: its own record of what leaves it (log 17). -/
inductive Message where
  /-- the valid bytes of a write-combining entry, with the operations they belong to; `checks` are the check values of the sectors (R360) -/
  | write (f : Flit) (peer line mask data : Nat) (ga : Bool) (ops checks : List Nat)
  | read (f : Flit) (peer addr size : Nat)
  | atomic (f : Flit) (peer addr op ty data cmp : Nat) (ga : Bool) (checks : List Nat)
  | counter (f : Flit) (peer addr add : Nat) (ga : Bool) (checks : List Nat)
  | response (f : Flit) (peer : Nat) (ok : Bool) (data : Nat) (checks : List Nat)
  | notice (f : Flit) (peer tag sender cause : Nat)
  | rendezvous (f : Flit) (peer tag kind g sbytes sender : Nat)
  | chunk (f : Flit) (peer tag pos chunk data : Nat) (checks : List Nat)
  | hostData (off data : Nat) (poison : Bool)
  | hostCmp (off : Nat)
  | unsupported (addr : Nat)
  | biRspI (addr : Nat)
  | snoopAnswer (addr data : Nat)
  | biSnpInv (hostLine : Nat)
  | biSnpCur (hostLine : Nat)
  /-- CXL.cache requests for a line of space 4: a shared copy, or ownership (R396) -/
  | cacheRead (line : Nat)
  | cacheOwn (line : Nat)
  /-- PCIe memory requests to a host without CXL (R384) -/
  | pcieRead (addr size : Nat)
  | pcieWrite (addr data size : Nat)
  | measurement (transport idx : Nat) (bytes : List Byte)
  | signed (transport : Nat) (bytes : List Byte)
  | algorithms (transport chosen hash : Nat)
  | spdmError (transport : Nat)
  | refusedRequest
  deriving DecidableEq, Repr

/-- An answer to a request of a peer: the station by which the request came, whether it succeeded, and the value, of `size` bytes at a
window offset, or the cause. -/
structure Answer where
  station : Nat
  peer : Nat
  ok : Bool
  data : Nat
  off : Nat := 0
  size : Nat := 0
  deriving DecidableEq, Repr

/-- A plan in course (R372 to R375), by the number of its `clgo`. -/
structure Plan where
  launch : Nat := 0
  /-- doublewords of the mesh record and the two layouts -/
  words : List Nat := []
  kind : Nat := 0
  axis : Nat := 0
  g : Nat := 1
  pos : Nat := 0
  sbytes : Nat := 0
  tbytes : Nat := 0
  /-- identifiers of the members by position -/
  members : List Nat := []
  /-- members that have presented the tag -/
  present : List Nat := []
  running : Bool := false
  /-- chunks that have arrived, by 1024·chunk + position (log 26) -/
  arrived : Sparse Nat := []
  /-- final chunks of the target -/
  final : List Nat := []
  /-- 256-byte chunks of its source, target and staging: virtual address, and canonical address ÷ 256 (R372) -/
  watch : List (Nat × Nat) := []
  deriving DecidableEq, Repr

/-- A reduce team (R374): a communication team of one group that sums a reduce unit of a plan. -/
structure ReduceTeam where
  /-- the operation of the plan -/
  plan : Nat
  /-- number of the unit: 64 KiB of target -/
  unit : Nat
  /-- its core; none while it waits in queue 63 -/
  core : Option Nat := none
  /-- cause of a fault that is to abort the plan -/
  fault : Option Nat := none
  deriving DecidableEq, Repr

/-- The fabric and the collective engine. -/
structure Fabric where
  podId : Option Nat := none
  exports : Sparse Nat := []
  stations : Sparse Station := []
  plans : Sparse Plan := []
  /-- reduce teams, in the order of their dispatch (R374) -/
  reduces : List ReduceTeam := []
  /-- abort notices kept: tag, sender, cause (R375) -/
  kept : List (Nat × Nat × Nat) := []
  /-- members whose notice of a plan already over here may still come: tag, sender (log 27) -/
  spent : List (Nat × Nat) := []
  /-- rendezvous presented before the local `clgo`: tag, kind, g, sbytes, sender -/
  presented : List (Nat × Nat × Nat × Nat × Nat) := []
  transit : List Packet := []
  sent : List Message := []
  /-- answers to peers that wait until no copy of what they wrote is left: number of the write, answer (R227, R362) -/
  owed : List (Nat × Answer) := []
  deriving DecidableEq, Repr

/-- A flip of a granule in course (R399, R400). -/
structure Flip where
  granule : Nat
  toHost : Bool
  /-- snoops sent, replies received (64 bits) -/
  sent : Bool := false
  replies : Nat := 0
  /-- the operation that asked -/
  op : Nat := 0
  deriving DecidableEq, Repr

/-- What the host's cache holds of 64 bytes of HDM (R398, R402). -/
structure HostCopy where
  data : Nat
  /-- modified, and not yet written back -/
  dirty : Bool
  deriving DecidableEq, Repr

/-- A request that waits at the home for a granule to flip (R399, R400). -/
inductive Request where
  /-- a part of a group's access -/
  | part (op k : Nat)
  /-- a host read or write, by HDM offset -/
  | read (off : Nat)
  | write (off data mask : Nat)
  deriving DecidableEq, Repr

/-- The host interface. -/
structure HostIf where
  /-- queue blocks: doubleword 8·q + k (R387) -/
  queue : Sparse Nat := []
  /-- by queue: the launch that its command in progress acts on (R389) -/
  acting : Sparse Nat := []
  /-- debug mailbox doublewords by offset ÷ 8 (R391) -/
  mailbox : Sparse Nat := []
  /-- MSI-X signals by vector (R385) -/
  msix : Sparse Nat := []
  /-- bias bits by granule (R397) -/
  bias : Sparse Bool := []
  flips : List Flip := []
  /-- requests that wait for a granule, in the order of their arrival (R399, R400) -/
  waiting : List (Nat × Request) := []
  /-- what the host's cache holds of HDM, by canonical address ÷ 64 (R398, R402) -/
  copies : Sparse HostCopy := []
  /-- back-invalidate snoops of lines in device bias not yet answered: canonical address ÷ 64, and the number of the first store that each
  is for (R394, R402) -/
  backInv : List (Nat × Nat) := []
  /-- lines of space 4 whose home slice holds them: 1 shared, 2 owned (R396) -/
  lines : Sparse Nat := []
  /-- the HDM decoder registers as the host has programmed them (R394) -/
  decoder : Nat := 0
  /-- HDM key: 0 plaintext, slot + 1 (R394) -/
  hdmKey : Nat := 0
  /-- space-3 windows by port: base and limit (R396) -/
  windows : Sparse (Nat × Nat) := []
  /-- capacity extents: port, base, length -/
  extents : List (Nat × Nat × Nat) := []
  /-- ports trained without CXL; rate and width by port -/
  noCxl : List Nat := []
  rate : Sparse Nat := []
  width : Sparse Nat := []
  ideKeys : Sparse Nat := []
  deriving DecidableEq, Repr

/-- One stage of the boot log (R412). -/
structure BootEntry where
  stage : Nat
  version : Nat
  digest : List Byte
  deriving DecidableEq, Repr

/-- A die as the hub and the management see it. -/
structure DieState where
  rerouted : Bool := false
  offline : Bool := false
  /-- the slot that carries its traffic while rerouted -/
  via : Nat := 0
  /-- operations numbered below this were issued before the hub link failed (R231) -/
  failedAt : Nat := 0
  linkDown : Bool := false
  lanes : Nat := 16
  /-- communication reserve size and marks (R43, R44) -/
  reserve : Nat := 0
  high : Nat := 16
  low : Nat := 2
  /-- run lengths of distributor cycles above the high and below the low mark -/
  above : Nat := 0
  below : Nat := 0
  deriving DecidableEq, Repr

/-- The device identity (R413): an ML-DSA-44 key pair that the ROM derives from the fused secret, and the chain that certifies it. -/
structure Identity where
  secretKey : List Byte := Config.privateKey Config.fusedSecret
  publicKey : List Byte := Config.publicKey Config.fusedSecret
  chain : List Byte := Config.certChain (Config.publicKey Config.fusedSecret)
  deriving DecidableEq, Repr

/-- Management, power, degraded operation and trust. -/
structure Mgmt where
  powered : Bool := true
  /-- the device identity, derived anew at each reset (R413) -/
  identity : Identity := {}
  dies : Sparse DieState := []
  privMask : Nat := 0
  thresholds : Sparse Nat := []
  /-- errors counted, by 7·unit + kind, and the units that an uncorrectable failure has struck, until they are retired (R409) -/
  errors : Sparse Nat := []
  struck : List Nat := []
  limit : Nat := 6400
  estimate : Nat := 0
  samples : Nat := 0
  /-- the last 16 samples in mW, the latest first -/
  history : List Nat := []
  alarm : Bool := false
  replace : Bool := false
  /-- rows retired without a spare, and spares used by stack -/
  rows : Nat := 0
  spares : Sparse Nat := []
  banks : Nat := 0
  boot : List BootEntry := []
  /-- running digest D as 32 bytes; empty stands for 32 zero bytes -/
  digest : List Byte := []
  /-- requesters that hold a secure session with mutual authentication, by path: 3·requester + transport (R414) -/
  sessions : List Nat := []
  /-- the path over which the management request at hand comes (R392, R414) -/
  asking : Nat := 0
  /-- requesters that offer the package's algorithms, by path, and what they offered (R413) -/
  agreed : Sparse (List Nat) := []
  /-- failures logged to management -/
  log : Nat := 0
  deriving DecidableEq, Repr



/-- The state of the package. -/
structure State where
  sched : Sched := {}
  mem : Memory := {}
  xlat : Xlat := {}
  scr : Scratch := {}
  work : Work := {}
  teams : Sparse Team := []
  groups : Sparse Group := []
  ops : Sparse Op := []
  barges : Sparse Barge := []
  cores : Sparse Core := []
  near : Near := {}
  fabric : Fabric := {}
  host : HostIf := {}
  mgmt : Mgmt := {}
  deriving DecidableEq, Repr

/-- The package right after reset: every table at its defaults, which are the reset values the spec gives
(R41, R44, R303, R357, R361, R387, R392, R397, R407, R412, R416) and those of log 10. -/
def State.reset : State := {}

end Sys2Proof.Machine
end

