-- ==== Sys2Proof/Machine/Access.lean ====
section
/-! DEFINITION. Reading and updating the tables of State: every part of the machine has one home, and every meaning goes
through these operations. -/

namespace Sys2Proof.Machine

open Sys2Proof

/-- The outcome of a step of this machine. -/
abbrev Out := Host.Outcome State Fault Refusal

/-! ### Keys -/

/-- Team of a group key. -/
def teamOf (grp : Nat) : Nat := grp / 32

/-- `group.idx` of a group key. -/
def idxOf (grp : Nat) : Nat := grp % 32

/-- Launch of a team key. -/
def launchOfTeam (team : Nat) : Nat := team / 2 ^ 28

/-- `grid.team` of a team key (R25). -/
def gridTeamOf (team : Nat) : Nat := team % 2 ^ 28

/-- Launch of a group key. -/
def launchOfGrp (grp : Nat) : Nat := launchOfTeam (teamOf grp)

/-- Die of a core key. -/
def dieOf (core : Nat) : Nat := core / 128

/-- Column and row of a core key (R8). -/
def colOf (core : Nat) : Nat := core % 128 / 8

def rowOf (core : Nat) : Nat := core % 8

/-- Core key of a die, column and row. -/
def coreAt (die col row : Nat) : Nat := 128 * die + 8 * col + row

/-- The team that owns a barge. -/
def teamOfBarge (b : Nat) : Nat := b / 4

/-- The barges of a team. -/
def bargesOf (team : Nat) : List Nat := [4 * team, 4 * team + 1, 4 * team + 2, 4 * team + 3]

/-! ### Tables -/

def State.group (s : State) (k : Nat) : Group := Sparse.get {} s.groups k

def State.setGroup (s : State) (k : Nat) (g : Group) : State := { s with groups := Sparse.set {} s.groups k g }

def State.modGroup (s : State) (k : Nat) (f : Group → Group) : State := s.setGroup k (f (s.group k))

def State.team (s : State) (k : Nat) : Team := Sparse.get {} s.teams k

def State.setTeam (s : State) (k : Nat) (t : Team) : State := { s with teams := Sparse.set {} s.teams k t }

def State.modTeam (s : State) (k : Nat) (f : Team → Team) : State := s.setTeam k (f (s.team k))

def State.barge (s : State) (k : Nat) : Barge := Sparse.get {} s.barges k

def State.setBarge (s : State) (k : Nat) (b : Barge) : State := { s with barges := Sparse.set {} s.barges k b }

def State.modBarge (s : State) (k : Nat) (f : Barge → Barge) : State := s.setBarge k (f (s.barge k))

def State.core (s : State) (k : Nat) : Core := Sparse.get {} s.cores k

def State.setCore (s : State) (k : Nat) (c : Core) : State := { s with cores := Sparse.set {} s.cores k c }

def State.modCore (s : State) (k : Nat) (f : Core → Core) : State := s.setCore k (f (s.core k))

def State.engine (s : State) (k : Nat) : Engine := (s.core k).engine

def State.modEngine (s : State) (k : Nat) (f : Engine → Engine) : State :=
  s.modCore k (fun c => { c with engine := f c.engine })

def State.launch (s : State) (k : Nat) : Launch := Sparse.get {} s.work.launches k

def State.setLaunch (s : State) (k : Nat) (l : Launch) : State :=
  { s with work := { s.work with launches := Sparse.set {} s.work.launches k l } }

def State.modLaunch (s : State) (k : Nat) (f : Launch → Launch) : State := s.setLaunch k (f (s.launch k))

def State.cluster (s : State) (k : Nat) : Cluster := Sparse.get {} s.work.clusters k

def State.setCluster (s : State) (k : Nat) (c : Cluster) : State :=
  { s with work := { s.work with clusters := Sparse.set {} s.work.clusters k c } }

def State.modCluster (s : State) (k : Nat) (f : Cluster → Cluster) : State := s.setCluster k (f (s.cluster k))

def State.die (s : State) (k : Nat) : DieState := Sparse.get {} s.mgmt.dies k

def State.modDie (s : State) (k : Nat) (f : DieState → DieState) : State :=
  { s with mgmt := { s.mgmt with dies := Sparse.set {} s.mgmt.dies k (f (s.die k)) } }

def State.slice (s : State) (die : Nat) : SliceState := Sparse.get {} s.xlat.slices die

def State.modSlice (s : State) (die : Nat) (f : SliceState → SliceState) : State :=
  { s with xlat := { s.xlat with slices := Sparse.set {} s.xlat.slices die (f (s.slice die)) } }

def State.slot (s : State) (k : Nat) : Slot := Sparse.get {} s.near.slots k

def State.modSlot (s : State) (k : Nat) (f : Slot → Slot) : State :=
  { s with near := { s.near with slots := Sparse.set {} s.near.slots k (f (s.slot k)) } }

def State.station (s : State) (k : Nat) : Station := Sparse.get {} s.fabric.stations k

def State.modStation (s : State) (k : Nat) (f : Station → Station) : State :=
  { s with fabric := { s.fabric with stations := Sparse.set {} s.fabric.stations k (f (s.station k)) } }

def State.modMem (s : State) (f : Memory → Memory) : State := { s with mem := f s.mem }

def State.modXlat (s : State) (f : Xlat → Xlat) : State := { s with xlat := f s.xlat }

def State.modScr (s : State) (f : Scratch → Scratch) : State := { s with scr := f s.scr }

def State.modWork (s : State) (f : Work → Work) : State := { s with work := f s.work }

def State.modSched (s : State) (f : Sched → Sched) : State := { s with sched := f s.sched }

def State.modFabric (s : State) (f : Fabric → Fabric) : State := { s with fabric := f s.fabric }

def State.modHost (s : State) (f : HostIf → HostIf) : State := { s with host := f s.host }

def State.modMgmt (s : State) (f : Mgmt → Mgmt) : State := { s with mgmt := f s.mgmt }

/-- What leaves the package is recorded (log 17). -/
def State.send (s : State) (m : Message) : State := s.modFabric (fun f => { f with sent := f.sent ++ [m] })

/-- A message-signalled interrupt to the host (R385): signals by vector. -/
def signal (s : State) (v : Nat) : State := s.modHost (fun h => { h with msix := Sparse.set 0 h.msix v (Sparse.get 0 h.msix v + 1) })

/-- The stage of an index runs: its entry stands in the log (R412). Stage 1 is the management controller's firmware, stage 2 the hub's. -/
def State.runsStage (s : State) (n : Nat) : Bool := decide (n < s.mgmt.boot.length)

/-- A replacement is requested (R410). -/
def askReplacement (s : State) : State := signal (s.modMgmt (fun m => { m with replace := true })) 65

/-- A doubleword of a queue block (R387). -/
def State.queueReg (s : State) (q k : Nat) : Nat := Sparse.get 0 s.host.queue (8 * q + k)

def State.setQueueReg (s : State) (q k x : Nat) : State := s.modHost (fun h => { h with queue := Sparse.set 0 h.queue (8 * q + k) x })

/-- The command of a queue that is in progress on launch `k` ends (R389). -/
def endCommand (s : State) (q k code : Nat) : State :=
  let c := s.queueReg q 5
  if bits c 48 8 = 1 && Sparse.get 0 s.host.acting q = k then signal (s.setQueueReg q 5 (setBits c 48 8 code)) q else s

/-- The package's time as a core counts it (R3, R103). -/
def State.cycle (s : State) (core : Nat) : Nat := Sparse.get 0 s.sched.cycles core

/-! ### Outstanding operations -/

/-- Whether an operation is in the table. -/
def Sparse.has {α : Type} : Sparse α → Nat → Bool
  | [], _ => false
  | (k', _) :: m, k => k = k' || Sparse.has m k

def State.op (s : State) (id : Nat) : Op := Sparse.get {} s.ops id

def State.hasOp (s : State) (id : Nat) : Bool := Sparse.has s.ops id

def State.setOp (s : State) (id : Nat) (o : Op) : State := { s with ops := Sparse.insert s.ops id o }

/-- An operation that is there changes; one that has retired does not. -/
def State.modOp (s : State) (id : Nat) (f : Op → Op) : State := if s.hasOp id then s.setOp id (f (s.op id)) else s

def State.dropOp (s : State) (id : Nat) : State := { s with ops := Sparse.erase s.ops id }

/-- A new operation takes the next number in issue order (R172, R226). -/
def State.newOp (s : State) (o : Op) : State :=
  { s with ops := Sparse.insert s.ops s.sched.nextId o
           sched := { s.sched with nextId := s.sched.nextId + 1 } }

/-! ### The turn in hand -/

/-- The group that issues. -/
def State.me (s : State) : Group := s.group s.sched.cur.grp

/-- Its launch. -/
def State.myLaunch (s : State) : Launch := s.launch (launchOfGrp s.sched.cur.grp)

/-- Its core. -/
def coreOfGrp (s : State) (grp : Nat) : Nat := (s.team (teamOf grp)).core

def State.myCore (s : State) : Nat := coreOfGrp s s.sched.cur.grp

/-- Address space of a group (R243). -/
def asidOfGrp (s : State) (grp : Nat) : Nat := (s.launch (launchOfGrp grp)).asid

/-- A free value is taken (log 6). -/
def State.took (s : State) : State := s.modSched (fun c => { c with fresh := c.fresh + 1 })

def State.freeByte (s : State) : Byte := Config.freeByte s.sched.fresh

def State.freeWord (s : State) : Word := Config.freeWord s.sched.fresh

/-- A free choice among `n` (log 6). -/
def State.freeChoice (s : State) (n : Nat) : Nat :=
  let k := Config.freeChoice s.sched.fresh n
  if k < n then k else 0

/-- Turns put in front of the agenda: they come next. -/
def State.now (s : State) (ts : List Turn) : State := s.modSched (fun c => { c with agenda := ts ++ c.agenda })

/-! ### Teams and groups of a launch -/

/-- Group keys of a team that are admitted. -/
def groupsOf (s : State) (team : Nat) : List Nat :=
  (s.groups.filter (fun p => teamOf p.1 = team && p.2.admitted)).map (fun p => p.1)

/-- Team keys resident on a core. -/
def teamsOn (s : State) (core : Nat) : List Nat :=
  (s.teams.filter (fun p => p.2.resident && p.2.core = core)).map (fun p => p.1)

/-- Team keys of a launch. -/
def teamsOfLaunch (s : State) (launch : Nat) : List Nat :=
  (s.teams.filter (fun p => p.2.resident && launchOfTeam p.1 = launch)).map (fun p => p.1)

/-- A group is running its handler. -/
def inHandler (g : Group) : Bool := g.mode = .handler

/-- Some group of the team is in handler mode (R317). -/
def teamInHandler (s : State) (team : Nat) : Bool := (groupsOf s team).any (fun k => inHandler (s.group k))

/-- Age of a group: team age, then `group.idx` (R49); `older a b`. -/
def older (s : State) (a b : Nat) : Bool :=
  let x := (s.team (teamOf a)).age
  let y := (s.team (teamOf b)).age
  x < y || (x = y && idxOf a < idxOf b)

/-- The oldest of a list of groups. -/
def oldest (s : State) : List Nat → Option Nat
  | [] => none
  | k :: ks => match oldest s ks with
    | none => some k
    | some j => if older s k j then some k else some j

/-- The groups resident on a core. -/
def groupsOn (s : State) (core : Nat) : List Nat := (teamsOn s core).flatMap (groupsOf s)

end Sys2Proof.Machine
end

