-- ==== Sys2Proof/Machine/Physical.lean ====
section
/-! DEFINITION. Physical memory: addresses (R15 to R20, R251), sectors with their keys and check values (R221, R253, R254, R416),
the home of every line, the dies' copies, stores on their way and invalidations (R228 to R232), and the on-chip memories
(R187 to R194). -/

namespace Sys2Proof.Machine

open Sys2Proof

/-! ### Cause codes (R170) -/

namespace Cause
def illegalInstruction : Nat := 1
def illegalOperand : Nat := 2
def misaligned : Nat := 3
def permission : Nat := 4
def notPresent : Nat := 5
def checkMismatch : Nat := 6
def uncorrectable : Nat := 7
def poisonConsumed : Nat := 8
def ackLost : Nat := 9
def scratchBound : Nat := 10
def queueProtocol : Nat := 11
def matrixNotReserved : Nat := 12
def multicast : Nat := 13
def gridBarrier : Nat := 14
def bargeFault : Nat := 15
def watchdog : Nat := 16
def breakpoint : Nat := 17
def trap : Nat := 18
def overrun : Nat := 24
def signalled : Nat := 25
end Cause

/-! ### Addresses -/

/-- Space of a physical address (R15). -/
def spaceOf (pa : Nat) : Nat := bits pa 48 4

/-- Well formed (R15, R20). -/
def paOk (pa : Nat) : Bool :=
  match spaceOf pa with
  | 0 => decide (bits pa 44 4 < 12) && bits pa 36 8 = 0 && decide (bits pa 0 36 < 0x900000000)
  | 1 => decide (bits pa 0 48 < 0x6C00000000)
  | 2 => bits pa 25 23 = 0
  | 3 => true
  | 4 => true
  | 5 => true
  | _ => false

/-- The canonical address: the space-0 address of a byte of the interleaved window (R17, R251). -/
def canonical (pa : Nat) : Nat :=
  if spaceOf pa = 1 then
    let o := pa % 2 ^ 48
    let w := o / 4096 / 12
    let c := o / 4096 % 12
    (c + 7 * w) % 12 * 2 ^ 44 + w * 4096 + o % 4096
  else pa

/-- Space-1 offset of a canonical HBM byte: the inverse of `canonical` (R394). -/
def interleaved (pa : Nat) : Nat :=
  let w := bits pa 0 36 / 4096
  let c := (bits pa 44 4 + 12 * w - 7 * w) % 12
  (12 * w + c) * 4096 + pa % 4096

/-- Stack of a canonical HBM address. -/
def stackOf (pa : Nat) : Nat := bits pa 44 4

/-- The stack beside which the home of a line lies (R252). -/
def homeStack (pa : Nat) : Nat :=
  if spaceOf pa = 0 then stackOf pa else (bits pa 7 12 ^^^ bits pa 19 12 ^^^ bits pa 31 12) % 12

/-- Slice-map entry of a line (R256). -/
def sliceHash (pa : Nat) : Nat := bits pa 7 12 ^^^ bits pa 19 12 ^^^ bits pa 31 12 ^^^ bits pa 43 9

/-- Granule of a canonical HBM address (R397). -/
def granuleOf (pa : Nat) : Nat := stackOf pa * 9437184 + bits pa 12 24

/-- HBM, canonical. -/
def isHbm (pa : Nat) : Bool := spaceOf pa = 0

/-! ### Check values -/

/-- One bit of the CRC of R221. -/
def crcBit (c : Nat) : Nat := if bitOf c 15 then (c * 2 ^^^ 0x1021) % 65536 else c * 2 % 65536

/-- One byte. -/
def crcByte (c : Nat) (b : Byte) : Nat :=
  crcBit (crcBit (crcBit (crcBit (crcBit (crcBit (crcBit (crcBit (c ^^^ (b.toNat * 256)))))))))

/-- The check value of a sector's bytes (R221). -/
def crc16 (l : List Byte) : Nat := l.foldl crcByte 0xFFFF

/-! ### Cells and sectors -/

/-- A byte as memory holds it. -/
def Memory.cell (m : Memory) (a : Nat) : Byte := Sparse.get 0#8 m.cells a

/-- Put a byte: writing what an unlisted address reads as removes the entry. -/
def Memory.setCell (m : Memory) (a : Nat) (b : Byte) : Memory := { m with cells := Sparse.set 0#8 m.cells a b }

/-- Put consecutive bytes. -/
def Memory.setCells (m : Memory) (a : Nat) : List Byte → Memory
  | [] => m
  | b :: bs => Memory.setCells (m.setCell a b) (a + 1) bs

/-- Contiguous runs of valid bytes of a mask: offset and bytes. -/
def wcRuns (mask data : Nat) : Nat → Nat → List (Nat × List Byte)
  | 0, _ => []
  | n + 1, i =>
    if !bitOf mask i then wcRuns mask data n (i + 1)
    else
      match wcRuns mask data n (i + 1) with
      | (j, bs) :: rs => if j = i + 1 then (i, byteOf data i :: bs) :: rs else (i, [byteOf data i]) :: (j, bs) :: rs
      | [] => [(i, [byteOf data i])]

/-- The canonical form of memory. -/
def Memory.wf (m : Memory) : Bool := Sparse.wf 0#8 m.cells

def Memory.tag (m : Memory) (sector : Nat) : Tag := Sparse.get .fresh m.sectors sector

def Memory.setTag (m : Memory) (sector : Nat) (t : Tag) : Memory := { m with sectors := Sparse.set .fresh m.sectors sector t }

/-- A key slot as accesses carry it: 0 for plaintext, else its number plus 1 in the low digit to base 65, and above it the key that the
slot holds, plus 1 (R253). -/
def State.keyNum (s : State) (k : Nat) : Nat := if k = 0 then 0 else 65 * Sparse.get 0 s.xlat.keys (k - 1) + k

/-- The key in such a number, plus 1; 0 for plaintext. -/
def keyValue (key : Nat) : Nat := key / 65

/-- Its slot, plus 1; 0 for plaintext. -/
def keySlot (key : Nat) : Nat := key % 65

/-- A block written under one key as it reads under another: it is stored enciphered, and deciphered as it is read (R253, R254, log 7). -/
def crossBlock (k key a p : Nat) : Nat :=
  let c := if keyValue k = 0 then p else (Config.encipher (keyValue k) a (BitVec.ofNat 128 p)).toNat
  if keyValue key = 0 then c else (Config.decipher (keyValue key) a (BitVec.ofNat 128 c)).toNat

/-- `n` bytes of memory as they stand in clear. -/
def Memory.clear (m : Memory) (a n : Nat) : List Byte := (rangeFrom a n).map m.cell

/-- The 32 bytes that a sector written under `k` gives under `key` (R254, log 7). -/
def Memory.wrongSector (m : Memory) (k key sector : Nat) : List Byte :=
  [32 * sector, 32 * sector + 16].flatMap (fun a => toBytes (crossBlock k key a (ofBytes (m.clear a 16))) 16)

/-- One byte of HBM read under a key: the byte, or the cause (R221, R254, R416). The check value was formed on the plaintext. -/
def Memory.hbmByte (m : Memory) (key a : Nat) : Except Nat Byte :=
  match m.tag (a / 32) with
  | .fresh => .ok (m.cell a)
  | .bad => .error Cause.uncorrectable
  | .wrong => .error Cause.checkMismatch
  | .under k =>
    if keyValue k = keyValue key then .ok (m.cell a)
    else
      let w := m.wrongSector k key (a / 32)
      if crc16 w = crc16 (m.clear (32 * (a / 32)) 32) then .ok (nth 0#8 w (a % 32)) else .error Cause.checkMismatch

/-- What a marked sector outside HBM fails an access with (R221, R257, R396). -/
def Tag.stop (t : Tag) : Option Nat :=
  match t with
  | .bad => some Cause.uncorrectable
  | .wrong => some Cause.checkMismatch
  | _ => none

/-- One byte at its home (R230): HBM under its key, CXL and host memory without one (R253), unless its sector is marked (R257). -/
def Memory.homeByte (m : Memory) (key a : Nat) : Except Nat Byte :=
  if isHbm a then m.hbmByte key a
  else match (m.tag (a / 32)).stop with
    | some c => .error c
    | none => .ok (m.cell a)

/-- Whether a partial write to the sector may merge (R221): the cause that stops it. -/
def Memory.sectorStop (m : Memory) (key sector : Nat) : Option Nat :=
  match m.homeByte key (32 * sector) with
  | .error c => some c
  | .ok _ => none

/-- Write bytes that lie in one sector (R221, R254, R257, R416). -/
def Memory.writeSector (m : Memory) (key a : Nat) (bs : List Byte) : Except Nat Memory :=
  let sec := a / 32
  if bs.length = 32 then .ok ((m.setCells a bs).setTag sec (if isHbm a then .under key else .fresh))
  else if !isHbm a then (match (m.tag sec).stop with
    | some c => .error c
    | none => .ok (m.setCells a bs))
  else
    match m.sectorStop key sec with
    | some c => .error c
    | none =>
      let m' := match m.tag sec with
        | .under k => if keyValue k = keyValue key then m else m.setCells (32 * sec) (m.wrongSector k key sec)
        | _ => m
      .ok ((m'.setCells a bs).setTag sec (.under key))

/-- Cut bytes at sector boundaries. -/
def sectorParts (a : Nat) : Nat → List Byte → List (Nat × List Byte)
  | 0, _ => []
  | fuel + 1, bs =>
    match bs with
    | [] => []
    | _ =>
      let n := 32 - a % 32
      (a, bs.take n) :: sectorParts (a + (bs.take n).length) fuel (bs.drop n)

/-- A location whose `.ga` store was lost may read as the value of any later store too (R232). -/
def Memory.noteLost (m : Memory) (a : Nat) : List Byte → Memory
  | [] => m
  | b :: bs =>
    let l := Sparse.get [] m.lost a
    Memory.noteLost (if l.isEmpty then m else { m with lost := Sparse.insert m.lost a (l ++ [b]) }) (a + 1) bs

/-- From a later `.ga` store on that retires unpoisoned, a location follows the ordinary rules again (R232). -/
def Memory.found (m : Memory) (a n : Nat) : Memory := { m with lost := (rangeFrom a n).foldl (fun l b => Sparse.erase l b) m.lost }

/-- A plain store that touches a chamber leaves it unspecified (R181, log 16). Entries are 2·key, and one more once touched. -/
def Memory.spoil (m : Memory) (a n : Nat) : Memory :=
  { m with spoiled := m.spoiled.map (fun k => if k % 2 = 0 && a < k / 2 + 16 && k / 2 < a + n then k + 1 else k) }

/-- A write to a chunk that a running plan uses is noted (R372). -/
def Memory.noteWatch (m : Memory) (a n : Nat) : Memory :=
  if m.watched.isEmpty then m
  else { m with touched := m.touched ++ (rangeFrom (a / 256) ((a + n - 1) / 256 - a / 256 + 1)).filter (fun k => decide (k ∈ m.watched) && !decide (k ∈ m.touched)) }

/-- Parts of a write, one sector after the other; the first cause stands, the other parts are written. -/
def Memory.writeParts (m : Memory) (key : Nat) : List (Nat × List Byte) → Memory × Option Nat
  | [] => (m, none)
  | (a, bs) :: ps =>
    match m.writeSector key a bs with
    | .ok m' => Memory.writeParts m' key ps
    | .error c => ((Memory.writeParts m key ps).1, some c)

/-- Lines of a 64 MiB home slice (R2, R252). -/
def homeLines : Nat := 524288

/-- What the home slices can hold of modified lines, the latest first to stay: others have been written back (R2, R396; which of them a
full slice gives up the spec leaves open, log 14). -/
def trimHome (ls : List Nat) : List Nat :=
  if ls.length ≤ homeLines then ls
  else ls.foldr (fun l kept => if (kept.filter (fun k => homeStack (128 * k) = homeStack (128 * l))).length < homeLines then l :: kept else kept) []

/-- A store performed at its home (R230): memory, and the cause where a sector refused it. -/
def Memory.homeWrite (m : Memory) (key a : Nat) (bs : List Byte) : Memory × Option Nat :=
  let m1 := ((m.noteLost a bs).spoil a bs.length).noteWatch a bs.length
  let r := m1.writeParts key (sectorParts a 200 bs)
  let ls := (rangeFrom (a / 128) ((a + bs.length - 1) / 128 - a / 128 + 1)).filter (fun l => !decide (l ∈ m1.dirtyHome))
  if isHbm a then r else ({ r.1 with dirtyHome := trimHome (m1.dirtyHome ++ ls) }, r.2)

/-! ### Copies of a die -/

def Memory.copy (m : Memory) (line die : Nat) : Copy := Sparse.get {} m.copies (16 * line + die)

def Memory.setCopy (m : Memory) (line die : Nat) (c : Copy) : Memory :=
  { m with copies := Sparse.set {} m.copies (16 * line + die) (if c.valid = 0 then {} else c) }

/-- The byte a copy holds at offset `i`. -/
def Copy.byte (c : Copy) (i : Nat) : Option Byte := if bitOf c.valid i then some (byteOf c.data i) else none

/-- Put a byte. -/
def Copy.put (c : Copy) (i : Nat) (b : Byte) : Copy :=
  { c with valid := setBits c.valid i 1 1, data := setBits c.data (8 * i) 8 b.toNat }

def Copy.puts (c : Copy) (i : Nat) : List Byte → Copy
  | [] => c
  | b :: bs => Copy.puts (c.put i b) (i + 1) bs

/-- A byte as agents of a die read it: the die's copy, or the home (R228). -/
def Memory.dieByte (m : Memory) (die key a : Nat) : Except Nat Byte :=
  match (m.copy (a / 128) die).byte (a % 128) with
  | some b => .ok b
  | none => m.homeByte key a

/-- Take a line into a die: every byte of it that the home can give (R228). -/
def Memory.install (m : Memory) (die key line : Nat) : Memory :=
  let c := m.copy line die
  m.setCopy line die ((rangeFrom 0 128).foldl (fun c i =>
    if bitOf c.valid i then c
    else match m.homeByte key (128 * line + i) with
      | .ok b => c.put i b
      | .error _ => c) { c with key := key })

/-- The bytes of a line that stores of a die not yet at the home have written, as a mask. -/
def Memory.keptMask (m : Memory) (line die : Nat) : Nat :=
  m.fwd.foldl (fun k st =>
    if st.die = die && st.addr / 128 = line then k ||| ((2 ^ st.bytes.length - 1) <<< (st.addr % 128)) else k) 0

/-- An invalidation reaches a copy: it keeps the bytes of the die's own unforwarded stores alone (R228). -/
def Memory.invalidate (m : Memory) (line die : Nat) : Memory :=
  let c := m.copy line die
  m.setCopy line die { c with valid := c.valid &&& m.keptMask line die }

/-- Dies that hold a copy of a line. -/
def Memory.holders (m : Memory) (line : Nat) : List Nat :=
  (m.copies.filter (fun p => p.1 / 16 = line)).map (fun p => p.1 % 16)

/-- Invalidate every copy of a line but that of `except`. -/
def Memory.invalidateAll (m : Memory) (line except : Nat) : Memory :=
  (m.holders line).foldl (fun m d => if d = except then m else m.invalidate line d) m

/-- Lines that `n` bytes at `a` touch. -/
def linesOf (a n : Nat) : List Nat := rangeFrom (a / 128) ((a + n - 1) / 128 - a / 128 + 1)

/-- A write performed at package scope at once: at the home, with no copy left behind (R227). -/
def Memory.pkgWrite (m : Memory) (key a : Nat) (bs : List Byte) : Memory × Option Nat :=
  let r := m.homeWrite key a bs
  ((linesOf a bs.length).foldl (fun m l => m.invalidateAll l 16) r.1, r.2)

/-! ### Waiting conditions -/

/-- A `.ga` store of the die is pending on the line (R229). -/
def Memory.gaPending (m : Memory) (line die : Nat) : Bool :=
  m.gaPend.any (fun st => st.die = die && st.addr / 128 = line)

/-- A `.ga` store of any die is pending on the line. -/
def Memory.gaAny (m : Memory) (line : Nat) : Bool := m.gaPend.any (fun st => st.addr / 128 = line)

/-- The die has stores to the line that are not at the home. -/
def Memory.unforwarded (m : Memory) (line die : Nat) : Bool :=
  m.fwd.any (fun st => st.die = die && st.addr / 128 = line)

/-- Stores of the die to the line have not reached the home: an access there by another name of the line waits for them (R224, R228). -/
def Memory.aliasBusy (m : Memory) (line die : Nat) : Bool := m.unforwarded line die || m.gaPending line die

/-- An agent has stores to the line, of another instruction than `seq`, that are not performed at package scope (R230). -/
def Memory.agentBusy (m : Memory) (agent seq line : Nat) : Bool :=
  m.fwd.any (fun st => st.agent = agent && st.seq != seq && st.addr / 128 = line) ||
  m.gaPend.any (fun st => st.agent = agent && st.seq != seq && st.addr / 128 = line) ||
  m.invals.any (fun v => v.agent = agent && v.seq != seq && v.line = line)

/-- A `.ga` store of another instruction than `seq` is pending on the line at the die (R229). -/
def Memory.gaOther (m : Memory) (line die seq : Nat) : Bool :=
  m.gaPend.any (fun st => st.die = die && st.seq != seq && st.addr / 128 = line)

/-- The copy was brought in under another key (R254). -/
def Memory.keyClash (m : Memory) (line die key : Nat) : Bool :=
  let c := m.copy line die
  isHbm (128 * line) && c.valid != 0 && c.key != key

/-! ### Slices of a die's L2 (R2, R256, R257) -/

/-- Slice of a die that performs the accesses to the lines of a map entry: while a slice is forward-only, what reaches it goes on to
the slice of the new map (R257). -/
def mapSlice (x : SliceState) (e : Nat) : Nat := Sparse.get (e % 512) (if x.phase = 2 then x.newMap else x.map) e

/-- The slice that a core which has not adopted the new map sends its requests to. -/
def oldSlice (x : SliceState) (e : Nat) : Nat := Sparse.get (e % 512) x.map e

/-- Slice of a die that a line is cached in. -/
def sliceOf (s : State) (die line : Nat) : Nat := mapSlice (s.slice die) (sliceHash (128 * line))

/-- Lines of a slice of 192 KiB (R2). -/
def sliceLines : Nat := 1536

/-- A slice that is being flushed keeps a line only until its stores are performed at the home (R257). -/
def lineStays (s : State) (die line : Nat) : Bool := !((s.slice die).phase = 1 && sliceOf s die line = (s.slice die).slice)

/-- The lines that a die could drop to make room for a line, all in its slice. -/
def victims (s : State) (die line : Nat) : List Nat :=
  ((s.mem.copies.filter (fun (p : Nat × Copy) => p.1 % 16 = die && sliceOf s die (p.1 / 16) = sliceOf s die line)).map (fun p => p.1 / 16)).filter
    (fun l => !s.mem.unforwarded l die && !s.mem.gaPending l die)

/-- The slice of a line has a place for it. -/
def lineFits (s : State) (die line : Nat) : Bool :=
  (s.mem.copy line die).valid != 0 ||
    decide ((s.mem.copies.filter (fun (p : Nat × Copy) => p.1 % 16 = die && sliceOf s die (p.1 / 16) = sliceOf s die line)).length < sliceLines)

/-- A place for a line in its slice: in a full one another line is dropped, the spec not saying which (log 14); none while every line of the
slice holds stores that are not at the home. -/
def State.takeLine (s : State) (die line : Nat) : Option State :=
  if lineFits s die line then some s
  else
    match victims s die line with
    | [] => none
    | v :: vs => some (s.took.modMem (fun m => m.setCopy (nth v (v :: vs) (s.freeChoice (vs.length + 1))) die {}))

/-- A die takes a line in, if it has a place and the line stays (R228). -/
def State.install (s : State) (die key line : Nat) : State :=
  if !lineStays s die line then s
  else
    match s.takeLine die line with
    | some s1 => s1.modMem (fun m => m.install die key line)
    | none => s

/-- A line of a slice that is being flushed is dropped with its last store (R257). -/
def dropFlushed (s : State) (line die : Nat) : State :=
  if lineStays s die line || s.mem.unforwarded line die || s.mem.gaPending line die then s else s.modMem (fun m => m.setCopy line die {})

/-- The copy of another key leaves a die that holds no store of it on its way (R254). -/
def dropClash (s : State) (line die key : Nat) : State :=
  if s.mem.keyClash line die key then s.modMem (fun m => m.invalidate line die) else s

/-! ### Reading through the state: free values where the spec leaves a value open -/

/-- The values that a read of an ack-lost byte may return (R232): the one before the lost store, the lost store's, and those of every later
store, the ones not yet at the home among them. None for any other byte. -/
def State.lostValues (s : State) (a : Nat) : List Byte :=
  match Sparse.get [] s.mem.lost a with
  | [] => []
  | l => l ++ s.mem.fwd.filterMap (fun st => if st.addr ≤ a then st.bytes[a - st.addr]? else none)

/-- One byte read by an agent of a die, or (no die) at the home; a lost location gives any of its values (R232). -/
def State.readByte (s : State) (die : Option Nat) (key a : Nat) : Except Nat (Byte × State) :=
  match s.lostValues a with
  | b :: bs => .ok (nth b (b :: bs) (s.freeChoice (bs.length + 1)), s.took)
  | [] =>
    match (match die with
      | some d => s.mem.dieByte d key a
      | none => s.mem.homeByte key a) with
    | .ok b => .ok (b, s)
    | .error c => .error c

/-- `n` bytes. -/
def State.readBytes (s : State) (die : Option Nat) (key a : Nat) : Nat → Except Nat (List Byte × State)
  | 0 => .ok ([], s)
  | n + 1 =>
    match s.readByte die key a with
    | .error c => .error c
    | .ok (b, s1) =>
      match State.readBytes s1 die key (a + 1) n with
      | .error c => .error c
      | .ok (bs, s2) => .ok (b :: bs, s2)

/-! ### On-chip memories -/

/-- Core scratchpad of a team (R187): `n` bytes from offset `o`. -/
def State.scrRead (s : State) (team o n : Nat) : List Byte :=
  (rangeFrom 0 n).map (fun i => Sparse.get 0#8 s.scr.core (team * 2 ^ 20 + o + i))

/-- Key of a core-scratchpad chamber (log 16). -/
def scrKey (team o : Nat) : Nat := 2 ^ 100 + team * 2 ^ 20 + o

/-- Put bytes in a table. -/
def putBytes (m : Sparse Byte) (k : Nat) : List Byte → Sparse Byte
  | [] => m
  | b :: bs => putBytes (Sparse.set 0#8 m k b) (k + 1) bs

/-- A write to a team's scratchpad spares a prediction: it touches none of its bytes (R302). -/
def ZeroTile.spared (team o n : Nat) (z : ZeroTile) : Bool :=
  z.team != team || z.blocks.all (fun k => decide (16 * k + 16 ≤ o) || decide (o + n ≤ 16 * k))

/-- Write a team's scratchpad: what reaches it after the team has exited is discarded (R189), predictions of the bytes too (R302). -/
def State.scrWrite (s : State) (team o : Nat) (bs : List Byte) : State :=
  if (s.team team).exited then s
  else
    { s with scr := { s.scr with core := putBytes s.scr.core (team * 2 ^ 20 + o) bs, zero := s.scr.zero.filter (ZeroTile.spared team o bs.length) }
             mem := s.mem.spoil (scrKey team o) bs.length }

/-- Area offset of byte `b` of lane `i`'s private slice (R192). -/
def laneOffset (i b : Nat) : Nat := 128 * (b / 4) + 4 * i + b % 4

/-- Lane-private bytes of a lane. -/
def State.laneRead (s : State) (grp i o n : Nat) : List Byte :=
  (rangeFrom o n).map (fun b => Sparse.get 0#8 s.scr.lane (grp * 2 ^ 20 + laneOffset i b))

/-- Write a lane's private slice. -/
def State.laneWrite (s : State) (grp i o : Nat) : List Byte → State
  | [] => s
  | b :: bs =>
    State.laneWrite (s.modScr (fun c =>
      { c with lane := Sparse.set 0#8 c.lane (grp * 2 ^ 20 + laneOffset i o) b })) grp i (o + 1) bs

/-- Key of a byte of a grid's die scratchpad (R194): the physical offset behind offset `o`. -/
def State.dieKey (s : State) (launch die o : Nat) : Nat :=
  die * 2 ^ 25 + nth 0 (Sparse.get [] s.scr.units (16 * launch + die)) (o / 2 ^ 20) * 2 ^ 20 + o % 2 ^ 20

/-- Bytes of a grid's die scratchpad on a die. -/
def State.dieRead (s : State) (launch die o n : Nat) : List Byte :=
  (rangeFrom o n).map (fun i => Sparse.get 0#8 s.scr.die (s.dieKey launch die i))

/-- Key of a die-scratchpad chamber (log 16). -/
def dieChamberKey (k : Nat) : Nat := 2 ^ 101 + k

/-- Write them. -/
def State.dieWrite (s : State) (launch die o : Nat) : List Byte → State
  | [] => s
  | b :: bs =>
    let k := s.dieKey launch die o
    State.dieWrite { s with scr := { s.scr with die := Sparse.set 0#8 s.scr.die k b }
                            mem := s.mem.spoil (dieChamberKey k) 1 } launch die (o + 1) bs

/-- Bytes of die scratchpad that a launch holds on a die (R39). -/
def dieBound (s : State) (launch : Nat) : Nat := (s.launch launch).diescratch * 2 ^ 20

end Sys2Proof.Machine
end

