-- ==== Sys2Proof/Machine/Translate.lean ====
section
/-! DEFINITION. Address translation (R243 to R250), the bias and window tests every access passes (R396, R397), instruction
fetch, and accesses that an agent makes at once. -/

namespace Sys2Proof.Machine

open Sys2Proof

/-! ### What stops an access at a home -/

/-- The host port carries CXL (R384). -/
def hostCxl (s : State) : Bool := !decide (0 ∈ s.host.noCxl)

/-- Bias of the granule of a canonical HBM address (R397); a host port without CXL uses no bias table (R384). -/
def hostBias (s : State) (a : Nat) : Bool := isHbm a && hostCxl s && Sparse.get false s.host.bias (granuleOf a)

/-- Its granule is flipping: accesses wait at the home (R399, R400). -/
def flipping (s : State) (a : Nat) : Bool := isHbm a && s.host.flips.any (fun f => f.granule = granuleOf a)

/-- A request for its granule has waited longer than this one (R399, R400). -/
def waitedFor (s : State) (a : Nat) : Bool := isHbm a && s.host.waiting.any (fun w => w.1 = granuleOf a)

/-- An access arrives at a granule that flips, or for which others wait: it waits too. -/
def biasWait (s : State) (a : Nat) : Bool := flipping s a || waitedFor s a

/-- The slot of a key is about to be loaded (R255): what arrives now, or is numbered from the load on, waits. -/
def keyWait (s : State) (id : Option Nat) (key : Nat) : Bool :=
  let upto := Sparse.get 0 s.xlat.loads (keySlot key - 1)
  keySlot key != 0 && upto != 0 && id.all (fun n => decide (upto ≤ n))

/-- A space-3 offset lies in a window (R396). -/
def inWindow (s : State) (off : Nat) : Bool :=
  s.host.windows.any (fun p => p.2.1 * 2 ^ 28 ≤ off && off < p.2.2 * 2 ^ 28)

/-! ### Page tables -/

/-- What an access needs of its leaf (R246): 0 read, 1 write, 2 read and write, 3 fetch. -/
abbrev AccessKind := Nat

/-- Bits a level is indexed by (R243). -/
def levelIndex (level va : Nat) : Nat :=
  match level with
  | 0 => bits va 43 14
  | 1 => bits va 29 14
  | 2 => bits va 21 8
  | _ => bits va 16 5

/-- Page size in bits of a leaf of a level. -/
def pageBits (level : Nat) : Nat :=
  match level with
  | 1 => 29
  | 2 => 21
  | _ => 16

/-- Size in bits of a node of a level. -/
def nodeBits (level : Nat) : Nat :=
  match level with
  | 2 => 11
  | 3 => 8
  | _ => 17

/-- Address field of an entry (R244). -/
def pteAddr (e : Nat) : Nat := bits e 8 44 * 256

def pteType (e : Nat) : Nat := bits e 0 2

/-- Table nodes may lie there (R244, R245). -/
def nodeOk (pa bitsOf : Nat) : Bool :=
  paOk pa && pa % 2 ^ bitsOf = 0 && (spaceOf pa != 2 && spaceOf pa != 5)

/-- The entry is malformed at this level (R20, R245). -/
def pteBad (e level : Nat) : Bool :=
  match pteType e with
  | 1 => level = 3 || !nodeOk (pteAddr e) (nodeBits (level + 1))
  | 2 => level = 0 || !paOk (pteAddr e) || pteAddr e % 2 ^ pageBits level != 0
  | _ => true

/-- The key of a leaf: plaintext (0) or key + 1; nothing outside spaces 0 and 1 (R244, R253). -/
def pteKey (e : Nat) : Nat := if spaceOf (pteAddr e) ≤ 1 then (if bitOf e 57 then 0 else bits e 58 6 + 1) else 0

/-- Memory-side line (R217): the attribute is ignored outside space 0. -/
def pteMemside (e : Nat) : Bool := bitOf e 56 && spaceOf (pteAddr e) = 0

/-- Key of an ASID's walks (R386). -/
def rootKey (r : Nat) : Nat := if bitOf r 56 then 0 else bits r 57 6 + 1

/-- A key (key + 1) names an empty slot. -/
def keyEmpty (s : State) (key : Nat) : Bool := key != 0 && Sparse.get 0 s.xlat.keys (key - 1) = 0

/-! ### The host's cache (R394, R398, R402) -/

/-- HDM offset of a host line. -/
def hdmLine (off : Nat) : Bool := off % 64 = 0 && decide (off < 0x6C00000000)

/-- Canonical address of an HDM offset (R17, R394). -/
def hdmAddr (off : Nat) : Nat := canonical (2 ^ 48 + off)

/-- A failed host access is logged to management (R395). -/
def logFailure (s : State) : State := s.modMgmt (fun m => { m with log := m.log + 1 })

/-- Runs of a host write performed at the home; none where a sector refuses. -/
def hostRuns (key a : Nat) : List (Nat × List Byte) → Memory → Option Memory
  | [], m => some m
  | (i, bs) :: rs, m =>
    let r := m.homeWrite key (a + i) bs
    if r.2.isSome then none else hostRuns key a rs r.1

/-- Bytes of 64 at a place that the host writes, performed at the home under the HDM key; a failure is logged and drops them (R394, R395,
log 57). -/
def hostPut (s : State) (a data mask : Nat) : State :=
  if keyEmpty s s.host.hdmKey then logFailure s
  else
    match hostRuns (s.keyNum s.host.hdmKey) a (wcRuns (mask % 2 ^ 64) data 64 0) s.mem with
    | none => logFailure s
    | some m => { s with mem := m }

/-- Host lines that `n` bytes at `a` touch, by canonical address ÷ 64. -/
def hostLines (a n : Nat) : List Nat := rangeFrom (a / 64) ((a + n - 1) / 64 - a / 64 + 1)

/-- The host physical address by which a snoop names a host line (R394). -/
def State.hostName (s : State) (l : Nat) : Nat := Config.hdmDecode s.host.decoder (interleaved (64 * l))

/-- The home as a load of a granule in host bias finds it: with what the host holds modified (R398). -/
def hostView (s : State) (a n : Nat) : State :=
  (hostLines a n).foldl (fun s l => match s.host.copies.find? (fun c => c.1 = l && c.2.dirty) with
    | some c => hostPut s (64 * l) c.2.data (2 ^ 64 - 1)
    | none => s) s

/-- A load's snoops: the host answers with its data, and keeps its copy (R398). -/
def snoopLoad (s : State) (a n : Nat) : State := (hostLines a n).foldl (fun s l => s.send (.biSnpCur (s.hostName l))) s

/-- The host no longer holds a line. -/
def dropHostCopy (s : State) (l : Nat) : State := s.modHost (fun h => { h with copies := Sparse.erase h.copies l })

/-- A store's snoops: the host writes back what it holds modified, and holds no copy (R398). -/
def snoopStore (s : State) (a n : Nat) : State :=
  (hostLines a n).foldl (fun s l =>
    let s1 := s.send (.biSnpInv (s.hostName l))
    dropHostCopy (match s1.host.copies.find? (fun c => c.1 = l && c.2.dirty) with
      | some c => hostPut s1 (64 * l) c.2.data (2 ^ 64 - 1)
      | none => s1) l) s

/-- A store in device bias of which the host holds copies sends their snoops; the host gives the copies up later (R394, R402). -/
def backInvalidate (s : State) (a n seq : Nat) : State :=
  (hostLines a n).foldl (fun s l =>
    if !Sparse.has s.host.copies l then s
    else if s.host.backInv.any (fun b => b.1 = l) then
      s.modHost (fun h => { h with backInv := h.backInv.map (fun b => if b.1 = l then (l, min b.2 seq) else b) })
    else (s.send (.biSnpInv (s.hostName l))).modHost (fun h => { h with backInv := h.backInv ++ [(l, seq)] })) s

/-- Nothing that the host holds is older than the stores numbered below `upto` (R227, R402). -/
def hostReleased (s : State) (upto : Nat) : Bool := s.host.backInv.all (fun b => decide (upto ≤ b.2))

/-- The home slice obtains a line of space 4 from the host, with ownership before a write (R396). -/
def obtainLine (write : Bool) (s : State) (line : Nat) : State :=
  let n := Sparse.get 0 s.host.lines line
  if write then (if n = 2 then s else (s.send (.cacheOwn line)).modHost (fun h => { h with lines := Sparse.set 0 h.lines line 2 }))
  else if n != 0 then s
  else (s.send (.cacheRead line)).modHost (fun h => { h with lines := Sparse.set 0 h.lines line 1 })

/-- What a read of `n` bytes at a home asks of the host first: nothing in most places. -/
def beforeRead (s : State) (a n : Nat) : State :=
  if spaceOf a = 4 then (if hostCxl s then (linesOf a n).foldl (obtainLine false) s else s.send (.pcieRead (a % 2 ^ 48) n))
  else if hostBias s a then snoopLoad s a n
  else s

/-- What a write of bytes at a home, by the store numbered `seq`, asks of the host first. -/
def beforeWrite (s : State) (a seq : Nat) (bs : List Byte) : State :=
  if spaceOf a = 4 then (if hostCxl s then (linesOf a bs.length).foldl (obtainLine true) s else s.send (.pcieWrite (a % 2 ^ 48) (ofBytes bs) bs.length))
  else if !isHbm a then s
  else if hostBias s a then snoopStore s a bs.length
  else backInvalidate s a bs.length seq

/-- `n` bytes read at the home (R230), with what the host holds modified of a granule in its bias (R398). -/
def homeRead (s : State) (key a n : Nat) : Except Nat (List Byte × State) :=
  let s1 := beforeRead s a n
  if hostBias s a then
    match (hostView s1 a n).readBytes none key a n with
    | .error c => .error c
    | .ok (bs, s2) => .ok (bs, s1.modSched (fun c => { c with fresh := s2.sched.fresh }))
  else s1.readBytes none key a n

/-! ### Walks -/

/-- A byte of a table entry at its home; an ack-lost one has any of its values (R232). -/
def pteByte (s : State) (key a : Nat) : Except Nat Byte :=
  match s.lostValues a with
  | [] => (if hostBias s a then hostView s a 1 else s).mem.homeByte (s.keyNum key) a
  | b :: bs => .ok (nth b (b :: bs) (Config.lostPick s.sched.fresh a (bs.length + 1)))

/-- A table node may not be reached: its root names an empty slot (R386), or it lies in space 3 outside the windows (R396). -/
def nodeStop (s : State) (key a : Nat) : Bool :=
  (isHbm a && keyEmpty s key) || (spaceOf a = 3 && !inWindow s (a % 2 ^ 48))

/-- Read an 8-byte table entry at its home, or from a walk cache (R237, R247); cause 0 where its granule flips (R399, R400). -/
def readPte (s : State) (key a : Nat) : Except Nat Nat :=
  if nodeStop s key a then .error Cause.permission
  else
    match s.xlat.walk.find? (fun p => p.addr = a && p.key = s.keyNum key) with
    | some p => .ok p.value
    | none =>
      if biasWait s a then .error 0
      else
        match (rangeFrom a 8).mapM (pteByte s key) with
        | .ok bs => .ok (ofBytes bs)
        | .error c => .error c

/-- Walk from a node (R245): the leaf, its level, where it stands, and the table entries read on the way. -/
def walkFrom (s : State) (key va : Nat) : Nat → Nat → Nat → List TableWord →
    Except Nat (Nat × Nat × Nat × List TableWord)
  | 0, _, _, _ => .error Cause.notPresent
  | fuel + 1, level, node, seen =>
    let a := canonical (node + 8 * levelIndex level va)
    match readPte s key a with
    | .error c => .error c
    | .ok e =>
      if pteType e = 0 || pteBad e level then .error Cause.notPresent
      else if pteType e = 2 then .ok (e, level, a, seen)
      else walkFrom s key va fuel (level + 1) (pteAddr e) (seen ++ [{ addr := a, key := s.keyNum key, value := e }])

/-- A whole walk: a leaf as a translation cache holds it, and the entries the walker may keep. -/
def walk (s : State) (owner asid va : Nat) : Except Nat (TlbEntry × List TableWord) :=
  let r := Sparse.get 0 s.xlat.roots asid
  if !bitOf r 63 || !nodeOk (bits r 17 35 * 2 ^ 17) 17 then .error Cause.notPresent
  else
    match walkFrom s (rootKey r) va 4 0 (bits r 17 35 * 2 ^ 17) [] with
    | .error c => .error c
    | .ok (e, level, a, seen) =>
      .ok ({ owner := owner, asid := asid, isGlobal := bitOf e 54, va := va / 2 ^ pageBits level * 2 ^ pageBits level,
             pa := pteAddr e, size := pageBits level, entry := e, entryAt := a, rootKey := rootKey r }, seen)

/-- A cached translation serves this access (R248). -/
def TlbEntry.hits (t : TlbEntry) (owner asid va : Nat) : Bool :=
  t.owner = owner && (t.isGlobal || t.asid = asid) && va / 2 ^ t.size * 2 ^ t.size = t.va

/-- A core finds a leaf in its own cache or in its die's (R248); owners above 4096 are dies. -/
def tlbFind (s : State) (owner asid va : Nat) : Option TlbEntry :=
  match s.xlat.tlb.find? (fun t => t.hits owner asid va) with
  | some t => some t
  | none => if owner < 4096 then s.xlat.tlb.find? (fun t => t.hits (4096 + dieOf owner) asid va) else none

/-- Permission (R246) and key slot (R245, R258). -/
def leafStop (s : State) (e : Nat) (kind : AccessKind) : Option Nat :=
  let ok := match kind with
    | 0 => bitOf e 3
    | 1 => bitOf e 4
    | 2 => bitOf e 3 && bitOf e 4
    | _ => bitOf e 5 && !bitOf e 55
  if !ok then some Cause.permission
  else if keyEmpty s (pteKey e) then some Cause.permission
  else none

/-- Set accessed and dirty in the entry in memory, an atomic at its coherence point (R237) under the key of the ASID's root (R386), and in
the cached leaf; cause 0 where its granule flips. -/
def markEntry (s : State) (t : TlbEntry) (flags : Nat) : Except Nat (TlbEntry × State) :=
  if t.entry ||| flags = t.entry then .ok (t, s)
  else if nodeStop s t.rootKey t.entryAt then .error Cause.permission
  else if biasWait s t.entryAt then .error 0
  else
    match homeRead s (s.keyNum t.rootKey) t.entryAt 8 with
    | .error c => .error c
    | .ok (bs, s0) =>
      let new := toBytes (ofBytes bs ||| flags) 8
      let s1 := beforeWrite s0 t.entryAt s.sched.nextId new
      let r := s1.mem.pkgWrite (s.keyNum t.rootKey) t.entryAt new
      match r.2 with
      | some c => .error c
      | none => .ok ({ t with entry := t.entry ||| flags }, { s1 with mem := r.1 })

/-- Accessed, and dirty for a write (R245). -/
def demandFlags (kind : AccessKind) : Nat := if kind = 1 || kind = 2 then 192 else 64

/-- The leaf as `tlbinv` names it. -/
def TlbEntry.leaf (t : TlbEntry) : Leaf := { isGlobal := t.isGlobal, asid := t.asid, va := t.va, size := t.size }

/-- Replace or add a cached leaf. -/
def tlbPut (l : List TlbEntry) (t : TlbEntry) : List TlbEntry :=
  t :: l.filter (fun u => !(u.owner = t.owner && u.asid = t.asid && u.va = t.va && u.size = t.size))

/-- Table entries that no walk cache holds yet. -/
def newWords (s : State) (seen : List TableWord) : List TableWord :=
  seen.filter (fun p => !(s.xlat.walk.any (fun q => q.addr = p.addr && q.key = p.key)))

/-- Keep the table entries of a walk in the walk caches (R247); its reads have asked the host for what it holds (R396, R398). -/
def keepWalk (s : State) (t : TlbEntry) (seen : List TableWord) : State :=
  let new := newWords s seen
  let s1 := (new.map (fun p => p.addr) ++ [t.entryAt]).foldl (fun s a => beforeRead s a 8) s
  s1.modXlat (fun x => { x with walk := x.walk ++ new })

/-- A core's own cache and its die's keep the leaf of a walk (R248); an agent of the hub caches none. -/
def cacheLeaf (s : State) (owner : Nat) (t : TlbEntry) : State :=
  s.modXlat (fun x =>
    if owner < 4096 then { x with tlb := tlbPut (tlbPut x.tlb { t with owner := 4096 + dieOf owner }) { t with owner := owner } }
    else if owner < 8192 then { x with tlb := tlbPut x.tlb t }
    else x)

/-- Values of ack-lost bytes that a walk may have read are taken (R232). -/
def tookLost (s : State) : State := if s.mem.lost.isEmpty then s else s.took

/-- A walk in progress for an address, that any request joins (R247). -/
def walkJoined (s : State) (asid va : Nat) : Option TlbEntry :=
  (s.xlat.walks.find? (fun w => w.asid = asid && w.page = va / 65536 && w.upto.isNone)).map (fun w => w.leaf)

/-- A walk in progress from before a `tlbinv`, whose result goes to the operations that had been issued by then, uncached (R249). -/
def walkFor (s : State) (id asid va : Nat) : Option TlbEntry :=
  (s.xlat.walks.find? (fun w => w.asid = asid && w.page = va / 65536 && w.upto.any (fun n => decide (id < n)))).map (fun w => w.leaf)

/-- Permission, then accessed and dirty (R245). -/
def useLeaf (s : State) (t : TlbEntry) (kind : AccessKind) (flags : Nat) : Except Nat (TlbEntry × State) :=
  match leafStop s t.entry kind with
  | some c => .error c
  | none => markEntry s t flags

/-- Translation of a demand access (R245, R248); cause 0 where it waits for a granule to flip (R399): the leaf in use and the state with what the walk set and kept. -/
def translate (s : State) (owner asid va : Nat) (kind : AccessKind) : Except Nat (TlbEntry × State) :=
  if 2 ^ 57 ≤ va then .error Cause.notPresent
  else
    match tlbFind s owner asid va with
    | some t =>
      match useLeaf s t kind (if kind = 1 || kind = 2 then 128 else 0) with
      | .error c => .error c
      | .ok (t', s') =>
        .ok (t', if t'.entry = t.entry && t.owner = owner then s' else s'.modXlat (fun x => { x with tlb := tlbPut x.tlb { t' with owner := owner } }))
    | none =>
      match walkJoined s asid va with
      | some t =>
        match useLeaf s t kind (demandFlags kind) with
        | .error c => .error c
        | .ok (t', s') => .ok (t', cacheLeaf s' owner t')
      | none =>
        match walk s owner asid va with
        | .error c => .error c
        | .ok (t, seen) =>
          match useLeaf (tookLost s) t kind (demandFlags kind) with
          | .error c => .error c
          | .ok (t', s') => .ok (t', cacheLeaf (keepWalk s' t seen) owner t')

/-- Translation for a part of operation `id`, which may still wait for a walk begun before a `tlbinv` (R249). -/
def translateFor (s : State) (id owner asid va : Nat) (kind : AccessKind) : Except Nat (TlbEntry × State) :=
  match (if (tlbFind s owner asid va).isNone then walkFor s id asid va else none) with
  | some t => useLeaf s t kind (demandFlags kind)
  | none => translate s owner asid va kind

/-- The physical address behind a leaf, canonical (R251). -/
def TlbEntry.phys (t : TlbEntry) (va : Nat) : Nat := canonical (t.pa + va % 2 ^ t.size)

/-- The physical address as the page names it, for the bound of space 2. -/
def TlbEntry.rawPhys (t : TlbEntry) (va : Nat) : Nat := t.pa + va % 2 ^ t.size

/-- What an access would translate to now, changing nothing: used to compare locations. -/
def peekPhys (s : State) (owner asid va : Nat) : Option Nat :=
  match tlbFind s owner asid va with
  | some t => some (t.phys va)
  | none =>
    match walk s owner asid va with
    | .ok (t, _) => some (t.phys va)
    | .error _ => none

/-! ### Where an access goes -/

/-- Where the bytes of an access stand. -/
inductive Place where
  /-- a cached line, canonical address and key -/
  | cached (a key : Nat)
  /-- at the home alone: a memory-side line, or a granule in host bias (R217, R398) -/
  | home (a key : Nat)
  /-- the die scratchpad of the accessing grid, at an offset (R18) -/
  | bank (o : Nat)
  /-- it fails -/
  | bad (cause : Nat)
  deriving DecidableEq, Repr

/-- The place of `n` bytes at `va` behind a leaf, for an agent of a launch; `onDie` says that the agent runs on a die. -/
def placeOf (s : State) (launch : Nat) (onDie : Bool) (t : TlbEntry) (va n : Nat) : Place :=
  let raw := t.rawPhys va
  let a := canonical raw
  match spaceOf raw with
  | 2 =>
    if !onDie then .bad Cause.permission
    else if dieBound s launch < raw % 2 ^ 48 + n then .bad Cause.scratchBound
    else .bank (raw % 2 ^ 48)
  | 5 => .bad Cause.permission
  | 3 => if inWindow s (raw % 2 ^ 48) then .cached a 0 else .bad Cause.permission
  | 4 => if hostCxl s then .cached a 0 else .home a 0
  | _ =>
    if pteMemside t.entry || hostBias s a then .home a (s.keyNum (pteKey t.entry))
    else .cached a (s.keyNum (pteKey t.entry))

/-- The place of an access of `n` bytes, which lies in its page whole or is the part of it there, where `m` bytes of it at `x` are
performed now: its bound is that of the whole (R18). -/
def placeIn (s : State) (launch : Nat) (onDie : Bool) (t : TlbEntry) (va n x m : Nat) : Place :=
  match placeOf s launch onDie t va n with
  | .bad c => .bad c
  | _ => placeOf s launch onDie t x m

/-! ### Accesses made at once, by the agents whose rows are whole steps -/

/-- The end of an access. -/
inductive Acc (α : Type) where
  | wait
  | fail (cause va : Nat)
  | ok (x : α) (s : State)

/-- Who accesses: translation owner (core, or 4096 and more), address space, launch, die. -/
structure Agent where
  owner : Nat
  asid : Nat
  launch : Nat
  die : Option Nat
  deriving DecidableEq, Repr

/-- The agent of a group's or team's engine. -/
def agentOn (s : State) (core launch : Nat) : Agent :=
  { owner := core, asid := (s.launch launch).asid, launch := launch, die := some (dieOf core) }

/-- The command processor or a hub engine in an address space (R18, R403). -/
def hubAgent (asid launch : Nat) : Agent := { owner := 8192, asid := asid, launch := launch, die := none }

/-- What is left of an access of `whole` bytes in the page behind a leaf. -/
def TlbEntry.inPage (t : TlbEntry) (va whole : Nat) : Nat := min whole (2 ^ t.size - va % 2 ^ t.size)

/-- An access at a home by an agent of a die waits: its granule flips, its key's slot is about to be loaded, or stores of the die to the line
have not come home. -/
def homeWait (s : State) (die : Option Nat) (key a n : Nat) : Bool :=
  biasWait s a || keyWait s none key || (match die with
    | some d => (linesOf a n).any (fun l => s.mem.aliasBusy l d)
    | none => false)

/-- An access of a die's agent waits at a line: a `.ga` store is pending there, or a copy of another key holds stores on their way. -/
def lineBusy (s : State) (d key line : Nat) : Bool :=
  s.mem.gaPending line d || (s.mem.keyClash line d key && s.mem.unforwarded line d)

/-- Read `n` bytes that lie in one 4 KiB block, of an access that goes on for `whole` bytes. -/
def loadPart (s : State) (g : Agent) (va n whole : Nat) : Acc (List Byte) :=
  match translate s g.owner g.asid va 0 with
  | .error c => if c = 0 then .wait else .fail c va
  | .ok (t, s1) =>
    match placeIn s1 g.launch g.die.isSome t va (t.inPage va whole) va n with
    | .bad c => .fail c va
    | .bank o => .ok (s1.dieRead g.launch (g.die.getD 0) o n) s1
    | .home a key =>
      if homeWait s1 g.die key a n then .wait
      else
        match homeRead s1 key a n with
        | .error c => .fail c va
        | .ok (bs, s2) => .ok bs s2
    | .cached a key =>
      if biasWait s1 a || keyWait s1 none key || (match g.die with
          | some d => (linesOf a n).any (lineBusy s1 d key)
          | none => false) then .wait
      else
        match g.die with
        | none =>
          match homeRead s1 key a n with
          | .error c => .fail c va
          | .ok (bs, s2) => .ok bs s2
        | some d =>
          match (beforeRead ((linesOf a n).foldl (fun s l => dropClash s l d key) s1) a n).readBytes (some d) key a n with
          | .error c => .fail c va
          | .ok (bs, s2) => .ok bs ((linesOf a n).foldl (fun s l => s.install d key l) s2)

/-- Write at the home, where no copy is left (R217, R227, R398); `seq` numbers the store. -/
def homeWritten (s : State) (va a key seq : Nat) (bs : List Byte) : Acc Unit :=
  let s1 := beforeWrite s a seq bs
  let r := s1.mem.pkgWrite key a bs
  match r.2 with
  | some c => .fail c va
  | none => .ok () { s1 with mem := r.1 }

/-- A write at the home alone, of a memory-side line or a granule in host bias, unless it has to wait. -/
def storeHome (s : State) (die : Option Nat) (va a key seq : Nat) (bs : List Byte) : Acc Unit :=
  if homeWait s die key a bs.length then .wait else homeWritten s va a key seq bs

/-- Write bytes that lie in one 4 KiB block, performed at package scope, of an access that goes on for `whole` bytes. -/
def storePart (s : State) (g : Agent) (va : Nat) (bs : List Byte) (whole : Nat) : Acc Unit :=
  match translate s g.owner g.asid va 1 with
  | .error c => if c = 0 then .wait else .fail c va
  | .ok (t, s1) =>
    match placeIn s1 g.launch g.die.isSome t va (t.inPage va whole) va bs.length with
    | .bad c => .fail c va
    | .bank o => .ok () (s1.dieWrite g.launch (g.die.getD 0) o bs)
    | .home a key => storeHome s1 g.die va a key s1.sched.nextId bs
    | .cached a key =>
      if (linesOf a bs.length).any (fun l => s1.mem.gaAny l) then .wait else storeHome s1 g.die va a key s1.sched.nextId bs

/-- Bytes left in the 4 KiB block of `va`. -/
def blockLeft (va n : Nat) : Nat := min n (4096 - va % 4096)

/-- Read `n` bytes (R213: the parts are translated and performed one by one). -/
def loadAll (g : Agent) : Nat → State → Nat → Nat → Acc (List Byte)
  | 0, s, _, _ => .ok [] s
  | fuel + 1, s, va, n =>
    if n = 0 then .ok [] s
    else
      match loadPart s g va (blockLeft va n) n with
      | .wait => .wait
      | .fail c a => .fail c a
      | .ok bs s1 =>
        match loadAll g fuel s1 (va + blockLeft va n) (n - blockLeft va n) with
        | .wait => .wait
        | .fail c a => .fail c a
        | .ok bs' s2 => .ok (bs ++ bs') s2

/-- Write bytes. -/
def storeAll (g : Agent) : Nat → State → Nat → List Byte → Acc Unit
  | 0, s, _, _ => .ok () s
  | fuel + 1, s, va, bs =>
    if bs.isEmpty then .ok () s
    else
      match storePart s g va (bs.take (blockLeft va bs.length)) bs.length with
      | .wait => .wait
      | .fail c a => .fail c a
      | .ok _ s1 => storeAll g fuel s1 (va + blockLeft va bs.length) (bs.drop (blockLeft va bs.length))

/-- Read `n` bytes for an agent. -/
def State.load (s : State) (g : Agent) (va n : Nat) : Acc (List Byte) := loadAll g (n / 4096 + 2) s va n

/-- Write bytes for an agent. -/
def State.store (s : State) (g : Agent) (va : Nat) (bs : List Byte) : Acc Unit := storeAll g (bs.length / 4096 + 2) s va bs

/-! ### Instruction fetch -/

/-- The word an instruction cache of the core holds for an address, of the physical one behind it (R250, R328): what a removed
translation named is not used under a new one (R249), nor one read under another key (R254). -/
def codeHeld (s : State) (core asid va pa key : Nat) : Option Nat :=
  (s.xlat.code.find? (fun w => w.core = core && w.asid = asid && w.va = va && w.pa = pa && w.key = key)).map (fun w => w.word)

/-- The word at a place as a fetch of a core reads it; cause 0 where the fetch waits (R229, R254, R399). -/
def codeAt (s : State) (core launch : Nat) (t : TlbEntry) (va : Nat) : Except Nat (Nat × State) :=
  let word := fun (r : Except Nat (List Byte × State)) => match r with
    | .ok (bs, s1) => Except.ok (ofBytes bs, s1)
    | .error c => .error c
  match placeOf s launch true t va 4 with
  | .bad c => .error c
  | .bank o => .ok (ofBytes (s.dieRead launch (dieOf core) o 4), s)
  | .home a key => if homeWait s (some (dieOf core)) key a 4 then .error 0 else word (homeRead s key a 4)
  | .cached a key =>
    if biasWait s a || keyWait s none key || lineBusy s (dieOf core) key (a / 128) then .error 0
    else word ((beforeRead (dropClash s (a / 128) (dieOf core) key) a 4).readBytes (some (dieOf core)) key a 4)

/-- The key of a leaf's page, as `State.keyNum` numbers it. -/
def State.leafKey (s : State) (t : TlbEntry) : Nat := s.keyNum (pteKey t.entry)

/-- Keep a fetched word in the core's instruction cache, in place of one read there under another key (R254). -/
def keepCode (s : State) (core asid va : Nat) (t : TlbEntry) (w : Nat) : State :=
  let new : CodeWord := { core := core, asid := asid, va := va, pa := t.phys va, word := w, key := s.leafKey t }
  s.modXlat (fun x => { x with code := new :: x.code.filter (fun c => !(c.core = core && c.pa = new.pa && c.key != new.key)) })

/-- Fetch the word of a group at `va` (R81, R83): a demand access of kind fetch. -/
def fetchWord (s : State) (core launch va : Nat) : Except Nat (Nat × State) :=
  let asid := (s.launch launch).asid
  match translate s core asid va 3 with
  | .error c => .error c
  | .ok (t, s1) =>
    match codeHeld s1 core asid va (t.phys va) (s1.leafKey t) with
    | some w => .ok (w, s1)
    | none =>
      match codeAt s1 core launch t va with
      | .error c => .error c
      | .ok (w, s2) => .ok (w, keepCode s2 core asid va t w)

/-- The word at `va`, if it can be fetched, with no effect: the frontier looks at it to rank a path (R138). -/
def peekWord (s : State) (core launch va : Nat) : Option Nat :=
  match fetchWord s core launch va with
  | .ok (w, _) => some w
  | .error _ => none

end Sys2Proof.Machine
end

