-- ==== Sys2Proof/Machine/Chamber.lean ====
section
/-! DEFINITION. Chambers: the phase barriers held in memory (R179 to R181, R418). -/

namespace Sys2Proof.Machine

open Sys2Proof

/-- Where a chamber lies (R180): a team's core scratchpad, or a virtual address. -/
inductive ChamberAt where
  | scr (team off : Nat)
  | glb (va : Nat)
  deriving DecidableEq, Repr

/-- A chamber's sixteen bytes as its fields (R179). -/
structure Chamber where
  arrivals : Nat := 0
  pending : Nat := 0
  expbytes : Nat := 0
  received : Nat := 0
  phase : Bool := false
  poison : Bool := false
  scope : Nat := 0
  cause : Nat := 0
  deriving DecidableEq, Repr

/-- One as a bit. -/
def bit (b : Bool) : Nat := if b then 1 else 0

/-- Read the layout of R179. -/
def Chamber.read (bs : List Byte) : Chamber :=
  let x := ofBytes (bs.take 8)
  let y := ofBytes (bs.drop 8)
  { arrivals := bits x 48 16, pending := bits x 32 16, expbytes := bits x 0 32, received := bits y 32 32,
    phase := bitOf y 31, poison := bitOf y 30, scope := bits y 28 2, cause := bits y 23 5 }

/-- Write it: reserved bits are zero. -/
def Chamber.bytes (c : Chamber) : List Byte :=
  toBytes (c.arrivals % 65536 * 2 ^ 48 + c.pending % 65536 * 2 ^ 32 + c.expbytes % 2 ^ 32) 8 ++
  toBytes (c.received % 2 ^ 32 * 2 ^ 32 + bit c.phase * 2 ^ 31 + bit c.poison * 2 ^ 30 + c.scope % 4 * 2 ^ 28 +
    c.cause % 32 * 2 ^ 23) 8

/-- Record scope of an instruction scope code (R180); 4 where the code is none of a chamber's. -/
def chamberScope (sc : Nat) : Nat :=
  match sc with
  | 1 => 0
  | 2 => 1
  | 4 => 2
  | 6 => 3
  | _ => 4

/-- `poison_ch` (R181). -/
def Chamber.poisoned (c : Chamber) (cause : Nat) : Chamber :=
  { c with poison := true, cause := if c.poison then c.cause else cause }

/-- `chamber_arrive` on the fields (R181): `n` arrivals, `b` bytes, the poison carried, the arriving scope code. -/
def Chamber.arrive (ch : Chamber) (n b : Nat) (psn : Bool) (c sc : Nat) : Chamber :=
  if chamberScope sc ≠ ch.scope then ch.poisoned Cause.illegalOperand
  else
    let ch := if psn then ch.poisoned c else ch
    if ch.pending < n || ch.expbytes < ch.received + b then ch.poisoned Cause.overrun
    else
      let p := ch.pending - n
      let r := ch.received + b
      if p = 0 && r = ch.expbytes then { ch with phase := !ch.phase, pending := ch.arrivals, received := 0 }
      else { ch with pending := p, received := r }

/-- Place of a chamber in the list of initialised chambers (log 16); `none` where it does not translate. -/
def chamberKey (s : State) (g : Agent) : ChamberAt → Option Nat
  | .scr t o => some (scrKey t o)
  | .glb va =>
    match peekPhys s g.owner g.asid va with
    | some a => if spaceOf a = 2 then some (dieChamberKey (s.dieKey g.launch (g.die.getD 0) (a % 2 ^ 25))) else some a
    | none => none

/-- A plain store has touched the chamber since its `chini`: its state is unspecified (R181). -/
def spoiledChamber (s : State) (g : Agent) (at_ : ChamberAt) : Bool :=
  match chamberKey s g at_ with
  | some k => decide (2 * k + 1 ∈ s.mem.spoiled)
  | none => false

/-- Sixteen free bytes. -/
def State.freeBytes (s : State) : Nat → List Byte × State
  | 0 => ([], s)
  | n + 1 =>
    let r := State.freeBytes s.took n
    (s.freeByte :: r.1, r.2)

/-- Read a chamber (R418). -/
def readChamber (s : State) (g : Agent) (at_ : ChamberAt) : Acc Chamber :=
  if spoiledChamber s g at_ then
    let r := s.freeBytes 16
    .ok (Chamber.read r.1) r.2
  else
    match at_ with
    | .scr t o => .ok (Chamber.read (s.scrRead t o 16)) s
    | .glb va =>
      match s.load { g with die := if (peekPhys s g.owner g.asid va).any (fun a => spaceOf a = 2) then g.die else none } va 16 with
      | .wait => .wait
      | .fail c a => .fail c a
      | .ok bs s' => .ok (Chamber.read bs) s'

/-- Write a chamber: its own accesses do not spoil it. -/
def writeChamber (s : State) (g : Agent) (at_ : ChamberAt) (c : Chamber) : Acc Unit :=
  let keep := s.mem.spoiled
  match at_ with
  | .scr t o => .ok () ((s.scrWrite t o c.bytes).modMem (fun m => { m with spoiled := keep }))
  | .glb va =>
    match s.store g va c.bytes with
    | .wait => .wait
    | .fail x a => .fail x a
    | .ok _ s' => .ok () (s'.modMem (fun m => { m with spoiled := keep }))

/-- An arrival applied at a chamber (R181): one at a time, each exactly once. -/
def arriveAt (s : State) (g : Agent) (at_ : ChamberAt) (n b : Nat) (psn : Bool) (c sc : Nat) : Acc Unit :=
  match readChamber s g at_ with
  | .wait => .wait
  | .fail x a => .fail x a
  | .ok ch s1 => writeChamber s1 g at_ (ch.arrive n b psn c sc)

/-- The chamber an address and an instruction scope name (R180), for an agent of a team; `none` beyond the bound of R195. Only a write to
`tokx` can bring a scope code of no chamber here: its address is taken as a virtual one, and the arrival fits no chamber's scope (log 79, the
model's choice). -/
def chamberAt (s : State) (team sc addr : Nat) : Option ChamberAt :=
  let l := s.launch (launchOfTeam team)
  match sc with
  | 1 => if l.scratch * 256 < addr + 16 then none else some (.scr team addr)
  | 2 =>
    let t := bits addr 20 4
    if bits addr 24 8 ≠ 0 || l.w * l.h ≤ t || l.scratch * 256 < addr % 2 ^ 20 + 16 then none
    else some (.scr (launchOfTeam team * 2 ^ 28 + gridTeamOf team / (l.w * l.h) * (l.w * l.h) + t) (addr % 2 ^ 20))
  | _ => some (.glb addr)

end Sys2Proof.Machine
end

