-- ==== Sys2Proof/Machine/Clause.lean ====
section
/-! DEFINITION. The words a path fetches (R83, R142), and the clause that holds a lane's program counter (R90, R138). -/

namespace Sys2Proof.Machine

open Sys2Proof

def Group.pc (g : Group) (i : Nat) : Nat := Sparse.get 0 g.pcs i

def Group.hdr (g : Group) (i : Nat) : Nat := Sparse.get 0 g.hdrs i

/-- The words a path has fetched come first; otherwise it fetches on demand (R83, R142). -/
def fetchPath (s : State) (grp va : Nat) : Except Nat (Nat × State) :=
  let w := Sparse.get 0 (s.group grp).fetched va
  if w ≠ 0 then .ok (w - 1, s) else fetchWord s (coreOfGrp s grp) (launchOfGrp grp) va

/-- The word at an address as a path would fetch it now. -/
def peekPath (s : State) (grp va : Nat) : Option Nat :=
  match fetchPath s grp va with
  | .ok (w, _) => some w
  | .error _ => none

/-- The last clause header that words read one after the other from `va` on meet before they come to `pc` (R81, R90); none where they
do not come to it. -/
def clauseFrom (s : State) (grp pc : Nat) : Nat → Nat → Option Nat → Option Nat
  | 0, _, _ => none
  | n + 1, va, last =>
    if va = pc then last
    else if pc < va then none
    else match peekPath s grp va with
      | none => none
      | some w =>
        let b := BitVec.ofNat 32 w
        if isHeader b then clauseFrom s grp pc n (va + 4) (some w) else clauseFrom s grp pc n (va + 4 * wordsOf b) last

/-- The nearest header before `pc` whose words come to it. -/
def clauseBefore (s : State) (grp pc : Nat) : Nat → Nat → Nat
  | 0, _ => 0
  | n + 1, va =>
    match peekPath s grp va with
    | none => 0
    | some w =>
      match (if isHeader (BitVec.ofNat 32 w) then clauseFrom s grp pc (pc / 4 + 1 - va / 4) va none else none) with
      | some h => h
      | none => if va < 4 then 0 else clauseBefore s grp pc n (va - 4)

/-- The header that begins the clause holding `pc` (R90, R138), which words alone do not show: the last one met in reading on from where
the launch's code is entered, its kernel's entry or its handler, the later of the two that leads to `pc`; where neither does, the nearest one
that leads to it (log 76). -/
def clauseHolding (s : State) (grp pc : Nat) : Nat :=
  let l := s.launch (launchOfGrp grp)
  let starts := if l.entry ≤ l.handler then [l.handler, l.entry] else [l.entry, l.handler]
  match starts.findSome? (fun va => clauseFrom s grp pc (pc / 4 + 1 - va / 4) va none) with
  | some h => h
  | none => if pc < 4 then 0 else clauseBefore s grp pc (pc / 4) (pc - 4)

/-- The header of the clause that holds a lane's counter (R138, R319): the one at its address; else that of the clause the lane is inside;
else, where it still has to find a header, the one that begins the clause holding the address. -/
def laneHeader (s : State) (grp i : Nat) : Nat :=
  let g := s.group grp
  match (peekPath s grp (g.pc i)).filter (fun w => isHeader (BitVec.ofNat 32 w)) with
  | some w => w
  | none => if g.need.getLsbD i then clauseHolding s grp (g.pc i) else g.hdr i

end Sys2Proof.Machine
end

