-- ==== Sys2Proof/Machine/Ops.lean ====
section
/-! DEFINITION. The operations that meanings share: the end of an instruction, registers written, outstanding operations with
their flags and tokens (R165 to R178), raising a cause and halting a team (R309 to R312), entering the handler (R314, R316),
leaving it (R319), and stopping a launch. -/

namespace Sys2Proof.Machine

open Sys2Proof

/-! ### Registers -/

/-- Element of a vector register. -/
def Group.readV (g : Group) (r i : Nat) : Nat := (Sparse.get 0#32 g.v (32 * r + i)).toNat

def Group.putV (g : Group) (r i x : Nat) : Group := { g with v := Sparse.set 0#32 g.v (32 * r + i) (BitVec.ofNat 32 x) }

def Group.readS (g : Group) (r : Nat) : Nat := (Sparse.get 0#32 g.s r).toNat

def Group.putS (g : Group) (r x : Nat) : Group := { g with s := Sparse.set 0#32 g.s r (BitVec.ofNat 32 x) }

/-- A predicate; 7 is the constant one (R91). -/
def Group.pred (g : Group) (r : Nat) : Lanes := if r = 7 then Lanes.all else Sparse.get 0#32 g.p r

def Group.putP (g : Group) (r : Nat) (x : Lanes) : Group := if r = 7 then g else { g with p := Sparse.set 0#32 g.p r x }

/-- A join mask. -/
def Group.join (g : Group) (k : Nat) : JoinMask := Sparse.get {} g.joins k

def Group.putJoin (g : Group) (k : Nat) (j : JoinMask) : Group := { g with joins := Sparse.set {} g.joins k j }

/-- Vector registers the group may name (R92, R105). -/
def Group.allot (g : Group) (full : Nat) : Nat := if g.held then full else 32

/-- A write removes the poison mark of its register (R167), and the operand latches that hold it (R112). -/
def Group.unmark (g : Group) (n : Nat) : Group :=
  { g with marks := Sparse.erase g.marks n
           latches := g.latches.filter (fun l => !(decide (l.name ≤ n) && decide (n < l.name + l.words))) }

/-- Predicate bits replaced for some lanes. -/
def mergeLanes (old new lanes : Lanes) : Lanes := (old &&& ~~~lanes) ||| (new &&& lanes)

/-- Write one 32-bit register (R91): `x i` is lane i's value. `path` is the issuing path (the number of entries that have issued
before it in this cycle, its lanes), none for a result that lands later; of two paths of one cycle the first one's scalar stays, and
each writes its own predicate bits (R93). -/
def Group.writeReg (g : Group) (path : Option (Nat × Lanes)) (n : Nat) (active : Lanes) (x : Nat → Nat) : Group :=
  let other := match path with
    | some (nth, _) => g.prot.find? (fun (e : Nat × Nat × Lanes) => e.1 != nth && e.2.1 = n)
    | none => none
  let note := fun (g' : Group) (base : Lanes) => match path with
    | some (nth, _) => { g' with prot := (nth, n, base) :: g'.prot }
    | none => g'
  if active = 0#32 then g
  else if n < 1536 then
    (active.toList.foldl (fun g i => g.putV n i (x i)) g).unmark n
  else if n < 1600 then
    match active.lowest with
    | none => g
    | some e => if other.isSome then g else (note (g.putS (n - 1536) (x e)) 0).unmark n
  else if 1664 ≤ n && n < 1671 then
    let old := g.pred (n - 1664)
    let base := match other, path with
      | some o, some _ => o.2.2
      | _, _ => old
    let new := mergeLanes base (Lanes.ofFn (fun i => x i != 0)) active
    let mine := match path with
      | some (_, ls) => mergeLanes old new ls
      | none => new
    note (g.putP (n - 1664) new) mine
  else g

/-- Write the words of a result, one register each. -/
def Group.writeRegs (g : Group) (path : Option (Nat × Lanes)) (active : Lanes) (x : Nat → Nat) : List Nat → Nat → Group
  | [], _ => g
  | n :: ns, k => Group.writeRegs (g.writeReg path n active (fun i => bits (x i) (32 * k) 32)) path active x ns (k + 1)

/-- Replace a whole predicate (`movp.all`, R122), for a path as in `writeReg`. -/
def Group.setPred (g : Group) (nth : Nat) (lanes : Lanes) (n : Nat) (x : Lanes) : Group :=
  if n = 1671 then g
  else
    let old := g.pred (n - 1664)
    match g.prot.find? (fun e => e.1 != nth && e.2.1 = n) with
    | some o => g.putP (n - 1664) (mergeLanes o.2.2 x lanes)
    | none => { g.putP (n - 1664) x with prot := (nth, n, mergeLanes old x lanes) :: g.prot }

/-- The registers of a result: one, or a pair (R91). -/
def regsOf (n : Nat) (wide : Bool) : List Nat := if wide then [n, n + 1] else [n]

/-! ### Program counters -/

/-- Lanes stand each at its `pc`, in the clause of header `hdr`, whose headers are consumed (R142). -/
def Group.placeAt (g : Group) (lanes : Lanes) (pc : Nat → Nat) (hdr : Nat) : Group :=
  lanes.toList.foldl (fun g i => { g with pcs := Sparse.set 0 g.pcs i (pc i), hdrs := Sparse.set 0 g.hdrs i hdr })
    { g with need := g.need &&& ~~~lanes }

/-- Lanes stand at `pc`. -/
def Group.place (g : Group) (lanes : Lanes) (pc hdr : Nat) : Group := g.placeAt lanes (fun _ => pc) hdr

/-- One instruction issued: the counters that watch it (R311, R322, R324, R330). -/
def Group.counted (g : Group) : Group :=
  { g with
    issued := g.issued + 1
    issuedNow := g.issuedNow + 1
    idle := 0
    skidLeft := g.skidLeft.map (fun n => n - 1)
    skid := if g.skidLeft.isSome then g.skid + 1 else g.skid
    stepLeft := g.stepLeft - 1
    skipBreak := false }

/-- The instruction in hand has issued and its lanes pass on to the next word. -/
def State.advance (s : State) : State :=
  let c := s.sched.cur
  s.modGroup c.grp (fun g => (g.place c.lanes c.npc c.hdr).counted)

/-- The issue slot of this cycle is taken (R141), and the watchdog's count starts anew (R322). -/
def Group.slotTaken (g : Group) : Group := { g with issuedNow := g.issuedNow + 1, idle := 0 }

/-- The instruction in hand has begun and now waits: it has taken the issue slot of this cycle, and its lanes stay (log 75). -/
def State.begins (s : State) : State := s.modGroup s.sched.cur.grp Group.slotTaken

/-- Write a result of the instruction in hand. -/
def State.writeDest (s : State) (active : Lanes) (regs : List Nat) (x : Nat → Nat) : State :=
  let c := s.sched.cur
  s.modGroup c.grp (fun g => g.writeRegs (some (g.issuedNow, c.lanes)) active x regs 0)

/-- Write a truth value per lane to a destination name: a bit, or all ones (R121, R161). -/
def State.writeTruth (s : State) (active : Lanes) (n : Nat) (x : Nat → Bool) : State :=
  s.writeDest active [n] (fun i => if x i then 0xFFFFFFFF else 0)

/-! ### Tokens -/

/-- The handler's sixteen tokens, or the group's own (R317). -/
def Group.tokTable (g : Group) (h : Bool) : Sparse Token := if h then g.htoks else g.toks

def Group.tok (g : Group) (h : Bool) (t : Nat) : Token := Sparse.get {} (g.tokTable h) t

def Group.setTok (g : Group) (h : Bool) (t : Nat) (k : Token) : Group :=
  if h then { g with htoks := Sparse.set {} g.htoks t k } else { g with toks := Sparse.set {} g.toks t k }

/-- `poison_tok` (R173), with what `tokf` records (R220). -/
def Token.poisoned (k : Token) (f : Failure) : Token :=
  if k.poison then k
  else
    { k with
      poison := true, cause := f.cause
      tokf := if f.valid then 2 ^ 63 + (if f.write then 2 ^ 62 else 0) + f.lane % 32 * 2 ^ 57 + f.addr % 2 ^ 57 else 0 }

/-- The image of R169. -/
def Token.image (k : Token) : Nat :=
  k.bytes % 2 ^ 32 * 2 ^ 32 + (if k.armed then 2 ^ 21 else 0) + k.cause % 32 * 2 ^ 16 + (if k.poison then 2 ^ 15 else 0) +
    k.cls % 8 * 2 ^ 8 + k.count % 256

/-- The image of `tokx` (R185). -/
def Token.exportImage (k : Token) : Nat := (if k.armed then 2 ^ 63 else 0) + k.scope % 8 * 2 ^ 60 + k.addr % 2 ^ 57

/-- Token class of an operation (R169). -/
def OpKind.cls : OpKind → Nat
  | .tjoin => 0
  | .tsig => 0
  | .dieScratch => 2
  | .bargeRun => 3
  | .bstop => 3
  | .bres => 3
  | .matrix => 4
  | .nmv => 5
  | .qflush => 5
  | .put => 6
  | .rld => 6
  | .ratom => 6
  | .wcflush => 6
  | .clplan => 7
  | .clgo => 7
  | .rring => 7
  | _ => 1

/-- Issue of `n` operations of a class into a token has to wait (R171). -/
def tokenBusy (g : Group) (h : Bool) (t cls n : Nat) : Bool :=
  let k := g.tok h t
  (k.count != 0 && k.cls != cls) || 255 < k.count + n

/-- Tokens named in a mask. -/
def maskTokens (m : Nat) : List Nat := (rangeFrom 0 16).filter (fun t => bitOf m t)

/-- Retirements still awaited by an operation with mask `m` issued now (R173). -/
def waitsOf (g : Group) (h : Bool) (m : Nat) : Sparse Nat :=
  (maskTokens m).foldl (fun w t => Sparse.set 0 w t (g.tok h t).fifo.length) []

/-- The cause of the lowest-numbered poisoned token of a mask (R173). -/
def maskPoison (g : Group) (h : Bool) (m : Nat) : Option Nat :=
  match (maskTokens m).find? (fun t => (g.tok h t).poison) with
  | some t => some (g.tok h t).cause
  | none => none

/-- The state of preconditions at the moment the last awaited retirement is in (R173): none before it, afterwards the cause of a
poisoned one, if there is one. `old` is what stands already. -/
def preOf (g : Group) (h : Bool) (mask : Nat) (waits : Sparse Nat) (old : Option (Option Nat)) : Option (Option Nat) :=
  match old with
  | some c => some c
  | none => if waits.all (fun p => p.2 = 0) then some (maskPoison g h mask) else none

/-- What stands of preconditions whose waits are over. -/
def poisonBy (pre : Option (Option Nat)) (g : Group) (h : Bool) (mask : Nat) : Option Nat :=
  match pre with
  | some c => c
  | none => maskPoison g h mask

/-- Operations of the group held on preconditions that count against the limit of R315. -/
def heldOps (s : State) (grp : Nat) : Nat :=
  (s.ops.filter (fun p => p.2.grp = grp && p.2.held && p.2.kind.cls != 3 && p.2.kind.cls != 4)).length

/-- Flag an instruction selects: setA, or setB with `.fb`; none for 15 (R90, R165). -/
def flagOf (hdr : Nat) (fb : Bool) : Option Nat :=
  let f := if fb then bits hdr 24 4 else bits hdr 20 4
  if f ≤ 11 then some f else none

/-- The flag cannot take one more (R165). -/
def flagFull (g : Group) (f : Option Nat) : Bool :=
  match f with
  | some k => 63 ≤ Sparse.get 0 g.flags k
  | none => false

/-- The scalar registers among an operation's destinations. -/
def Op.scalars (o : Op) : List Nat := o.dests.filter (fun n => 1536 ≤ n && n < 1600)

/-- What the other path of the cycle writes of the scalars of an operation issued now (R93): each with that path's operation that will write
it, or 0 where it has written it. -/
def Group.rivalsOf (g : Group) (o : Op) : List (Nat × Nat) :=
  let ns := o.scalars
  (g.prot.filter (fun e => e.1 != g.issuedNow && decide (e.2.1 ∈ ns))).map (fun e => (e.2.1, 0)) ++
    (g.late.filter (fun e => e.1 != g.issuedNow && decide (e.2.1 ∈ ns))).map (fun e => e.2)

/-- An operation issues: it takes a number, raises its flag, and enters its token (R165, R171, R173). A flag operation without a
flag stalls its path until it completes (R90). -/
def State.issueOp (s : State) (o : Op) : State :=
  let id := s.sched.nextId
  let o := { o with birth := s.cycle o.core, rivals := (s.group o.grp).rivalsOf o }
  let s := (s.newOp o).modGroup o.grp (fun g =>
    let g := { g with late := o.scalars.map (fun n => (g.issuedNow, n, id)) ++ g.late }
    let g := match o.flag with
      | some f => { g with flags := Sparse.set 0 g.flags f (Sparse.get 0 g.flags f + 1) }
      | none => g
    match o.tok with
    | some t =>
      let k := g.tok o.handler t
      g.setTok o.handler t { k with cls := if k.count = 0 then o.kind.cls else k.cls, count := k.count + 1, fifo := k.fifo ++ [id] }
    | none => g)
  s

/-- The path in hand stalls after this instruction until operation `id` completes (R90). -/
def State.stallOn (s : State) (id : Nat) : State :=
  s.modGroup s.sched.cur.grp (fun g => { g with stalls := (id, s.sched.cur.lanes) :: g.stalls })

/-- The registers that wait for outstanding operations of a group (R167). -/
def pendingRegs (s : State) (grp : Nat) : List Nat := s.ops.flatMap (fun p => if p.2.grp = grp then p.2.dests else [])

/-- Those that stall an instruction of the group now: what the first entry of a cycle has issued does not stall the second, which has been
selected with it (R141). -/
def awaited (s : State) (grp : Nat) : List Nat :=
  let second := (s.group grp).issuedNow != 0
  s.ops.flatMap (fun p => if p.2.grp = grp && !(second && p.2.birth = s.cycle p.2.core) then p.2.dests else [])

/-- A doubleword of counts: byte j for token `lo + j` (R267, R307, R315). -/
def waitWord (w : Sparse Nat) (lo : Nat) : Nat := (rangeFrom 0 8).foldl (fun x j => x + Sparse.get 0 w (lo + j) % 256 * 2 ^ (8 * j)) 0

/-- The counts of two doublewords. -/
def waitTable (w0 w1 : Nat) : Sparse Nat :=
  (rangeFrom 0 16).foldl (fun w t => Sparse.set 0 w t (bits (if t < 8 then w0 else w1) (8 * (t % 8)) 8)) []

/-- Doublewords 0 to 4 of a parked queue entry (R307). -/
def MxOp.image (q : MxOp) : List Nat :=
  [q.major % 64 * 2 ^ 58 + q.minor % 256 * 2 ^ 50 + q.mods % 1024 * 2 ^ 40 + q.token % 16 * 2 ^ 36 + q.kdone % 4096 * 2 ^ 24 +
     (if q.mc then 2 ^ 23 else 0) + (if q.started then 2 ^ 22 else 0) + (if q.started then 0 else q.mask % 65536),
   q.shape, q.a % 2 ^ 32 * 2 ^ 32 + q.b % 2 ^ 32, waitWord q.waits 0, waitWord q.waits 8]

/-- The images of a parked queue, entry e word w at 8·e + w. -/
def imagesFrom : Nat → List MxOp → Sparse Nat
  | _, [] => []
  | e, q :: qs =>
    let img := q.image
    (rangeFrom 0 5).foldl (fun m w => Sparse.set 0 m (8 * e + w) (nth 0 img w)) (imagesFrom (e + 1) qs)

/-- One retirement less to wait for (R173, R185), for everything that is held on token `t` of the group. -/
def lowerWaits (s : State) (grp : Nat) (h : Bool) (t : Nat) : State :=
  let dec := fun (w : Sparse Nat) => Sparse.set 0 w t (Sparse.get 0 w t - 1)
  let g := s.group grp
  let team := teamOf grp
  let core := coreOfGrp s grp
  let s := { s with
    ops := s.ops.map (fun (p : Nat × Op) =>
      if p.2.grp = grp && p.2.handler = h && p.2.held then (p.1, { p.2 with waits := dec p.2.waits, pre := preOf g h p.2.mask (dec p.2.waits) p.2.pre }) else p)
    barges := s.barges.map (fun (p : Nat × Barge) =>
      if teamOfBarge p.1 = team && p.2.owner = idxOf grp && p.2.handler = h && p.2.mode = BargeMode.armed then
        (p.1, { p.2 with waits := dec p.2.waits, pre := preOf g h p.2.mask (dec p.2.waits) p.2.pre })
      else p) }
  let e := s.engine core
  if (e.queue ++ e.parked).any (fun q => q.grp = grp && q.handler = h) then
    let f := fun (q : MxOp) => if q.grp = grp && q.handler = h then { q with waits := dec q.waits, pre := preOf g h q.mask (dec q.waits) q.pre } else q
    s.modEngine core (fun e =>
      let pk := e.parked.map f
      { e with queue := e.queue.map f, parked := pk, images := if pk.isEmpty then e.images else imagesFrom 0 pk })
  else s

/-! ### What a release waits for (R233, R238) -/

/-- The agent of the store path that stands for other packages (log 20). -/
def podAgent : Nat := 4096

/-- The die an agent of the store path runs on (log 20); none for another package. -/
def agentDie (s : State) (agent : Nat) : Option Nat :=
  if agent < 4096 then some (dieOf (agent % 2048))
  else if agent = podAgent then none
  else some (dieOf (s.team (teamOfBarge (agent - 4097))).core)

/-- Every store performed at a copy of the die before number `upto` is performed at package scope (R233). -/
def dieReleased (s : State) (die upto : Nat) : Bool :=
  s.mem.fwd.all (fun st => !(st.die = die && st.seq < upto)) &&
  s.mem.invals.all (fun v => !(agentDie s v.agent = some die && v.seq < upto))

/-- Every store of an operation is performed at package scope. -/
def opReleased (s : State) (id : Nat) : Bool :=
  s.mem.fwd.all (fun st => st.seq != id) && s.mem.gaPend.all (fun st => st.seq != id) && s.mem.invals.all (fun v => v.seq != id)

/-- A release at system scope writes space-3 and space-4 lines back from their home slices (R227). -/
def writeBack (s : State) (sc : Nat) : State := if 5 ≤ sc then s.modMem (fun m => { m with dirtyHome := [] }) else s

/-! ### Retirement -/

/-- Deliver the export of a token whose count is 0 (R177, R418): a release of what has retired into it (R182). An address that a write to
`tokx` has left off the multiples of 16 is used as it stands (log 79, the model's choice). -/
def tryExport (s : State) (grp : Nat) (h : Bool) (t : Nat) : State :=
  let k := (s.group grp).tok h t
  let core := coreOfGrp s grp
  if !(k.armed && k.count = 0) then s
  else if (4 ≤ k.scope && !dieReleased s (dieOf core) s.sched.nextId) || (5 ≤ k.scope && !hostReleased s s.sched.nextId) then s
  else
    match chamberAt s (teamOf grp) k.scope k.addr with
    | none => s.modGroup grp (fun g => g.setTok h t { k.poisoned { cause := Cause.scratchBound, valid := false } with armed := false })
    | some at_ =>
      match arriveAt (writeBack s k.scope) (agentOn s core (launchOfGrp grp)) at_ 1 k.bytes k.poison k.cause k.scope with
      | .wait => s
      | .fail c _ => s.modGroup grp (fun g => g.setTok h t { k.poisoned { cause := c, valid := false } with armed := false })
      | .ok _ s' => s'.modGroup grp (fun g => g.setTok h t { k with bytes := 0, armed := false })

/-- One operation leaves a token: count, bytes, poison (R172, R173, R185). -/
def retireToken (s : State) (grp : Nat) (h : Bool) (t bytes : Nat) (f : Option Failure) : State :=
  let s := s.modGroup grp (fun g =>
    let k := g.tok h t
    let k := { k with count := k.count - 1, bytes := (k.bytes + bytes) % 2 ^ 32 }
    g.setTok h t (match f with
      | some x => k.poisoned x
      | none => k))
  tryExport (lowerWaits s grp h t) grp h t

/-- What a poison mark says of the token that covers the register: own token + 1, handler token + 17, 33 for none (R167). -/
def Op.cover (o : Op) : Nat :=
  match o.tok with
  | some t => if o.handler then t + 17 else t + 1
  | none => 33

/-- The registers an operation writes as it lands: of two paths of one cycle the first one's write to a scalar stays (R93), so where that
has been made the other leaves the register, which stands as the discarded destination 1671. -/
def Op.lands (o : Op) : List Nat := o.dests.map (fun n => if (n, 0) ∈ o.rivals then 1671 else n)

/-- A write of operation `id` has been made: the operations it comes before do not write over it (R93). -/
def State.outrank (s : State) (id : Nat) : State :=
  if s.ops.all (fun (p : Nat × Op) => p.2.rivals.isEmpty) then s
  else { s with ops := s.ops.map (fun (p : Nat × Op) =>
    (p.1, { p.2 with rivals := p.2.rivals.map (fun r => if r.2 = id then (r.1, 0) else r) })) }

/-- The register result of operation `id` lands, or its registers are marked (R167). -/
def landResult (s : State) (id : Nat) (f : Option Failure) : State :=
  let o := s.op id
  match f with
  | none => (s.modGroup o.grp (fun g => g.writeRegs none o.active (fun i => Sparse.get 0 o.vals i) o.lands 0)).outrank id
  | some _ => s.modGroup o.grp (fun g =>
      (o.lands.filter (fun n => n != 1671)).foldl (fun g n => { g with marks := Sparse.set 0 g.marks n o.cover }) g)

/-- The oldest operation of a token retires if it has finished. -/
def drainOne (s : State) (grp : Nat) (h : Bool) (t : Nat) : Option State :=
  match ((s.group grp).tok h t).fifo with
  | [] => none
  | id :: rest =>
    let o := s.op id
    match o.result with
    | none => none
    | some (bytes, f) =>
      let s := s.modGroup grp (fun g => let k := g.tok h t; g.setTok h t { k with fifo := rest })
      some (retireToken ((landResult s id f).dropOp id) grp h t bytes f)

/-- Finished operations retire in the order of issue (R172). -/
def drain (grp : Nat) (h : Bool) (t : Nat) : Nat → State → State
  | 0, s => s
  | n + 1, s => match drainOne s grp h t with
    | none => s
    | some s' => drain grp h t n s'

/-- A flag counts one operation less; at none it is no longer long-latency (R51, R165). -/
def Group.dropFlag (g : Group) (f : Option Nat) : Group :=
  match f with
  | some k =>
    let n := Sparse.get 0 g.flags k
    { g with flags := Sparse.set 0 g.flags k (n - 1)
             longFlags := if n ≤ 1 then g.longFlags.filter (fun x => x != k) else g.longFlags }
  | none => g

/-- A path that stalled on an operation goes on (R90). -/
def Group.unstall (g : Group) (id : Nat) : Group := { g with stalls := g.stalls.filter (fun p => p.1 != id) }

/-- A flag operation completes: result, flag, and the path that stalled on it (R90, R165). -/
def flagDone (s : State) (id : Nat) : State :=
  let o := s.op id
  let s := (landResult s id none).dropOp id
  s.modGroup o.grp (fun g => (g.dropFlag o.flag).unstall id)

/-- An operation has finished: it retires into its token in order, completes its flag, or ends. -/
def finishOp (s : State) (id bytes : Nat) (f : Option Failure) : State :=
  let o := s.op id
  match o.tok with
  | some t =>
    let g := s.group o.grp
    if o.kind.cls = 7 && !o.handler && !g.left && (g.mode = .saved || g.entPreempt || g.entResume) then s.modOp id (fun o => { o with held := false, result := some (bytes, f) })
    else if id ∈ (g.tok o.handler t).fifo then
      drain o.grp o.handler t ((g.tok o.handler t).fifo.length) (s.modOp id (fun o => { o with held := false, result := some (bytes, f) }))
    else s.modOp id (fun o => { o with held := false, result := some (bytes, f) })
  | none => flagDone s id

/-- An operation that its preconditions keep from running (R173). -/
def poisonOp (s : State) (id cause : Nat) : State := finishOp s id 0 (some { cause := cause, valid := false })

/-- A held operation whose awaited retirements are all in starts, or retires poisoned (R173). -/
def startOp (s : State) (id : Nat) : State :=
  let o := s.op id
  if !(s.hasOp id && o.held && o.waits.all (fun p => p.2 = 0)) then s
  else
    match poisonBy o.pre (s.group o.grp) o.handler o.mask with
    | some c => poisonOp s id c
    | none =>
      match o.kind with
      | .tjoin => finishOp s id 0 none
      | _ => s.modOp id (fun o => { o with held := false })

/-- An operation leaves the list of its token: only the count knows of it from here on (R185). -/
def forgetOp (s : State) (id : Nat) : State :=
  let o := s.op id
  match o.tok with
  | some t => (s.dropOp id).modGroup o.grp (fun g =>
      let k := g.tok o.handler t
      g.setTok o.handler t { k with fifo := k.fifo.filter (fun x => x != id) })
  | none => s.dropOp id

/-- An operation goes into an image: its place in the list of its token, marked by 0, waits for it (R172, R315). -/
def shelveOp (s : State) (id : Nat) : State :=
  let o := s.op id
  match o.tok with
  | some t => (s.dropOp id).modGroup o.grp (fun g =>
      let k := g.tok o.handler t
      g.setTok o.handler t { k with fifo := k.fifo.map (fun x => if x = id then 0 else x) })
  | none => s.dropOp id

/-- The first place of a list that waits for an operation takes it; without one it comes last. -/
def fillPlace (id : Nat) : List Nat → List Nat
  | [] => [id]
  | x :: xs => if x = 0 then id :: xs else x :: fillPlace id xs

/-- Places that wait for no operation any more go. -/
def Group.closeRanks (g : Group) : Group :=
  { g with toks := g.toks.map (fun (p : Nat × Token) => (p.1, { p.2 with fifo := p.2.fifo.filter (fun x => x != 0) })) }

/-- An operation read back from an image is outstanding again in its token, whose count the handler has restored (R185, R315), where it
stood among the token's operations (R172); the state of its preconditions stands at once where it awaits no retirement. Its cycles are
counted from here on (R222: the model's choice, log 83). -/
def State.refill (s : State) (o : Op) : State :=
  let id := s.sched.nextId
  (s.newOp { o with pre := preOf (s.group o.grp) o.handler o.mask o.waits none, birth := s.cycle o.core }).modGroup o.grp (fun g =>
    let k := g.tok o.handler (o.tok.getD 0)
    g.setTok o.handler (o.tok.getD 0) { k with fifo := fillPlace id k.fifo })

/-! ### The register pool (R46, R47) -/

/-- Registers of a team beyond its prologues. -/
def spareOf (s : State) (team : Nat) : Nat := (s.launch (launchOfTeam team)).full - 32

/-- Groups of a team that have not exited. -/
def liveGroupsOf (s : State) (team : Nat) : List Nat := (groupsOf s team).filter (fun k => !(s.group k).left)

/-- Groups of a team that hold their full allotment. -/
def grantedOf (s : State) (team : Nat) : Nat := ((groupsOf s team).filter (fun k => (s.group k).held)).length

/-- Registers a team has committed. -/
def committedBy (s : State) (team : Nat) : Nat :=
  32 * (liveGroupsOf s team).length + spareOf s team + (grantedOf s team - 1) * spareOf s team

/-- Teams of a core that have not exited. -/
def runningTeams (s : State) (core : Nat) : List Nat := (teamsOn s core).filter (fun t => !(s.team t).exited)

/-- Reduce teams on a core (R374). -/
def reducesOn (s : State) (core : Nat) : Nat := (s.fabric.reduces.filter (fun r => r.core = some core)).length

/-- The core holds a team, a reduce team among them (R206, R374). -/
def holdsTeam (s : State) (core : Nat) : Bool := !(teamsOn s core).isEmpty || reducesOn s core != 0

/-- Vector registers of a core that no team has committed (R46); a reduce team commits the 32 of its one group (log 82). -/
def uncommitted (s : State) (core : Nat) : Nat := 6144 - (((runningTeams s core).map (committedBy s)).sum + 32 * reducesOn s core)

/-- Those that may be granted or admitted in this cycle: registers returned in it count from the next one on (R110). -/
def pool (s : State) (core : Nat) : Nat := uncommitted s core - (s.core core).returned

/-- Registers that the core has got back between two states of one cycle. -/
def noteReturned (core : Nat) (s0 s : State) : State :=
  s.modCore core (fun c => { c with returned := c.returned + (uncommitted s core - uncommitted s0 core) })


/-! ### Barge queues (R280) -/

/-- Entries of a queue of a team. -/
def State.queueOf (s : State) (team q : Nat) : List Nat := Sparse.get [] (s.team team).queues q

def State.setQueue (s : State) (team q : Nat) (l : List Nat) : State :=
  s.modTeam team (fun t => { t with queues := Sparse.set [] t.queues q l })

/-- Armed, running or waiting (R262). -/
def Barge.busy (b : Barge) : Bool := b.mode = .armed || b.mode = .running || b.mode = .waiting

/-- A barge of the team may still put something into a queue. -/
def anyBusyBarge (s : State) (team : Nat) : Bool := (bargesOf team).any (fun b => (s.barge b).busy)

/-! ### Halts -/

/-- Lowest cause of a lane table. -/
def lowestCause (cs : Sparse Nat) : Nat := (minOf (cs.map (fun p => p.2))).getD 0

/-- Lowest lane with a cause. -/
def lowestLane (cs : Sparse Nat) (c : Nat) : Nat := (minOf ((cs.filter (fun p => p.2 = c)).map (fun p => p.1))).getD 0

/-- The waiter is a path of the group. -/
def Waiter.isPathOf (w : Waiter) (grp : Nat) : Bool :=
  match w with
  | .path k _ => k = grp
  | .barge _ => false

/-- A halted group leaves every semaphore queue (R208). -/
def leaveQueues (s : State) (grp : Nat) : State :=
  let s := (s.group grp).semWaits.foldl (fun s w =>
    s.modCore (coreOfGrp s grp) (fun c =>
      let q := (Sparse.get [] c.semQueues w.1).filter (fun x => !x.isPathOf grp)
      { c with semQueues := Sparse.set [] c.semQueues w.1 q })) s
  s.modGroup grp (fun g => { g with semWaits := [] })

/-- The queue reads of a group that have taken no entry (R166). -/
def emptyReads (s : State) (grp : Nat) : List (Nat × Op) :=
  s.ops.filter (fun p => p.2.grp = grp && p.2.kind = .queueRead && 32 ≤ p.2.x)

/-- A halt withdraws the queue reads of a group that have taken no entry: they take none from here on (R166). -/
def withdrawReads (s : State) (grp : Nat) : State :=
  (emptyReads s grp).foldl (fun s p => s.modOp p.1 (fun o => { o with withdrawn := true })) s

/-- A withdrawn queue read, as the frame records it. -/
def Op.record (o : Op) : QRead :=
  { dest := o.dests.head?.getD 0, queue := o.x, wide := o.dests.length = 2, fb := o.y = 1, lanes := o.active }

/-- The withdrawn queue reads of a group that stops release their flags, and are kept for reissue (R166, log 47). -/
def dropReads (s : State) (grp : Nat) : State :=
  (emptyReads s grp).foldl (fun s p =>
    (s.dropOp p.1).modGroup grp (fun g => { (g.dropFlag p.2.flag).unstall p.1 with qread := g.qread ++ [p.2.record] })) s

/-- A group no longer waits in an `nmcfg` (R350). -/
def leaveSlots (s : State) (grp : Nat) : State :=
  { s with near := { s.near with slots := s.near.slots.map (fun (p : Nat × Slot) =>
      (p.1, { p.2 with cfgWaits := p.2.cfgWaits.filter (fun w => w.1 != grp) })) } }

/-- Parked lanes have not completed their `mwait`: on resumption they issue it again (R153, R316). -/
def Group.unpark (g : Group) : Group :=
  { g with joins := g.joins.map (fun (p : Nat × JoinMask) => (p.1, { p.2 with parked := 0, site := none, paths := [] })) }

/-- A group stops where it stands (R153, R311): what it was waiting for is not completed. -/
def standStill (s : State) (grp : Nat) (m : Mode) : State :=
  (leaveSlots (leaveQueues s grp) grp).modGroup grp (fun g => { g.unpark with
    mode := m, skidLeft := none, racq := none, rrelAt := none, sleep := none, fences := [], nbWaits := [], genWaits := [], fetched := []
    clears := [], latches := [] })

/-- A group stops; its withdrawn queue reads are kept for reissue (R166). In a debug stop a queue read stays outstanding (R323). -/
def stopGroup (s : State) (grp : Nat) (m : Mode) : State :=
  let s := standStill s grp m
  if m = .debugStop || (s.team (teamOf grp)).debug then s else dropReads s grp

/-- A group without a live lane takes no part in a halt: its queue reads that have taken no entry go, and no lane is left for which they
would be issued again. -/
def dropDead (s : State) (grp : Nat) : State :=
  (dropReads s grp).modGroup grp (fun g => { g with qread := [] })

/-- A halt is broadcast: each other running group may issue some instructions more, at most 4 (R311); how many is open (log 32).
Queue reads that have taken no entry are withdrawn (R166), but not where the halt leads to debug stop (R323). -/
def broadcast (s : State) (team : Nat) (except : Nat) : State :=
  (groupsOf s team).foldl (fun s k =>
    let s := if (s.team team).debug then s else if (s.group k).live = 0#32 then dropDead s k else withdrawReads s k
    let g := s.group k
    if k ≠ except && g.mode = .running && g.live ≠ 0#32 && g.skidLeft.isNone then
      (s.modGroup k (fun g => { g with skidLeft := some (s.freeChoice 5), skid := 0, cause := {} })).took
    else s) s

/-- A barge stops where it stands, its copies in flight cut off: what is left of the run retires poisoned with a cause. -/
def cutBarge (cause : Nat) (s : State) (b : Nat) : State :=
  let x := s.barge b
  if x.mode = .armed || x.mode = .running || x.mode = .waiting then
    let grp := 32 * teamOfBarge b + x.owner
    let s := s.modBarge b (fun x => { x with
      mode := .stopped, left := 0, ops := [], waits := [], mask := 0, pending := none, semWait := 0, nbWait := none, rel := none, flight := [], stopping := none })
    let s := s.modCore (s.team (teamOfBarge b)).core (fun c =>
      let q := (c.semQueues.map (fun p => (p.1, p.2.filter (fun w => w != .barge b)))).filter (fun p => !p.2.isEmpty)
      { c with semQueues := q })
    let f : Option Failure := some { cause := cause, valid := false }
    let s := x.ops.foldl (fun s id => finishOp s id 0 f) s
    (rangeFrom 0 (x.left - x.ops.length)).foldl (fun s _ => retireToken s grp x.handler x.token 0 f) s
  else s

/-- A barge stops at its next instruction boundary, as `bstop` stops it (R265, R389): the copies it has begun end first. -/
def stopBargeBy (cause : Nat) (s : State) (b : Nat) : State :=
  if (s.barge b).flight.isEmpty then cutBarge cause s b else s.modBarge b (fun x => { x with stopping := some cause })

/-- As `bstop` does: with cause barge fault. -/
def stopBarge (s : State) (b : Nat) : State := stopBargeBy Cause.bargeFault s b

/-- The queue of an engine empties (R389): its operations retire poisoned, and write nothing. -/
def emptyEngine (s : State) (core cause : Nat) : State :=
  let q := (s.engine core).queue
  let s := s.modEngine core (fun e => { e with queue := [], nimages := 0, images := [], parked := [] })
  q.foldl (fun s x =>
    if x.op ≠ 0 then finishOp s x.op 0 (some { cause := cause, valid := false })
    else retireToken s x.grp x.handler x.token 0 (some { cause := cause, valid := false })) s

/-- The engine of a core is given back (R287, R288); its predictions go (R302). -/
def releaseEngine (s : State) (core : Nat) : State :=
  let t := (s.engine core).holder
  (s.modEngine core (fun e => { e with holder := none, zeroing := true })).modScr (fun c =>
    { c with zero := c.zero.filter (fun z => some z.team != t) })

/-- Every group of a team that has stopped for good leaves (R318, R389): no lane lives, no handler runs. -/
def stopTeam (s : State) (team : Nat) : State :=
  let s0 := s
  let s := (groupsOf s team).foldl (fun s k =>
    (stopGroup s k .running).modGroup k (fun g => { g with live := 0, active := false, held := false, left := true })) s
  let s := (bargesOf team).foldl stopBarge s
  let c := (s.team team).core
  let s := if (s.engine c).holder = some team then releaseEngine (emptyEngine s c Cause.signalled) c else s
  noteReturned c s0 (s.modTeam team (fun t => { t with exited := true, heldHalts := [], wantHalt := [], wantDebug := false }))

/-- Operations of a group that have finished retire now, token after token. -/
def drainAll (s : State) (grp : Nat) : State :=
  (rangeFrom 0 16).foldl (fun s t => drain grp false t (((s.group grp).tok false t).fifo.length) s) s

/-- A saved context is discarded (R389): its groups are gone, and what was held back for them retires. -/
def discardGroup (s : State) (grp : Nat) : State :=
  if (s.group grp).mode = .saved then
    (drainAll (s.modGroup grp (fun g => { g.closeRanks with mode := .running, live := 0, left := true })) grp).modGroup grp (fun g => { g with toks := [] })
  else s

/-- A launch ends early: every team stops, saved contexts are discarded, and the outcome is fixed if it is not yet (R318, R389). The
clusters of saved contexts are released as others are (R37, R349). -/
def stopLaunch (s : State) (launch status cause team : Nat) : State :=
  let s := (teamsOfLaunch s launch).foldl stopTeam s
  let s := ((s.groups.filter (fun p => launchOfGrp p.1 = launch)).map (fun p => p.1)).foldl discardGroup s
  let s := s.modWork (fun w =>
    let cs := w.clusters.map (fun p => if p.2.launch = launch && p.2.saved then (p.1, { p.2 with saved := false }) else p)
    { w with clusters := cs })
  let s := { s with teams := s.teams.map (fun (p : Nat × Team) =>
    if launchOfTeam p.1 = launch && !p.2.resident then (p.1, { p.2 with exited := true, heldHalts := [] }) else p) }
  s.modLaunch launch (fun l => { l with
    cancelled := true, halting := false
    outcome := some (l.outcome.getD (status, cause, team)) })

/-- A cause in handler mode, or a failed frame access (R318). -/
def doubleFault (s : State) (grp cause : Nat) : State :=
  (stopLaunch s (launchOfGrp grp) 0x04 cause (gridTeamOf (teamOf grp))).modGroup grp Group.slotTaken

/-- The team learns of an origin's cause (R310). -/
def Team.report (t : Team) (cause idx : Nat) : Team :=
  if t.cause = 0 || cause < t.cause || (cause = t.cause && idx < t.origin) then { t with cause := cause, origin := idx } else t

/-- No halt of the team is in course that this cause would join: its report starts anew (R310). -/
def freshHalt (s : State) (grp : Nat) : Bool :=
  let g := s.group grp
  g.skidLeft.isNone && !g.raisedNow && (s.team (teamOf grp)).wantHalt.isEmpty &&
    (groupsOf s (teamOf grp)).all (fun k => (s.group k).left || (s.group k).mode = .running || (s.group k).mode = .handler)

/-- Queue reads of a team that a halt has withdrawn and that are still there are withdrawn no longer: the halt leads to debug stop, where
operations run on (R323). -/
def keepReads (s : State) (team : Nat) : State :=
  { s with ops := s.ops.map (fun (p : Nat × Op) =>
    if p.2.kind = .queueRead && teamOf p.2.grp = team then (p.1, { p.2 with withdrawn := false }) else p) }

/-- A cause in handler mode is a double fault (R318). Where the other path of the cycle is still to issue, the group first hears of that one's
causes, and the lowest of both is reported (R310). -/
def raiseDouble (s : State) (grp cause : Nat) : State :=
  let g := s.group grp
  let c := match g.dfault with
    | some d => if d < cause then d else cause
    | none => cause
  if g.picks.isEmpty then doubleFault (s.modGroup grp (fun g => { g with dfault := none })) grp c
  else s.modGroup grp (fun g => { g.slotTaken with dfault := some c, raisedNow := true })

/-- Raise a cause: the one way in which a group's instruction traps (R310, R311, R318). `cs` gives each lane's cause, `code` the
operand of `trap` and `brk`, `tok` the token consumed with its own cause. The present lanes' counters name the instruction, or
the next one where the instruction completes. The group's queue reads go once every path of the cycle has issued (`settleGroup`); with a
breakpoint among the causes the halt leads to debug stop, whichever cause is reported (R323, R326, log 44). -/
def State.raise (s : State) (cs : Sparse Nat) (code : Nat) (tok : Option (Nat × Nat)) (completes : Bool) : State :=
  let c := s.sched.cur
  let g := s.group c.grp
  let team := teamOf c.grp
  if g.mode = .handler then raiseDouble s c.grp (lowestCause cs)
  else
    let again := g.raisedNow
    let all := if again then g.cause.causes ++ cs else cs
    let cause := lowestCause all
    let mine := cause = lowestCause cs && !(again && g.cause.cause ≤ cause)
    let rec_ : CauseRec :=
      { cause := cause, lane := lowestLane all cause
        code := if mine then code else g.cause.code
        causes := all.foldl (fun m p => Sparse.set 0 m p.1 p.2) []
        present := if again then g.cause.present ||| c.lanes else c.lanes
        tokv := if mine then tok.isSome else g.cause.tokv
        token := if mine then (tok.getD (0, 0)).1 else g.cause.token
        tcause := if mine then (tok.getD (0, 0)).2 else g.cause.tcause
        self := true }
    let fresh := freshHalt s c.grp
    let inSkid := g.skidLeft.isSome
    let stops := cs.any (fun p => p.2 = Cause.breakpoint) && (s.launch (launchOfTeam team)).debug
    let s := s.modTeam team (fun t =>
      let t := (if fresh then { t with cause := 0, origin := 0 } else t).report cause (idxOf c.grp)
      { t with debug := t.debug || stops })
    let s := if (s.team team).debug then keepReads s team else if g.picks.isEmpty then dropReads s c.grp else withdrawReads s c.grp
    let s := standStill s c.grp .halted
    let s := s.modGroup c.grp (fun g =>
      let g := g.place c.lanes (if completes then c.npc else c.pc) c.hdr
      let g := if completes then { g with issued := g.issued + 1, skid := if inSkid then g.skid + 1 else g.skid } else g
      { g with cause := rec_, raisedNow := true, issuedNow := g.issuedNow + 1, idle := 0, entPreempt := false, entResume := false })
    if teamInHandler s team then s.modTeam team (fun t => { t with wantHalt := t.wantHalt ++ [c.grp] })
    else broadcast s team c.grp

/-- The same cause in every lane of a set. -/
def causeAll (lanes : Lanes) (c : Nat) : Sparse Nat := lanes.toList.map (fun i => (i, c))

/-- An encoding fault: raised by every present lane, whatever the guard (R97). -/
def State.trapAll (s : State) (c : Nat) : State := s.raise (causeAll s.sched.cur.lanes c) 0 none false

/-- A cause of the active lanes. -/
def State.trapActive (s : State) (active : Lanes) (c : Nat) : State := s.raise (causeAll active c) 0 none false

/-- With the last handler of a team over, what waited for it comes: each origin's halt broadcast, a debugger's halt (R317). -/
def afterHandlers (s : State) (team : Nat) : State :=
  if teamInHandler s team then s
  else
    let t := s.team team
    let s1 := (t.wantHalt.foldl (fun s k => broadcast s team k) s).modTeam team (fun t => { t with wantHalt := [] })
    if t.wantDebug then
      broadcast (s1.modTeam team (fun t => { t with wantDebug := false, debug := true })) team (32 * team + 32)
    else s1

/-! ### Exit -/

/-- Lanes exit (R154, R292): out of every members and signed set. -/
def Group.exitLanes (g : Group) (lanes : Lanes) : Group :=
  { g with
    live := g.live &&& ~~~lanes
    joins := g.joins.map (fun p => (p.1, { p.2 with
      members := p.2.members &&& ~~~lanes, parked := p.2.parked &&& ~~~lanes, signed := p.2.signed &&& ~~~lanes })) }

/-- Live groups of a launch's grid (R329): all of its groups, placed or not (R55), but those that have exited. -/
def liveGroups (s : State) (launch : Nat) : Nat :=
  let l := s.launch launch
  l.clusters * (l.w * l.h) * l.groups - (s.groups.filter (fun p => launchOfGrp p.1 = launch && p.2.left)).length

/-- A group whose last lane has exited leaves, once no outstanding operation has a register destination (R52, R154); with the
last group its team exits (R287, R329). Its registers count toward the pool from the next cycle on (R110), and with the last handler of
the team over, what waited for it comes (R317). -/
def groupExit (s : State) (grp : Nat) : State :=
  let s0 := s
  let team := teamOf grp
  let launch := launchOfTeam team
  let g := s.group grp
  if g.live ≠ 0#32 || g.left || !(pendingRegs s grp).isEmpty then s
  else
    let s := s.modGroup grp (fun g => { g with active := false, held := false, mode := .running, skidLeft := none, left := true })
    let s := if g.gen = (s.launch launch).epoch + 1 then s.modLaunch launch (fun l => { l with count := l.count - 1 }) else s
    let core := (s.team team).core
    let s :=
      if (groupsOf s team).all (fun k => (s.group k).left) then
        let s := s.modTeam team (fun t => { t with exited := true })
        let s := s.modLaunch launch (fun l => { l with exits := l.exits + 1 })
        if (s.engine core).holder = some team && (s.engine core).queue.isEmpty then releaseEngine s core else s
      else s
    let s := noteReturned core s0 s
    if inHandler g then afterHandlers s team else s

/-! ### Entering the handler (R312, R314, R316) -/

/-- Address of a group's frame (R314). -/
def frameAddr (s : State) (grp : Nat) : Nat :=
  let l := s.launch (launchOfGrp grp)
  l.savebase + gridTeamOf (teamOf grp) * l.slot * 65536 + 0x2000 * idxOf grp

/-- Address of a team's slot (R314). -/
def slotAddr (s : State) (team : Nat) : Nat :=
  let l := s.launch (launchOfTeam team)
  l.savebase + gridTeamOf team * l.slot * 65536

/-- The 1st and 2nd doubleword of a frame (R314). -/
def frameHead (s : State) (grp : Nat) : List Byte :=
  let g := s.group grp
  let r := g.cause
  let q := g.qread.head?.getD { dest := 0, queue := 0, wide := false, fb := false, lanes := 0 }
  toBytes (r.cause * 2 ^ 59 + r.lane * 2 ^ 54 + (if g.entPreempt then 2 ^ 53 else 0) + (if g.entResume then 2 ^ 52 else 0) +
    g.skid * 2 ^ 49 + r.code % 65536 * 2 ^ 32 + g.live.toNat) 8 ++
  toBytes ((if r.tokv then 2 ^ 47 else 0) + r.token * 2 ^ 43 + r.tcause * 2 ^ 38 + (s.team (teamOf grp)).origin * 2 ^ 33 +
    (if r.self then 2 ^ 32 else 0) + r.present.toNat) 8 ++
  toBytes (if !g.qread.isEmpty then 2 ^ 63 + q.dest * 2 ^ 52 + q.queue * 2 ^ 46 + (if q.wide then 2 ^ 45 else 0) +
    (if q.fb then 2 ^ 44 else 0) + q.lanes.toNat else 0) 8

/-- Bit mask of the marked registers among `n` from name `lo`. -/
def markBits (g : Group) (lo n : Nat) : Nat :=
  (rangeFrom 0 n).foldl (fun m i => if Sparse.get 0 g.marks (lo + i) = 0 then m else m + 2 ^ i) 0

/-- A held-operation image (R315); a put's counter stands at 0x320 (log 28). -/
def heldImage (o : Op) : List Byte :=
  let w := fun (t : Nat) => Sparse.get 0 o.waits t % 256
  toBytes (o.major % 64 * 2 ^ 58 + (match o.f with
    | some f => f.ty.toNat * 16
    | none => 0) % 256 * 2 ^ 50 + o.idx % 16 * 2 ^ 50 + (match o.f with
    | some f => f.mods.toNat
    | none => 0) % 1024 * 2 ^ 40 + (o.tok.getD 0) % 16 * 2 ^ 36 + o.active.toNat) 8 ++
  toBytes (o.mask % 65536 * 2 ^ 48) 8 ++
  (rangeFrom 0 16).map (fun t => BitVec.ofNat 8 (w t)) ++
  laneList.flatMap (fun i => toBytes (Sparse.get 0 o.addr i) 8) ++
  laneList.flatMap (fun i => toBytes (Sparse.get 0 o.data i + Sparse.get 0 o.cmp i * 2 ^ 64) 16) ++
  toBytes (if o.kind = .put then o.y else 0) 8

/-- The body of a frame from offset 0x018 to 0x4AF (R314). -/
def frameBody (s : State) (grp held : Nat) : List Byte :=
  let g := s.group grp
  toBytes (held * 2 ^ 32 + g.gen) 8 ++
  (rangeFrom 0 7).flatMap (fun r => toBytes (g.pred r).toNat 4) ++ toBytes 0 4 ++
  laneList.map (fun i => BitVec.ofNat 8 (Sparse.get 0 g.cause.causes i)) ++
  laneList.flatMap (fun i => toBytes ((if g.live.getLsbD i then 2 ^ 63 else 0) + g.pc i) 8) ++
  (rangeFrom 0 4).flatMap (fun r => laneList.flatMap (fun i => toBytes (g.readV r i) 4)) ++
  toBytes (markBits g 0 1536) 192 ++
  toBytes (markBits g 1536 64) 8 ++
  toBytes (g.nbpend % 65536 * 2 ^ 16 + g.nbph % 65536) 8 ++
  laneList.flatMap (fun i => toBytes (if g.live.getLsbD i then laneHeader s grp i else g.hdr i) 4)

/-- The operations of a group that pre-emption moves into images (R315), in order of issue. -/
def heldOf (s : State) (grp : Nat) : List (Nat × Op) :=
  s.ops.filter (fun p => p.2.grp = grp && p.2.held && !p.2.handler && p.2.kind.cls != 3 && p.2.kind.cls != 4)

/-- Everything a group must have landed before its handler (R312): flags, special functions, shuffles, register destinations.
At a pre-emption the started operations of classes 0, 1, 2, 5 and 6 too (R320): one that is complete behind a held one of its token retires
after it (R172). -/
def handlerReady (s : State) (grp : Nat) (preempt : Bool) : Bool :=
  s.ops.all (fun p => p.2.grp != grp || (p.2.dests.isEmpty && p.2.flag.isNone && p.2.kind != .special && p.2.kind != .shuffle &&
    (!preempt || p.2.held || p.2.result.isSome || p.2.kind.cls = 3 || p.2.kind.cls = 4 || p.2.kind.cls = 7)))

/-- The lanes of a group start its handler (R316). -/
def Group.startHandler (g : Group) (handler frame slot : Nat) : Group :=
  let g := (rangeFrom 0 32).foldl (fun g i =>
    (((g.putV 0 i frame).putV 1 i (frame / 2 ^ 32)).putV 2 i slot).putV 3 i (slot / 2 ^ 32)) g
  { g with
    mode := .handler
    pcs := g.live.toList.foldl (fun m i => Sparse.set 0 m i handler) g.pcs
    need := g.live
    p := []
    joins := g.unpark.joins
    htoks := []
    stalls := []
    fetched := []
    liveAtEntry := g.live
    skipBreak := false
    clears := []
    latches := []
    savedMarks := if g.entResume then g.savedMarks else g.marks
    marks := g.marks.filter (fun p => 3 < p.1) }

/-- The frame as it is written at handler entry, with its reserved bytes to 0xFFF zero (R5, R314). -/
def wholeFrame (s : State) (grp held : Nat) : List Byte := frameHead s grp ++ frameBody s grp held ++ List.replicate 2896 0#8

/-- A halted group enters its handler: the one way in which an exception is taken. The frame is written, the counters go to the
handler of R313, the frame and slot addresses stand in v0 to v3 (R314, R316); a resumed group's frame is left but for bit 52. Held
operations that go into images are in their tokens' counts alone (R315). -/
def enterHandler (s : State) (grp : Nat) : State :=
  let l := s.launch (launchOfGrp grp)
  let g := s.group grp
  let a := agentOn s (coreOfGrp s grp) (launchOfGrp grp)
  let f := frameAddr s grp
  let go := fun (s : State) => s.modGroup grp (fun g => g.startHandler l.handler f (slotAddr s (teamOf grp)))
  if g.entResume then
    match s.load a f 8 with
    | .wait => s
    | .fail c _ => doubleFault s grp c
    | .ok bs s1 =>
      match s1.store a f (toBytes (setBits (ofBytes bs) 52 1 1) 8) with
      | .wait => s
      | .fail c _ => doubleFault s grp c
      | .ok _ s2 => go s2
  else
    let held := if g.entPreempt then heldOf s grp else []
    match s.store a f (wholeFrame s grp held.length) with
    | .wait => s
    | .fail c _ => doubleFault s grp c
    | .ok _ s1 =>
      match s1.store a (f + 0x1000) (held.flatMap (fun p => heldImage p.2 ++ toBytes 0 216)) with
      | .wait => s
      | .fail c _ => doubleFault s grp c
      | .ok _ s2 => go (held.foldl (fun s p => shelveOp s p.1) s2)

end Sys2Proof.Machine
end

