-- ==== Sys2Proof/Machine/Operands.lean ====
section
/-! DEFINITION. Operands: the name space of R91, the inline constants (R94), literals (R82), the checks of R92 and of the
operand classes, and the gate every group instruction passes before it acts (R97, R98, R167). -/

namespace Sys2Proof.Machine

open Sys2Proof

/-! ### Types -/

/-- The type in force: code 0 is the default (R86). -/
def typeOf (f : ExtForm) (dflt : Nat) : Nat := if f.ty = 0#4 then dflt else f.ty.toNat

/-- 64-bit types `.s64`, `.n64`, `.f64`. -/
def isWide (ty : Nat) : Bool := ty = 3 || ty = 4 || ty = 7

/-- Bits of a type's operand. -/
def widthOf (ty : Nat) : Nat := if isWide ty then 64 else 32

/-- Signed integer types. -/
def isSignedTy (ty : Nat) : Bool := ty = 1 || ty = 3

/-- Registers of an operand. -/
def wordsOfTy (ty : Nat) : Nat := if isWide ty then 2 else 1

/-! ### Reading names -/

/-- FP32 patterns of the floating inline constants, names 2016 to 2047 (R94). -/
def floatConsts : List Nat :=
  [0x3F000000, 0x3E800000, 0x3E000000, 0x3D800000, 0x3F400000, 0x3FC00000, 0xBF000000, 0x80000000,
   0x3EAAAAAB, 0x40490FDB, 0x3FC90FDB, 0x40C90FDB, 0x3EA2F983, 0x3E22F983, 0x3F317218, 0x3FB8AA3B,
   0x40135D8E, 0x40549A78, 0x3E9A209B, 0x402DF854, 0x3FB504F3, 0x3F3504F3, 0x34000000, 0x43E00000,
   0x47600000, 0x477FE000, 0x00800000, 0x00000001, 0x7F7FFFFF, 0x7F800000, 0xFF800000, 0x7FC00000]

/-- Both halves of a packed 16-bit operand. -/
def twice16 (x : Nat) : Nat := x % 65536 * 65536 + x % 65536

/-- Integer value of constant `k` below 96 (R94). -/
def intConst (k : Nat) : Int := if k < 64 then (k : Int) else 63 - (k : Int)

/-- Inline constant `k` under a type (R94); one that a floating format does not hold exactly, an integer one in a narrow format among them, is
rounded to it (log 24, the model's choice). -/
def inlineConst (k ty : Nat) : Nat :=
  if k < 96 then
    match fmtOf ty with
    | none => wrap (widthOf ty) (intConst k)
    | some t =>
      let x := roundTo (.ofInt (intConst k) 0) t 0 false
      if ty = 8 || ty = 9 then twice16 x else x
  else
    let x := nth 0 floatConsts (k - 96)
    match ty with
    | 7 => roundTo (Fmt.f32.value x) .f64 0 false
    | 8 => twice16 (roundTo (Fmt.f32.value x) .bf16 0 false)
    | 9 => twice16 (roundTo (Fmt.f32.value x) .f16 0 false)
    | _ => x

/-- `opnd(n, i, ty)` for names other than queues (R91, R98). A path that issues after another one in the same cycle reads the scalars and
predicates that the first one has written: R93 speaks of the writes alone (log 13, the model's choice). -/
def Group.read (g : Group) (ty n i : Nat) : Nat :=
  if n < 1536 then g.readV n i + (if isWide ty then g.readV (n + 1) i * 2 ^ 32 else 0)
  else if n < 1600 then g.readS (n - 1536) + (if isWide ty then g.readS (n - 1535) * 2 ^ 32 else 0)
  else if n < 1664 then 0
  else if n < 1672 then (g.pred (n - 1664)).toNat
  else if n < 1684 then (g.join (n - 1672)).members.toNat
  else if n < 1920 then 0
  else inlineConst (n - 1920) ty

/-- Source A of lane i. -/
def State.opA (s : State) (f : ExtForm) (ty i : Nat) : Nat := s.me.read ty f.a.toNat i

/-- Source B of lane i: the literal where there is one (R82). -/
def State.opB (s : State) (f : ExtForm) (ty i : Nat) : Nat :=
  match f.lit with
  | some x => if isWide ty then x.toNat else x.toNat % 2 ^ 32
  | none => s.me.read ty f.b.toNat i

/-- Source C of lane i. -/
def State.opC (s : State) (f : ExtForm) (ty i : Nat) : Nat := s.me.read ty f.c.toNat i

/-- The destination's own value in lane i, for instructions that read it. -/
def State.opD (s : State) (f : ExtForm) (ty i : Nat) : Nat := s.me.read ty f.d.toNat i

/-- Bit i of a predicate operand. -/
def State.predBit (s : State) (n : BitVec 11) (i : Nat) : Bool := (s.me.pred (n.toNat - 1664)).getLsbD i

/-! ### Operand classes and R92 -/

/-- A class mask: 1 `v`, 2 `s`, 4 `p0`–`p6`, 8 `pt`, 16 `m`, 32 inline constant. -/
abbrev Classes := Nat

def clsV : Classes := 1
def clsS : Classes := 2
def clsP : Classes := 12
def clsM : Classes := 16
def clsC : Classes := 32

/-- What a field accepts: classes, and registers the operand takes (1, 2 or 4). -/
structure Want where
  cls : Classes
  words : Nat := 1
  /-- alignment, where it is not the number of registers -/
  align : Nat := 0
  deriving DecidableEq, Repr

/-- A predicate may be named (R92, R317). -/
def predOk (g : Group) (l : Launch) (k : Nat) : Bool := k = 7 || inHandler g || bitOf l.preds k

/-- A register operand of `words` registers starting at `r` lies below `bound`, aligned (R92). -/
def regOk (r words align bound : Nat) : Bool := r % (if align = 0 then words else align) = 0 && decide (r + words ≤ bound)

/-- The name is of a class the field accepts, and not barred by R92. -/
def nameOk (g : Group) (l : Launch) (w : Want) (n : Nat) : Bool :=
  if n < 1536 then bitOf w.cls 0 && regOk n w.words w.align (g.allot l.full)
  else if n < 1600 then bitOf w.cls 1 && regOk (n - 1536) w.words w.align l.scalars
  else if n < 1664 then false
  else if n < 1671 then bitOf w.cls 2 && w.words = 1 && predOk g l (n - 1664)
  else if n = 1671 then bitOf w.cls 3 && w.words = 1
  else if n < 1684 then bitOf w.cls 4 && w.words = 1
  else if n < 1920 then false
  else bitOf w.cls 5

/-- The registers a name stands for: `v`, `s` and `p0`–`p6` (R104). -/
def namesOf (w : Want) (n : Nat) : List Nat :=
  if n < 1600 || (1664 ≤ n && n < 1671) then rangeFrom n w.words else []

/-- How an instruction uses its operand fields. -/
structure Use where
  d : Option Want := none
  a : Option Want := none
  b : Option Want := none
  c : Option Want := none
  /-- the destination field is read: a data source, or both -/
  dRead : Bool := false
  /-- a field that holds a plain number, or a scope, holds one it may not: illegal operand (R4, R97) -/
  bad : Bool := false
  deriving DecidableEq, Repr

/-- A used field passes. -/
def wantOk (g : Group) (l : Launch) (w : Option Want) (n : BitVec 11) : Bool :=
  match w with
  | none => true
  | some x => nameOk g l x n.toNat

/-- The literal stands for source B (R82). -/
def wantB (f : ExtForm) (w : Option Want) : Option Want := if f.lit.isSome then none else w

/-- The guard names a predicate the launch has (R92). -/
def guardOk (g : Group) (l : Launch) (f : ExtForm) : Bool := predOk g l f.guard.toNat

/-- No operand of the instruction is illegal (R91, R92). -/
def operandsOk (s : State) (f : ExtForm) (u : Use) : Bool :=
  guardOk s.me s.myLaunch f && wantOk s.me s.myLaunch u.d f.d && wantOk s.me s.myLaunch u.a f.a &&
    wantOk s.me s.myLaunch (wantB f u.b) f.b && wantOk s.me s.myLaunch u.c f.c

/-- Registers of a used field. -/
def wantNames (w : Option Want) (n : BitVec 11) : List Nat :=
  match w with
  | none => []
  | some x => namesOf x n.toNat

/-- Registers the instruction reads, its guard among them. -/
def readNames (f : ExtForm) (u : Use) : List Nat :=
  (if f.guard = 7#3 then [] else [1664 + f.guard.toNat]) ++ wantNames u.a f.a ++ wantNames (wantB f u.b) f.b ++ wantNames u.c f.c ++ 
    (if u.dRead then wantNames u.d f.d else [])

/-- Registers the instruction names at all. -/
def allNames (f : ExtForm) (u : Use) : List Nat := readNames f u ++ wantNames u.d f.d

/-- Lanes whose guard holds (R98). -/
def guardLanes (g : Group) (f : ExtForm) : Lanes :=
  if f.guard = 7#3 then Lanes.all else if f.neg then ~~~(g.pred f.guard.toNat) else g.pred f.guard.toNat

/-- The active lanes of the instruction in hand (R98). -/
def State.active (s : State) (f : ExtForm) : Lanes := s.sched.cur.lanes &&& guardLanes s.me f

/-- The lowest active lane; 0 where none is. -/
def low (active : Lanes) : Nat := active.lowest.getD 0

/-! ### The gate -/

/-- The causes of the active lanes, one by one. -/
def laneCauses (act : Lanes) (c : Nat → Nat) : Sparse Nat := (act.toList.map (fun i => (i, c i))).filter (fun p => p.2 != 0)

/-- What an instruction meets before it acts. -/
inductive Gate where
  /-- an illegal operand: every present lane raises it (R97) -/
  | illegal
  /-- a register is pending (R167): the path stalls -/
  | wait
  /-- it reads no poisoned register, or (R167, R174) one, with the covering token -/
  | go (poison : Option (Option Nat))
  deriving DecidableEq, Repr

/-- A poisoned register that the instruction reads; none in a handler (R167, R317). -/
def poisonedName (g : Group) (names : List Nat) : Option Nat :=
  if inHandler g then none else names.find? (fun n => Sparse.get 0 g.marks n != 0)

/-- Operand checks, pending registers, poisoned registers, in this order. -/
def gate (s : State) (f : ExtForm) (u : Use) : Gate :=
  if u.bad || !operandsOk s f u then .illegal
  else if (allNames f u).any (fun n => decide (n ∈ awaited s s.sched.cur.grp)) then .wait
  else .go ((poisonedName s.me (readNames f u)).map (fun n =>
    let m := Sparse.get 0 s.me.marks n
    if m ≤ 16 then some (m - 1) else none))

/-- The token of a consumed poison with its own cause (R309). -/
def tokenCause (g : Group) (t : Option Nat) : Option (Nat × Nat) := t.map (fun k => (k, (g.tok false k).cause))

/-- Causes with the poison of a register that every active lane reads: of two causes of a lane the lower code stands (R170, log 21). -/
def withPoison (active : Lanes) (poison : Bool) (cs : Sparse Nat) : Sparse Nat :=
  if poison then
    active.toList.foldl (fun m i =>
      let c := Sparse.get 0 m i
      if c = 0 || Cause.poisonConsumed < c then Sparse.set 0 m i Cause.poisonConsumed else m) cs
  else cs

/-- A group instruction with causes of its own: past the gate, any cause traps it, and otherwise it acts. -/
def State.checked (s : State) (f : ExtForm) (u : Use) (chk : Lanes → State → Sparse Nat) (act : Lanes → State → State) : Out :=
  match gate s f u with
  | .illegal => .next (s.trapAll Cause.illegalOperand)
  | .wait => .next s
  | .go p =>
    let cs := withPoison (s.active f) p.isSome (chk (s.active f) s)
    if cs.isEmpty then .next (act (s.active f) s)
    else .next (s.raise cs 0 (if lowestCause cs = Cause.poisonConsumed then tokenCause s.me (p.getD none) else none) false)

/-- An instruction that does something of its own even without an active lane. -/
def State.instrAny (s : State) (f : ExtForm) (u : Use) (act : Lanes → State → State) : Out :=
  s.checked f u (fun _ _ => []) act

/-- A group instruction: past the gate it acts with its active lanes; without one it changes nothing and passes on (R98). -/
def State.instr (s : State) (f : ExtForm) (u : Use) (act : Lanes → State → State) : Out :=
  s.instrAny f u (fun a s => if a = 0#32 then s.advance else act a s)

/-- An instruction that writes a result of `words` registers in each active lane and passes on: fixed latency (R113, R126). -/
def State.compute (s : State) (f : ExtForm) (u : Use) (words : Nat) (x : State → Lanes → Nat → Nat) : Out :=
  s.instr f u (fun act s => (s.writeDest act (rangeFrom f.d.toNat words) (x s act)).advance)

/-- An instruction that writes a truth value in each active lane (R121, R129, R161). -/
def State.test (s : State) (f : ExtForm) (u : Use) (x : State → Lanes → Nat → Bool) : Out :=
  s.instr f u (fun act s => (s.writeTruth act f.d.toNat (x s act)).advance)

end Sys2Proof.Machine
end

