-- ==== Sys2Proof/Machine/Flags.lean ====
section
/-! DEFINITION. Truth values and completion flags: the condition codes of integer compares (R121), the combiners of compares
(R121, R129), and the issue of flag-setting operations (R90, R165). -/

namespace Sys2Proof.Machine

open Sys2Proof

/-- The condition codes of `icmp`, `icmpc` and `bcmp` (R121). -/
def intCond (cc : Nat) (a b : Int) : Bool :=
  match cc with
  | 0 => decide (a = b)
  | 1 => decide (a ≠ b)
  | 2 => decide (a < b)
  | 3 => decide (a ≤ b)
  | 4 => decide (b < a)
  | _ => decide (b ≤ a)

/-- The combiners: 0 and, 1 or, 2 exclusive or (R121). -/
def combine (op : Nat) (x y : Bool) : Bool :=
  match op with
  | 0 => x && y
  | 1 => x || y
  | _ => x != y

/-- An operand as a signed or unsigned integer of its type (R116). -/
def asInt (ty x : Nat) : Int := if isSignedTy ty then signed (widthOf ty) x else ((x % 2 ^ widthOf ty : Nat) : Int)

/-- Header in force of the instruction in hand. -/
def State.hdrNow (s : State) : Nat := s.sched.cur.hdr

/-- The flag that the instruction in hand sets (R90): modifier bit [29] selects setB. -/
def State.flagNow (s : State) (f : ExtForm) : Option Nat := flagOf s.hdrNow (bitOf f.mods.toNat 7)

/-- A flag-setting instruction issues its operation, or waits while the flag is full (R165); the path goes on, and stalls where
no flag is selected (R90). -/
def State.issueFlag (s : State) (f : ExtForm) (o : Op) : State :=
  if flagFull s.me (s.flagNow f) then s
  else
    let id := s.sched.nextId
    let s1 := s.issueOp { o with grp := s.sched.cur.grp, core := s.myCore, flag := s.flagNow f }
    (match s.flagNow f with
      | some _ => s1
      | none => s1.stallOn id).advance

/-- An engine operation issues into its output token, or waits: for the token (R171), or, with preconditions, while the group
holds four operations on preconditions (R315). It starts at once where it names none (R173). -/
def State.engineOp (s : State) (f : ExtForm) (o : Op) : State :=
  let g := s.me
  let h := inHandler g
  let m := f.mask.toNat
  let cls := o.kind.cls
  if tokenBusy g h f.out.toNat cls 1 || (m != 0 && cls != 3 && cls != 4 && decide (4 ≤ heldOps s s.sched.cur.grp)) then s
  else
    (s.issueOp { o with
      grp := s.sched.cur.grp, core := s.myCore, f := some f, tok := some f.out.toNat, handler := h
      held := m != 0, mask := m, waits := waitsOf g h m, pre := preOf g h m (waitsOf g h m) none }).advance

/-- An operation of two numbers rather than of lanes: they stand as address and data of its lowest lane (R315). -/
def Op.ofTwo (o : Op) (x y : Nat) : Op :=
  let e := low o.active
  { o with x := x, y := y, addr := [(e, x)], data := if y = 0 then [] else [(e, y)] }

/-- Another path's fence has not completed: accesses wait (R238). -/
def State.fenced (s : State) : Bool := s.me.fences.any (fun x => x.holds && x.pc != s.sched.cur.pc && !(x.now && s.me.issuedNow != 0))

/-- An access: it waits for a fence of another path, passes the gate and its own checks, and does nothing without an active
lane (R98, R238). -/
def State.access (s : State) (f : ExtForm) (u : Use) (chk : Lanes → State → Sparse Nat) (act : Lanes → State → State) : Out :=
  if s.fenced then .next s else s.checked f u chk (fun a s => if a = 0#32 then s.advance else act a s)

end Sys2Proof.Machine
end

