-- ==== Sys2Proof/Machine/Integer.lean ====
section
/-! DEFINITION. Integer, bit, compare and move instructions: majors 0x01 to 0x05 and 0x0C (R113 to R124). A base word means what
the extended form of the same fields means (R95). -/

namespace Sys2Proof.Machine

open Sys2Proof

/-! ### Shapes -/

/-- Sources of R113: every class; under a 64-bit type the width leaves `v`, `s` and inline constants. -/
def srcWant (words : Nat) : Option Want := some { cls := 63, words := words }

/-- Destinations of R113. -/
def dstWant (words : Nat) : Option Want := some { cls := 15, words := words }

/-- A predicate operand. -/
def predWant : Option Want := some { cls := 12 }

/-- `d, a` with the widths of R113. -/
def use1 (wd wa : Nat) : Use := { d := dstWant wd, a := srcWant wa }

/-- `d, a, b`. -/
def use2 (wd wa wb : Nat) : Use := { d := dstWant wd, a := srcWant wa, b := srcWant wb }

/-- `d, a, b, c`. -/
def use3 (wd wa wb wc : Nat) : Use := { d := dstWant wd, a := srcWant wa, b := srcWant wb, c := srcWant wc }

/-- `d, a, b` and a predicate C. -/
def usePred (wd wa wb : Nat) : Use := { d := dstWant wd, a := srcWant wa, b := srcWant wb, c := predWant }

/-- A unary instruction of a type. -/
def State.unary (s : State) (f : ExtForm) (ty : Nat) (x : Nat → Nat) : Out :=
  s.compute f (use1 (wordsOfTy ty) (wordsOfTy ty)) (wordsOfTy ty) (fun s _ i => x (s.opA f ty i))

/-- A binary instruction of a type. -/
def State.binary (s : State) (f : ExtForm) (ty : Nat) (x : Nat → Nat → Nat) : Out :=
  s.compute f (use2 (wordsOfTy ty) (wordsOfTy ty) (wordsOfTy ty)) (wordsOfTy ty)
    (fun s _ i => x (s.opA f ty i) (s.opB f ty i))

/-- A ternary instruction of a type. -/
def State.ternary (s : State) (f : ExtForm) (ty : Nat) (x : Nat → Nat → Nat → Nat) : Out :=
  s.compute f (use3 (wordsOfTy ty) (wordsOfTy ty) (wordsOfTy ty) (wordsOfTy ty)) (wordsOfTy ty)
    (fun s _ i => x (s.opA f ty i) (s.opB f ty i) (s.opC f ty i))

/-- A shift or a bit field: B is a 32-bit operand. -/
def State.shift (s : State) (f : ExtForm) (ty : Nat) (x : Nat → Nat → Nat) : Out :=
  s.compute f (use2 (wordsOfTy ty) (wordsOfTy ty) 1) (wordsOfTy ty) (fun s _ i => x (s.opA f ty i) (s.opB f 5 i))

/-! ### Arithmetic (R116, R117) -/

/-- `int_result` (R116). -/
def intResult (ty : Nat) (sat : Bool) (x : Int) : Nat :=
  if sat then satInt (isSignedTy ty) (widthOf ty) x else wrap (widthOf ty) x

/-- The modifier `.sat` [24]. -/
def satMod (f : ExtForm) : Bool := bitOf f.mods.toNat 2

/-- An instruction of two integer operands. -/
def State.intBinary (s : State) (f : ExtForm) (x : Int → Int → Int) : Out :=
  let ty := typeOf f 1
  s.binary f ty (fun a b => intResult ty (satMod f) (x (asInt ty a) (asInt ty b)))

/-- An instruction of one integer operand. -/
def State.intUnary (s : State) (f : ExtForm) (x : Int → Int) : Out :=
  let ty := typeOf f 1
  s.unary f ty (fun a => intResult ty (satMod f) (x (asInt ty a)))

/-- `iadd` (R116). -/
def intAdd (f : ExtForm) (s : State) : Out := s.intBinary f (fun a b => a + b)

/-- `isub` (R116). -/
def intSub (f : ExtForm) (s : State) : Out := s.intBinary f (fun a b => a - b)

/-- `imul` (R116). -/
def intMul (f : ExtForm) (s : State) : Out := s.intBinary f (fun a b => a * b)

def execIadd (f : BaseForm) (s : State) : Out := intAdd (f.toExt 1 0) s

def execIaddX (f : ExtForm) (s : State) : Out := intAdd f s

def execIsub (f : BaseForm) (s : State) : Out := intSub (f.toExt 1 1) s

def execIsubX (f : ExtForm) (s : State) : Out := intSub f s

def execImul (f : BaseForm) (s : State) : Out := intMul (f.toExt 1 2) s

def execImulX (f : ExtForm) (s : State) : Out := intMul f s

/-- `imad` (R116): the product is exact before the addition. -/
def execImad (f : ExtForm) (s : State) : Out :=
  let ty := typeOf f 1
  s.ternary f ty (fun a b c => intResult ty (satMod f) (asInt ty a * asInt ty b + asInt ty c))

/-- `imulh` (R116): the floor of the product over 2ⁿ. -/
def execImulh (f : ExtForm) (s : State) : Out :=
  let ty := typeOf f 1
  s.binary f ty (fun a b => wrap (widthOf ty) ((asInt ty a * asInt ty b) / (2 ^ widthOf ty : Int)))

/-- `imin` (R116). -/
def execImin (f : ExtForm) (s : State) : Out :=
  let ty := typeOf f 1
  s.binary f ty (fun a b => if asInt ty b < asInt ty a then b else a)

/-- `imax` (R116). -/
def execImax (f : ExtForm) (s : State) : Out :=
  let ty := typeOf f 1
  s.binary f ty (fun a b => if asInt ty a < asInt ty b then b else a)

/-- `iabs` (R116). -/
def execIabs (f : ExtForm) (s : State) : Out := s.intUnary f (fun a => (a.natAbs : Int))

/-- `ineg` (R116). -/
def execIneg (f : ExtForm) (s : State) : Out := s.intUnary f (fun a => -a)

/-- `iaddc` (R117): the carry stands in the predicate C, and is written after the sum. -/
def execIaddc (f : ExtForm) (s : State) : Out :=
  let ty := typeOf f 1
  let w := widthOf ty
  let sum := fun (s : State) (i : Nat) => s.opA f ty i % 2 ^ w + s.opB f ty i % 2 ^ w + (s.predBit f.c i).toNat
  s.instr f (usePred (wordsOfTy ty) (wordsOfTy ty) (wordsOfTy ty)) (fun act s =>
    let s1 := s.writeDest act (rangeFrom f.d.toNat (wordsOfTy ty)) (fun i => sum s i % 2 ^ w)
    (s1.writeDest act [f.c.toNat] (fun i => sum s i / 2 ^ w)).advance)

/-! ### Logic and bits (R118 to R120) -/

/-- `not` of an operand. -/
def notOf (w a : Nat) : Nat := 2 ^ w - 1 - a % 2 ^ w

/-- `and` (R118). -/
def bitsAnd (f : ExtForm) (s : State) : Out := s.binary f (typeOf f 5) (fun a b => a &&& b)

/-- `or` (R118). -/
def bitsOr (f : ExtForm) (s : State) : Out := s.binary f (typeOf f 5) (fun a b => a ||| b)

/-- `xor` (R118). -/
def bitsXor (f : ExtForm) (s : State) : Out := s.binary f (typeOf f 5) (fun a b => a ^^^ b)

/-- `not` (R118). -/
def bitsNot (f : ExtForm) (s : State) : Out := s.unary f (typeOf f 5) (notOf (widthOf (typeOf f 5)))

def execAnd (f : BaseForm) (s : State) : Out := bitsAnd (f.toExt 2 0) s

def execAndX (f : ExtForm) (s : State) : Out := bitsAnd f s

def execOr (f : BaseForm) (s : State) : Out := bitsOr (f.toExt 2 1) s

def execOrX (f : ExtForm) (s : State) : Out := bitsOr f s

def execXor (f : BaseForm) (s : State) : Out := bitsXor (f.toExt 2 2) s

def execXorX (f : ExtForm) (s : State) : Out := bitsXor f s

def execNot (f : BaseForm) (s : State) : Out := bitsNot (f.toExt 2 3) s

def execNotX (f : ExtForm) (s : State) : Out := bitsNot f s

/-- The number whose bit j, for j below `n`, is `x j`. -/
def buildBits (x : Nat → Bool) : Nat → Nat
  | 0 => 0
  | n + 1 => buildBits x n + (x n).toNat * 2 ^ n

/-- Bit by bit through the function table (R118). -/
def bfn3 (w tab a b c : Nat) : Nat :=
  buildBits (fun j => bitOf tab ((bitOf a j).toNat + 2 * (bitOf b j).toNat + 4 * (bitOf c j).toNat)) w

/-- `bfn3` (R118). -/
def execBfn3 (f : ExtForm) (s : State) : Out :=
  let ty := typeOf f 5
  s.ternary f ty (bfn3 (widthOf ty) (bits f.mods.toNat 0 8))

/-- `shl` (R119). -/
def shlOf (w a k : Nat) : Nat := if w ≤ k then 0 else a * 2 ^ k % 2 ^ w

/-- `shr` (R119). -/
def shrOf (w a k : Nat) : Nat := if w ≤ k then 0 else a % 2 ^ w / 2 ^ k

/-- `sar` (R119): by the width or more, as by the width. -/
def sarOf (w a k : Nat) : Nat := wrap w (signed w a / (2 ^ min k w : Int))

/-- `rot` (R119). -/
def rotOf (w a k : Nat) : Nat := (a % 2 ^ w * 2 ^ (k % w)) % 2 ^ w + a % 2 ^ w / 2 ^ (w - k % w)

def bitsShl (f : ExtForm) (s : State) : Out := s.shift f (typeOf f 5) (shlOf (widthOf (typeOf f 5)))

def bitsShr (f : ExtForm) (s : State) : Out := s.shift f (typeOf f 5) (shrOf (widthOf (typeOf f 5)))

def bitsSar (f : ExtForm) (s : State) : Out := s.shift f (typeOf f 5) (sarOf (widthOf (typeOf f 5)))

def bitsRot (f : ExtForm) (s : State) : Out := s.shift f (typeOf f 5) (rotOf (widthOf (typeOf f 5)))

def execShl (f : BaseForm) (s : State) : Out := bitsShl (f.toExt 3 0) s

def execShlX (f : ExtForm) (s : State) : Out := bitsShl f s

def execShr (f : BaseForm) (s : State) : Out := bitsShr (f.toExt 3 1) s

def execShrX (f : ExtForm) (s : State) : Out := bitsShr f s

def execSar (f : BaseForm) (s : State) : Out := bitsSar (f.toExt 3 2) s

def execSarX (f : ExtForm) (s : State) : Out := bitsSar f s

def execRot (f : BaseForm) (s : State) : Out := bitsRot (f.toExt 3 3) s

def execRotX (f : ExtForm) (s : State) : Out := bitsRot f s

/-- Number of set bits among the lowest `n`. -/
def popcOf (x : Nat) : Nat → Nat
  | 0 => 0
  | n + 1 => popcOf x n + (bitOf x n).toNat

/-- Leading zeros of an `n`-bit number. -/
def clzOf (x n : Nat) : Nat := if x % 2 ^ n = 0 then n else n - 1 - (x % 2 ^ n).log2

/-- The reversed bits of an `n`-bit number. -/
def brevOf (x n : Nat) : Nat := buildBits (fun j => bitOf x (n - 1 - j)) n

/-- `popc` (R119): a 32-bit result. -/
def execPopc (f : ExtForm) (s : State) : Out :=
  let ty := typeOf f 5
  s.compute f (use1 1 (wordsOfTy ty)) 1 (fun s _ i => popcOf (s.opA f ty i) (widthOf ty))

/-- `clz` (R119): a 32-bit result. -/
def execClz (f : ExtForm) (s : State) : Out :=
  let ty := typeOf f 5
  s.compute f (use1 1 (wordsOfTy ty)) 1 (fun s _ i => clzOf (s.opA f ty i) (widthOf ty))

/-- `brev` (R119). -/
def execBrev (f : ExtForm) (s : State) : Out :=
  let ty := typeOf f 5
  s.unary f ty (fun a => brevOf a (widthOf ty))

/-- `field_len` (R120). -/
def fieldLen (p l n : Nat) : Nat := if n ≤ p then 0 else min l (n - p)

/-- `bfe` on numbers (R120). -/
def bfeOf (ty a ctl : Nat) : Nat :=
  let p := bits ctl 0 8
  let l := fieldLen p (bits ctl 8 8) (widthOf ty)
  if l = 0 then 0 else if isSignedTy ty then sextTo l (widthOf ty) (bits a p l) else bits a p l

/-- `bfi` on numbers (R120). -/
def bfiOf (ty a ctl c : Nat) : Nat :=
  let p := bits ctl 0 8
  setBits c p (fieldLen p (bits ctl 8 8) (widthOf ty)) a

/-- `bfe` (R120). -/
def execBfe (f : ExtForm) (s : State) : Out := s.shift f (typeOf f 5) (bfeOf (typeOf f 5))

/-- `bfi` (R120). -/
def execBfi (f : ExtForm) (s : State) : Out :=
  let ty := typeOf f 5
  s.compute f (use3 (wordsOfTy ty) (wordsOfTy ty) 1 (wordsOfTy ty)) (wordsOfTy ty)
    (fun s _ i => bfiOf ty (s.opA f ty i) (s.opB f 5 i) (s.opC f ty i))

/-! ### Compares (R121) -/

/-- `icmp` (R121): a 32-bit result under every type. -/
def intCompare (f : ExtForm) (s : State) : Out :=
  let ty := typeOf f 1
  s.test f (use2 1 (wordsOfTy ty) (wordsOfTy ty))
    (fun s _ i => intCond (bits f.mods.toNat 0 3) (asInt ty (s.opA f ty i)) (asInt ty (s.opB f ty i)))

def execIcmp (f : BaseForm) (s : State) : Out := intCompare (f.toExt 4 0) s

def execIcmpX (f : ExtForm) (s : State) : Out := intCompare f s

/-- `icmpc` (R121). -/
def execIcmpc (f : ExtForm) (s : State) : Out :=
  let ty := typeOf f 1
  s.test f (usePred 1 (wordsOfTy ty) (wordsOfTy ty))
    (fun s _ i => combine (bits f.mods.toNat 3 2)
      (intCond (bits f.mods.toNat 0 3) (asInt ty (s.opA f ty i)) (asInt ty (s.opB f ty i))) (s.predBit f.c i))

/-! ### Moves (R122) -/

/-- `mov` (R122). -/
def moveBits (f : ExtForm) (s : State) : Out := s.unary f (typeOf f 5) (fun a => a)

def execMov (f : BaseForm) (s : State) : Out := moveBits (f.toExt 5 0) s

/-- `mov` between registers: an operand name of a queue in both fields is of no class that a field accepts (R91). -/
def execMovX (f : ExtForm) (s : State) : Out := moveBits f s

/-- `sel` (R122). -/
def execSel (f : ExtForm) (s : State) : Out :=
  let ty := typeOf f 5
  s.compute f (usePred (wordsOfTy ty) (wordsOfTy ty) (wordsOfTy ty)) (wordsOfTy ty)
    (fun s _ i => if s.predBit f.c i then s.opA f ty i else s.opB f ty i)

/-- `movs` (R122): lane k alone is written, where it is active. -/
def moveLane (f : ExtForm) (s : State) : Out :=
  let ty := typeOf f 5
  let u := { use2 (wordsOfTy ty) (wordsOfTy ty) 1 with d := some { cls := clsV, words := wordsOfTy ty } }
  s.instr f u (fun act s =>
    let k := s.opB f 5 (low act) % 32
    (s.writeDest (act &&& Lanes.ofList [k]) (rangeFrom f.d.toNat (wordsOfTy ty)) (fun i => s.opA f ty i)).advance)

def execMovs (f : BaseForm) (s : State) : Out := moveLane (f.toExt 5 2) s

def execMovsX (f : ExtForm) (s : State) : Out := moveLane f s

/-- `bcast` (R122): lane k's element, be it active or not. -/
def broadcastLane (f : ExtForm) (s : State) : Out :=
  let ty := typeOf f 5
  s.compute f (use2 (wordsOfTy ty) (wordsOfTy ty) 1) (wordsOfTy ty)
    (fun s act _ => s.opA f ty (s.opB f 5 (low act) % 32))

def execBcast (f : BaseForm) (s : State) : Out := broadcastLane (f.toExt 5 3) s

def execBcastX (f : ExtForm) (s : State) : Out := broadcastLane f s

/-- `movp` (R122). -/
def execMovp (f : ExtForm) (s : State) : Out :=
  s.instr f { d := some { cls := 4 }, a := some { cls := clsS + clsP + clsM + clsC } } (fun act s =>
    let m := BitVec.ofNat 32 (s.opA f 5 (low act))
    let c := s.sched.cur
    if bitOf f.mods.toNat 7 then (s.modGroup c.grp (fun g => g.setPred g.issuedNow c.lanes f.d.toNat m)).advance
    else (s.writeTruth act f.d.toNat (fun i => m.getLsbD i)).advance)

/-! ### Bytes and addresses (R123) -/

/-- One result byte of `perm`. -/
def permByte (x sel j : Nat) : Nat :=
  let n := bits sel (4 * j) 4
  let y := bits x (8 * (n % 8)) 8
  if n < 8 then y else if bitOf y 7 then 255 else 0

/-- `perm` on numbers. -/
def permOf (a b c : Nat) : Nat :=
  let x := b % 2 ^ 32 * 2 ^ 32 + a % 2 ^ 32
  permByte x c 0 + permByte x c 1 * 2 ^ 8 + permByte x c 2 * 2 ^ 16 + permByte x c 3 * 2 ^ 24

/-- `perm` (R123). -/
def execPerm (f : ExtForm) (s : State) : Out := s.ternary f 5 permOf

/-- `lea` on numbers. -/
def leaOf (ty sh a b : Nat) : Nat :=
  (a + (if ty = 3 then sextTo 32 64 b else b % 2 ^ 32) * 2 ^ sh) % 2 ^ widthOf ty

/-- `lea` (R123). -/
def loadAddress (f : ExtForm) (s : State) : Out := s.shift f (typeOf f 2) (leaOf (typeOf f 2) (bits f.mods.toNat 0 3))

def execLea (f : BaseForm) (s : State) : Out := loadAddress (f.toExt 12 1) s

def execLeaX (f : ExtForm) (s : State) : Out := loadAddress f s

end Sys2Proof.Machine
end

