-- ==== Sys2Proof/Machine/Control.lean ====
section
/-! DEFINITION. Control flow: branches, join masks, `exit`, `nop` and `yield`: majors 0x10 to 0x12 (R145 to R156). The settling of
join masks at the end of a cycle (R151) is here too. -/

namespace Sys2Proof.Machine

open Sys2Proof

/-! ### Branches (R145, R146) -/

/-- The present lanes branch: each to its target, and each must find a header there (R90). -/
def State.branch (s : State) (target : Nat → Nat) : State :=
  let c := s.sched.cur
  s.modGroup c.grp (fun g =>
    let g := (g.placeAt c.lanes target c.hdr).counted
    { g with need := g.need ||| c.lanes })

/-- Where an active lane goes, and where the others go. -/
def branchTo (active : Lanes) (npc : Nat) (t : Nat → Nat) (i : Nat) : Nat := if active.getLsbD i then t i else npc

/-- A displacement operand (R145). -/
def dispWant : Option Want := some { cls := clsS + clsC }

/-- An address pair operand. -/
def targetWant : Option Want := some { cls := clsV + clsS, words := 2 }

/-- `bra` and `call`, the latter with a destination (R146). -/
def branchBy (link : Bool) (f : ExtForm) (s : State) : Out :=
  let disp := fun (act : Lanes) (s : State) => signed 32 (s.opB f 1 (low act))
  s.checked f { d := if link then targetWant else none, b := dispWant }
    (fun act s => if disp act s % 4 = 0 then [] else causeAll act Cause.misaligned)
    (fun act s =>
      let c := s.sched.cur
      let s1 := if link then s.writeDest act (rangeFrom f.d.toNat 2) (fun _ => c.npc % 2 ^ 57) else s
      s1.branch (branchTo act c.npc (fun _ => wrap 57 ((c.pc : Int) + disp act s))))

/-- Cause of an indirect target (R146); 0 for none. -/
def targetCause (t : Nat) : Nat := if t % 4 ≠ 0 then Cause.misaligned else if 2 ^ 57 ≤ t then Cause.notPresent else 0

/-- `brx` and `ret` (R146): any lane's cause stops them all. -/
def branchIndirect (f : ExtForm) (s : State) : Out :=
  s.checked f { a := targetWant } (fun act s => laneCauses act (fun i => targetCause (s.opA f 4 i)))
    (fun act s => s.branch (branchTo act s.sched.cur.npc (fun i => s.opA f 4 i)))

def execBra (f : BaseForm) (s : State) : Out := branchBy false (f.toExt 16 0) s

def execBraX (f : ExtForm) (s : State) : Out := branchBy false f s

def execBrx (f : BaseForm) (s : State) : Out := branchIndirect (f.toExt 16 1) s

def execBrxX (f : ExtForm) (s : State) : Out := branchIndirect f s

def execCall (f : BaseForm) (s : State) : Out := branchBy true (f.toExt 16 2) s

def execCallX (f : ExtForm) (s : State) : Out := branchBy true f s

def execRet (f : BaseForm) (s : State) : Out := branchIndirect (f.toExt 16 3) s

def execRetX (f : ExtForm) (s : State) : Out := branchIndirect f s

/-! ### Join masks (R147 to R152) -/

/-- A join-mask operand. -/
def maskWant : Option Want := some { cls := clsM }

/-- A predicate destination of R148. -/
def predDst : Option Want := some { cls := clsP }

/-- Number of the join mask a name stands for. -/
def maskNo (n : BitVec 11) : Nat := n.toNat - 1672

/-- Change one join mask of the group in hand. -/
def State.modJoin (s : State) (k : Nat) (x : JoinMask → JoinMask) : State :=
  s.modGroup s.sched.cur.grp (fun g => g.putJoin k (x (g.join k)))

/-- `join` (R149). -/
def execJoin (f : ExtForm) (s : State) : Out :=
  s.instr f { d := maskWant } (fun act s =>
    (s.modJoin (maskNo f.d) (fun j => { j with members := j.members ||| act })).advance)

/-- `leave` (R149). -/
def execLeave (f : ExtForm) (s : State) : Out :=
  s.instr f { d := maskWant } (fun act s =>
    (s.modJoin (maskNo f.d) (fun j => { j with members := j.members &&& ~~~act })).advance)

/-- The active lanes park, and the others pass on (R150). -/
def State.park (s : State) (k : Nat) (act : Lanes) (p : Parked) : State :=
  let c := s.sched.cur
  let s := s.modJoin k (fun j => { j with site := some c.pc, parked := j.parked ||| act, paths := j.paths ++ [p] })
  s.modGroup c.grp (fun g => ((g.place act c.pc c.hdr).place (c.lanes &&& ~~~act) c.npc c.hdr).counted)

/-- `mwait` (R150), bounded or not: it waits while the mask is held at another site. -/
def mwaitBy (bounded : Bool) (f : ExtForm) (s : State) : Out :=
  s.instr f { d := if bounded then predDst else none, a := maskWant, b := if bounded then dispWant else none } (fun act s =>
    let c := s.sched.cur
    let k := maskNo f.a
    let site := (s.me.join k).site
    if site.isSome && site != some c.pc then s
    else
      s.park k act { lanes := act, pd := f.d.toNat, bounded := bounded, npc := c.npc
                     deadline := if bounded then s.cycle s.myCore + s.opB f 2 (low act) else 0 })

def execMwait (f : ExtForm) (s : State) : Out := mwaitBy false f s

def execMwaitBounded (f : ExtForm) (s : State) : Out := mwaitBy true f s

/-- `elect` (R152). -/
def execElect (f : ExtForm) (s : State) : Out :=
  s.instr f { d := predDst, a := maskWant } (fun act s =>
    let one := ((s.me.join (maskNo f.a)).members &&& act).lowest
    (s.writeTruth act f.d.toNat (fun i => one = some i)).advance)

/-- `mset` (R149): bits of lanes that have exited are cleared. -/
def execMset (f : ExtForm) (s : State) : Out :=
  s.instr f { d := maskWant, b := some { cls := clsS + clsP + clsM + clsC } } (fun act s =>
    let x := BitVec.ofNat 32 (s.opB f 5 (low act)) &&& s.me.live
    (s.modJoin (maskNo f.d) (fun j => { j with members := x })).advance)

/-- `mget` (R149). -/
def execMget (f : ExtForm) (s : State) : Out :=
  s.instr f { d := some { cls := clsV + clsS }, a := maskWant, b := dispWant } (fun act s =>
    let j := s.me.join (maskNo f.a)
    let x := if s.opB f 5 (low act) % 2 = 0 then j.members else j.parked
    (s.writeDest act [f.d.toNat] (fun _ => x.toNat)).advance)

/-! ### Settling (R151) -/

/-- The lanes of a parked path go on; a bounded one's predicate bits say why. -/
def Group.release (g : Group) (p : Parked) (done : Bool) : Group :=
  let g := p.lanes.toList.foldl (fun g i => { g with pcs := Sparse.set 0 g.pcs i p.npc }) g
  if p.bounded then g.writeReg none p.pd p.lanes (fun _ => done.toNat) else g

/-- `settle` (R151): completion before expiry. -/
def Group.settle (g : Group) (k now : Nat) : Group :=
  let j := g.join k
  if j.site.isSome && Lanes.sub (j.members &&& g.live) j.parked then
    let g := j.paths.foldl (fun g p => g.release p true) g
    g.putJoin k { j with parked := 0, site := none, paths := [] }
  else
    let out := j.paths.filter (fun p => p.bounded && p.deadline = now)
    let g := out.foldl (fun g p => g.release p false) g
    let parked := out.foldl (fun m p => m &&& ~~~p.lanes) j.parked
    g.putJoin k { j with parked := parked, site := if parked = 0#32 then none else j.site
                         paths := j.paths.filter (fun p => !(p.bounded && p.deadline = now)) }

/-- Every mask of a running group settles. -/
def Group.settleAll (g : Group) (now : Nat) : Group :=
  (rangeFrom 0 12).foldl (fun g k => g.settle k now) g

/-- The group issues nothing more in this cycle: its quadrant's slot is taken, and so are the entries selected with it. -/
def issuedOut (s : State) (grp : Nat) : Bool :=
  decide ((s.group grp).quad ∈ (s.core (coreOfGrp s grp)).served) && (s.group grp).picks.isEmpty

/-- MWAIT_DEADLINE (R151): one mask settles at the end of the present cycle, once the group's quadrant has issued in it. -/
def execMwaitDeadline (grp mask : Nat) (s : State) : Out :=
  let g := s.group grp
  if (g.mode = .running || g.mode = .handler) && mask < 12 && issuedOut s grp then
    .next (s.modGroup grp (fun g => g.settle mask (s.cycle (coreOfGrp s grp))))
  else .next s

/-! ### Exit, nop and yield (R154) -/

/-- `exit` (R154): the active lanes leave the frontier; with the last one the group leaves as soon as nothing outstanding writes a
register of it. -/
def exitGroup (f : ExtForm) (s : State) : Out :=
  s.instr f {} (fun act s =>
    let c := s.sched.cur
    groupExit (s.modGroup c.grp (fun g => ((g.place c.lanes c.npc c.hdr).exitLanes act).counted)) c.grp)

def execExit (f : BaseForm) (s : State) : Out := exitGroup (f.toExt 18 0) s

def execExitX (f : ExtForm) (s : State) : Out := exitGroup f s

/-- `nop` (R154). -/
def passOn (f : ExtForm) (s : State) : Out := s.instr f {} (fun _ s => s.advance)

def execNop (f : BaseForm) (s : State) : Out := passOn (f.toExt 18 1) s

def execNopX (f : ExtForm) (s : State) : Out := passOn f s

/-- `yield` (R154): the swap with a pending group is made at the end of the cycle. -/
def yieldSlot (f : ExtForm) (s : State) : Out :=
  s.instr f {} (fun _ s => (s.modGroup s.sched.cur.grp (fun g => { g with yielded := true })).advance)

def execYield (f : BaseForm) (s : State) : Out := yieldSlot (f.toExt 18 2) s

def execYieldX (f : ExtForm) (s : State) : Out := yieldSlot f s

end Sys2Proof.Machine
end

