-- ==== Sys2Proof/Machine/FloatOps.lean ====
section
/-! DEFINITION. Floating-point and conversion instructions: majors 0x06 to 0x0B (R125 to R137). -/

namespace Sys2Proof.Machine

open Sys2Proof

/-! ### Shapes -/

/-- Floating and integer sources of R125. -/
def fpSrc (words : Nat) : Option Want := some { cls := clsV + clsS + clsC, words := words }

/-- Destinations of R125 other than those of compares. -/
def fpDst (words : Nat) : Option Want := some { cls := clsV + clsS, words := words }

/-- Rounding mode [23:22]. -/
def roundMod (f : ExtForm) : Nat := bits f.mods.toNat 0 2

/-- A unary instruction. -/
def State.fpUnary (s : State) (f : ExtForm) (ty : Nat) (x : Nat → Nat) : Out :=
  s.compute f { d := fpDst (wordsOfTy ty), a := fpSrc (wordsOfTy ty) } (wordsOfTy ty) (fun s _ i => x (s.opA f ty i))

/-- A binary instruction. -/
def State.fpBinary (s : State) (f : ExtForm) (ty : Nat) (x : Nat → Nat → Nat) : Out :=
  let n := wordsOfTy ty
  s.compute f { d := fpDst n, a := fpSrc n, b := fpSrc n } n (fun s _ i => x (s.opA f ty i) (s.opB f ty i))

/-- A ternary instruction. -/
def State.fpTernary (s : State) (f : ExtForm) (ty : Nat) (x : Nat → Nat → Nat → Nat) : Out :=
  let n := wordsOfTy ty
  s.compute f { d := fpDst n, a := fpSrc n, b := fpSrc n, c := fpSrc n } n
    (fun s _ i => x (s.opA f ty i) (s.opB f ty i) (s.opC f ty i))

/-- Both elements of a packed operation (R128). -/
def packed2 (x : Nat → Nat → Nat) (a b : Nat) : Nat :=
  x (bits a 0 16) (bits b 0 16) + x (bits a 16 16) (bits b 16 16) * 2 ^ 16

/-- Both elements of a packed fused operation. -/
def packed3 (x : Nat → Nat → Nat → Nat) (a b c : Nat) : Nat :=
  x (bits a 0 16) (bits b 0 16) (bits c 0 16) + x (bits a 16 16) (bits b 16 16) (bits c 16 16) * 2 ^ 16

/-- Format of a packed instruction (R127). -/
def packedFmt (f : ExtForm) : Fmt := if typeOf f 8 = 9 then .f16 else .bf16

/-! ### Arithmetic (R128) -/

/-- `fadd` (R128). -/
def floatAdd (f : ExtForm) (s : State) : Out :=
  s.fpBinary f 6 (fpAdd .f32 (roundMod f) (satMod f))

/-- `fmul` (R128). -/
def floatMul (f : ExtForm) (s : State) : Out :=
  s.fpBinary f 6 (fpMul .f32 (roundMod f) (satMod f))

/-- `fmin` (R128). -/
def floatMin (f : ExtForm) (s : State) : Out :=
  s.fpBinary f 6 (fpMin .f32)

def execFadd (f : BaseForm) (s : State) : Out := floatAdd (f.toExt 6 0) s

def execFaddX (f : ExtForm) (s : State) : Out := floatAdd f s

def execFmul (f : BaseForm) (s : State) : Out := floatMul (f.toExt 6 1) s

def execFmulX (f : ExtForm) (s : State) : Out := floatMul f s

/-- `ffma` (R128). -/
def execFfma (f : ExtForm) (s : State) : Out :=
  s.fpTernary f 6 (fpFma .f32 (roundMod f) (satMod f))

def execFmin (f : BaseForm) (s : State) : Out := floatMin (f.toExt 6 3) s

def execFminX (f : ExtForm) (s : State) : Out := floatMin f s

/-- `fmax` (R128). -/
def execFmax (f : ExtForm) (s : State) : Out :=
  s.fpBinary f 6 (fpMax .f32)

/-- `fsub` (R128). -/
def execFsub (f : ExtForm) (s : State) : Out :=
  s.fpBinary f 6 (fpSub .f32 (roundMod f) (satMod f))

/-- `hadd2` (R128). -/
def packedAdd (f : ExtForm) (s : State) : Out :=
  s.fpBinary f (typeOf f 8) (packed2 (fpAdd (packedFmt f) (roundMod f) (satMod f)))

/-- `hmul2` (R128). -/
def packedMul (f : ExtForm) (s : State) : Out :=
  s.fpBinary f (typeOf f 8) (packed2 (fpMul (packedFmt f) (roundMod f) (satMod f)))

/-- `hmin2` (R128). -/
def packedMin (f : ExtForm) (s : State) : Out :=
  s.fpBinary f (typeOf f 8) (packed2 (fpMin (packedFmt f)))

def execHadd2 (f : BaseForm) (s : State) : Out := packedAdd (f.toExt 9 0) s

def execHadd2X (f : ExtForm) (s : State) : Out := packedAdd f s

def execHmul2 (f : BaseForm) (s : State) : Out := packedMul (f.toExt 9 1) s

def execHmul2X (f : ExtForm) (s : State) : Out := packedMul f s

/-- `hfma2` (R128). -/
def execHfma2 (f : ExtForm) (s : State) : Out :=
  s.fpTernary f (typeOf f 8) (packed3 (fpFma (packedFmt f) (roundMod f) (satMod f)))

def execHmin2 (f : BaseForm) (s : State) : Out := packedMin (f.toExt 9 3) s

def execHmin2X (f : ExtForm) (s : State) : Out := packedMin f s

/-- `hmax2` (R128). -/
def execHmax2 (f : ExtForm) (s : State) : Out :=
  s.fpBinary f (typeOf f 8) (packed2 (fpMax (packedFmt f)))

/-- `dadd` (R128). -/
def doubleAdd (f : ExtForm) (s : State) : Out :=
  s.fpBinary f 7 (fpAdd .f64 (roundMod f) (satMod f))

/-- `dmul` (R128). -/
def doubleMul (f : ExtForm) (s : State) : Out :=
  s.fpBinary f 7 (fpMul .f64 (roundMod f) (satMod f))

def execDadd (f : BaseForm) (s : State) : Out := doubleAdd (f.toExt 10 0) s

def execDaddX (f : ExtForm) (s : State) : Out := doubleAdd f s

def execDmul (f : BaseForm) (s : State) : Out := doubleMul (f.toExt 10 1) s

def execDmulX (f : ExtForm) (s : State) : Out := doubleMul f s

/-- `dfma` (R128). -/
def execDfma (f : ExtForm) (s : State) : Out :=
  s.fpTernary f 7 (fpFma .f64 (roundMod f) (satMod f))

/-- `dmin` (R128). -/
def execDmin (f : ExtForm) (s : State) : Out :=
  s.fpBinary f 7 (fpMin .f64)

/-- `dmax` (R128). -/
def execDmax (f : ExtForm) (s : State) : Out :=
  s.fpBinary f 7 (fpMax .f64)

/-! ### Compare and classify (R129, R130) -/

/-- A compare of a format, with its combiner (R129): no combiner, no C. -/
def floatCompare (t : Fmt) (ty : Nat) (f : ExtForm) (s : State) : Out :=
  let n := wordsOfTy ty
  let op := bits f.mods.toNat 3 2
  s.test f { d := dstWant 1, a := fpSrc n, b := fpSrc n, c := if op = 0 then none else predWant } (fun s _ i =>
    let y := fpCond t (bits f.mods.toNat 0 3) (s.opA f ty i) (s.opB f ty i)
    if op = 0 then y else combine (op - 1) y (s.predBit f.c i))

def execFcmp (f : BaseForm) (s : State) : Out := floatCompare .f32 6 (f.toExt 7 0) s

def execFcmpX (f : ExtForm) (s : State) : Out := floatCompare .f32 6 f s

def execDcmp (f : BaseForm) (s : State) : Out := floatCompare .f64 7 (f.toExt 10 3) s

def execDcmpX (f : ExtForm) (s : State) : Out := floatCompare .f64 7 f s

/-- `fclass` (R130). -/
def execFclass (f : ExtForm) (s : State) : Out :=
  let ty := typeOf f 6
  s.test f { d := dstWant 1, a := fpSrc (wordsOfTy ty), b := fpSrc 1 } (fun s _ i =>
    bitOf (s.opB f 5 i) (fpClass (if ty = 7 then .f64 else .f32) (s.opA f ty i)))

/-! ### Special functions (R131): flag operations -/

/-- A special function issues; its result lands later (R126). -/
def specialIssue (k : Nat) (f : ExtForm) (s : State) : Out :=
  s.instr f { d := fpDst 1, a := fpSrc 1 } (fun act s =>
    s.issueFlag f { kind := .special, dests := [f.d.toNat], active := act
                    vals := act.toList.map (fun i => (i, specialFn k (roundMod f) (s.opA f 6 i))) })

def execFrcp (f : BaseForm) (s : State) : Out := specialIssue 0 (f.toExt 8 0) s

def execFrcpX (f : ExtForm) (s : State) : Out := specialIssue 0 f s

def execFrsq (f : BaseForm) (s : State) : Out := specialIssue 1 (f.toExt 8 1) s

def execFrsqX (f : ExtForm) (s : State) : Out := specialIssue 1 f s

def execFsqrt (f : BaseForm) (s : State) : Out := specialIssue 2 (f.toExt 8 2) s

def execFsqrtX (f : ExtForm) (s : State) : Out := specialIssue 2 f s

def execFexp2 (f : BaseForm) (s : State) : Out := specialIssue 3 (f.toExt 8 3) s

def execFexp2X (f : ExtForm) (s : State) : Out := specialIssue 3 f s

def execFlog2 (f : ExtForm) (s : State) : Out := specialIssue 4 f s

def execFsin (f : ExtForm) (s : State) : Out := specialIssue 5 f s

def execFcos (f : ExtForm) (s : State) : Out := specialIssue 6 f s

def execFtanh (f : ExtForm) (s : State) : Out := specialIssue 7 f s

/-- SPECIAL_FUNCTION_LAND (R126, R165): the result is written and the flag counts one less. -/
def execSpecialFunctionLand (op : Nat) (s : State) : Out :=
  if s.hasOp op && (s.op op).kind = .special then .next (flagDone s op) else .next s

/-! ### Conversions (R132 to R136) -/

/-- Source type of `cvt`: [29:26], 0 for `.s32` (R127). -/
def cvtSource (f : ExtForm) : Nat := let t := bits f.mods.toNat 4 4; if t = 0 then 1 else t

/-- `cvt` on numbers (R132). -/
def cvtOf (dt st rm : Nat) (sat : Bool) (x : Nat) : Nat :=
  match fmtOf dt, fmtOf st with
  | some d, some t => roundTo (t.value x) d rm sat
  | some d, none => roundTo (.ofInt (asInt st x) 0) d rm sat
  | none, some t => toIntType (t.value x) (isSignedTy dt) (widthOf dt) rm
  | none, none => intResult dt sat (asInt st x)

/-- `cvt` (R132). -/
def convert (f : ExtForm) (s : State) : Out :=
  let dt := typeOf f 6
  let st := cvtSource f
  s.compute f { d := fpDst (wordsOfTy dt), a := fpSrc (wordsOfTy st) } (wordsOfTy dt)
    (fun s _ i => cvtOf dt st (roundMod f) (satMod f) (s.opA f st i))

def execCvt (f : BaseForm) (s : State) : Out := convert (f.toExt 11 0) s

def execCvtX (f : ExtForm) (s : State) : Out := convert f s

/-- `frnd` (R133). -/
def roundIntegral (f : ExtForm) (s : State) : Out :=
  let ty := typeOf f 6
  s.fpUnary f ty (fpRint (if ty = 7 then .f64 else .f32) (roundMod f))

def execFrnd (f : BaseForm) (s : State) : Out := roundIntegral (f.toExt 11 3) s

def execFrndX (f : ExtForm) (s : State) : Out := roundIntegral f s

/-- `.scl` of `cpack` and `cunpk`; the element width in the integer forms. -/
def sclMod (f : ExtForm) : Bool := bitOf f.mods.toNat 3

/-- Integer form of `cpack` and `cunpk` (R136). -/
def packInteger (f : ExtForm) : Bool := typeOf f 8 ≤ 2

/-- Element width of a `cpack` or `cunpk` (R134, R136). -/
def packWidth (f : ExtForm) : Nat :=
  if packInteger f then (if sclMod f then 4 else 8) else ((fmtOf (typeOf f 8)).getD .bf16).width

/-- One element of `cpack`: `k` is the scale byte. An unsigned form reads its sources as the pseudocode of R136 does, as `.n32`; a word whose
top bit is set then saturates upward, though the prose there speaks of a negative source (log 81, the model's choice). -/
def packElement (f : ExtForm) (k x : Nat) : Nat :=
  if packInteger f then
    let y := asInt (typeOf f 8) x
    if satMod f then satInt (typeOf f 8 = 1) (packWidth f) y else wrap (packWidth f) y
  else
    let y := match e8m0 k with
      | none => XVal.nan
      | some e => (Fmt.f32.value x).scale (-e)
    roundTo y ((fmtOf (typeOf f 8)).getD .bf16) (roundMod f) (satMod f)

/-- Both elements inserted into the destination word (R134). -/
def cpackOf (f : ExtForm) (d a b k : Nat) : Nat :=
  let w := packWidth f
  let p := 2 * w * bits f.mods.toNat 4 2
  setBits (setBits (if w = 16 then 0 else d) p w (packElement f k a)) (p + w) w (packElement f k b)

/-- `cpack` (R134, R136). -/
def pack (f : ExtForm) (s : State) : Out :=
  let ty := if packInteger f then typeOf f 8 else 6
  let scl := sclMod f && !packInteger f
  s.compute f { d := fpDst 1, a := fpSrc 1, b := fpSrc 1, c := if scl then fpSrc 1 else none, dRead := packWidth f != 16 } 1
    (fun s _ i => cpackOf f (s.opD f 5 i) (s.opA f ty i) (s.opB f ty i) (if scl then s.opC f 5 i % 256 else 127))

def execCpack (f : BaseForm) (s : State) : Out := pack (f.toExt 11 1) s

def execCpackX (f : ExtForm) (s : State) : Out := pack f s

/-- `cunpk` on numbers (R135, R136): element `j mod n`, exactly where there is no scale. -/
def cunpkOf (f : ExtForm) (a b : Nat) (scale : Option Nat) : Nat :=
  let w := packWidth f
  let n := if w = 6 then 4 else 32 / w
  let e := bits a (w * (b % 8 % n)) w
  if packInteger f then (if typeOf f 8 = 1 then sextTo w 32 e else e)
  else
    let x := ((fmtOf (typeOf f 8)).getD .bf16).value e
    match scale with
    | none => roundTo x .f32 0 false
    | some k => roundTo (x.mx k) .f32 (roundMod f) (satMod f)

/-- `cunpk` (R135, R136). Source A is a word of packed elements in the floating forms as in the integer ones, so an inline constant stands for
its `.b32` value: R135 names no type (log 81, the model's choice). -/
def unpack (f : ExtForm) (s : State) : Out :=
  let scl := sclMod f && !packInteger f
  s.compute f { d := fpDst 1, a := fpSrc 1, b := fpSrc 1, c := if scl then fpSrc 1 else none } 1
    (fun s _ i => cunpkOf f (s.opA f 5 i) (s.opB f 5 i) (if scl then some (s.opC f 5 i % 256) else none))

def execCunpk (f : BaseForm) (s : State) : Out := unpack (f.toExt 11 2) s

def execCunpkX (f : ExtForm) (s : State) : Out := unpack f s

end Sys2Proof.Machine
end

