-- ==== Sys2Proof/Machine/Exchange.lean ====
section
/-! DEFINITION. Lane exchange, votes, group reductions and scans: majors 0x0D to 0x0F (R157 to R164). -/

namespace Sys2Proof.Machine

open Sys2Proof

/-! ### Shuffles (R159, R160) -/

/-- The lane a shuffle of kind `k` reads for lane `i` in segments of `w`, with operand `x`; none outside the segment. -/
def shuffleFrom (k w i x : Nat) : Option Nat :=
  let base := i - i % w
  match k with
  | 0 => some (base + x % 32 % w)
  | 1 => if x < w && base + x ≤ i then some (i - x) else none
  | 2 => if x < w && i + x < base + w then some (i + x) else none
  | _ => if x % 32 < w then some (i ^^^ (x % 32)) else none

/-- What lane `i` receives: its own A where the source is outside the segment or not present. -/
def shuffleVal (k w : Nat) (present : Lanes) (a : Nat → Nat) (i x : Nat) : Nat :=
  match shuffleFrom k w i x with
  | some j => if present.getLsbD j then a j else a i
  | none => a i

/-- A shuffle issues: every source is read now, the result lands later. -/
def shuffleIssue (k : Nat) (f : ExtForm) (s : State) : Out :=
  let ty := typeOf f 5
  let v : Option Want := some { cls := clsV, words := wordsOfTy ty }
  s.instr f { d := v, a := v, b := some { cls := clsV + clsS + clsC } } (fun act s =>
    let w := 32 / 2 ^ bits f.mods.toNat 0 3
    s.issueFlag f { kind := .shuffle, dests := rangeFrom f.d.toNat (wordsOfTy ty), active := act
                    x := s.sched.cur.lanes.toNat
                    vals := act.toList.map (fun i =>
                      (i, shuffleVal k w s.sched.cur.lanes (s.opA f ty) i (s.opB f 2 i))) })

def execShf (f : BaseForm) (s : State) : Out := shuffleIssue 0 (f.toExt 13 0) s

def execShfX (f : ExtForm) (s : State) : Out := shuffleIssue 0 f s

def execShfup (f : BaseForm) (s : State) : Out := shuffleIssue 1 (f.toExt 13 1) s

def execShfupX (f : ExtForm) (s : State) : Out := shuffleIssue 1 f s

def execShfdn (f : BaseForm) (s : State) : Out := shuffleIssue 2 (f.toExt 13 2) s

def execShfdnX (f : ExtForm) (s : State) : Out := shuffleIssue 2 f s

def execShfx (f : BaseForm) (s : State) : Out := shuffleIssue 3 (f.toExt 13 3) s

def execShfxX (f : ExtForm) (s : State) : Out := shuffleIssue 3 f s

/-- An older shuffle of the same path has not landed (R160): of one path are any two whose lanes overlap (log 88, the model's choice). -/
def olderShuffle (s : State) (op : Nat) : Bool :=
  let o := s.op op
  s.ops.any (fun (p : Nat × Op) => p.1 < op && p.2.kind = .shuffle && p.2.grp = o.grp && p.2.x &&& o.x != 0)

/-- SHUFFLE_LAND (R159, R160): shuffles of a path land in issue order. -/
def execShuffleLand (op : Nat) (s : State) : Out :=
  if s.hasOp op && (s.op op).kind = .shuffle && !olderShuffle s op then .next (flagDone s op) else .next s

/-! ### Votes (R161) -/

/-- `t(i)` of a vote. -/
def voteBit (s : State) (f : ExtForm) (i : Nat) : Bool :=
  let n := f.a.toNat
  if 1664 ≤ n && n < 1684 then bitOf (s.opA f 5 i) i else s.opA f 5 i != 0

/-- A vote with one truth value for all. -/
def voteTruth (f : ExtForm) (s : State) (y : State → Lanes → Bool) : Out :=
  s.test f { d := dstWant 1, a := srcWant 1 } (fun s act _ => y s act)

/-- `vall`. -/
def voteAll (f : ExtForm) (s : State) : Out := voteTruth f s (fun s act => act.toList.all (voteBit s f))

/-- `vany`. -/
def voteAny (f : ExtForm) (s : State) : Out := voteTruth f s (fun s act => act.toList.any (voteBit s f))

/-- `vbal`. -/
def ballot (f : ExtForm) (s : State) : Out :=
  s.compute f { d := fpDst 1, a := srcWant 1 } 1 (fun s act _ => (Lanes.ofFn (fun j => act.getLsbD j && voteBit s f j)).toNat)

/-- `vmatch`. -/
def matchLanes (f : ExtForm) (s : State) : Out :=
  let ty := typeOf f 5
  s.compute f { d := fpDst 1, a := fpSrc (wordsOfTy ty) } 1
    (fun s act i => (Lanes.ofFn (fun j => act.getLsbD j && s.opA f ty j = s.opA f ty i)).toNat)

def execVall (f : BaseForm) (s : State) : Out := voteAll (f.toExt 14 0) s

def execVallX (f : ExtForm) (s : State) : Out := voteAll f s

def execVany (f : BaseForm) (s : State) : Out := voteAny (f.toExt 14 1) s

def execVanyX (f : ExtForm) (s : State) : Out := voteAny f s

def execVbal (f : BaseForm) (s : State) : Out := ballot (f.toExt 14 2) s

def execVbalX (f : ExtForm) (s : State) : Out := ballot f s

def execVmatch (f : BaseForm) (s : State) : Out := matchLanes (f.toExt 14 3) s

def execVmatchX (f : ExtForm) (s : State) : Out := matchLanes f s

/-- `vuni`. -/
def execVuni (f : ExtForm) (s : State) : Out :=
  let ty := typeOf f 5
  s.test f { d := dstWant 1, a := fpSrc (wordsOfTy ty) }
    (fun s act _ => act.toList.all (fun i => s.opA f ty i = s.opA f ty (low act)))

/-! ### Reductions and scans (R162, R163) -/

/-- The floating format of a reduction's type, none for integers. -/
def redFmt (ty : Nat) : Option Fmt := match ty with
  | 6 => some .f32
  | 7 => some .f64
  | _ => none

/-- A magnitude: the sign bit cleared. -/
def magOf (t : Fmt) (x : Nat) : Nat := x % 2 ^ (t.width - 1)

/-- `combine` of two values (R162). -/
def redCombine (op ty rm a b : Nat) : Nat :=
  match redFmt ty, op with
  | some t, 0 => fpAdd t rm false a b
  | some t, 1 => fpMin t a b
  | some t, 2 => fpMax t a b
  | some t, _ => fpMax t a b
  | none, 0 => intResult ty false (asInt ty a + asInt ty b)
  | none, 1 => if asInt ty b < asInt ty a then b else a
  | none, 2 => if asInt ty a < asInt ty b then b else a
  | none, 3 => a &&& b
  | none, 4 => a ||| b
  | none, _ => a ^^^ b

/-- A lane's contribution: `.amax` takes magnitudes. -/
def redInput (op ty x : Nat) : Nat :=
  match redFmt ty with
  | some t => if op = 6 then magOf t x else x
  | none => x

/-- The combined value of a list, left to right. -/
def redList (op ty rm : Nat) : List Nat → Nat
  | [] => 0
  | x :: xs => xs.foldl (redCombine op ty rm) x

/-- The value of `gred` (R162): floating sums in the tree of R78. -/
def reduceLanes (op ty rm : Nat) (act : Lanes) (x : Nat → Nat) : Nat :=
  if op = 0 && (redFmt ty).isSome then
    (treeFold (redCombine 0 ty rm) (laneList.map (fun i => if act.getLsbD i then some (x i) else none))).getD 0
  else redList op ty rm (act.toList.map (fun i => redInput op ty (x i)))

/-- `gred` (R162). -/
def groupReduce (f : ExtForm) (s : State) : Out :=
  let ty := typeOf f 1
  s.compute f { d := fpDst (wordsOfTy ty), a := fpSrc (wordsOfTy ty) } (wordsOfTy ty)
    (fun s act _ => reduceLanes (bits f.mods.toNat 2 3) ty (roundMod f) act (s.opA f ty))

def execGred (f : BaseForm) (s : State) : Out := groupReduce (f.toExt 15 0) s

def execGredX (f : ExtForm) (s : State) : Out := groupReduce f s

/-- Identity of `.excl` (R158). -/
def redIdentity (op ty : Nat) : Nat :=
  match redFmt ty, op with
  | some t, 1 => t.pack false (t.maxMag + 1)
  | some t, 2 => t.pack true (t.maxMag + 1)
  | some _, _ => 0
  | none, 1 => wrap (widthOf ty) (intMax (isSignedTy ty) (widthOf ty))
  | none, 2 => wrap (widthOf ty) (intMin (isSignedTy ty) (widthOf ty))
  | none, 3 => 2 ^ widthOf ty - 1
  | none, _ => 0

/-- The value `gscan` gives lane `i` (R163): of the active lanes up to `i`, or with `.excl` of those below it. -/
def scanLane (op ty rm : Nat) (excl : Bool) (act : Lanes) (x : Nat → Nat) (i : Nat) : Nat :=
  let js := act.toList.filter (fun j => if excl then decide (j < i) else decide (j ≤ i))
  if js.isEmpty then redIdentity op ty else redList op ty rm (js.map (fun j => redInput op ty (x j)))

/-- `gscan` (R163). -/
def groupScan (f : ExtForm) (s : State) : Out :=
  let ty := typeOf f 1
  let m := f.mods.toNat
  s.compute f { d := fpDst (wordsOfTy ty), a := fpSrc (wordsOfTy ty) } (wordsOfTy ty)
    (fun s act i => scanLane (bits m 2 3) ty (roundMod f) (bitOf m 5) act (s.opA f ty) i)

def execGscan (f : BaseForm) (s : State) : Out := groupScan (f.toExt 15 1) s

def execGscanX (f : ExtForm) (s : State) : Out := groupScan f s

end Sys2Proof.Machine
end

