-- ==== Sys2Proof/Machine/Perform.lean ====
section
/-! DEFINITION. Accesses of groups to the scratchpads and to global memory: their shape, their parts, the order in which parts
are performed (R200, R224, R226 to R231), and the performance of one part (R197, R198, R213, R216, R217, R240). -/

namespace Sys2Proof.Machine

open Sys2Proof

/-! ### The shape of an access -/

/-- A form with every field zero. -/
def zeroForm : ExtForm :=
  { short := false, neg := false, guard := 7, ty := 0, d := 0, a := 0, b := 0, c := 0, mods := 0, mask := 0, outv := false
    out := 0, lit := none }

/-- The words the operation was issued with. -/
def Op.form (o : Op) : ExtForm := o.f.getD zeroForm

def Op.mods (o : Op) : Nat := o.form.mods.toNat

/-- Bytes of a load or store of a type and a size code (R196). -/
def loadSize (ty size : Nat) : Nat :=
  match size with
  | 1 => 1
  | 2 => 1
  | 3 => 2
  | 4 => 2
  | 5 => 16
  | _ => if ty = 4 then 8 else 4

/-- A load's result (R196). -/
def extendLoad (size x : Nat) : Nat :=
  match size with
  | 1 => sextTo 8 32 x
  | 3 => sextTo 16 32 x
  | _ => x

/-- `lds`, `ldl`, `ldc`, `ldd`, `ldg` and their stores have index 0 and 1; `cput` and the atomics follow; `put`, `rld`, `ratom` have
0 to 2. -/
def isAtomicOp (major idx : Nat) : Bool :=
  (major = 0x13 && idx = 2) || (major = 0x15 && idx = 3) || (major = 0x17 && 2 ≤ idx) || (major = 0x25 && idx = 2)

def isStoreOp (major idx : Nat) : Bool :=
  if major = 0x25 then idx = 0 else idx = 1 && major != 0x1D || (major = 0x15 && idx = 2)

/-- Bytes of one lane's access. -/
def accessSize (major idx : Nat) (f : ExtForm) : Nat :=
  if major = 0x1D then loadSize (typeOf f 5) 0
  else if isAtomicOp major idx then (if isWide (typeOf f 1) then 8 else 4)
  else loadSize (typeOf f 5) (bits f.mods.toNat 0 3)

def Op.atomic (o : Op) : Bool := isAtomicOp o.major o.idx

def Op.storing (o : Op) : Bool := o.atomic || isStoreOp o.major o.idx

def Op.size (o : Op) : Nat := accessSize o.major o.idx o.form

/-- An access to global memory: `ldg`, `stg`, `atg`, `redg`, `acqr`. -/
def Op.isGlobal (o : Op) : Bool := o.kind = .global || o.kind = .acqr

/-- A kind whose operations are made of parts. -/
def Op.hasParts (o : Op) : Bool :=
  o.kind = .load || o.kind = .atom || o.kind = .posted || o.kind = .dieScratch || o.isGlobal

/-- Store mode `.ga` (R228). -/
def Op.ga (o : Op) : Bool := (o.major = 0x17 || o.major = 0x25) && bitOf o.mods 6

/-- An atomic performed at the home: `.pkg`, `.sys` or `.pod` (R217). -/
def Op.wideAtomic (o : Op) : Bool := o.atomic && o.major = 0x17 && 4 ≤ bits o.mods 3 3

/-- The new value of an atomic (R198, R214). -/
def atomicNew (op ty rm old c cmp : Nat) : Nat :=
  match op with
  | 0 => if ty = 6 then fpAdd .f32 rm false old c else intResult ty false (asInt ty old + asInt ty c)
  | 1 => if ty = 6 then fpMin .f32 old c else if asInt ty c < asInt ty old then c else old
  | 2 => if ty = 6 then fpMax .f32 old c else if asInt ty old < asInt ty c then c else old
  | 3 => old &&& c
  | 4 => old ||| c
  | 5 => old ^^^ c
  | 6 => c
  | _ => if old = cmp then c else old

/-- What the operation makes of a location of lane `i`. -/
def Op.update (o : Op) (i old : Nat) : Nat :=
  let op := if o.major = 0x17 then bits o.mods 0 3 else bits o.mods 2 4
  let rm := if o.major = 0x17 then 0 else bits o.mods 0 2
  let w := 8 * o.size
  atomicNew op (typeOf o.form 1) rm old (Sparse.get 0 o.data i % 2 ^ w) (Sparse.get 0 o.cmp i % 2 ^ w) % 2 ^ w

/-! ### Parts: single-copy atomic units (R200, R212) -/

/-- The access is one unit; otherwise its units are 4-byte words. -/
def oneUnit (a size : Nat) : Bool := size ≤ 8 && a % size = 0

/-- Lanes that access: all the active ones, but for `acqr` the lowest alone (R240). -/
def Op.lanes (o : Op) : List Nat := if o.kind = .acqr then o.active.toList.take 1 else o.active.toList

/-- Part numbers of an operation: 4·lane and the word. -/
def Op.parts (o : Op) : List Nat :=
  o.lanes.flatMap (fun i =>
    if oneUnit (Sparse.get 0 o.addr i) o.size then [4 * i] else (rangeFrom 0 (o.size / 4)).map (fun j => 4 * i + j))

/-- Parts not yet performed; none once the operation has finished. -/
def Op.left (o : Op) : List Nat :=
  if o.hasParts && o.result.isNone then o.parts.filter (fun k => !decide (k ∈ o.performed)) else []

/-- Offset and length of a part in its lane's access. -/
def Op.span (o : Op) (k : Nat) : Nat × Nat :=
  if oneUnit (Sparse.get 0 o.addr (k / 4)) o.size then (0, o.size) else (4 * (k % 4), 4)

/-- Address of a part. -/
def Op.at_ (o : Op) (k : Nat) : Nat := Sparse.get 0 o.addr (k / 4) + (o.span k).1

/-- The team a cluster-shared address names (R193). -/
def clusterTeam (s : State) (team addr : Nat) : Nat :=
  let l := s.launch (launchOfTeam team)
  let n := l.w * l.h
  launchOfTeam team * 2 ^ 28 + gridTeamOf team / n * n + bits addr 20 4

/-- Die of the core an operation was issued on. -/
def Op.die (o : Op) : Nat := dieOf o.core

/-- The location of a part, as a number: one name for every way of reaching the same bytes. -/
def partPlace (s : State) (o : Op) (k : Nat) : Option Nat :=
  let a := o.at_ k
  let die := fun (off : Nat) => dieChamberKey (s.dieKey (launchOfGrp o.grp) o.die off)
  match o.major with
  | 0x13 => some (scrKey (teamOf o.grp) a)
  | 0x14 => some (2 ^ 102 + (32 * o.grp + k / 4) * 2 ^ 16 + a)
  | 0x15 => some (scrKey (clusterTeam s (teamOf o.grp) a) (a % 2 ^ 20))
  | 0x16 => some (die a)
  | _ =>
    match peekPhys s o.core (asidOfGrp s o.grp) a with
    | some p => some (if spaceOf p = 2 then die (p % 2 ^ 48) else p)
    | none => none

/-! ### The package's own pod addresses (R15, R19, R361) -/

/-- Peer and window offset of a space-5 address. -/
def peerOf (pa : Nat) : Nat := bits pa 38 10

def podOffset (pa : Nat) : Nat := bits pa 0 38

/-- Pod line of an address. -/
def podLine (pa : Nat) : Nat := podOffset pa / 128

/-- The address is the package's own (R19). -/
def ownPeer (s : State) (pa : Nat) : Bool := s.fabric.podId = some (peerOf pa)

/-- Physical place and key of a window offset, if its segment allows the access: `perm` is the permission's bit. -/
def exportPlace (s : State) (off size perm : Nat) : Option (Nat × Nat) :=
  let e := Sparse.get 0 s.fabric.exports (off / 2 ^ 32)
  let base := bits e 32 20 * 2 ^ 32
  let pa := base + off % 2 ^ 32
  let inside := if spaceOf pa = 0 then decide (bits pa 0 36 + size ≤ 0x900000000) else decide (bits pa 0 48 + size ≤ 0x6C00000000)
  let key := if bitOf e 53 then 0 else bits e 54 6 + 1
  if bitOf e 63 && bitOf e perm && decide (spaceOf base ≤ 1) && paOk pa && inside && !keyEmpty s key then some (canonical pa, s.keyNum key) else none

/-- The byte of the package's own memory that a window offset names, whatever its segment allows. -/
def loopPlace (s : State) (off : Nat) : Option Nat :=
  let e := Sparse.get 0 s.fabric.exports (off / 2 ^ 32)
  if bitOf e 63 then some (canonical (bits e 32 20 * 2 ^ 32 + off % 2 ^ 32)) else none

/-- Parts of a lane's access (R366): index, address, bytes. -/
def podSplit (va size : Nat) : List (Nat × Nat × Nat) :=
  let b := (va / 128 + 1) * 128
  if va + size ≤ b then [(0, va, size)] else [(0, va, b - va), (1, b, va + size - b)]

/-- Parts of an operation: 2·lane + index, address, bytes. -/
def Op.podParts (o : Op) : List (Nat × Nat × Nat) :=
  o.active.toList.flatMap (fun i => (podSplit (Sparse.get 0 o.addr i) o.size).map (fun p => (2 * i + p.1, p.2)))

/-- The places of an operation of the fabric: its parts, numbered 2·lane + index, and the counter of a put as number 64. -/
def Op.podPlaces (o : Op) : List (Nat × Nat × Nat) := o.podParts ++ (if o.kind = .put && o.y != 0 then [(64, o.y, 8)] else [])

/-- The space-5 address behind one of them, changing nothing. -/
def podPeek (s : State) (o : Op) (va : Nat) : Option Nat :=
  match tlbFind s o.core (asidOfGrp s o.grp) va with
  | some t => if spaceOf (t.rawPhys va) = 5 then some (t.rawPhys va) else none
  | none =>
    match walk s o.core (asidOfGrp s o.grp) va with
    | .ok (t, _) => if spaceOf (t.rawPhys va) = 5 then some (t.rawPhys va) else none
    | .error _ => none

/-- An operation that reaches peers, or loops back. -/
def Op.toPod (o : Op) : Bool := o.kind = .put || o.kind = .rld || o.kind = .ratom

/-- A part of a looped-back operation is not performed: a put that has not started, or whose bytes stand in the buffer (R363, R364); a counter
add, and a remote load or atomic, until the operation has finished. -/
def loopOpen (s : State) (id : Nat) (o : Op) (part pa : Nat) : Bool :=
  if o.kind = .put && part < 64 then
    o.held || (s.core o.core).wc.any (fun e => e.peer = peerOf pa && e.line = podLine pa && decide (id ∈ e.ops))
  else o.result.isNone

/-- An earlier operation of the core that loops back to bytes of the package's own memory is not performed there (R19, R226). -/
def loopsInto (s : State) (id : Nat) (o : Op) (a n : Nat) : Bool :=
  s.fabric.podId.isSome && s.ops.any (fun (p : Nat × Op) => p.1 < id && p.2.core = o.core && p.2.toPod && p.2.result.isNone &&
    p.2.podPlaces.any (fun q => match podPeek s p.2 q.2.1 with
      | some pa => ownPeer s pa && loopOpen s p.1 p.2 q.1 pa && (match loopPlace s (podOffset pa) with
        | some b => decide (b < a + n) && decide (a < b + q.2.2)
        | none => false)
      | none => false))

/-! ### The order of accesses to one location (R200, R224, R226) -/

/-- Two ranges of bytes meet. -/
def meets (a n b m : Nat) : Bool := decide (a < b + m) && decide (b < a + n)

/-- Part `j` of `p` meets the bytes at `a`. -/
def partMeets (s : State) (p : Op) (a n j : Nat) : Bool :=
  match partPlace s p j with
  | some b => meets a n b (p.span j).2
  | none => false

/-- Operations kept in one order where they meet: those of a group (R200, R224), and the global ones of a core, which its path holds in
the order of their issue, on preconditions or not (R226). -/
def sameOrder (o p : Op) : Bool := o.grp = p.grp || (o.isGlobal && p.isGlobal && o.core = p.core)

/-- An earlier `biasset` of the core names the granule of the location (R401). -/
def biasAhead (s : State) (id : Nat) (o : Op) (a : Nat) : Bool :=
  o.isGlobal && isHbm a && s.ops.any (fun (p : Nat × Op) =>
    p.1 < id && p.2.kind = .bias && p.2.core = o.core && p.2.result.isNone && (rangeFrom 0 p.2.y).any (fun k =>
      match peekPhys s p.2.core (asidOfGrp s p.2.grp) (p.2.x + 4096 * k) with
      | some b => isHbm b && granuleOf b = granuleOf a
      | none => false))

/-- An earlier access to the location, or an earlier lane's, is not performed. -/
def olderPart (s : State) (id k : Nat) : Bool :=
  let o := s.op id
  match partPlace s o k with
  | none => false
  | some a => biasAhead s id o a || (o.isGlobal && loopsInto s id o a (o.span k).2) || s.ops.any (fun (p : Nat × Op) =>
      (p.1 < id && sameOrder o p.2 && p.2.left.any (partMeets s p.2 a (o.span k).2)) ||
      (p.1 = id && o.left.any (fun j => decide (j < k) && partMeets s o a (o.span k).2 j)))

/-! ### Scratchpad parts -/

/-- Bytes behind a part of a scratchpad or die-scratchpad access. -/
def levelRead (s : State) (o : Op) (k : Nat) : List Byte :=
  let a := o.at_ k
  let n := (o.span k).2
  match o.major with
  | 0x13 => s.scrRead (teamOf o.grp) a n
  | 0x14 => s.laneRead o.grp (k / 4) a n
  | 0x15 => s.scrRead (clusterTeam s (teamOf o.grp) a) (a % 2 ^ 20) n
  | _ => s.dieRead (launchOfGrp o.grp) o.die a n

def levelWrite (s : State) (o : Op) (k : Nat) (bs : List Byte) : State :=
  let a := o.at_ k
  match o.major with
  | 0x13 => s.scrWrite (teamOf o.grp) a bs
  | 0x14 => s.laneWrite o.grp (k / 4) a bs
  | 0x15 => s.scrWrite (clusterTeam s (teamOf o.grp) a) (a % 2 ^ 20) bs
  | _ => s.dieWrite (launchOfGrp o.grp) o.die a bs

/-- Bytes a part stores; an atomic's from what it read. -/
def Op.storeBytes (o : Op) (k : Nat) (old : List Byte) : List Byte :=
  let sp := o.span k
  if o.atomic then toBytes (o.update (k / 4) (ofBytes old)) sp.2
  else toBytes (Sparse.get 0 o.data (k / 4) / 2 ^ (8 * sp.1)) sp.2

/-- What a part has read becomes part of its lane's value. -/
def Op.keep (o : Op) (k : Nat) (bs : List Byte) : Op :=
  { o with vals := Sparse.insert o.vals (k / 4) (setBits (Sparse.get 0 o.vals (k / 4)) (8 * (o.span k).1) (8 * bs.length) (ofBytes bs)) }

/-- A part is performed. -/
def Op.did (o : Op) (k : Nat) : Op := { o with performed := o.performed ++ [k] }

/-- Its write stands where it is performed for good. -/
def Op.atHome (o : Op) (k : Nat) : Op := { o with homed := o.homed ++ [k] }

/-- Perform a scratchpad part. -/
def levelPart (s : State) (id k : Nat) : State :=
  let o := s.op id
  let old := levelRead s o k
  let s1 := if o.storing then levelWrite s o k (o.storeBytes k old) else s
  s1.modOp id (fun o => ((o.keep k old).did k).atHome k)

/-- A scratchpad part is performed unless an earlier access to its location is not. -/
def performLevel (s : State) (id k : Nat) : State := if olderPart s id k then s else levelPart s id k

/-- Accesses to scratchpad. -/
def Op.isLevel (o : Op) : Bool := o.kind = .load || o.kind = .atom || o.kind = .posted

/-- Parts of a group's scratchpad operations numbered below `upto` that are performed before an access to `n` bytes at `a`: those that
meet it, and those that meet one of them and are earlier. From the latest operation to the earliest: ranges reached, and parts. -/
def partsBefore (s : State) (grp upto a n : Nat) : List (Nat × Nat) :=
  ((s.ops.filter (fun (p : Nat × Op) => p.1 < upto && p.2.grp = grp && p.2.isLevel)).reverse.foldl (fun (acc : List (Nat × Nat) × List (Nat × Nat)) p =>
    p.2.left.reverse.foldl (fun acc k =>
      match partPlace s p.2 k with
      | none => acc
      | some b =>
        if acc.1.any (fun r => meets r.1 r.2 b (p.2.span k).2) then ((b, (p.2.span k).2) :: acc.1, (p.1, k) :: acc.2) else acc) acc)
    ([(a, n)], [])).2

/-- They are performed, the earliest first (R200). -/
def performOlder (s : State) (grp upto a n : Nat) : State :=
  (partsBefore s grp upto a n).foldl (fun s p => levelPart s p.1 p.2) s

/-- Every part of a scratchpad operation is performed, earlier accesses to its locations first (R200). -/
def performLevelAll (s : State) (id : Nat) : State :=
  (s.op id).left.foldl (fun s k =>
    let o := s.op id
    let s1 := match partPlace s o k with
      | some a => performOlder s o.grp id a (o.span k).2
      | none => s
    levelPart s1 id k) s

/-! ### Global parts -/

/-- The leaf behind an address, changing nothing. -/
def peekLeaf (s : State) (core asid va : Nat) : Option TlbEntry :=
  match tlbFind s core asid va with
  | some t => some t
  | none =>
    match walk s core asid va with
    | .ok (t, _) => some t
    | .error _ => none

/-- An access is split at the 4 KiB multiple `b` (R213): a page boundary, or a stripe boundary of space 1. -/
def splitAt (s : State) (core asid va b : Nat) : Bool :=
  match peekLeaf s core asid va with
  | some t => spaceOf t.pa = 1 || decide (t.va + 2 ^ t.size ≤ b)
  | none => b % 65536 = 0

/-- First byte and length of the part of R213 that byte `x` of an access lies in. -/
def splitPart (s : State) (core asid va size x : Nat) : Nat × Nat :=
  let b := (va / 4096 + 1) * 4096
  if va + size ≤ b || !splitAt s core asid va b then (va, size)
  else if x < b then (va, b - va)
  else (b, va + size - b)

/-- A failure among others of one operation: the first cause stays, the lowest lane is named (R219, R220). -/
def Op.noteFail (o : Op) (new : Failure) : Failure :=
  match o.fail with
  | none => new
  | some x => if new.lane < x.lane then { x with lane := new.lane, addr := new.addr } else x

/-- A part fails (R219): its bytes are not transferred (R220). -/
def failPart (s : State) (id k cause : Nat) : State :=
  let o := s.op id
  let lane := k / 4
  let sp := splitPart s o.core (asidOfGrp s o.grp) (Sparse.get 0 o.addr lane) o.size (o.at_ k)
  let mark := lane * 32 + (sp.1 - Sparse.get 0 o.addr lane)
  let new : Failure := { cause := cause, lane := lane, addr := sp.1, write := o.storing }
  s.modOp id (fun o => { (o.did k).atHome k with
    fail := some (o.noteFail new)
    lostBytes := if mark ∈ o.z then o.lostBytes else o.lostBytes + sp.2
    z := if mark ∈ o.z then o.z else o.z ++ [mark] })

/-- Cores of the instance of a scope (R4) that a core lies in, for `acqr`. -/
def inInstance (s : State) (sc core grp other : Nat) : Bool :=
  if 4 ≤ sc then true
  else if dieOf core != dieOf other then false
  else if sc = 3 then true
  else
    let l := s.launch (launchOfGrp grp)
    let t0 := gridTeamOf (teamOf grp) / (l.w * l.h) * (l.w * l.h)
    (rangeFrom 0 (l.w * l.h)).any (fun t => (s.team (launchOfGrp grp * 2 ^ 28 + t0 + t)).core = other)

/-- The stores that the cores of the instance have issued are performed at the scope (R240); the issuer's own core receives the promotion
as `acqr` issues. -/
def promoted (s : State) (id sc : Nat) : Bool :=
  let o := s.op id
  s.ops.all (fun (p : Nat × Op) => !((p.1 < id || p.2.core != o.core) && p.2.storing && p.2.hasParts && inInstance s sc o.core o.grp p.2.core &&
    !p.2.left.isEmpty)) &&
  (decide (sc < 4) || (s.mem.fwd.isEmpty && s.mem.gaPend.isEmpty && s.mem.invals.isEmpty))

/-- The invalidation that a store sends to a die. -/
def Store.inval (st : Store) (die : Nat) : Inval :=
  { line := st.addr / 128, die := die, agent := st.agent, seq := st.seq, launch := st.launch, leaf := st.leaf }

/-- Copies of a line leave every die but one: at once for the issuer, by invalidations for the others (R228). -/
def Memory.recall (m : Memory) (line die : Nat) (st : Store) : Memory :=
  let m1 := m.invalidate line die
  { m1 with invals := m1.invals ++ ((m1.holders line).filter (fun d => d != die)).map st.inval }

/-- A part goes to a cached line, as it translates now. -/
def cachedPart (s : State) (o : Op) (k : Nat) : Bool :=
  match peekLeaf s o.core (asidOfGrp s o.grp) (o.at_ k) with
  | none => false
  | some t => match placeOf s (launchOfGrp o.grp) true t (o.at_ k) (o.span k).2 with
    | .cached _ _ => true
    | _ => false

/-- An earlier store of the core to a cached line has not reached its die's copy: a core's stores arrive there in the order of its path
(R228 to R231, and the first row of R241). -/
def earlierStore (s : State) (id : Nat) : Bool :=
  let o := s.op id
  s.ops.any (fun (p : Nat × Op) => p.1 < id && p.2.kind = .global && p.2.core = o.core && p.2.storing && p.2.left.any (cachedPart s p.2))

/-- Read a cached line at the die's copy, which takes the line in. -/
def readCached (s : State) (die a key n : Nat) : Acc (List Byte) :=
  let line := a / 128
  if lineBusy s die key line then .wait
  else
    match (beforeRead (dropClash s line die key) a n).readBytes (some die) key a n with
    | .error c => .fail c a
    | .ok (bs, s1) => .ok bs (s1.install die key line)

/-- Read at the home: a memory-side line, host bias, or a wide atomic. -/
def readHome (s : State) (a key n : Nat) : Acc (List Byte) :=
  match homeRead s key a n with
  | .error c => .fail c a
  | .ok (bs, s1) => .ok bs s1

/-- Write at the home, by the store numbered `seq`; the copies are the caller's. -/
def writeHome (s : State) (a key seq : Nat) (bs : List Byte) : Acc Unit :=
  let s1 := beforeWrite s a seq bs
  let r := s1.mem.homeWrite key a bs
  match r.2 with
  | some c => .fail c a
  | none => .ok () { s1 with mem := r.1 }

/-- A die's copy holds a sector whole. -/
def Memory.copyHolds (m : Memory) (die sector : Nat) : Bool := bits (m.copy (sector / 4) die).valid (32 * (sector % 4)) 32 = 2 ^ 32 - 1

/-- The sectors of a store that it covers in part may be merged into, in the die's copy or the home's (R221): the cause that stops one. -/
def mergeStop (s : State) (die a key : Nat) (bs : List Byte) : Option Nat :=
  (sectorParts a 200 bs).findSome? (fun p =>
    if p.2.length = 32 || s.mem.copyHolds die (p.1 / 32) then none else s.mem.sectorStop key (p.1 / 32))

/-- Bytes that follow a store of the same instruction are one store with it. -/
def Store.joins (x st : Store) : Bool :=
  { x with addr := st.addr, bytes := st.bytes, va := st.va } == st && x.addr + x.bytes.length = st.addr && x.addr / 128 = st.addr / 128

/-- A store joins those on their way, the last. -/
def addStore (l : List Store) (st : Store) : List Store :=
  match l.getLast? with
  | some x => if st.op = 0 && x.joins st then l.dropLast ++ [{ x with bytes := x.bytes ++ st.bytes }] else l ++ [st]
  | none => [st]

/-- An `.ef` store is performed at its die's copy, and will be forwarded (R228). Where every line of the slice holds such stores, a barge's
or an engine's is performed at its home (log 14). -/
def putCopy (s : State) (st : Store) : Acc Unit :=
  let line := st.addr / 128
  if s.mem.gaPending line st.die || s.mem.agentBusy st.agent st.seq line ||
      (s.mem.keyClash line st.die st.key && s.mem.unforwarded line st.die) then .wait
  else
    let s0 := dropClash s line st.die st.key
    match mergeStop s0 st.die st.addr st.key st.bytes with
    | some c => .fail c st.addr
    | none =>
      match s0.takeLine st.die line with
      | none => if st.agent < 2048 then .wait else homeWritten s0 st.va st.addr st.key st.seq st.bytes
      | some s1 => .ok () (s1.modMem (fun m =>
          let m1 := m.setCopy line st.die { (m.copy line st.die).puts (st.addr % 128) st.bytes with key := st.key }
          { m1 with fwd := addStore m1.fwd st }))

/-- A `.ga` store is bound pending at the die's copy (R229). -/
def putPending (s : State) (st : Store) : Acc Unit :=
  let line := st.addr / 128
  if s.mem.gaOther line st.die st.seq || s.mem.agentBusy st.agent st.seq line then .wait
  else .ok () (s.modMem (fun m => { m with gaPend := addStore m.gaPend st }))

/-- The store of a part of a group's access. -/
def Op.store (o : Op) (id k a key : Nat) (bs : List Byte) : Store :=
  { op := id, part := k, seq := id, agent := o.core, die := o.die, addr := a, bytes := bs, key := key, launch := launchOfGrp o.grp
    leaf := Sparse.get {} o.leaves k, va := o.at_ k, birth := o.birth }

/-- A group's `.ef` store, after the core's earlier ones. -/
def storeCopy (s : State) (id k a key : Nat) (bs : List Byte) : Acc Unit :=
  if earlierStore s id then .wait else putCopy s ((s.op id).store id k a key bs)

/-- A group's `.ga` store, after the core's earlier ones; the bytes of an atomic of wide scope are formed when the home performs it. -/
def bindPending (s : State) (id k a key : Nat) (bs : List Byte) : Acc Unit :=
  if earlierStore s id then .wait else putPending s ((s.op id).store id k a key bs)

/-- An `.ef` atomic of wide scope is performed at the home slice (R217). -/
def atomicHome (s : State) (id k a key : Nat) : Acc (List Byte) :=
  let o := s.op id
  let line := a / 128
  if s.mem.gaPending line o.die || s.mem.unforwarded line o.die || earlierStore s id ||
      s.mem.fwd.any (fun st => st.agent = o.core) || s.mem.invals.any (fun v => v.agent = o.core) then .wait
  else
    match readHome s a key (o.span k).2 with
    | .wait => .wait
    | .fail c x => .fail c x
    | .ok old s1 =>
      match writeHome s1 a key id (o.storeBytes k old) with
      | .wait => .wait
      | .fail c x => .fail c x
      | .ok _ s2 => .ok old (s2.modMem (fun m => m.recall line o.die (o.store id k a key [])))

/-- One part at its place (R217): what it read, and the state; `home` says that its write, if any, has reached its home. An atomic of
narrow scope is performed at the die's copy, and its mode says how its new value goes on. -/
def placePart (s : State) (id k : Nat) (p : Place) : Acc (List Byte × Bool) :=
  let o := s.op id
  let n := (o.span k).2
  let andStore := fun (r : Acc (List Byte)) (w : State → List Byte → Acc Unit) (home : Bool) =>
    match r with
    | .wait => Acc.wait
    | .fail c x => .fail c x
    | .ok old s1 =>
      if !o.storing then .ok (old, true) s1
      else
        match w s1 (o.storeBytes k old) with
        | .wait => .wait
        | .fail c x => .fail c x
        | .ok _ s2 => .ok (old, home) s2
  match p with
  | .bad c => .fail c 0
  | .bank off =>
    andStore (.ok (s.dieRead (launchOfGrp o.grp) o.die off n) s)
      (fun s1 bs => .ok () (s1.dieWrite (launchOfGrp o.grp) o.die off bs)) true
  | .home a key =>
    if s.mem.aliasBusy (a / 128) o.die then .wait
    else andStore (if o.storing && !o.atomic then .ok [] s else readHome s a key n) (fun s1 bs => homeWritten s1 a a key id bs) true
  | .cached a key =>
    if o.kind = .acqr && 4 ≤ bits o.mods 3 3 then
      if s.mem.unforwarded (a / 128) o.die then .wait else andStore (readHome s a key n) (fun s1 _ => .ok () s1) true
    else if !o.storing then andStore (readCached s o.die a key n) (fun s1 _ => .ok () s1) true
    else if o.ga then
      if o.atomic && !o.wideAtomic then andStore (readCached s o.die a key n) (fun s1 bs => bindPending s1 id k a key bs) false
      else andStore (.ok [] s) (fun s1 bs => bindPending s1 id k a key (if o.atomic then [] else bs)) false
    else if o.wideAtomic then
      match atomicHome s id k a key with
      | .wait => .wait
      | .fail c x => .fail c x
      | .ok old s1 => .ok (old, true) s1
    else if o.atomic then andStore (readCached s o.die a key n) (fun s1 bs => storeCopy s1 id k a key bs) false
    else andStore (.ok [] s) (fun s1 bs => storeCopy s1 id k a key bs) false

/-- What a part needs of its leaf (R246): a `redg` reads nothing for its group. -/
def Op.needs (o : Op) : AccessKind := if o.major = 0x17 && o.idx = 3 then 1 else if o.atomic then 2 else if o.storing then 1 else 0

/-- A cached part finds a byte of its own that the die's copy does not hold: an L2 miss of the core's global accesses (R330,
log 63). -/
def missed (s : State) (die n : Nat) (p : Place) : Bool :=
  match p with
  | .cached a _ => (rangeFrom 0 n).any (fun i => !bitOf (s.mem.copy ((a + i) / 128) die).valid ((a + i) % 128))
  | _ => false

/-- The canonical address and key of a place in memory. -/
def Place.homeKey (p : Place) : Option (Nat × Nat) :=
  match p with
  | .cached a key => some (a, key)
  | .home a key => some (a, key)
  | _ => none

/-- The core's earlier stores are performed, wherever they go. -/
def firstStore (s : State) (id : Nat) : Bool :=
  let o := s.op id
  s.ops.all (fun (p : Nat × Op) => !(p.1 < id && p.2.kind = .global && p.2.core = o.core && p.2.storing && !p.2.left.isEmpty))

/-- A part has arrived at its home, where its granule flips: it has its place among those that wait (R399, R400). A store that earlier
ones of its core hold back, and an `acqr`, have not arrived. -/
def lineUp (s : State) (id k granule : Nat) : State :=
  let o := s.op id
  if (granule, .part id k) ∈ s.host.waiting || o.kind = .acqr || (o.storing && !firstStore s id) then s
  else s.modHost (fun h => { h with waiting := h.waiting ++ [(granule, .part id k)] })

/-- A part need not wait for its granule: it does not flip, and no earlier request for it waits. -/
def biasTurn (s : State) (id k a : Nat) : Bool :=
  !flipping s a && (!isHbm a || (s.host.waiting.find? (fun w => w.1 = granuleOf a)).all (fun w => w.2 = .part id k))

/-- It waits no more. -/
def leaveLine (s : State) (r : Request) : State :=
  if s.host.waiting.isEmpty then s else s.modHost (fun h => { h with waiting := h.waiting.filter (fun w => w.2 != r) })

/-- A part at its place, once no flip of its granule and no load of its key's slot holds it (R255, R399). -/
def arrivedPart (s : State) (id k : Nat) (p : Place) : State × Option (Acc (List Byte × Bool)) :=
  match p.homeKey with
  | none => (s, some (placePart s id k p))
  | some (a, key) =>
    if keyWait s (some id) key then (s, none)
    else if !biasTurn s id k a then (lineUp s id k (granuleOf a), none)
    else (s, some (placePart s id k p))

/-- Perform one global part (R213, R216): it is translated, checked and performed by itself. -/
def globalPart (s : State) (id k : Nat) : State :=
  let o := s.op id
  match translateFor s id o.core (asidOfGrp s o.grp) (o.at_ k) o.needs with
  | .error c => if c = 0 then s else failPart s id k c
  | .ok (t, s0) =>
    let s1 := s0.modOp id (fun o => { o with leaves := Sparse.insert o.leaves k t.leaf })
    let sp := splitPart s1 o.core (asidOfGrp s o.grp) (Sparse.get 0 o.addr (k / 4)) o.size (o.at_ k)
    let p := placeIn s1 (launchOfGrp o.grp) true t sp.1 sp.2 (o.at_ k) (o.span k).2
    match arrivedPart s1 id k p with
    | (_, some .wait) => s
    | (_, some (.fail c _)) => leaveLine (failPart s1 id k c) (.part id k)
    | (_, some (.ok (bs, home) s2)) =>
      let s3 := if missed s1 o.die (o.span k).2 p then s2.modCore o.core (fun c => { c with misses := c.misses + 1 }) else s2
      leaveLine (s3.modOp id (fun o =>
        let o1 := (o.keep k bs).did k
        if home then o1.atHome k else o1)) (.part id k)
    | (s2, none) => { s with host := s2.host }

/-- Perform a part of any operation, if it is there, started, and nothing before it stands in its way. -/
def performPart (s : State) (id k : Nat) : State :=
  let o := s.op id
  if !(s.hasOp id && !o.held && decide (k ∈ o.left)) then s
  else if olderPart s id k then s
  else if o.isLevel || o.kind = .dieScratch then levelPart s id k
  else if o.kind = .acqr && !promoted s id (bits o.mods 3 3) then s
  else globalPart s id k

/-- Turn `.perform id k`: one part, or with `k` of 128 every part in order. -/
def performTurn (s : State) (id k : Nat) : State :=
  if k < 128 then performPart s id k else (s.op id).left.foldl (fun s j => performPart s id j) s

end Sys2Proof.Machine
end

