-- ==== Sys2Proof/Machine/Invalidate.lean ====
section
/-! DEFINITION. Class-1 operations that reach no data: `icinv` (R328), `tlbinv` (R249) and `biasset` with its flips
(R399 to R401): what their retirement waits for, and what they do. -/

namespace Sys2Proof.Machine

open Sys2Proof

/-! ### `icinv` -/

/-- An address lies in a line that overlaps the range; a length of 0 takes every line. -/
def codeHit (a b va : Nat) : Bool := b = 0 || (decide (a / 128 ≤ va / 128) && decide (va / 128 ≤ (a + b - 1) / 128))

/-- The caches within the scope discard the words, and the other groups there those that they have fetched ahead (R250, R328); the issuing
group's own go with its `csync`. -/
def discardCode (s : State) (o : Op) : State :=
  let sc := bits o.mods 3 3
  let asid := asidOfGrp s o.grp
  let inScope := fun (core : Nat) => match sc with
    | 1 => core = o.core
    | 3 => dieOf core = dieOf o.core
    | _ => true
  let gone := fun (core a va : Nat) => inScope core && (o.y = 0 || a = asid) && codeHit o.x o.y va
  let s1 : State := { s with groups := s.groups.map (fun (p : Nat × Group) =>
    if p.1 = o.grp || p.2.fetched.isEmpty then p
    else (p.1, { p.2 with fetched := p.2.fetched.filter (fun w => !gone (coreOfGrp s p.1) (asidOfGrp s p.1) w.1) })) }
  s1.modXlat (fun x => { x with code := x.code.filter (fun w => !gone w.core w.asid w.va) })

/-! ### `tlbinv` -/

/-- The leaf matches (R249): kind, ASID and address of the operation. -/
def leafMatch (kind asid va : Nat) (t : Leaf) : Bool :=
  match kind with
  | 0 => true
  | 1 => !t.isGlobal && t.asid = asid
  | _ => (t.isGlobal || t.asid = asid) && va / 2 ^ t.size * 2 ^ t.size = t.va

/-- The leaf is one that a `tlbinv` names. -/
def Op.removes (o : Op) (t : Leaf) : Bool := leafMatch (bits o.mods 0 2) (o.y % 4096) (bits o.x 0 57 / 65536 * 65536) t

/-- Every cache of the package drops the matching leaves, and all walk-cache content goes. The result of a walk in progress goes to those
alone who ask for it already (R249). -/
def removeLeaves (s : State) (o : Op) : State :=
  s.modXlat (fun x => { x with
    tlb := x.tlb.filter (fun t => !o.removes t.leaf), walk := []
    walks := x.walks.map (fun w => { w with upto := some (w.upto.getD s.sched.nextId) }) })

/-- Every access numbered below `upto` that used a leaf which the operation removes has retired, or its stores are performed at package
scope. -/
def usesOver (s : State) (o : Op) (upto : Nat) : Bool :=
  s.mem.fwd.all (fun st => !(st.seq < upto && o.removes st.leaf)) && s.mem.gaPend.all (fun st => !(st.seq < upto && o.removes st.leaf)) &&
  s.mem.invals.all (fun v => !(v.seq < upto && o.removes v.leaf)) &&
  s.ops.all (fun (p : Nat × Op) => !(p.1 < upto && p.2.result.isNone && p.2.leaves.any (fun l => o.removes l.2)))

/-- `tlbinv` (R249): the removal, and whether the operation may retire. -/
def tlbStep (s : State) (id : Nat) : State × Bool :=
  let o := s.op id
  let s1 := if o.z.isEmpty then (removeLeaves s o).modOp id (fun o => { o with z := [s.sched.nextId] }) else s
  (s1, usesOver s1 o ((s1.op id).z.head?.getD 0))

/-! ### `biasset` -/

/-- The granules that a `biasset` requests, as they translate now. -/
def biasGranules (s : State) (o : Op) : List Nat :=
  (rangeFrom 0 o.y).filterMap (fun k =>
    match peekPhys s o.core (asidOfGrp s o.grp) (o.x + 4096 * k) with
    | some a => if isHbm a then some (granuleOf a) else none
    | none => none)

/-- The core's earlier accesses to the granules are performed, an earlier `biasset` among them (R401, R226); none of its translations waits for
a flip. -/
def biasClear (s : State) (id : Nat) : Bool :=
  let o := s.op id
  let gs := biasGranules s o
  s.ops.all (fun (p : Nat × Op) => !(p.1 < id && p.2.core = o.core && (if p.2.kind = .bias then
      p.2.result.isNone && (biasGranules s p.2).any (fun g => decide (g ∈ gs))
    else p.2.isGlobal && p.2.left.any (fun k =>
      match partPlace s p.2 k with
      | some a => isHbm a && decide (granuleOf a ∈ gs)
      | none => false)))) &&
  (rangeFrom 0 o.y).all (fun k => match translate s o.core (asidOfGrp s o.grp) (o.x + 4096 * k) 1 with
    | .error c => c != 0
    | .ok _ => true)

/-- A granule of a `biasset` fails: the first cause stays. -/
def biasFail (s : State) (id cause : Nat) : State :=
  s.modOp id (fun o => { o with fail := some (o.fail.getD { cause := cause, lane := low o.active, addr := o.x, write := true }) })

/-- Ask for one granule; a request already met completes at once, and one at a host without CXL, which uses no bias table (R384). -/
def biasAsk (id : Nat) (s : State) (k : Nat) : State :=
  let o := s.op id
  let va := o.x + 4096 * k
  match translate s o.core (asidOfGrp s o.grp) va 1 with
  | .error c => biasFail s id c
  | .ok (t, s0) =>
    let s1 := s0.modOp id (fun o => { o with leaves := Sparse.insert o.leaves k t.leaf })
    if 1 < spaceOf (t.rawPhys va) then biasFail s1 id Cause.permission
    else if !hostCxl s1 then s1
    else
      let a := t.phys va
      let toHost := bitOf o.mods 0
      if !flipping s1 a && hostBias s1 a = toHost then s1
      else s1.modHost (fun h => { h with flips := h.flips ++ [{ granule := granuleOf a, toHost := toHost, op := id }] })

/-- `biasset` (R401): its requests, and whether the operation may retire. -/
def biasStep (s : State) (id : Nat) : State × Bool :=
  let o := s.op id
  if o.z.isEmpty then
    if biasClear s id then
      let s1 := ((rangeFrom 0 o.y).foldl (biasAsk id) s).modOp id (fun o => { o with z := [1] })
      (s1, s1.host.flips.all (fun f => f.op != id))
    else (s, false)
  else (s, s.host.flips.all (fun f => f.op != id))

/-! ### Flips -/

/-- The first request for a granule, in one direction. -/
def flipOf (s : State) (granule : Nat) (toHost : Bool) : Option Flip :=
  match s.host.flips.find? (fun f => f.granule = granule) with
  | some f => if f.toHost = toHost then some f else none
  | none => none

/-- Its turn is over; without CXL the table is not written (R384). -/
def endFlip (s : State) (granule : Nat) (bias : Bool) : State :=
  s.modHost (fun h =>
    { h with bias := if hostCxl s then Sparse.set false h.bias granule bias else h.bias
             flips := h.flips.erase ((h.flips.find? (fun f => f.granule = granule)).getD { granule := granule, toHost := bias }) })

/-- A line lies in a granule. -/
def lineInGranule (granule line : Nat) : Bool := isHbm (128 * line) && granuleOf (128 * line) = granule

/-- BIAS_FLIP_HOST (R399): once no store to the granule is on its way, the dies' copies go and the bit is set. -/
def execBiasFlipHost (granule : Nat) (s : State) : Out :=
  match flipOf s granule true with
  | none => .next s
  | some _ =>
    if s.mem.fwd.any (fun st => lineInGranule granule (st.addr / 128)) || s.mem.gaPend.any (fun st => lineInGranule granule (st.addr / 128)) then
      .next s
    else
      .next (endFlip (s.modMem (fun m => { m with
        copies := m.copies.filter (fun (p : Nat × Copy) => !lineInGranule granule (p.1 / 16))
        invals := m.invals.filter (fun v => !lineInGranule granule v.line) })) granule true)

/-- HDM offset of the first byte of a granule (R394). -/
def granuleHdm (granule : Nat) : Nat := interleaved (granule / 9437184 * 2 ^ 44 + granule % 9437184 * 4096)

/-- BIAS_FLIP_DEVICE (R400): first the 64 snoops, then, when every reply has come, the bit. -/
def execBiasFlipDevice (granule : Nat) (s : State) : Out :=
  match flipOf s granule false with
  | none => .next s
  | some f =>
    if !hostCxl s || !Sparse.get false s.host.bias granule then .next (endFlip s granule false)
    else if !f.sent then
      let s1 := (rangeFrom 0 64).foldl (fun s l => s.send (.biSnpInv (Config.hdmDecode s.host.decoder (granuleHdm granule + 64 * l)))) s
      .next (s1.modHost (fun h => { h with flips := h.flips.map (fun x => if x = f then { f with sent := true } else x) }))
    else if f.replies = 2 ^ 64 - 1 then .next (endFlip s granule false)
    else .next s

/-- What the host writes back in answer to a snoop of a host line: what its answer says, or what its cache is known to hold modified. -/
def writtenBack (s : State) (l : Nat) (said : Option Nat) : Option Nat :=
  match said with
  | some x => some x
  | none => (s.host.copies.find? (fun c => c.1 = l && c.2.dirty)).map (fun c => c.2.data)

/-- BIRSPI_RECEIVED (R400): a reply to one snoop; a modified line is written back first, as a host write, and the host holds it no more. -/
def execBirspiReceived (granule line : Nat) (dirty : Option Nat) (s : State) : Out :=
  match flipOf s granule false with
  | none => .next s
  | some f =>
    if f.sent && decide (line < 64) && !bitOf f.replies line then
      let a := granule / 9437184 * 2 ^ 44 + granule % 9437184 * 4096 + 64 * line
      let s1 := match writtenBack s (a / 64) dirty with
        | some x => hostPut s a x (2 ^ 64 - 1)
        | none => s
      .next ((dropHostCopy s1 (a / 64)).modHost (fun h => { h with flips := h.flips.map (fun x => if x = f then { f with replies := setBits f.replies line 1 1 } else x) }))
    else .next s

end Sys2Proof.Machine
end

