-- ==== Sys2Proof/Machine/Memory.lean ====
section
/-! DEFINITION. The scratchpad and global-memory instructions: majors 0x13 to 0x18 (R195 to R200, R211 to R225), the forwarding
of `.ef` stores (R228, R231), the acknowledgement of `.ga` stores (R229), ack-lost (R222, R232), and retirement (R218). -/

namespace Sys2Proof.Machine

open Sys2Proof

/-! ### Operands -/

/-- Registers of a type and size code (R196). -/
def dataWords (ty size : Nat) : Nat := if size = 5 then 4 else wordsOfTy ty

/-- Data of a load or store; `.x4` takes four `v` registers. -/
def dataWant (ty size : Nat) : Option Want :=
  some { cls := if size = 5 then clsV else clsV + clsS, words := dataWords ty size }

/-- An address base: 32-bit, or a pair (R196, R211). -/
def baseWant (words : Nat) : Option Want := some { cls := clsV + clsS, words := words }

/-- An address offset. -/
def offWant : Option Want := some { cls := clsV + clsS + clsC }

/-- Size code [24:22]. -/
def sizeMod (f : ExtForm) : Nat := bits f.mods.toNat 0 3

/-- 32-bit address of a lane (R196). -/
def State.addr32 (s : State) (f : ExtForm) (i : Nat) : Nat := (s.opA f 2 i + s.opB f 2 i) % 2 ^ 32

/-- 64-bit address of a lane (R211). -/
def State.addr64 (s : State) (f : ExtForm) (i : Nat) : Nat := (s.opA f 4 i + sextTo 32 64 (s.opB f 5 i)) % 2 ^ 64

/-- Store data of a lane: one register, a pair or four. -/
def State.storeData (s : State) (f : ExtForm) (ty size i : Nat) : Nat :=
  if size = 5 then
    (rangeFrom 0 4).foldl (fun x k => x + s.me.read 5 (f.d.toNat + k) i * 2 ^ (32 * k)) 0
  else s.opD f ty i

/-- The operation of an access, with what its lanes hold at issue. -/
def State.accessOp (s : State) (major idx : Nat) (f : ExtForm) (act : Lanes) (addr : Nat → Nat) : Op :=
  let atomic := isAtomicOp major idx
  let ty := typeOf f (if atomic then 1 else 5)
  let ls := act.toList
  let red := major = 0x17 && idx = 3
  let load := !isStoreOp major idx && !red
  { grp := s.sched.cur.grp, core := s.myCore, major := major, idx := idx, f := some f, active := act
    dests := if load then rangeFrom f.d.toNat (if atomic then wordsOfTy ty else dataWords ty (sizeMod f)) else []
    addr := ls.map (fun i => (i, addr i))
    data := if atomic then ls.map (fun i => (i, if red then s.opD f ty i else s.opC f ty i))
      else if load then [] else ls.map (fun i => (i, s.storeData f ty (sizeMod f) i))
    cmp := if atomic && !red then ls.map (fun i => (i, s.opD f ty i)) else [] }

/-! ### Scratchpad (R195 to R200) -/

/-- Cause of one lane's scratchpad access (R195): misaligned before the bound; 0 for none. -/
def levelCause (l : Launch) (major addr size : Nat) : Nat :=
  if addr % size ≠ 0 then Cause.misaligned
  else
    let out := match major with
      | 0x13 => decide (l.scratch * 256 < addr + size)
      | 0x14 => decide (l.lanepriv * 16 < addr + size)
      | 0x15 => bits addr 24 8 != 0 || decide (l.w * l.h ≤ bits addr 20 4) || decide (l.scratch * 256 < addr % 2 ^ 20 + size)
      | _ => decide (l.diescratch * 2 ^ 20 < addr + size)
    if out then Cause.scratchBound else 0

/-- Fields of a scratchpad access. -/
def levelUse (major idx : Nat) (f : ExtForm) : Use :=
  if isAtomicOp major idx then
    let n := wordsOfTy (typeOf f 1)
    { d := some { cls := clsV + clsS, words := n }, a := baseWant 1, b := offWant, c := some { cls := clsV + clsS + clsC, words := n }
      dRead := bits f.mods.toNat 2 4 = 7 }
  else
    { d := dataWant (typeOf f 5) (sizeMod f), a := baseWant 1, b := offWant, dRead := isStoreOp major idx
      c := if major = 0x15 && idx = 2 then some { cls := clsV + clsS + clsC } else none }

/-- A scratchpad access passes its checks and issues as `go` says. -/
def levelAccess (major idx : Nat) (f : ExtForm) (s : State) (go : State → Op → State) : Out :=
  let size := accessSize major idx f
  s.access f (levelUse major idx f)
    (fun act s =>
      let cput := major = 0x15 && idx = 2 && decide (32 ≤ s.opC f 5 (low act))
      laneCauses act (fun i => if cput then Cause.illegalOperand else levelCause s.myLaunch major (s.addr32 f i) size))
    (fun act s => go s (s.accessOp major idx f act (s.addr32 f)))

/-- A load or an atomic: a flag operation. -/
def levelFlag (kind : OpKind) (major idx : Nat) (f : ExtForm) (s : State) : Out :=
  levelAccess major idx f s (fun s o => s.issueFlag f { o with kind := kind })

/-- `sts` and `stl`: performed at issue, after the group's earlier accesses to the location (R200). -/
def levelStore (major : Nat) (f : ExtForm) (s : State) : Out :=
  levelAccess major 1 f s (fun s o =>
    let id := s.sched.nextId
    ((performLevelAll (s.newOp { o with kind := .posted }) id).dropOp id).advance)

/-- `stc` and `cput`: posted (R199, R200). -/
def levelPosted (idx : Nat) (f : ExtForm) (s : State) : Out :=
  levelAccess 0x15 idx f s (fun s o =>
    (s.newOp { o with kind := .posted, y := s.opC f 5 (low o.active) % 32 }).advance)

/-- `ldd` and `std`: token operations of class 2. -/
def levelToken (idx : Nat) (f : ExtForm) (s : State) : Out :=
  levelAccess 0x16 idx f s (fun s o => s.engineOp f { o with kind := .dieScratch })

def execLds (f : BaseForm) (s : State) : Out := levelFlag .load 0x13 0 (f.toExt 0x13 0) s

def execLdsX (f : ExtForm) (s : State) : Out := levelFlag .load 0x13 0 f s

def execSts (f : BaseForm) (s : State) : Out := levelStore 0x13 (f.toExt 0x13 1) s

def execStsX (f : ExtForm) (s : State) : Out := levelStore 0x13 f s

def execAtms (f : ExtForm) (s : State) : Out := levelFlag .atom 0x13 2 f s

def execLdl (f : BaseForm) (s : State) : Out := levelFlag .load 0x14 0 (f.toExt 0x14 0) s

def execLdlX (f : ExtForm) (s : State) : Out := levelFlag .load 0x14 0 f s

def execStl (f : BaseForm) (s : State) : Out := levelStore 0x14 (f.toExt 0x14 1) s

def execStlX (f : ExtForm) (s : State) : Out := levelStore 0x14 f s

def execLdc (f : ExtForm) (s : State) : Out := levelFlag .load 0x15 0 f s

def execStc (f : ExtForm) (s : State) : Out := levelPosted 1 f s

def execCput (f : ExtForm) (s : State) : Out := levelPosted 2 f s

def execAtmc (f : ExtForm) (s : State) : Out := levelFlag .atom 0x15 3 f s

def execLdd (f : ExtForm) (s : State) : Out := levelToken 0 f s

def execStd (f : ExtForm) (s : State) : Out := levelToken 1 f s

/-! ### Scratchpad completion -/

/-- The values of a finished load: extended (R196); those of `acqr` the same in every lane (R240). -/
def Op.results (o : Op) : Op :=
  if o.kind = .acqr then
    let x := Sparse.get 0 o.vals (low o.active)
    { o with vals := o.active.toList.map (fun i => (i, x)) }
  else if o.atomic then o
  else { o with vals := o.vals.map (fun (p : Nat × Nat) => (p.1, extendLoad (bits o.mods 0 3) p.2)) }

/-- SCRATCHPAD_LOAD_LAND (R197, R200). -/
def execScratchpadLoadLand (op : Nat) (s : State) : Out :=
  if s.hasOp op && (s.op op).kind = .load then .next (flagDone ((performLevelAll s op).modOp op Op.results) op) else .next s

/-- SCRATCHPAD_ATOMIC_LAND (R198, R200). -/
def execScratchpadAtomicLand (op : Nat) (s : State) : Out :=
  if s.hasOp op && (s.op op).kind = .atom then .next (flagDone (performLevelAll s op) op) else .next s

/-- Teams that a `cput` writes to. -/
def cputTeams (s : State) (o : Op) : List Nat :=
  (o.active.toList.map (fun i => clusterTeam s (teamOf o.grp) (Sparse.get 0 o.addr i))).eraseDups

/-- Every byte of a posted write has landed, and of a `cput` every increment too: it is over. -/
def postedEnd (s : State) (op : Nat) : State :=
  let o := s.op op
  if o.left.isEmpty && (o.idx = 1 || (cputTeams s o).all (fun t => decide (t ∈ o.z))) then s.dropOp op else s

/-- POSTED_WRITE_LAND (R200): the bytes of one lane land. -/
def execPostedWriteLand (op lane : Nat) (s : State) : Out :=
  if s.hasOp op && (s.op op).kind = .posted then
    .next (postedEnd (((s.op op).left.filter (fun k => k / 4 = lane)).foldl (fun s k =>
      let s1 := match partPlace s (s.op op) k with
        | some a => performOlder s (s.op op).grp op a ((s.op op).span k).2
        | none => s
      performLevel s1 op k) s) op)
  else .next s

/-- The values of an atomic that its home performs are fixed: it has retired, or its home has acknowledged it (R217, R227). -/
def Op.valuesRead (o : Op) : Bool := !(o.ga && o.wideAtomic) || o.result.isSome || o.parts.all (fun k => decide (k ∈ o.homed))

/-- Covered operations of a group numbered below `upto` are performed at die scope (R227, R236, R238). -/
def coveredDone (s : State) (grp upto : Nat) : Bool :=
  s.ops.all (fun (p : Nat × Op) => !(p.1 < upto && p.2.grp = grp) ||
    (if p.2.hasParts then p.2.left.isEmpty && p.2.valuesRead else p.2.tok.isNone || p.2.result.isSome || p.2.kind.cls != 1))

/-- CPUT_INCREMENT (R199, R209): a core that holds no team keeps its semaphores at zero (R206). -/
def execCputIncrement (op team : Nat) (s : State) : Out :=
  let o := s.op op
  if s.hasOp op && o.kind = .posted && o.idx = 2 && decide (team ∈ cputTeams s o) && !decide (team ∈ o.z) &&
      o.left.all (fun k => clusterTeam s (teamOf o.grp) (o.at_ k) != team) && coveredDone s o.grp op then
    let core := (s.team team).core
    let s1 := if holdsTeam s core then s.modCore core (fun c => { c with sems := Sparse.set 0 c.sems o.y ((Sparse.get 0 c.sems o.y + 1) % 2 ^ 32) })
      else s
    .next (postedEnd (s1.modOp op (fun o => { o with z := o.z ++ [team] })) op)
  else .next s

/-- Bytes an access transfers: those of every lane, less the parts that failed (R216, R219). -/
def Op.bytesDone (o : Op) : Nat := o.lanes.length * o.size - o.lostBytes

/-- DIE_SCRATCHPAD_RETIRE (R200). -/
def execDieScratchpadRetire (op : Nat) (s : State) : Out :=
  let o := s.op op
  if s.hasOp op && o.kind = .dieScratch && !o.held && o.result.isNone && o.left.isEmpty then
    .next (finishOp (s.modOp op Op.results) op o.bytesDone none)
  else .next s

/-! ### Global memory (R211 to R216) -/

/-- Cause of a lane's address (R212); 0 for none. -/
def globalCause (major idx size addr : Nat) : Nat :=
  let unit := if isAtomicOp major idx || major = 0x1D then size else min size 4
  if addr % unit ≠ 0 then Cause.misaligned else 0

/-- Fields of a global access (R214, R215). -/
def globalUse (idx : Nat) (f : ExtForm) : Use :=
  if 2 ≤ idx then
    let n := wordsOfTy (typeOf f 1)
    { d := some { cls := if idx = 3 then clsV + clsS + clsC else clsV + clsS, words := n }, a := baseWant 2, b := offWant
      c := if idx = 2 then some { cls := clsV + clsS + clsC, words := n } else none
      dRead := idx = 3 || bits f.mods.toNat 0 3 = 7, bad := bits f.mods.toNat 3 3 = 7 }
  else { d := dataWant (typeOf f 5) (sizeMod f), a := baseWant 2, b := offWant, dRead := idx = 1 }

/-- A global access issues into its token. -/
def globalAccess (idx : Nat) (f : ExtForm) (s : State) : Out :=
  s.access f (globalUse idx f)
    (fun act s => laneCauses act (fun i => globalCause 0x17 idx (accessSize 0x17 idx f) (s.addr64 f i)))
    (fun act s => s.engineOp f { s.accessOp 0x17 idx f act (s.addr64 f) with kind := .global })

def execLdg (f : ExtForm) (s : State) : Out := globalAccess 0 f s

def execStg (f : ExtForm) (s : State) : Out := globalAccess 1 f s

def execAtg (f : ExtForm) (s : State) : Out := globalAccess 2 f s

def execRedg (f : ExtForm) (s : State) : Out := globalAccess 3 f s

/-! ### Prefetch and cache maintenance (R223) -/

/-- Fields of major 0x18: the scopes an instruction accepts, others are illegal operands. -/
def lineUse (f : ExtForm) (scopes : List Nat) : Use :=
  { a := baseWant 2, b := offWant, bad := !decide (bits f.mods.toNat 3 3 ∈ scopes) }

/-- `pref`: a hint that this machine drops; it changes no value any program can read (R223). -/
def execPref (f : ExtForm) (s : State) : Out := s.access f (lineUse f [3, 4]) (fun _ _ => []) (fun _ s => s.advance)

/-- `cclean` and `cinval` issue. -/
def lineAccess (kind : OpKind) (idx : Nat) (scopes : List Nat) (f : ExtForm) (s : State) : Out :=
  s.access f (lineUse f scopes) (fun _ _ => []) (fun act s =>
    s.engineOp f { kind := kind, major := 0x18, idx := idx, active := act
                   addr := act.toList.map (fun i => (i, s.addr64 f i)) })

def execCclean (f : ExtForm) (s : State) : Out := lineAccess .clean 1 [4, 5] f s

def execCinval (f : ExtForm) (s : State) : Out := lineAccess .inval 2 [3, 5] f s

/-- The line of one lane, once clean (R223, R246): `none` while stores of the die to it are on their way. -/
def cleanLine (s : State) (id lane : Nat) : Option State :=
  let o := s.op id
  let va := Sparse.get 0 o.addr lane
  let fail := fun (s : State) (c : Nat) => s.modOp id (fun o => { o with fail := some (o.fail.getD
    { cause := c, lane := lane, addr := va, write := true }) })
  match translate s o.core (asidOfGrp s o.grp) va 1 with
  | .error c => if c = 0 then none else some (fail s c)
  | .ok (t, s1) =>
    if spaceOf (t.rawPhys va) = 2 || spaceOf (t.rawPhys va) = 5 then some s1
    else
      match placeOf s1 (launchOfGrp o.grp) true t va 1 with
      | .bad c => some (fail s1 c)
      | .bank _ => some s1
      | .home _ _ => some s1
      | .cached a _ =>
        let line := a / 128
        let mine := fun (st : Store) => st.die = o.die && st.addr / 128 = line && decide (st.seq < id)
        if s1.mem.fwd.any mine || s1.mem.gaPend.any mine then none
        else
          let s2 := if bits o.mods 3 3 = 5 then s1.modMem (fun m => { m with dirtyHome := m.dirtyHome.filter (fun l => l != line) })
            else s1
          some (if o.kind = .inval then s2.modMem (fun m => m.invalidate line o.die) else s2)

/-- Every lane's line; `none` while one of them waits. -/
def cleanLines (s : State) (id : Nat) : List Nat → Option State
  | [] => some s
  | i :: is => match cleanLine s id i with
    | none => none
    | some s1 => cleanLines s1 id is

/-! ### Global completion -/

/-- The locations of a `.ga` operation that has retired unpoisoned follow the ordinary rules again (R232). -/
def unlose (s : State) (o : Op) : State :=
  if !(o.ga && o.storing) then s
  else o.parts.foldl (fun s k =>
    match peekPhys s o.core (asidOfGrp s o.grp) (o.at_ k) with
    | none => s
    | some a => s.modMem (fun m => m.found a (o.span k).2)) s

/-- GLOBAL_ACCESS_RETIRE (R218): every part is performed, and every write has reached its home. -/
def execGlobalAccessRetire (op : Nat) (s : State) : Out :=
  let o := s.op op
  if !(s.hasOp op && !o.held && o.result.isNone) then .next s
  else if o.isGlobal then
    if o.left.isEmpty && (!o.storing || o.parts.all (fun k => decide (k ∈ o.homed))) then
      let s1 := if o.fail.isNone then unlose s o else s
      .next (finishOp (s1.modOp op Op.results) op o.bytesDone o.fail)
    else .next s
  else if o.kind = .clean || o.kind = .inval then
    match cleanLines s op o.active.toList with
    | none => .next s
    | some s1 => .next (finishOp s1 op 0 (s1.op op).fail)
  else if o.kind = .icinv then .next (finishOp (discardCode s o) op 0 none)
  else if o.kind = .tlbinv then
    let r := tlbStep s op
    .next (if r.2 then finishOp r.1 op 0 none else r.1)
  else if o.kind = .bias then
    let r := biasStep s op
    .next (if r.2 then finishOp r.1 op 0 (r.1.op op).fail else r.1)
  else .next s

/-! ### Forwarding of `.ef` stores (R228, R230, R231) -/

/-- No older store of the die to the line is on its way. -/
def firstOfLine (l : List Store) (st : Store) : Bool :=
  match l.find? (fun x => x.die = st.die && x.addr / 128 = st.addr / 128) with
  | some x => x = st
  | none => false

/-- The stores of an agent that may be forwarded now: the oldest one; while its die is rerouted, also a later one to another stack,
past stores issued before the link failed (R231). A barge's or an engine's, which no rule orders, in any order but a line's (R282). -/
def forwardable (s : State) (agent : Nat) : List Store :=
  let mine := s.mem.fwd.filter (fun st => st.agent = agent)
  match mine with
  | [] => []
  | st :: rest =>
    let d := s.die st.die
    let late := if 2048 ≤ agent then rest else if d.rerouted then rest.filter (fun x => mine.all (fun y =>
      !(y.seq < x.seq) || (y.seq < d.failedAt && homeStack y.addr != homeStack x.addr))) else []
    (st :: late).filter (fun x => firstOfLine s.mem.fwd x)

/-- A store fails after it was issued: a part of its operation, an element of `mxst` (R298), or the copy of a barge at the lowest such unit
(R284). -/
def failStore (s : State) (st : Store) (cause : Nat) : State :=
  let o := s.op st.op
  if st.op = 0 then
    let new : BargeFault := { cause := cause, valid := true, write := true, space := 0, addr := st.va, ndone := st.part }
    s.modBarge (st.agent - 4097) (fun x => { x with flight := x.flight.map (fun c =>
      if c.seq != st.seq then c
      else { c with fault := some (match c.fault with
        | some f => if f.ndone ≤ st.part then f else new
        | none => new) }) })
  else if o.kind = .matrix then
    let new : Failure := { cause := cause, lane := o.x, addr := st.va, write := true }
    s.modOp st.op (fun o =>
      { o with lostBytes := o.lostBytes + st.bytes.length
               fail := if o.fail.isNone || st.part < o.y then some new else o.fail
               y := if o.fail.isNone || st.part < o.y then st.part else o.y })
  else failPart s st.op st.part cause

/-- A store is performed at its home; the other dies' copies will be invalidated. -/
def forward (s : State) (st : Store) : State :=
  let s1 := beforeWrite (s.modMem (fun m => { m with fwd := m.fwd.filter (fun x => x != st) })) st.addr st.seq st.bytes
  let r := s1.mem.homeWrite st.key st.addr st.bytes
  let line := st.addr / 128
  match r.2 with
  | some c => failStore { s1 with mem := r.1.invalidate line st.die } st c
  | none =>
    let others := (r.1.holders line).filter (fun d => d != st.die)
    let s2 : State := { s1 with mem := { r.1 with invals := r.1.invals ++ others.map st.inval } }
    dropFlushed (s2.modOp st.op (fun o => o.atHome st.part)) line st.die

/-- EF_STORE_FORWARD (R228): the invalidations of the agent's earlier stores have landed. -/
def execEfStoreForward (agent : Nat) (s : State) : Out :=
  if s.mem.invals.any (fun v => v.agent = agent) then .next s
  else
    match forwardable s agent with
    | [] => .next s
    | [st] => .next (forward s st)
    | st :: l => .next (forward s.took (nth st (st :: l) (s.freeChoice (l.length + 1))))

/-! ### `.ga` stores (R229, R222, R232) -/

/-- The home performs a pending store and releases the line: no copy is left. That of a barge or an engine has no retirement of its own: with
its acknowledgement an ack-lost location follows the ordinary rules again (R232, log 83). -/
def acknowledge (s : State) (st : Store) : State :=
  let o := s.op st.op
  let s1 := s.modMem (fun m => { m with gaPend := m.gaPend.filter (fun x => x != st) })
  let finish := fun (s : State) (old bs : List Byte) =>
    let s2 := beforeWrite s st.addr st.seq bs
    let r := s2.mem.homeWrite st.key st.addr bs
    match r.2 with
    | some c => failStore { s2 with mem := r.1 } st c
    | none =>
      let m1 := r.1.invalidateAll (st.addr / 128) 16
      let s3 : State := { s2 with mem := if st.op = 0 || o.kind = .matrix then m1.found st.addr bs.length else m1 }
      s3.modOp st.op (fun o => (if o.wideAtomic then o.keep st.part old else o).atHome st.part)
  if o.wideAtomic then
    match homeRead s1 st.key st.addr o.size with
    | .error c => failPart s1 st.op st.part c
    | .ok (old, s2) => finish s2 old (o.storeBytes st.part old)
  else finish s1 [] st.bytes

/-- GA_STORE_ACKNOWLEDGE (R229). -/
def execGaStoreAcknowledge (op k : Nat) (s : State) : Out :=
  match s.mem.gaPend.find? (fun st => st.op = op && st.part = k && !s.mem.unforwarded (st.addr / 128) st.die && firstOfLine s.mem.gaPend st) with
  | none => .next s
  | some st => .next (acknowledge s st)

/-- Bytes at a place are lost: from now on they may read as before the store, or as the store, or as any later one (R232). -/
def loseBytes (s : State) (key a : Nat) (bs : List Byte) : State :=
  match (rangeFrom a bs.length).mapM (s.mem.homeByte key) with
  | .error _ => s
  | .ok old =>
    let es := (rangeFrom a bs.length).zip (old.zip bs)
    let add := fun (l : Sparse (List Byte)) (e : Nat × Byte × Byte) =>
      Sparse.insert l e.1 (Sparse.get [e.2.1] l e.1 ++ [e.2.2])
    s.modMem (fun m => { m with lost := es.foldl add m.lost })

/-- A lost part: what it bound pending, or what its home would have made of the location. -/
def losePart (s : State) (id k : Nat) : State :=
  let o := s.op id
  match peekLeaf s o.core (asidOfGrp s o.grp) (o.at_ k) with
  | none => s
  | some t =>
    let a := t.phys (o.at_ k)
    let key := s.keyNum (pteKey t.entry)
    match s.mem.gaPend.find? (fun st => st.op = id && st.part = k && !st.bytes.isEmpty) with
    | some st => loseBytes s key a st.bytes
    | none =>
      match (rangeFrom a (o.span k).2).mapM (s.mem.homeByte key) with
      | .error _ => s
      | .ok old => loseBytes s key a (o.storeBytes k old)

/-- The failure of a lost part: its lane's address, or the first byte of its part (R220). -/
def lostFail (s : State) (o : Op) (k : Nat) : Failure :=
  { cause := Cause.ackLost, lane := k / 4, write := true
    addr := (splitPart s o.core (asidOfGrp s o.grp) (Sparse.get 0 o.addr (k / 4)) o.size (o.at_ k)).1 }

/-- A part of it that loops back and is not performed yet: the bytes there are lost (R232, R366). -/
def losePodPart (op : Nat) (s : State) (p : Nat × Nat × Nat) : State :=
  let o := s.op op
  let i := p.1 / 2
  match podPeek s o p.2.1 with
  | none => s
  | some pa =>
    if o.held || !ownPeer s pa || !loopOpen s op o p.1 pa || (o.kind != .put && o.x != 0) then s
    else
      match exportPlace s (podOffset pa) p.2.2 (if o.kind = .put then 61 else 60) with
      | none => s
      | some (a, key) =>
        if o.kind = .put then loseBytes s key a (toBytes (Sparse.get 0 o.data i / 2 ^ (8 * (p.2.1 - Sparse.get 0 o.addr i))) p.2.2)
        else
          match (rangeFrom a p.2.2).mapM (s.mem.homeByte key) with
          | .error _ => s
          | .ok old => loseBytes s key a (toBytes (atomicNew (bits o.mods 0 3) (typeOf o.form 1) 0 (ofBytes old) (Sparse.get 0 o.data i) (Sparse.get 0 o.cmp i)) p.2.2)

/-- A `.ga` put or `ratom` whose acknowledgement is lost (R366): what stands in the buffer still leaves it. -/
def losePod (s : State) (op : Nat) : State :=
  let o := s.op op
  let s0 := o.podParts.foldl (losePodPart op) s
  let s1 := s0.modCore o.core (fun c => { c with wc := c.wc.map (fun (e : WcEntry) => { e with ops := e.ops.filter (fun x => x != op) }) })
  finishOp s1 op 0 (some (o.fail.getD { cause := Cause.ackLost, lane := low o.active, addr := Sparse.get 0 o.addr (low o.active), write := true }))

/-- A `.ga` store or atomic that has not retired 2^20 cycles after it issued (R222, R366): one that is complete and waits in its token for
older operations has not retired either (R172). -/
def ackOverdue (s : State) (op : Nat) : Bool :=
  let o := s.op op
  s.hasOp op && (o.kind = .global || o.kind = .put || o.kind = .ratom) && o.ga && o.storing && (o.result.all (fun r => r.2.isNone)) && decide (o.birth + 2 ^ 20 ≤ s.cycle o.core)

/-- ACK_LOST (R222, R366): its pending lines are released, and its locations are lost. Where nothing of it is still on its way, the record
names its lowest active lane (R220). -/
def execAckLost (op : Nat) (s : State) : Out :=
  let o := s.op op
  if !ackOverdue s op then .next s
  else if o.kind != .global then .next (losePod s op)
  else
    let out := o.parts.filter (fun k => !decide (k ∈ o.homed))
    let s1 := out.foldl (fun s k => losePart s op k) s
    let s2 := s1.modMem (fun m => { m with gaPend := m.gaPend.filter (fun st => st.op != op) })
    let f := match out with
      | [] => o.fail.getD (lostFail s o (o.parts.head?.getD 0))
      | k :: _ => o.noteFail (lostFail s o k)
    .next (finishOp s2 op (o.lanes.length * o.size - o.lostBytes - (out.map (fun k => (o.span k).2)).sum) (some f))

/-- A `.ga` store of a barge's copy or of `mxst` that no acknowledgement has reached in time (R222, R284, R298). -/
def loseStore (s : State) (st : Store) : State :=
  failStore ((loseBytes s st.key st.addr st.bytes).modMem (fun m => { m with gaPend := m.gaPend.filter (fun x => x != st) })) st Cause.ackLost

/-- What is overdue on a core as a cycle of it ends (R222). -/
def loseOverdue (s : State) (core : Nat) : State :=
  let s1 := ((s.ops.filter (fun (p : Nat × Op) => p.2.core = core)).map (fun p => p.1)).foldl (fun s id =>
    match execAckLost id s with
    | .next t => t
    | _ => s) s
  let late := s1.mem.gaPend.filter (fun st => 2048 ≤ st.agent && decide (st.birth + 2 ^ 20 ≤ s1.cycle core) &&
    (if st.agent < 4096 then st.agent - 2048 else (s1.team (teamOfBarge (st.agent - 4097))).core) = core)
  late.foldl loseStore s1

end Sys2Proof.Machine
end

