-- ==== Sys2Proof/Machine/Pod.lean ====
section
/-! DEFINITION. Requests to peers (R357 to R363): pod addresses, stations and their flits, the parts of a remote access, the draining of
the write-combining buffer, and answers that wait for invalidations. -/

namespace Sys2Proof.Machine

open Sys2Proof

/-! ### Pod addresses (R15, R358) -/

/-- Stations of the package (R357). -/
def stationCount : Nat := 24

/-- A station carries transactions: it works, has a key for each direction, and a count left to send under (R359). -/
def Station.works (x : Station) : Bool := !x.down && decide (x.count < 2 ^ 63) && x.tx != 0 && x.rx != 0

/-- Working stations, in increasing number. -/
def workingStations (s : State) : List Nat := (rangeFrom 0 stationCount).filter (fun n => (s.station n).works)

/-- Something can come in (R357): the package has its identifier, and a station works. -/
def onPod (s : State) : Bool := s.fabric.podId.isSome && !(workingStations s).isEmpty

/-- The station by which requests to a line of a peer leave (R358): the bits of L are those of the line's byte address (log 53). -/
def stationFor (s : State) (peer line : Nat) : Option Nat :=
  let ws := workingStations s
  if ws.isEmpty then none else some (nth 0 ws ((peer ^^^ bits (128 * line) 7 12 ^^^ bits (128 * line) 19 12) % ws.length))

/-! ### Parts of an operation -/

/-- The physical address of a part that has been translated (64 parts; noted in `z`). -/
def Op.physOf (o : Op) (part : Nat) : Option Nat := (o.z.find? (fun x => x % 64 = part)).map (fun x => x / 64)

/-- A part fails (R219, R220). -/
def podFail (s : State) (id part va n cause : Nat) : State :=
  s.modOp id (fun o => { o with
    lostBytes := o.lostBytes + n, fail := some (o.noteFail { cause := cause, lane := part / 2, addr := va, write := o.storing }) })

/-- Parts of operation `id` that lie in a line of a peer. -/
def partsIn (o : Op) (peer line : Nat) : List (Nat × Nat × Nat) :=
  o.podParts.filter (fun p => match o.physOf p.1 with
    | some pa => peerOf pa = peer && podLine pa = line
    | none => false)

/-- Take an entry out of a buffer. -/
def dropEntry (s : State) (core : Nat) (e : WcEntry) : State := s.modCore core (fun c => { c with wc := c.wc.erase e })

/-! ### Sending (R358, R359) -/

/-- The 96-bit nonce of a flit: the station's link identifier, and the count of flits under the key (R359). -/
def flitNonce (station count : Nat) : Nat := (Config.linkId station).toNat * 2 ^ 64 + count

/-- A request of some bytes leaves by a station, in one flit or more. -/
def sendBy (s : State) (n bytes : Nat) (m : Flit → Message) : State :=
  (s.send (m { station := n, nonce := flitNonce n (s.station n).count })).modStation n (fun x =>
    { x with count := x.count + 1 + Config.moreFlits bytes })

/-- What the package sends to a peer that is no request to a line of memory of its own choice leaves by the station of line `line` (log 53);
nothing leaves where none works. -/
def sendTo (s : State) (peer line bytes : Nat) (m : Flit → Message) : State :=
  match stationFor s peer line with
  | none => s
  | some n => sendBy s n bytes m

/-! ### Check values (R221, R360) -/

/-- Check values of the 32-byte sectors that `size` bytes at `off` touch: each of the bytes carried there, the others zero (log 53). -/
def checksOf (off size data : Nat) : List Nat :=
  (rangeFrom (off / 32) ((off + size - 1) / 32 - off / 32 + 1)).map (fun k =>
    crc16 ((rangeFrom (32 * k) 32).map (fun a => if off ≤ a && a < off + size then BitVec.ofNat 8 (data / 2 ^ (8 * (a - off))) else 0#8)))

/-- Check values of the sectors of a line in which bytes of a mask stand. -/
def maskChecks (mask data : Nat) : List Nat :=
  ((rangeFrom 0 4).filter (fun k => bits mask (32 * k) 32 != 0)).map (fun k =>
    crc16 ((rangeFrom (32 * k) 32).map (fun i => if bitOf mask i then byteOf data i else 0#8)))

/-- A flit of a station has authenticated: failures before it are not in a row with later ones (R359). -/
def goodFlit (s : State) (n : Nat) : State := s.modStation n (fun x => { x with fails := 0 })

/-- A part of an operation goes to a line of a peer. -/
def Op.partAt (o : Op) (peer line part : Nat) : Bool :=
  match o.physOf part with
  | some pa => peerOf pa = peer && podLine pa = line
  | none => false

/-- Stations by which requests to a line, not retired yet, have left (R358). -/
def linesOut (s : State) (peer line : Nat) : List Nat :=
  s.cores.flatMap (fun (p : Nat × Core) => p.2.wc.filterMap (fun e => if e.peer = peer && e.line = line then e.via else none)) ++
    s.ops.flatMap (fun (p : Nat × Op) => if p.2.result.isSome then []
      else p.2.sentBy.filterMap (fun q => if p.2.partAt peer line q.1 && q.2 ≤ stationCount then some (q.2 - 1) else none))

/-- The station for a request to a line now: none that works, or held while an earlier request to the line is out by another one (R358). -/
def stationNow (s : State) (peer line : Nat) : Option (Option Nat) :=
  match stationFor s peer line with
  | none => some none
  | some n => if (linesOut s peer line).all (fun k => k = n) then some (some n) else none

/-- A cause fails what an entry carries, and the entry leaves the buffer. -/
def failEntry (s : State) (core : Nat) (e : WcEntry) (c : Nat) : State :=
  e.ops.foldl (fun s id =>
    if s.hasOp id then (partsIn (s.op id) e.peer e.line).foldl (fun s p => podFail s id p.1 p.2.1 p.2.2 c) s else s) (dropEntry s core e)

/-- An entry whose drain has started is sent as one write in its mode, by its line's station (R358, R363); without a working station it fails
(R360). What goes to the package itself is looped back (R19). -/
def sendEntry (core : Nat) (s : State) (e : WcEntry) : State :=
  if !e.draining || e.via.isSome || s.fabric.podId = some e.peer then s
  else
    match stationNow s e.peer e.line with
    | none => s
    | some none => failEntry s core e Cause.uncorrectable
    | some (some n) =>
      (sendBy s n 128 (fun f => .write f e.peer e.line e.mask e.data e.ga e.ops (maskChecks e.mask e.data))).modCore core (fun c =>
        { c with wc := c.wc.map (fun x => if x = e then { x with via := some n } else x) })

/-- The entries of a core that can be sent are sent. -/
def sendEntries (s : State) (core : Nat) : State := (s.core core).wc.foldl (sendEntry core) s

/-- Entries of a core's write-combining buffer start their drain (R363). -/
def drainEntries (s : State) (core : Nat) (sel : WcEntry → Bool) : State :=
  sendEntries (s.modCore core (fun c => { c with wc := c.wc.map (fun e => if sel e then { e with draining := true } else e) })) core

/-- A part of a remote load or atomic is asked for, by its line's station; one that no station carries fails (R358, R360). -/
def sendPart (id : Nat) (s : State) (p : Nat × Nat × Nat) : State :=
  let o := s.op id
  match o.physOf p.1 with
  | none => s
  | some pa =>
    if ownPeer s pa || Sparse.get 0 o.sentBy p.1 != 0 then s
    else
      let note := fun (s : State) (n : Nat) => s.modOp id (fun o => { o with sentBy := Sparse.insert o.sentBy p.1 n })
      match stationNow s (peerOf pa) (podLine pa) with
      | none => s
      | some none => note (podFail s id p.1 p.2.1 p.2.2 Cause.uncorrectable) (stationCount + 1)
      | some (some n) =>
        let i := p.1 / 2
        note (sendBy s n p.2.2 (fun f => if o.kind = .rld then .read f (peerOf pa) (podOffset pa) p.2.2
          else .atomic f (peerOf pa) (podOffset pa) (bits o.mods 0 3) (typeOf o.form 1) (Sparse.get 0 o.data i) (Sparse.get 0 o.cmp i) o.ga
            (checksOf (podOffset pa) p.2.2 (Sparse.get 0 o.data i)))) (n + 1)

/-- The parts of an operation that can be sent are sent. -/
def sendParts (s : State) (id : Nat) : State := if (s.op id).held then s else (s.op id).podParts.foldl (sendPart id) s

/-- A remote load or atomic of a core. -/
def Op.remote (o : Op) : Bool := o.kind = .rld || o.kind = .ratom

/-- Requests of a core that were held are sent once they can be (R358). -/
def sendHeld (s : State) (core : Nat) : State :=
  ((s.ops.filter (fun (p : Nat × Op) => p.2.core = core && p.2.remote && p.2.result.isNone)).map (fun p => p.1)).foldl sendParts (sendEntries s core)

/-- The stations that a finished request has been answered by (R359). -/
def goodFlits (s : State) (ns : List Nat) : State := ns.foldl goodFlit s

/-! ### Answers (R362) -/

/-- No copy is left to invalidate for a write of another package. -/
def podQuiet (s : State) (seq : Nat) : Bool := s.mem.invals.all (fun v => !(v.agent = podAgent && v.seq = seq))

/-- The station by which an answer leaves: that by which the request came, while it works, else the first that does (log 53). -/
def Answer.via (a : Answer) (s : State) : Option Nat :=
  if (s.station a.station).works then some a.station else (workingStations s).head?

/-- An answer leaves; with no station to carry it, it does not. -/
def sendAnswer (s : State) (a : Answer) : State :=
  match a.via s with
  | none => s
  | some n => sendBy s n a.size (fun f => .response f a.peer a.ok a.data (if a.size = 0 then [] else checksOf a.off a.size a.data))

/-- Answers to peers whose writes are performed at package scope leave (R227, R362). -/
def payOwed (s : State) : State :=
  let due := s.fabric.owed.filter (fun p => podQuiet s p.1)
  if due.isEmpty then s
  else due.foldl (fun s p => sendAnswer s p.2) (s.modFabric (fun f => { f with owed := f.owed.filter (fun p => !podQuiet s p.1) }))

end Sys2Proof.Machine
end

