-- ==== Sys2Proof/Machine/Order.lean ====
section
/-! DEFINITION. Order: what a release waits for (R233, R238), `fence`, `tfence` and `acqr` (R238 to R242), and the draining of the
write-combining buffer that `fence.rel.pod` starts (R363). -/

namespace Sys2Proof.Machine

open Sys2Proof

/-- An operation of the fabric that a release at pod scope waits for. -/
def Op.isFabric (o : Op) : Bool := o.kind = .put || o.kind = .rld || o.kind = .ratom || o.kind = .wcflush

/-- `release_done(g, sc)` (R238): what the group issued before number `upto` is performed at the scope; at system scope the host holds nothing
older either (R402). -/
def releaseDone (s : State) (grp upto sc : Nat) : Bool :=
  let core := coreOfGrp s grp
  decide (sc < 2) ||
  (coveredDone s grp upto &&
    (decide (sc < 4) ||
      (dieReleased s (dieOf core) upto &&
        s.mem.gaPend.all (fun st => !(st.seq < upto && (s.op st.op).hasParts && (s.op st.op).grp = grp)))) &&
    (decide (sc < 5) || hostReleased s upto) &&
    (decide (sc < 6) || s.ops.all (fun (p : Nat × Op) => !(p.1 < upto && p.2.grp = grp && p.2.isFabric && p.2.result.isNone))))

/-- Every load and atomic that the group issued before `upto`, of the classes that the scope covers, has its value (R236, R238). -/
def valuesFixed (s : State) (grp upto sc : Nat) : Bool :=
  s.ops.all (fun (p : Nat × Op) => !(p.1 < upto && p.2.grp = grp && p.2.hasParts && (p.2.atomic || !p.2.storing)) ||
    (p.2.left.isEmpty && p.2.valuesRead)) &&
  (decide (sc < 6) || s.ops.all (fun (p : Nat × Op) => !(p.1 < upto && p.2.grp = grp && p.2.remote) || p.2.result.isSome || p.2.x != 0))

/-- The fence may complete. -/
def Fence.done (x : Fence) (s : State) (grp : Nat) : Bool :=
  (!x.rel || releaseDone s grp x.upto x.scope) && (!x.acq || valuesFixed s grp x.upto x.scope)

/-- The fence of the path in hand, if it waits. -/
def State.myFence (s : State) : Option Fence := s.me.fences.find? (fun x => x.pc = s.sched.cur.pc)

/-- The path's fence no longer waits. -/
def Group.endFence (g : Group) (pc : Nat) : Group := { g with fences := g.fences.filter (fun x => x.pc != pc) }

/-- A fence that waits for nothing completes; otherwise it begins to wait (R238). -/
def fenceStep (s : State) (x : Fence) : State :=
  let grp := s.sched.cur.grp
  if x.done s grp then ((if x.rel then writeBack s x.scope else s).modGroup grp (fun g => g.endFence x.pc)).advance
  else if s.myFence.isSome then s
  else (s.modGroup grp (fun g => { g with fences := g.fences ++ [x] })).begins

/-- A path reaches a fence: a first time it fixes what the fence covers, later it looks whether that is done. -/
def fenceBy (scope : Nat) (rel acq holds : Bool) (s : State) : State :=
  match s.myFence with
  | some x => fenceStep s x
  | none =>
    let s1 := if rel && scope = 6 then drainEntries s s.myCore (fun _ => true) else s
    fenceStep s1 { pc := s.sched.cur.pc, scope := scope, rel := rel, acq := acq, upto := s.sched.nextId, holds := holds }

/-- `fence` (R238). -/
def execFence (f : ExtForm) (s : State) : Out :=
  let sc := bits f.mods.toNat 3 3
  let kind := bits f.mods.toNat 0 2
  s.instr f { bad := sc = 7 } (fun _ s => fenceBy sc (decide (2 ≤ kind)) (kind % 2 = 1) true s)

/-- `tfence` (R239): it blocks its own path alone; then the walkers of the scope discard the table memory they hold, and walks in
progress start anew. -/
def execTfence (f : ExtForm) (s : State) : Out :=
  let sc := bits f.mods.toNat 3 3
  s.access f { bad := sc != 4 && sc != 5 } (fun _ _ => []) (fun _ s =>
    let s1 := fenceBy sc true false false s
    if s1.myFence.isNone then s1.modXlat (fun x => { x with walk := [], walks := [] }) else s1)

/-- `acqr` (R240): a class-1 operation that reads once, at the lowest active lane's address. -/
def execAcqr (f : ExtForm) (s : State) : Out :=
  let sc := bits f.mods.toNat 3 3
  let size := accessSize 0x1D 2 f
  s.access f { d := dataWant (typeOf f 5) 0, a := baseWant 2, b := offWant, bad := !(2 ≤ sc && sc ≤ 4) }
    (fun act s => if act != 0#32 && globalCause 0x1D 2 size (s.addr64 f (low act)) != 0 then causeAll act Cause.misaligned else [])
    (fun act s => s.engineOp f
      { kind := .acqr, major := 0x1D, idx := 2, active := act, dests := rangeFrom f.d.toNat (wordsOfTy (typeOf f 5))
        addr := [(low act, s.addr64 f (low act))] })

end Sys2Proof.Machine
end

