-- ==== Sys2Proof/Machine/Tokens.lean ====
section
/-! DEFINITION. Token instructions (R175 to R178) and chamber instructions (R179 to R186, R418): majors 0x19 and 0x1A. -/

namespace Sys2Proof.Machine

open Sys2Proof

/-! ### Tokens -/

/-- A mask, count or byte operand of R175. -/
def countWant : Option Want := some { cls := clsS + clsC }

/-- A plain token number out of range is an illegal operand (R175). -/
def badToken (n : BitVec 11) : Bool := decide (16 ≤ n.toNat)

/-- Token `t` as the group's instructions name it: in a handler, a handler token (R317). -/
def State.myTok (s : State) (t : Nat) : Token := s.me.tok (inHandler s.me) t

/-- The alternate bit [29]: `.tol`, `.bo`, `.psn`. -/
def altMod (f : ExtForm) : Bool := bitOf f.mods.toNat 7

/-- Write a poison bit to a predicate (R176, R184). -/
def State.reportPoison (s : State) (act : Lanes) (f : ExtForm) (poison : Bool) : State :=
  (s.writeTruth act f.d.toNat (fun _ => poison)).advance

/-- `twait` (R176): it waits for the count, then reports or consumes the poison. -/
def execTwait (f : ExtForm) (s : State) : Out :=
  let tol := altMod f
  let t := f.a.toNat
  s.instr f { d := if tol then predDst else none, b := countWant, bad := badToken f.a } (fun act s =>
    let k := s.myTok t
    if s.opB f 5 (low act) < k.count then s
    else if tol then s.reportPoison act f k.poison
    else if k.poison then s.raise (causeAll act Cause.poisonConsumed) 0 (some (t, k.cause)) false
    else s.advance)

/-- `ttest` (R176). -/
def execTtest (f : ExtForm) (s : State) : Out :=
  s.instr f { d := fpDst 2, bad := badToken f.a } (fun act s =>
    (s.writeDest act (rangeFrom f.d.toNat 2) (fun _ => (s.myTok f.a.toNat).image)).advance)

/-- What a `tsleep` waits for (R176). -/
def sleepDone (g : Group) (m : Nat) (any : Bool) : Bool :=
  let h := inHandler g
  if any then (maskTokens m).any (fun t => (g.tok h t).count = 0) else (maskTokens m).all (fun t => (g.tok h t).count = 0)

/-- `tsleep` (R176): the whole group sleeps. -/
def execTsleep (f : ExtForm) (s : State) : Out :=
  let any := bitOf f.mods.toNat 0
  s.instr f { b := countWant } (fun act s =>
    let c := s.sched.cur
    let m := s.opB f 5 (low act) % 65536
    if m = 0 || sleepDone s.me m any then (s.modGroup c.grp (fun g => { g with sleep := none })).advance
    else if s.me.sleep = some (m, any, c.pc) then s
    else (s.modGroup c.grp (fun g => { g with sleep := some (m, any, c.pc) })).begins)

/-- `tjoin` (R178). -/
def execTjoin (f : ExtForm) (s : State) : Out :=
  s.instr f {} (fun act s =>
    let id := s.sched.nextId
    let s1 := s.engineOp f { kind := .tjoin, major := 0x19, idx := 4, active := act }
    if f.mask = 0 && s1.hasOp id then finishOp s1 id 0 none else s1)

/-- `tsig` (R178): it retires at once, behind older operations of its token. -/
def execTsig (f : ExtForm) (s : State) : Out :=
  s.instr f { b := countWant } (fun act s =>
    let id := s.sched.nextId
    let b := s.opB f 5 (low act)
    let s1 := s.engineOp f { kind := .tsig, major := 0x19, idx := 6, active := act }
    if s1.hasOp id then finishOp s1 id b (if altMod f then some { cause := Cause.signalled, valid := false } else none) else s1)

/-- The marks that `tclr` of a token clears (R178): those of the registers it covers, the handler's tokens apart. -/
def Group.unmarkToken (g : Group) (h : Bool) (t : Nat) : Group :=
  { g with marks := g.marks.filter (fun p => p.2 != (if h then t + 17 else t + 1)) }

/-- `tclr` of one idle token. -/
def Group.clearToken (g : Group) (h : Bool) (t : Nat) : Group :=
  (g.setTok h t { (g.tok h t) with poison := false, cause := 0, bytes := 0, cls := 0, tokf := 0 }).unmarkToken h t

/-- A token that a `tclr` need not wait for. -/
def Group.tokenIdle (g : Group) (h : Bool) (t : Nat) : Bool := (g.tok h t).count = 0 && !(g.tok h t).armed

/-- `tclr` (R178): token after token it waits until the token is idle and then clears it; those cleared before are not cleared again. -/
def execTclr (f : ExtForm) (s : State) : Out :=
  s.instr f { b := countWant } (fun act s =>
    let c := s.sched.cur
    let h := inHandler s.me
    let done := Sparse.get 0 s.me.clears c.pc
    let todo := (maskTokens (s.opB f 5 (low act) % 65536)).filter (fun t => !bitOf done t)
    let idle := todo.takeWhile (s.me.tokenIdle h)
    let s1 := s.modGroup c.grp (fun g => idle.foldl (fun g t => g.clearToken h t) g)
    if idle.length = todo.length then (s1.modGroup c.grp (fun g => { g with clears := Sparse.erase g.clears c.pc })).advance
    else if idle.isEmpty then s
    else
      (s1.modGroup c.grp (fun g => { g with clears := Sparse.set 0 g.clears c.pc (idle.foldl (fun m t => setBits m t 1 1) done) })).begins)

/-! ### Chamber addresses (R180, R183) -/

/-- Scope field [27:25]. -/
def scopeMod (f : ExtForm) : Nat := bits f.mods.toNat 3 3

/-- A scope no chamber has (R180). -/
def badChamberScope (sc : Nat) : Bool := !(sc = 1 || sc = 2 || sc = 4 || sc = 6)

/-- A chamber in a scratchpad has a 32-bit address. -/
def chamberBase (sc : Nat) : Option Want := baseWant (if sc ≤ 2 then 1 else 2)

/-- The address of the lowest active lane. -/
def State.chamberAddr (s : State) (f : ExtForm) (act : Lanes) : Nat :=
  if scopeMod f ≤ 2 then s.addr32 f (low act) else s.addr64 f (low act)

/-- What stops a chamber access at issue (R177, R183); 0 for nothing. -/
def chamberCause (s : State) (core team sc addr : Nat) (kind : AccessKind) : Nat :=
  if addr % 16 ≠ 0 then Cause.misaligned
  else
    match chamberAt s team sc addr with
    | none => Cause.scratchBound
    | some (.scr _ _) => 0
    | some (.glb va) =>
      match translate s core (s.launch (launchOfTeam team)).asid va kind with
      | .error c => c
      | .ok (t, s1) =>
        match placeOf s1 (launchOfTeam team) true t va 16 with
        | .bad c => c
        | _ => 0

/-- The agent of the group in hand. -/
def State.myAgent (s : State) : Agent := agentOn s s.myCore (launchOfGrp s.sched.cur.grp)

/-- A chamber instruction: its address is checked, then it acts on the chamber; a failing access traps (R418). -/
def chamberInstr (f : ExtForm) (u : Use) (kind : AccessKind) (s : State) (go : Lanes → State → ChamberAt → Acc Unit) : Out :=
  let sc := scopeMod f
  s.access f { u with a := chamberBase sc, bad := u.bad || badChamberScope sc }
    (fun act s =>
      let c := if act = 0#32 then 0
        else chamberCause s s.myCore (teamOf s.sched.cur.grp) sc (s.chamberAddr f act) kind
      if c = 0 then [] else causeAll act c)
    (fun act s =>
      match chamberAt s (teamOf s.sched.cur.grp) sc (s.chamberAddr f act) with
      | none => s
      | some at_ =>
        match go act s at_ with
        | .wait => s
        | .fail c _ => s.trapActive act c
        | .ok _ s1 => s1)

/-- The outcome of an access as the state it leads to. -/
def Acc.into {α β : Type} (r : Acc α) (k : α → State → Acc β) : Acc β :=
  match r with
  | .wait => .wait
  | .fail c a => .fail c a
  | .ok x s => k x s

/-! ### Tokens that export -/

/-- `texp` (R177): it waits while the token is armed, then arms it; the export is delivered when the count is 0. -/
def execTexp (f : ExtForm) (s : State) : Out :=
  let t := f.c.toNat
  chamberInstr f { b := offWant, bad := badToken f.c } 2 s (fun act s _ =>
    let g := s.sched.cur.grp
    let h := inHandler s.me
    let k := s.myTok t
    if k.armed then .wait
    else
      let s1 := s.modGroup g (fun g => g.setTok h t { k with armed := true, scope := scopeMod f, addr := s.chamberAddr f act })
      .ok () (tryExport s1.advance g h t))

/-! ### Chamber instructions (R184) -/

/-- The initialised chamber is in the list of those that a plain store would spoil (R181, log 16). -/
def noteChamber (s : State) (g : Agent) (at_ : ChamberAt) : State :=
  match chamberKey s g at_ with
  | some k => s.modMem (fun m => { m with spoiled := m.spoiled.filter (fun x => x / 2 != k) ++ [2 * k] })
  | none => s

/-- Earlier arrivals of the group at the chamber are on their way: its later chamber operations follow them (R226). -/
def arrivalsPending (s : State) (f : ExtForm) (act : Lanes) : Bool :=
  s.ops.any (fun (p : Nat × Op) => p.2.kind = .charr && p.2.grp = s.sched.cur.grp && scopeMod p.2.form = scopeMod f &&
    Sparse.get 0 p.2.addr 0 = s.chamberAddr f act)

/-- `chini` (R184). -/
def execChini (f : ExtForm) (s : State) : Out :=
  chamberInstr f { d := some { cls := clsV + clsS }, b := countWant, c := countWant, dRead := true } 1 s (fun act s at_ =>
    if arrivalsPending s f act then .wait else
    let n := s.opC f 5 (low act) % 65536
    let ch : Chamber := { arrivals := n, pending := n, expbytes := s.opD f 5 (low act), scope := chamberScope (scopeMod f) }
    (writeChamber s s.myAgent at_ ch).into (fun _ s1 => .ok () (noteChamber s1 s.myAgent at_).advance))

/-- `charr` (R184): an arrival is on its way; it is a release of the group's earlier accesses (R182). -/
def execCharr (f : ExtForm) (s : State) : Out :=
  chamberInstr f { b := countWant, c := some { cls := clsV + clsS + clsC } } 2 s (fun act s _ =>
    .ok () (s.newOp { kind := .charr, grp := s.sched.cur.grp, core := s.myCore, major := 0x1A, idx := 1, f := some f, active := act
                      addr := [(0, s.chamberAddr f act)], x := s.opC f 5 (low act), y := if altMod f then 0 else 1 }).advance)

/-- CHAMBER_ARRIVE (R181, R182, R418): the arrival of a `charr` is applied once the accesses it releases are performed and the
group's earlier arrivals at the chamber are applied; an arrival whose access fails is discarded. -/
def execChamberArrive (op : Nat) (s : State) : Out :=
  let o := s.op op
  let sc := scopeMod o.form
  if !(s.hasOp op && o.kind = .charr && releaseDone s o.grp op sc) ||
      s.ops.any (fun (p : Nat × Op) => p.1 < op && p.2.kind = .charr && p.2.grp = o.grp && p.2.addr = o.addr) then .next s
  else
    match chamberAt s (teamOf o.grp) sc (Sparse.get 0 o.addr 0) with
    | none => .next (s.dropOp op)
    | some at_ =>
      match arriveAt (writeBack s sc) (agentOn s o.core (launchOfGrp o.grp)) at_ o.y o.x false 0 sc with
      | .wait => .next s
      | .fail _ _ => .next (s.dropOp op)
      | .ok _ s1 => .next (s1.dropOp op)

/-- The phase a wait names: bit 0 of C. -/
def State.phaseOperand (s : State) (f : ExtForm) (act : Lanes) : Bool := s.opC f 5 (low act) % 2 = 1

/-- `chwait` (R184). -/
def execChwait (f : ExtForm) (s : State) : Out :=
  let tol := altMod f
  chamberInstr f { d := if tol then predDst else none, b := countWant, c := countWant } 0 s (fun act s at_ =>
    if arrivalsPending s f act then .wait else
    (readChamber s s.myAgent at_).into (fun ch s1 =>
      if ch.phase = s.phaseOperand f act then .wait
      else if chamberScope (scopeMod f) != ch.scope then .ok () (s1.trapActive act Cause.illegalOperand)
      else if tol then .ok () (s1.reportPoison act f ch.poison)
      else if ch.poison then .ok () (s1.trapActive act Cause.poisonConsumed)
      else .ok () s1.advance))

/-- `chtest` (R184). -/
def execChtest (f : ExtForm) (s : State) : Out :=
  chamberInstr f { d := predDst, b := countWant, c := countWant } 0 s (fun act s at_ =>
    if arrivalsPending s f act then .wait else
    (readChamber s s.myAgent at_).into (fun ch s1 =>
      .ok () (s1.writeTruth act f.d.toNat (fun _ => ch.phase != s.phaseOperand f act)).advance))

end Sys2Proof.Machine
end

