-- ==== Sys2Proof/Machine/Registers.lean ====
section
/-! DEFINITION. The full vector allotment (R46, R47, R105 to R110) and the special registers: `racq`, `rrel`, `srd`, `swr`
(majors 0x1E, 0x1F; R103, R108, R111, R144, R168, R185, R201, R205, R220, R292, R303, R305, R307, R340) and `pmrd` (R330). -/

namespace Sys2Proof.Machine

open Sys2Proof

/-! ### The register pool (R46, R47) -/

/-- Groups of a team whose `racq` waits. -/
def askingOf (s : State) (team : Nat) : List Nat := (groupsOf s team).filter (fun k => (s.group k).racq.isSome)

/-- The grant: registers above `v31` read zero, the group holds its full allotment, and the `racq` that waits completes (R105, R110). -/
def Group.granted (g : Group) : Group :=
  let g1 := { g with
    held := true, racq := none, v := g.v.filter (fun p => p.1 < 1024)
    marks := g.marks.filter (fun p => p.1 < 32 || 1536 ≤ p.1), latches := g.latches.filter (fun l => l.name < 32 || 1536 ≤ l.name) }
  match g.racq with
  | some (lanes, npc, hdr) => (g1.place lanes npc hdr).counted
  | none => g1

/-- First step of R47: one request of each team that holds nothing is granted from its spare; R110 dates the pool alone, and the spare that a
teammate's `rrel` frees may be used in the same cycle (log 84, the model's choice). -/
def grantSpare (s : State) (core : Nat) : State :=
  (runningTeams s core).foldl (fun s t =>
    if grantedOf s t = 0 then
      match oldest s (askingOf s t) with
      | some k => s.modGroup k Group.granted
      | none => s
    else s) s

/-- Second step of R47: the oldest request of the core is granted if the pool funds it. -/
def grantPool (s : State) (core : Nat) : State :=
  match oldest s ((runningTeams s core).flatMap (askingOf s)) with
  | some k => if spareOf s (teamOf k) ≤ pool s core then s.modGroup k Group.granted else s
  | none => s

/-- RACQ_GRANT (R47): the grants of one cycle of a core. -/
def execRacqGrant (core : Nat) (s : State) : Out := .next (grantPool (grantSpare s core) core)

/-- `racq` (R110): at once where the group holds its registers; else the request is entered, and a grant completes it. With F = 32 it completes
at once (R108), and held is set (log 84, the model's choice). -/
def acquire (f : ExtForm) (s : State) : Out :=
  s.instr f {} (fun _ s =>
    if s.me.held then s.advance
    else if s.myLaunch.full = 32 then (s.modGroup s.sched.cur.grp Group.granted).advance
    else
      let c := s.sched.cur
      (s.modGroup c.grp (fun g => { g with racq := some (c.lanes, c.npc, c.hdr) })).begins)

def execRacq (f : BaseForm) (s : State) : Out := acquire (f.toExt 0x1E 0) s

def execRacqX (f : ExtForm) (s : State) : Out := acquire f s

/-- `rrel` (R110): the group is blocked until nothing outstanding writes `v32` or above. -/
def relinquish (f : ExtForm) (s : State) : Out :=
  s.instr f {} (fun _ s =>
    let c := s.sched.cur
    if !s.me.held then s.advance
    else if (pendingRegs s c.grp).any (fun n => 32 ≤ n && n < 1536) then
      if s.me.rrelAt = some c.pc then s else (s.modGroup c.grp (fun g => { g with rrelAt := some c.pc })).begins
    else (noteReturned s.myCore s (s.modGroup c.grp (fun g => { g with
      held := false, rrelAt := none, v := g.v.filter (fun p => p.1 < 1024)
      marks := g.marks.filter (fun p => p.1 < 32 || 1536 ≤ p.1)
      latches := g.latches.filter (fun l => l.name < 32 || 1536 ≤ l.name) }))).advance)

def execRrel (f : BaseForm) (s : State) : Out := relinquish (f.toExt 0x1E 1) s

def execRrelX (f : ExtForm) (s : State) : Out := relinquish f s

/-! ### Reading special registers -/

/-- The core's place (R22): slot, row, column. -/
def physOf (core : Nat) : Nat := dieOf core * 128 + rowOf core * 16 + colOf core

/-- `reg.allot` (R108). -/
def allotImage (g : Group) (l : Launch) : Nat := (if g.held then 2 ^ 27 else 0) + l.full * 2 ^ 16 + g.allot l.full

/-- `flg.busy` (R168). -/
def busyImage (g : Group) : Nat := (rangeFrom 0 12).foldl (fun x i => if Sparse.get 0 g.flags i != 0 then x + 2 ^ i else x) 0

/-- A named barrier (R205). -/
def Barrier.image (b : Barrier) : Nat :=
  b.mask % 2 ^ 32 * 2 ^ 32 + bit b.phase * 2 ^ 16 + b.arrived % 64 * 2 ^ 8 + b.expected % 64

/-- A named barrier written whole. -/
def Barrier.ofImage (x : Nat) : Barrier := { mask := bits x 32 32, phase := bitOf x 16, arrived := bits x 8 6, expected := bits x 0 6 }

/-- `mx.stat` (R305). -/
def mxStat (s : State) (core team : Nat) : Nat :=
  let e := s.engine core
  bit s.mgmt.alarm * 2 ^ 15 + bit (e.holder = some team) * 2 ^ 14 +
    bit (e.zeroing || (e.holder.isSome && e.holder != some team)) * 2 ^ 13 + bit (e.nimages != 0) * 2 ^ 12 +
    e.queue.length % 16 * 2 ^ 8 + e.budget % 128

/-- `nm.slots` (R340). -/
def slotsImage (s : State) (team : Nat) : Nat :=
  (rangeFrom 0 16).foldl (fun x n => if (s.slot (16 * team + n)).configured then x + 2 ^ n else x) 0

/-- Width of a special register; none for a number no chapter assigns (R103). -/
def sregWidth (n : Nat) : Option Nat :=
  if n ≤ 8 then some 32
  else if n = 9 then some 64
  else if n < 64 then none
  else if n ≤ 70 then some 32
  else if n < 96 then none
  else if n < 160 then some 64
  else if n ≤ 173 then some 32
  else if n ≤ 176 then some 64
  else if n = 177 then some 32
  else if n < 192 then none
  else if n < 256 then some 64
  else none

/-- Identifiers of R27, numbers 0 to 7. -/
def idReg (s : State) (grp n lane : Nat) : Nat :=
  let l := s.launch (launchOfGrp grp)
  let t := gridTeamOf (teamOf grp)
  let size := l.w * l.h
  match n with
  | 0 => lane
  | 1 => idxOf grp
  | 2 => l.groups
  | 3 => t % size
  | 4 => l.h * 16 + l.w
  | 5 => t / size
  | 6 => l.clusters
  | _ => t

/-- `special_value` (R111) for a group. -/
def special (s : State) (grp n lane : Nat) : Nat :=
  let g := s.group grp
  let team := teamOf grp
  let l := s.launch (launchOfGrp grp)
  let core := coreOfGrp s grp
  let e := s.engine core
  if n ≤ 7 then idReg s grp n lane
  else if n = 8 then physOf core
  else if n = 9 then s.cycle core % 2 ^ 64
  else if n = 64 then allotImage g l
  else if n = 65 then g.live.toNat
  else if n = 66 then busyImage g
  else if n = 67 then l.scratch * 256
  else if n = 68 then l.lanepriv * 16
  else if n = 69 then dieBound s (launchOfGrp grp)
  else if n = 70 then slotsImage s team
  else if n < 112 then (g.tok false (n - 96)).image
  else if n < 128 then (g.tok false (n - 112)).exportImage
  else if n < 144 then (Sparse.get {} (s.team team).nbs (n - 128)).image
  else if n < 160 then (g.tok false (n - 144)).tokf
  else if n < 172 then (g.join (n - 160)).signed.toNat
  else if n = 172 then mxStat s core team
  else if n = 173 then e.budget
  else if n = 174 then e.stall
  else if n = 175 then e.zmiss
  else if n = 176 then e.zskip
  else if n = 177 then e.nimages
  else Sparse.get 0 e.images (n - 192)

/-- Registers of an operand as wide as a special register. -/
def sregWords (n : Nat) : Nat := if sregWidth n = some 64 then 2 else 1

/-- `srd` (R111). -/
def execSrd (f : ExtForm) (s : State) : Out :=
  let n := f.a.toNat
  s.compute f { d := some { cls := clsV + clsS, words := sregWords n }, bad := (sregWidth n).isNone } (sregWords n)
    (fun s _ i => special s s.sched.cur.grp n i)

/-- `pmrd` (R330). -/
def counterValue (s : State) (k : Nat) : Nat :=
  let c := s.core s.myCore
  let open_ := s.myLaunch.pmcore
  match k with
  | 0 => s.me.issued
  | 1 => s.me.resident
  | 2 => s.me.unselected
  | 3 => s.me.ineligible
  | 4 => if open_ then c.quadIssues else 0
  | 5 => if open_ then c.misses else 0
  | 6 => if open_ then c.bargeBytes else 0
  | _ => if open_ then c.mxSteps else 0

def execPmrd (f : ExtForm) (s : State) : Out :=
  s.compute f { d := fpDst 2, bad := decide (8 ≤ f.a.toNat) } 2 (fun s _ _ => counterValue s f.a.toNat % 2 ^ 64)

/-! ### Writing special registers (R111) -/

/-- The group in hand may write registers that only a handler writes. -/
def State.handlerNow (s : State) : Bool := inHandler s.me

/-- Fields of a `swr`: the operand stands in the destination field. -/
def swrUse (n : Nat) (bad : Bool) : Use :=
  { d := some { cls := clsS + clsC, words := sregWords n }, dRead := true, bad := bad }

/-- The value written. -/
def swrValue (s : State) (f : ExtForm) (act : Lanes) : Nat :=
  if sregWidth f.a.toNat = some 64 then s.opD f 4 (low act) else s.opD f 5 (low act)

/-- A `swr` that takes effect at once. -/
def swrBy (f : ExtForm) (bad : Bool) (s : State) (go : State → Nat → State) : Out :=
  s.instr f (swrUse f.a.toNat bad) (fun act s => (go s (swrValue s f act)).advance)

/-- A token's own table is written, whatever the handler uses (R185). -/
def State.setMyTok (s : State) (t : Nat) (f : Token → Token) : State :=
  s.modGroup s.sched.cur.grp (fun g => g.setTok false t (f (g.tok false t)))

/-- Doubleword `w` of a parked queue entry with its reserved bits zero (R5, R307). -/
def imageWord (w x : Nat) : Nat :=
  match w with
  | 0 => setBits (x % 2 ^ 64) 16 6 0
  | 1 => x % 2 ^ 64
  | 2 => x % 2 ^ 64
  | 3 => x % 2 ^ 64
  | 4 => x % 2 ^ 64
  | _ => 0

/-- `swr` of a named barrier, `tokf`, `mxsig` or a queue image (R205, R220, R292, R307): in a handler only. Every other register it
names is read-only or does not exist. -/
def writeSpecial (n : Nat) (s : State) (x : Nat) : State :=
  if n < 144 then s.modTeam (teamOf s.sched.cur.grp) (fun t => { t with nbs := Sparse.set {} t.nbs (n - 128) (Barrier.ofImage x) })
  else if n < 160 then s.setMyTok (n - 144) (fun k => { k with tokf := x % 2 ^ 64 })
  else if n < 172 then s.modJoin (n - 160) (fun j => { j with signed := BitVec.ofNat 32 x })
  else s.modEngine s.myCore (fun e => { e with images := Sparse.set 0 e.images (n - 192) (imageWord ((n - 192) % 8) x) })

def execSwr (f : ExtForm) (s : State) : Out :=
  let n := f.a.toNat
  let open_ := (128 ≤ n && n < 172) || (192 ≤ n && n < 256)
  swrBy f (!(open_ && s.handlerNow)) s (writeSpecial n)

/-- The image of R169 written: the armed bit is not (R185). -/
def Token.ofImage (k : Token) (x : Nat) : Token :=
  { k with bytes := bits x 32 32, cause := bits x 16 5, poison := bitOf x 15, cls := bits x 8 3, count := bits x 0 8 }

/-- `swr` of `tok.n` (R185). -/
def execSwrTok (f : ExtForm) (s : State) : Out :=
  let t := f.a.toNat - 96
  swrBy f (!s.handlerNow) s (fun s x => tryExport (s.setMyTok t (fun k => k.ofImage x)) s.sched.cur.grp false t)

/-- `swr` of `tokx.n` (R185): an export armed so is delivered as soon as the count is 0. -/
def execSwrTokx (f : ExtForm) (s : State) : Out :=
  let t := f.a.toNat - 112
  swrBy f (!s.handlerNow) s (fun s x =>
    tryExport (s.setMyTok t (fun k => { k with armed := bitOf x 63, scope := bits x 60 3, addr := bits x 0 57 })) s.sched.cur.grp false t)

/-- `swr` of `mx.budget` (R303): a value of 0 or above 64 changes nothing. -/
def execSwrMxBudget (f : ExtForm) (s : State) : Out :=
  swrBy f (!(s.handlerNow || s.myLaunch.priv)) s (fun s x =>
    let b := x % 128
    if b = 0 || 64 < b then s else s.modEngine s.myCore (fun e => { e with budget := b }))

/-- An entry of the parked queue loaded into the queue (R307); its group is the one that owned it (log 22). -/
def MxOp.ofImage (grp : Nat) (w : Nat → Nat) : MxOp :=
  let h := w 0
  { major := bits h 58 6, minor := bits h 50 8, mods := bits h 40 10, grp := grp, token := bits h 36 4, mask := bits h 0 16
    waits := waitTable (w 3) (w 4), shape := w 1, a := bits (w 2) 32 32, b := bits (w 2) 0 32
    started := bitOf h 22, kdone := bits h 24 12, mc := bitOf h 23 }

/-- Images `k` to `n - 1` enter the queue of a team's engine, each outstanding again in its token (R185, R307): a started one with the scale
set it had (R299). -/
def loadQueue (core teamKey self : Nat) : Nat → Nat → State → State
  | 0, _, s => s
  | n + 1, k, s =>
    let e := s.engine core
    let team := s.team teamKey
    let o := nth (idxOf self) team.mxOwners k
    let grp := 32 * teamKey + o % 32
    let q := MxOp.ofImage grp (fun w => Sparse.get 0 e.images (8 * k + w))
    let id := s.sched.nextId
    let s1 := s.refill { kind := .matrix, grp := grp, core := core, major := q.major, idx := q.minor % 16, tok := some q.token, x := o / 32
                         mask := q.mask, waits := q.waits }
    loadQueue core teamKey self n (k + 1) (s1.modEngine core (fun e => { e with queue := e.queue ++
      [{ q with op := id, lane := o / 32, scales := if q.started then nth none team.mxScales k else none
                pre := preOf (s.group grp) false q.mask q.waits none }] }))

/-- `swr` of `mx.q` (R307): 1 to 8 loads the images into the empty queue of the team's engine, 0 discards them. -/
def execSwrMxQ (f : ExtForm) (s : State) : Out :=
  let n := fun (act : Lanes) (s : State) => swrValue s f act % 16
  s.checked f (swrUse 177 (!s.handlerNow))
    (fun act s =>
      let e := s.engine s.myCore
      let fits := e.holder = some (teamOf s.sched.cur.grp) && e.queue.isEmpty && decide (n act s ≤ 8)
      if act = 0#32 || n act s = 0 || fits then [] else causeAll act Cause.illegalOperand)
    (fun act s =>
      let grp := s.sched.cur.grp
      let team := teamOf grp
      (if act = 0#32 then s
      else if n act s = 0 then s.modEngine s.myCore (fun e => { e with images := [], nimages := 0, parked := [] })
      else (loadQueue s.myCore team grp (n act s) 0 s).modEngine s.myCore (fun e => { e with images := [], nimages := 0, parked := [] })).advance)

end Sys2Proof.Machine
end

