-- ==== Sys2Proof/Machine/Sync.lean ====
section
/-! DEFINITION. Named barriers (R202 to R205), semaphores (R206 to R209), `csync`, `gsync` (R327, R329) and `icinv` (R328). -/

namespace Sys2Proof.Machine

open Sys2Proof

/-! ### Named barriers -/

def Team.nb (t : Team) (k : Nat) : Barrier := Sparse.get {} t.nbs k

def State.setNb (s : State) (team k : Nat) (b : Barrier) : State := s.modTeam team (fun t => { t with nbs := Sparse.set {} t.nbs k b })

/-- `arrive` (R204): none where the count is unlike the expected one. A barge has no mask bit. -/
def Barrier.arrive (b : Barrier) (member : Option Nat) (n : Nat) : Option Barrier :=
  match member with
  | some g =>
    if bitOf b.mask g then some b
    else if b.expected != 0 && n != b.expected then none
    else some { b with expected := n, mask := setBits b.mask g 1 1, arrived := b.arrived + 1 }
  | none => if b.expected != 0 && n != b.expected then none else some { b with expected := n, arrived := b.arrived + 1 }

/-- Members a barrier of the team may count (R203). -/
def maxMembers (l : Launch) : Nat := l.groups + l.barges

/-- Fields of a barrier instruction (R203). -/
def nbUse (f : ExtForm) (counted : Bool) : Use :=
  { b := if counted then countWant else none, bad := decide (16 ≤ f.a.toNat) }

/-- A barrier count out of range (R203). -/
def nbOutside (f : ExtForm) (act : Lanes) (s : State) : Bool :=
  let n := s.opB f 5 (low act)
  n = 0 || decide (maxMembers s.myLaunch < n)

/-- An arrival with a count unlike the expected one (R204). -/
def nbUnlike (f : ExtForm) (act : Lanes) (s : State) : Bool :=
  (((s.team (teamOf s.sched.cur.grp)).nb f.a.toNat).arrive (some (idxOf s.sched.cur.grp)) (s.opB f 5 (low act))).isNone

/-- A barrier count that is out of range, or unlike the expected one, is an illegal operand (R203, R204). -/
def nbCause (f : ExtForm) (act : Lanes) (s : State) : Sparse Nat :=
  if act != 0#32 && (nbOutside f act s || nbUnlike f act s) then causeAll act Cause.illegalOperand else []

/-- The same of an `nbsync`: one that does not arrive again (R205) has its count's range checked alone, and one whose wait has begun
has passed its checks. -/
def nbsyncCause (f : ExtForm) (waits : Bool) (act : Lanes) (s : State) : Sparse Nat :=
  if waits then []
  else if bitOf s.me.nbpend f.a.toNat then (if act != 0#32 && nbOutside f act s then causeAll act Cause.illegalOperand else [])
  else nbCause f act s

/-- The group in hand arrives. -/
def State.arriveNb (s : State) (k n : Nat) : State :=
  let team := teamOf s.sched.cur.grp
  let b := (s.team team).nb k
  s.setNb team k ((b.arrive (some (idxOf s.sched.cur.grp)) n).getD b)

/-- `nbarr` (R204). -/
def execNbarr (f : ExtForm) (s : State) : Out :=
  s.checked f (nbUse f true) (nbCause f) (fun act s =>
    if act = 0#32 then s.advance else (s.arriveNb f.a.toNat (s.opB f 5 (low act))).advance)

/-- The wait of the path in hand at a barrier, if it has begun. -/
def State.myNbWait (s : State) (k : Nat) : Option (Nat × Nat × Bool) :=
  s.me.nbWaits.find? (fun w => w.1 = s.sched.cur.pc && w.2.1 = k)

/-- The path begins to wait. -/
def State.beginNb (s : State) (k : Nat) : State :=
  (s.modGroup s.sched.cur.grp (fun g => { g with nbWaits := g.nbWaits ++ [(s.sched.cur.pc, k, false)] })).begins

/-- The path's wait is over. -/
def State.endNb (s : State) : State :=
  s.modGroup s.sched.cur.grp (fun g => { g with nbWaits := g.nbWaits.filter (fun w => w.1 != s.sched.cur.pc) })

/-- `nbwait` (R204): it waits for the phase in which the group has arrived. -/
def execNbwait (f : ExtForm) (s : State) : Out :=
  let k := f.a.toNat
  s.instr f (nbUse f false) (fun _ s =>
    match s.myNbWait k with
    | some w => if w.2.2 then s.endNb.advance else s
    | none =>
      if bitOf ((s.team (teamOf s.sched.cur.grp)).nb k).mask (idxOf s.sched.cur.grp) then s.beginNb k else s.advance)

/-- The pend and pph bits of an `nbsync` (R204). -/
def Group.setPend (g : Group) (k : Nat) (pend ph : Bool) : Group :=
  { g with nbpend := setBits g.nbpend k 1 (bit pend), nbph := setBits g.nbph k 1 (bit ph) }

/-- `nbsync` (R204): an arrival that a halt has interrupted is not made again (R205). -/
def execNbsync (f : ExtForm) (s : State) : Out :=
  let k := f.a.toNat
  let grp := s.sched.cur.grp
  s.checked f (nbUse f true) (fun act s => nbsyncCause f (s.myNbWait k).isSome act s) (fun act s =>
    if act = 0#32 then s.advance
    else
      let done := fun (s : State) => ((s.modGroup grp (fun g => g.setPend k false (bitOf g.nbph k))).endNb).advance
      let ph := ((s.team (teamOf grp)).nb k).phase
      match s.myNbWait k with
      | some w => if w.2.2 then done s else s
      | none =>
        if bitOf s.me.nbpend k then (if ph != bitOf s.me.nbph k then done s else s.beginNb k)
        else ((s.arriveNb k (s.opB f 5 (low act))).modGroup grp (fun g => g.setPend k true ph)).beginNb k)

/-- `settle_nb` (R204): the phase flips, and who waits goes on, barges among them (R281). -/
def settleNb (s : State) (team k : Nat) : State :=
  let b := (s.team team).nb k
  if b.expected != 0 && b.arrived = b.expected then
    let s1 := s.setNb team k { phase := !b.phase }
    let s2 := (groupsOf s1 team).foldl (fun s g => s.modGroup g (fun g => { g with
      nbWaits := g.nbWaits.map (fun w => if w.2.1 = k then (w.1, k, true) else w) })) s1
    (bargesOf team).foldl (fun s b => if (s.barge b).nbWait = some (k, false) then s.modBarge b (fun x => { x with nbWait := some (k, true) }) else s) s2
  else s

/-- Every barrier of a team at the end of a cycle. -/
def settleBarriers (s : State) (team : Nat) : State := (rangeFrom 0 16).foldl (fun s k => settleNb s team k) s

/-! ### Semaphores -/

/-- A semaphore operand (R207). -/
def semWant : Option Want := some { cls := clsS + clsC }

/-- Semaphore of a core. -/
def State.sem (s : State) (core k : Nat) : Nat := Sparse.get 0 (s.core core).sems k

def State.setSem (s : State) (core k x : Nat) : State := s.modCore core (fun c => { c with sems := Sparse.set 0 c.sems k x })

/-- The semaphore index of the lowest active lane is out of range. -/
def semCause (f : ExtForm) (act : Lanes) (s : State) : Sparse Nat :=
  if act != 0#32 && decide (32 ≤ s.opA f 5 (low act)) then causeAll act Cause.illegalOperand else []

/-- `sinc` (R208): performed at issue. -/
def increment (f : ExtForm) (s : State) : Out :=
  s.checked f { a := semWant, b := semWant } (semCause f) (fun act s =>
    if act = 0#32 then s.advance
    else
      let k := s.opA f 5 (low act)
      (s.setSem s.myCore k ((s.sem s.myCore k + s.opB f 5 (low act)) % 2 ^ 32)).advance)

def execSinc (f : BaseForm) (s : State) : Out := increment (f.toExt 0x1C 0) s

def execSincX (f : ExtForm) (s : State) : Out := increment f s

/-- The queue of a semaphore. -/
def State.semQueue (s : State) (core k : Nat) : List Waiter := Sparse.get [] (s.core core).semQueues k

/-- A waiter joins at the back, unless it is there. -/
def State.joinSem (s : State) (core k : Nat) (w : Waiter) : State :=
  if w ∈ s.semQueue core k then s
  else s.modCore core (fun c => { c with semQueues := Sparse.set [] c.semQueues k (Sparse.get [] c.semQueues k ++ [w]) })

/-- A waiter leaves. -/
def State.leaveSem (s : State) (core k : Nat) (w : Waiter) : State :=
  s.modCore core (fun c => { c with semQueues := Sparse.set [] c.semQueues k ((Sparse.get [] c.semQueues k).filter (fun x => x != w)) })

/-- The path in hand no longer waits at a semaphore. -/
def State.endSem (s : State) : State :=
  let c := s.sched.cur
  let ks := s.me.semWaits.filter (fun w => w.2 = c.pc)
  let s1 := ks.foldl (fun s w => s.leaveSem s.myCore w.1 (.path c.grp c.pc)) s
  s1.modGroup c.grp (fun g => { g with semWaits := g.semWaits.filter (fun w => w.2 != c.pc) })

/-- `swait` (R208): it joins the queue, and passes at the head once the count suffices; amount 0 passes at once. -/
def waitSem (f : ExtForm) (s : State) : Out :=
  s.checked f { a := semWant, b := semWant } (semCause f) (fun act s =>
    if act = 0#32 then s.endSem.advance
    else
      let c := s.sched.cur
      let k := s.opA f 5 (low act)
      let b := s.opB f 5 (low act)
      let me : Waiter := .path c.grp c.pc
      let s1 := s.joinSem s.myCore k me
      let s2 := if (k, c.pc) ∈ s.me.semWaits then s1
        else s1.modGroup c.grp (fun g => { g with semWaits := g.semWaits ++ [(k, c.pc)] })
      if b = 0 then s.endSem.advance
      else if (s2.semQueue s.myCore k).head? = some me && decide (b ≤ s2.sem s.myCore k) then
        ((s2.setSem s.myCore k (s2.sem s.myCore k - b)).endSem).advance
      else if (k, c.pc) ∈ s.me.semWaits then s2
      else s2.begins)

def execSwait (f : BaseForm) (s : State) : Out := waitSem (f.toExt 0x1C 1) s

def execSwaitX (f : ExtForm) (s : State) : Out := waitSem f s

/-- `sread` (R208). -/
def readSem (f : ExtForm) (s : State) : Out :=
  s.checked f { d := some { cls := clsV + clsS }, a := semWant } (semCause f) (fun act s =>
    let x := s.sem s.myCore (s.opA f 5 (low act))
    (s.writeDest act [f.d.toNat] (fun _ => x)).advance)

def execSread (f : BaseForm) (s : State) : Out := readSem (f.toExt 0x1C 2) s

def execSreadX (f : ExtForm) (s : State) : Out := readSem f s

/-! ### `csync` and `gsync` -/

/-- Words fetched and not issued are discarded (R327). -/
def Group.refetch (g : Group) : Group := { g with fetched := [] }

/-- The generation that the path in hand waits for. -/
def State.myGenWait (s : State) : Option Nat := (s.me.genWaits.find? (fun w => w.1 = s.sched.cur.pc)).map (fun w => w.2)

/-- The path in hand waits for a generation. -/
def Group.awaitGen (g : Group) (pc n : Nat) : Group := { g with genWaits := (pc, n) :: g.genWaits.filter (fun w => w.1 != pc) }

/-- Its wait is over. -/
def Group.endGen (g : Group) (pc : Nat) : Group := { g with genWaits := g.genWaits.filter (fun w => w.1 != pc) }

/-- `csync` and `csync.team` (R327): when a path gets here every earlier `swr` has taken effect and every earlier instruction has
issued. -/
def execCsync (f : ExtForm) (s : State) : Out :=
  let team := bitOf f.mods.toNat 0
  let c := s.sched.cur
  s.checked f {} (fun act s => if team && act != 0#32 && !inHandler s.me then causeAll act Cause.permission else [])
    (fun act s =>
      if act = 0#32 then s.advance
      else
        let s1 := s.modGroup c.grp Group.refetch
        let e := (s.team (teamOf c.grp)).csEpoch
        if !team then s1.advance
        else
          match s.myGenWait with
          | some n => if n ≤ e then (s1.modGroup c.grp (fun g => g.endGen c.pc)).advance else s1
          | none =>
            let n := if s.me.csGen = e then e + 1 else s.me.csGen
            (s1.modGroup c.grp (fun g => { g with csGen := n }.awaitGen c.pc n)).begins)

/-- The team-wide barrier completes once every live group has issued it (R327). -/
def settleCsync (s : State) (team : Nat) : State :=
  let gs := liveGroupsOf s team
  let e := (s.team team).csEpoch
  if !gs.isEmpty && gs.all (fun k => (s.group k).csGen = e + 1) then s.modTeam team (fun t => { t with csEpoch := e + 1 }) else s

/-- The grid barrier at the end of a cycle (R329). -/
def settleGrid (s : State) (launch : Nat) : State :=
  let l := s.launch launch
  let n := liveGroups s launch
  if l.gridsync && n != 0 && l.count = n then s.modLaunch launch (fun l => { l with epoch := l.epoch + 1, count := 0 }) else s

/-- A `gsync` that finds its group not yet arrived releases at package scope, then arrives (R329). -/
def arriveGrid (s : State) : State :=
  let c := s.sched.cur
  match s.myFence with
  | some x =>
    if !x.done s c.grp then s
    else
      let s1 := (s.modGroup c.grp (fun g => { g.endFence c.pc with gen := g.gen + 1 }.awaitGen c.pc (g.gen + 1))).begins
      s1.modLaunch (launchOfGrp c.grp) (fun l => { l with count := l.count + 1 })
  | none =>
    let x : Fence := { pc := c.pc, scope := 4, rel := true, acq := false, upto := s.sched.nextId }
    (s.modGroup c.grp (fun g => { g with fences := g.fences ++ [x] })).begins

/-- `gsync` (R329). -/
def execGsync (f : ExtForm) (s : State) : Out :=
  let c := s.sched.cur
  s.checked f {} (fun act s => if act != 0#32 && !s.myLaunch.gridsync then causeAll act Cause.gridBarrier else [])
    (fun act s =>
      if act = 0#32 then s.advance
      else
        match s.myGenWait with
        | some n => if n ≤ s.myLaunch.epoch then (s.modGroup c.grp (fun g => g.endGen c.pc)).advance else s
        | none =>
          if s.me.gen = s.myLaunch.epoch then arriveGrid s
          else (s.modGroup c.grp (fun g => (g.endFence c.pc).awaitGen c.pc g.gen)).begins)

/-! ### `icinv` (R328) -/

/-- Fields of `icinv`. -/
def icinvUse (f : ExtForm) : Use :=
  { a := baseWant 2, b := countWant, bad := !(scopeMod f = 1 || scopeMod f = 3 || scopeMod f = 4) }

/-- `icinv` (R328): the discards are on their way. -/
def execIcinv (f : ExtForm) (s : State) : Out :=
  s.access f (icinvUse f) (fun _ _ => []) (fun act s =>
    let b := s.opB f 5 (low act)
    s.engineOp f (Op.ofTwo { kind := .icinv, major := 0x27, idx := 4, active := act } (s.opA f 4 (low act)) b))

/-! ### `tlbinv` and `biasset` (R249, R401) -/

/-- The group may run privileged instructions. -/
def State.privilegedNow (s : State) : Bool := inHandler s.me || s.myLaunch.priv

/-- Causes of a privileged instruction: permission before its own. -/
def privCause (act : Lanes) (s : State) (own : Nat) : Sparse Nat :=
  if act = 0#32 then []
  else if !s.privilegedNow then causeAll act Cause.permission
  else if own ≠ 0 then causeAll act own
  else []

/-- `tlbinv` (R249): in a handler or a launch of a privileged queue. -/
def execTlbinv (f : ExtForm) (s : State) : Out :=
  let kind := bits f.mods.toNat 0 2
  s.access f { a := if kind = 2 then baseWant 2 else none, b := if kind = 0 then none else countWant } (fun act s => privCause act s 0)
    (fun act s => s.engineOp f (Op.ofTwo { kind := .tlbinv, major := 0x27, idx := 5, active := act }
      (if kind = 2 then s.opA f 4 (low act) else 0) (if kind = 0 then 0 else s.opB f 5 (low act))))

/-- `biasset` (R401). -/
def execBiasset (f : ExtForm) (s : State) : Out :=
  s.access f { a := baseWant 2, b := countWant }
    (fun act s =>
      let n := s.opB f 5 (low act)
      privCause act s (if s.opA f 4 (low act) % 4096 ≠ 0 then Cause.misaligned
        else if n = 0 || 4096 < n then Cause.illegalOperand else 0))
    (fun act s => s.engineOp f
      (Op.ofTwo { kind := .bias, major := 0x27, idx := 6, active := act } (s.opA f 4 (low act)) (s.opB f 5 (low act))))

end Sys2Proof.Machine
end

