-- ==== Sys2Proof/Machine/Frontier.lean ====
section
/-! DEFINITION. The frontier of a group (R138 to R143): its entries in rank order, the words its paths fetch, the clause headers
before an instruction (R89, R90), and which entries issue alone. -/

namespace Sys2Proof.Machine

open Sys2Proof

/-! ### Entries -/

/-- Lanes parked at an `mwait`. -/
def Group.parkedLanes (g : Group) : Lanes := g.joins.foldl (fun m p => m ||| p.2.parked) 0#32

/-- Lanes on the frontier. -/
def Group.onFrontier (g : Group) : Lanes := g.live &&& ~~~g.parkedLanes

/-- Lanes of the entry at an address. -/
def Group.entryLanes (g : Group) (pc : Nat) : Lanes := Lanes.ofFn (fun i => g.onFrontier.getLsbD i && decide (g.pc i = pc))

/-- The header whose priority an entry has (R138): that of a lane inside its clause, where there is one. -/
def headerFor (s : State) (grp pc : Nat) : Nat :=
  let g := s.group grp
  let ls := g.entryLanes pc
  laneHeader s grp (((ls &&& ~~~g.need).lowest).getD (low ls))

/-- Block priority of the lanes at an address (R138). -/
def priorityAt (s : State) (grp pc : Nat) : Nat := bits (headerFor s grp pc) 28 4

/-- Put an entry in its rank (R139): higher priority first, then the lower address. -/
def rankInto (e : Nat × Nat) : List (Nat × Nat) → List (Nat × Nat)
  | [] => [e]
  | x :: xs => if x.1 < e.1 || (x.1 = e.1 && e.2 < x.2) then e :: x :: xs else x :: rankInto e xs

/-- Addresses of the entries of a group, ranked. -/
def frontier (s : State) (grp : Nat) : List Nat :=
  let g := s.group grp
  let pcs := (g.onFrontier.toList.map g.pc).eraseDups
  ((pcs.map (fun pc => (priorityAt s grp pc, pc))).foldl (fun l e => rankInto e l) []).map (fun e => e.2)

/-! ### What stands at an entry -/

/-- Flags that a header's wait mask names and that were not clear at the start of the cycle (R165), as a mask. -/
def unmet (g : Group) (w : Nat) : Nat :=
  (rangeFrom 0 12).foldl (fun m i => if bitOf w (8 + i) && Sparse.get 0 g.flags0 i != 0 then m + 2 ^ i else m) 0

/-- What an entry finds at its address. -/
inductive Look where
  /-- it waits: for a fetch, or for the flags of a mask -/
  | wait (flags : Nat)
  /-- a cause, raised with the counters at an address, under a header -/
  | stop (cause pc hdr : Nat) (s : State)
  /-- an instruction at an address, under a header, with its first word -/
  | ready (pc hdr word : Nat) (s : State)

/-- A cause or an instruction comes after the wait masks of the headers before it (R142). -/
def Look.after (flags : Nat) (l : Look) : Look := if flags = 0 then l else .wait flags

/-- Headers in a run are consumed together with the instruction after them, once the wait mask of every one is satisfied (R142);
`flags` are those found unmet so far. -/
def runHeaders (grp : Nat) : Nat → State → Nat → Nat → Nat → Look
  | 0, _, _, _, flags => .wait flags
  | fuel + 1, s, va, hdr, flags =>
    match fetchPath s grp va with
    | .error c => if c = 0 then .wait flags else (Look.stop c va hdr s).after flags
    | .ok (w, s1) =>
      let b := BitVec.ofNat 32 w
      if !isHeader b then (Look.ready va hdr w s1).after flags
      else if headerBad b then (Look.stop Cause.illegalInstruction va hdr s1).after flags
      else runHeaders grp fuel s1 (va + 4) w (flags ||| unmet (s.group grp) w)

/-- Headers one run may hold: as many as there are words (R243). -/
def headerFuel : Nat := 2 ^ 57

/-- The entry at an address looks for its instruction. -/
def lookAt (s : State) (grp pc : Nat) : Look :=
  runHeaders grp headerFuel s pc ((s.group grp).hdr (low ((s.group grp).entryLanes pc))) 0

/-- The further words of an instruction. -/
def fetchWords (grp : Nat) : Nat → State → Nat → Except Nat (List Nat × State)
  | 0, s, _ => .ok ([], s)
  | n + 1, s, va =>
    match fetchPath s grp va with
    | .error c => .error c
    | .ok (w, s1) =>
      match fetchWords grp n s1 (va + 4) with
      | .error c => .error c
      | .ok (ws, s2) => .ok (w :: ws, s2)

/-- Those further words that can be fetched, up to the first one that cannot. -/
def prefixWords (grp : Nat) : Nat → State → Nat → List (BitVec 32)
  | 0, _, _ => []
  | n + 1, s, va =>
    match fetchPath s grp va with
    | .error _ => []
    | .ok (w, s1) => BitVec.ofNat 32 w :: prefixWords grp n s1 (va + 4)

/-- The encoding a path finds at an instruction's address, or why not: none where the words are no instruction (R97), be it by those that
can be fetched, whatever follows them (R170: illegal instruction comes before what keeps a word from being fetched). -/
def instrAt (s : State) (grp va word : Nat) : Except Nat (Option Enc × State) :=
  let n := wordsOf (BitVec.ofNat 32 word) - 1
  match fetchWords grp n s (va + 4) with
  | .error c => if prefixBad (BitVec.ofNat 32 word) (prefixWords grp n s (va + 4)) then .ok (none, s) else .error c
  | .ok (ws, s1) =>
    let w := fun (k : Nat) => BitVec.ofNat 32 (nth 0 ws k)
    match decodeWords (BitVec.ofNat 32 word) (w 0) (w 1) (w 2) (w 3) with
    | .ok e => .ok (some e, s1)
    | .error _ => .ok (none, s1)

/-! ### Issuing alone (R109, R141, R148, R155) -/

/-- A matrix issue that names no signed mask (R155, R291). -/
def forcedMatrix (major : Nat) (f : ExtForm) : Bool := (major = 0x22 || major = 0x23) && f.d = 1671#11

/-- The instruction issues alone. -/
def Enc.alone (e : Enc) : Bool :=
  match e with
  | .base major idx _ => major = 0x11 || (major = 0x1E && idx < 2)
  | .ext major idx f => major = 0x11 || (major = 0x1E && idx < 2) || forcedMatrix major f
  | _ => false

/-- The name of a join mask (R91). -/
def isMaskName (n : BitVec 11) : Bool := decide (1672 ≤ n.toNat) && decide (n.toNat < 1684)

/-- An `mwait` whose mask is held at another site, or a matrix issue whose lanes are not all there: the entry is not eligible
(R140, R155). -/
def Enc.barred (e : Enc) (g : Group) (va : Nat) (lanes : Lanes) : Bool :=
  match e with
  | .ext major idx f =>
    (major = 0x11 && idx = 2 && isMaskName f.a && (match (g.join (maskNo f.a)).site with
      | some p => p != va
      | none => false)) || (forcedMatrix major f && lanes != g.live)
  | _ => false

/-! ### Operand latches (R112) -/

/-- The type in force of an instruction by its encoding (R86). -/
def encType (major idx : Nat) (f : ExtForm) : Nat :=
  match opSpec major idx f.ty.toNat f.mods.toNat false with
  | some p => typeOf f (p.types.headD 0)
  | none => 0

/-- Source A is an address of 57 bits, a pair of registers. -/
def farBase (major idx : Nat) (f : ExtForm) : Bool :=
  (major = 0x10 && (idx = 1 || idx = 3)) || major = 0x17 || major = 0x18 || (major = 0x19 && 2 < scopeMod f) ||
    (major = 0x1A && 2 < scopeMod f) || major = 0x1D || (major = 0x20 && idx = 0) || (major = 0x25 && idx < 3) ||
    (major = 0x26 && idx = 0) || (major = 0x27 && 4 ≤ idx)

/-- Source A takes the width of the type. -/
def typedA (major : Nat) : Bool := major ≤ 0x0F && major != 0x0C

/-- Registers that source A and source B take. -/
def sourceWords (major idx : Nat) (f : ExtForm) : Nat × Nat :=
  let w := wordsOfTy (encType major idx f)
  (if farBase major idx f then 2 else if major = 0x0B && idx = 0 then wordsOfTy (cvtSource f)
    else if typedA major || (major = 0x0C && idx = 1) then w else 1,
   if major ∈ [1, 2, 4, 6, 9, 10] || (major = 5 && idx = 1) || (major = 7 && idx = 0) then w else 1)

/-- What an entry's latches take of an instruction that it issues: the sources that it reads from the register file, which are `v` and `s` names
(R112; log 12, the model's choice). -/
def latchesOf (major idx : Nat) (f : ExtForm) (g : Group) (lanes : Lanes) : List Latch :=
  let fields := match opSpec major idx f.ty.toNat f.mods.toNat false with
    | some p => p.fields
    | none => 0
  let plain := (major = 0x19 && idx < 2) || major = 0x1B || major = 0x1F || major = 0x28
  let take := fun (second : Bool) (n words : Nat) =>
    let x : Latch := { lanes := lanes, second := second, name := n, words := words
                       vals := lanes.toList.map (fun i => (i, g.read (if words = 2 then 4 else 5) n i)) }
    if n < 1600 then [x] else []
  let w := sourceWords major idx f
  (if bitOf fields 2 && !plain then take false f.a.toNat w.1 else []) ++
    (if bitOf fields 1 && f.lit.isNone then take true f.b.toNat w.2 else [])

/-- An entry's instruction reads its sources: the fields it reads from the register file take the new values. -/
def Enc.latch (e : Enc) (lanes : Lanes) (g : Group) : Group :=
  let ls := match e with
    | .base major idx f => latchesOf major idx (f.toExt major idx) g lanes
    | .ext major idx f => latchesOf major idx f g lanes
    | _ => []
  { g with latches := g.latches.filter (fun l => l.lanes != lanes || ls.all (fun x => x.second != l.second)) ++ ls }

/-- Latches stay with entries that neither merge nor split (R112, R139). -/
def Group.keepLatches (g : Group) : Group :=
  { g with latches := g.latches.filter (fun l => decide (g.entryLanes (g.pc (low l.lanes)) = l.lanes)) }

/-- A clause begins: the entry's latches are discarded. -/
def Group.dropLatches (g : Group) (lanes : Lanes) : Group :=
  { g with latches := g.latches.filter (fun l => l.lanes &&& lanes = 0#32) }

/-! ### What blocks an entry (R140) -/

/-- Lanes of paths that stall on an operation (R90). -/
def Group.stalled (g : Group) : Lanes := g.stalls.foldl (fun m p => m ||| p.2) 0#32

/-- The group as a whole blocks an entry (R140): a waiting `racq`, an `rrel` or a `tsleep` of another path, a stall. -/
def Group.blocks (g : Group) (pc : Nat) (lanes : Lanes) : Bool :=
  g.racq.isSome ||
  (match g.rrelAt with
    | some p => p != pc
    | none => false) ||
  (match g.sleep with
    | some (m, any, p) => p != pc || !sleepDone g m any
    | none => false) ||
  (g.stalled &&& lanes != 0#32)

end Sys2Proof.Machine
end

