-- ==== Sys2Proof/Machine/Traps.lean ====
section
/-! DEFINITION. Traps: `trap` and `brk` (R326), the watchdog (R322), address breakpoints (R323, R324), the entry into the handler
(R312, R316), and the ways out of it: `rtt.res`, `rtt.end`, `rtt.save` (R319) with the reclaim of a pre-empted cluster (R320). -/

namespace Sys2Proof.Machine

open Sys2Proof

/-! ### Raising -/

/-- `trap` and `brk` (R326): they complete, and the cause is raised in every active lane. -/
def raiseBy (cause : Nat) (f : ExtForm) (s : State) : Out :=
  s.instr f { b := countWant } (fun act s => s.raise (causeAll act cause) (s.opB f 5 (low act) % 65536) none true)

def execTrap (f : ExtForm) (s : State) : Out := raiseBy Cause.trap f s

def execBrk (f : ExtForm) (s : State) : Out := raiseBy Cause.breakpoint f s

/-- A group that is running, in its handler or out of it. -/
def Group.runs (g : Group) : Bool := g.mode = .running || g.mode = .handler

/-- Lanes raise a cause, each where it stands. -/
def raiseLanes (s : State) (grp : Nat) (lanes : Lanes) (cause : Nat) : State :=
  let g := s.group grp
  let s1 := (s.modSched (fun c => { c with cur := { c.cur with grp := grp, lanes := lanes } })).raise (causeAll lanes cause) 0 none false
  s1.modGroup grp (fun h => { h with pcs := g.pcs, hdrs := g.hdrs, need := g.need, issuedNow := g.issuedNow })

/-- Every live lane raises a cause, each where it stands (R322). -/
def raiseInPlace (s : State) (grp cause : Nat) : State := raiseLanes s grp (s.group grp).live cause

/-- The watchdog of a group has run out (R322). -/
def watchdogDue (s : State) (grp : Nat) : Bool :=
  let g := s.group grp
  let w := (s.launch (launchOfGrp grp)).wdog
  w != 0 && g.runs && g.live != 0#32 && decide (2 ^ w ≤ g.idle) && (s.team (teamOf grp)).resident

/-- WATCHDOG (R322). -/
def execWatchdog (grp : Nat) (s : State) : Out :=
  if watchdogDue s grp then .next (raiseInPlace s grp Cause.watchdog) else .next s

/-- A breakpoint of the team names the instruction (R323). -/
def breakAt (s : State) (grp pc : Nat) : Bool :=
  let g := s.group grp
  !g.skipBreak && (s.team (teamOf grp)).breaks.any (fun p => p.2 = pc + 1)

/-! ### Entering the handler -/

/-- Teams of a cluster: by launch and index in the grid. -/
def clusterTeams (s : State) (team : Nat) : List Nat :=
  let l := s.launch (launchOfTeam team)
  let n := l.w * l.h
  rangeFrom (launchOfTeam team * 2 ^ 28 + gridTeamOf team / n * n) n

/-- Every command of the team's table slots is performed (R349); where a full completion queue holds one back (R348), this waits too. -/
def nearIdle (s : State) (team : Nat) : Bool := s.near.slots.all (fun (p : Nat × Slot) => p.1 / 16 != team || p.2.cmds.isEmpty)

/-- A group of a cluster that is being pre-empted issues nothing more before its handler: it has stopped for the pre-emption, or has no
lane. -/
def Group.preempted (g : Group) : Bool := g.left || g.live = 0#32 || (g.entPreempt && g.mode != .running)

/-- What a pre-emption waits for besides R312: every group of the cluster has stopped for it and its posted writes and atomics on a
cluster's scratchpads have landed (R190); the team's barges have written their records (R285); the core's write-combining buffer has drained
(R320), and pushed near-memory commands are performed (R349). -/
def preemptReady (s : State) (grp : Nat) : Bool :=
  let ts := clusterTeams s (teamOf grp)
  ts.all (fun t => (groupsOf s t).all (fun k => (s.group k).preempted)) &&
    (bargesOf (teamOf grp)).all (fun b => (s.barge b).parked || (s.barge b).mode = .idle) &&
    s.ops.all (fun p => !((p.2.kind = .posted || p.2.kind = .atom) && decide (teamOf p.2.grp ∈ ts))) &&
    ((s.core (coreOfGrp s grp)).wc).isEmpty && nearIdle s (teamOf grp)

/-- No multicast of a cluster tile is on its way in the team's cluster (R297). -/
def multicastsLanded (s : State) (team : Nat) : Bool :=
  (clusterTeams s team).all (fun t => (s.engine (s.team t).core).queue.all (fun q => !q.met))

/-- HANDLER_ENTRY (R312, R316): of a group that has halted and is not held by a debugger. -/
def execHandlerEntry (grp : Nat) (s : State) : Out :=
  let g := s.group grp
  if g.mode = .halted && g.picks.isEmpty && !(s.team (teamOf grp)).debug && g.live != 0#32 && handlerReady s grp g.entPreempt && multicastsLanded s (teamOf grp) &&
      (!g.entPreempt || preemptReady s grp) then .next (enterHandler s grp)
  else .next s

/-! ### Leaving the handler -/

/-- Nothing of the handler is outstanding (R319). -/
def handlerDone (g : Group) : Bool := g.flags.all (fun p => p.2 = 0) && g.htoks.all (fun p => p.2.count = 0 && !p.2.armed)

/-- `rtt` (R319): in a handler alone, and once nothing of the handler is outstanding. -/
def rttBy (f : ExtForm) (s : State) (go : State → State) : Out :=
  s.checked f {} (fun act s => if act != 0#32 && !inHandler s.me then causeAll act Cause.permission else [])
    (fun act s => if act = 0#32 then s.advance else if handlerDone s.me then go s else s)

/-- A field of a frame. -/
def frameField (bs : List Byte) (off n : Nat) : Nat := ofBytes ((bs.drop off).take n)

/-- A saved header that begins no clause: the lane raises illegal instruction at its first issue (R319). -/
def savedHeaderBad (h : Nat) : Bool := !isHeader (BitVec.ofNat 32 h) || headerBad (BitVec.ofNat 32 h)

/-- Kind of a held operation by its major and index (R315). -/
def heldKind (major idx : Nat) : OpKind :=
  match major with
  | 0x16 => .dieScratch
  | 0x17 => .global
  | 0x18 => if idx = 1 then .clean else .inval
  | 0x19 => if idx = 4 then .tjoin else .tsig
  | 0x1D => .acqr
  | 0x24 => if idx = 1 then .nmv else .qflush
  | 0x25 => match idx with
    | 0 => .put
    | 1 => .rld
    | 2 => .ratom
    | _ => .wcflush
  | 0x26 => match idx with
    | 0 => .clplan
    | 1 => .clgo
    | _ => .rring
  | _ => match idx with
    | 4 => .icinv
    | 5 => .tlbinv
    | _ => .bias

/-- A held operation read back from its image. -/
def Op.ofImage (bs : List Byte) (grp core : Nat) : Op :=
  let h := frameField bs 0 8
  let act : Lanes := BitVec.ofNat 32 h
  let minor := bits h 50 8
  let major := bits h 58 6
  { kind := heldKind major (minor % 16), grp := grp, core := core, major := major, idx := minor % 16, active := act
    f := some { zeroForm with ty := BitVec.ofNat 4 (minor / 16), mods := BitVec.ofNat 10 (bits h 40 10)
                              mask := BitVec.ofNat 16 (frameField bs 14 2), outv := true, out := BitVec.ofNat 4 (bits h 36 4) }
    tok := some (bits h 36 4), held := true, mask := frameField bs 14 2
    waits := waitTable (frameField bs 16 8) (frameField bs 24 8)
    x := if major = 0x25 then 0 else frameField bs (32 + 8 * low act) 8, y := if major = 0x25 then frameField bs 0x320 8 else frameField bs (288 + 16 * low act) 8
    addr := act.toList.map (fun i => (i, frameField bs (32 + 8 * i) 8))
    data := act.toList.map (fun i => (i, frameField bs (288 + 16 * i) (if isAtomicOp major (minor % 16) then 8 else 16)))
    cmp := if isAtomicOp major (minor % 16) then act.toList.map (fun i => (i, frameField bs (296 + 16 * i) 8)) else [] }

/-- The images of a frame; a place that none of them takes goes. -/
def refillAll (grp core : Nat) (bs : List Byte) : Nat → Nat → State → State
  | 0, _, s => s.modGroup grp Group.closeRanks
  | n + 1, k, s => refillAll grp core bs n (k + 1) (s.refill (Op.ofImage ((bs.drop (0x400 * k)).take 0x400) grp core))

/-- Poison marks read back (R167): a register keeps the token that covered it when its handler began. -/
def Group.restoreMarks (g : Group) (v sm : Nat) : Group :=
  let cover := fun (r : Nat) => (r, let c := Sparse.get 0 g.savedMarks r; if c = 0 then 33 else c)
  { g with savedMarks := [], marks := ((rangeFrom 0 1536).filter (fun r => bitOf v r)).map cover ++
      ((rangeFrom 1536 64).filter (fun r => bitOf sm (r - 1536))).map cover }

/-- A saved register, lane by lane. -/
def Group.restoreV (g : Group) (bs : List Byte) (r : Nat) : Group :=
  laneList.foldl (fun g i => g.putV r i (frameField bs (0x160 + 128 * r + 4 * i) 4)) g

/-- What `rtt.res` reads back from a frame into its group (R319); every site is none when it resumes (R153). -/
def Group.restore (g : Group) (bs : List Byte) : Group :=
  let back := g.live &&& g.liveAtEntry
  let pcs := fun (i : Nat) => frameField bs (0x60 + 8 * i) 8
  let hdrs := fun (i : Nat) => frameField bs (0x430 + 4 * i) 4
  let stay := Lanes.ofFn (fun i => back.getLsbD i && bitOf (pcs i) 63)
  let g1 := stay.toList.foldl (fun g i =>
    { g with pcs := Sparse.set 0 g.pcs i (bits (pcs i) 0 57), hdrs := Sparse.set 0 g.hdrs i (hdrs i) }) g
  let g2 := { g1 with need := Lanes.ofFn (fun i => stay.getLsbD i && savedHeaderBad (hdrs i)) }
  let g3 := (rangeFrom 0 7).foldl (fun g r => g.putP r (BitVec.ofNat 32 (frameField bs (0x20 + 4 * r) 4))) g2
  let g4 := (rangeFrom 0 4).foldl (fun g r => g.restoreV bs r) g3
  let g5 := g4.restoreMarks (frameField bs 0x360 192) (frameField bs 0x420 8)
  { g5 with
    gen := frameField bs 0x18 4, nbpend := frameField bs 0x42A 2, nbph := frameField bs 0x428 2
    mode := .running, entPreempt := false, entResume := false, cause := {}, qread := g5.qread.drop 1, skid := 0, skipBreak := true
    genWaits := [], fetched := [], clears := [], latches := [], joins := g5.unpark.joins }.exitLanes (g5.live &&& ~~~stay)

/-- A withdrawn queue read as the frame records it. -/
def QRead.ofWord (q : Nat) : QRead :=
  { dest := bits q 52 11, queue := bits q 46 6, wide := bitOf q 45, fb := bitOf q 44, lanes := BitVec.ofNat 32 q }

/-- A withdrawn queue read is issued again before any lane issues (R166, R319). It is tested as a first issue is (R280): where its
queue is empty and no barge can fill it, it traps with queue protocol, each lane's counter where it stands (log 47). -/
def reissueRead (grp : Nat) (s : State) (q : QRead) : State :=
  let g := s.group grp
  let lanes := q.lanes &&& g.live
  let team := teamOf grp
  if (s.queueOf team q.queue).isEmpty && !anyBusyBarge s team then
    if lanes = 0#32 || g.raisedNow then s else raiseLanes s grp lanes Cause.queueProtocol
  else
    let fl := flagOf (g.hdr (low q.lanes)) q.fb
    let id := s.sched.nextId
    let s1 := s.issueOp
      { kind := .queueRead, grp := grp, core := coreOfGrp s grp, active := q.lanes, flag := fl
        dests := rangeFrom q.dest (if q.wide then 2 else 1), x := q.queue, y := bit q.fb }
    if fl.isSome then s1 else s1.modGroup grp (fun g => { g with stalls := (id, q.lanes) :: g.stalls })

/-- `rtt.res` (R319): the frame is read back, and the group goes on in ordinary mode. -/
def resume (s : State) : State :=
  let grp := s.sched.cur.grp
  let core := s.myCore
  let a := agentOn s core (launchOfGrp grp)
  let f := frameAddr s grp
  match s.load a f 0x4B0 with
  | .wait => s
  | .fail c _ => doubleFault s grp c
  | .ok bs s1 =>
    let n := min 4 (bits (frameField bs 0x18 8) 32 4)
    match s1.load a (f + 0x1000) (0x400 * n) with
    | .wait => s
    | .fail c _ => doubleFault s grp c
    | .ok imgs s2 =>
      let s3 := s2.modGroup grp (fun g => g.counted.restore bs)
      let s4 := refillAll grp core imgs n 0 s3
      let q := frameField bs 0x10 8
      let reads := (if bitOf q 63 then [QRead.ofWord q] else []) ++ (s4.group grp).qread
      let s5 := drainAll (reads.foldl (reissueRead grp) (s4.modGroup grp (fun g => { g with qread := [] }))) grp
      afterHandlers (groupExit s5 grp) (teamOf grp)

def execRttRes (f : ExtForm) (s : State) : Out := rttBy f s resume

/-- `rtt.end` (R319): the launch ends. -/
def endLaunch (s : State) : State :=
  let team := teamOf s.sched.cur.grp
  let c := (s.team team).cause
  (stopLaunch s (launchOfTeam team) (if c = 0 then 5 else 4) c (if c = 0 then 0 else gridTeamOf team)).modGroup s.sched.cur.grp Group.counted

def execRttEnd (f : ExtForm) (s : State) : Out := rttBy f s endLaunch

/-! ### Reclaiming a pre-empted cluster (R320) -/

/-- A team's registers and scratchpad go back; tokens keep only what is still at the hub. -/
def Group.reclaimed (g : Group) : Group :=
  { ({} : Group) with
    admitted := true, quad := g.quad, live := g.live, mode := .saved, gen := g.gen, csGen := g.csGen, left := g.left
    qread := g.qread, savedMarks := g.savedMarks, issuedNow := g.issuedNow
    toks := (g.toks.filter (fun p => !p.2.fifo.isEmpty)).map (fun p => (p.1, { ({} : Token) with fifo := p.2.fifo })) }

/-- The team's scratchpad and lane-private areas are given back. -/
def dropScratch (s : State) (team : Nat) : State :=
  s.modScr (fun c => { c with
    core := c.core.filter (fun p => p.1 / 2 ^ 20 != team)
    lane := c.lane.filter (fun p => p.1 / 2 ^ 20 / 32 != team) })

/-- The semaphores of a core that holds no team are cleared (R206). -/
def clearSems (s : State) (core : Nat) : State :=
  if holdsTeam s core then s else s.modCore core (fun c => { c with sems := [], semQueues := [] })

/-- One team of a saved cluster leaves its core; ring packets for it wait at the hub (R376). -/
def reclaimTeam (s : State) (team : Nat) : State :=
  let core := (s.team team).core
  let held := (s.engine core).holder = some team
  let s1 := (groupsOf s team).foldl (fun s k => s.modGroup k Group.reclaimed) s
  let s2 := if held then (releaseEngine s1 core).modEngine core (fun e => { e with images := [], nimages := 0, parked := [] }) else s1
  let mine := fun (p : Packet) => decide (p.team = team)
  let pk := (s2.core core).packets.filter mine
  let s2b := (s2.modFabric (fun f => { f with transit := f.transit ++ pk })).modCore core (fun c =>
    { c with packets := c.packets.filter (fun p => !mine p) })
  let s3 := (bargesOf team).foldl (fun s b => s.setBarge b {}) (dropScratch s2b team)
  clearSems (s3.modTeam team (fun t => { t with
    resident := false, nbs := [], queues := [], cause := 0, origin := 0, mxHeld := held, wantHalt := [] })) core

/-- Key of the cluster of a team. -/
def clusterOf (s : State) (team : Nat) : Nat :=
  let l := s.launch (launchOfTeam team)
  launchOfTeam team * 2 ^ 24 + gridTeamOf team / (l.w * l.h)

/-- A team has given up its core: every group has, every barge is parked, the queue of its engine is parked. -/
def teamSaved (s : State) (team : Nat) : Bool :=
  let e := s.engine (s.team team).core
  (groupsOf s team).all (fun k => (s.group k).left || (s.group k).mode = .saved) &&
  (bargesOf team).all (fun b => (s.barge b).parked || (s.barge b).mode = .idle) &&
  (e.holder != some team || e.queue.isEmpty)

/-- A launch whose placed clusters are all saved is pre-empted, and the command that asked for it ends (R389). -/
def settlePreempt (s : State) (launch : Nat) : State :=
  let l := s.launch launch
  if l.halting && (s.work.clusters).all (fun p => !(p.2.launch = launch && p.2.placed && !p.2.released) || p.2.saved) then
    endCommand (s.modLaunch launch (fun l => { l with stage := .preempted, halting := false })) l.queue launch 0
  else s

/-- When every team of a cluster has given up its core, the cores take back what it held (R320). -/
def tryReclaim (s : State) (team : Nat) : State :=
  let ts := clusterTeams s team
  if !((s.launch (launchOfTeam team)).halting && ts.all (teamSaved s)) then s
  else
    let s1 := ts.foldl reclaimTeam s
    settlePreempt (s1.modCluster (clusterOf s team) (fun c => { c with saved := true })) (launchOfTeam team)

/-- `rtt.save` (R319, R320): of a pre-empted group; elsewhere as `rtt.end`. -/
def saveGroup (s : State) : State :=
  let grp := s.sched.cur.grp
  if s.me.entPreempt then
    tryReclaim (s.modGroup grp (fun g => { g.counted with mode := .saved, active := false, held := false })) (teamOf grp)
  else endLaunch s

def execRttSave (f : ExtForm) (s : State) : Out := rttBy f s saveGroup

end Sys2Proof.Machine
end

