-- ==== Sys2Proof/Machine/Layout.lean ====
section
/-! DEFINITION. Layout records (R273, R274), and the accesses of barges and matrix engines in the four spaces of a record. -/

namespace Sys2Proof.Machine

open Sys2Proof

/-! ### Records -/

/-- A layout record (R273). -/
structure Layout where
  base : Nat := 0
  dims : List Nat := []
  rank : Nat := 0
  /-- element size in bytes -/
  esize : Nat := 1
  space : Nat := 0
  twill : Nat := 0
  tile : Bool := false
  ga : Bool := false
  reserved : Bool := false
  strides : List Int := []
  deriving DecidableEq, Repr

/-- The 64 bytes of a record read as its fields. -/
def Layout.ofBytes (bs : List Byte) : Layout :=
  let w := fun (off n : Nat) => Sys2Proof.ofBytes ((bs.drop off).take n)
  let ctl := w 0x18 4
  { base := w 0 8
    dims := [w 0xC 4, w 8 4, w 0x14 4, w 0x10 4, w 0x1C 4]
    rank := bits ctl 29 3, esize := 2 ^ bits ctl 27 2, space := bits ctl 24 3, twill := bits ctl 22 2
    tile := bitOf ctl 21, ga := bitOf ctl 20, reserved := ctl % 2 ^ 20 != 0
    strides := [signed 64 (w 0x20 8), signed 64 (w 0x28 8), signed 64 (w 0x30 8), signed 64 (w 0x38 8)] }

/-- Extent of a dimension: 1 beyond the rank. -/
def Layout.dim (r : Layout) (i : Nat) : Nat := if i < r.rank then nth 0 r.dims i else 1

/-- Byte stride of dimension `i ≥ 1`. -/
def Layout.stride (r : Layout) (i : Nat) : Int := nth 0 r.strides (i - 1)

/-- Why a record may not be used (R274); 0 for nothing. Strides at or above the rank are not looked at (log 87, the model's choice). -/
def Layout.cause (r : Layout) : Nat :=
  if r.rank = 0 || 5 < r.rank || 4 ≤ r.space || r.reserved || (r.twill != 0 && (r.base % 128 != 0 || r.stride 1 % 128 != 0)) then
    Cause.illegalOperand
  else if r.base % r.esize != 0 || (rangeFrom 1 (r.rank - 1)).any (fun i => r.stride i % r.esize != 0) then Cause.misaligned
  else 0

/-- `elem_addr` (R274). -/
def Layout.elemAddr (r : Layout) (c : List Int) : Nat :=
  let o := wrap 64 ((rangeFrom 1 (r.rank - 1)).foldl (fun x i => x + nth 0 c i * r.stride i) (nth 0 c 0 * r.esize))
  let o := if r.twill = 0 then o else o ^^^ ((nth 0 c 1 % 2 ^ r.twill).toNat * 16)
  (r.base + o) % 2 ^ 64

/-- The record at a scratchpad offset of a team (R273): the cause where it cannot be used. -/
def readLayout (s : State) (team off : Nat) : Except Nat Layout :=
  let o := off % 2 ^ 32
  if o % 64 ≠ 0 then .error Cause.misaligned
  else if (s.launch (launchOfTeam team)).scratch * 256 < o + 64 then .error Cause.scratchBound
  else
    let r := Layout.ofBytes (s.scrRead team o 64)
    if r.cause = 0 then .ok r else .error r.cause

/-! ### Accesses in a record's space -/

/-- Major opcode of the group instructions that reach a space: their bounds are the same (R195). -/
def spaceMajor (sp : Nat) : Nat :=
  match sp with
  | 1 => 0x13
  | 2 => 0x15
  | _ => 0x16

/-- The agent of a team's barges and engine. -/
def teamAgent (s : State) (team : Nat) : Agent := agentOn s (s.team team).core (launchOfTeam team)

/-- Read `n` bytes of a space for a team. -/
def spaceRead (s : State) (team sp a n : Nat) : Acc (List Byte) :=
  if sp = 0 then
    if a % n ≠ 0 then .fail Cause.misaligned a else s.load (teamAgent s team) a n
  else
    let o := a % 2 ^ 32
    let c := levelCause (s.launch (launchOfTeam team)) (spaceMajor sp) o n
    if c ≠ 0 then .fail c o
    else match sp with
      | 1 => .ok (s.scrRead team o n) s
      | 2 => .ok (s.scrRead (clusterTeam s team o) (o % 2 ^ 20) n) s
      | _ => .ok (s.dieRead (launchOfTeam team) (dieOf (s.team team).core) o n) s

/-- What stops a write before it is issued: translation, permission, bound (R278); 0 for nothing. -/
def writeStop (s : State) (team sp a n : Nat) : Nat :=
  if sp = 0 then
    if a % n ≠ 0 then Cause.misaligned
    else
      let g := teamAgent s team
      match translate s g.owner g.asid a 1 with
      | .error c => c
      | .ok (t, s1) => match placeOf s1 g.launch true t a n with
        | .bad c => c
        | _ => 0
  else levelCause (s.launch (launchOfTeam team)) (spaceMajor sp) (a % 2 ^ 32) n

/-- Who writes, and what his global stores are (R228, R230): the team, whose path, the operation, the part and the number of the
instruction, the mode, and the cycle of its issue. -/
structure Writer where
  team : Nat
  agent : Nat
  op : Nat := 0
  part : Nat := 0
  seq : Nat := 0
  ga : Bool := false
  birth : Nat := 0
  deriving DecidableEq, Repr

/-- A global store of a barge or an engine, of one element: at its die's copy or bound pending there by its mode (R228, R229, R282, R301), at
the home of a memory-side line, or in a bank. -/
def globalWrite (s : State) (w : Writer) (a : Nat) (bs : List Byte) : Acc Unit :=
  let g := teamAgent s w.team
  let say := fun (r : Acc Unit) => match r with
    | .fail c _ => Acc.fail c a
    | r => r
  match translate s g.owner g.asid a 1 with
  | .error c => if c = 0 then .wait else .fail c a
  | .ok (t, s1) =>
    match placeOf s1 g.launch true t a bs.length with
    | .bad c => .fail c a
    | .bank o => .ok () (s1.dieWrite g.launch (dieOf g.owner) o bs)
    | .home x key => storeHome s1 (some (dieOf g.owner)) a x key w.seq bs
    | .cached x key =>
      if biasWait s1 x || keyWait s1 none key then .wait
      else
      let st : Store := { op := w.op, part := w.part, seq := w.seq, agent := w.agent, die := dieOf g.owner, addr := x, bytes := bs, key := key
                          launch := g.launch, leaf := t.leaf, va := a, birth := w.birth }
      say (if w.ga then putPending s1 st else putCopy s1 st)

/-- Write bytes of a space in a team's instance of it. -/
def spaceWrite (s : State) (w : Writer) (team sp a : Nat) (bs : List Byte) : Acc Unit :=
  if sp = 0 then globalWrite s w a bs
  else
    let o := a % 2 ^ 32
    match sp with
    | 1 => .ok () (s.scrWrite team o bs)
    | 2 => .ok () (s.scrWrite (clusterTeam s team o) (o % 2 ^ 20) bs)
    | _ => .ok () (s.dieWrite (launchOfTeam team) (dieOf (s.team team).core) o bs)

/-- One name for the byte behind an address of a space. -/
def spaceKey (s : State) (team sp a : Nat) : Option Nat :=
  let o := a % 2 ^ 32
  let die := fun (o : Nat) => dieChamberKey (s.dieKey (launchOfTeam team) (dieOf (s.team team).core) o)
  match sp with
  | 0 =>
    match peekPhys s (s.team team).core (s.launch (launchOfTeam team)).asid a with
    | some p => some (if spaceOf p = 2 then die (p % 2 ^ 48) else p)
    | none => none
  | 1 => some (scrKey team o)
  | 2 => some (scrKey (clusterTeam s team o) (o % 2 ^ 20))
  | _ => some (die o)

end Sys2Proof.Machine
end

