-- ==== Sys2Proof/Machine/Barge.lean ====
section
/-! DEFINITION. Barges (R259 to R286): starting, stopping, resuming and inspecting them (major 0x20), their faults, and their parking at a
pre-emption. -/

namespace Sys2Proof.Machine

open Sys2Proof

/-! ### State of a barge -/

def BargeMode.code : BargeMode → Nat
  | .idle => 0
  | .armed => 1
  | .running => 2
  | .waiting => 3
  | .faulted => 4
  | .stopped => 5

def BargeMode.ofCode (n : Nat) : BargeMode :=
  match n with
  | 0 => .idle
  | 1 => .armed
  | 2 => .running
  | 3 => .waiting
  | 4 => .faulted
  | _ => .stopped

/-- Group key of a barge's owner. -/
def ownerOf (s : State) (b : Nat) : Nat := 32 * teamOfBarge b + (s.barge b).owner

/-- Oldest operation of the run retires with a number of bytes (R281). -/
def retireRun (s : State) (b bytes : Nat) (f : Option Failure) : State :=
  let x := s.barge b
  if x.left = 0 then s
  else
    let s1 := s.modBarge b (fun x => { x with left := x.left - 1, ops := x.ops.drop 1 })
    match x.ops with
    | id :: _ => finishOp s1 id bytes f
    | [] => retireToken s1 (ownerOf s b) x.handler x.token bytes f

/-- Every operation of the run that is left retires alike. -/
def retireRest (s : State) (b : Nat) (f : Option Failure) : State :=
  (rangeFrom 0 (s.barge b).left).foldl (fun s _ => retireRun s b 0 f) s

/-- A barge leaves the queue of a semaphore (R208). -/
def leaveSemBarge (s : State) (b : Nat) : State :=
  let x := s.barge b
  if x.semWait = 0 then s
  else (s.leaveSem (s.team (teamOfBarge b)).core (x.semWait - 1) (.barge b)).modBarge b (fun x => { x with semWait := 0 })

/-- An armed barge whose preconditions hold starts, or is idle again with its operations poisoned (R264). -/
def startBarge (s : State) (b : Nat) : State :=
  let x := s.barge b
  if !(x.mode = .armed && !x.parked && x.waits.all (fun p => p.2 = 0)) then s
  else
    match poisonBy x.pre (s.group (ownerOf s b)) x.handler x.mask with
    | some c =>
      (retireRest s b (some { cause := c, valid := false })).modBarge b (fun x => { x with mode := .idle, mask := 0, waits := [], pre := none })
    | none => s.modBarge b (fun x => { x with mode := .running, mask := 0, waits := [], pre := none })

/-! ### Status record (R267) -/

/-- Doublewords of a barge's status record: what copies in flight have written is not yet in `since`. -/
def bargeRecord (x : Barge) (k : Nat) : Nat :=
  let flt := x.mode = .faulted
  let loop := nth { count := 0, start := 0, stop := 0 : LoopEntry } x.loops.reverse ((k - 24) / 2)
  match k with
  | 0 => x.mode.code * 2 ^ 61 + (if flt then x.cause else 0) * 2 ^ 56 + x.token * 2 ^ 52 + x.owner * 2 ^ 47 + x.left * 2 ^ 42 +
      x.loops.length * 2 ^ 39 + bit x.halt * 2 ^ 38
  | 1 => x.pc
  | 2 => if flt then x.word else 0
  | 3 => if flt && x.fault.valid then 2 ^ 63 + bit x.fault.write * 2 ^ 62 + x.fault.space * 2 ^ 59 + x.fault.addr % 2 ^ 57 else 0
  | 4 => (if flt then x.fault.ndone else x.first) % 2 ^ 32 * 2 ^ 32 + x.since
  | 5 => x.mask * 2 ^ 48
  | 6 => waitWord x.waits 0
  | 7 => waitWord x.waits 8
  | _ =>
    if k < 24 then Sparse.get 0 x.a (k - 8)
    else if k % 2 = 0 then loop.count * 2 ^ 32 + (loop.stop - loop.start) % 2 ^ 32
    else loop.stop

/-- A record that `bres.ld` refuses (R267); `groups` is the team's number of groups. -/
def recordBad (w : Nat → Nat) (groups : Nat) : Bool :=
  let depth := bits (w 0) 39 3
  decide (5 < bits (w 0) 61 3) || decide (4 < depth) || bits (w 0) 0 38 != 0 || bits (w 1) 57 7 != 0 || bits (w 3) 57 2 != 0 ||
    bits (w 5) 0 48 != 0 || decide (groups ≤ bits (w 0) 47 5) || (rangeFrom 0 4).any (fun e => bits (w (25 + 2 * e)) 57 7 != 0) ||
    (rangeFrom 0 depth).any (fun e =>
      let span := bits (w (24 + 2 * e)) 0 32
      span % 8 != 0 || decide (w (25 + 2 * e) < span))

/-- The barge of a record (R266). -/
def Barge.ofRecord (w : Nat → Nat) : Barge :=
  let depth := bits (w 0) 39 3
  { mode := BargeMode.ofCode (bits (w 0) 61 3), cause := bits (w 0) 56 5, token := bits (w 0) 52 4, owner := bits (w 0) 47 5
    left := bits (w 0) 42 5, halt := bitOf (w 0) 38, pc := bits (w 1) 0 57, word := w 2
    fault := { cause := bits (w 0) 56 5, valid := bitOf (w 3) 63, write := bitOf (w 3) 62, space := bits (w 3) 59 3
               addr := bits (w 3) 0 57, ndone := bits (w 4) 32 32 }
    first := bits (w 4) 32 32, since := bits (w 4) 0 32, mask := bits (w 5) 48 16, waits := waitTable (w 6) (w 7)
    a := (rangeFrom 0 16).foldl (fun m i => Sparse.set 0 m i (w (8 + i))) []
    loops := ((rangeFrom 0 depth).map (fun e =>
      { count := bits (w (24 + 2 * e)) 32 32, start := w (25 + 2 * e) - bits (w (24 + 2 * e)) 0 32, stop := w (25 + 2 * e) })).reverse }

/-! ### Faults (R284, R264) -/

/-- The team is halting, halted, or in its handlers: the halt of a barge's fault is held (R264). -/
def teamHalted (s : State) (team : Nat) : Bool :=
  (groupsOf s team).any (fun k => let g := s.group k; !g.left && (g.mode != .running || g.skidLeft.isSome))

/-- A barge's fault halts its team with the owner group as origin (R264). -/
def haltForBarge (s : State) (b : Nat) : State :=
  let grp := ownerOf s b
  let team := teamOfBarge b
  if (s.group grp).live = 0#32 then
    broadcast (s.modTeam team (fun t => { t with cause := 0, origin := 0 }.report Cause.bargeFault (idxOf grp))) team grp
  else raiseInPlace s grp Cause.bargeFault

/-- Held halts are raised once the team is out of its handlers (R264). -/
def raiseHeld (s : State) (team : Nat) : State :=
  match (s.team team).heldHalts with
  | [] => s
  | b :: bs =>
    if teamHalted s team then s
    else haltForBarge (s.modTeam team (fun t => { t with heldHalts := bs })) b

/-- No global store of an instruction of the agent is on its way to its home. -/
def storesHome (s : State) (agent seq : Nat) : Bool :=
  s.mem.fwd.all (fun st => !(st.agent = agent && st.seq = seq)) && s.mem.gaPend.all (fun st => !(st.agent = agent && st.seq = seq))

/-- Targets of a copy: one, or as many as its mask names (R275). -/
def Flight.targets (c : Flight) : Nat :=
  if (c.op = 0x13 || c.op = 0x14) && c.f.imm != 0#32 then ((rangeFrom 0 12).filter (fun j => bitOf c.f.imm.toNat j)).length else 1

/-- The records of a copy. -/
def Flight.dst (c : Flight) : Layout := Layout.ofBytes (toBytes c.recs.1 64)

def Flight.src (c : Flight) : Layout := Layout.ofBytes (toBytes c.recs.2 64)

/-- The tile's record: its extents are the box (R275). -/
def Flight.tile (c : Flight) : Layout := if c.dst.tile then c.dst else c.src

/-- Number of lines of a box. -/
def lineCount (t : Layout) : Nat := (rangeFrom 1 (t.rank - 1)).foldl (fun x i => x * t.dim i) 1

/-- Units of a copy (R278). -/
def Flight.units (c : Flight) : Nat :=
  match c.op with
  | 0x13 => lineCount c.tile
  | 0x14 => c.dst.dim 1
  | 0x15 => c.src.dim 1
  | _ => 1

/-- Bytes a unit counts (R278). -/
def Flight.bytes (c : Flight) : Nat := (if c.op = 0x13 then c.tile.dim 0 else c.dst.dim 0) * c.dst.esize * c.targets

/-- Agent number of a barge in the paths of stores (log 20). -/
def bargeAgent (b : Nat) : Nat := 4097 + b

/-- A copy is complete: every unit is performed, every store at its home (R282, log 80). -/
def Flight.complete (s : State) (b : Nat) (c : Flight) : Bool :=
  c.fault.isNone && decide (c.units ≤ c.unit) && storesHome s (bargeAgent b) c.seq

/-- Copies that are complete land in program order, and count their bytes (R267). -/
def landCopies (s : State) (b : Nat) : State :=
  let out := (s.barge b).flight.takeWhile (Flight.complete s b)
  if out.isEmpty then s
  else s.modBarge b (fun x => { x with
    flight := x.flight.drop out.length
    since := (x.since + (out.map (fun c => (c.units - c.first) * c.bytes)).sum) % 2 ^ 32 })

/-- The run faults: what is left of it retires poisoned, and the halt follows (R264, R284). -/
def settleFault (s : State) (b : Nat) (f : BargeFault) : State :=
  let s1 := leaveSemBarge s b
  let s2 := retireRest s1 b (some { cause := Cause.bargeFault, valid := false })
  let s3 := s2.modBarge b (fun x => { x with
    mode := .faulted, cause := f.cause, fault := f, first := f.ndone, pending := none, ops := [], left := 0, flight := [], rel := none, nbWait := none
    stopping := none })
  if !(s.barge b).halt then s3
  else if teamHalted s3 (teamOfBarge b) then s3.modTeam (teamOfBarge b) (fun t => { t with heldHalts := t.heldHalts ++ [b] })
  else haltForBarge s3 b

/-- A fault is taken once every earlier instruction is complete, and the stores of its own: the earliest in program order (R284). A copy's
goes back to the copy, with registers and loops as it found them; what it has performed for good is counted. -/
def takeFault (s0 : State) (b : Nat) : State :=
  let s := landCopies s0 b
  let x := s.barge b
  match x.flight with
  | [] => match x.pending with
    | none => s
    | some f => settleFault s b { f with ndone := x.first }
  | c :: _ =>
    match c.fault with
    | none => s
    | some f =>
      if !storesHome s (bargeAgent b) c.seq then s
      else settleFault (s.modBarge b (fun x => { x with
        pc := c.pc, a := c.a, loops := c.loops, word := c.word
        since := (x.since + (f.ndone - c.first) * c.bytes) % 2 ^ 32 })) b f

/-- BARGE_FAULT (R284). -/
def execBargeFault (b : Nat) (s : State) : Out := .next (takeFault s b)

/-! ### Major 0x20 (R263 to R267) -/

/-- Source B of major 0x20. -/
def bargeWant : Option Want := some { cls := clsS + clsC }

/-- The barge index of the lowest active lane is not one of the team's (R259, R263). -/
def bargeCause (f : ExtForm) (act : Lanes) (s : State) (own : Nat → Nat) : Sparse Nat :=
  let k := s.opB f 5 (low act)
  if act = 0#32 then []
  else if s.myLaunch.barges ≤ k || 4 ≤ k then causeAll act Cause.illegalOperand
  else if own k ≠ 0 then causeAll act (own k)
  else []

/-- Key of the barge named. -/
def State.bargeKey (s : State) (f : ExtForm) (act : Lanes) : Nat := 4 * teamOf s.sched.cur.grp + s.opB f 5 (low act) % 4

/-- `n` operations of class 3 issue into the output token, for a barge. -/
def issueRun (f : ExtForm) (b : Nat) : Nat → State → List Nat → State × List Nat
  | 0, s, ids => (s, ids)
  | n + 1, s, ids =>
    let id := s.sched.nextId
    let o : Op := { kind := .bargeRun, grp := s.sched.cur.grp, core := s.myCore, major := 0x20, f := some f
                    tok := some f.out.toNat, handler := inHandler s.me, x := b, held := true }
    issueRun f b n (s.issueOp o) (ids ++ [id])

/-- Segments of `.seg` in [25:22]. -/
def segMod (f : ExtForm) : Nat := bits f.mods.toNat 0 4

/-- `.halt` [28]. -/
def haltMod (f : ExtForm) : Bool := bitOf f.mods.toNat 6

/-- A held halt of the barge is dropped (R264). -/
def dropHeld (s : State) (b : Nat) : State :=
  s.modTeam (teamOfBarge b) (fun t => { t with heldHalts := t.heldHalts.filter (fun x => x != b) })

/-- The run of `bgo` or `bres` is armed (R264, R266). -/
def armBarge (f : ExtForm) (b : Nat) (s : State) (x : Barge) : State :=
  let h := inHandler s.me
  let w := waitsOf s.me h f.mask.toNat
  let r := issueRun f b (1 + segMod f) s []
  let s1 := (dropHeld r.1 b).setBarge b { x with
    mode := .armed, owner := idxOf s.sched.cur.grp, token := f.out.toNat, handler := h, left := 1 + segMod f, ops := r.2
    halt := haltMod f, mask := f.mask.toNat, waits := w, pre := preOf s.me h f.mask.toNat w none, code := [], cause := 0, pending := none
    parked := false, flight := [], rel := none, stopping := none }
  startBarge s1 b

/-- The token cannot take the operations of a run now (R171). -/
def runBusy (f : ExtForm) (s : State) (n : Nat) : Bool := tokenBusy s.me (inHandler s.me) f.out.toNat 3 n

/-- `bgo` (R264); bits [63:57] of the code address are dropped (log 87, the model's choice). -/
def execBgo (f : ExtForm) (s : State) : Out :=
  let try_ := bitOf f.mods.toNat 7
  s.access f { d := if try_ then predDst else none, a := baseWant 2, b := bargeWant
               c := some { cls := clsS, words := 8, align := 2 }, bad := decide (1592 < f.c.toNat) }
    (fun act s => bargeCause f act s (fun _ => if s.opA f 4 (low act) % 8 ≠ 0 then Cause.misaligned else 0))
    (fun act s =>
      let b := s.bargeKey f act
      let say := fun (s : State) (x : Bool) => if try_ then s.writeTruth act f.d.toNat (fun _ => x) else s
      if (s.barge b).busy then (if try_ then (say s false).advance else s)
      else if runBusy f s (1 + segMod f) then s
      else
        let pair := fun (k : Nat) => s.me.read 4 (f.c.toNat + 2 * k) 0
        let x : Barge := { pc := s.opA f 4 (low act) % 2 ^ 57
                           a := (rangeFrom 0 4).foldl (fun m i => Sparse.set 0 m i (pair i)) [] }
        (armBarge f b (say s true) x).advance)

/-- `bres` (R266). -/
def execBres (f : ExtForm) (s : State) : Out :=
  s.access f { b := bargeWant } (fun act s => bargeCause f act s (fun _ => 0)) (fun act s =>
    let b := s.bargeKey f act
    let x := s.barge b
    if x.busy || runBusy f s (1 + segMod f) then s
    else if x.mode = .idle then
      let r := issueRun f b (1 + segMod f) s []
      (r.2.foldl (fun s id => finishOp s id 0 none) r.1).advance
    else (armBarge f b s { x with word := 0 }).advance)

/-- `bstop` takes effect at an instruction boundary (R265): a fault found before it goes first. -/
def stopNow (s : State) (id : Nat) : State :=
  let b := (s.op id).x
  let s1 := takeFault s b
  if (s1.barge b).busy && !(s1.barge b).flight.isEmpty then s1 else finishOp (stopBarge s1 b) id 0 none

/-- The stops that wait for a barge's instruction boundary (R265, R389). -/
def stopsOf (s : State) (b : Nat) : List Nat :=
  (s.ops.filter (fun (p : Nat × Op) => p.2.kind = .bstop && p.2.x = b && !p.2.held && p.2.result.isNone)).map (fun p => p.1)

/-- What is due at an instruction boundary: faults, and the stops that wait for it. -/
def settleBarge (s : State) (b : Nat) : State :=
  let s1 := takeFault s b
  let s2 := match (s1.barge b).stopping with
    | some c => stopBargeBy c s1 b
    | none => s1
  (stopsOf s2 b).foldl stopNow s2

/-- `bstop` (R265). -/
def execBstop (f : ExtForm) (s : State) : Out :=
  s.access f { b := bargeWant } (fun act s => bargeCause f act s (fun _ => 0)) (fun act s =>
    let id := s.sched.nextId
    let s1 := s.engineOp f { kind := .bstop, major := 0x20, idx := 1, active := act, x := s.bargeKey f act }
    if s1.hasOp id && !(s1.op id).held then stopNow s1 id else s1)

/-- A doubleword of the record a `bres.ld` reads. -/
def recordWord (s : State) (team o k : Nat) : Nat := ofBytes (s.scrRead team (o + 8 * k) 8)

/-- The operations of a restored run are outstanding in the owner's token again (R185, R266): those of an armed barge wait as it does. Runs that
are restored into one token stand there in the order of their restoration (R172; log 83, the model's choice). -/
def refillRun (b core : Nat) : Nat → State → State
  | 0, s => s
  | n + 1, s =>
    let x := s.barge b
    let id := s.sched.nextId
    let o : Op := { kind := .bargeRun, grp := ownerOf s b, core := core, major := 0x20, tok := some x.token, x := b, held := true
                    mask := x.mask, waits := x.waits }
    refillRun b core n ((s.refill o).modBarge b (fun x => { x with ops := x.ops ++ [id] }))

/-- A barge is as its record says (R266). -/
def loadBarge (w : Nat → Nat) (b : Nat) (s : State) : State :=
  let x := Barge.ofRecord w
  let s1 := s.setBarge b { x with pre := preOf (s.group (32 * teamOfBarge b + x.owner)) false x.mask x.waits none }
  startBarge (refillRun b (s.team (teamOfBarge b)).core x.left s1) b

/-- `bres.ld` (R266). -/
def execBresLd (f : ExtForm) (s : State) : Out :=
  let off := fun (act : Lanes) (s : State) => s.opA f 2 (low act)
  s.access f { a := baseWant 1, b := bargeWant }
    (fun act s => bargeCause f act s (fun k =>
      let o := off act s
      if o % 64 ≠ 0 then Cause.misaligned
      else if s.myLaunch.scratch * 256 < o + 256 then Cause.scratchBound
      else if !(s.barge (4 * teamOf s.sched.cur.grp + k)).busy && recordBad (recordWord s (teamOf s.sched.cur.grp) o) s.myLaunch.groups then
        Cause.illegalOperand
      else 0))
    (fun act s =>
      let b := s.bargeKey f act
      if (s.barge b).busy then s else (loadBarge (recordWord s (teamOf s.sched.cur.grp) (off act s)) b s).advance)

/-- `bstat` (R267). -/
def execBstat (f : ExtForm) (s : State) : Out :=
  s.access f { d := fpDst 2, b := bargeWant, c := countWant }
    (fun act s => bargeCause f act s (fun _ => if 32 ≤ s.opC f 5 (low act) then Cause.illegalOperand else 0))
    (fun act s =>
      let x := bargeRecord (s.barge (s.bargeKey f act)) (s.opC f 5 (low act))
      (s.writeDest act (rangeFrom f.d.toNat 2) (fun _ => x)).advance)

/-! ### Parking (R285) -/

/-- The team is being pre-empted: each of its groups has stopped for it or is in the handler it entered for it. -/
def preempting (s : State) (team : Nat) : Bool :=
  (s.launch (launchOfTeam team)).halting && (liveGroupsOf s team).all (fun k => let g := s.group k; g.entPreempt && (g.mode = .halted || g.mode = .handler || g.mode = .saved))

/-- No group of the team waits for a register of an operation that is held on preconditions, or that stands finished behind one (R172,
R312). -/
def noHeldDest (s : State) (team : Nat) : Bool :=
  s.ops.all (fun (p : Nat × Op) => !(teamOf p.2.grp = team && (p.2.held || p.2.result.isSome) && !p.2.dests.isEmpty))

/-- The run at hand is one that its owner's handler has begun. -/
def handlerRun (s : State) (b : Nat) : Bool := (s.barge b).handler && inHandler (s.group (ownerOf s b))

/-- A barge begins no further instruction: its team is being pre-empted (R285) and waits for no register that the barge may have to bring
(log 41), or a stop waits for its boundary (R265). A run that a handler has begun goes on under the handler's tokens. -/
def bargeHeld (s : State) (b : Nat) : Bool :=
  let x := s.barge b
  x.parked || x.stopping.isSome || x.pending.isSome || x.flight.any (fun c => c.fault.isSome) || !(stopsOf s b).isEmpty ||
    (preempting s (teamOfBarge b) && noHeldDest s (teamOfBarge b) && !handlerRun s b)

/-- BARGE_PARK (R285): the barge stands at its instruction boundary and its record is written; its operations stay in the counts. -/
def execBargePark (b : Nat) (s0 : State) : Out :=
  let s := settleBarge s0 b
  let x := s.barge b
  let team := teamOfBarge b
  if preempting s team && !x.parked && x.mode != .idle && !(x.busy && handlerRun s b) && x.pending.isNone && x.flight.isEmpty && noHeldDest s team then
    .next ((x.ops.foldl forgetOp (leaveSemBarge s b)).modBarge b (fun x => { x with parked := true, ops := [], rel := none, nbWait := none }))
  else .next s

end Sys2Proof.Machine
end

