-- ==== Sys2Proof/Machine/BargeCode.lean ====
section
/-! DEFINITION. The barge instructions (R268 to R283): a barge's own program. Each acts for the barge of the turn in hand. A copy begins
and is in flight while later instructions run (R282); one that another agent sees waits until none is (log 80). -/

namespace Sys2Proof

/-- imm sign-extended to 64 bits (R270). -/
def BargeForm.simm (f : BargeForm) : Nat := sextTo 32 64 f.imm.toNat

/-- Bits of X: X[k] stands for bit 32 + k of the word. -/
def BargeForm.xbits (f : BargeForm) (lo w : Nat) : Nat := bits f.x.toNat lo w

end Sys2Proof

namespace Sys2Proof.Machine

open Sys2Proof

/-! ### The barge in hand -/

def State.bargeNow (s : State) : Barge := s.barge s.sched.cur.barge

/-- Its team. -/
def State.bargeTeam (s : State) : Nat := teamOfBarge s.sched.cur.barge

/-- Register `a`i. -/
def State.areg (s : State) (i : Nat) : Nat := Sparse.get 0 s.bargeNow.a i % 2 ^ 64

/-- Register A. -/
def State.bA (s : State) (f : BargeForm) : Nat := s.areg f.a.toNat

/-- Register B, or the immediate. -/
def State.bB (s : State) (f : BargeForm) : Nat := if f.i then f.simm else s.areg f.b.toNat

/-- The end of a loop body (R272): where the barge goes after the instruction at `e`, and the loop stack. -/
def loopEnd (e : Nat) : List LoopEntry → List LoopEntry × Nat
  | [] => ([], e + 8)
  | t :: ts =>
    if t.stop ≠ e then (t :: ts, e + 8)
    else
      let n := (t.count + 2 ^ 32 - 1) % 2 ^ 32
      if 0 < n then ({ t with count := n } :: ts, t.start) else loopEnd e ts

/-- Loops that a jump leaves (R272). -/
def leaveLoops (g : Nat) : List LoopEntry → List LoopEntry
  | [] => []
  | t :: ts => if t.start ≤ g && g ≤ t.stop then t :: ts else leaveLoops g ts

/-- Change the barge in hand. -/
def State.modNow (s : State) (g : Barge → Barge) : State := s.modBarge s.sched.cur.barge g

/-- The instruction is over. -/
def Barge.over (x : Barge) (loops : List LoopEntry) (pc : Nat) : Barge :=
  { x with mode := .running, loops := loops, pc := pc % 2 ^ 57, first := 0, rel := none, nbWait := none, fault := { cause := 0 } }

/-- The barge goes on with the next instruction. -/
def State.bargeStep (s : State) : State := s.modNow (fun x => x.over (loopEnd x.pc x.loops).1 (loopEnd x.pc x.loops).2)

/-- It jumps. -/
def State.bargeJump (s : State) (g : Nat) : State := s.modNow (fun x => x.over (leaveLoops g x.loops) g)

/-- It has found a fault (R284). -/
def State.bargeFail (s : State) (f : BargeFault) : State := s.modNow (fun x => { x with pending := some f })

/-- It waits. -/
def State.bargeWait (s : State) : State := s.modNow (fun x => { x with mode := .waiting })

/-- Write a register and go on. -/
def State.bargeSet (s : State) (f : BargeForm) (v : Nat) : State :=
  (s.modNow (fun x => { x with a := Sparse.set 0 x.a f.d.toNat (v % 2 ^ 64) })).bargeStep

/-! ### Arithmetic and branches (R270, R271) -/

def execBnop (_f : BargeForm) (s : State) : Out := .next s.bargeStep

def execBmov (f : BargeForm) (s : State) : Out := .next (s.bargeSet f (s.bA f))

/-- `bmovi` and `bmovi.hi`. -/
def execBmovi (f : BargeForm) (s : State) : Out :=
  .next (s.bargeSet f (if bitOf f.x.toNat 12 then s.areg f.d.toNat % 2 ^ 32 + f.imm.toNat * 2 ^ 32 else f.simm))

def execBadd (f : BargeForm) (s : State) : Out := .next (s.bargeSet f (s.bA f + s.bB f))

def execBsub (f : BargeForm) (s : State) : Out := .next (s.bargeSet f (s.bA f + (2 ^ 64 - s.bB f)))

def execBmul (f : BargeForm) (s : State) : Out := .next (s.bargeSet f (s.bA f * s.bB f))

def execBshl (f : BargeForm) (s : State) : Out := .next (s.bargeSet f (s.bA f * 2 ^ (s.bB f % 64)))

/-- `bshr` and `bshr.a`. -/
def execBshr (f : BargeForm) (s : State) : Out :=
  .next (s.bargeSet f (if bitOf f.x.toNat 12 then wrap 64 (signed 64 (s.bA f) / 2 ^ (s.bB f % 64)) else s.bA f / 2 ^ (s.bB f % 64)))

def execBand (f : BargeForm) (s : State) : Out := .next (s.bargeSet f (s.bA f &&& s.bB f))

def execBor (f : BargeForm) (s : State) : Out := .next (s.bargeSet f (s.bA f ||| s.bB f))

/-- `bcmp`: condition codes 6 and 7 fault. -/
def execBcmp (f : BargeForm) (s : State) : Out :=
  let v := fun (x : Nat) => if bitOf f.x.toNat 9 then signed 64 x else (x : Int)
  if 6 ≤ f.xbits 10 3 then .next (s.bargeFail { cause := Cause.illegalOperand })
  else .next (s.bargeSet f (bit (intCond (f.xbits 10 3) (v (s.bA f)) (v (s.bB f)))))

/-- A displacement from the instruction (R271). -/
def State.bargeTarget (s : State) (f : BargeForm) : Nat := wrap 57 ((s.bargeNow.pc : Int) + signed 32 f.imm.toNat)

/-- `bbr`. -/
def execBbr (f : BargeForm) (s : State) : Out :=
  if f.imm.toNat % 8 ≠ 0 then .next (s.bargeFail { cause := Cause.illegalOperand })
  else if (s.bA f = 0) = (bitOf f.x.toNat 12) then .next (s.bargeJump (s.bargeTarget f))
  else .next s.bargeStep

/-- `bjmp`, relative or to an address. -/
def execBjmp (f : BargeForm) (s : State) : Out :=
  if f.i then
    if f.imm.toNat % 8 ≠ 0 then .next (s.bargeFail { cause := Cause.illegalOperand }) else .next (s.bargeJump (s.bargeTarget f))
  else if s.bA f % 8 ≠ 0 then .next (s.bargeFail { cause := Cause.misaligned })
  else if 2 ^ 57 ≤ s.bA f then .next (s.bargeFail { cause := Cause.notPresent })
  else .next (s.bargeJump (s.bA f))

/-- `bloop` (R272). -/
def execBloop (f : BargeForm) (s : State) : Out :=
  let x := s.bargeNow
  let n := if f.i then f.x.toNat else s.bA f % 2 ^ 32
  let l := s.bargeTarget f
  if signed 32 f.imm.toNat ≤ 0 || f.imm.toNat % 8 ≠ 0 then .next (s.bargeFail { cause := Cause.illegalOperand })
  else if n = 0 then
    let e := loopEnd x.pc x.loops
    .next (s.modNow (fun x => x.over e.1 (if e.2 = x.pc + 8 then l + 8 else e.2)))
  else if 4 ≤ x.loops.length then .next (s.bargeFail { cause := Cause.illegalOperand })
  else .next (s.modNow (fun x => x.over ({ count := n, start := x.pc + 8, stop := l } :: x.loops) (x.pc + 8)))

/-! ### Behind the group accesses of the core (R283) -/

/-- An operation waits for one of `tied`: on preconditions, for an awaited retirement or one before it in the token; or behind an earlier
access of its core to the location, a store that comes before its own, or a `biasset` (R226, R401). -/
def Op.waitsFor (s : State) (tied : List Nat) (id : Nat) (o : Op) : Bool :=
  if o.held then
    o.waits.any (fun w => (((s.group o.grp).tok o.handler w.1).fifo.take w.2).any (fun k => decide (k ∈ tied)))
  else
    tied.any (fun q =>
      let p := s.op q
      decide (q < id) && sameOrder o p &&
        ((o.isGlobal && (p.kind = .bias || (o.storing && p.storing && p.isGlobal))) || (o.kind = .bias && p.isGlobal) ||
          o.left.any (fun k => match partPlace s o k with
            | some a => p.left.any (partMeets s p a (o.span k).2)
            | none => false)))

/-- Operations found to wait for one of `tied`, until none is left to find. -/
def tieMore (s : State) : Nat → List Nat → List Nat
  | 0, tied => tied
  | n + 1, tied =>
    let more := (s.ops.filter (fun (p : Nat × Op) => !decide (p.1 ∈ tied) && p.2.waitsFor s tied p.1)).map (fun p => p.1)
    if more.isEmpty then tied else tieMore s n (tied ++ more)

/-- Operations that cannot go on before the run of a barge does. -/
def tiedTo (s : State) (b : Nat) : List Nat :=
  tieMore s s.ops.length ((s.ops.filter (fun (p : Nat × Op) => p.2.kind = .bargeRun && p.2.x = b)).map (fun p => p.1))

/-- Where accesses that the groups of a barge's core have issued are still to be performed, or their stores alone: a run observes what was
released at core scope before it began, and each of its acquires what was before that; a release at core scope waits for nothing, and keeps
the order of the core's path (R226, R233, R283). The model's choice (log 85): the barge waits for every one that does not wait for its run. -/
def pathAhead (s : State) (b : Nat) (stores : Bool) : List (Nat × Nat) :=
  let core := (s.team (teamOfBarge b)).core
  let ops := s.ops.filter (fun (p : Nat × Op) => p.2.core = core && (!stores || p.2.storing) && !p.2.left.isEmpty)
  if ops.isEmpty then []
  else
    let tied := tiedTo s b
    (ops.filter (fun p => !decide (p.1 ∈ tied))).flatMap (fun p => p.2.left.filterMap (fun k => (partPlace s p.2 k).map (fun a => (a, (p.2.span k).2))))

/-- One of those meets the bytes at an address of a space. -/
def behindPath (s : State) (ahead : List (Nat × Nat)) (team sp a n : Nat) : Bool :=
  !ahead.isEmpty && (match spaceKey s team sp a with
    | some k => ahead.any (fun r => meets r.1 r.2 k n)
    | none => false)

/-- A read of the barge in hand waits behind the core's path. -/
def State.readsBehind (s : State) (sp a n : Nat) : Bool := behindPath s (pathAhead s s.sched.cur.barge true) s.bargeTeam sp a n

/-! ### Index loads and addresses (R279) -/

/-- A failing access of the barge (R267, R284); in spaces 1 to 3 the address is a 32-bit offset. -/
def accessFault (cause : Nat) (write : Bool) (sp addr : Nat) : BargeFault :=
  { cause := cause, valid := true, write := write, space := sp, addr := addr % 2 ^ (if 1 ≤ sp && sp ≤ 3 then 32 else 57) }

/-- An index of a size code, signed or not. -/
def indexValue (size : Nat) (sgn : Bool) (x : Nat) : Int := if sgn then signed (8 * 2 ^ size) x else (x : Int)

/-- `bldi`. -/
def execBldi (f : BargeForm) (s : State) : Out :=
  let sp := f.xbits 11 2
  let size := f.xbits 9 2
  if s.readsBehind sp ((s.bA f + f.simm) % 2 ^ 64) (2 ^ size) then .next s
  else
  match spaceRead s s.bargeTeam sp ((s.bA f + f.simm) % 2 ^ 64) (2 ^ size) with
  | .wait => .next s
  | .fail c a => .next (s.bargeFail (accessFault c false sp a))
  | .ok bs s1 => .next (s1.bargeSet f (wrap 64 (indexValue size (bitOf f.x.toNat 8) (ofBytes bs))))

/-- Signed coordinates from registers. -/
def State.coords (s : State) (c rank : Nat) : List Int := (rangeFrom c rank).map (fun i => signed 64 (s.areg i))

/-- A record as the barge in hand reads it; cause 0 where the read waits. -/
def State.layoutAt (s : State) (off : Nat) : Except Nat Layout :=
  if s.readsBehind 1 off 64 then .error 0 else readLayout s s.bargeTeam off

/-- `baddr`. -/
def execBaddr (f : BargeForm) (s : State) : Out :=
  match s.layoutAt (s.bA f) with
  | .error c => if c = 0 then .next s else .next (s.bargeFail { cause := c })
  | .ok r =>
    if 16 < f.b.toNat + r.rank then .next (s.bargeFail { cause := Cause.illegalOperand })
    else .next (s.bargeSet f (r.elemAddr (s.coords f.b.toNat r.rank)))

/-! ### Instruction fetch (R261, R268) -/

/-- The core and the address space of a barge. -/
def coreOfBarge (s : State) (b : Nat) : Nat := (s.team (teamOfBarge b)).core

def asidOfBarge (s : State) (b : Nat) : Nat := (s.launch (launchOfTeam (teamOfBarge b))).asid

/-- The 64-bit word of barge code behind a leaf; cause 0 where the fetch waits. -/
def wordBehind (s : State) (b : Nat) (t : TlbEntry) (va : Nat) : Except Nat (Nat × State) :=
  let launch := launchOfTeam (teamOfBarge b)
  match codeAt s (coreOfBarge s b) launch t va with
  | .error c => .error c
  | .ok (lo, s1) =>
    match codeAt s1 (coreOfBarge s b) launch t (va + 4) with
    | .error c => .error c
    | .ok (hi, s2) => .ok (lo + hi * 2 ^ 32, s2)

/-- The word that the barge's instruction cache holds for an address (R261), of the physical one behind it and read under the same key
(R249, R254). -/
def wordKept (s : State) (b : Nat) (t : TlbEntry) (va : Nat) : Option Nat :=
  ((s.barge b).code.find? (fun w => w.va = va && w.pa = t.phys va && w.key = s.leafKey t)).map (fun w => w.word)

/-- The cache keeps a word, in place of another one for the address. -/
def keepWord (s : State) (b : Nat) (t : TlbEntry) (va w : Nat) : State :=
  let new : CodeWord := { core := coreOfBarge s b, asid := asidOfBarge s b, va := va, pa := t.phys va, word := w, key := s.leafKey t }
  s.modBarge b (fun x => { x with code := new :: x.code.filter (fun c => c.va != va) })

/-- The 64-bit word at an address, from the cache or as the core fetches it (R268): every fetch is translated. -/
def bargeWord (s : State) (b va : Nat) : Except Nat (Nat × State) :=
  match translate s (coreOfBarge s b) (asidOfBarge s b) va 3 with
  | .error c => .error c
  | .ok (t, s1) =>
    match wordKept s1 b t va with
    | some w => .ok (w, s1)
    | none =>
      match wordBehind s1 b t va with
      | .error c => .error c
      | .ok (w, s2) => .ok (w, keepWord s2 b t va w)

/-- The 64-bit word at a barge's pc; cause 0 where the fetch waits. -/
def bargeFetch (s : State) (b : Nat) : Except Nat (Nat × State) :=
  if (s.barge b).pc % 8 ≠ 0 then .error Cause.misaligned else bargeWord s b (s.barge b).pc

/-- The instruction at a barge's pc, if it can be fetched, with no effect. -/
def bargePeek (s : State) (b : Nat) : Option (Nat × BargeForm) :=
  match bargeFetch s b with
  | .error _ => none
  | .ok (w, _) => match decodeBarge (BitVec.ofNat 64 w) with
    | .ok (.barge op f) => some (op, f)
    | _ => none

/-! ### Queues (R280) -/

/-- Copies of the barge in hand are in flight: what another agent sees waits for them, so that a fault stays precise (R284, log 80). -/
def State.copying (s : State) : Bool := !s.bargeNow.flight.isEmpty

/-- `bqin`. -/
def execBqin (f : BargeForm) (s : State) : Out :=
  let q := f.imm.toNat
  if !(32 ≤ q && q < 48) then .next (s.bargeFail { cause := Cause.illegalOperand })
  else if s.copying then .next s
  else
    match s.queueOf s.bargeTeam q with
    | e :: es => .next ((s.setQueue s.bargeTeam q es).bargeSet f e)
    | [] =>
      if (liveGroupsOf s s.bargeTeam).isEmpty then .next (s.bargeFail { cause := Cause.queueProtocol }) else .next s.bargeWait

/-- A barge of the team with a lower index stands at a `bqout` to the queue: of two writes of one cycle its own enters first (R280). -/
def outAhead (s : State) (b q : Nat) : Bool :=
  (rangeFrom (4 * teamOfBarge b) (b % 4)).any (fun k =>
    ((s.barge k).mode = .running || (s.barge k).mode = .waiting) && !bargeHeld s k &&
      (match bargePeek s k with
        | some (op, f) => op = 0x11 && f.imm.toNat = q
        | none => false))

/-! ### Copies (R275 to R278) -/

/-- Source and destination of the elements of one unit: none for a selvedge-filled or a dropped one. -/
abbrev Moves := List (Option Nat × Option Nat)

/-- What a copy moves: element size, spaces, the teams written to, and how its global stores go. -/
structure Mover where
  team : Nat
  esize : Nat
  src : Nat
  dst : Nat
  targets : List Nat
  writer : Writer
  /-- where stores, and accesses of any kind, of the core's groups come first (R283) -/
  stores : List (Nat × Nat) := []
  accesses : List (Nat × Nat) := []

/-- Teams named in a copy's mask; the team itself where there is none (R275). -/
def Flight.teams (c : Flight) (s : State) (team : Nat) : List Nat :=
  if (c.op = 0x13 || c.op = 0x14) && c.f.imm != 0#32 then
    ((clusterTeams s team).zip (rangeFrom 0 12)).filterMap (fun p => if bitOf c.f.imm.toNat p.2 then some p.1 else none)
  else [team]

/-- The mover of unit `n` of a copy of a barge. -/
def Flight.mover (c : Flight) (s : State) (b n : Nat) : Mover :=
  let team := teamOfBarge b
  { team := team, esize := c.dst.esize, src := c.src.space, dst := c.dst.space, targets := c.teams s team
    writer := { team := team, agent := bargeAgent b, part := n, seq := c.seq, ga := c.dst.ga, birth := s.cycle (s.team team).core }
    stores := pathAhead s b true, accesses := pathAhead s b false }

/-- A register as the copy found it. -/
def Flight.reg (c : Flight) (i : Nat) : Nat := Sparse.get 0 c.a i % 2 ^ 64

/-- The end of a unit. -/
inductive UnitEnd where
  | wait
  | fail (f : BargeFault)
  | ok (s : State)

/-- Read elements one after the other; a missing one is zero. -/
def readMoves (m : Mover) : State → List (Option Nat) → Acc (List (List Byte))
  | s, [] => .ok [] s
  | s, a :: as =>
    match (match a with
      | none => Acc.ok (toBytes 0 m.esize) s
      | some x => if behindPath s m.stores m.team m.src x m.esize then .wait else spaceRead s m.team m.src x m.esize) with
    | .wait => .wait
    | .fail c x => .fail c x
    | .ok bs s1 =>
      match readMoves m s1 as with
      | .wait => .wait
      | .fail c x => .fail c x
      | .ok l s2 => .ok (bs :: l) s2

/-- Write bytes one after the other in one team. -/
def writeMoves (m : Mover) (team : Nat) : State → List (Nat × List Byte) → Acc Unit
  | s, [] => .ok () s
  | s, (a, bs) :: l =>
    match spaceWrite s m.writer team m.dst a bs with
    | .wait => .wait
    | .fail c x => .fail c x
    | .ok _ s1 => writeMoves m team s1 l

/-- The next element joins the bytes of the last one's sector: sector, mask of its bytes, and the bytes. -/
def joinSector (acc : List (Nat × Nat × Nat)) (w : Nat × List Byte) : List (Nat × Nat × Nat) :=
  let n := w.2.length
  let put := fun (m d : Nat) => (w.1 / 32, m ||| ((2 ^ n - 1) <<< (w.1 % 32)), setBits d (8 * (w.1 % 32)) (8 * n) (ofBytes w.2))
  match acc with
  | (k, m, d) :: rest => if k = w.1 / 32 then put m d :: rest else put 0 0 :: acc
  | [] => [put 0 0]

/-- Elements of a row that follow one another in a sector of global memory are written as one run of bytes: a row is written whole (R276), so
one that covers a sector makes it readable again (R221). -/
def sectorRuns (l : List (Nat × List Byte)) : List (Nat × List Byte) :=
  (l.foldl joinSector []).reverse.flatMap (fun k => (wcRuns k.2.1 k.2.2 32 0).map (fun r => (32 * k.1 + r.1, r.2)))

/-- The elements of a row written in one team; the first element of a sector that refuses is the one that fails. -/
def writeRow (m : Mover) (team : Nat) (s : State) (l : List (Nat × List Byte)) : Acc Unit :=
  if m.dst = 0 then
    match writeMoves m team s (sectorRuns l) with
    | .fail c x => .fail c (((l.find? (fun w => w.1 / 32 = x / 32)).map (fun w => w.1)).getD x)
    | r => r
  else writeMoves m team s l

/-- Bytes of elements, by name. -/
def moveKeys (s : State) (team sp esize : Nat) (as : List Nat) : List Nat :=
  as.flatMap (fun a => (rangeFrom a esize).filterMap (fun x => spaceKey s team sp x))

/-- Bytes at `a` where those that the copy also reads are unspecified (R275, log 15). -/
def blurBytes (team sp : Nat) (srcs : List Nat) : State → Nat → List Byte → List Byte × State
  | s, _, [] => ([], s)
  | s, a, b :: bs =>
    let hit := match spaceKey s team sp a with
      | some k => decide (k ∈ srcs)
      | none => false
    let r := blurBytes team sp srcs (if hit then s.took else s) (a + 1) bs
    ((if hit then s.freeByte else b) :: r.1, r.2)

/-- Every element of a unit as it is written in a team. -/
def blurMoves (team sp : Nat) (srcs : List Nat) : State → List (Nat × List Byte) → List (Nat × List Byte) × State
  | s, [] => ([], s)
  | s, (a, bs) :: l =>
    let r := blurBytes team sp srcs s a bs
    let rest := blurMoves team sp srcs r.2 l
    ((a, r.1) :: rest.1, rest.2)

/-- Write them in every target; `srcs` names the bytes that the whole copy reads, where that makes a written byte unspecified. -/
def writeTargets (m : Mover) (srcs : List Nat) (l : List (Nat × List Byte)) : State → List Nat → Acc Unit
  | s, [] => .ok () s
  | s, t :: ts =>
    let r := if srcs.isEmpty then (l, s) else blurMoves t m.dst srcs s l
    match writeRow m t r.2 r.1 with
    | .wait => .wait
    | .fail c x => .fail c x
    | .ok _ s1 => writeTargets m srcs l s1 ts

/-- Elements are written once the checks of every one have passed (R278). -/
def writeUnit (m : Mover) (srcs : List Nat) (s : State) (ws : List (Nat × List Byte)) : UnitEnd :=
  match ws.find? (fun w => writeStop s m.team m.dst w.1 m.esize != 0) with
  | some w => .fail (accessFault (writeStop s m.team m.dst w.1 m.esize) true m.dst w.1)
  | none =>
    if m.targets.any (fun t => ws.any (fun w => behindPath s m.accesses t m.dst w.1 m.esize)) then .wait
    else
    match writeTargets m srcs ws s m.targets with
    | .wait => .wait
    | .fail c x => .fail (accessFault c true m.dst x)
    | .ok _ s2 => .ok s2

/-- One unit (R278): every read, then the checks of every write, then the writes. -/
def runUnit (m : Mover) (srcs : List Nat) (s : State) (es : Moves) : UnitEnd :=
  match readMoves m s (es.map (fun e => e.1)) with
  | .wait => .wait
  | .fail c x => .fail (accessFault c false m.src x)
  | .ok vs s1 => writeUnit m srcs s1 ((es.zip vs).filterMap (fun e => e.1.2.map (fun a => (a, e.2))))

/-- Coordinates of a box line: the box's dimensions 1 and up count within unit number `n` (R275). -/
def lineCoords (t : Layout) : Nat → Nat → Nat → List Nat
  | 0, _, _ => []
  | k + 1, i, n => n % t.dim i :: lineCoords t k (i + 1) (n / t.dim i)

/-- The elements of box line `n` of `bcopy` (R275). -/
def Flight.boxLine (c : Flight) (n : Nat) : Moves :=
  let d := c.dst
  let r := c.src
  let toTile := d.tile
  let t := c.tile
  let x := if toTile then r else d
  let org := (rangeFrom c.f.b.toNat t.rank).map (fun i => signed 64 (c.reg i))
  let line := lineCoords t (t.rank - 1) 1 n
  (rangeFrom 0 (t.dim 0)).map (fun b0 =>
    let b : List Int := (b0 :: line).map (fun (k : Nat) => (k : Int))
    let p := (org.zip b).map (fun e => e.1 + e.2)
    let inside := (p.zip (rangeFrom 0 x.rank)).all (fun e => decide (0 ≤ e.1) && decide (e.1 < (x.dim e.2 : Int)))
    if toTile then ((if inside then some (r.elemAddr p) else none), some (d.elemAddr b))
    else (some (r.elemAddr b), if inside then some (d.elemAddr p) else none))

/-- The bytes that a `bcopy` reads, by name. -/
def Flight.sources (c : Flight) (s : State) (team : Nat) : List Nat :=
  (rangeFrom 0 c.units).flatMap (fun n => moveKeys s team c.src.space c.src.esize ((c.boxLine n).filterMap (fun e => e.1)))

/-- An index of a list (R276). -/
def readIndex (m : Mover) (s : State) (c : Flight) (r : Nat) : Acc Int :=
  let sp := c.f.xbits 11 2
  let size := c.f.xbits 9 2
  let a := (c.reg c.f.b.toNat + r * 2 ^ size) % 2 ^ 64
  if behindPath s m.stores m.team sp a (2 ^ size) then .wait
  else
  match spaceRead s m.team sp a (2 ^ size) with
  | .wait => .wait
  | .fail c a => .fail c a
  | .ok bs s1 => .ok (indexValue size (bitOf c.f.x.toNat 8) (ofBytes bs)) s1

/-- Row `k` of a record. -/
def Layout.row (r : Layout) (k : Nat) : List Nat := (rangeFrom 0 (r.dim 0)).map (fun (e : Nat) => r.elemAddr [(e : Int), (k : Int)])

/-- `k` names a row of the record. -/
def rowIn (r : Layout) (k : Int) : Bool := decide (0 ≤ k) && decide (k < (r.dim 1 : Int))

/-- The elements of unit `n` of a gather or a scatter whose index is `k` (R276): a scatter does nothing where it is outside. -/
def Flight.rowMoves (c : Flight) (n : Nat) (k : Int) : Moves :=
  if c.op = 0x15 then (if rowIn c.dst k then ((c.src.row n).map some).zip ((c.dst.row k.toNat).map some) else [])
  else (if rowIn c.src k then (c.src.row k.toNat).map some else (c.dst.row n).map (fun _ => none)).zip ((c.dst.row n).map some)

/-- One element added to a pool (R277). -/
def poolAdd (fmt : Nat) (acc : Option Nat) (y : Nat) : Option Nat :=
  let y := if fmt = 1 then y * 2 ^ 16 else y
  match acc with
  | none => some y
  | some x => some (if fmt = 2 then (x + y) % 2 ^ 32 else fpAdd .f32 0 false x y)

/-- The element of a pool as it is written. -/
def poolOut (fmt : Nat) (acc : Option Nat) : Nat :=
  match acc with
  | none => 0
  | some x => if fmt = 1 then roundTo (Fmt.f32.value x) .bf16 0 false else x

/-- Rows summed one after the other; where an access fails, the fault. -/
def poolRows (m : Mover) (c : Flight) : Nat → Nat → State → List (Option Nat) → Except BargeFault (Option (List (Option Nat) × State))
  | 0, _, s, acc => .ok (some (acc, s))
  | n + 1, k, s, acc =>
    match readIndex m s c k with
    | .wait => .ok none
    | .fail e a => .error (accessFault e false (c.f.xbits 11 2) a)
    | .ok j s1 =>
      if !rowIn c.src j then poolRows m c n (k + 1) s1 acc
      else
        match readMoves m s1 ((c.src.row j.toNat).map some) with
        | .wait => .ok none
        | .fail e x => .error (accessFault e false m.src x)
        | .ok vs s2 => poolRows m c n (k + 1) s2 ((acc.zip vs).map (fun e => poolAdd (c.f.xbits 6 2) e.1 (ofBytes e.2)))

/-- Unit `n` of a copy of a barge: a box line, a row, or a whole pool (R275 to R278). -/
def copyUnit (s : State) (b : Nat) (c : Flight) (n : Nat) : UnitEnd :=
  let m := c.mover s b n
  match c.op with
  | 0x13 => runUnit m (c.sources s m.team) s (c.boxLine n)
  | 0x16 =>
    match poolRows m c (c.reg (c.f.xbits 2 4) % 2 ^ 32) 0 s ((rangeFrom 0 (c.dst.dim 0)).map (fun _ => none)) with
    | .error e => .fail e
    | .ok none => .wait
    | .ok (some (acc, s1)) => writeUnit m [] s1 ((c.dst.row 0).zip (acc.map (fun x => toBytes (poolOut (c.f.xbits 6 2) x) c.dst.esize)))
  | _ =>
    match readIndex m s c n with
    | .wait => .wait
    | .fail e a => .fail (accessFault e false (c.f.xbits 11 2) a)
    | .ok k s1 => runUnit m [] s1 (c.rowMoves n k)

/-- A copy in flight, changed. -/
def State.modFlight (s : State) (b k : Nat) (g : Flight → Flight) : State :=
  s.modBarge b (fun x => { x with flight := x.flight.modify k g })

/-- The k-th copy in flight performs up to `n` units, in increasing order (R278; log 87, the model's choice), as far as nothing holds them; the
core counts their bytes (R330). -/
def copyUnits (b k : Nat) : Nat → State → State
  | 0, s => s
  | n + 1, s =>
    match (s.barge b).flight[k]? with
    | none => s
    | some c =>
      if c.fault.isSome || c.units ≤ c.unit then s
      else
        match copyUnit s b c c.unit with
        | .wait => s
        | .fail f => s.modFlight b k (fun c => { c with fault := some { f with ndone := c.unit } })
        | .ok s1 => copyUnits b k n ((s1.modFlight b k (fun c => { c with unit := c.unit + 1 })).modCore (s1.team (teamOfBarge b)).core
            (fun x => { x with bargeBytes := x.bargeBytes + c.bytes }))

/-- Every copy in flight of the barge in hand would be performed to its end as things stand: none of them faults or waits. -/
def copiesPass (s : State) : Bool :=
  let b := s.sched.cur.barge
  let t := ((rangeFrom 0 s.bargeNow.flight.length).zip s.bargeNow.flight).foldl (fun s p => copyUnits b p.1 (p.2.units - p.2.unit) s) s
  (t.barge b).flight.all (fun c => c.fault.isNone && decide (c.units ≤ c.unit))

/-- `bqout`: no release (R282), so its entry may be seen before the bytes of a copy that has begun; it waits where such a copy is to fault or
waits itself, since nobody could take the entry back (R284, log 80). -/
def execBqout (f : BargeForm) (s : State) : Out :=
  let q := f.imm.toNat
  if !(48 ≤ q && q < 64) then .next (s.bargeFail { cause := Cause.illegalOperand })
  else if !copiesPass s || (outAhead s s.sched.cur.barge q && decide ((s.queueOf s.bargeTeam q).length < 8)) then .next s
  else if 8 ≤ (s.queueOf s.bargeTeam q).length then .next s.bargeWait
  else .next ((s.setQueue s.bargeTeam q (s.queueOf s.bargeTeam q ++ [s.bA f])).bargeStep)

/-- Turn `.copy`. -/
def copyTurn (s : State) (b k n : Nat) : State := settleBarge (copyUnits b k n s) b

/-- Teams of the cluster. -/
def clusterSize (s : State) (team : Nat) : Nat := (s.launch (launchOfTeam team)).w * (s.launch (launchOfTeam team)).h

/-- Cause of a multicast mask (R275): the destination must take it, and every team named be there; 0 for none. -/
def maskCause (s : State) (mask : Nat) (ok : Bool) : Nat :=
  if mask = 0 then 0
  else if !ok then Cause.illegalOperand
  else if mask / 2 ^ clusterSize s s.bargeTeam ≠ 0 then Cause.multicast
  else 0

/-- The two records of a copy: destination, then source; cause 0 where a read waits. -/
def twoRecords (s : State) (f : BargeForm) : Except Nat (Layout × Layout) :=
  match s.layoutAt (s.areg f.d.toNat) with
  | .error c => .error c
  | .ok d => match s.layoutAt (s.bA f) with
    | .error c => .error c
    | .ok r => .ok (d, r)

/-- A copy begins (R273, R282): it reads its records, once, and is in flight; a cause that `check` finds is its fault, with
`valid` 0 in DW3 since no access raised it (R267; log 87, the model's choice). -/
def beginCopy (op : Nat) (check : Layout → Layout → Nat) (f : BargeForm) (s : State) : State :=
  match twoRecords s f with
  | .error c => if c = 0 then s else s.bargeFail { cause := c }
  | .ok (d, r) =>
    if check d r ≠ 0 then s.bargeFail { cause := check d r }
    else
      let x := s.bargeNow
      let rd := fun (o : Nat) => ofBytes (s.scrRead s.bargeTeam (o % 2 ^ 32) 64)
      let c : Flight := { op := op, f := f, word := x.word, pc := x.pc, a := x.a, loops := x.loops
                          recs := (rd (s.areg f.d.toNat), rd (s.bA f)), seq := s.sched.nextId
                          unit := x.first, first := x.first }
      let s1 := s.modSched (fun k => { k with nextId := k.nextId + 1 })
      (s1.modNow (fun x => { x with flight := x.flight ++ [c] })).bargeStep

/-- What stops a `bcopy` (R275); 0 for nothing. -/
def boxCause (s : State) (f : BargeForm) (d r : Layout) : Nat :=
  if d.tile = r.tile || d.rank ≠ r.rank || d.esize ≠ r.esize || 16 < f.b.toNat + d.rank then Cause.illegalOperand
  else maskCause s f.imm.toNat (d.tile && d.space = 1)

/-- `bcopy` (R275). -/
def execBcopy (f : BargeForm) (s : State) : Out := .next (beginCopy 0x13 (boxCause s f) f s)

/-- The two records and the index list of a gather or a scatter are of the right shape (R276). -/
def rowsOk (f : BargeForm) (d r : Layout) : Bool :=
  d.rank = 2 && r.rank = 2 && d.esize = r.esize && d.dim 0 = r.dim 0 && decide (2 ≤ f.xbits 9 2)

/-- What stops a gather or a scatter (R276). -/
def rowsCause (s : State) (f : BargeForm) (d r : Layout) : Nat :=
  if !rowsOk f d r then Cause.illegalOperand else maskCause s f.imm.toNat (d.space = 1)

/-- `bgath` (R276). -/
def execBgath (f : BargeForm) (s : State) : Out := .next (beginCopy 0x14 (rowsCause s f) f s)

/-- `bscat` (R276). -/
def execBscat (f : BargeForm) (s : State) : Out := .next (beginCopy 0x15 (rowsCause s f) f s)

/-- What stops a `bpool` (R277). -/
def poolCause (f : BargeForm) (d r : Layout) : Nat :=
  let fmt := f.xbits 6 2
  if !rowsOk f d r || fmt = 3 || d.esize ≠ (if fmt = 1 then 2 else 4) then Cause.illegalOperand else 0

/-- `bpool` (R277): the whole instruction is one unit. -/
def execBpool (f : BargeForm) (s : State) : Out := .next (beginCopy 0x16 (poolCause f) f s)

/-! ### Synchronisation (R281) -/

/-- Every earlier access of the barge in hand is performed at a scope (R227, R282); at system scope the host holds nothing older (R402). -/
def bargePerformed (s : State) (sc : Nat) : Bool :=
  let b := s.sched.cur.barge
  let mine := fun (agent : Nat) => agent = bargeAgent b
  s.bargeNow.flight.all (fun c => c.fault.isNone && decide (c.units ≤ c.unit)) &&
    (decide (sc < 4) || (s.mem.fwd.all (fun st => !mine st.agent) && s.mem.gaPend.all (fun st => !mine st.agent) &&
      s.mem.invals.all (fun v => !mine v.agent))) &&
    (decide (sc < 5) || hostReleased s s.sched.nextId)

/-- A release of the barge in hand at a scope (R233, R282): it waits for the barge's own accesses and, at package scope or wider, for every
store performed at a copy of its die before it began; then `go`, with what system scope writes back. -/
def State.bargeRelease (s : State) (sc : Nat) (go : State → State) : State :=
  let s1 := s.modNow (fun x => { x with rel := some (x.rel.getD s.sched.nextId) })
  let upto := s1.bargeNow.rel.getD 0
  if s1.copying || !bargePerformed s1 sc || (4 ≤ sc && !dieReleased s1 (dieOf (s1.team s1.bargeTeam).core) upto) ||
      (5 ≤ sc && !hostReleased s1 upto) then s1
  else go (writeBack s1 sc)

/-- `btok`. -/
def execBtok (_f : BargeForm) (s : State) : Out :=
  let b := s.sched.cur.barge
  if s.bargeNow.left ≤ 1 then .next (s.bargeFail { cause := Cause.illegalOperand })
  else .next (s.bargeRelease 4 (fun s => (retireRun (s.modNow (fun x => { x with since := 0 })) b s.bargeNow.since none).bargeStep))

/-- `bend`. -/
def execBend (_f : BargeForm) (s : State) : Out :=
  let b := s.sched.cur.barge
  .next (s.bargeRelease 4 (fun s =>
    let s1 := retireRest (retireRun (s.modNow (fun x => { x with since := 0 })) b s.bargeNow.since none) b none
    s1.modNow (fun x => { x with mode := .idle, first := 0, rel := none })))

/-- `barr.nb`: the barge counts as one more member each time; kinds 2 and 3 fault. -/
def execBarrNb (f : BargeForm) (s : State) : Out :=
  let k := bits f.imm.toNat 0 4
  let n := bits f.imm.toNat 8 6
  let t := s.bargeTeam
  if f.xbits 11 2 ≠ 0 || n = 0 || maxMembers (s.launch (launchOfTeam t)) < n then .next (s.bargeFail { cause := Cause.illegalOperand })
  else
    match ((s.team t).nb k).arrive none n with
    | none => .next (s.bargeFail { cause := Cause.illegalOperand })
    | some _ => .next (s.bargeRelease 1 (fun s => match ((s.team t).nb k).arrive none n with
      | none => s
      | some x => (s.setNb t k x).bargeStep))

/-- The chamber of a barge's instruction, or the fault (R180, R281). -/
def bargeChamber (s : State) (sc addr : Nat) : Except Nat ChamberAt :=
  let a := if sc ≤ 2 then addr % 2 ^ 32 else addr
  if badChamberScope sc then .error Cause.illegalOperand
  else if a % 16 ≠ 0 then .error Cause.misaligned
  else match chamberAt s s.bargeTeam sc a with
    | none => .error Cause.scratchBound
    | some c => .ok c

/-- Space of a chamber's address in a fault record. -/
def chamberSpace (sc : Nat) : Nat :=
  match sc with
  | 1 => 1
  | 2 => 2
  | _ => 0

/-- `barr.sc`. -/
def execBarrSc (f : BargeForm) (s : State) : Out :=
  let sc := f.xbits 8 3
  if f.xbits 11 2 ≠ 1 then .next (s.bargeFail { cause := Cause.illegalOperand })
  else
    match bargeChamber s sc (s.bA f) with
    | .error c => .next (s.bargeFail { cause := c })
    | .ok at_ => .next (s.bargeRelease sc (fun s =>
      match arriveAt s (teamAgent s s.bargeTeam) at_ (if bitOf f.x.toNat 7 then 0 else 1) (s.areg f.b.toNat % 2 ^ 32) false 0 sc with
      | .wait => s
      | .fail c a => s.bargeFail (accessFault c true (chamberSpace sc) a)
      | .ok _ s1 => s1.bargeStep))

/-- Amount of `bsem` and `bwait`. -/
def semAmount (s : State) (f : BargeForm) : Nat := if f.i then 1 else s.areg f.b.toNat % 2 ^ 32

/-- `bsem`. -/
def execBsem (f : BargeForm) (s : State) : Out :=
  let core := (s.team s.bargeTeam).core
  let k := bits f.imm.toNat 0 5
  .next (s.bargeRelease 1 (fun s => (s.setSem core k ((s.sem core k + semAmount s f) % 2 ^ 32)).bargeStep))

/-- `bwait` on a semaphore (kind 3 faults): it joins the queue and subtracts at its head (R208). -/
def execBwait (f : BargeForm) (s : State) : Out :=
  let b := s.sched.cur.barge
  let core := (s.team s.bargeTeam).core
  let k := bits f.imm.toNat 0 5
  let n := semAmount s f
  if f.xbits 11 2 ≠ 0 then .next (s.bargeFail { cause := Cause.illegalOperand })
  else if s.copying then .next s
  else if n = 0 then .next (leaveSemBarge s b).bargeStep
  else
    let s1 := (s.joinSem core k (.barge b)).modNow (fun x => { x with semWait := k + 1 })
    if (s1.semQueue core k).head? = some (.barge b) && decide (n ≤ s1.sem core k) then
      .next (leaveSemBarge (s1.setSem core k (s1.sem core k - n)) b).bargeStep
    else .next s1.bargeWait

/-- `bwait.sc`: a poisoned chamber faults. -/
def execBwaitSc (f : BargeForm) (s : State) : Out :=
  let sc := f.xbits 8 3
  match bargeChamber s sc (s.bA f) with
  | .error c => .next (s.bargeFail { cause := c })
  | .ok at_ =>
    if s.copying then .next s
    else match readChamber s (teamAgent s s.bargeTeam) at_ with
    | .wait => .next s
    | .fail c a => .next (s.bargeFail (accessFault c false (chamberSpace sc) a))
    | .ok ch s1 =>
      if ch.phase = bitOf f.imm.toNat 0 then .next s1.bargeWait
      else if chamberScope sc != ch.scope then .next (s.bargeFail { cause := Cause.illegalOperand })
      else if ch.poison then .next (s.bargeFail { cause := Cause.poisonConsumed })
      else .next s1.bargeStep

/-- `bwait.nb`: where the phase is not yet the other one it joins the barrier's waiters, and goes on with its next flip (R204). -/
def execBwaitNb (f : BargeForm) (s : State) : Out :=
  let k := bits f.imm.toNat 0 4
  if f.xbits 11 2 ≠ 2 then .next (s.bargeFail { cause := Cause.illegalOperand })
  else if s.copying then .next s
  else
    match s.bargeNow.nbWait with
    | some (_, flipped) => if flipped then .next s.bargeStep else .next s.bargeWait
    | none =>
      if ((s.team s.bargeTeam).nb k).phase = bitOf f.imm.toNat 8 then .next (s.bargeWait.modNow (fun x => { x with nbWait := some (k, false) }))
      else .next s.bargeStep

/-- `bfence` (R282): it waits for the barge's own accesses; it is no release of R233's table. -/
def execBfence (f : BargeForm) (s : State) : Out :=
  let sc := f.xbits 8 3
  if sc = 0 || sc = 7 then .next (s.bargeFail { cause := Cause.illegalOperand }) else if bargePerformed s sc then .next (writeBack s sc).bargeStep
  else .next s

/-! ### A barge's turn -/

/-- What a barge's turn finds. -/
inductive BargeLook where
  /-- nothing to execute now -/
  | rest (s : State)
  | run (op : Nat) (f : BargeForm) (s : State)

/-- The turn of a barge: what is due at its boundary; an armed one may start; a running or waiting one looks at its instruction. -/
def bargeLook (s : State) (b : Nat) : BargeLook :=
  let s0 := startBarge (settleBarge s b) b
  let x := s0.barge b
  if !(x.mode = .running || x.mode = .waiting) || bargeHeld s0 b then .rest s0
  else
    let s1 := s0.modSched (fun c => { c with cur := { c.cur with barge := b } })
    match bargeFetch s1 b with
    | .error c => if c = 0 then .rest s0 else .rest ((s1.modBarge b (fun x => { x with word := 0 })).bargeFail (accessFault c false 4 x.pc))
    | .ok (w, s2) =>
      let s3 := s2.modBarge b (fun x => { x with word := w })
      match decodeBarge (BitVec.ofNat 64 w) with
      | .ok (.barge op f) => .run op f s3
      | _ => .rest (s3.bargeFail { cause := Cause.illegalInstruction })

/-! ### Group access to the queues (R280) -/

/-- The operand `q`n of a field. -/
def queueNo (n : BitVec 11) : Nat := n.toNat - 1600

/-- A team without barges names a barge queue. -/
def noBarges (act : Lanes) (s : State) (extra : Bool) : Sparse Nat :=
  if act != 0#32 && (s.myLaunch.barges = 0 || extra) then causeAll act Cause.queueProtocol else []

/-- `mov q`j`, x` (R280): the path stalls while the queue is full. -/
def execMovQueueWrite (f : ExtForm) (s : State) : Out :=
  let q := queueNo f.d
  let n := wordsOfTy (typeOf f 5)
  s.checked f { a := some { cls := clsV + clsS + clsP + clsM + clsC, words := n }, bad := !(32 ≤ q && q < 48) }
    (fun act s => noBarges act s false)
    (fun act s =>
      let team := teamOf s.sched.cur.grp
      if act = 0#32 then s.advance
      else if 8 ≤ (s.queueOf team q).length then s
      else (s.setQueue team q (s.queueOf team q ++ [s.opA f (typeOf f 5) (low act)])).advance)

/-- `mov d, q`j (R280): a queue read. -/
def execMovQueueRead (f : ExtForm) (s : State) : Out :=
  let q := queueNo f.a
  let n := wordsOfTy (typeOf f 5)
  s.checked f { d := some { cls := clsV + clsS + clsP, words := n }, bad := !(48 ≤ q && q < 64) }
    (fun act s =>
      let team := teamOf s.sched.cur.grp
      noBarges act s ((s.queueOf team q).isEmpty && !anyBusyBarge s team))
    (fun act s =>
      if act = 0#32 then s.advance
      else s.issueFlag f { kind := .queueRead, major := 0x05, active := act, dests := rangeFrom f.d.toNat n, x := q
                           y := bit (bitOf f.mods.toNat 7) })

/-- QUEUE_READ_LAND (R280, R344): the oldest read of its group at the queue takes an entry; a taken completion lands. -/
def execQueueReadLand (op : Nat) (s : State) : Out :=
  let o := s.op op
  let team := teamOf o.grp
  if s.hasOp op && o.kind = .queueRead && o.x < 32 then .next (flagDone s op)
  else if !(s.hasOp op && o.kind = .queueRead && !o.withdrawn) || s.ops.any (fun (p : Nat × Op) => p.1 < op && p.2.kind = .queueRead && p.2.grp = o.grp && p.2.x = o.x)
  then .next s
  else
    match s.queueOf team o.x with
    | [] => .next s
    | e :: es =>
      .next (flagDone ((s.setQueue team o.x es).modOp op (fun o => { o with vals := o.active.toList.map (fun i => (i, e)) })) op)

end Sys2Proof.Machine
end

