-- ==== Sys2Proof/Machine/Matrix.lean ====
section
/-! DEFINITION. The matrix engine (R287 to R308): element formats, panels, the arithmetic of R74 to R77, the issue of majors 0x21 to
0x23, and the steps of an engine. -/

namespace Sys2Proof.Machine

open Sys2Proof

/-! ### Elements (R290, R293, R294) -/

/-- How the elements of a matrix operation are read. -/
structure Elem where
  /-- bits of an element -/
  width : Nat
  /-- floating format, or INT8 -/
  fmt : Option Fmt
  /-- block scales apply -/
  mx : Bool := false
  /-- INT8: A and B unsigned -/
  au : Bool := false
  bu : Bool := false
  deriving DecidableEq, Repr

/-- Elements of a type code of R293 and modifiers (word 1 [31:22]). -/
def elemOf (ty mods : Nat) : Elem :=
  match ty with
  | 1 => { width := 8, fmt := none, au := bitOf mods 7, bu := bitOf mods 6 }
  | 9 => { width := 16, fmt := some .f16 }
  | 10 => { width := 8, fmt := some .e4m3 }
  | 11 => { width := 8, fmt := some .e5m2 }
  | 12 => { width := 6, fmt := some .e3m2 }
  | 13 => { width := 6, fmt := some .e2m3 }
  | 14 => { width := 4, fmt := some .e2m1 }
  | 15 =>
    match bits mods 3 3 with
    | 0 => { width := 8, fmt := some .e4m3, mx := true }
    | 1 => { width := 8, fmt := some .e5m2, mx := true }
    | 2 => { width := 6, fmt := some .e3m2, mx := true }
    | 3 => { width := 6, fmt := some .e2m3, mx := true }
    | _ => { width := 4, fmt := some .e2m1, mx := true }
  | _ => { width := 16, fmt := some .bf16 }

/-- q(ty) (R294), which is also the rate r of R295. -/
def Elem.q (e : Elem) : Nat := match e.width with
  | 16 => 1
  | 8 => 2
  | _ => 4

/-- Products of a k-step (R74). -/
def Elem.step (e : Elem) : Nat := 16 * e.q

/-- Element-size code of a panel record (R290). -/
def Elem.esize (e : Elem) : Nat := if e.width = 16 then 2 else 1

/-- Bytes of a panel row of `k` elements (R290). -/
def Elem.rowBytes (e : Elem) (k : Nat) : Nat := k * e.width / 8

/-! ### The shape pair (R294) -/

def shapeM (x : Nat) : Nat := 64 * 2 ^ bits x 18 2

def shapeN (x : Nat) : Nat := 64 * 2 ^ bits x 16 2

def shapeRo (x : Nat) : Nat := 64 * bits x 14 2

def shapeCo (x : Nat) : Nat := 64 * bits x 12 2

def shapeKq (x : Nat) : Nat := bits x 0 10

def shapeK (x : Nat) : Nat := 64 * shapeKq x

/-- Whether major and index are `mma` or `mmac`. -/
def isMma (major : Nat) : Bool := major = 0x22

/-- Why a shape pair may not be used (R294); 0 for nothing. `n` is the number of teams of the cluster. -/
def shapeCause (major idx : Nat) (e : Elem) (x n : Nat) : Nat :=
  let illegal :=
    bits x 18 2 = 3 || bits x 16 2 = 3 || bits x 10 2 != 0 || decide (256 < shapeRo x + shapeM x) || decide (256 < shapeCo x + shapeN x) ||
    (isMma major && (shapeKq x = 0 || shapeKq x % e.q != 0 || (e.mx && decide (16 < shapeKq x)))) ||
    (!(isMma major && idx = 1) && bits x 20 44 != 0) ||
    (major = 0x23 && idx != 3 && shapeKq x != 0) ||
    (major = 0x23 && idx = 3 && (shapeRo x != 0 || shapeCo x != 0 || shapeKq x = 0 || decide (16 < shapeKq x)))
  if illegal then Cause.illegalOperand
  else if isMma major && idx = 1 && [52, 40, 28].any (fun lo => bits x lo 12 / 2 ^ n != 0) then Cause.multicast
  else 0

/-! ### Arithmetic (R74 to R77) -/

/-- The exact sum of the products of a step (R74, R76). -/
def exactSum (ps : List XVal) : XVal :=
  if ps.any (fun p => match p with | .nan => true | _ => false) then .nan
  else
    let pos := ps.any (fun p => match p with | .inf n => !n | _ => false)
    let neg := ps.any (fun p => match p with | .inf n => n | _ => false)
    if pos && neg then .nan
    else if pos then .inf false
    else if neg then .inf true
    else
      let e := ps.foldl (fun e p => match p with | .fin _ _ x => min e x | _ => e) 0
      let t : Int := ps.foldl (fun (t : Int) p => match p with
        | .fin n m x => t + (if n then -1 else 1) * ((m * 2 ^ (x - e).toNat : Nat) : Int)
        | _ => t) 0
      if t = 0 then .fin (ps.all XVal.isNegZero) 0 0 else .ofInt t e

/-- One floating k-step of an accumulator (R74, R75). -/
def floatStep (c : Nat) (a b : List XVal) : Nat :=
  if b.all XVal.isZero then c
  else roundTo (XVal.add 0 (Fmt.f32.value c) (exactSum (List.zipWith XVal.mul a b))) .f32 0 false

/-- One INT8 k-step (R77). -/
def intStep (c : Nat) (a b : List Int) : Nat := wrap 32 ((c : Int) + (List.zipWith (fun (x y : Int) => x * y) a b).sum)

/-! ### Panels (R290) -/

/-- One byte of the scratchpad of a team at an address a record gives. -/
def panelByte (s : State) (team : Nat) (r : Layout) (p row : Nat) : Nat :=
  ofBytes (s.scrRead team (r.elemAddr [(p : Int), (row : Int)] % 2 ^ 32) 1)

/-- The bits of element `k` of a panel row. -/
def panelBits (s : State) (team : Nat) (r : Layout) (e : Elem) (row k : Nat) : Nat :=
  match e.width with
  | 16 => ofBytes (s.scrRead team (r.elemAddr [(k : Int), (row : Int)] % 2 ^ 32) 2)
  | 8 => panelByte s team r k row
  | 6 =>
    let p := 3 * (k / 4)
    let g := panelByte s team r p row + panelByte s team r (p + 1) row * 2 ^ 8 + panelByte s team r (p + 2) row * 2 ^ 16
    bits g (6 * (k % 4)) 6
  | _ => bits (panelByte s team r (k / 2) row) (4 * (k % 2)) 4

/-- Scale byte of an element (R295, R299). -/
def scaleOf (e : Elem) (m : Sparse Nat) (row k : Nat) : Option Nat := if e.mx then some (Sparse.get 0 m (64 * row + k / 32)) else none

/-- The value of an element under its scale (R70). -/
def elemValue (e : Elem) (x : Nat) (scale : Option Nat) : XVal :=
  match e.fmt with
  | none => .ofInt x 0
  | some t => match scale with
    | some k => (t.value x).mx k
    | none => t.value x

/-- Row bytes stay within the scratchpad, 16 bytes after 16 bytes: twill moves no smaller piece (R274). -/
def panelInside (s : State) (team : Nat) (r : Layout) (rows rb : Nat) : Bool :=
  let bound := (s.launch (launchOfTeam team)).scratch * 256
  (rangeFrom 0 rows).all (fun i => (rangeFrom 0 ((rb + 15) / 16)).all (fun c =>
    decide (r.elemAddr [((16 * c / r.esize : Nat) : Int), (i : Int)] % 2 ^ 32 + min 16 (rb - 16 * c) ≤ bound)))

/-- A panel record may be used (R290). -/
def panelCause (s : State) (team : Nat) (r : Layout) (e : Elem) (rows k : Nat) : Nat :=
  if r.rank != 2 || r.space != 1 || r.twill != 3 || r.esize != e.esize || decide (r.dim 0 * r.esize < e.rowBytes k) ||
      decide (r.dim 1 < rows) || r.cause != 0 then Cause.illegalOperand
  else if panelInside s team r rows (e.rowBytes k) then 0
  else Cause.scratchBound

/-! ### Records of transfers and scales (R298, R299) -/

/-- Element size of a transfer type. -/
def transferSize (ty : Nat) : Nat := if ty = 8 || ty = 9 then 2 else 4

/-- Rows and columns as index pairs, in the order of R298. -/
def tileCoords (m n : Nat) : List (Nat × Nat) := (rangeFrom 0 m).flatMap (fun i => (rangeFrom 0 n).map (fun j => (i, j)))

/-- A transfer record may be used (R274, R298). -/
def transferCause (s : State) (team : Nat) (r : Layout) (ty x : Nat) : Nat :=
  let bound := (s.launch (launchOfTeam team)).scratch * 256
  if r.rank != 2 || decide (1 < r.space) || r.esize != transferSize ty || decide (r.dim 0 < shapeN x) || decide (r.dim 1 < shapeM x) then
    Cause.illegalOperand
  else if r.cause != 0 then r.cause
  else if r.space = 1 && !((tileCoords (shapeM x) (shapeN x)).all (fun p =>
      decide (r.elemAddr [(p.2 : Int), (p.1 : Int)] % 2 ^ 32 + r.esize ≤ bound))) then Cause.scratchBound
  else 0

/-- A scale record may be used (R299). -/
def scaleCause (r : Layout) (rows k : Nat) : Nat :=
  if r.rank != 2 || r.space != 1 || r.esize != 1 || r.twill != 0 || decide (r.dim 0 < k / 32) || decide (r.dim 1 < rows) ||
      r.cause != 0 then Cause.illegalOperand
  else 0

/-- A record as the engine read it. -/
def recordOf (x : Nat) : Layout := Layout.ofBytes (toBytes x 64)

/-! ### The queue (R300) -/

def MxOp.idx (q : MxOp) : Nat := q.minor % 16

def MxOp.elem (q : MxOp) : Elem := elemOf (q.minor / 16) q.mods

def MxOp.team (q : MxOp) : Nat := teamOf q.grp

/-- `mmac`. -/
def MxOp.isMmac (q : MxOp) : Bool := isMma q.major && q.idx = 1

/-- Announced to its cluster, the tile not yet resolved (R296). -/
def MxOp.announced (q : MxOp) : Bool := q.isMmac && q.opened && !q.mc

/-- Scale set and `.mx` agree (R295). -/
def scalesFit (e : Engine) (x : Nat) : Bool :=
  match e.scales with
  | none => false
  | some k => k.m = shapeM x && k.n = shapeN x && k.kq = shapeKq x

/-- What the check of an operation's records finds as it starts (R290, R295, R298, R299); 0 for nothing. -/
def startCause (s : State) (e : Engine) (q : MxOp) : Nat :=
  let x := q.shape
  let ra := recordOf q.recA
  let rb := recordOf q.recB
  if isMma q.major then
    let a := panelCause s q.team ra q.elem (shapeM x) (shapeK x)
    let b := panelCause s q.team rb q.elem (shapeN x) (shapeK x)
    if q.elem.mx && q.scales.isNone && !scalesFit e x then Cause.illegalOperand
    else if a = 0 then b
    else if b = 0 then a
    else min a b
  else match q.idx with
    | 0 => 0
    | 3 =>
      let a := scaleCause ra (shapeM x) (shapeK x)
      let b := scaleCause rb (shapeN x) (shapeK x)
      if a != 0 || b != 0 then Cause.illegalOperand
      else if panelInside s q.team ra (shapeM x) (shapeK x / 32) && panelInside s q.team rb (shapeN x) (shapeK x / 32) then 0
      else Cause.scratchBound
    | _ => transferCause s q.team ra (q.minor / 16) x

/-- The head of the queue, changed. -/
def Engine.modHead (e : Engine) (f : MxOp → MxOp) : Engine :=
  match e.queue with
  | [] => e
  | q :: qs => { e with queue := f q :: qs }

/-- The team of an engine has exited and the queue has run empty: the hold ends (R287). -/
def releaseIdle (s : State) (core : Nat) : State :=
  match (s.engine core).holder with
  | some t => if (s.team t).exited && (s.engine core).queue.isEmpty then releaseEngine s core else s
  | none => s

/-- The head operation retires (R300). -/
def retireHead (s : State) (core bytes : Nat) (f : Option Failure) : State :=
  match (s.engine core).queue with
  | [] => s
  | q :: qs =>
    let s1 := s.modEngine core (fun e => { e with queue := qs, progress := 0 })
    let s2 := if q.op ≠ 0 then finishOp s1 q.op bytes f else retireToken s1 q.grp q.handler q.token bytes f
    releaseIdle s2 core

/-- Poisoned with a cause that no access recorded. -/
def poisonHead (s : State) (core cause : Nat) : State := retireHead s core 0 (some { cause := cause, valid := false })

/-- Every scratchpad access that the group issued before the operation is performed (R301). -/
def observesEarlier (s : State) (q : MxOp) : Bool :=
  s.ops.all (fun (p : Nat × Op) => !(p.2.grp = q.grp && p.1 < q.op && p.2.isLevel && !p.2.left.isEmpty))

/-- It starts; a `.mx` operation with the scale set as it stands (R299). -/
def MxOp.begun (q : MxOp) (set : Option ScaleSet) : MxOp :=
  { q with started := true, scales := if q.elem.mx && q.scales.isNone then set else q.scales }

/-- The engine reads the records of its head, once (R290). -/
def openHead (s : State) (core : Nat) (q : MxOp) : State :=
  let rd := fun (o : Nat) => ofBytes (s.scrRead q.team o 64)
  let q1 := { q with opened := true, recA := rd q.a, recB := rd q.b }
  let q2 := { q1 with bad := startCause s (s.engine core) q1 }
  let s1 := s.modEngine core (fun e => e.modHead (fun _ => q2))
  if q.isMmac && !q.mc then s1
  else if q2.bad != 0 then poisonHead s1 core q2.bad
  else s1.modEngine core (fun e => e.modHead (fun q => q.begun e.scales))

/-- MATRIX_OPERATION_START (R300): the head starts once its preconditions hold, after the cycle of its issue, in which an operation of a lower
`group.idx` may still enter ahead of it, and not while its team is being pre-empted (R306). An `mmac` announces itself (R296). -/
def execMatrixOperationStart (core : Nat) (s : State) : Out :=
  match (s.engine core).queue with
  | [] => .next s
  | q :: _ =>
    if q.opened || (preempting s q.team && !q.handler) || (q.op != 0 && decide ((s.op q.op).birth = s.cycle core)) then .next s
    else if q.started then .next (openHead s core q)
    else if !(q.waits.all (fun p => p.2 = 0) && observesEarlier s q) then .next s
    else
      match poisonBy q.pre (s.group q.grp) q.handler q.mask with
      | some c => .next (poisonHead s core c)
      | none => .next (openHead s core q)

/-! ### Cluster tiles (R296, R297) -/

/-- Team key of `team.idx` n in a cluster. -/
def teamInCluster (s : State) (cluster n : Nat) : Nat :=
  let l := s.launch (cluster / 2 ^ 24)
  cluster / 2 ^ 24 * 2 ^ 28 + cluster % 2 ^ 24 * (l.w * l.h) + n

/-- The announced `mmac` of a team, the head of its engine's queue. -/
def announcedBy (s : State) (team : Nat) : Option MxOp :=
  match (s.engine (s.team team).core).queue with
  | q :: _ => if q.announced && q.team = team then some q else none
  | [] => none

/-- The team has exited, and its engine's queue is empty. -/
def teamGone (s : State) (team : Nat) : Bool :=
  (s.team team).exited && ((s.engine (s.team team).core).holder != some team || (s.engine (s.team team).core).queue.isEmpty)

/-- The teams of the tile that a team announces (R296): those its part names, and itself. -/
def tileOf (s : State) (cluster n : Nat) (q : MxOp) : List Nat :=
  let ns := rangeFrom 0 ((s.launch (cluster / 2 ^ 24)).w * (s.launch (cluster / 2 ^ 24)).h)
  (ns.filter (fun k => k = n || bitOf (bits q.shape 52 12) k)).map (teamInCluster s cluster)

/-- The tiles of an identifier, one for each team that announces it: teams of other parts make tiles of their own (R296). -/
def tilesOf (s : State) (cluster tile : Nat) : List (List Nat) :=
  let ns := rangeFrom 0 ((s.launch (cluster / 2 ^ 24)).w * (s.launch (cluster / 2 ^ 24)).h)
  ns.filterMap (fun n => match announcedBy s (teamInCluster s cluster n) with
    | some q => if bits q.shape 20 8 = tile then some (tileOf s cluster n q) else none
    | none => none)

/-- The announced `mmac` of the team stands in a tile whose multicast has begun. -/
def inTile (s : State) (t : Nat) : Bool := match announcedBy s t with
  | some q => q.met
  | none => false

/-- Every team of the tile has announced or is gone, and none stands in another tile (R296). -/
def tileReady (s : State) (ts : List Nat) : Bool := ts.all (fun t => ((announcedBy s t).isSome && !inTile s t) || teamGone s t)

/-- What the announcements of one tile agree in (R296): part, identifier, M, N, K, type and modifiers. -/
def MxOp.terms (q : MxOp) : List Nat :=
  [bits q.shape 52 12, bits q.shape 20 8, bits q.shape 16 4, shapeKq q.shape, if q.minor / 16 = 0 then 8 else q.minor / 16, q.mods]

/-- Every announced participant retires poisoned. -/
def poisonTile (s : State) (ts : List Nat) (cause : Nat) : State :=
  ts.foldl (fun s t => if (announcedBy s t).isSome then poisonHead s (s.team t).core cause else s) s

/-- A tile resolves (R296): it is poisoned, or its multicast begins. -/
def resolveTile (s : State) (ts : List Nat) : State :=
  let qs := ts.filterMap (announcedBy s)
  if qs.length != ts.length || qs.any (fun q => q.terms != ((qs.head?.map MxOp.terms).getD [])) then poisonTile s ts Cause.illegalOperand
  else
    match qs.find? (fun q => q.bad != 0) with
    | some q => poisonTile s ts q.bad
    | none => ts.foldl (fun s t => s.modEngine (s.team t).core (fun e => e.modHead (fun q => { q with met := true }))) s

/-- MMAC_RENDEZVOUS (R296): a tile of the identifier all of whose teams are there resolves. -/
def execMmacRendezvous (cluster tile : Nat) (s : State) : Out :=
  match (tilesOf s cluster tile).find? (tileReady s) with
  | none => .next s
  | some ts => .next (resolveTile s ts)

/-- The bytes of a panel, by scratchpad offset. -/
def panelBytes (s : State) (team : Nat) (r : Layout) (rows rb : Nat) : List (Nat × List Byte) :=
  (rangeFrom 0 rows).flatMap (fun (i : Nat) => (rangeFrom 0 ((rb + 15) / 16)).map (fun (c : Nat) =>
    let a := r.elemAddr [((16 * c / r.esize : Nat) : Int), (i : Int)] % 2 ^ 32
    (a, s.scrRead team a (min 16 (rb - 16 * c)))))

/-- What a participant writes to the others: teams and bytes. -/
def multicasts (s : State) (cluster t : Nat) : List (Nat × List (Nat × List Byte)) :=
  match announcedBy s t with
  | none => []
  | some q =>
    let going := fun (lo : Nat) => ((rangeFrom 0 12).filter (fun n => bitOf (bits q.shape lo 12) n)).map (teamInCluster s cluster)
    let rb := q.elem.rowBytes (shapeK q.shape)
    let a := panelBytes s t (recordOf q.recA) (shapeM q.shape) rb
    let b := panelBytes s t (recordOf q.recB) (shapeN q.shape) rb
    ((going 40).filter (fun u => u != t)).map (fun u => (u, a)) ++ ((going 28).filter (fun u => u != t)).map (fun u => (u, b))

/-- The panels of a tile stand in every team named, and each engine computes. -/
def landTile (s : State) (cluster : Nat) (ts : List Nat) : State :=
  let ws := ts.flatMap (multicasts s cluster)
  let s1 := ws.foldl (fun s w => w.2.foldl (fun s p => s.scrWrite w.1 p.1 p.2) s) s
  ts.foldl (fun s t => s.modEngine (s.team t).core (fun e => e.modHead (fun q => { q.begun e.scales with mc := true, met := false }))) s1

/-- MMAC_MULTICAST_LANDED (R296): of a tile of the identifier that has resolved. -/
def execMmacMulticastLanded (cluster tile : Nat) (s : State) : Out :=
  match (tilesOf s cluster tile).find? (fun ts => ts.all (inTile s)) with
  | none => .next s
  | some ts => .next (landTile s cluster ts)

/-! ### Computing -/

/-- K-steps of an `mma` are done. -/
def MxOp.computed (q : MxOp) : Bool := !isMma q.major || decide (shapeK q.shape ≤ 16 * q.kdone)

/-- Rows of values of one k-step. -/
def stepRows (s : State) (q : MxOp) (r : Layout) (scale : Sparse Nat) (rows k0 : Nat) : List (List XVal) :=
  (rangeFrom 0 rows).map (fun i => (rangeFrom k0 q.elem.step).map (fun k =>
    elemValue q.elem (panelBits s q.team r q.elem i k) (scaleOf q.elem scale i k)))

/-- Rows of integers of one k-step. -/
def stepInts (s : State) (q : MxOp) (r : Layout) (uns : Bool) (rows k0 : Nat) : List (List Int) :=
  (rangeFrom 0 rows).map (fun i => (rangeFrom k0 q.elem.step).map (fun k =>
    let x := panelBits s q.team r q.elem i k
    if uns then (x : Int) else signed 8 x))

/-- Every accumulator of a C tile takes a value. -/
def mapTile (tile : Sparse Word) (x : Nat) (f : Nat → Nat → Nat → Nat) : Sparse Word :=
  (tileCoords (shapeM x) (shapeN x)).foldl (fun t p =>
    let k := 256 * (shapeRo x + p.1) + shapeCo x + p.2
    Sparse.set 0#32 t k (BitVec.ofNat 32 (f p.1 p.2 (Sparse.get 0#32 t k).toNat))) tile

/-- The tile after one k-step of the head (R74 to R77, R295). -/
def stepTile (s : State) (e : Engine) (q : MxOp) : Sparse Word :=
  let k0 := 16 * q.kdone
  let ra := recordOf q.recA
  let rb := recordOf q.recB
  let x := q.shape
  match q.elem.fmt with
  | none =>
    let a := stepInts s q ra q.elem.au (shapeM x) k0
    let b := stepInts s q rb q.elem.bu (shapeN x) k0
    mapTile e.tile x (fun i j c => intStep c (nth [] a i) (nth [] b j))
  | some _ =>
    let sa := (q.scales.map (fun k => k.sa)).getD []
    let sb := (q.scales.map (fun k => k.sb)).getD []
    let a := stepRows s q ra sa (shapeM x) k0
    let b := stepRows s q rb sb (shapeN x) k0
    mapTile e.tile x (fun i j c => floatStep c (nth [] a i) (nth [] b j))

/-- A sub-tile of B (R302): its prediction, and whether every element's value is zero. -/
def subTile (s : State) (q : MxOp) (col kb : Nat) : ZeroTile × Bool :=
  let rb := recordOf q.recB
  let sb := (q.scales.map (fun k => k.sb)).getD []
  let p : Nat := 32 * kb * q.elem.width / 8 / q.elem.esize
  let at_ := fun (byte row : Nat) => rb.elemAddr [((byte / q.elem.esize : Nat) : Int), (row : Int)] % 2 ^ 32
  let w := 32 * q.elem.width / 8
  ({ team := q.team, off := rb.elemAddr [(p : Int), ((32 * col : Nat) : Int)] % 2 ^ 32
     blocks := (rangeFrom (32 * col) 32).flatMap (fun row => (rangeFrom (kb * w / 16) ((kb * w + w - 1) / 16 - kb * w / 16 + 1)).map (fun c => at_ (16 * c) row / 16)) },
   (rangeFrom (32 * col) 32).all (fun j => (rangeFrom (32 * kb) 32).all (fun k =>
     (elemValue q.elem (panelBits s q.team rb q.elem j k) (scaleOf q.elem sb j k)).isZero)))

/-- Sub-tiles of a k-step in a block of 32 columns. -/
def subTiles (s : State) (q : MxOp) (col : Nat) : List (ZeroTile × Bool) :=
  let k0 := 16 * q.kdone
  (rangeFrom (k0 / 32) ((k0 + q.elem.step - 1) / 32 - k0 / 32 + 1)).map (subTile s q col)

/-- The engine predicts a sub-tile zero. -/
def predicted (s : State) (z : ZeroTile) : Bool := s.scr.zero.any (fun x => x.team = z.team && x.off = z.off)

/-- The k-step is skipped on a block of 32 columns: every sub-tile that covers it there is predicted zero, and is zero, so that nothing is
replayed (R302). -/
def skipped (s : State) (q : MxOp) (col : Nat) : Bool := (subTiles s q col).all (fun t => predicted s t.1 && t.2)

/-- Predictions and their counters over one k-step (R302). -/
def predict (core : Nat) (q : MxOp) (s : State) : State :=
  (rangeFrom 0 (shapeN q.shape / 32)).foldl (fun s col =>
    let ts := subTiles s q col
    let missed := ts.filter (fun t => predicted s t.1 && !t.2)
    let s1 := s.modEngine core (fun e => { e with
      zskip := if skipped s q col then e.zskip + 1 else e.zskip, zmiss := e.zmiss + missed.length })
    s1.modScr (fun c => { c with zero := ts.foldl (fun z t =>
      (if t.2 then [t.1] else []) ++ z.filter (fun x => !(x.team = t.1.team && x.off = t.1.off))) c.zero })) s

/-- Half steps of a k-step: array cycles at the nominal rate, twice over (R295, R304). -/
def kStepHalves (x : Nat) : Nat := 2 * (shapeM x * shapeN x / 256)

/-- Half steps that the k-step in course takes: none on the blocks of columns where it is skipped (R302). -/
def kStepNeeds (s : State) (q : MxOp) : Nat :=
  ((rangeFrom 0 (shapeN q.shape / 32)).filter (fun col => !skipped s q col)).length * (shapeM q.shape / 4)

/-- Array cycles an `mma` still takes at the nominal rate (R295, R306). -/
def cyclesLeft (e : Engine) (q : MxOp) : Nat :=
  (shapeK q.shape - 16 * q.kdone) / q.elem.step * (kStepHalves q.shape / 2) - e.progress / 2

/-- A new window begins with its allowance (R303). -/
def newWindow (s : State) (core : Nat) : State :=
  let w := s.cycle core / 64
  if (s.engine core).window = w then s
  else s.modEngine core (fun e => { e with window := w, steps := 0, budgetNow := e.budget })

/-- SLUICE_WINDOW (R303). -/
def execSluiceWindow (core : Nat) (s : State) : Out := .next (newWindow s core)

/-- The head has array work (R303). -/
def Engine.working (e : Engine) : Bool :=
  match e.queue with
  | q :: _ => q.started && q.opened && isMma q.major && !q.computed
  | [] => false

/-- The head is being pre-empted: as that is found, whether it has 4096 cycles or more left says where it stops (R306). -/
def decidePark (s : State) (core : Nat) : State :=
  let e := s.engine core
  match e.queue with
  | [] => s
  | q :: _ =>
    if preempting s q.team && !q.handler && q.parks.isNone && e.working then
      s.modEngine core (fun e => e.modHead (fun q => { q with parks := some (decide (4096 ≤ cyclesLeft e q)) }))
    else s

/-- The head has come to the k-step boundary where it stops (R306). -/
def Engine.atStop (e : Engine) : Bool :=
  match e.queue with
  | q :: _ => q.parks = some true && e.progress = 0
  | [] => false

/-- One cycle of an engine (R303, R304): a step, or a step withheld; the last step of a k-step brings its sums. -/
def engineCycle (s0 : State) (core : Nat) : State :=
  let s := decidePark s0 core
  let e := s.engine core
  match e.queue with
  | [] => s
  | q :: _ =>
    let needs := kStepNeeds s q
    if !e.working || e.atStop then s
    else if needs != 0 && e.budgetNow ≤ e.steps then s.modEngine core (fun e => { e with stall := e.stall + 1 })
    else
      let p := e.progress + (if s.mgmt.alarm then 1 else 2)
      let s1 := if needs = 0 then s
        else (s.modCore core (fun c => { c with mxSteps := c.mxSteps + 1 })).modEngine core (fun e => { e with steps := e.steps + 1 })
      if p < needs then s1.modEngine core (fun e => { e with progress := p })
      else
        let tile := stepTile s e q
        (predict core q s1).modEngine core (fun e => { e.modHead (fun q => { q with kdone := q.kdone + q.elem.step / 16 }) with
          progress := 0, tile := tile })

/-! ### Transfers (R298, R299) -/

/-- What an accumulator becomes for an element that was read. -/
def widen (ty x : Nat) : Nat :=
  match ty with
  | 8 => roundTo (Fmt.bf16.value x) .f32 0 false
  | 9 => roundTo (Fmt.f16.value x) .f32 0 false
  | _ => x

/-- What an element becomes of an accumulator. -/
def narrowTo (ty rm : Nat) (sat : Bool) (x : Nat) : Nat :=
  match ty with
  | 8 => roundTo (Fmt.f32.value x) .bf16 rm sat
  | 9 => roundTo (Fmt.f32.value x) .f16 rm sat
  | _ => x

/-- A tile-store transfer in course: state, bytes, first failure with the number of its element. Nothing where it has to wait. -/
abbrev Transfer := Option (State × Nat × Option (Nat × Failure))

/-- Number of an element in the order of R298. -/
def elemNo (p : Nat × Nat) : Nat := 256 * p.1 + p.2

/-- One element of `mxld`. -/
def loadElem (core : Nat) (q : MxOp) (t : Transfer) (p : Nat × Nat) : Transfer :=
  match t with
  | none => none
  | some (s, n, f) =>
    let r := recordOf q.recA
    let a := r.elemAddr [(p.2 : Int), (p.1 : Int)]
    match spaceRead s q.team r.space a r.esize with
    | .wait => none
    | .fail c _ => some (s, n, some (f.getD (elemNo p, { cause := c, lane := q.lane, addr := a, write := false })))
    | .ok bs s1 =>
      let k := 256 * (shapeRo q.shape + p.1) + shapeCo q.shape + p.2
      some (s1.modEngine core (fun e => { e with tile := Sparse.set 0#32 e.tile k (BitVec.ofNat 32 (widen (q.minor / 16) (ofBytes bs))) }),
        n + r.esize, f)

/-- One element of `mxst`. -/
def storeElem (core : Nat) (q : MxOp) (t : Transfer) (p : Nat × Nat) : Transfer :=
  match t with
  | none => none
  | some (s, n, f) =>
    let r := recordOf q.recA
    let a := r.elemAddr [(p.2 : Int), (p.1 : Int)]
    let x := (Sparse.get 0#32 (s.engine core).tile (256 * (shapeRo q.shape + p.1) + shapeCo q.shape + p.2)).toNat
    let y := narrowTo (q.minor / 16) (bits q.mods 0 2) (bitOf q.mods 2) x
    let no := fun (c : Nat) => some (s, n, some (f.getD (elemNo p, { cause := c, lane := q.lane, addr := a, write := true })))
    let w : Writer := { team := q.team, agent := 2048 + core, op := q.op, part := elemNo p, seq := q.op, ga := r.ga, birth := s.cycle core }
    match spaceWrite s w q.team r.space a (toBytes y r.esize) with
    | .wait => none
    | .fail c _ => no c
    | .ok _ s1 => some (s1, n + r.esize, f)

/-- Scale bytes of a record (R299). -/
def scaleBytes (s : State) (team : Nat) (r : Layout) (rows k : Nat) : Sparse Nat :=
  (tileCoords rows (k / 32)).foldl (fun m p => Sparse.set 0 m (64 * p.1 + p.2) (panelByte s team r p.2 p.1)) []

/-- What the head operation does as it ends: state, bytes, failure. -/
def headEffect (s : State) (core : Nat) (q : MxOp) : Transfer :=
  let x := q.shape
  let ps := tileCoords (shapeM x) (shapeN x)
  if isMma q.major then some (s, 0, none)
  else match q.idx with
    | 0 => some (s.modEngine core (fun e => { e with tile := mapTile e.tile x (fun _ _ _ => 0) }), 0, none)
    | 1 => ps.foldl (loadElem core q) (some (s, 0, none))
    | 2 => ps.foldl (storeElem core q) (some (s, 0, none))
    | _ =>
      let set : ScaleSet :=
        { m := shapeM x, n := shapeN x, kq := shapeKq x
          sa := scaleBytes s q.team (recordOf q.recA) (shapeM x) (shapeK x)
          sb := scaleBytes s q.team (recordOf q.recB) (shapeN x) (shapeK x) }
      some (s.modEngine core (fun e => { e with scales := some set }), 0, none)

/-- The global stores of an `mxst` are at their homes (R301): bytes and the first failure, of those found at once and those found there. -/
def sentEnd (o : Op) (n : Nat) (f : Option (Nat × Failure)) : Nat × Option Failure :=
  (n - o.lostBytes, match f, o.fail with
    | some (k, x), some y => some (if o.y < k then y else x)
    | some (_, x), none => some x
    | none, y => y)

/-- MATRIX_OPERATION_RETIRE (R295, R298 to R301): the head has done its work and retires, an `mxst` with its global stores at their homes. -/
def execMatrixOperationRetire (core : Nat) (s : State) : Out :=
  match (s.engine core).queue with
  | [] => .next s
  | q :: _ =>
    if !(q.opened && q.started && q.computed) then .next s
    else
      match q.sent with
      | some (n, f) =>
        if !storesHome s (2048 + core) q.op then .next s
        else
          let r := sentEnd (s.op q.op) n f
          .next (retireHead s core r.1 r.2)
      | none =>
        match headEffect s core q with
        | none => .next s
        | some (s1, n, f) =>
          if storesHome s1 (2048 + core) q.op then
            let r := sentEnd (s1.op q.op) n f
            .next (retireHead s1 core r.1 r.2)
          else .next (s1.modEngine core (fun e => e.modHead (fun q => { q with sent := some (n, f) })))

/-- TILE_STORE_ZEROED (R288). -/
def execTileStoreZeroed (core : Nat) (s : State) : Out :=
  if (s.engine core).zeroing then .next (s.modEngine core (fun e => { e with zeroing := false, tile := [], scales := none }))
  else .next s

/-! ### Parking (R306) -/

/-- The queue may be parked: its head has not started, stands where it stops, or is the handler's own. -/
def headParks (e : Engine) : Bool :=
  match e.queue with
  | [] => true
  | q :: _ => q.handler || e.atStop || (!q.met && !q.started)

/-- An operation as it is parked. -/
def MxOp.parkedForm (q : MxOp) : MxOp := { q with op := 0, opened := false, met := false, recA := 0, recB := 0, bad := 0, parks := none }

/-- The engine's predictions for a team are discarded (R302). -/
def dropPredictions (s : State) (team : Nat) : State := s.modScr (fun c => { c with zero := c.zero.filter (fun z => z.team != team) })

/-- MATRIX_QUEUE_PARK (R306): the queue becomes images; its operations stay in the counts of their tokens. What the team's handlers have
put into the queue stays there. The predictions go with it, also where nothing is queued; those of a handler's own operations stay (R302). -/
def execMatrixQueuePark (core : Nat) (s0 : State) : Out :=
  let s := decidePark s0 core
  let e := s.engine core
  let own := e.queue.filter (fun q => !q.handler)
  match e.holder with
  | none => .next s
  | some team =>
    if preempting s team && noHeldDest s team && headParks e && !own.isEmpty then
      let qs := own.map MxOp.parkedForm
      let s1 := own.foldl (fun s q => if q.op ≠ 0 then forgetOp s q.op else s) s
      let s2 := dropPredictions (s1.modEngine core (fun e => { e with
        queue := e.queue.filter (fun q => q.handler), parked := qs, images := imagesFrom 0 qs, nimages := qs.length, progress := 0 })) team
      .next (s2.modTeam team (fun t => { t with mxOwners := qs.map (fun q => idxOf q.grp + 32 * q.lane), mxScales := qs.map (fun q => q.scales) }))
    else if preempting s team && (liveGroupsOf s team).all (fun k => (s.group k).mode != .handler) then .next (dropPredictions s team)
    else .next s

/-! ### Major 0x21 (R287, R292) -/

/-- `mxres`. -/
def execMxres (f : ExtForm) (s : State) : Out :=
  s.instr f { d := predDst } (fun act s =>
    let team := teamOf s.sched.cur.grp
    let e := s.engine s.myCore
    let ok := e.holder = some team || (e.holder.isNone && !e.zeroing)
    let s1 := if ok then s.modEngine s.myCore (fun e => { e with holder := some team }) else s
    (s1.writeTruth act f.d.toNat (fun _ => ok)).advance)

/-- `mxrel`. -/
def execMxrel (f : ExtForm) (s : State) : Out :=
  s.instr f {} (fun _ s =>
    let team := teamOf s.sched.cur.grp
    let e := s.engine s.myCore
    if e.holder != some team then s.advance
    else if e.queue.any (fun q => q.team = team) then s
    else (releaseEngine s s.myCore).advance)

/-- `mxsign` (R292). -/
def execMxsign (f : ExtForm) (s : State) : Out :=
  s.instr f { d := maskWant } (fun act s => (s.modJoin (maskNo f.d) (fun j => { j with signed := j.signed ||| act })).advance)

/-! ### Majors 0x22 and 0x23 (R291, R293, R294) -/

/-- Destination: a join mask, or `pt`. -/
def declWant : Option Want := some { cls := clsM + 8 }

/-- The shape pair: an even `s` pair. -/
def shapeWant : Option Want := some { cls := clsS, words := 2 }

/-- A record offset that may not be used (R294). -/
def offsetCause (s : State) (o : Nat) : Nat :=
  if o % 64 ≠ 0 then Cause.misaligned else if s.myLaunch.scratch * 256 < o + 64 then Cause.scratchBound else 0

/-- Causes of an issue by lane e: the lowest stands (R170, R294, R308); 0 for nothing. -/
def issueCause (major idx : Nat) (useA useB : Bool) (f : ExtForm) (s : State) (e : Nat) : Nat :=
  let l := s.myLaunch
  let team := teamOf s.sched.cur.grp
  let cs := [shapeCause major idx (elemOf (typeOf f 8) f.mods.toNat) (s.opC f 4 e) (l.w * l.h),
    if useA then offsetCause s (s.opA f 5 e) else 0, if useB then offsetCause s (s.opB f 5 e) else 0,
    if (s.engine s.myCore).holder = some team then 0 else Cause.matrixNotReserved]
  (minOf (cs.filter (fun c => c != 0))).getD 0

/-- An operation enters the queue: of one cycle's operations the lower `group.idx` comes first (R300). -/
def enqueue (s : State) (core : Nat) (q : MxOp) : List MxOp → List MxOp
  | [] => [q]
  | x :: xs =>
    if !x.opened && x.op ≠ 0 && (s.op x.op).birth = s.cycle core && idxOf q.grp < idxOf x.grp then q :: x :: xs
    else x :: enqueue s core q xs

/-- The operation issues, or waits for a place in the queue or for its token (R300, R171). -/
def issueMatrix (major idx : Nat) (useA useB : Bool) (f : ExtForm) (e : Nat) (s : State) : State :=
  let core := s.myCore
  let g := s.me
  let id := s.sched.nextId
  if 8 ≤ (s.engine core).queue.length || tokenBusy g (inHandler g) f.out.toNat 4 1 then s
  else
    let q : MxOp :=
      { op := id, major := major, minor := f.ty.toNat * 16 + idx, mods := f.mods.toNat, grp := s.sched.cur.grp, token := f.out.toNat
        handler := inHandler g, mask := f.mask.toNat, waits := waitsOf g (inHandler g) f.mask.toNat
        pre := preOf g (inHandler g) f.mask.toNat (waitsOf g (inHandler g) f.mask.toNat) none, shape := s.opC f 4 e
        a := if useA then s.opA f 5 e else 0, b := if useB then s.opB f 5 e else 0, lane := e }
    let s1 := (s.engineOp f { kind := .matrix, major := major, idx := idx, active := s.sched.cur.lanes }).modOp id
      (fun o => { o with held := false, x := e })
    let s2 := s1.modEngine core (fun en => { en with queue := enqueue s1 core q en.queue })
    if f.d = 1671#11 then s2
    else
      let d := fun (j : JoinMask) => j.members &&& g.live
      s2.modJoin (maskNo f.d) (fun j => { j with signed := j.signed &&& ~~~(d j) })

/-- Signing, election and forced reconvergence (R291). -/
def matrixBy (major idx : Nat) (useA useB : Bool) (f : ExtForm) (s : State) : Out :=
  let use : Use := { d := declWant, a := if useA then countWant else none, b := if useB then countWant else none, c := shapeWant }
  match gate s f use with
  | .illegal => .next (s.trapAll Cause.illegalOperand)
  | g =>
    let forced := f.d = 1671#11
    let lanes := s.sched.cur.lanes
    let dset := if forced then s.me.live else (s.me.join (maskNo f.d)).members &&& s.me.live
    match dset.lowest with
    | none => .next (s.trapAll Cause.illegalOperand)
    | some e =>
      if !lanes.getLsbD e then .next s.advance
      else if !(forced || Lanes.sub dset (s.me.join (maskNo f.d)).signed) || s.fenced then .next s
      else
        match g with
        | .wait => .next s
        | .illegal => .next s
        | .go poison =>
          if !(guardLanes s.me f).getLsbD e then .next s.advance
          else
            let c := issueCause major idx useA useB f s e
            let cs := withPoison (Lanes.ofList [e]) poison.isSome (if c = 0 then [] else [(e, c)])
            if cs.isEmpty then .next (issueMatrix major idx useA useB f e s)
            else .next (s.raise cs 0 (if lowestCause cs = Cause.poisonConsumed then tokenCause s.me (poison.getD none) else none) false)

/-- `mma` (R295). -/
def execMma (f : ExtForm) (s : State) : Out := matrixBy 0x22 0 true true f s

/-- `mmac` (R296). -/
def execMmac (f : ExtForm) (s : State) : Out := matrixBy 0x22 1 true true f s

/-- `mxclr` (R298). -/
def execMxclr (f : ExtForm) (s : State) : Out := matrixBy 0x23 0 false false f s

/-- `mxld` (R298). -/
def execMxld (f : ExtForm) (s : State) : Out := matrixBy 0x23 1 true false f s

/-- `mxst` (R298). -/
def execMxst (f : ExtForm) (s : State) : Out := matrixBy 0x23 2 true false f s

/-- `mxscl` (R299). -/
def execMxscl (f : ExtForm) (s : State) : Out := matrixBy 0x23 3 true true f s

end Sys2Proof.Machine
end

