-- ==== Sys2Proof/Machine/NearMemory.lean ====
section
/-! DEFINITION. Near-memory units (R337 to R356): table slots, pushes and takes, the base die's work on bags, and major 0x24. -/

namespace Sys2Proof.Machine

open Sys2Proof

/-! ### Formats and slots -/

/-- Element format of a table (R339). -/
def tableFmt (n : Nat) : Fmt :=
  match n with
  | 0 => .f32
  | 1 => .bf16
  | 2 => .e4m3
  | _ => .e5m2

/-- Bytes of an element. -/
def Fmt.bytes (t : Fmt) : Nat := (t.width + 7) / 8

/-- Elements of a row (R339). -/
def rowElems (rowunits fmt : Nat) : Nat := 32 * rowunits / (tableFmt fmt).bytes

/-- Accumulator units of a table (R340). -/
def slotUnits (elems bags : Nat) : Nat := (4 * elems * bags + 4095) / 4096

/-- Entries of a command queue (R338). -/
def cmdRoom : Nat := 256

/-- A slot gives its units back and is unconfigured; its bags and completions are discarded (R340, R349, R350). -/
def releaseSlot (s : State) (k : Nat) : State :=
  let x := s.slot k
  if !x.configured then s
  else
    let near := { s.near with used := Sparse.set 0 s.near.used x.stack (Sparse.get 0 s.near.used x.stack - x.units) }
    let s1 : State := { s with near := near }
    s1.modSlot k (fun x => { cfgWaits := x.cfgWaits })

/-! ### Reading the stack (R346) -/

/-- Bytes of one page of a table or matrix row, at the coherence point. -/
def stackPart (s : State) (asid launch stack va n : Nat) : Acc (List Byte) :=
  match translate s 8192 asid va 0 with
  | .error c => if c = 0 then .wait else .fail c va
  | .ok (t, s1) =>
    let raw := t.rawPhys va
    if spaceOf raw != 0 || stackOf raw != stack then .fail Cause.permission va
    else if biasWait s1 raw || keyWait s1 none (s1.leafKey t) || (linesOf raw n).any (fun l => s1.mem.gaAny l) then .wait
    else
      match placeOf s1 launch false t va n with
      | .bad c => .fail c va
      | .bank _ => .fail Cause.permission va
      | .cached a key =>
        match homeRead s1 key a n with
        | .error c => .fail c va
        | .ok (bs, s2) => .ok bs s2
      | .home a key =>
        match homeRead s1 key a n with
        | .error c => .fail c va
        | .ok (bs, s2) => .ok bs s2

/-- A row, page after page: `fuel` pages at most. -/
def stackRead (asid launch stack : Nat) : Nat → State → Nat → Nat → Acc (List Byte)
  | 0, s, _, _ => .ok [] s
  | fuel + 1, s, va, n =>
    if n = 0 then .ok [] s
    else
      match stackPart s asid launch stack va (blockLeft va n) with
      | .wait => .wait
      | .fail c a => .fail c a
      | .ok bs s1 =>
        match stackRead asid launch stack fuel s1 (va + blockLeft va n) (n - blockLeft va n) with
        | .wait => .wait
        | .fail c a => .fail c a
        | .ok bs' s2 => .ok (bs ++ bs') s2

/-- The elements that bytes hold. -/
def elemsOf (t : Fmt) : Nat → List Byte → List XVal
  | 0, _ => []
  | n + 1, bs => t.value (ofBytes (bs.take t.bytes)) :: elemsOf t n (bs.drop t.bytes)

/-! ### Bags (R345) -/

/-- `perform_acc` on what the row read gave. -/
def Bag.fold (b : Bag) (w : Nat) (row : Except Nat (List XVal)) : Bag :=
  let b1 := match row with
    | .error c => if b.poisoned then b else { b with poisoned := true, cause := c }
    | .ok xs =>
      let wv := Fmt.f16.value w
      { b with acc := ((rangeFrom 0 xs.length).zip xs).foldl (fun (m : Sparse Word) (p : Nat × XVal) =>
          let x := XVal.mul wv p.2
          let old := (Sparse.get 0#32 m p.1).toNat
          let y := if b.isOpen then roundTo (XVal.add 0 (Fmt.f32.value old) x) .f32 0 false else roundTo x .f32 0 false
          Sparse.set 0#32 m p.1 (BitVec.ofNat 32 y)) b.acc }
  { b1 with isOpen := true, count := (b.count + 1) % 2 ^ 32 }

/-- Head command of a slot, if it has the op. -/
def headCmd (s : State) (k op : Nat) : Option Nat :=
  match (s.slot k).cmds with
  | (c, _) :: _ => if bits c 60 4 = op then some c else none
  | [] => none

/-- Team of a slot. -/
def teamOfSlot (k : Nat) : Nat := k / 16

/-- ACC_PERFORM (R345, R346). -/
def execAccPerform (slot : Nat) (s : State) : Out :=
  match headCmd s slot 1 with
  | none => .next s
  | some c =>
    let x := s.slot slot
    let team := teamOfSlot slot
    let launch := launchOfTeam team
    let fmt := tableFmt x.fmt
    let va := x.base + 32 * x.rowunits * bits c 26 28
    let done := fun (s : State) (r : Except Nat (List XVal)) => s.modSlot slot (fun x =>
      { x with cmds := x.cmds.drop 1, bag := Sparse.set {} x.bag (bits c 16 10) ((Sparse.get {} x.bag (bits c 16 10)).fold (bits c 0 16) r) })
    match stackRead (s.launch launch).asid launch x.stack 3 s va (32 * x.rowunits) with
    | .wait => .next s
    | .fail e _ => .next (done s (.error e))
    | .ok bs s1 => .next (done s1 (.ok (elemsOf fmt (rowElems x.rowunits x.fmt) bs)))

/-- A completion entry (R342). -/
def completionOf (b : Bag) (bag : Nat) : Nat := bit b.poisoned * 2 ^ 63 + b.cause * 2 ^ 58 + bag * 2 ^ 32 + b.count

/-- Entries of a completion queue (R338). -/
def doneRoom : Nat := 64

/-- CLOSE_PERFORM (R345, R348). -/
def execClosePerform (slot : Nat) (s : State) : Out :=
  match headCmd s slot 2 with
  | none => .next s
  | some c =>
    let x := s.slot slot
    if doneRoom ≤ x.done.length then .next s
    else
      let n := bits c 16 10
      let b := Sparse.get {} x.bag n
      let e := rowElems x.rowunits x.fmt
      let sums := (rangeFrom 0 e).flatMap (fun i => toBytes (if b.isOpen then (Sparse.get 0#32 b.acc i).toNat else 0) 4)
      let s1 := if b.poisoned then s else s.scrWrite (teamOfSlot slot) (x.bagbase + 4 * e * n) sums
      .next (s1.modSlot slot (fun x =>
        { x with cmds := x.cmds.drop 1, done := x.done ++ [completionOf b n], bag := Sparse.set {} x.bag n {} }))

/-! ### Pushes and takes (R343, R344) -/

/-- A command that may not be pushed to a slot (R343). -/
def cmdBad (x : Slot) (c : Nat) : Bool :=
  let op := bits c 60 4
  !(op = 1 || op = 2) || decide (x.bags ≤ bits c 16 10) || bits c 54 6 != 0 ||
    (op = 1 && decide (x.rows ≤ bits c 26 28)) || (op = 2 && (bits c 26 28 != 0 || bits c 0 16 != 0))

/-- The commands of a push: one for each active lane of a `v` pair, else one. -/
def pushed (s : State) (f : ExtForm) (act : Lanes) : List Nat :=
  if f.a.toNat < 1536 then act.toList.map (s.opA f 4) else if act = 0#32 then [] else [s.opA f 4 (low act)]

/-- Slot of the group in hand. -/
def State.slotKey (s : State) (n : Nat) : Nat := 16 * teamOf s.sched.cur.grp + n

/-- `mov.n64 q`n`, x`, n = 0 to 15 (R343): an access (R238); while an `nmcfg` of the slot waits, every push stalls. -/
def execNmPush (f : ExtForm) (s : State) : Out :=
  let n := queueNo f.d
  s.access f { a := some { cls := clsV + clsS + clsC, words := 2 }, bad := decide (16 ≤ n) || f.ty != 4#4 }
    (fun act s =>
      let x := s.slot (s.slotKey n)
      if act != 0#32 && x.cfgWaits.isEmpty && (!x.configured || (pushed s f act).any (cmdBad x)) then causeAll act Cause.queueProtocol else [])
    (fun act s =>
      let k := s.slotKey n
      let x := s.slot k
      let cs := pushed s f act
      if !x.cfgWaits.isEmpty || cmdRoom < x.cmds.length + cs.length then s
      else (s.modSlot k (fun x => { x with cmds := x.cmds ++ cs.map (fun c => (c, s.sched.nextId)) })).advance)

/-- `mov.n64 d, q`n, n = 16 to 31 (R344): the entry is taken at issue and lands as a queue read. -/
def execNmTake (f : ExtForm) (s : State) : Out :=
  let n := queueNo f.a
  s.checked f { d := some { cls := clsV + clsS, words := 2 }, bad := decide (n < 16) || f.ty != 4#4 }
    (fun act s =>
      let x := s.slot (s.slotKey (n - 16))
      if act != 0#32 && (!x.configured || (x.done.isEmpty && x.cmds.all (fun c => bits c.1 60 4 != 2))) then
        causeAll act Cause.queueProtocol
      else [])
    (fun act s =>
      let k := s.slotKey (n - 16)
      if act = 0#32 then s.advance
      else
        match (s.slot k).done with
        | [] => s
        | e :: es =>
          if flagFull s.me (s.flagNow f) then s
          else (s.modSlot k (fun x => { x with done := es })).issueFlag f
            { kind := .queueRead, major := 0x05, active := act, dests := rangeFrom f.d.toNat 2, x := n
              vals := act.toList.map (fun i => (i, e)) })

/-! ### `nmcfg` (R339, R340, R350) -/

/-- A table record. -/
structure TableRec where
  w0 : Nat
  w1 : Nat
  w2 : Nat
  w3 : Nat
  deriving DecidableEq, Repr

def TableRec.base (r : TableRec) : Nat := bits r.w0 0 57
def TableRec.rows (r : TableRec) : Nat := bits r.w1 32 29
def TableRec.units (r : TableRec) : Nat := bits r.w1 8 8
def TableRec.fmt (r : TableRec) : Nat := bits r.w1 0 2
def TableRec.bags (r : TableRec) : Nat := bits r.w2 32 11
def TableRec.bagbase (r : TableRec) : Nat := bits r.w2 0 32
def TableRec.elems (r : TableRec) : Nat := rowElems r.units r.fmt

/-- Why the record may not be used; 0 for nothing. -/
def TableRec.cause (r : TableRec) (scratch : Nat) : Nat :=
  if bits r.w0 57 7 != 0 || bits r.w1 61 3 != 0 || bits r.w1 16 16 != 0 || bits r.w1 2 6 != 0 || bits r.w2 43 21 != 0 || r.w3 != 0 ||
      decide (2 ^ 28 < r.rows) || r.units = 0 || decide (128 < r.units) || r.bags = 0 || decide (1024 < r.bags) ||
      r.base % 32 != 0 || r.bagbase % 16 != 0 then Cause.illegalOperand
  else if scratch * 256 < r.bagbase + 4 * r.elems * r.bags then Cause.scratchBound
  else 0

/-- The table's base is translated: stack, or the cause (0: it waits). -/
def tableStack (s : State) (core launch va : Nat) : Except Nat (Nat × State) :=
  match translate s core (s.launch launch).asid va 0 with
  | .error c => .error c
  | .ok (t, s1) =>
    let raw := t.rawPhys va
    if spaceOf raw != 0 then .error Cause.permission else .ok (stackOf raw, s1)

/-- Units are allotted and the slot configured, or not (R340). -/
def configure (s : State) (k stack : Nat) (r : TableRec) : State × Bool :=
  let s1 := releaseSlot s k
  let n := slotUnits r.elems r.bags
  let used := Sparse.get 0 s1.near.used stack
  if 2048 < used + n then (s1, false)
  else
    let s2 : State := { s1 with near := { s1.near with used := Sparse.set 0 s1.near.used stack (used + n) } }
    (s2.modSlot k (fun x =>
      { configured := true, base := r.base, rows := r.rows, rowunits := r.units, fmt := r.fmt, bags := r.bags, bagbase := r.bagbase
        stack := stack, units := n, cfgWaits := x.cfgWaits }), true)

/-- The path no longer waits in its `nmcfg`. -/
def endCfgWait (s : State) (k : Nat) : State :=
  let c := s.sched.cur
  s.modSlot k (fun x => { x with cfgWaits := x.cfgWaits.filter (fun w => w != (c.grp, c.pc)) })

/-- `nmcfg` acts: its record is read after the group's earlier scratchpad accesses (R200). -/
def nmcfgAct (f : ExtForm) (act : Lanes) (s : State) : State :=
  let c := s.sched.cur
  let team := teamOf c.grp
  let k := s.slotKey f.c.toNat
  let o := s.addr32 f (low act)
  let say := fun (s : State) (ok : Bool) => ((endCfgWait s k).writeTruth act f.d.toNat (fun _ => ok)).advance
  if !(s.slot k).cmds.isEmpty then
    if (c.grp, c.pc) ∈ (s.slot k).cfgWaits then s
    else (s.modSlot k (fun x => { x with cfgWaits := x.cfgWaits ++ [(c.grp, c.pc)] })).begins
  else
    let s0 := performOlder s c.grp s.sched.nextId (scrKey team o) 32
    let w := fun (j : Nat) => ofBytes (s0.scrRead team (o + 8 * j) 8)
    let r : TableRec := { w0 := w 0, w1 := w 1, w2 := w 2, w3 := w 3 }
    if r.rows = 0 then say (releaseSlot s0 k) true
    else
      let e := r.cause s.myLaunch.scratch
      if e ≠ 0 then (endCfgWait s0 k).trapActive act e
      else
        match tableStack s0 s.myCore (launchOfTeam team) r.base with
        | .error e => if e = 0 then s else (endCfgWait s0 k).trapActive act e
        | .ok (stack, s1) =>
          let p := configure s1 k stack r
          say p.1 p.2

/-- `nmcfg` (R350). -/
def execNmcfg (f : ExtForm) (s : State) : Out :=
  s.access f { d := predDst, a := baseWant 1, b := countWant, bad := decide (16 ≤ f.c.toNat) }
    (fun act s =>
      let o := s.addr32 f (low act)
      if act = 0#32 then []
      else if o % 32 ≠ 0 then causeAll act Cause.misaligned
      else if s.myLaunch.scratch * 256 < o + 32 then causeAll act Cause.scratchBound
      else [])
    (nmcfgAct f)

/-! ### `qpoll` and `qflush` (R351, R352) -/

/-- Test of a queue. -/
def queueTest (s : State) (q : Nat) : Bool :=
  let team := teamOf s.sched.cur.grp
  if q < 16 then decide ((s.slot (s.slotKey q)).cmds.length + 32 ≤ cmdRoom)
  else if q < 32 then !(s.slot (s.slotKey (q - 16))).done.isEmpty
  else if q < 48 then decide ((s.queueOf team q).length < 8)
  else !(s.queueOf team q).isEmpty

/-- The queue is not there. -/
def queueAbsent (s : State) (q : Nat) : Bool :=
  if q < 32 then !(s.slot (s.slotKey (q % 16))).configured else s.myLaunch.barges = 0

/-- A name of a queue `q`lo to `q`hi. -/
def queueName (n : BitVec 11) (hi : Nat) : Bool := decide (1600 ≤ n.toNat) && decide (n.toNat ≤ 1600 + hi)

/-- `qpoll` (R351). -/
def execQpoll (f : ExtForm) (s : State) : Out :=
  let q := queueNo f.a
  s.access f { d := predDst, bad := !queueName f.a 63 }
    (fun act s => if act != 0#32 && queueAbsent s q then causeAll act Cause.queueProtocol else [])
    (fun act s => (s.writeTruth act f.d.toNat (fun _ => queueTest s q)).advance)

/-- `qflush` (R352). -/
def execQflush (f : ExtForm) (s : State) : Out :=
  s.access f { bad := !queueName f.a 15 } (fun _ _ => []) (fun act s =>
    s.engineOp f (Op.ofTwo { kind := .qflush, major := 0x24, idx := 3, active := act, z := [s.sched.nextId] } (queueNo f.a) 0))

/-- QFLUSH_RETIRE (R352): every command pushed before it issued is performed; before one that comes back from an image they are all (R349). -/
def execQflushRetire (op : Nat) (s : State) : Out :=
  let o := s.op op
  if s.hasOp op && o.kind = .qflush && !o.held && o.result.isNone &&
      (s.slot (16 * teamOf o.grp + o.x)).cmds.all (fun c => decide (o.z.head?.getD 0 < c.2)) then .next (finishOp s op 0 none)
  else .next s

/-! ### `nmv` (R353, R354) -/

/-- Element format of `nmv`. -/
def nmvFmt (ty : Nat) : Fmt :=
  match ty with
  | 8 => .bf16
  | 10 => .e4m3
  | 11 => .e5m2
  | _ => .f32

/-- `nmv`: its record lies in the scratchpad. -/
def execNmv (f : ExtForm) (s : State) : Out :=
  s.access f { a := baseWant 1, b := countWant }
    (fun act s =>
      let o := s.addr32 f (low act)
      if act = 0#32 then []
      else if o % 64 ≠ 0 then causeAll act Cause.misaligned
      else if s.myLaunch.scratch * 256 < o + 64 then causeAll act Cause.scratchBound
      else [])
    (fun act s => s.engineOp f (Op.ofTwo { kind := .nmv, major := 0x24, idx := 1, active := act } (s.addr32 f (low act)) 0))

/-- An `nmv` record. -/
structure NmvRec where
  base : Nat
  stride : Nat
  rows : Nat
  cols : Nat
  xoff : Nat
  yoff : Nat
  bad : Bool
  deriving DecidableEq, Repr

def NmvRec.ofWords (w : Nat → Nat) (esize : Nat) : NmvRec :=
  let rows := bits (w 2) 32 17
  let colq := bits (w 2) 0 11
  { base := bits (w 0) 0 57, stride := bits (w 1) 32 32, rows := rows, cols := 16 * colq, xoff := bits (w 3) 32 32, yoff := bits (w 3) 0 32
    bad := bits (w 0) 57 7 != 0 || bits (w 1) 0 32 != 0 || bits (w 2) 49 15 != 0 || bits (w 2) 11 21 != 0 ||
      (rangeFrom 4 4).any (fun k => w k != 0) || bits (w 0) 0 57 % 32 != 0 || bits (w 1) 32 32 % 32 != 0 ||
      decide (bits (w 1) 32 32 < 16 * colq * esize) || rows = 0 || decide (65536 < rows) || colq = 0 || decide (1024 < colq) ||
      bits (w 3) 32 32 % 16 != 0 || bits (w 3) 0 32 % 16 != 0 }

/-- One element of y: 16 products a step (R354). -/
def nmvRow : Nat → Nat → List XVal → List XVal → Nat
  | 0, y, _, _ => y
  | n + 1, y, m, x =>
    let t := exactSum (List.zipWith XVal.mul (m.take 16) (x.take 16))
    nmvRow n (roundTo (XVal.add 0 (Fmt.f32.value y) t) .f32 0 false) (m.drop 16) (x.drop 16)

/-- The rows of the matrix, multiplied one by one: `n` rows from row `i`. -/
def nmvRows (asid launch stack : Nat) (r : NmvRec) (t : Fmt) (x : List XVal) : Nat → Nat → State → Acc (List Nat)
  | 0, _, s => .ok [] s
  | n + 1, i, s =>
    match stackRead asid launch stack (r.cols * t.bytes / 4096 + 2) s (r.base + r.stride * i) (r.cols * t.bytes) with
    | .wait => .wait
    | .fail c a => .fail c a
    | .ok bs s1 =>
      match nmvRows asid launch stack r t x n (i + 1) s1 with
      | .wait => .wait
      | .fail c a => .fail c a
      | .ok ys s2 => .ok (nmvRow (r.cols / 16) 0 (elemsOf t r.cols bs) x :: ys) s2

/-- NMV_RUN (R354): one step from its reads to its retirement. -/
def execNmvRun (op : Nat) (s : State) : Out :=
  let o := s.op op
  let team := teamOf o.grp
  let launch := launchOfTeam team
  let l := s.launch launch
  let older := s.ops.any (fun (p : Nat × Op) => p.1 < op && p.2.grp = o.grp && p.2.isLevel && !p.2.left.isEmpty)
  if !(s.hasOp op && o.kind = .nmv && !o.held && o.result.isNone) || older then .next s
  else
    let t := nmvFmt o.form.ty.toNat
    let r := NmvRec.ofWords (fun k => ofBytes (s.scrRead team (o.x + 8 * k) 8)) t.bytes
    let poison := fun (s : State) (f : Failure) => .next (finishOp s op 0 (some f))
    if r.bad then poison s { cause := Cause.illegalOperand, valid := false }
    else if decide (l.scratch * 256 < r.xoff + 4 * r.cols) || decide (l.scratch * 256 < r.yoff + 4 * r.rows) then
      poison s { cause := Cause.scratchBound, valid := false }
    else
      match tableStack s o.core launch r.base with
      | .error c => if c = 0 then .next s else poison s { cause := c, lane := low o.active, addr := r.base }
      | .ok (stack, s1) =>
        let x := elemsOf .f32 r.cols (s.scrRead team r.xoff (4 * r.cols))
        match nmvRows l.asid launch stack r t x r.rows 0 s1 with
        | .wait => .next s
        | .fail c a => poison s1 { cause := c, lane := low o.active, addr := a }
        | .ok ys s2 => .next (finishOp (s2.scrWrite team r.yoff (ys.flatMap (fun y => toBytes y 4))) op (4 * r.rows) none)

end Sys2Proof.Machine
end

