-- ==== Sys2Proof/Machine/Fabric.lean ====
section
/-! DEFINITION. The scale-up fabric (R357 to R367, R19): export windows, the write-combining buffer, `put`, `rld`, `ratom`, `wcflush`,
stations, and the start of operations held on preconditions (R173). What leaves the package stands in `Pod.lean`. Peers, Weirs and links are outside (log 18): what they answer is
an argument of an event. -/

namespace Sys2Proof.Machine

open Sys2Proof

/-! ### Requests of peers (R361, R362) -/

/-- Permission bit of a request. -/
def podPerm : PodKind → Nat
  | .read => 62
  | .write => 61
  | .counter => 61
  | .atomic _ _ => 60

/-- A write of another package, or a looped-back one, at its home (R362): `.ga` with no copy of any die left behind, after which a lost
location follows the ordinary rules again (R232); `.ef` with invalidations on their way, under the number of the next operation (R228, R229). -/
def podWrite (s0 : State) (ga : Bool) (key a : Nat) (bs : List Byte) : State × Option Nat :=
  let s := beforeWrite s0 a s0.sched.nextId bs
  if ga then
    let r := s.mem.pkgWrite key a bs
    ({ s with mem := if r.2.isNone then r.1.found a bs.length else r.1 }, r.2)
  else
    let r := s.mem.homeWrite key a bs
    let out := (linesOf a bs.length).flatMap (fun l => (r.1.holders l).map (fun d =>
      ({ line := l, die := d, agent := podAgent, seq := s.sched.nextId } : Inval)))
    (({ s with mem := { r.1 with invals := r.1.invals ++ out } } : State).modSched (fun c => { c with nextId := c.nextId + 1 }), r.2)

/-- A pod access at its coherence point in its mode (R230, R361, R362): the value read, and the state. -/
def podPerform (s : State) (kind : PodKind) (ga : Bool) (off size data cmp : Nat) : Acc Nat :=
  match exportPlace s off size (podPerm kind) with
  | none => .fail Cause.permission off
  | some (a, key) =>
    if biasWait s a || keyWait s none key || (linesOf a size).any (fun l => s.mem.gaAny l) then .wait
    else
      let read := fun (go : Nat → State → Acc Nat) =>
        match homeRead s key a size with
        | .error c => Acc.fail c off
        | .ok (bs, s2) => go (ofBytes bs) s2
      let write := fun (s : State) (x old : Nat) =>
        let r := podWrite s ga key a (toBytes x size)
        match r.2 with
        | some c => Acc.fail c off
        | none => .ok old r.1
      match kind with
      | .read => read (fun x s2 => .ok x s2)
      | .write => write s data 0
      | .counter => read (fun old s2 => write s2 ((old + data) % 2 ^ 64) old)
      | .atomic op ty => read (fun old s2 => write s2 (atomicNew op ty 0 old data cmp % 2 ^ (8 * size)) old)

/-- Bytes a request of a peer moves: 1 to 256, within one 256-byte block (R357). -/
def podFits (r : PodRequest) : Bool :=
  decide (1 ≤ r.size) && decide (r.off % 256 + r.size ≤ 256) && decide (r.off < 2 ^ 38) && (match r.kind with
    | .counter => r.size = 8 && r.off % 8 = 0
    | .atomic op ty => decide (op < 8) && r.size = (if isWide ty then 8 else 4) && r.off % r.size = 0
    | _ => true)

/-- A request carries data: its sectors are verified as they enter the package (R360). -/
def podChecked (r : PodRequest) : Bool := r.kind = .read || r.checks = checksOf r.off r.size r.data

/-- The answer to a request. -/
def answerTo (r : PodRequest) (ok : Bool) (x : Nat) : Answer :=
  { station := r.station, peer := r.peer, ok := ok, data := x, off := r.off, size := if ok && r.kind != .write && r.kind != .counter then r.size else 0 }

/-- INCOMING_POD_REQUEST (R360, R361): performed, or completed with an error; a write is answered once it is performed at package scope. -/
def execIncomingPodRequest (req : PodRequest) (s0 : State) : Out :=
  if s0.fabric.podId.isNone || !podFits req || !(decide (req.station < stationCount) && (s0.station req.station).works) then .next s0
  else
    let s := goodFlit s0 req.station
    if !podChecked req then .next (sendAnswer s (answerTo req false Cause.checkMismatch))
    else
      match podPerform s req.kind req.ga req.off req.size req.data req.cmp with
      | .wait => .next s0
      | .fail c _ => .next (sendAnswer s (answerTo req false c))
      | .ok x s1 => .next (payOwed (s1.modFabric (fun f => { f with owed := f.owed ++ [(s.sched.nextId, answerTo req true x)] })))

/-! ### Parts of an operation -/

/-- The pod address of a part of operation `id`, or why it has none (R357, R360, R366); the translation is noted (R249). -/
def podTranslate (s : State) (id part va : Nat) : Except Nat (Nat × State) :=
  let o := s.op id
  match translate s o.core (asidOfGrp s o.grp) va o.needs with
  | .error c => .error c
  | .ok (t, s0) =>
    let s1 := s0.modOp id (fun o => { o with leaves := Sparse.insert o.leaves part t.leaf })
    let pa := t.rawPhys va
    if spaceOf pa ≠ 5 then .error Cause.permission
    else if s.fabric.podId.isNone || (!ownPeer s pa && (workingStations s).isEmpty) then .error Cause.uncorrectable
    else .ok (pa, s1)

/-! ### The order of the core's path (R226, R236, R363) -/

/-- An earlier operation of the core on a line of a peer has not started, or is a load or an atomic not yet sent or performed, or has still to
add to a counter there. -/
def podAhead (s : State) (id core peer line : Nat) : Bool :=
  s.ops.any (fun (p : Nat × Op) => p.1 < id && p.2.core = core && p.2.toPod && p.2.result.isNone &&
    p.2.podPlaces.any (fun q => match podPeek s p.2 q.2.1 with
      | some pa => peerOf pa = peer && podLine pa = line && (p.2.held || q.1 = 64 ||
          (p.2.remote && (if ownPeer s pa then p.2.x = 0 else Sparse.get 0 p.2.sentBy q.1 = 0)))
      | none => false))

/-- An earlier access of the core's path to bytes of the package's own memory is not performed at the home (R19). -/
def pathOpen (s : State) (id core a n : Nat) : Bool :=
  let mine := fun (st : Store) => st.agent = core && decide (st.seq < id) && meets a n st.addr st.bytes.length
  s.ops.any (fun (p : Nat × Op) => p.1 < id && p.2.isGlobal && p.2.core = core && p.2.left.any (partMeets s p.2 a n)) ||
    s.mem.fwd.any mine || s.mem.gaPend.any mine

/-- An operation cannot start yet: a page walk waits (R399), or an access before it in the core's path to a location of its own is open. -/
def podBlocked (s : State) (id : Nat) (o : Op) : Bool :=
  o.podPlaces.any (fun q =>
    (match translate s o.core (asidOfGrp s o.grp) q.2.1 o.needs with
      | .error c => c = 0
      | .ok _ => false) ||
    (match podPeek s o q.2.1 with
      | some pa => podAhead s id o.core (peerOf pa) (podLine pa) || (ownPeer s pa && (match loopPlace s (podOffset pa) with
          | some a => pathOpen s id o.core a q.2.2
          | none => false))
      | none => false))

/-! ### The write-combining buffer (R363, R364) -/

/-- Entries of a buffer. -/
def wcRoom : Nat := 64

def WcEntry.full (e : WcEntry) : Bool := e.mask = 2 ^ 128 - 1

/-- A looped-back entry performed at the package's own memory, run by run; the first cause. -/
def wcRunsPerform (line : Nat) (ga : Bool) : List (Nat × List Byte) → State → Option Nat → Acc (Option Nat)
  | [], s, c => .ok c s
  | (i, bs) :: rs, s, c =>
    match podPerform s .write ga (128 * line + i) bs.length (ofBytes bs) 0 with
    | .wait => .wait
    | .fail x _ => wcRunsPerform line ga rs s (some (c.getD x))
    | .ok _ s1 => wcRunsPerform line ga rs s1 c

/-- An earlier drain of the entry's line is not performed (R363). -/
def drainAhead (wc : List WcEntry) (e : WcEntry) : Bool :=
  (wc.takeWhile (fun x => x != e)).any (fun x => x.draining && x.peer = e.peer && x.line = e.line)

/-- One looped-back entry: performed in its mode, after every earlier drain of its line; it leaves the buffer when no copy is left that holds
an earlier value (R227, R364). -/
def settleEntry (core : Nat) (s : State) (e : WcEntry) : State :=
  if !e.draining || s.fabric.podId != some e.peer || drainAhead (s.core core).wc e then s
  else if e.seq != 0 then (if s.mem.invals.any (fun v => v.agent = podAgent && e.seq ≤ v.seq && v.line = e.line) then s else dropEntry s core e)
  else
    match wcRunsPerform e.line e.ga (wcRuns e.mask e.data 128 0) s none with
    | .wait => s
    | .fail _ _ => s
    | .ok (some c) s1 => failEntry s1 core e c
    | .ok none s1 => s1.modCore core (fun k => { k with wc := k.wc.map (fun x => if x = e then { x with seq := s.sched.nextId } else x) })

/-- What of a core's drains can go on does: held requests are sent, looped-back entries performed and, with their copies gone, dropped. -/
def wcSettle (s : State) (core : Nat) : State :=
  let s1 := sendHeld s core
  let s2 := (s1.core core).wc.foldl (settleEntry core) s1
  payOwed ((s2.core core).wc.foldl (settleEntry core) s2)

/-- Drain entries of a core, and perform those that come back to the package. -/
def drainNow (s : State) (core : Nat) (sel : WcEntry → Bool) : State := wcSettle (drainEntries s core sel) core

/-- WC_ENTRY_TIMEOUT (R363). -/
def execWcEntryTimeout (core peer line : Nat) (s : State) : Out :=
  .next (drainNow s core (fun e => e.peer = peer && e.line = line && decide (e.birth + 2048 ≤ s.cycle core)))

/-- Put the bytes of a part into an entry. -/
def WcEntry.put (e : WcEntry) (off n data id : Nat) : WcEntry :=
  { e with mask := e.mask ||| ((2 ^ n - 1) <<< off), data := setBits e.data (8 * off) (8 * n) data
           ops := if id ∈ e.ops then e.ops else e.ops ++ [id] }

/-- Merge the bytes of one part of a put (R363, R366). -/
def mergePart (s : State) (id pa n data : Nat) : State :=
  let o := s.op id
  let here := fun (e : WcEntry) => e.peer = peerOf pa && e.line = podLine pa && !e.draining
  let s1 := drainEntries s o.core (fun e => here e && e.ga != o.ga)
  let off := podOffset pa % 128
  let new : WcEntry := { peer := peerOf pa, line := podLine pa, mask := 0, data := 0, ga := o.ga, birth := s.cycle o.core }
  let s2 := s1.modCore o.core (fun c =>
    if c.wc.any here then { c with wc := c.wc.map (fun e => if here e then e.put off n data id else e) }
    else { c with wc := c.wc ++ [new.put off n data id] })
  drainEntries s2 o.core (fun e => here e && e.full)

/-- The parts of a put enter the buffer, lane by lane; a failing one enters nothing (R366). -/
def mergeAll (s : State) (id : Nat) : State :=
  (s.op id).podParts.foldl (fun s p =>
    let o := s.op id
    match podTranslate s id p.1 p.2.1 with
    | .error c => podFail s id p.1 p.2.1 p.2.2 c
    | .ok (pa, s1) =>
      let x := Sparse.get 0 o.data (p.1 / 2) / 2 ^ (8 * (p.2.1 - Sparse.get 0 o.addr (p.1 / 2)))
      mergePart (s1.modOp id (fun o => { o with z := o.z ++ [p.1 + 64 * pa] })) id pa p.2.2 x) s

/-- Entries of its core's buffer beyond its room that a put would need (R364). -/
def putExcess (s : State) (o : Op) : Nat :=
  (((mergeAll (s.newOp o) s.sched.nextId).core o.core).wc).length - wcRoom

/-- The entries a put needs are free (R364). -/
def putFits (s : State) (o : Op) : Bool := putExcess s o = 0

/-- The oldest entries start their drain, so that a put can go on (R364); nothing once enough of them drain. -/
def makeRoom (s : State) (o : Op) : State :=
  let wc := (s.core o.core).wc
  let busy := (wc.filter (fun e => e.draining)).length
  let old := (wc.filter (fun e => !e.draining)).take (putExcess s o - busy)
  if old.isEmpty then s else (drainNow s o.core (fun e => decide (e ∈ old))).begins

/-! ### The start of an operation -/

/-- A put enters the buffer, and with a counter drains every entry it wrote. -/
def startPut (s : State) (id : Nat) : State :=
  let o := s.op id
  let s1 := mergeAll s id
  let s2 := if o.y ≠ 0 then drainEntries s1 o.core (fun e => decide (id ∈ e.ops)) else s1
  wcSettle s2 o.core

/-- A remote load or atomic asks: entries of its lines drain first. -/
def startRemote (s : State) (id : Nat) : State :=
  let o := s.op id
  let s1 := o.podParts.foldl (fun s p =>
    match podTranslate s id p.1 p.2.1 with
    | .error c => podFail s id p.1 p.2.1 p.2.2 c
    | .ok (pa, s1) =>
      drainEntries (s1.modOp id (fun o => { o with z := o.z ++ [p.1 + 64 * pa] })) o.core
        (fun e => e.peer = peerOf pa && e.line = podLine pa)) s
  wcSettle (sendParts s1 id) o.core

/-- A `wcflush` notes, as it issues, whose bytes stand in the buffer, and drains it (R363, R366). -/
def noteFlush (s : State) (id : Nat) : State :=
  let core := (s.op id).core
  let ops := ((s.core core).wc.flatMap (fun e => e.ops)).eraseDups
  drainNow (s.modOp id (fun o => { o with z := ops })) core (fun _ => true)

/-- An operation of major 0x25 that is not held starts. -/
def startFabric (s : State) (id : Nat) : State :=
  match (s.op id).kind with
  | .put => startPut s id
  | .wcflush => s
  | _ => startRemote s id

/-- Preconditions hold. -/
def Op.ready (o : Op) : Bool := o.held && o.waits.all (fun p => p.2 = 0)

/-- HELD_OPERATION_START (R173, R264, R265, R366): an operation whose awaited retirements are all in starts; one that reaches peers, after the
accesses before it in the core's path to the same locations. -/
def execHeldOperationStart (op : Nat) (s : State) : Out :=
  let o := s.op op
  if s.hasOp op && o.kind = .bargeRun then .next (startBarge s o.x)
  else if s.hasOp op && o.toPod && o.ready && (poisonBy o.pre (s.group o.grp) o.handler o.mask).isNone && podBlocked s op o then .next s
  else if s.hasOp op && o.kind = .put && o.ready && (poisonBy o.pre (s.group o.grp) o.handler o.mask).isNone && !putFits s o then
    .next (makeRoom s o)
  else
    let s1 := startOp s op
    if s.hasOp op && o.held && s1.hasOp op && !(s1.op op).held && (s1.op op).result.isNone then
      if o.kind = .bstop then .next (stopNow s1 op)
      else if o.kind.cls = 6 then .next (startFabric s1 op)
      else .next s1
    else .next s1

/-! ### Major 0x25 (R365, R366) -/

/-- An operation of major 0x25 issues; one without preconditions starts, unless an earlier access of the core's path holds it: it is then held
as on preconditions (log 37). -/
def issueFabric (f : ExtForm) (o : Op) (s : State) : State :=
  let id := s.sched.nextId
  let late := f.mask = 0 && o.toPod && podBlocked s id o
  if late && 4 ≤ heldOps s s.sched.cur.grp then s
  else
    let s1 := s.engineOp f o
    if !s1.hasOp id then s1
    else if o.kind = .wcflush then noteFlush s1 id
    else if late then s1.modOp id (fun o => { o with held := true })
    else if (s1.op id).held then s1
    else startFabric s1 id

/-- Counter operand: an even `s` pair, or the inline constant 0. -/
def counterWant : Option Want := some { cls := clsS + clsC, words := 2 }

/-- `put`. -/
def execPut (f : ExtForm) (s : State) : Out :=
  let ty := typeOf f 5
  let noCounter := decide (1920 ≤ f.c.toNat)
  let ctr := fun (act : Lanes) (s : State) => s.opC f 4 (low act)
  s.access f { d := dataWant ty (sizeMod f), a := baseWant 2, b := offWant, c := counterWant, dRead := true
               bad := noCounter && f.c != 1920#11 }
    (fun act s =>
      if act != 0#32 && ctr act s % 8 ≠ 0 then causeAll act Cause.misaligned
      else laneCauses act (fun i => globalCause 0x25 0 (accessSize 0x25 0 f) (s.addr64 f i)))
    (fun act s =>
      let o : Op := { s.accessOp 0x25 0 f act (s.addr64 f) with kind := .put, y := ctr act s }
      if f.mask = 0 && !podBlocked s s.sched.nextId o && !putFits s o then makeRoom s o else issueFabric f o s)

/-- `rld`. -/
def execRld (f : ExtForm) (s : State) : Out :=
  s.access f { d := dataWant (typeOf f 5) (sizeMod f), a := baseWant 2, b := offWant }
    (fun act s => laneCauses act (fun i => globalCause 0x25 1 (accessSize 0x25 1 f) (s.addr64 f i)))
    (fun act s => issueFabric f { s.accessOp 0x25 1 f act (s.addr64 f) with kind := .rld } s)

/-- `ratom`. -/
def execRatom (f : ExtForm) (s : State) : Out :=
  let n := wordsOfTy (typeOf f 1)
  s.access f { d := some { cls := clsV + clsS, words := n }, a := baseWant 2, b := offWant
               c := some { cls := clsV + clsS + clsC, words := n }, dRead := bits f.mods.toNat 0 3 = 7 }
    (fun act s => laneCauses act (fun i => globalCause 0x25 2 (accessSize 0x25 2 f) (s.addr64 f i)))
    (fun act s => issueFabric f { s.accessOp 0x25 2 f act (s.addr64 f) with kind := .ratom } s)

/-- `wcflush`. -/
def execWcflush (f : ExtForm) (s : State) : Out :=
  s.access f {} (fun _ _ => []) (fun act s =>
    issueFabric f { kind := .wcflush, major := 0x25, idx := 3, active := act } s)

/-! ### Retirement -/

/-- What the far side says of an operation: cause in bits [4:0], and above it a bit for each part that failed (2·lane + index), with
bit 64 for the counter add (log 18). -/
def farFailed (fail : Option Nat) (part : Nat) : Option Nat :=
  match fail with
  | some x => if bitOf (x / 32) part then some (x % 32) else none
  | none => none

/-- Parts at peers that failed there. -/
def noteFar (s : State) (id : Nat) (fail : Option Nat) : State :=
  let o := s.op id
  o.podParts.foldl (fun s p =>
    match o.physOf p.1, farFailed fail p.1 with
    | some pa, some c => if ownPeer s pa then s else podFail s id p.1 p.2.1 p.2.2 c
    | _, _ => s) s

/-- Bytes that an operation of lanes adds to its token. -/
def Op.podBytes (o : Op) : Nat := o.active.count * o.size - o.lostBytes

/-- An operation of the far side's answers ends. -/
def endRemote (s : State) (id : Nat) : State := finishOp s id (s.op id).podBytes (s.op id).fail

/-- The counter add of a put (R366, R367); nothing where it waits, as for earlier bytes of the core's buffer in the counter's line (R226). -/
def addCounter (s : State) (id : Nat) (fail : Option Nat) : Option State :=
  let o := s.op id
  let no := fun (s : State) (c : Nat) =>
    s.modOp id (fun o => { o with fail := some (o.fail.getD { cause := c, lane := low o.active, addr := o.y, write := true }) })
  if o.y = 0 || o.fail.isSome then some s
  else
    match podTranslate s id 64 o.y with
    | .error c => if c = 0 then none else some (no s (if c = Cause.uncorrectable then c else Cause.permission))
    | .ok (pa, s1) =>
      if (s1.core o.core).wc.any (fun e => e.peer = peerOf pa && e.line = podLine pa && e.ops.any (fun k => decide (k < id))) then none
      else
      let add := o.active.count * o.size
      if !ownPeer s pa then
        match stationNow s1 (peerOf pa) (podLine pa) with
        | none => none
        | some none => some (no s1 Cause.uncorrectable)
        | some (some n) =>
          let s2 := sendBy s1 n 8 (fun f => .counter f (peerOf pa) (podOffset pa) add o.ga (checksOf (podOffset pa) 8 add))
          match farFailed fail 64 with
          | some c => some (no s2 c)
          | none => some s2
      else
        match podPerform s1 .counter o.ga (podOffset pa) 8 add 0 with
        | .wait => none
        | .fail c _ => some (no s1 c)
        | .ok _ s2 => if podQuiet s2 s1.sched.nextId then some s2 else some (s2.modOp id (fun o => { o with x := s1.sched.nextId }))

/-- PUT_RETIRE (R366): every entry of the put has been sent, after every earlier drain of its line, what comes back to the package is
performed, and the far side has performed the rest; then the counter is added to, and the put ends once that is performed at pod scope. -/
def execPutRetire (op : Nat) (fail : Option Nat) (s : State) : Out :=
  let o := s.op op
  let s1 := wcSettle s o.core
  let mine := fun (e : WcEntry) => decide (op ∈ e.ops)
  let wc := (s1.core o.core).wc
  if !(s.hasOp op && o.kind = .put && !o.held && o.result.isNone) then .next s
  else if o.x != 0 then (if podQuiet s1 o.x then .next (endRemote s1 op) else .next s)
  else if wc.any (fun e => mine e && (!e.draining || e.via.isNone || (drainAhead (wc.filter (fun x => x = e || !mine x)) e))) then .next s
  else
    let good := goodFlits s1 ((wc.filter mine).filterMap (fun e => e.via))
    let s2 := good.modCore o.core (fun c => { c with wc := c.wc.filter (fun e => !mine e) })
    match addCounter (noteFar s2 op fail) op fail with
    | none => .next s
    | some s3 => if (s3.op op).x != 0 then .next s3 else .next (endRemote s3 op)

/-- Value of a lane with a part put in. -/
def putPart (vals : Sparse Nat) (i lo n x : Nat) : Sparse Nat :=
  Sparse.insert vals i (setBits (Sparse.get 0 vals i) (8 * lo) (8 * n) x)

/-- What a lane's parts at peers bring, as they cross: the check values of the sectors, part after part (R360). -/
def farChecks (s : State) (o : Op) (i x : Nat) : List Nat :=
  (o.podParts.filter (fun p => p.1 / 2 = i)).flatMap (fun p => match o.physOf p.1 with
    | some pa => if ownPeer s pa then [] else checksOf (podOffset pa) p.2.2 (x / 2 ^ (8 * (p.2.1 - Sparse.get 0 o.addr i)))
    | none => [])

/-- Bytes that come back from peers, lane after lane in `data`, verified as they enter the package (R360); and what the package's own memory
gives. -/
def gatherPart (id : Nat) (fail : Option Nat) (data : List FarData) (t : Option State) (p : Nat × Nat × Nat) : Option State :=
  match t with
  | none => none
  | some s =>
    let o := s.op id
    let i := p.1 / 2
    let lo := p.2.1 - Sparse.get 0 o.addr i
    let keep := fun (s : State) (x : Nat) => s.modOp id (fun o => { o with vals := putPart o.vals i lo p.2.2 x })
    match o.physOf p.1 with
    | none => some s
    | some pa =>
      if !ownPeer s pa then
        let x := nth { data := 0, checks := [] } data (o.active.toList.takeWhile (fun j => j != i)).length
        if (farFailed fail p.1).isSome then some s
        else if x.checks != farChecks s o i x.data then some (podFail s id p.1 p.2.1 p.2.2 Cause.checkMismatch)
        else some (keep s (x.data / 2 ^ (8 * lo)))
      else
        let kind := if o.kind = .rld then PodKind.read else PodKind.atomic (bits o.mods 0 3) (typeOf o.form 1)
        match podPerform s kind o.ga (podOffset pa) p.2.2 (Sparse.get 0 o.data i) (Sparse.get 0 o.cmp i) with
        | .wait => none
        | .fail c _ => some (podFail s id p.1 p.2.1 p.2.2 c)
        | .ok x s1 => some (keep s1 x)

/-- A looped-back write of a line of the operation has not been performed. -/
def ownDrainAhead (s : State) (o : Op) : Bool :=
  (s.core o.core).wc.any (fun e => e.draining && s.fabric.podId = some e.peer && !(partsIn o e.peer e.line).isEmpty)

/-- Every write and counter add that a `wcflush` waits for is performed. -/
def flushed (s : State) (o : Op) : Bool :=
  (s.core o.core).wc.all (fun e => e.ops.all (fun x => !decide (x ∈ o.z))) &&
    o.z.all (fun x => !s.hasOp x || (s.op x).kind != .put || (s.op x).y = 0 || (s.op x).result.isSome)

/-- Every part of a remote access that goes to a peer has been sent. -/
def allSent (s : State) (id : Nat) : Bool :=
  let o := s.op id
  o.podParts.all (fun p => match o.physOf p.1 with
    | some pa => ownPeer s pa || Sparse.get 0 o.sentBy p.1 != 0
    | none => true)

/-- The looped-back writes of an atomic, numbered from `x` to `y`, are performed at package scope. -/
def podOpQuiet (s : State) (o : Op) : Bool := (rangeFrom o.x (o.y - o.x)).all (podQuiet s)

/-- REMOTE_ACCESS_RETIRE (R366). -/
def execRemoteAccessRetire (op : Nat) (fail : Option Nat) (data : List FarData) (s : State) : Out :=
  let o := s.op op
  let s1 := wcSettle s o.core
  if !(s.hasOp op && !o.held && o.result.isNone) then .next s
  else if o.kind = .wcflush then (if flushed s1 o then .next (finishOp s1 op 0 none) else .next s)
  else if !o.remote then .next s
  else if o.x != 0 then (if podOpQuiet s1 o then .next (endRemote s1 op) else .next s)
  else if ownDrainAhead s1 o || !allSent s1 op then .next s
  else
    let good := goodFlits s1 (((s1.op op).sentBy.filter (fun p => p.2 ≤ stationCount)).map (fun p => p.2 - 1))
    match o.podParts.foldl (gatherPart op fail data) (some (noteFar good op fail)) with
    | none => .next s
    | some s2 =>
      let s3 := (s2.modOp op Op.results).modOp op (fun o => { o with x := s.sched.nextId, y := s2.sched.nextId })
      .next (if podOpQuiet s3 (s3.op op) then endRemote s3 op else s3)

/-! ### Entries that leave (R364), and checks at egress (R411) -/

/-- Turn `.landed`: the peer has performed the write of a sent entry, after every earlier drain of its line, and the entry leaves (R364). -/
def landEntry (s : State) (core k : Nat) : State :=
  match (s.core core).wc[k]? with
  | none => s
  | some e =>
    match e.via with
    | none => s
    | some n => if drainAhead (s.core core).wc e then s else wcSettle (dropEntry (goodFlit s n) core e) core

/-- Turn `.badEgress`: an entry fails its check as it is to leave the package. -/
def badEgress (s : State) (core k : Nat) : State :=
  match (s.core core).wc[k]? with
  | none => s
  | some e => if e.via.isSome || s.fabric.podId = some e.peer then s else failEntry s core e Cause.checkMismatch

end Sys2Proof.Machine
end

