-- ==== Sys2Proof/Machine/Collective.lean ====
section
/-! DEFINITION. Collectives (R368 to R378): plans, their derivation and their runs, and ring passes: major 0x26 and its steps. -/

namespace Sys2Proof.Machine

open Sys2Proof

/-! ### Records (R368, R369) -/

/-- Doublewords of 8·n bytes. -/
def dwordsOf : Nat → List Byte → List Nat
  | 0, _ => []
  | n + 1, bs => ofBytes (bs.take 8) :: dwordsOf n (bs.drop 8)

/-- The mesh record stands at doubleword 0 of a plan block, the source layout at 8, the target layout at 16, the plan record at 24
(R370). -/
def srcAt : Nat := 8

def dstAt : Nat := 16

/-- Size of an axis. -/
def meshSize (w : List Nat) (a : Nat) : Nat := match a with
  | 0 => bits (nth 0 w 1) 48 16
  | 1 => bits (nth 0 w 1) 32 16
  | _ => bits (nth 0 w 1) 16 16

def meshSelf (w : List Nat) : Nat := bits (nth 0 w 1) 0 16

def meshRanks (w : List Nat) : Nat := bits (nth 0 w 0) 0 57

def meshStaging (w : List Nat) : Nat := bits (nth 0 w 2) 0 57

def meshStatus (w : List Nat) : Nat := bits (nth 0 w 3) 0 57

/-- Local contributions n. -/
def meshLocal (w : List Nat) : Nat := bits (nth 0 w 4) 60 4 + 1

def meshLstride (w : List Nat) : Nat := bits (nth 0 w 4) 0 32

def meshTag (w : List Nat) : Nat := bits (nth 0 w 5) 32 32

/-- Fields of the layout at doubleword `o`. -/
def layBase (w : List Nat) (o : Nat) : Nat := bits (nth 0 w o) 0 57

def layRank (w : List Nat) (o : Nat) : Nat := bits (nth 0 w (o + 1)) 61 3

def layFmt (w : List Nat) (o : Nat) : Nat := bits (nth 0 w (o + 1)) 59 2

def layPartial (w : List Nat) (o a : Nat) : Bool := bitOf (nth 0 w (o + 1)) (56 + a)

/-- Placement nibble of a dimension below trank; 0 above it. -/
def layPlace (w : List Nat) (o d : Nat) : Nat := if d < layRank w o then bits (nth 0 w (o + 1)) (4 * d) 4 else 0

/-- Extent of a dimension below trank; 1 above it. -/
def layDim (w : List Nat) (o d : Nat) : Nat :=
  if d < layRank w o then bits (nth 0 w (o + 2 + d / 2)) (if d % 2 = 0 then 32 else 0) 32 else 1

/-- Bytes of an element. -/
def fmtBytes (fmt : Nat) : Nat := if fmt = 1 then 2 else 4

/-- What an axis does to a layout: 0 nothing, 1 partial sums, d + 2 splits dimension d. -/
def axisUse (w : List Nat) (o a : Nat) : Nat :=
  if layPartial w o a then 1
  else match (rangeFrom 0 4).find? (fun d => layPlace w o d = a + 1) with
    | some d => d + 2
    | none => 0

/-- Times an axis is named. -/
def axisNamed (w : List Nat) (o a : Nat) : Nat :=
  (if layPartial w o a then 1 else 0) + ((rangeFrom 0 4).filter (fun d => layPlace w o d = a + 1)).length

/-- Extents of the shard. -/
def shardDims (w : List Nat) (o : Nat) : List Nat :=
  (rangeFrom 0 4).map (fun d =>
    let p := layPlace w o d
    if p = 0 then layDim w o d else layDim w o d / meshSize w (p - 1))

/-- Bytes of the shard. -/
def shardBytes (w : List Nat) (o : Nat) : Nat := (shardDims w o).foldl (fun x d => x * d) 1 * fmtBytes (layFmt w o)

/-! ### Derivation (R370, R371) -/

/-- A layout record has a field out of range or a reserved field that is not zero. -/
def layoutBad (w : List Nat) (o : Nat) : Bool :=
  bits (nth 0 w o) 57 7 != 0 || bits (nth 0 w (o + 1)) 16 40 != 0 || (rangeFrom 4 4).any (fun k => nth 0 w (o + k) != 0) ||
    layBase w o % 256 != 0 || layRank w o = 0 || decide (4 < layRank w o) || layFmt w o = 3 ||
    (rangeFrom 0 4).any (fun d => decide (3 < layPlace w o d)) || (rangeFrom 0 3).any (fun a => decide (1 < axisNamed w o a))

/-- A mesh record alike. -/
def meshBad (w : List Nat) : Bool :=
  bits (nth 0 w 0) 57 7 != 0 || bits (nth 0 w 2) 57 7 != 0 || bits (nth 0 w 3) 57 7 != 0 || bits (nth 0 w 4) 32 28 != 0 ||
    bits (nth 0 w 5) 0 32 != 0 || nth 0 w 6 != 0 || nth 0 w 7 != 0 || meshStaging w % 256 != 0 || meshStatus w % 64 != 0 ||
    meshLstride w % 256 != 0 || (rangeFrom 0 3).any (fun a => meshSize w a = 0 || decide (1024 < meshSize w a)) ||
    decide (1024 < meshSize w 0 * meshSize w 1 * meshSize w 2)

/-- Axes on which the layouts differ. -/
def axesApart (w : List Nat) : List Nat := (rangeFrom 0 3).filter (fun a => axisUse w srcAt a != axisUse w dstAt a)

/-- The kind of an axis (R370); 0 where the table has none. -/
def kindOn (w : List Nat) (a : Nat) : Nat :=
  let x := axisUse w srcAt a
  let y := axisUse w dstAt a
  if x = 1 then (if y = 0 then 1 else if 2 ≤ y then 2 else 0)
  else if 2 ≤ x then (if y = 0 then 3 else if 2 ≤ y && y != x then 4 else 0)
  else 0

/-- The one axis and its kind. -/
def axisOf (w : List Nat) : Option (Nat × Nat) :=
  match axesApart w with
  | [a] => if kindOn w a = 0 then none else some (a, kindOn w a)
  | _ => none

/-- Linear-index distance of neighbours on an axis (R369). -/
def axisStep (w : List Nat) (a : Nat) : Nat := match a with
  | 0 => 1
  | 1 => meshSize w 0
  | _ => meshSize w 0 * meshSize w 1

/-- Self's coordinate on an axis. -/
def selfOn (w : List Nat) (a : Nat) : Nat := meshSelf w / axisStep w a % meshSize w a

/-- Linear indices of the exchange group, in ring order. -/
def groupRanks (w : List Nat) (a : Nat) : List Nat :=
  (rangeFrom 0 (meshSize w a)).map (fun p => meshSelf w - selfOn w a * axisStep w a + p * axisStep w a)

/-- Ranks whose table entries are read (R372): the exchange group's where there is one, and self's. -/
def ranksRead (w : List Nat) : List Nat :=
  if meshBad w || meshSize w 0 * meshSize w 1 * meshSize w 2 ≤ meshSelf w then []
  else match axisOf w with
    | some (a, _) => groupRanks w a
    | none => [meshSelf w]

/-- Two byte ranges meet. -/
def rangesMeet (a n b m : Nat) : Bool := decide (a < b + m) && decide (b < a + n) && n != 0 && m != 0

/-- Source and target overlap, other than as R371 allows. -/
def overlapBad (w : List Nat) (kind : Nat) : Bool :=
  let sb := layBase w srcAt
  let tb := layBase w dstAt
  !(kind = 1 && sb = tb) && (rangeFrom 0 (meshLocal w)).any (fun k =>
    rangesMeet (sb + k * meshLstride w) (shardBytes w srcAt) tb (shardBytes w dstAt))

/-- The plan record's status: the lowest code that applies (R371). `rank j` is entry j of the rank table. -/
def planStatus (w : List Nat) (own : Nat) (rank : Nat → Nat) : Nat :=
  let ax := axisOf w
  let kind : Nat := (ax.map (fun p => p.2)).getD 0
  let bad := meshBad w || layoutBad w srcAt || layoutBad w dstAt
  let cut := fun (o : Nat) => (rangeFrom 0 4).any (fun d =>
    let p := layPlace w o d
    p != 0 && layDim w o d % meshSize w (p - 1) != 0)
  if bad || (decide (3 ≤ kind) && decide (1 < meshLocal w)) then 1
  else if ax.isNone then 2
  else if layRank w srcAt != layRank w dstAt || layFmt w srcAt != layFmt w dstAt ||
      (rangeFrom 0 4).any (fun d => layDim w srcAt d != layDim w dstAt d) then 3
  else if cut srcAt || cut dstAt || shardBytes w srcAt % 256 != 0 || shardBytes w dstAt % 256 != 0 then 4
  else if meshSize w 0 * meshSize w 1 * meshSize w 2 ≤ meshSelf w || rank (meshSelf w) != own then 5
  else if (ranksRead w).any (fun j => decide (1023 < rank j)) then 6
  else if overlapBad w kind then 7
  else 0

/-- Staging bytes (R370). -/
def stageBytes (w : List Nat) (kind : Nat) : Nat := match kind with
  | 1 => 2 * shardBytes w dstAt
  | 2 => shardBytes w srcAt
  | _ => 0

/-- Status record bytes (R371). -/
def statusBytes (w : List Nat) : Nat := 64 + (shardBytes w dstAt + 2047) / 2048 * 32

/-- Doublewords of a plan record of status 0 (R371). -/
def planRecord (w : List Nat) (a kind : Nat) : List Nat :=
  [kind * 2 ^ 52 + a * 2 ^ 50 + meshSize w a * 2 ^ 39 + selfOn w a * 2 ^ 28, shardBytes w srcAt, shardBytes w dstAt, stageBytes w kind,
   statusBytes w, 0, 0, 0]

/-! ### Reading a plan block -/

/-- The collective engine in the address space of an operation's launch (R372). -/
def engineOf (s : State) (o : Op) : Agent := hubAgent (asidOfGrp s o.grp) (launchOfGrp o.grp)

/-- Entries of the rank table. -/
def readRanks (g : Agent) (base : Nat) : List Nat → State → Acc (List (Nat × Nat))
  | [], s => .ok [] s
  | j :: js, s =>
    match s.load g (base + 2 * j) 2 with
    | .wait => .wait
    | .fail c a => .fail c a
    | .ok bs s1 =>
      match readRanks g base js s1 with
      | .wait => .wait
      | .fail c a => .fail c a
      | .ok rs s2 => .ok ((j, ofBytes bs) :: rs) s2

/-- The block's doublewords and the rank table entries. -/
def readBlock (s : State) (g : Agent) (va : Nat) : Acc (List Nat × List (Nat × Nat)) :=
  match s.load g va 192 with
  | .wait => .wait
  | .fail c a => .fail c a
  | .ok bs s1 =>
    let w := dwordsOf 24 bs
    match readRanks g (meshRanks w) (ranksRead w) s1 with
    | .wait => .wait
    | .fail c a => .fail c a
    | .ok rs s2 => .ok (w, rs) s2

/-- The package's identifier; without one no rank is its own. -/
def ownId (s : State) : Nat := s.fabric.podId.getD 65536

/-- A rank table entry. -/
def rankIn (rs : List (Nat × Nat)) (j : Nat) : Nat := Sparse.get 65535 rs j

/-- Operations that fail on an access of their block. -/
def failBlock (s : State) (id c a : Nat) : State := finishOp s id 0 (some { cause := c, lane := low (s.op id).active, addr := a })

/-- Retire poisoned, for no access. -/
def poisonPlan (s : State) (id c : Nat) : State := finishOp s id 0 (some { cause := c, valid := false })

/-- Free doublewords: what a plan record holds beside a status that is not 0 (log 29). -/
def freeDwords : Nat → State → List Nat × State
  | 0, s => ([], s)
  | n + 1, s =>
    let x := s.freeWord.toNat + s.took.freeWord.toNat * 2 ^ 32
    let r := freeDwords n s.took.took
    (x :: r.1, r.2)

/-- CLPLAN_RUN (R372). -/
def execClplanRun (op : Nat) (s : State) : Out :=
  let o := s.op op
  if !(s.hasOp op && o.kind = .clplan && !o.held && o.result.isNone) then .next s
  else
    let g := engineOf s o
    match readBlock s g o.x with
    | .wait => .next s
    | .fail c a => .next (failBlock s op c a)
    | .ok (w, rs) s1 =>
      let st := planStatus w (ownId s) (rankIn rs)
      let r := match axisOf w with
        | some (a, kind) => if st = 0 then (planRecord w a kind, s1) else freeDwords 5 s1
        | none => freeDwords 5 s1
      let rec_ := if st = 0 then r.1 else [st * 2 ^ 56 + nth 0 r.1 0 % 2 ^ 52 / 2 ^ 28 * 2 ^ 28] ++ (r.1.drop 1) ++ [0, 0, 0]
      match r.2.store g (o.x + 0xC0) (rec_.flatMap (fun x => toBytes x 8)) with
      | .wait => .next s
      | .fail c a => .next (failBlock r.2 op c a)
      | .ok _ s2 => .next (if st = 0 then finishOp s2 op 0 none else poisonPlan s2 op Cause.illegalOperand)

/-! ### Elements and chunks (R370, R373, R374) -/

/-- Coordinates of a linear index, dimension 0 innermost. -/
def coordsOf : List Nat → Nat → List Nat
  | [], _ => []
  | d :: ds, x => x % d :: coordsOf ds (x / d)

/-- Linear index of coordinates. -/
def linearOf : List Nat → List Nat → Nat
  | d :: ds, c :: cs => c + d * linearOf ds cs
  | _, _ => 0

/-- Where element `e` of the target shard at position `pos` comes from: position that holds it, and index in its source shard. -/
def sourceOf (w : List Nat) (a pos e : Nat) : Nat × Nat :=
  let sd := shardDims w srcAt
  let td := shardDims w dstAt
  let x := axisUse w srcAt a
  let y := axisUse w dstAt a
  let c := (rangeFrom 0 4).map (fun j =>
    let v := nth 0 (coordsOf td e) j
    if y = j + 2 then v + pos * nth 1 td j else v)
  let owner := if 2 ≤ x then nth 0 c (x - 2) / nth 1 sd (x - 2) else 0
  (owner, linearOf sd ((rangeFrom 0 4).map (fun j => if x = j + 2 then nth 0 c j % nth 1 sd j else nth 0 c j)))

/-- Chunks of the target. -/
def Plan.chunks (p : Plan) : Nat := p.tbytes / 256

/-- Number of local contributions. -/
def Plan.n (p : Plan) : Nat := meshLocal p.words

def Plan.fmt (p : Plan) : Nat := layFmt p.words srcAt

/-- Bytes of an element. -/
def Plan.esize (p : Plan) : Nat := fmtBytes p.fmt

def Plan.tag (p : Plan) : Nat := meshTag p.words

/-- Elements of a chunk. -/
def Plan.elems (p : Plan) (c : Nat) : List Nat := rangeFrom (c * (256 / p.esize)) (256 / p.esize)

/-- The position that sums chunk `c` of a target: of an all-reduce, share by share in ring order; of a reduce-scatter, the target's
own (log 26). -/
def Plan.owner (p : Plan) (pos c : Nat) : Nat := if p.kind = 1 then c * p.g / p.chunks else pos

/-- Chunks that position `pos` awaits from position `q`, by number: contribution k of chunk c is k·N + c, and its final bytes n·N + c
(log 26). -/
def Plan.awaits (p : Plan) (pos q : Nat) : List Nat :=
  let cs := rangeFrom 0 p.chunks
  match p.kind with
  | 1 =>
    (cs.filter (fun c => p.owner pos c = pos)).flatMap (fun c => (rangeFrom 0 p.n).map (fun k => k * p.chunks + c)) ++
      (cs.filter (fun c => p.owner pos c = q)).map (fun c => p.n * p.chunks + c)
  | 2 => cs.flatMap (fun c => (rangeFrom 0 p.n).map (fun k => k * p.chunks + c))
  | _ => cs.filter (fun c => (p.elems c).any (fun e => (sourceOf p.words p.axis pos e).1 = q))

/-- Where an arrived chunk stands in the table. -/
def arrivedKey (chunk pos : Nat) : Nat := 1024 * chunk + pos

/-- Agent of a plan. -/
def Plan.agent (s : State) (p : Plan) : Agent := hubAgent (s.launch p.launch).asid p.launch

/-- One element of a local contribution. -/
def loadElement (s : State) (p : Plan) (k i : Nat) : Acc Nat :=
  match s.load (p.agent s) (layBase p.words srcAt + k * meshLstride p.words + i * p.esize) p.esize with
  | .wait => .wait
  | .fail c a => .fail c a
  | .ok bs s1 => .ok (ofBytes bs) s1

/-- Elements of a local contribution. -/
def loadElements (p : Plan) (k : Nat) : List Nat → State → Acc (List Nat)
  | [], s => .ok [] s
  | i :: is, s =>
    match loadElement s p k i with
    | .wait => .wait
    | .fail c a => .fail c a
    | .ok x s1 =>
      match loadElements p k is s1 with
      | .wait => .wait
      | .fail c a => .fail c a
      | .ok xs s2 => .ok (x :: xs) s2

/-- One sum (R373): FP32, or INT32. -/
def collAdd (fmt u v : Nat) : Nat := if fmt = 2 then (u + v) % 2 ^ 32 else fpAdd .f32 0 false u v

/-- A BF16 element widened. -/
def widenIn (fmt x : Nat) : Nat := if fmt = 1 then roundTo (Fmt.bf16.value x) .f32 0 false else x

/-- `coll_sum` (R373) of the contributions of each position, in order. -/
def collSum (fmt : Nat) (xs : List (List Nat)) : Nat :=
  let part := fun (l : List Nat) => match l with
    | [] => 0
    | x :: rest => rest.foldl (fun u v => collAdd fmt u (widenIn fmt v)) (widenIn fmt x)
  let r := match xs.map part with
    | [] => 0
    | x :: rest => rest.foldl (collAdd fmt) x
  if fmt = 1 then roundTo (Fmt.f32.value r) .bf16 0 false else r

/-- Element at place `i` of an arrived chunk. -/
def Plan.arrivedElem (p : Plan) (chunk q i : Nat) : Nat :=
  bits (Sparse.get 0 p.arrived (arrivedKey chunk q)) (8 * p.esize * i) (8 * p.esize)

/-- The local contributions of chunk `c`, one after another. -/
def loadContribs (p : Plan) (c : Nat) : Nat → Nat → State → Acc (List (List Nat))
  | 0, _, s => .ok [] s
  | n + 1, k, s =>
    match loadElements p k ((p.elems c).map (fun e => (sourceOf p.words p.axis p.pos e).2)) s with
    | .wait => .wait
    | .fail c a => .fail c a
    | .ok xs s1 =>
      match loadContribs p c n (k + 1) s1 with
      | .wait => .wait
      | .fail c a => .fail c a
      | .ok ys s2 => .ok (xs :: ys) s2

/-- The final bytes of chunk `c`, once everything for it has arrived. -/
def chunkValue (s : State) (p : Plan) (c : Nat) : Acc (List Byte) :=
  let es := p.elems c
  let idx := rangeFrom 0 es.length
  if p.kind = 1 && p.owner p.pos c != p.pos then
    .ok (idx.flatMap (fun i => toBytes (p.arrivedElem (p.n * p.chunks + c) (p.owner p.pos c) i) p.esize)) s
  else if p.kind ≤ 2 then
    match loadContribs p c p.n 0 s with
    | .wait => .wait
    | .fail e a => .fail e a
    | .ok mine s1 =>
      .ok (idx.flatMap (fun i =>
        let xs := (rangeFrom 0 p.g).map (fun q => (rangeFrom 0 p.n).map (fun k =>
          if q = p.pos then nth 0 (nth [] mine k) i else p.arrivedElem (k * p.chunks + c) q i))
        toBytes (collSum p.fmt xs) p.esize)) s1
  else
    match loadElements p 0 (es.map (fun e =>
        let r := sourceOf p.words p.axis p.pos e
        if r.1 = p.pos then r.2 else 0)) s with
    | .wait => .wait
    | .fail e a => .fail e a
    | .ok mine s1 =>
      .ok (idx.flatMap (fun i =>
        let r := sourceOf p.words p.axis p.pos (nth 0 es i)
        toBytes (if r.1 = p.pos then nth 0 mine i else p.arrivedElem c r.1 i) p.esize)) s1

/-- This rank sums chunk `c`: a reduce team does (R374). -/
def Plan.sums (p : Plan) (c : Nat) : Bool := p.kind ≤ 2 && p.owner p.pos c = p.pos

/-- Chunks of a reduce unit: 64 KiB of target (R374). -/
def unitChunks : Nat := 256

/-- The chunks of unit `u` that this rank sums. -/
def Plan.unitOf (p : Plan) (u : Nat) : List Nat :=
  (rangeFrom (u * unitChunks) unitChunks).filter (fun d => decide (d < p.chunks) && p.sums d)

/-- The chunks of a reduce unit; of the kinds that only move bytes, one chunk. -/
def Plan.unit (p : Plan) (c : Nat) : List Nat := if p.sums c then p.unitOf (c / unitChunks) else [c]

/-- Everything that chunk `c` waits for has arrived: the launch counter of its unit stands at 0. -/
def Plan.ready (p : Plan) (c : Nat) : Bool :=
  let u := p.unit c
  ((rangeFrom 0 p.g).filter (fun q => q != p.pos)).all (fun q =>
    (p.awaits p.pos q).all (fun x => !decide (x % p.chunks ∈ u) || Sparse.has p.arrived (arrivedKey x q)))

/-- What a plan's work comes to: it waits, it fails, or it is done. -/
abbrev PlanWork := Acc Unit

/-- A plan's own write: it does not count as a write by another agent to a running plan's buffers (R372). -/
def planStore (s : State) (p : Plan) (va : Nat) (bs : List Byte) : PlanWork :=
  match s.store (p.agent s) va bs with
  | .wait => .wait
  | .fail c a => .fail c a
  | .ok _ s1 => .ok () (s1.modMem (fun m => { m with touched := s.mem.touched }))

/-- A chunk goes to the member at a position, by the station of its number (log 53), with its check values; where no station carries it the
route is lost (R375). -/
def sendChunk (s : State) (p : Plan) (q x data : Nat) : PlanWork :=
  let peer := nth 0 p.members q
  match stationFor s peer x with
  | none => .fail Cause.uncorrectable 0
  | some n => .ok () (sendBy s n 256 (fun f => .chunk f peer p.tag q x data (checksOf 0 256 data)))

/-- A chunk goes to several members. -/
def sendToAll (p : Plan) (x data : Nat) : List Nat → State → PlanWork
  | [], s => .ok () s
  | q :: qs, s =>
    match sendChunk s p q x data with
    | .wait => .wait
    | .fail c a => .fail c a
    | .ok _ s1 => sendToAll p x data qs s1

/-- Chunk `c` becomes final: its 256 bytes are written once (R375); the sum of an all-reduce goes to every member. -/
def finishChunk (s : State) (id c : Nat) : PlanWork :=
  let p := Sparse.get {} s.fabric.plans id
  match chunkValue s p c with
  | .wait => .wait
  | .fail e a => .fail e a
  | .ok bs s1 =>
    match planStore s1 p (layBase p.words dstAt + 256 * c) bs with
    | .wait => .wait
    | .fail e a => .fail e a
    | .ok _ s2 =>
      let s3 := s2.modFabric (fun f => { f with plans := Sparse.set {} f.plans id { p with final := p.final ++ [c] } })
      if p.kind = 1 && p.owner p.pos c = p.pos then
        sendToAll p (p.n * p.chunks + c) (ofBytes bs) ((rangeFrom 0 p.g).filter (fun q => q != p.pos)) s3
      else .ok () s3

/-- A unit has its reduce team already. -/
def dispatched (s : State) (id u : Nat) : Bool := s.fabric.reduces.any (fun r => r.plan = id && r.unit = u)

/-- The hub dispatches the reduce team of a unit to queue 63 (R374). -/
def dispatchReduce (s : State) (id u : Nat) : State :=
  if dispatched s id u then s else s.modFabric (fun f => { f with reduces := f.reduces ++ [{ plan := id, unit := u }] })

/-- Every chunk that is ready and not final becomes final; where it is to be summed, its unit's launch counter stands at 0 and the reduce team
is dispatched. -/
def finishReady (id : Nat) : List Nat → State → PlanWork
  | [], s => .ok () s
  | c :: cs, s =>
    let p := Sparse.get {} s.fabric.plans id
    if c ∈ p.final || !p.ready c then finishReady id cs s
    else if p.sums c then finishReady id cs (dispatchReduce s id (c / unitChunks))
    else
      match finishChunk s id c with
      | .wait => .wait
      | .fail e a => .fail e a
      | .ok _ s1 => finishReady id cs s1

/-- The chunks of a unit are summed, one after another. -/
def sumUnit (id : Nat) : List Nat → State → PlanWork
  | [], s => .ok () s
  | c :: cs, s =>
    match finishChunk s id c with
    | .wait => .wait
    | .fail e a => .fail e a
    | .ok _ s1 => sumUnit id cs s1

/-- Work on everything that has arrived. -/
def workOn (s : State) (id : Nat) : PlanWork := finishReady id (rangeFrom 0 (Sparse.get {} s.fabric.plans id).chunks) s

/-! ### Status and aborts (R375) -/

/-- The status record: header and bitmap. -/
def statusRecord (p : Plan) (state cause peer : Nat) (all : Bool) : List Byte :=
  let inplace := bit (layBase p.words srcAt = layBase p.words dstAt)
  let final := if all then p.chunks else p.final.length
  toBytes (state * 2 ^ 62 + cause % 32 * 2 ^ 57 + inplace * 2 ^ 56 + peer % 1024 * 2 ^ 32 + final) 8 ++ toBytes 0 56 ++
    (rangeFrom 0 (statusBytes p.words - 64)).map (fun b =>
      BitVec.ofNat 8 ((rangeFrom 0 8).foldl (fun x i =>
        if decide (8 * b + i < p.chunks) && (all || decide (8 * b + i ∈ p.final)) then x + 2 ^ i else x) 0))

/-- Write the status record. -/
def putStatus (s : State) (p : Plan) (state cause peer : Nat) (all : Bool) : PlanWork :=
  s.store (p.agent s) (meshStatus p.words) (statusRecord p state cause peer all)

/-- The other members. -/
def Plan.others (s : State) (p : Plan) : List Nat := p.members.filter (fun m => m != ownId s)

/-- Reduce teams that have exited: their cores have their registers back (R110), and clear their semaphores where they hold no team now
(R206). -/
def reduceGone (s0 s : State) : State :=
  ((s0.fabric.reduces.filterMap (fun r => r.core)).eraseDups).foldl (fun s c => clearSems (noteReturned c s0 s) c) s

/-- Members' notices of a plan that is over here may still come (log 27). -/
def awaitNotices (s : State) (tag : Nat) (ms : List Nat) : State :=
  s.modFabric (fun f => { f with spent := f.spent.filter (fun x => !(x.1 = tag && decide (x.2 ∈ ms))) ++ ms.map (fun m => (tag, m)) })

/-- An aborting rank's notices, with its cause and identifier, to every member that a station carries them to (R375). -/
def sendNotices (s : State) (p : Plan) (cause : Nat) : State :=
  (p.others s).foldl (fun s m => sendTo s m 0 8 (fun f => .notice f m p.tag (ownId s) cause)) s

/-- Chunks of a plan's buffers are watched no longer. -/
def unwatch (s : State) (p : Plan) : State :=
  s.modMem (fun m =>
    let w := p.watch.foldl (fun l x => l.erase x.2) m.watched
    { m with watched := w, touched := m.touched.filter (fun k => decide (k ∈ w)) })

/-- A plan aborts: notices to every member, its status record, and its retirement. Nothing where the record has to wait. -/
def abortPlan (s : State) (id cause peer : Nat) : Option State :=
  let p := Sparse.get {} s.fabric.plans id
  let s1 := sendNotices s p cause
  let s2 := reduceGone s1 (s1.modFabric (fun f => { f with
    plans := Sparse.erase f.plans id
    reduces := f.reduces.filter (fun r => r.plan != id) }))
  let s3 := awaitNotices (unwatch s2 p) p.tag ((p.others s).filter (fun m => m != peer))
  match putStatus s3 p 3 cause peer false with
  | .wait => none
  | .fail _ _ => some (poisonPlan s3 id cause)
  | .ok _ s4 => some (poisonPlan s4 id cause)

/-- An abort that stands in for a step, which does not happen where the abort has to wait. -/
def abortOr (s0 s : State) (id cause : Nat) : Out := .next ((abortPlan s id cause (ownId s)).getD s0)

/-- The plan goes on after a step, or aborts with its failure. -/
def orAbort (s0 : State) (id : Nat) (sFail : State) (w : PlanWork) : Out :=
  match w with
  | .wait => .next s0
  | .fail c _ => abortOr s0 sFail id c
  | .ok _ s1 => .next s1

/-- A placed reduce team sums its unit and exits; its fault aborts the plan with the fault's cause (R374). -/
def runReduce (s : State) (r : ReduceTeam) : State :=
  let p := Sparse.get {} s.fabric.plans r.plan
  match r.fault with
  | some c => (abortPlan s r.plan c (ownId s)).getD s
  | none =>
    match sumUnit r.plan (p.unitOf r.unit) s with
    | .wait => s
    | .fail c _ => (abortPlan s r.plan c (ownId s)).getD s
    | .ok _ s1 => reduceGone s1 (s1.modFabric (fun f => { f with reduces := f.reduces.erase r }))

/-! ### Running (R372 to R374) -/

/-- Free bytes fill the staging area (log 26). -/
def fillStaging (s : State) (p : Plan) : PlanWork :=
  let n := stageBytes p.words p.kind
  if n = 0 then .ok () s
  else
    let r := s.freeBytes n
    planStore r.2 p (meshStaging p.words) r.1

/-- The bytes of the chunk with number `x` as this rank sends it to position `q`. -/
def outChunk (s : State) (p : Plan) (q x : Nat) : Acc Nat :=
  let c := x % p.chunks
  let k := x / p.chunks
  let es := p.elems c
  let from_ := fun (e : Nat) => sourceOf p.words p.axis q e
  match loadElements p k (es.map (fun e => if p.kind ≤ 2 || (from_ e).1 = p.pos then (from_ e).2 else 0)) s with
  | .wait => .wait
  | .fail e a => .fail e a
  | .ok xs s1 => .ok ((rangeFrom 0 es.length).foldl (fun y i =>
      if p.kind ≤ 2 || (from_ (nth 0 es i)).1 = p.pos then y + nth 0 xs i * 2 ^ (8 * p.esize * i) else y) 0) s1

/-- The chunks that this rank sends as its exchange begins. -/
def sendChunks (p : Plan) : List (Nat × Nat) → State → PlanWork
  | [], s => .ok () s
  | (q, x) :: r, s =>
    match outChunk s p q x with
    | .wait => .wait
    | .fail e a => .fail e a
    | .ok d s1 =>
      match sendChunk s1 p q x d with
      | .wait => .wait
      | .fail e a => .fail e a
      | .ok _ s2 => sendChunks p r s2

/-- Chunks that go out at the start: contributions, and moved bytes. -/
def Plan.outgoing (p : Plan) : List (Nat × Nat) :=
  ((rangeFrom 0 p.g).filter (fun q => q != p.pos)).flatMap (fun q =>
    ((p.awaits q p.pos).filter (fun x => p.kind != 1 || decide (x < p.n * p.chunks))).map (fun x => (q, x)))

/-- The 256-byte chunks of the buffers of a plan: its contributions, its target and its staging area. -/
def Plan.buffers (p : Plan) : List Nat :=
  let area := fun (base n : Nat) => (rangeFrom 0 ((n + 255) / 256)).map (fun k => base + 256 * k)
  (rangeFrom 0 p.n).flatMap (fun k => area (layBase p.words srcAt + k * meshLstride p.words) p.sbytes) ++
    area (layBase p.words dstAt) p.tbytes ++ area (meshStaging p.words) (stageBytes p.words p.kind)

/-- The exchange begins, and writes to its buffers are noted from now on (R372). -/
def startExchange (s : State) (id : Nat) : PlanWork :=
  let p0 := Sparse.get {} s.fabric.plans id
  let g := p0.agent s
  let p := { p0 with running := true
                     watch := p0.buffers.eraseDups.filterMap (fun va => (peekPhys s g.owner g.asid va).map (fun a => (va, a / 256))) }
  let s1 := (s.modFabric (fun f => { f with plans := Sparse.set {} f.plans id p })).modMem (fun m => { m with watched := m.watched ++ p.watch.map (fun w => w.2) })
  match fillStaging s1 p with
  | .wait => .wait
  | .fail c a => .fail c a
  | .ok _ s2 =>
    match sendChunks p p.outgoing s2 with
    | .wait => .wait
    | .fail c a => .fail c a
    | .ok _ s3 => workOn s3 id

/-- With every member present the exchange begins. -/
def tryStart (s : State) (id : Nat) : PlanWork :=
  let p := Sparse.get {} s.fabric.plans id
  if p.members.all (fun m => decide (m ∈ p.present)) then startExchange s id else .ok () s

/-- The first rendezvous of each member for a tag. -/
def firstOnes (tag : Nat) (ms : List Nat) (l : List (Nat × Nat × Nat × Nat × Nat)) : List (Nat × Nat × Nat × Nat × Nat) :=
  ms.filterMap (fun m => l.find? (fun r => r.1 = tag && r.2.2.2.2 = m))

/-- What members have presented of a tag before the local `clgo`: whether all agree with it, and who they are. -/
def presentedFor (s : State) (p : Plan) : Bool × List Nat :=
  let l := firstOnes p.tag p.members s.fabric.presented
  (l.all (fun r => r.2.1 = p.kind && r.2.2.1 = p.g && r.2.2.2.1 = p.sbytes), l.map (fun r => r.2.2.2.2))

/-- A kept notice for the tag is consumed: sender and cause. -/
def keptFor (s : State) (p : Plan) : Option (Nat × Nat) :=
  (s.fabric.kept.find? (fun k => k.1 = p.tag && decide (k.2.1 ∈ p.members))).map (fun k => k.2)

/-- The plan of a `clgo` whose derivation holds. -/
def planOf (w : List Nat) (rs : List (Nat × Nat)) (launch a kind : Nat) (own : Nat) : Plan :=
  { launch := launch, words := w, kind := kind, axis := a, g := meshSize w a, pos := selfOn w a, sbytes := shardBytes w srcAt
    tbytes := shardBytes w dstAt, members := (groupRanks w a).map (rankIn rs), present := [own] }

/-- A plan enters the engine: running status, rendezvous, and the exchange if all are there. A member that no station reaches has no route
(R375). -/
def enterPlan (s0 s : State) (id : Nat) (p : Plan) : Out :=
  match putStatus s p 1 0 0 false with
  | .wait => .next s0
  | .fail c a => .next (failBlock s id c a)
  | .ok _ s1 =>
    let pre := presentedFor s1 p
    let s2 := s1.modFabric (fun f => { f with
      plans := Sparse.set {} f.plans id { p with present := p.present ++ pre.2 }
      presented := (firstOnes p.tag p.members f.presented).foldl (fun l r => l.erase r) f.presented })
    let s3 := (p.others s2).foldl (fun s m => sendTo s m 0 16 (fun f => .rendezvous f m p.tag p.kind p.g p.sbytes (ownId s))) s2
    if !pre.1 then abortOr s0 s3 id Cause.illegalOperand
    else if !(p.others s3).isEmpty && (workingStations s3).isEmpty then abortOr s0 s3 id Cause.uncorrectable
    else orAbort s0 id s3 (tryStart s3 id)

/-- A kept notice aborts the plan before its rendezvous (R375), and every kept one of its tag with it: all are of the plan that the members
abort now. It sends its own notices, as every aborting rank does. -/
def abortKept (s0 s : State) (id : Nat) (p : Plan) (sender cause : Nat) : Out :=
  let mine := fun (k : Nat × Nat × Nat) => k.1 = p.tag && decide (k.2.1 ∈ p.members)
  let told := (s.fabric.kept.filter mine).map (fun k => k.2.1)
  let s1 := sendNotices (s.modFabric (fun f => { f with kept := f.kept.filter (fun k => !mine k) })) p cause
  let s2 := awaitNotices s1 p.tag ((p.others s).filter (fun m => !decide (m ∈ told)))
  match putStatus s2 p 3 cause sender false with
  | .wait => .next s0
  | .fail c a => .next (failBlock s2 id c a)
  | .ok _ s3 => .next (poisonPlan s3 id cause)

/-- Plans in the engine, at most 16 (R372). -/
def planRoom : Nat := 16

/-- An older `clgo` waits to start. -/
def olderClgo (s : State) (op : Nat) : Bool :=
  s.ops.any (fun (p : Nat × Op) => p.1 < op && p.2.kind = .clgo && !p.2.held && p.2.result.isNone && !Sparse.has s.fabric.plans p.1)

/-- What a plan record says: its reserved bits are ignored (R5, R371). -/
def recordKept (bs : List Byte) : List Nat :=
  match dwordsOf 5 bs with
  | x :: xs => x / 2 ^ 28 * 2 ^ 28 :: xs
  | [] => []

/-- CLGO_RENDEZVOUS (R372): derive again, and enter the engine. -/
def execClgoRendezvous (op : Nat) (s : State) : Out :=
  let o := s.op op
  if !(s.hasOp op && o.kind = .clgo && !o.held && o.result.isNone) || Sparse.has s.fabric.plans op || olderClgo s op ||
      planRoom ≤ s.fabric.plans.length then .next s
  else
    let g := engineOf s o
    match readBlock s g o.x with
    | .wait => .next s
    | .fail c a => .next (failBlock s op c a)
    | .ok (w, rs) s1 =>
      match s1.load g (o.x + 0xC0) 40 with
      | .wait => .next s
      | .fail c a => .next (failBlock s1 op c a)
      | .ok bs s2 =>
        match axisOf w with
        | none => .next (poisonPlan s2 op Cause.illegalOperand)
        | some (a, kind) =>
          if planStatus w (ownId s) (rankIn rs) != 0 || recordKept bs != (planRecord w a kind).take 5 then
            .next (poisonPlan s2 op Cause.illegalOperand)
          else
            match s2.load g (meshStatus w) 8 with
            | .wait => .next s
            | .fail c a => .next (failBlock s2 op c a)
            | .ok st s3 =>
              let p := planOf w rs (launchOfGrp o.grp) a kind (ownId s)
              if bits (ofBytes st) 62 2 = 1 then .next (poisonPlan s3 op Cause.illegalOperand)
              else match keptFor s3 p with
                | some (sender, cause) => abortKept s s3 op p sender cause
                | none => enterPlan s s3 op p

/-- The local plan of a tag, with a member. -/
def planWith (s : State) (tag sender : Nat) : Option (Nat × Plan) :=
  s.fabric.plans.find? (fun (p : Nat × Plan) => p.2.tag = tag && decide (sender ∈ p.2.members))

/-- MEMBER_RENDEZVOUS (R372): one for a plan whose member is present already is for the next `clgo` of the tag, and is kept. With it the
member's notices of earlier plans of the tag have come. -/
def execMemberRendezvous (tag kind g sbytes sender : Nat) (s0 : State) : Out :=
  if !(onPod s0 && s0.runsStage 2) then .next s0
  else
    let s := s0.modFabric (fun f => { f with spent := f.spent.filter (fun x => x != (tag, sender)) })
    let keep := s.modFabric (fun f => { f with presented := f.presented ++ [(tag, kind, g, sbytes, sender)] })
    match planWith s tag sender with
    | none => .next keep
    | some (id, p) =>
      if p.running || sender ∈ p.present then .next keep
      else if !(kind = p.kind && g = p.g && sbytes = p.sbytes) then abortOr s0 s id Cause.illegalOperand
      else
        let s1 := s.modFabric (fun f => { f with plans := Sparse.set {} f.plans id { p with present := p.present ++ [sender] } })
        orAbort s0 id s1 (tryStart s1 id)

/-- CHUNK_ARRIVAL (R374): once for each chunk that the plan awaits. Its sectors are verified as they enter the package; a mismatch fails the
access (R360), and so aborts the plan. -/
def execChunkArrival (op pos chunk : Nat) (data : FarData) (s : State) : Out :=
  let p := Sparse.get {} s.fabric.plans op
  if !Sparse.has s.fabric.plans op || !onPod s || !p.running || pos = p.pos || p.g ≤ pos || !decide (chunk ∈ p.awaits p.pos pos) ||
      Sparse.has p.arrived (arrivedKey chunk pos) then .next s
  else if data.checks != checksOf 0 256 data.data then abortOr s s op Cause.checkMismatch
  else
    let p1 := { p with arrived := Sparse.insert p.arrived (arrivedKey chunk pos) (data.data % 2 ^ 2048) }
    let s1 := s.modFabric (fun f => { f with plans := Sparse.set {} f.plans op p1 })
    orAbort s op s1 (workOn s1 op)

/-- The chunks of its buffers that something has written since the plan began are unspecified as it completes (R372); and of a target chunk all
that a source chunk so written gives. -/
def Plan.unspecified (p : Plan) (s : State) : List Nat :=
  let hit := (p.watch.filter (fun w => decide (w.2 ∈ s.mem.touched))).map (fun w => w.1)
  if hit.isEmpty then []
  else
    let near := fun (i : Nat) => (rangeFrom 0 p.n).any (fun k => decide ((layBase p.words srcAt + k * meshLstride p.words + i * p.esize) / 256 * 256 ∈ hit))
    (hit ++ ((rangeFrom 0 p.chunks).filter (fun c => (p.elems c).any (fun e =>
      let r := sourceOf p.words p.axis p.pos e
      (p.kind ≤ 2 || r.1 = p.pos) && near r.2))).map (fun c => layBase p.words dstAt + 256 * c)).eraseDups

/-- Free bytes stand in chunks. -/
def blurChunks (p : Plan) : List Nat → State → PlanWork
  | [], s => .ok () s
  | va :: vas, s =>
    let r := s.freeBytes 256
    match planStore r.2 p va r.1 with
    | .wait => .wait
    | .fail c a => .fail c a
    | .ok _ s1 => blurChunks p vas s1

/-- CLGO_COMPLETE (R372): every chunk is final. -/
def execClgoComplete (op : Nat) (s : State) : Out :=
  let p := Sparse.get {} s.fabric.plans op
  if !Sparse.has s.fabric.plans op || !p.running || p.final.length < p.chunks then .next s
  else
    match blurChunks p (p.unspecified s) s with
    | .wait => .next s
    | .fail c _ => abortOr s s op c
    | .ok _ s0 =>
      match putStatus s0 p 2 0 0 true with
      | .wait => .next s
      | .fail c _ => abortOr s s op c
      | .ok _ s1 => .next (finishOp (awaitNotices (unwatch (s1.modFabric (fun f => { f with plans := Sparse.erase f.plans op })) p) p.tag (p.others s)) op p.tbytes none)

/-- PLAN_ABORT (R375): a member's own failure. -/
def execPlanAbort (op cause : Nat) (s : State) : Out :=
  if Sparse.has s.fabric.plans op then abortOr s s op (cause % 32) else .next s

/-- ABORT_NOTICE_ARRIVAL (R375): of a plan that is over here it is late, and nothing comes of it (log 27); else the plan of the tag aborts, or
the notice is kept for the next one. -/
def execAbortNoticeArrival (tag sender cause : Nat) (s : State) : Out :=
  if !(onPod s && s.runsStage 2) then .next s
  else if (tag, sender) ∈ s.fabric.spent then .next (s.modFabric (fun f => { f with spent := f.spent.erase (tag, sender) }))
  else
    match planWith s tag sender with
    | some (id, _) => .next ((abortPlan s id (cause % 32) sender).getD s)
    | none => .next (s.modFabric (fun f => { f with kept := f.kept ++ [(tag, sender, cause % 32)] }))

/-- With its last station the package loses its route to every member: the plans that have others abort (R375). -/
def loseRoutes (s : State) : State :=
  if !(workingStations s).isEmpty then s
  else (s.fabric.plans.filter (fun (p : Nat × Plan) => !(p.2.others s).isEmpty)).foldl (fun s p =>
    (abortPlan s p.1 Cause.uncorrectable (ownId s)).getD s) s

/-! ### Ring passes (R376, R377) -/

/-- A ring record. -/
structure Ring where
  id : Nat
  n : Nat
  pos : Nat
  fmt : Nat
  bytes : Nat
  src : Nat
  dst : Nat
  members : List Nat
  deriving DecidableEq, Repr

def Ring.ofBytes (bs : List Byte) : Ring :=
  let w := fun (off n : Nat) => Sys2Proof.ofBytes ((bs.drop off).take n)
  let h := w 0 8
  let n := bits h 44 4 + 1
  { id := bits h 48 16, n := n, pos := bits h 40 4, fmt := bits h 38 2, bytes := bits h 0 32, src := bits (w 8 8) 32 32
    dst := bits (w 8 8) 0 32, members := (rangeFrom 0 n).map (fun m => bits (w (0x40 + 4 * m) 4) 0 28) }

/-- Why a ring record may not be used; 0 for nothing. -/
def Ring.cause (r : Ring) (gridTeam scratch : Nat) : Nat :=
  if r.n ≤ r.pos || 2 ≤ r.fmt || r.bytes % 256 != 0 || r.src % 16 != 0 || nth (2 ^ 28) r.members r.pos != gridTeam ||
      r.members.eraseDups.length != r.members.length then Cause.illegalOperand
  else if scratch * 256 < r.src + r.bytes || scratch * 256 < r.dst + r.bytes then Cause.scratchBound
  else 0

/-- Packets for an `rring` that a core may hold (R376). -/
def packetRoom : Nat := 4

/-- The team has an `rring` that may be the ring's: issued and not retired. -/
def ringIssued (s : State) (team id : Nat) : Bool :=
  s.ops.any (fun (p : Nat × Op) => p.2.kind = .rring && teamOf p.2.grp = team && p.2.result.isNone &&
    (Ring.ofBytes (s.scrRead team p.2.x 128)).id = id)

/-- Packets at a team's core whose `rring` has not issued (R376). -/
def earlyPackets (s : State) (team : Nat) : List Packet :=
  (s.core (s.team team).core).packets.filter (fun p => !ringIssued s p.team p.id)

/-- Those on their way to teams of the core. -/
def earlyTransit (s : State) (team : Nat) : List Packet :=
  s.fabric.transit.filter (fun p => (s.team p.team).resident && (s.team p.team).core = (s.team team).core && !ringIssued s p.team p.id)

/-- The next member cannot take another packet now. -/
def ringBlocked (s : State) (team id : Nat) : Bool :=
  let t := s.team team
  t.resident && !t.exited && !ringIssued s team id && decide (packetRoom ≤ (earlyPackets s team).length + (earlyTransit s team).length)

/-- The packet of a ring that a member waits for. -/
def ringPacket (s : State) (core team : Nat) (r : Ring) : Option Packet :=
  (s.core core).packets.find? (fun p => p.team = team && p.id = r.id && p.pos = r.pos)

/-- The words of a tile. -/
def tileWords (s : State) (team off n : Nat) : List Word := (rangeFrom 0 (n / 4)).map (fun i => BitVec.ofNat 32 (ofBytes (s.scrRead team (off + 4 * i) 4)))

/-- The team has exited without having issued the `rring` that its next packet is for (R376). -/
def ringGone (s : State) (team id : Nat) : Bool :=
  let t := s.team team
  t.exited && decide (Sparse.get 0 t.ringsOut id ≤ Sparse.get 0 t.ringsIn id)

/-- A member passes its packet on, or poisons its own operation where nobody takes it. -/
def forwardRing (s : State) (id : Nat) (r : Ring) (team : Nat) (poisoned : Bool) (data : List Word) : State :=
  let next := launchOfTeam team * 2 ^ 28 + nth 0 r.members (r.pos + 1)
  let gone := ringGone s next r.id
  let s0 := s.modTeam next (fun t => { t with ringsIn := Sparse.set 0 t.ringsIn r.id (Sparse.get 0 t.ringsIn r.id + 1) })
  let s1 := if gone then s
    else s0.modFabric (fun f => { f with transit := f.transit ++
      [{ team := next, id := r.id, pos := r.pos + 1, n := r.n, fmt := r.fmt, bytes := r.bytes, poisoned := poisoned, data := data }] })
  if poisoned || gone then poisonPlan s1 id Cause.illegalOperand else finishOp s1 id r.bytes none

/-- What a member does once its packet, if it needs one, is there. -/
def passRing (s : State) (id : Nat) (r : Ring) (team : Nat) (got : Option Packet) : State :=
  let poisoned := match got with
    | some p => p.poisoned || p.n != r.n || p.fmt != r.fmt || p.bytes != r.bytes
    | none => false
  let tile := tileWords s team r.src r.bytes
  let data := match got with
    | some p => List.zipWith (fun (x y : Word) => BitVec.ofNat 32 (collAdd (if r.fmt = 1 then 2 else 0) x.toNat y.toNat)) p.data tile
    | none => tile
  let s1 := match got with
    | some p => s.modCore (s.team team).core (fun c => { c with packets := c.packets.erase p })
    | none => s
  if r.pos + 1 < r.n then forwardRing s1 id r team poisoned (if poisoned then [] else data)
  else if poisoned then poisonPlan s1 id Cause.illegalOperand
  else finishOp (s1.scrWrite team r.dst (data.flatMap (fun x => toBytes x.toNat 4))) id r.bytes none

/-- RRING_RUN (R376, R377). -/
def execRringRun (op : Nat) (s : State) : Out :=
  let o := s.op op
  let team := teamOf o.grp
  let older := s.ops.any (fun (p : Nat × Op) => p.1 < op && p.2.grp = o.grp && p.2.isLevel && !p.2.left.isEmpty)
  if !(s.hasOp op && o.kind = .rring && !o.held && o.result.isNone && (s.team team).resident) || older then .next s
  else
    let r := Ring.ofBytes (s.scrRead team o.x 128)
    let c := r.cause (gridTeamOf team) (s.launch (launchOfTeam team)).scratch
    if c ≠ 0 then .next (poisonPlan s op c)
    else if r.pos + 1 < r.n && ringBlocked s (launchOfTeam team * 2 ^ 28 + nth 0 r.members (r.pos + 1)) r.id then .next s
    else if r.pos = 0 then .next (passRing s op r team none)
    else
      match ringPacket s (s.team team).core team r with
      | none => .next s
      | some p => .next (passRing s op r team (some p))

/-- RRING_PACKET_ARRIVAL (R376): the k-th packet on its way reaches the core of its team; at a team without a core it waits at the hub, and so
it does while the core holds four whose `rring` has not issued; at a team that has exited it is discarded. -/
def execRringPacketArrival (packet : Nat) (s : State) : Out :=
  match s.fabric.transit[packet]? with
  | none => .next s
  | some p =>
    let t := s.team p.team
    let s1 := s.modFabric (fun f => { f with transit := f.transit.eraseIdx packet })
    if !t.resident then .next s
    else if t.exited && !ringIssued s p.team p.id then .next s1
    else if !ringIssued s p.team p.id && packetRoom ≤ (earlyPackets s p.team).length then .next s
    else .next (s1.modCore t.core (fun c => { c with packets := c.packets ++ [p] }))

/-! ### Stations (R358, R359) -/

/-- A station stops working (R358, R410); with the last one, routes to peers are lost (R375). -/
def stopStation (s : State) (n : Nat) : State :=
  if n < stationCount && !(s.station n).down then loseRoutes (askReplacement (s.modStation n (fun x => { x with down := true }))) else s

/-- STATION_STOP (R358). -/
def execStationStop (station : Nat) (s : State) : Out := .next (stopStation s station)

/-- FLIT_AUTH_FAILURE (R359): the sixteenth failure in a row stops the station. The flit is replayed. -/
def execFlitAuthFailure (station : Nat) (s : State) : Out :=
  if stationCount ≤ station || (s.station station).down then .next s
  else
    let s1 := s.modStation station (fun x => { x with fails := x.fails + 1 })
    if 16 ≤ (s1.station station).fails then .next (stopStation s1 station) else .next s1

/-- STATION_NONCE_EXHAUSTED (R359): it stops sending. -/
def execStationNonceExhausted (station : Nat) (s : State) : Out :=
  if decide (station < stationCount) && decide (2 ^ 63 ≤ (s.station station).count) then .next (stopStation s station) else .next s

/-- STATION_START (R358): a station without nonces left waits for its key (R359), and one without lanes stays stopped (R409). -/
def execStationStart (station : Nat) (s : State) : Out :=
  if station < stationCount && (s.station station).down && (s.station station).lanes != 0 && (s.station station).count < 2 ^ 63 then
    .next (s.modStation station (fun x => { x with down := false, fails := 0 }))
  else .next s

/-! ### Major 0x26 (R372, R376, R378) -/

/-- `clplan` and `clgo`: the block's address. -/
def planIssue (kind : OpKind) (idx : Nat) (f : ExtForm) (s : State) : Out :=
  s.access f { a := baseWant 2, b := offWant }
    (fun act s => if act != 0#32 && s.addr64 f (low act) % 256 ≠ 0 then causeAll act Cause.misaligned else [])
    (fun act s => s.engineOp f (Op.ofTwo { kind := kind, major := 0x26, idx := idx, active := act } (s.addr64 f (low act)) 0))

def execClplan (f : ExtForm) (s : State) : Out := planIssue .clplan 0 f s

def execClgo (f : ExtForm) (s : State) : Out := planIssue .clgo 1 f s

/-- An `rring` has issued, for a packet where its record names a position behind the first (R376). -/
def noteRing (s0 s : State) (team off : Nat) : State :=
  let r := Ring.ofBytes (s.scrRead team off 128)
  if s.sched.nextId = s0.sched.nextId || r.pos = 0 then s
  else s.modTeam team (fun t => { t with ringsOut := Sparse.set 0 t.ringsOut r.id (Sparse.get 0 t.ringsOut r.id + 1) })

/-- `rring`. -/
def execRring (f : ExtForm) (s : State) : Out :=
  s.access f { a := baseWant 1, b := offWant }
    (fun act s =>
      let o := s.addr32 f (low act)
      if act = 0#32 then []
      else if o % 128 ≠ 0 then causeAll act Cause.misaligned
      else if s.myLaunch.scratch * 256 < o + 128 then causeAll act Cause.scratchBound
      else [])
    (fun act s =>
      let o := s.addr32 f (low act)
      noteRing s (s.engineOp f (Op.ofTwo { kind := .rring, major := 0x26, idx := 2, active := act } o 0)) (teamOf s.sched.cur.grp) o)

end Sys2Proof.Machine
end

