-- ==== Sys2Proof/Machine/Sha3.lean ====
section
/-! DEFINITION. SHA3-256, by which a boot stage is measured and the running digest extended (R412). -/

namespace Sys2Proof.Machine

open Sys2Proof

/-- A 64-bit lane turned left by `n`. -/
def turnLane (n x : Nat) : Nat := (x * 2 ^ (n % 64) + x / 2 ^ (64 - n % 64)) % 2 ^ 64

/-- A state of 25 lanes formed lane by lane from its column and row: lane `x + 5·y`. -/
def lanesOf (f : Nat → Nat → Nat) : List Nat := (rangeFrom 0 25).map (fun i => f (i % 5) (i / 5))

/-- A lane of a state, column and row counted modulo 5. -/
def laneOf (a : List Nat) (x y : Nat) : Nat := nth 0 a (x % 5 + 5 * (y % 5))

/-- The parity of a column. -/
def parity (a : List Nat) (x : Nat) : Nat := (rangeFrom 0 5).foldl (fun p y => p ^^^ laneOf a x y) 0

/-- How far each lane is turned: the walk from lane (1, 0) by (x, y) → (y, 2x + 3y) turns its t-th lane by t(t+1)/2; lane (0, 0)
stays. The walk looks for a lane from the t-th on. -/
def turnBy (x y : Nat) : Nat → Nat → Nat → Nat → Nat
  | 0, _, _, _ => 0
  | n + 1, t, u, v => if u = x && v = y then t * (t + 1) / 2 % 64 else turnBy x y n (t + 1) v ((2 * u + 3 * v) % 5)

/-- The shift register of x⁸ + x⁶ + x⁵ + x⁴ + 1 that gives the rounds their constants. -/
def shiftOnce (r : Nat) : Nat := if 128 ≤ r then (2 * r) % 256 ^^^ 0x71 else 2 * r

/-- A round's constant: bit 2ʲ − 1 is the register's low bit at its j-th shift; and the register for the next round. -/
def roundConst (r : Nat) : Nat × Nat :=
  (rangeFrom 0 7).foldl (fun p j => (p.1 + p.2 % 2 * 2 ^ (2 ^ j - 1), shiftOnce p.2)) (0, r)

/-- One round: parities are mixed in, lanes are turned and moved, rows are combined, and the constant enters lane (0, 0). -/
def hashRound (p : List Nat × Nat) : List Nat × Nat :=
  let k := roundConst p.2
  let mixed := lanesOf (fun x y => laneOf p.1 x y ^^^ parity p.1 (x + 4) ^^^ turnLane 1 (parity p.1 (x + 1)))
  let turned := lanesOf (fun x y => turnLane (turnBy x y 24 1 1 0) (laneOf mixed x y))
  let moved := lanesOf (fun x y => laneOf turned (x + 3 * y) x)
  (lanesOf (fun x y =>
    let row := laneOf moved x y ^^^ (laneOf moved (x + 2) y &&& (laneOf moved (x + 1) y ^^^ (2 ^ 64 - 1)))
    if x + y = 0 then row ^^^ k.1 else row), k.2)

/-- The permutation of 24 rounds. -/
def permute (a : List Nat) : List Nat := ((rangeFrom 0 24).foldl (fun p _ => hashRound p) (a, 1)).1

/-- A little-endian 64-bit word of a block. -/
def blockLane (b : List Byte) (i : Nat) : Nat := ofBytes ((b.drop (8 * i)).take 8)

/-- Blocks of 136 bytes are absorbed. -/
def absorb : Nat → List Byte → List Nat → List Nat
  | 0, _, a => a
  | n + 1, bs, a =>
    absorb n (bs.drop 136) (permute ((rangeFrom 0 25).map (fun i => if i < 17 then nth 0 a i ^^^ blockLane bs i else nth 0 a i)))

/-- The message with its padding: a number of whole blocks. -/
def padded (m : List Byte) : List Byte :=
  let n := 136 - m.length % 136
  if n = 1 then m ++ [0x86#8] else m ++ [0x06#8] ++ List.replicate (n - 2) 0#8 ++ [0x80#8]

/-- SHA3-256. -/
def sha3 (m : List Byte) : List Byte :=
  let a := absorb (m.length / 136 + 1) (padded m) (List.replicate 25 0)
  (rangeFrom 0 4).flatMap (fun i => toBytes (nth 0 a i) 8)

end Sys2Proof.Machine
end

