-- ==== Sys2Proof/Machine/Management.lean ====
section
/-! DEFINITION. Management and trust: reset (R416), thermal shutdown (R408), power (R407), measured boot (R412, R413), secure sessions
(R414), the items that only management sets (R392), temperature and droop (R41, R42), the communication reserve (R44), and
link training (R384). -/

namespace Sys2Proof.Machine

open Sys2Proof

/-! ### Reset and power -/

/-- Memory that stands outside the package: spaces 3 and 4. -/
def outsideCells (m : Memory) : List Host.Cell := m.cells.filter (fun (c : Host.Cell) => spaceOf c.1 = 3 || spaceOf c.1 = 4)

/-- Lines of spaces 3 and 4 that a home slice held modified and has not written back: what they hold outside is open (log 10). -/
def forgetLines : List Nat → State → State
  | [], s => s
  | l :: ls, s =>
    let r := s.freeBytes 128
    forgetLines ls { r.2 with mem := r.2.mem.setCells (128 * l) r.1 }

/-- The package after a loss of all it holds; free values go on being fresh, and what has left the package has left it. -/
def State.cleared (s : State) (m : Mgmt) : State :=
  let t := forgetLines s.mem.dirtyHome s
  { State.reset with
    sched := { agenda := t.sched.agenda, fresh := t.sched.fresh }
    mem := { cells := outsideCells t.mem }
    fabric := { sent := s.fabric.sent }
    mgmt := m }

/-- RESET (R416): every register at its reset value, every HBM sector fresh. -/
def execReset (s : State) : Out := .next (s.cleared {})

/-- THERMAL_SHUTDOWN (R408): at 115 °C or more power is removed. -/
def execThermalShutdown (_sensor deg : Nat) (s : State) : Out :=
  if 115 ≤ deg then
    let t := s.cleared { powered := false }
    .next { t with sched := { fresh := t.sched.fresh } }
  else .next s

/-- The last four samples are above the limit. -/
def powerHigh (m : Mgmt) : Bool := decide (4 ≤ m.history.length) && (m.history.take 4).all (fun x => decide (m.limit * 1000 < x))

/-- The last sixteen are at or below 95 % of it, rounded down. -/
def powerLow (m : Mgmt) : Bool := decide (16 ≤ m.history.length) && m.history.all (fun x => decide (x ≤ m.limit * 95 / 100 * 1000))

/-- The alarm follows the samples; each change signals vector 65 (R407). -/
def settleAlarm (s : State) : State :=
  if !s.mgmt.alarm && powerHigh s.mgmt then signal (s.modMgmt (fun m => { m with alarm := true })) 65
  else if s.mgmt.alarm && powerLow s.mgmt then signal (s.modMgmt (fun m => { m with alarm := false })) 65
  else s

/-- POWER_SAMPLE (R407). -/
def execPowerSample (milliwatts : Nat) (s : State) : Out :=
  .next (settleAlarm (s.modMgmt (fun m => { m with
    estimate := milliwatts / 1000 % 65536, samples := (m.samples + 1) % 65536, history := (milliwatts :: m.history).take 16 })))

/-! ### Measured boot and the signed log -/

/-- Stages of the boot (R412). -/
def bootStages : Nat := 15

/-- The running digest D. -/
def runningDigest (m : Mgmt) : List Byte := if m.digest.isEmpty then List.replicate 32 0#8 else m.digest

/-- BOOT_STAGE_LOAD (R412): the next stage in order is measured, and D extended. -/
def execBootStageLoad (stage version : Nat) (image : List Nat) (s : State) : Out :=
  if stage = s.mgmt.boot.length && stage < bootStages then
    let h := sha3 (image.map (BitVec.ofNat 8))
    .next (s.modMgmt (fun m => { m with
      boot := m.boot ++ [{ stage := stage, version := version % 2 ^ 32, digest := h }]
      digest := sha3 (runningDigest m ++ h) }))
  else .next s

/-- A measurement block of a log entry. -/
def BootEntry.block (e : BootEntry) : List Byte := toBytes e.stage 1 ++ toBytes e.version 4 ++ e.digest

/-- Transport of a path: 0 the ports' DOE, 1 the management's MCTP, 2 that of peers, who address the pod identifier (R413). -/
def transportOf (path : Nat) : Nat := path % 3

/-- A request over a path reaches the port die. -/
def reaches (s : State) (path : Nat) : Bool := transportOf path != 2 || s.fabric.podId.isSome

/-- An extended algorithm of a requester's list: registry identifier and algorithm identifier (log 11). -/
def mlDsa : Nat := 3 + 0x4B44 * 65536

/-- SHA3-256 in a requester's list: above the extended algorithms, the bit that SPDM 1.2 gives the hash (log 11). -/
def sha3Hash : Nat := 2 ^ 40 + 8

/-- NEGOTIATE_ALGORITHMS (R413): ML-DSA-44 and SHA3-256, or an error; what one requester offers says nothing of another. -/
def execNegotiateAlgorithms (path : Nat) (offers : List Nat) (s : State) : Out :=
  if !reaches s path then .next s
  else if mlDsa ∈ offers && sha3Hash ∈ offers then
    .next ((s.modMgmt (fun m => { m with agreed := Sparse.insert m.agreed path offers })).send (.algorithms path mlDsa sha3Hash))
  else
    .next ((s.modMgmt (fun m => { m with agreed := Sparse.erase m.agreed path })).send (.spdmError path))

/-- GET_MEASUREMENTS (R413): one block per entry, a final block with D, and the signature of the message that SPDM forms of them and the
nonce. -/
def execGetMeasurements (path nonce : Nat) (s : State) : Out :=
  if !reaches s path then .next s
  else if Sparse.has s.mgmt.agreed path then
    let blocks := s.mgmt.boot.map BootEntry.block ++ [runningDigest s.mgmt]
    let n := blocks.length
    let s1 := ((rangeFrom 0 n).zip blocks).foldl (fun s p => s.send (.measurement path p.1 p.2)) s
    .next (s1.send (.signed path (Config.signature s.mgmt.identity.secretKey (Config.spdmMessage (Sparse.get [] s.mgmt.agreed path) nonce blocks))))
  else .next (s.send (.spdmError path))

/-- SECURE_SESSION (R414): mutual authentication, and a chain to the anchor provisioned in the management controller's firmware. It is that of
the requester at hand alone. -/
def execSecureSession (chainsToAnchor bothAuth : Bool) (s : State) : Out :=
  if chainsToAnchor && bothAuth && s.runsStage 1 then
    .next (s.modMgmt (fun m => { m with sessions := m.asking :: m.sessions.filter (fun p => p != m.asking) }))
  else .next s

/-- Turn `.askingFrom`: a requester's turn to send management requests. -/
def askFrom (s : State) (path : Nat) : State := s.modMgmt (fun m => { m with asking := path })

/-- Turn `.sessionEnd`: the secure session of a path ends (R414). -/
def endSession (s : State) (path : Nat) : State := s.modMgmt (fun m => { m with sessions := m.sessions.filter (fun p => p != path) })

/-! ### Items set through management (R392, R414) -/

/-- The management controller takes the request at hand: it comes by the management's MCTP, from a requester that holds a session. -/
def Mgmt.admits (m : Mgmt) : Bool := transportOf m.asking = 1 && decide (m.asking ∈ m.sessions)

/-- A request over any other path, or without a session, is refused, and nothing changes; before the controller's firmware runs nobody
answers (R412). -/
def managed (s : State) (go : State → State) : Out :=
  if !s.runsStage 1 then .next s else if s.mgmt.admits then .next (go s) else .next (s.send .refusedRequest)

/-- SET_POD_IDENTIFIER (R357). -/
def execSetPodIdentifier (id : Nat) (s : State) : Out :=
  managed s (fun s => if id < 1024 then s.modFabric (fun f => { f with podId := some id }) else s)

/-- SET_EXPORT_SEGMENT (R361). -/
def execSetExportSegment (idx entry : Nat) (s : State) : Out :=
  managed s (fun s => if idx < 64 then s.modFabric (fun f => { f with exports := Sparse.set 0 f.exports idx (entry % 2 ^ 64) }) else s)

/-- A part's page is under the key slot `key`. -/
def partUnder (s : State) (o : Op) (key k : Nat) : Bool :=
  match peekLeaf s o.core (asidOfGrp s o.grp) (o.at_ k) with
  | some t => pteKey t.entry = key
  | none => false

/-- An access under a key slot, numbered below `upto`, is in flight (R255). One that waits behind an older access has not arrived. -/
def keyInFlight (s : State) (key upto : Nat) : Bool :=
  s.mem.fwd.any (fun st => keySlot st.key = key && decide (st.seq < upto)) ||
    s.mem.gaPend.any (fun st => keySlot st.key = key && decide (st.seq < upto)) ||
    s.ops.any (fun (p : Nat × Op) => p.1 < upto && p.2.isGlobal && !p.2.held && p.2.result.isNone &&
      (if p.2.left.isEmpty then p.2.parts.any (partUnder s p.2 key)
      else p.2.left.any (fun k => partUnder s p.2 key k && !olderPart s p.1 k)))

/-- A key slot holds its new content, and whatever was cached under it is gone, its stores being at the home (R255). -/
def loadKeySlot (slot : Nat) (key : Option Nat) (s : State) : State :=
  let other := fun (w : CodeWord) => keySlot w.key != slot + 1
  let s1 : State := { s with barges := s.barges.map (fun (p : Nat × Barge) => (p.1, { p.2 with code := p.2.code.filter other })) }
  (s1.modMem (fun m => { m with copies := m.copies.filter (fun (p : Nat × Copy) => keySlot p.2.key != slot + 1) })).modXlat (fun x => { x with
    code := x.code.filter other
    loads := Sparse.erase x.loads slot
    keys := Sparse.set 0 x.keys slot (match key with
      | some k => k % 2 ^ 256 + 1
      | none => 0) })

/-- KEY_SLOT_LOAD (R253, R255): a key, or none to empty the slot. While accesses under the slot are in flight the load waits for them, and the
accesses that arrive meanwhile wait for it; the firmware's request stands until then. -/
def execKeySlotLoad (slot : Nat) (key : Option Nat) (s : State) : Out :=
  managed s (fun s =>
    if 64 ≤ slot then s
    else
      let upto := match Sparse.get 0 s.xlat.loads slot with
        | 0 => s.sched.nextId
        | n => n
      if keyInFlight s (slot + 1) upto then s.modXlat (fun x => { x with loads := Sparse.set 0 x.loads slot upto })
      else loadKeySlot slot key s)

/-- IDE_KEY_LOAD (R384): port 0 is the host's. -/
def execIdeKeyLoad (port key : Nat) (s : State) : Out :=
  managed s (fun s => if port < 3 then s.modHost (fun h => { h with ideKeys := Sparse.set 0 h.ideKeys port (key % 2 ^ 256 + 1) }) else s)

/-- STATION_KEY_LOAD (R359): direction 0 sends, 1 receives; the count of a new sending key starts at 0. -/
def execStationKeyLoad (station dir key : Nat) (s : State) : Out :=
  managed s (fun s =>
    if stationCount ≤ station || 2 ≤ dir then s
    else s.modStation station (fun x => if dir = 0 then { x with tx := key % 2 ^ 256 + 1, count := 0 } else { x with rx := key % 2 ^ 256 + 1 }))

/-- SET_HDM_KEY (R394). -/
def execSetHdmKey (slot : Option Nat) (s : State) : Out :=
  managed s (fun s => match slot with
    | none => s.modHost (fun h => { h with hdmKey := 0 })
    | some k => if k < 64 then s.modHost (fun h => { h with hdmKey := k + 1 }) else s)

/-- A memory port. -/
def memoryPort (port : Nat) : Bool := port = 1 || port = 2

/-- SET_SPACE3_WINDOW (R396): base and limit in units of 256 MiB. -/
def execSetSpace3Window (port base limit : Nat) (s : State) : Out :=
  managed s (fun s =>
    if memoryPort port then s.modHost (fun h => { h with windows := Sparse.set (0, 0) h.windows port (base, limit) }) else s)

/-- SET_PRIVILEGE_MASK (R393). -/
def execSetPrivilegeMask (mask : Nat) (s : State) : Out := managed s (fun s => s.modMgmt (fun m => { m with privMask := mask % 2 ^ 64 }))

/-- Cores of the package. -/
def coreCount : Nat := 2048

/-- The reading of a core's sensor against its threshold (R41). -/
def Core.heat (c : Core) : Core :=
  match c.reading with
  | none => c
  | some d => { c with tooHot := if c.hot ≤ d then true else if d + 6 ≤ c.hot then false else c.tooHot }

/-- SET_HOT_THRESHOLD (R41). -/
def execSetHotThreshold (core deg : Nat) (s : State) : Out :=
  managed s (fun s => if core < coreCount && 60 ≤ deg && deg ≤ 105 then s.modCore core (fun c => { c with hot := deg }.heat) else s)

/-- SET_RESERVE_MARKS (R44). -/
def execSetReserveMarks (die high low : Nat) (s : State) : Out :=
  managed s (fun s => if die < 16 then s.modDie die (fun d => { d with high := high, low := low }) else s)

/-- SET_RETIREMENT_THRESHOLD (R409): one per kind of unit, numbered as its table lists them. -/
def execSetRetirementThreshold (kind n : Nat) (s : State) : Out :=
  managed s (fun s => if kind < 7 then s.modMgmt (fun m => { m with thresholds := Sparse.set 0 m.thresholds kind n }) else s)

/-- Number of a unit of a kind: kinds as R409's table lists them; units of kind 0 cores, 1 slices 512·die + slice, 2 and 3 rows and banks
12·number + stack, 4 dies, 5 stations, 6 ports. -/
def unitKey (kind unit : Nat) : Nat := 7 * unit + kind

/-- Turn `.unitError`: an error of a unit is counted (R409). -/
def countError (s : State) (kind unit : Nat) : State :=
  if kind < 7 then s.modMgmt (fun m => { m with errors := Sparse.set 0 m.errors (unitKey kind unit) (Sparse.get 0 m.errors (unitKey kind unit) + 1) }) else s

/-- Turn `.unitFailure`: an uncorrectable failure strikes a unit (R409). -/
def strikeUnit (s : State) (kind unit : Nat) : State :=
  if kind < 7 then s.modMgmt (fun m => { m with struck := unitKey kind unit :: m.struck.filter (fun k => k != unitKey kind unit) }) else s

/-- The error count of a unit has passed the threshold of its kind (R409). -/
def Mgmt.past (m : Mgmt) (kind unit : Nat) : Bool := decide (Sparse.get 0 m.thresholds kind < Sparse.get 0 m.errors (unitKey kind unit))

/-- An uncorrectable failure has struck a unit (R409). -/
def Mgmt.hit (m : Mgmt) (kind unit : Nat) : Bool := decide (unitKey kind unit ∈ m.struck)

/-- A unit is to be retired (R409). -/
def Mgmt.retires (m : Mgmt) (kind unit : Nat) : Bool := m.past kind unit || m.hit kind unit

/-- A unit has been retired; what takes its place, or what a link has left, counts its errors from 0 (log 86). -/
def unitRetired (s : State) (kind unit : Nat) : State :=
  s.modMgmt (fun m => { m with errors := Sparse.set 0 m.errors (unitKey kind unit) 0, struck := m.struck.filter (fun k => k != unitKey kind unit) })

/-- SET_POWER_LIMIT (R407). -/
def execSetPowerLimit (watts : Nat) (s : State) : Out :=
  managed s (fun s =>
    if 3000 ≤ watts && watts ≤ 6400 then settleAlarm (s.modMgmt (fun m => { m with limit := watts })) else s)

/-- DYNAMIC_CAPACITY_EXTENT (R384): firmware adds or releases it. -/
def execDynamicCapacityExtent (port : Nat) (add : Bool) (base len : Nat) (s : State) : Out :=
  if !memoryPort port then .next s
  else
    let e := (port, base, len)
    .next (s.modHost (fun h => { h with extents := if add then e :: h.extents.filter (fun x => x != e) else h.extents.filter (fun x => x != e) }))

/-! ### Temperature, droop, reserve, training -/

/-- CORE_TEMPERATURE_READING (R41). -/
def execCoreTemperatureReading (core deg : Nat) (s : State) : Out :=
  if core < coreCount then .next (s.modCore core (fun c => { c with reading := some deg }.heat)) else .next s

/-- Cycles over which droop events count (R42). -/
def droopSpan : Nat := 65536

/-- DROOP_EVENT (R42): more than four in the span make the core ineligible. -/
def execDroopEvent (core : Nat) (s : State) : Out :=
  if core < coreCount then
    let now := s.cycle core
    .next (s.modCore core (fun c =>
      let ds := now :: c.droops.filter (fun d => now < d + droopSpan)
      { c with droops := ds, lastDroop := now, drooping := c.drooping || decide (4 < ds.length) }))
  else .next s

/-- DROOP_QUIET (R42). -/
def execDroopQuiet (core : Nat) (s : State) : Out :=
  if (s.core core).drooping && (s.core core).lastDroop + droopSpan ≤ s.cycle core then
    .next (s.modCore core (fun c => { c with drooping := false, droops := [] }))
  else .next s

/-- The gang that is being placed, the first to have become one: reserve sizes are frozen meanwhile (R55). -/
def gangPlacing (s : State) : Option Nat := s.work.gangs.find? (fun k => (s.launch k).gang && (s.launch k).outcome.isNone)

/-- A launch is to be placed as a gang (R55, R56). -/
def beginGang (s : State) (k : Nat) : State :=
  (s.modLaunch k (fun l => { l with gang := true })).modWork (fun w => { w with gangs := w.gangs.filter (fun j => j != k) ++ [k] })

/-- Distributor cycles of a run (R44). -/
def markRun : Nat := 4096

/-- RESERVE_GROW (R44): a run above the high mark is used up. -/
def execReserveGrow (die : Nat) (s : State) : Out :=
  if markRun ≤ (s.die die).above then
    .next (s.modDie die (fun d => { d with
      above := d.above - markRun, reserve := if (gangPlacing s).isNone && d.reserve < 8 then d.reserve + 1 else d.reserve }))
  else .next s

/-- RESERVE_SHRINK (R44). -/
def execReserveShrink (die : Nat) (s : State) : Out :=
  if markRun ≤ (s.die die).below then
    .next (s.modDie die (fun d => { d with
      below := d.below - markRun, reserve := if (gangPlacing s).isNone then d.reserve - 1 else d.reserve }))
  else .next s

/-- Lanes that a port has left, of the 16 it has (R384, R409). -/
def portLanes (s : State) (port : Nat) : Nat := Sparse.get 16 s.host.width port

/-- PORT_LINK_TRAINING (R384): with CXL at 64 GT/s; without, the host port alone, at up to 128; over the lanes that are left. -/
def execPortLinkTraining (port : Nat) (cxl : Bool) (rate width : Nat) (s : State) : Out :=
  if 3 ≤ port || width != portLanes s port || (cxl && rate != 64) || (!cxl && (port != 0 || 128 < rate)) then .next s
  else
    .next (s.modHost (fun h => { h with
      noCxl := if cxl then h.noCxl.filter (fun p => p != port) else port :: h.noCxl.filter (fun p => p != port)
      rate := Sparse.set 0 h.rate port rate }))

end Sys2Proof.Machine
end

