-- ==== Sys2Proof/Machine/HostPort.lean ====
section
/-! DEFINITION. The host port: BAR0 (R385 to R391, R398, R406), queue commands (R389, R390), host accesses to device memory (R394, R395, R398),
and coherence with host and pooled memory (R396). -/

namespace Sys2Proof.Machine

open Sys2Proof

/-! ### What BAR0 reads -/

/-- Die slots at which `f` holds, as a mask. -/
def dieMask (f : Nat → Bool) : Nat := (rangeFrom 0 16).foldl (fun x n => if f n then x + 2 ^ n else x) 0

/-- A package-wide core number, retired. -/
def coreRetired (s : State) (c : Nat) : Bool := (s.core c).retired

/-- A slice, numbered 512·slot + i, retired. -/
def sliceRetired (s : State) (i : Nat) : Bool := decide (i % 512 ∈ (s.slice (i / 512)).retired)

/-- 64 bits from bit `lo` of a map. -/
def bitsFrom (f : Nat → Bool) (lo : Nat) : Nat := (rangeFrom 0 64).foldl (fun x i => if f (lo + i) then x + 2 ^ i else x) 0

/-- Doublewords of the device status area (R406). -/
def statusWord (s : State) (off : Nat) : Nat :=
  if off = 0 then
    bit s.mgmt.replace * 2 ^ 63 + bit s.mgmt.alarm * 2 ^ 62 + (s.cores.filter (fun p => p.2.retired)).length * 2 ^ 48 +
      (s.xlat.slices.map (fun p => p.2.retired.length)).sum * 2 ^ 34 + s.mgmt.rows % 2 ^ 32
  else if off = 8 then
    s.mgmt.banks % 4096 * 2 ^ 36 + dieMask (fun n => (s.die n).rerouted) * 2 ^ 16 + dieMask (fun n => (s.die n).offline)
  else if off = 0x10 then s.mgmt.estimate * 2 ^ 32 + s.mgmt.limit * 2 ^ 16 + s.mgmt.samples
  else if off = 0x18 then (workingStations s).foldl (fun x n => x + 2 ^ n) 0
  else if 0x100 ≤ off && off < 0x200 then bitsFrom (coreRetired s) (8 * (off - 0x100))
  else if 0x200 ≤ off && off < 0x600 then bitsFrom (sliceRetired s) (8 * (off - 0x200))
  else 0

/-- A doubleword of BAR0 (R385, R387, R391, R386, R397). -/
def barWord (s : State) (off : Nat) : Nat :=
  if off < 0x1000 then statusWord s off
  else if 0x10000 ≤ off && off < 0x11000 then Sparse.get 0 s.host.queue ((off - 0x10000) / 8)
  else if 0x20000 ≤ off && off < 0x20100 then Sparse.get 0 s.host.mailbox ((off - 0x20000) / 8)
  else if 0x80000 ≤ off && off < 0x88000 then Sparse.get 0 s.xlat.roots ((off - 0x80000) / 8)
  else if 0x200000 ≤ off && off < 0xF80000 then bitsFrom (fun g => Sparse.get false s.host.bias g) (8 * (off - 0x200000))
  else 0

/-- BAR0 takes the access: 4 or 8 bytes, aligned (R385). -/
def barOk (off size : Nat) : Bool := (size = 4 || size = 8) && off % size = 0 && decide (off + size ≤ 2 ^ 24)

/-- A BAR0 read; none completes with Unsupported Request. -/
def barRead (s : State) (off size : Nat) : Option Nat :=
  if barOk off size then some (bits (barWord s (off / 8 * 8)) (8 * (off % 8)) (8 * size)) else none

/-! ### Queues -/

/-- Fields of a queue block that hold a value (R387). -/
def queueKeep (k : Nat) : Nat :=
  match k with
  | 0 => 2 ^ 63 + 4095 * 2 ^ 44 + 255 * 2 ^ 32
  | 1 => 2 ^ 57 - 64
  | 2 => 2 ^ 57 - 64
  | _ => 2 ^ 32 - 1

def queueEnabled (s : State) (q : Nat) : Bool := bitOf (s.queueReg q 0) 63

def queueAsid (s : State) (q : Nat) : Nat := bits (s.queueReg q 0) 44 12

def queuePrio (s : State) (q : Nat) : Nat := bits (s.queueReg q 0) 37 3

def queueRinglog (s : State) (q : Nat) : Nat := bits (s.queueReg q 0) 32 5

def queueTail (s : State) (q : Nat) : Nat := s.queueReg q 3

def queueHead (s : State) (q : Nat) : Nat := s.queueReg q 4

/-- A queue error (R388): enable clears, the code and the failing address are recorded, the vector is signalled (R385). -/
def queueError (s : State) (q code va : Nat) : State :=
  let s1 := s.setQueueReg q 0 (bits (s.queueReg q 0) 0 63)
  signal ((s1.setQueueReg q 6 (code * 2 ^ 56)).setQueueReg q 7 (va % 2 ^ 57)) q

/-- A write to QCFG (R387). -/
def writeQcfg (s : State) (q x : Nat) : State :=
  let old := s.queueReg q 0
  let on := bitOf x 63
  if bitOf old 63 then s.setQueueReg q 0 (setBits (setBits old 37 3 (bits x 37 3)) 63 1 (bit on))
  else
    let s1 := s.setQueueReg q 0 (x &&& queueKeep 0)
    if !on then s1
    else
      let s2 := ((s1.setQueueReg q 4 (queueTail s q)).setQueueReg q 6 0).setQueueReg q 7 0
      if 4 ≤ queueRinglog s2 q && queueRinglog s2 q ≤ 16 then s2 else queueError s2 q 4 0

/-- A write that covers the tail (R388). -/
def writeTail (s : State) (q x : Nat) : State :=
  let s1 := s.setQueueReg q 3 (x % 2 ^ 32)
  if queueEnabled s1 q && 2 ^ queueRinglog s1 q < (queueTail s1 q + 2 ^ 32 - queueHead s1 q) % 2 ^ 32 then queueError s1 q 3 0 else s1

/-! ### Queue commands (R389, R390) -/

/-- The launch of a queue with an identifier: the later of two (R35). -/
def launchNamed (s : State) (q launchid : Nat) : Option Nat :=
  (Sparse.get [] s.work.order q).reverse.find? (fun k => (s.launch k).launchid = launchid)

/-- A command ends at once. -/
def quickEnd (s : State) (q op launchid code : Nat) : State :=
  signal (s.setQueueReg q 5 (op * 2 ^ 56 + code * 2 ^ 48 + launchid)) q

/-- A command begins, and is in progress on a launch. -/
def beginCommand (s : State) (q op launchid k : Nat) : State :=
  (s.setQueueReg q 5 (op * 2 ^ 56 + 2 ^ 48 + launchid)).modHost (fun h => { h with acting := Sparse.set 0 h.acting q k })

/-- Every team of a launch has exited: its outcome is fixed. -/
def allExited (s : State) (l : Launch) (k : Nat) : Bool :=
  l.next = l.clusters && (teamsOfLaunch s k).all (fun t => (s.team t).exited) &&
    s.work.clusters.all (fun (p : Nat × Cluster) => !(p.2.launch = k && p.2.saved))

/-- Pre-empt (R320, R389): no further cluster is dispatched, and the resident ones stop. -/
def preemptLaunch (s : State) (q launchid k : Nat) : State :=
  let l := s.launch k
  if l.stage = .preempted || l.halting || l.cancelled || l.outcome.isSome then quickEnd s q 1 launchid 2
  else
    settlePreempt ((beginCommand s q 1 launchid k).modLaunch k (fun l => { l with halting := true, gang := false })) k

/-- Resume (R40, R55). -/
def resumeLaunch (s : State) (q launchid k : Nat) : State :=
  let l := s.launch k
  if l.stage = .preempted then
    let s1 := s.modLaunch k (fun l => { l with stage := if l.begun then .running else .queued })
    quickEnd (if l.gridsync && l.begun then beginGang s1 k else s1) q 2 launchid 0
  else quickEnd s q 2 launchid 2

/-- Cancel: it does not change an outcome already fixed. -/
def cancelLaunch (s : State) (q launchid k : Nat) : State :=
  let l := s.launch k
  let s1 := beginCommand s q 3 launchid k
  let s2 := if l.outcome.isNone && l.begun && allExited s l k then s1.modLaunch k (fun l => { l with outcome := some (0, 0, 0) }) else s1
  stopLaunch s2 k 5 0 0

/-- A QCMD write that triggers, with the register's whole contents; before the hub's firmware runs nobody takes it (R412). -/
def command (s : State) (q x : Nat) : State :=
  let op := bits x 56 8
  let id := x % 2 ^ 32
  if !s.runsStage 2 then s
  else if op = 0 || 4 ≤ op then quickEnd s q op id 3
  else
    match launchNamed s q id with
    | none => quickEnd s q op id 2
    | some k =>
      match op with
      | 1 => preemptLaunch s q id k
      | 2 => resumeLaunch s q id k
      | _ => cancelLaunch s q id k

/-- A write to QCMD; `high` says that it covers the operation. -/
def writeQcmd (s : State) (q x : Nat) (high : Bool) : State :=
  let old := s.queueReg q 5
  if bits old 48 8 = 1 then s
  else if high then command s q x
  else s.setQueueReg q 5 (setBits old 0 32 x)

/-- A write to doubleword `k` of a queue block; `lo` and `hi` say which halves it covers. -/
def writeQueue (s : State) (q k x : Nat) (lo hi : Bool) : State :=
  match k with
  | 0 => if hi then writeQcfg s q x else s
  | 1 => if queueEnabled s q then s else s.setQueueReg q 1 (x &&& queueKeep 1)
  | 2 => if queueEnabled s q then s else s.setQueueReg q 2 (x &&& queueKeep 2)
  | 3 => if lo then writeTail s q x else s
  | 5 => writeQcmd s q x hi
  | _ => s

/-! ### The debug mailbox (R391) -/

def State.mail (s : State) (off : Nat) : Nat := Sparse.get 0 s.host.mailbox (off / 8)

def State.setMail (s : State) (off x : Nat) : State := s.modHost (fun h => { h with mailbox := Sparse.set 0 h.mailbox (off / 8) x })

/-- Fields of the mailbox that the host writes. -/
def mailKeep (off : Nat) : Nat :=
  if off = 0 then 255 * 2 ^ 56 + 63 * 2 ^ 50 + (2 ^ 32 - 1)
  else if off = 8 then 31 * 2 ^ 32 + (2 ^ 28 - 1)
  else if off = 0x10 then 3 * 2 ^ 60 + 2 ^ 59 + (2 ^ 57 - 1)
  else if 0x80 ≤ off && off < 0x100 then 2 ^ 64 - 1
  else 0

/-- Command in the mailbox, if one has been started. -/
def mailCode (s : State) : Nat := if bitOf (s.mail 0x18) 0 then bits (s.mail 0) 56 8 else 0

/-- A command finishes: go clears, the status stands, vector 64 is signalled. -/
def mailEnd (s : State) (status : Nat) (pending poison : Bool) : State :=
  signal (s.setMail 0x18 (status % 256 * 2 ^ 8 + bit poison * 4 + bit pending * 2)) 64

/-- A write to the mailbox; a code that is no command ends with a free status (log 30). -/
def writeMail (s : State) (off x : Nat) (lo : Bool) : State :=
  if bitOf (s.mail 0x18) 0 then s
  else if off = 0x18 then
    if lo && bitOf x 0 then
      let s1 := s.setMail 0x18 (setBits (s.mail 0x18) 0 1 1)
      let code := bits (s.mail 0) 56 8
      if 1 ≤ code && code ≤ 9 then s1 else mailEnd s1.took s.freeByte.toNat false false
    else s
  else s.setMail off (x &&& mailKeep off)

/-! ### BAR0 writes -/

/-- Fields of an ASID root entry (R386). -/
def rootKeep : Nat := 2 ^ 63 + 127 * 2 ^ 56 + (2 ^ 52 - 2 ^ 17)

/-- A BAR0 write (R385): a 4-byte write leaves the other half as it stood. -/
def barWrite (s : State) (off size val : Nat) : State :=
  if !barOk off size then s.send (.unsupported off)
  else
    let o := off / 8 * 8
    let x := setBits (barWord s o) (8 * (off % 8)) (8 * size) val
    let lo := off % 8 = 0
    let hi := size = 8 || off % 8 = 4
    if 0x10000 ≤ o && o < 0x11000 then writeQueue s ((o - 0x10000) / 64) (o % 64 / 8) x lo hi
    else if 0x20000 ≤ o && o < 0x20100 then writeMail s (o - 0x20000) x lo
    else if 0x80000 ≤ o && o < 0x88000 then
      s.modXlat (fun t => { t with roots := Sparse.set 0 t.roots ((o - 0x80000) / 8) (x &&& rootKeep) })
    else s

/-- Address of a half or whole of a queue register. -/
def queueOff (q k size : Nat) (high : Bool) : Nat := 0x10000 + 64 * q + 8 * k + (if high && size = 4 then 4 else 0)

/-- QUEUE_ENABLE (R387): a write that sets enable. -/
def execQueueEnable (q size val : Nat) (s : State) : Out :=
  let on := if size = 4 then bitOf val 31 else bitOf val 63
  if 64 ≤ q || queueEnabled s q || !on then .next s else .next (barWrite s (queueOff q 0 size true) size val)

/-- QUEUE_DISABLE (R387). -/
def execQueueDisable (q size val : Nat) (s : State) : Out :=
  let on := if size = 4 then bitOf val 31 else bitOf val 63
  if 64 ≤ q || !queueEnabled s q || on then .next s else .next (barWrite s (queueOff q 0 size true) size val)

/-- QTAIL_WRITE (R388). -/
def execQtailWrite (q size val : Nat) (s : State) : Out :=
  if 64 ≤ q then .next s else .next (barWrite s (queueOff q 3 size false) size val)

/-- REGISTER_WRITE (R385, R386, R387, R391). -/
def execRegisterWrite (off size val : Nat) (s : State) : Out := .next (barWrite s off size val)

/-- A QCMD write of both halves. -/
def qcmd (q op launchid : Nat) (s : State) : Out :=
  if 64 ≤ q then .next s else .next (barWrite s (queueOff q 5 8 true) 8 (op % 256 * 2 ^ 56 + launchid % 2 ^ 32))

/-- PRE_EMPT (R389, R320). -/
def execPreEmpt (q launchid : Nat) (s : State) : Out := qcmd q 1 launchid s

/-- RESUME (R389). -/
def execResume (q launchid : Nat) (s : State) : Out := qcmd q 2 launchid s

/-- CANCEL (R389). -/
def execCancel (q launchid : Nat) (s : State) : Out := qcmd q 3 launchid s

/-- QCMD_INVALID_OP (R390). -/
def execQcmdInvalidOp (q op launchid : Nat) (s : State) : Out :=
  if 1 ≤ op % 256 && op % 256 ≤ 3 then .next s else qcmd q op launchid s

/-- UNCLAIMED_REQUEST (R395). -/
def execUnclaimedRequest (addr : Nat) (s : State) : Out := .next (s.send (.unsupported addr))

/-! ### Host accesses to device memory (R394, R395, R398) -/

/-- The stores on their way that are performed before a line's: its own, and before any of them a core's earlier ones, wherever they go
(R231), and the die's earlier ones to its line (R230). -/
def pulled (line : Nat) (l : List Store) : List Store :=
  l.foldr (fun st acc => if st.addr / 128 = line || acc.any (fun x =>
      (decide (st.agent < 2048) && x.agent = st.agent) || (x.die = st.die && x.addr / 128 = st.addr / 128)) then st :: acc else acc) []

/-- The invalidations of an agent's stores on their way reach their dies. -/
def landInvals (s : State) (agent : Nat) : State :=
  (s.mem.invals.filter (fun v => v.agent = agent)).foldl (fun s v => s.modMem (fun m => m.invalidate v.line v.die))
    (s.modMem (fun m => { m with invals := m.invals.filter (fun v => v.agent != agent) }))

/-- Stores performed at their homes one after the other, each once no copy holds an earlier value of its agent's stores before it. -/
def pullStores : List Store → State → State
  | [], s => s
  | st :: l, s => pullStores l (forward (landInvals s st.agent) st)

/-- The home recalls a line from the dies. -/
def recallLine (s : State) (line : Nat) : State := pullStores (pulled line s.mem.fwd) s

/-- What the host has read stands in its cache, unless it holds the line modified (R394, R398). -/
def keepHostCopy (s : State) (l data : Nat) : State :=
  if s.host.copies.any (fun c => c.1 = l && c.2.dirty) then s
  else s.modHost (fun h => { h with copies := Sparse.insert h.copies l { data := data, dirty := false } })

/-- A host read at the home: 64 bytes under the HDM key; a failure returns poison and all ones (R394, R395). -/
def hostRead (s : State) (off : Nat) : State :=
  let a := hdmAddr off
  let s1 := recallLine s (a / 128)
  if keyEmpty s1 s1.host.hdmKey then logFailure (s1.send (.hostData off (2 ^ 512 - 1) true))
  else
    match s1.readBytes none (s1.keyNum s1.host.hdmKey) a 64 with
    | .error _ => logFailure (s1.send (.hostData off (2 ^ 512 - 1) true))
    | .ok (bs, s2) => keepHostCopy (s2.send (.hostData off (ofBytes bs) false)) (a / 64) (ofBytes bs)

/-- Bytes of a host line written at the home; dies' copies are gone (R394, R398). -/
def hostWrite (s : State) (off data mask : Nat) : State :=
  let a := hdmAddr off
  let s1 := (recallLine s (a / 128)).modMem (fun m => m.invalidateAll (a / 128) 16)
  hostPut (s1.modMem (fun m => { m with invals := m.invals.filter (fun v => v.line != a / 128) })) a data mask

/-- A request of the host that goes on, if no `.ga` store holds its line pending (R394). -/
def hostServe (r : Request) (s : State) : Option State :=
  match r with
  | .part _ _ => none
  | .read off => if s.mem.gaAny (hdmAddr off / 128) then none else some (hostRead s off)
  | .write off data mask => if s.mem.gaAny (hdmAddr off / 128) then none else some ((hostWrite s off data mask).send (.hostCmp off))

/-- A request of the host arrives: where its granule flips it waits, behind those that wait already (R399, R400). -/
def hostRequest (s : State) (off : Nat) (r : Request) : State :=
  if !(hdmLine off && hostCxl s) then s
  else if biasWait s (hdmAddr off) then s.modHost (fun h => { h with waiting := h.waiting ++ [(granuleOf (hdmAddr off), r)] })
  else (hostServe r s).getD s

/-- HOST_HDM_READ (R394, R395). -/
def execHostHdmRead (off : Nat) (s : State) : Out := .next (hostRequest s off (.read off))

/-- HOST_HDM_WRITE (R394): it completes when it is performed; one that fails is dropped and completes. -/
def execHostHdmWrite (off data mask : Nat) (s : State) : Out := .next (hostRequest s off (.write off data mask))

/-- HOST_WRITE_BACK (R398): a line of host bias that the host's cache holds reaches the device; where its granule flips to device bias, this
is before the answer to the snoop (R400). -/
def execHostWriteBack (off data : Nat) (s : State) : Out :=
  let a := hdmAddr off
  if !(hdmLine off && hostCxl s && hostBias s a && Sparse.has s.host.copies (a / 64)) || s.mem.gaAny (a / 128) then .next s
  else .next ((hostWrite s off data (2 ^ 64 - 1)).modHost (fun h => { h with copies := Sparse.insert h.copies (a / 64) { data := data % 2 ^ 512, dirty := false } }))

/-- The host modifies 64 bytes of a granule in host bias, in its cache (R398): such as it holds, or takes in while nothing of the granule
waits. -/
def hostModify (s : State) (off data : Nat) : State :=
  let l := hdmAddr off / 64
  if hdmLine off && hostBias s (hdmAddr off) && (Sparse.has s.host.copies l || !biasWait s (hdmAddr off)) then
    s.modHost (fun h => { h with copies := Sparse.insert h.copies l { data := data % 2 ^ 512, dirty := true } })
  else s

/-- The host answers the k-th snoop of a line in device bias: it holds the line no more (R394, R402). -/
def hostReply (s : State) (k : Nat) : State :=
  match s.host.backInv[k]? with
  | none => s
  | some b => (dropHostCopy s b.1).modHost (fun h => { h with backInv := h.backInv.eraseIdx k })

/-- The first request whose granule no longer flips goes on (R399, R400); a part of an operation that is over waits no more. -/
def waitingTurn (s : State) : State :=
  match s.host.waiting.find? (fun w => s.host.flips.all (fun f => f.granule != w.1)) with
  | none => s
  | some (_, .part id k) => if s.hasOp id && decide (k ∈ (s.op id).left) then performPart s id k else leaveLine s (.part id k)
  | some w => match hostServe w.2 s with
    | none => s
    | some s1 => s1.modHost (fun h => { h with waiting := h.waiting.erase w })

/-! ### Pooled and host memory (R396) -/

/-- A line of space 3 or 4 leaves the package; `after` is what it holds when the home next fetches it. -/
def giveUp (s : State) (line : Nat) (after : Option Nat) : State :=
  (recallLine s line).modMem (fun m =>
    let m1 := m.invalidateAll line 16
    let m2 := { m1 with dirtyHome := m1.dirtyHome.filter (fun l => l != line), invals := m1.invals.filter (fun v => v.line != line) }
    match after with
    | some x => m2.setCells (128 * line) (toBytes x 128)
    | none => m2)

/-- BISNP_RECEIVED: a memory device takes a line of its window back. -/
def execBisnpReceived (port off : Nat) (after : Option Nat) (s : State) : Out :=
  let a := 3 * 2 ^ 48 + off
  let w := Sparse.get (0, 0) s.host.windows port
  if !(memoryPort port && decide (off < 2 ^ 48) && decide (w.1 * 2 ^ 28 ≤ off) && decide (off < w.2 * 2 ^ 28)) || s.mem.gaAny (a / 128) then .next s
  else .next ((giveUp s (a / 128) after).send (.biRspI a))

/-- The home holds a line of space 4 as a number says: 0 not at all, 1 shared, 2 owned (R396). -/
def holdLine (s : State) (line n : Nat) : State := s.modHost (fun h => { h with lines := Sparse.set 0 h.lines line n })

/-- The host changes 128 bytes of its own memory, of which the package holds no copy (R396); without CXL it keeps none (R384). -/
def hostMemory (s : State) (line data : Nat) : State :=
  if spaceOf (128 * line) = 4 && (!hostCxl s || Sparse.get 0 s.host.lines line = 0) then s.modMem (fun m => m.setCells (128 * line) (toBytes data 128)) else s

/-- A memory device answers for a sector of space 3 with poison from now on, until a write covers it whole (R396, R221). -/
def devicePoison (s : State) (sector : Nat) : State := if spaceOf (32 * sector) = 3 then s.modMem (fun m => m.setTag sector .bad) else s

/-- The bytes of a written HBM sector no longer match its check value (R221). -/
def badSector (s : State) (sector : Nat) : State :=
  match s.mem.tag sector with
  | .under _ => if isHbm (32 * sector) then s.modMem (fun m => m.setTag sector .wrong) else s
  | _ => s

/-- A store on its way to space 3 or 4 fails its check at port-die exit: it is not sent, and its die drops the bytes (R411). -/
def badExit (s : State) (k : Nat) : State :=
  match (s.mem.fwd ++ s.mem.gaPend)[k]? with
  | none => s
  | some st =>
    if spaceOf st.addr = 3 || spaceOf st.addr = 4 then
      failStore (s.modMem (fun m =>
        { m with fwd := m.fwd.filter (fun x => x != st), gaPend := m.gaPend.filter (fun x => x != st) }.invalidate (st.addr / 128) st.die)) st Cause.checkMismatch
    else s

/-- The host programs the HDM decoder registers, while it holds no HDM line and waits for none (R394, log 17). -/
def setDecoder (s : State) (value : Nat) : State := s.modHost (fun h => { h with decoder := value })

/-- HOST_SNOOP: a line of host memory, answered from the home's copy through CXL.cache; `inv` takes it away, else the home keeps it shared. -/
def execHostSnoop (addr : Nat) (inv : Bool) (after : Option Nat) (s : State) : Out :=
  let line := addr / 128
  if spaceOf addr ≠ 4 || !hostCxl s || s.mem.gaAny line then .next s
  else
    let s1 := recallLine s line
    match s1.readBytes none 0 (128 * line) 128 with
    | .error _ => .next s
    | .ok (bs, s2) =>
      let s3 := s2.send (.snoopAnswer (128 * line) (ofBytes bs))
      .next (if inv then holdLine (giveUp s3 line after) line 0
        else holdLine (s3.modMem (fun m => { m with dirtyHome := m.dirtyHome.filter (fun l => l != line) })) line (min 1 (Sparse.get 0 s.host.lines line)))

end Sys2Proof.Machine
end

