-- ==== Sys2Proof/Machine/Debug.lean ====
section
/-! DEFINITION. The debugger's commands (R323, R324), carried by the mailbox (R391). -/

namespace Sys2Proof.Machine

open Sys2Proof

/-- Status codes of R323. -/
def dbgDone : Nat := 0
def dbgBusy : Nat := 1
def dbgNotStopped : Nat := 2
def dbgNoName : Nat := 3
def dbgHandler : Nat := 4

/-- The team that the mailbox names, if it is resident. -/
def mailTeam (s : State) : Option Nat :=
  match launchNamed s (bits (s.mail 0) 50 6) (s.mail 0 % 2 ^ 32) with
  | none => none
  | some k =>
    let n := s.mail 8 % 2 ^ 28
    let t := k * 2 ^ 28 + n
    if (s.team t).resident && n < (s.launch k).clusters * (s.launch k).w * (s.launch k).h then some t else none

/-- The group that the mailbox names. -/
def mailGroup (s : State) (team : Nat) : Option Nat :=
  let g := bits (s.mail 8) 32 5
  if g < (s.launch (launchOfTeam team)).groups then some (32 * team + g) else none

/-- Live groups of a team. -/
def standing (s : State) (team : Nat) : List Nat := (groupsOf s team).filter (fun k => (s.group k).live != 0#32)

/-- The team is in debug stop. -/
def inDebugStop (s : State) (team : Nat) : Bool :=
  (s.team team).debug && !(s.team team).stepping && (standing s team).all (fun k => (s.group k).mode = .debugStop)

/-- A command that asks for a team in debug stop. -/
def onStopped (code : Nat) (s : State) (go : Nat → State) : Out :=
  if mailCode s ≠ code then .next s
  else
    match mailTeam s with
    | none => .next (mailEnd s dbgNoName false false)
    | some t =>
      if teamInHandler s t then .next (mailEnd s dbgHandler false false)
      else if !inDebugStop s t then .next (mailEnd s dbgNotStopped false false)
      else .next (go t)

/-- A group that a debugger's halt finds stopped or running goes to debug stop by the halt of R311. -/
def askDebug (s : State) (team : Nat) : State :=
  let busy := teamInHandler s team || (groupsOf s team).any (fun k => (s.group k).mode = .halted && !(s.team team).debug)
  if busy then s.modTeam team (fun t => { t with wantDebug := true })
  else broadcast (s.modTeam team (fun t => { t with debug := true })) team (32 * team + 32)

/-- HALT: done once the team stands in debug stop; while a handler runs it waits (R317). -/
def execHalt (s : State) : Out :=
  if mailCode s ≠ 1 then .next s
  else
    match mailTeam s with
    | none => .next (mailEnd s dbgNoName false false)
    | some t =>
      if inDebugStop s t then .next (mailEnd s dbgDone false false)
      else if (s.team t).debug || (s.team t).wantDebug then .next s
      else .next (askDebug s t)

/-- A group goes on from where it stands; queue reads that a halt had dropped before it turned to debug stop are issued again (R166). -/
def continueGroup (step : Bool) (s : State) (k : Nat) : State :=
  let reads := (s.group k).qread
  let s1 := s.modGroup k (fun g => { g with
    mode := .running, skipBreak := true, stepLeft := bit step, skidLeft := none, skid := 0, cause := {}, qread := [] })
  reads.foldl (reissueRead k) s1

/-- Groups of a stopped team go on from their counters. -/
def continueTeam (s : State) (team : Nat) (step : Bool) : State :=
  (standing s team).foldl (continueGroup step) (s.modTeam team (fun t => { t with debug := step, stepping := step, cause := 0, origin := 0 }))

/-- DEBUG_RESUME. -/
def execDebugResume (s : State) : Out := onStopped 2 s (fun t => mailEnd (continueTeam s t false) dbgDone false false)

/-- The operand name in the mailbox is a register of the group. -/
def mailReg (s : State) (grp : Nat) : Option Nat :=
  let n := bits (s.mail 0x10) 0 57
  let l := s.launch (launchOfGrp grp)
  let ok := n < (s.group grp).allot l.full || (1536 ≤ n && n < 1536 + l.scalars) || (1664 ≤ n && n < 1671)
  if ok then some n else none

/-- A command on a register of the group named. -/
def onRegister (code : Nat) (s : State) (go : Nat → Nat → State) : Out :=
  onStopped code s (fun t =>
    match mailGroup s t with
    | none => mailEnd s dbgNoName false false
    | some grp => match mailReg s grp with
      | none => mailEnd s dbgNoName false false
      | some n => go grp n)

/-- The register waits for an operation (R167). -/
def regPending (s : State) (grp n : Nat) : Bool := decide (n ∈ pendingRegs s grp)

/-- Value area of the mailbox, 32 words. -/
def State.setValues (s : State) (f : Nat → Nat) : State :=
  (rangeFrom 0 16).foldl (fun s j => s.setMail (0x80 + 8 * j) (f (2 * j) % 2 ^ 32 + f (2 * j + 1) % 2 ^ 32 * 2 ^ 32)) s

def State.mailValue (s : State) (i : Nat) : Nat := bits (s.mail (0x80 + i / 2 * 8)) (32 * (i % 2)) 32

/-- READ_REGISTER: a vector register lane by lane, another one at the foot. -/
def execReadRegister (s : State) : Out :=
  onRegister 3 s (fun grp n =>
    let g := s.group grp
    let s1 := if n < 1536 then s.setValues (fun i => g.readV n i)
      else if n < 1600 then s.setMail 0x80 (g.readS (n - 1536))
      else s.setMail 0x80 (g.pred (n - 1664)).toNat
    mailEnd s1 dbgDone (regPending s grp n) (Sparse.get 0 g.marks n != 0))

/-- A register is written whole from the value area, and its mark goes. -/
def pokeRegister (s : State) (grp n : Nat) : State :=
  s.modGroup grp (fun g =>
    let g1 := if n < 1536 then laneList.foldl (fun g i => g.putV n i (s.mailValue i)) g
      else if n < 1600 then g.putS (n - 1536) (s.mailValue 0)
      else g.putP (n - 1664) (BitVec.ofNat 32 (s.mailValue 0))
    g1.unmark n)

/-- WRITE_REGISTER: busy while the register is pending. -/
def execWriteRegister (s : State) : Out :=
  onRegister 4 s (fun grp n =>
    if regPending s grp n then mailEnd s dbgBusy false false else mailEnd (pokeRegister s grp n) dbgDone false false)

/-- FORCE_WRITE: written even if pending. -/
def execForceWrite (s : State) : Out := onRegister 5 s (fun grp n => mailEnd (pokeRegister s grp n) dbgDone false false)

/-- READ_SPECIAL: as `srd` by the group, into a scalar. -/
def execReadSpecial (s : State) : Out :=
  onStopped 6 s (fun t =>
    match mailGroup s t with
    | none => mailEnd s dbgNoName false false
    | some grp =>
      let n := bits (s.mail 0x10) 0 57
      match sregWidth n with
      | none => mailEnd s dbgNoName false false
      | some w => mailEnd (s.setMail 0x80 (special s grp n (low (s.group grp).live) % 2 ^ w)) dbgDone false false)

/-- DELIVER: each group will enter its handler as for cause 17 at its counter. -/
def execDeliver (s : State) : Out :=
  onStopped 7 s (fun t =>
    let gs := standing s t
    let s1 := gs.foldl (fun s k => s.modGroup k (fun g => { g with
      mode := .halted, entPreempt := false, entResume := false
      cause := { cause := Cause.breakpoint, lane := low g.live, causes := causeAll g.live Cause.breakpoint, present := g.live, self := true } })) s
    let s2 := gs.foldl dropReads s1
    let first := idxOf ((oldest s gs).getD (32 * t))
    mailEnd (s2.modTeam t (fun t => { t with debug := false, cause := Cause.breakpoint, origin := first })) dbgDone false false)

/-- SET_BREAKPOINT: one of four of a team. -/
def execSetBreakpoint (s : State) : Out :=
  onStopped 8 s (fun t =>
    let x := s.mail 0x10
    let v := if bitOf x 59 then bits x 0 57 + 1 else 0
    mailEnd (s.modTeam t (fun t => { t with breaks := Sparse.set 0 t.breaks (bits x 60 2) v })) dbgDone false false)

/-- STEP (R324): each group may issue one instruction; done once every group has, or is blocked, and stands in debug stop again. -/
def execStep (s : State) : Out :=
  match (if mailCode s = 9 then mailTeam s else none) with
  | some t =>
    if (s.team t).stepping then
      if (standing s t).all (fun k => (s.group k).mode = .debugStop) then
        .next (mailEnd (s.modTeam t (fun t => { t with stepping := false })) dbgDone false false)
      else .next s
    else onStopped 9 s (fun t => continueTeam s t true)
  | none => onStopped 9 s (fun t => continueTeam s t true)

end Sys2Proof.Machine
end

