-- ==== Sys2Proof/Machine/Work.lean ====
section
/-! DEFINITION. The command processor and the distributors: ring entries and launch records (R28 to R33, R388, R417), edges (R34, R35), dispatch
(R32, R37 to R40, R43, R45, R54, R55), release (R37, R260, R349) and completion (R36). -/

namespace Sys2Proof.Machine

open Sys2Proof

/-! ### Taking launches -/

/-- RING_ENTRY_READ (R388): the entry at head gives a launch record's address. The command processor is the hub's firmware (R412). -/
def execRingEntryRead (q : Nat) (s : State) : Out :=
  if !s.runsStage 2 || 64 ≤ q || !queueEnabled s q || queueHead s q = queueTail s q || Sparse.get 0 s.work.taking q != 0 then .next s
  else
    let va := s.queueReg q 1 + 8 * (queueHead s q % 2 ^ queueRinglog s q)
    match s.load (hubAgent (queueAsid s q) 0) va 8 with
    | .wait => .next s
    | .fail _ a => .next (queueError s q 1 a)
    | .ok bs s1 =>
      let s2 := s1.setQueueReg q 4 ((queueHead s q + 1) % 2 ^ 32)
      .next (s2.modWork (fun w => { w with taking := Sparse.set 0 w.taking q (bits (ofBytes bs) 6 51 * 64 + 1) }))

/-- The fields of a launch record (R28), doublewords `w`. -/
def Launch.ofRecord (w : Nat → Nat) (queue asid : Nat) : Launch :=
  { queue := queue, asid := asid, launchid := bits (w 7) 32 32, clusters := w 0 % 2 ^ 32, w := bits (w 0) 36 4, h := bits (w 0) 40 4
    gridsync := bitOf (w 0) 47, comm := bitOf (w 0) 46, entry := bits (w 1) 2 55 * 4, groups := bits (w 2) 52 6
    full := 32 * bits (w 2) 46 6, scalars := bits (w 2) 39 7, preds := bits (w 2) 32 7, lanepriv := bits (w 2) 24 8
    scratch := bits (w 3) 32 16, barges := bits (w 3) 29 3, diescratch := bits (w 3) 16 6, args := bits (w 4) 0 57
    done := bits (w 5) 4 53 * 16, edges := bits (w 6) 4 53 * 16, edgecnt := bits (w 6) 0 4 }

/-- Scratchpad units of a team (R188). -/
def Launch.units (l : Launch) : Nat := l.scratch + 2 * l.groups * l.lanepriv

/-- A record is refused with status 0x01 (R28, R29, R31). -/
def recordRefused (l : Launch) (version : Nat) : Bool :=
  version != 1 || l.h = 0 || 8 < l.h || l.w = 0 || 12 < l.w || 12 < l.w * l.h || l.clusters = 0 || 2 ^ 24 < l.clusters ||
    l.comm != (l.queue = 63 : Bool) || l.groups = 0 || 32 < l.groups || l.full = 0 || 1536 < l.full || 64 < l.scalars ||
    128 < l.lanepriv || 2048 < l.scratch || 4 < l.barges || 32 < l.diescratch ||
    524288 < l.scratch * 256 + l.groups * 32 * l.lanepriv * 16

/-- The producer that an edge names, as it stands (R35). -/
def bindEdge (s : State) (queue launchid : Nat) (regions : List (Nat × Nat)) : Edge :=
  match launchNamed s queue launchid with
  | some k => { producer := some k, regions := regions }
  | none =>
    match (Sparse.get [] s.work.recent queue).find? (fun r => r.1 = launchid) with
    | some r => { status := r.2, regions := regions }
    | none => { regions := regions }

/-- The entries of an edge table (R33); none where a region count is above 8. -/
def edgesOf (s : State) (bs : List Byte) : Nat → Option (List Edge)
  | 0 => some []
  | n + 1 =>
    let w := fun (off : Nat) => ofBytes ((bs.drop off).take 8)
    let regions := bits (w 0) 22 4
    if 8 < regions then none
    else
      let rs := (rangeFrom 0 regions).map (fun i => (bits (w (0x10 + 16 * i)) 0 57, bits (w (0x18 + 16 * i)) 0 40))
      match edgesOf s (bs.drop 144) n with
      | none => none
      | some es => some (bindEdge s (bits (w 0) 26 6) (bits (w 0) 32 32) rs :: es)

/-- A launch enters its queue. -/
def enterQueue (s : State) (l : Launch) : State :=
  let k := s.work.nextLaunch
  (s.setLaunch k l).modWork (fun w => { w with
    nextLaunch := k + 1
    order := Sparse.set [] w.order l.queue (Sparse.get [] w.order l.queue ++ [k])
    taking := Sparse.set 0 w.taking l.queue 0 })

/-- LAUNCH_TAKE (R417, steps 1 to 4). -/
def execLaunchTake (q : Nat) (s : State) : Out :=
  let at_ := Sparse.get 0 s.work.taking q
  let g := hubAgent (queueAsid s q) 0
  if !s.runsStage 2 || at_ = 0 then .next s
  else
    match s.load g (at_ - 1) 64 with
    | .wait => .next s
    | .fail _ a => .next ((queueError s q 5 a).modWork (fun w => { w with taking := Sparse.set 0 w.taking q 0 }))
    | .ok bs s1 =>
      let w := fun (i : Nat) => ofBytes ((bs.drop (8 * i)).take 8)
      let l := Launch.ofRecord w q (queueAsid s q)
      if recordRefused l (bits (w 0) 56 8) then .next (enterQueue s1 { l with outcome := some (1, 0, 0) })
      else if l.edgecnt = 0 then .next (enterQueue s1 l)
      else
        match s1.load g l.edges (144 * l.edgecnt) with
        | .wait => .next s
        | .fail _ _ => .next (enterQueue s1 { l with outcome := some (7, 0, 0) })
        | .ok es s2 =>
          match edgesOf s2 es l.edgecnt with
          | none => .next (enterQueue s2 { l with outcome := some (1, 0, 0) })
          | some table => .next (enterQueue s2 { l with edgeList := table })

/-! ### Edges -/

/-- Physical blocks of a region rounded outward to lines, as an address space translates them: address and bytes. A length of 0,
which R33 gives no meaning, names no byte: such a region covers at most the line that its rounding reaches (log 78, the model's choice). -/
def regionBlocks (s : State) (asid base len : Nat) : List (Nat × Nat) :=
  let lo := base / 128 * 128
  let hi := (base + len + 127) / 128 * 128
  (rangeFrom (lo / 4096) ((hi + 4095) / 4096 - lo / 4096)).filterMap (fun b =>
    let a := max lo (4096 * b)
    match peekPhys s 8192 asid a with
    | some p => if spaceOf p = 2 || spaceOf p = 5 then none else some (p, min hi (4096 * b + 4096) - a)
    | none => none)

/-- Lines that some die holds, or has a store on its way to. -/
def linesHeld (m : Memory) : List Nat :=
  (m.copies.map (fun (p : Nat × Copy) => p.1 / 16) ++ m.fwd.map (fun (st : Store) => st.addr / 128) ++ m.gaPend.map (fun (st : Store) => st.addr / 128)).eraseDups

/-- Those of them that lie in blocks. -/
def linesIn (m : Memory) (bs : List (Nat × Nat)) : List Nat :=
  (linesHeld m).filter (fun l => bs.any (fun b => meets (128 * l) 128 b.1 b.2))

/-- A line is cleaned to its home and gone from every die (R34, R223). -/
def flushLine (s : State) (line : Nat) : State :=
  (recallLine s line).modMem (fun m =>
    { m.invalidateAll line 16 with invals := (m.invalidateAll line 16).invals.filter (fun v => v.line != line) })

/-- Status of an edge's producer, once it has completed. -/
def edgeStatus (s : State) (e : Edge) : Option Nat :=
  match e.producer with
  | none => some e.status
  | some k => if (s.launch k).stage = .complete then some (((s.launch k).outcome.getD (0, 0, 0)).1) else none

/-- EDGE_SATISFY (R34): the regions of an edge whose producer has completed are cleaned and invalidated. -/
def execEdgeSatisfy (launch edge : Nat) (s : State) : Out :=
  let l := s.launch launch
  if l.stage = .complete || l.outcome.isSome || edge ∈ l.satisfied then .next s
  else
    match l.edgeList[edge]? with
    | none => .next s
    | some e =>
      match edgeStatus s e with
      | none => .next s
      | some st =>
        let done := fun (s : State) => s.modLaunch launch (fun l => { l with satisfied := edge :: l.satisfied, edgeBad := l.edgeBad || st != 0 })
        if st ≠ 0 then .next (done s)
        else
          let lines := linesIn s.mem (e.regions.flatMap (fun r => regionBlocks s l.asid r.1 r.2))
          if lines.any (fun x => s.mem.gaAny x) then .next s else .next (done (lines.foldl flushLine s))

/-! ### Dispatch -/

/-- Nothing of the launch is left to dispatch for the first time. -/
def Launch.passed (l : Launch) : Bool := l.next = l.clusters || l.outcome.isSome || l.stage = .complete

/-- The launch at the head of a queue (R32). -/
def headLaunch (s : State) (q : Nat) : Option Nat := (Sparse.get [] s.work.order q).find? (fun k => !(s.launch k).passed)

/-- Cores of a die's communication reserve (R43). -/
def reserveCores (s : State) (die : Nat) : List Nat :=
  let order := (rangeFrom 0 8).map (fun i => coreAt die 15 (7 - i)) ++ (rangeFrom 0 8).map (fun i => coreAt die 14 (7 - i))
  (order.filter (fun c => !coreRetired s c)).take (s.die die).reserve

/-- Cores of a rectangle, in the order of `team.idx` (R26). -/
def rectCores (die col row w h : Nat) : List Nat := (rangeFrom 0 (w * h)).map (fun t => coreAt die (col + t % w) (row + t / w))

/-- Teams of a launch that an empty core admits (R45). -/
def emptyAdmits (l : Launch) : Nat :=
  let per := fun (total need : Nat) => if need = 0 then 64 else total / need
  min (per 64 l.groups) (min (per 6144 (32 * l.groups + (l.full - 32))) (min (per 4096 (l.groups * l.scalars))
    (min (per 2048 l.units) (per 4 l.barges))))

/-- Rectangles of a die's tiling that hold no retired and no reserve core (R54): their top-left corners. -/
def tiles (s : State) (die : Nat) (l : Launch) : List (Nat × Nat) :=
  let corners := (rangeFrom 0 (16 / l.w)).flatMap (fun i => (rangeFrom 0 (8 / l.h)).map (fun j => (i * l.w, j * l.h)))
  corners.filter (fun p => (rectCores die p.1 p.2 l.w l.h).all (fun c => !coreRetired s c && !decide (c ∈ reserveCores s die)))

/-- Clusters of the launch that the package can hold at once (R54). -/
def gridRoom (s : State) (l : Launch) : Nat :=
  (((rangeFrom 0 16).filter (fun d => !(s.die d).offline)).map (fun d => (tiles s d l).length * emptyAdmits l)).sum

/-- The trap control block goes into the launch (R313, R393). -/
def Launch.withBlock (l : Launch) (w : Nat → Nat) (allowed : Bool) : Launch :=
  let x := w 3 % 64
  { l with handler := bits (w 0) 2 55 * 4, savebase := bits (w 1) 16 41 * 65536, slot := w 2 % 65536, priv := bitOf (w 3) 10 && allowed
           pmcore := bitOf (w 3) 9, debug := bitOf (w 3) 8
           wdog := if x = 0 then 0 else if x < 20 then 20 else if 40 < x then 40 else x, begun := true, stage := .running }

/-- DISPATCH_BEGIN (R417, steps 5 to 7). -/
def execDispatchBegin (q : Nat) (s : State) : Out :=
  match headLaunch s q with
  | none => .next s
  | some k =>
    let l := s.launch k
    let ends := fun (s : State) (st : Nat) => s.modLaunch k (fun l => { l with outcome := some (st, 0, 0) })
    if l.begun || l.stage != .queued || l.halting || l.satisfied.length < l.edgeList.length then .next s
    else if l.edgeBad then .next (ends s 3)
    else
      match s.load (hubAgent l.asid k) (s.queueReg q 2) 64 with
      | .wait => .next s
      | .fail _ _ => .next (ends s 7)
      | .ok bs s1 =>
        let w := fun (i : Nat) => ofBytes ((bs.drop (8 * i)).take 8)
        if w 2 % 65536 < 5 then .next (ends s1 7)
        else
          let s2 := s1.modLaunch k (fun l => l.withBlock w (bitOf s.mgmt.privMask q))
          if !l.gridsync then .next s2
          else if gridRoom s2 l < l.clusters then .next (ends s2 2)
          else .next (beginGang s2 k)

/-- A core may take new teams, but for its reserve (R37, R41, R42, R409). -/
def coreFit (s : State) (core : Nat) : Bool :=
  let c := s.core core
  !c.retired && !c.marked && !c.tooHot && !c.drooping && !(s.die (dieOf core)).offline

/-- The reserve lets a queue use the core (R43). -/
def reserveFit (s : State) (q core : Nat) : Bool :=
  let mine := decide (core ∈ reserveCores s (dieOf core))
  if q = 63 then mine || (s.die (dieOf core)).reserve = 0 else !mine

/-- Sum of a need over teams. -/
def sumOver (s : State) (ts : List Nat) (f : Launch → Nat → Nat) : Nat := (ts.map (fun t => f (s.launch (launchOfTeam t)) t)).sum

/-- A core admits a team of the launch (R45); `engine` says that the team comes with a reserved engine (R288). -/
def admits (s : State) (core : Nat) (l : Launch) (engine : Bool) : Bool :=
  let run := runningTeams s core
  let gs := (groupsOn s core).filter (fun k => !(s.group k).left)
  let e := s.engine core
  gs.all (fun k => (s.group k).racq.isNone) &&
    decide (32 * l.groups + (l.full - 32) ≤ pool s core) &&
    decide (gs.length + reducesOn s core + l.groups ≤ 64) &&
    decide (sumOver s run (fun l t => (liveGroupsOf s t).length * l.scalars) + l.groups * l.scalars ≤ 4096) &&
    decide (sumOver s (teamsOn s core) (fun l _ => l.units) + l.units ≤ 2048) &&
    decide (sumOver s (teamsOn s core) (fun l _ => l.barges) + l.barges ≤ 4) &&
    (!engine || (e.holder.isNone && !e.zeroing))

/-- What a reduce team asks of a core: one group of queue 63 (R374, log 82). -/
def reduceNeeds : Launch := { queue := 63, comm := true }

/-- A core may take a reduce team (R43, R45, R374). -/
def reduceFits (s : State) (core : Nat) : Bool :=
  decide (core < coreCount) && coreFit s core && reserveFit s 63 core && admits s core reduceNeeds false

/-- Free units of a die's scratchpad. -/
def freeUnits (s : State) (die : Nat) : List Nat :=
  let used := (s.scr.units.filter (fun (p : Nat × List Nat) => p.1 % 16 = die)).flatMap (fun p => p.2)
  (rangeFrom 0 32).filter (fun u => !decide (u ∈ used))

/-- Units of a launch on a die, allotted already. -/
def unitsOf (s : State) (launch die : Nat) : List Nat := Sparse.get [] s.scr.units (16 * launch + die)

/-- The die's scratchpad serves a cluster (R39). -/
def bankFit (s : State) (launch die : Nat) (c : Cluster) : Bool :=
  let l := s.launch launch
  l.diescratch = 0 || ((!c.saved || c.die = die) && (!(unitsOf s launch die).isEmpty || decide (l.diescratch ≤ (freeUnits s die).length)))

/-- Key of a cluster of a launch. -/
def clusterKey (launch clu : Nat) : Nat := launch * 2 ^ 24 + clu

/-- Team key of the n-th team of a cluster. -/
def teamKey (l : Launch) (launch clu n : Nat) : Nat := launch * 2 ^ 28 + clu * (l.w * l.h) + n

/-- A rectangle takes a cluster. -/
def rectFits (s : State) (launch clu die col row : Nat) : Bool :=
  let l := s.launch launch
  let c := s.cluster (clusterKey launch clu)
  let cores := rectCores die col row l.w l.h
  decide (die < 16) && decide (col + l.w ≤ 16) && decide (row + l.h ≤ 8) && bankFit s launch die c &&
    ((rangeFrom 0 (l.w * l.h)).zip cores).all (fun p =>
      coreFit s p.2 && reserveFit s l.queue p.2 && admits s p.2 l (s.team (teamKey l launch clu p.1)).mxHeld) &&
    (!l.gridsync || decide ((col, row) ∈ tiles s die l))

/-- A die has a rectangle for a cluster. -/
def dieFits (s : State) (launch clu die : Nat) : Bool :=
  (rangeFrom 0 16).any (fun col => (rangeFrom 0 8).any (fun row => rectFits s launch clu die col row))

/-- The next cluster of a queue: a pre-empted one first (R32, R40). -/
def nextCluster (s : State) (q : Nat) : Option (Nat × Nat) :=
  let order := Sparse.get [] s.work.order q
  let back := order.findSome? (fun k =>
    if (s.launch k).stage = .running && !(s.launch k).halting then
      (s.work.clusters.find? (fun (p : Nat × Cluster) => p.2.launch = k && p.2.saved)).map (fun p => (k, p.1 % 2 ^ 24))
    else none)
  match back with
  | some c => some c
  | none =>
    match headLaunch s q with
    | none => none
    | some k =>
      let l := s.launch k
      if l.begun && l.stage = .running && !l.halting && l.next < l.clusters then some (k, l.next) else none

/-- The cluster that a queue offers to a die, gangs respected (R55). -/
def offer (s : State) (q die : Nat) : Option (Nat × Nat) :=
  match nextCluster s q with
  | none => none
  | some c =>
    let held := match gangPlacing s with
      | some k => q != 63 && c.1 != k && !(s.cluster (clusterKey c.1 c.2)).saved
      | none => false
    if held || !dieFits s c.1 c.2 die then none else some c

/-- Order in which queues are served: priority, then round-robin after the last one served of that priority (R32). Where the round
starts after reset the spec does not say: with queue 1, as if queue 0 had been the last (log 78, the model's choice). -/
def servedBefore (s : State) (a b : Nat) : Bool :=
  let turn := fun (q : Nat) => (q + 63 - Sparse.get 0 s.work.lastServed (queuePrio s q)) % 64
  decide (queuePrio s b < queuePrio s a) || (queuePrio s a = queuePrio s b && decide (turn a < turn b))

/-- The queue that the hub serves for a die. -/
def chosenQueue (s : State) (die : Nat) : Option Nat :=
  (rangeFrom 0 64).foldl (fun best q =>
    if (offer s q die).isNone then best
    else match best with
      | none => some q
      | some b => if servedBefore s q b then some q else some b) none

/-- Groups of a quadrant of a core that have not left. -/
def quadGroups (s : State) (core quad : Nat) : List Nat := (groupsOn s core).filter (fun k => !(s.group k).left && (s.group k).quad = quad)

/-- The quadrant in which a group takes its slot: one with the most free slots, the lowest-numbered of those. R27 leaves the choice
open among quadrants with a free slot (log 78, the model's choice). -/
def freeQuad (s : State) (core : Nat) : Nat :=
  (rangeFrom 1 3).foldl (fun b q => if (quadGroups s core q).length < (quadGroups s core b).length then q else b) 0

/-- A group takes a slot: in the active set if that has room (R52). -/
def seatGroup (s : State) (core k : Nat) : State :=
  let q := freeQuad s core
  let room := decide (((quadGroups s core q).filter (fun j => (s.group j).active)).length < 8)
  s.modGroup k (fun g => { g with admitted := true, quad := q, active := room })

/-- A group as it begins (R30). -/
def Group.fresh (l : Launch) : Group :=
  let g : Group := { live := Lanes.all, need := Lanes.all, pcs := laneList.map (fun i => (i, l.entry)) }
  let g1 := { g with pcs := if l.entry = 0 then [] else g.pcs }
  if 2 ≤ l.scalars then (g1.putS 0 l.args).putS 1 (l.args / 2 ^ 32) else g1

/-- A resumed group waits to enter its handler (R320); it is admitted like a new one, so its registers hold what they hold at their
grant (R104, R107). -/
def wakeGroup (s : State) (core k : Nat) : State :=
  if (s.group k).left || (s.group k).mode != .saved then s
  else
    let new := Group.fresh (s.launch (launchOfGrp k))
    (seatGroup (s.modGroup k (fun g => { g with left := true })) core k).modGroup k
      (fun g => { g with v := new.v, s := new.s, p := new.p, left := false, mode := .halted, entResume := true, entPreempt := false, cause := {} })

/-- A team is admitted to a core (R45, R47). -/
def admitTeam (launch clu : Nat) (s : State) (p : Nat × Nat) : State :=
  let l := s.launch launch
  let t := teamKey l launch clu p.1
  let old := s.team t
  let s1 := s.setTeam t { old with
    resident := true, core := p.2, age := s.work.commits, launch := launch, cluster := clusterKey launch clu, mxHeld := false }
  if (s.cluster (clusterKey launch clu)).saved then
    let s2 := (groupsOf s1 t).foldl (fun s k => wakeGroup s p.2 k) s1
    if old.mxHeld then s2.modEngine p.2 (fun e => { e with holder := some t }) else s2
  else
    (rangeFrom (32 * t) l.groups).foldl (fun s k => seatGroup (s.setGroup k (Group.fresh l)) p.2 k) s1

/-- Die scratchpad for the launch's first cluster on a die: zero at its grant (R39, R187). -/
def allotUnits (s : State) (launch die : Nat) : State :=
  let n := (s.launch launch).diescratch
  if n = 0 || !(unitsOf s launch die).isEmpty then s
  else
    let us := (freeUnits s die).take n
    s.modScr (fun c => { c with
      units := Sparse.set [] c.units (16 * launch + die) us
      die := c.die.filter (fun (p : Nat × Byte) => !(p.1 / 2 ^ 25 = die && decide (p.1 % 2 ^ 25 / 2 ^ 20 ∈ us))) })

/-- A die commits a rectangle to a cluster: all its teams are admitted together. -/
def commitCluster (s : State) (launch clu die col row : Nat) : State :=
  let l := s.launch launch
  let key := clusterKey launch clu
  let back := (s.cluster key).saved
  let s1 := (allotUnits s launch die).modWork (fun w => { w with commits := w.commits + 1, lastServed := Sparse.set 0 w.lastServed (queuePrio s l.queue) l.queue })
  let s2 := ((rangeFrom 0 (l.w * l.h)).zip (rectCores die col row l.w l.h)).foldl (admitTeam launch clu) s1
  let s3 := s2.setCluster key { placed := true, launch := launch, die := die, col := col, row := row }
  let s4 := if back then s3 else s3.modLaunch launch (fun l => { l with next := l.next + 1 })
  let more := s4.work.clusters.any (fun (p : Nat × Cluster) => p.2.launch = launch && p.2.saved)
  s4.modLaunch launch (fun l => { l with gang := l.gang && (more || l.next < l.clusters) })

/-- CLUSTER_REQUEST (R37): the die takes the next cluster of the queue served, on the rectangle at a column and row. -/
def execClusterRequest (die col row : Nat) (s : State) : Out :=
  match chosenQueue s die with
  | none => .next s
  | some q =>
    match offer s q die with
    | none => .next s
    | some (k, clu) => if rectFits s k clu die col row then .next (commitCluster s k clu die col row) else .next s

/-! ### Release and completion -/

/-- Team keys of a cluster. -/
def teamsOfCluster (s : State) (key : Nat) : List Nat :=
  let l := s.launch (key / 2 ^ 24)
  (rangeFrom 0 (l.w * l.h)).map (teamKey l (key / 2 ^ 24) (key % 2 ^ 24))

/-- No command of a team is left (R349). -/
def nearDone (s : State) (team : Nat) : Bool := s.near.slots.all (fun (p : Nat × Slot) => p.1 / 16 != team || p.2.cmds.isEmpty)

/-- No token of some groups holds an armed export, which is an access still outstanding (R177). -/
def exportsOver (s : State) (mine : Nat → Bool) : Bool :=
  s.groups.all (fun (p : Nat × Group) => !mine p.1 || (p.2.toks ++ p.2.htoks).all (fun t => !t.2.armed))

/-- A team gives back its core's resources. -/
def releaseTeam (s : State) (team : Nat) : State :=
  let core := (s.team team).core
  let s1 := (bargesOf team).foldl (fun s b => s.setBarge b {}) (dropScratch s team)
  let s2 := (rangeFrom (16 * team) 16).foldl releaseSlot s1
  clearSems (s2.modTeam team (fun t => { t with resident := false, nbs := [], queues := [] })) core

/-- CLUSTER_RELEASE (R37, R260, R349). -/
def execClusterRelease (cluster : Nat) (s : State) : Out :=
  let c := s.cluster cluster
  let ts := teamsOfCluster s cluster
  if c.placed && !c.saved && !c.released && ts.all (fun t => (s.team t).exited && nearDone s t && exportsOver s (fun k => teamOf k = t) &&
      (bargesOf t).all (fun b => !(s.barge b).busy) && (s.engine (s.team t).core).holder != some t) then
    .next (settlePreempt ((ts.foldl releaseTeam s).modCluster cluster (fun c => { c with released := true })) (cluster / 2 ^ 24))
  else .next s

/-- Nothing that the launch issued is outstanding, and every store of it is globally performed (R36). -/
def launchQuiet (s : State) (k : Nat) : Bool :=
  s.ops.all (fun (p : Nat × Op) => launchOfGrp p.2.grp != k) && s.mem.fwd.all (fun st => st.launch != k) &&
    s.mem.gaPend.all (fun st => st.launch != k) && s.mem.invals.all (fun v => v.launch != k) &&
    s.barges.all (fun (p : Nat × Barge) => launchOfTeam (teamOfBarge p.1) != k || !p.2.busy) &&
    s.near.slots.all (fun (p : Nat × Slot) => launchOfTeam (p.1 / 16) != k || p.2.cmds.isEmpty) &&
    s.cores.all (fun (p : Nat × Core) => p.2.engine.queue.all (fun q => launchOfGrp q.grp != k)) && exportsOver s (fun g => launchOfGrp g = k)

/-- The launch may complete: every team has exited, or the outcome is fixed. -/
def launchOver (s : State) (k : Nat) : Bool :=
  let l := s.launch k
  decide (k ∈ Sparse.get [] s.work.order l.queue) && l.stage != .complete &&
    (teamsOfLaunch s k).all (fun t => (s.team t).exited) && (l.outcome.isSome || (l.begun && allExited s l k)) && launchQuiet s k &&
    hostReleased s s.sched.nextId

/-- The completion record (R36). -/
def completion (l : Launch) : List Byte :=
  let o := l.outcome.getD (0, 0, 0)
  toBytes (o.1 * 2 ^ 56 + (if o.1 = 4 then o.2.1 % 256 * 2 ^ 48 else 0) + l.exits % 2 ^ 32) 8 ++
    toBytes (if o.1 = 4 then o.2.2 % 2 ^ 32 * 2 ^ 32 else 0) 8

/-- The launch leaves its queue. -/
def retireLaunch (s : State) (k : Nat) : State :=
  let l := s.launch k
  let st := l.outcome.getD (0, 0, 0)
  let s1 := s.modLaunch k (fun l => { l with stage := .complete, outcome := some st, gang := false, halting := false })
  let s2 := s1.modWork (fun w => { w with
    order := Sparse.set [] w.order l.queue ((Sparse.get [] w.order l.queue).filter (fun j => j != k))
    recent := Sparse.insert w.recent l.queue (((l.launchid, st.1) :: Sparse.get [] w.recent l.queue).take 256) })
  let s3 := s2.modScr (fun c => { c with units := c.units.filter (fun (p : Nat × List Nat) => p.1 / 16 != k) })
  endCommand s3 l.queue k 0

/-- LAUNCH_COMPLETE (R36): the record is written as a release at system scope, and the queue's vector signalled. -/
def execLaunchComplete (launch : Nat) (s : State) : Out :=
  let l := s.launch launch
  if !launchOver s launch then .next s
  else
    match s.store (hubAgent l.asid launch) l.done (completion l) with
    | .wait => .next s
    | .fail _ a => .next (retireLaunch (queueError s l.queue 2 a) launch)
    | .ok _ s1 => .next (retireLaunch (signal (writeBack s1 5) l.queue) launch)

end Sys2Proof.Machine
end

