-- ==== Sys2Proof/Machine/Degraded.lean ====
section
/-! DEFINITION. Degraded operation: hub links and rerouting (R12 to R14, R231), retirement of lanes, cores, slices, rows and banks (R256, R257, R409,
R410); and the walks and fetches made on behalf of cores (R245, R247, R250), with long-latency flags (R51). -/

namespace Sys2Proof.Machine

open Sys2Proof

/-! ### What is lost with a core or a die -/

/-- Operations of a core that can no longer complete retire with uncorrectable memory (R14): those of its groups' tokens, its barges' runs,
its matrix engine's queue. A plan that the collective engine runs can complete. -/
def failOps (s : State) (core : Nat) : State :=
  let s1 := ((teamsOn s core).flatMap bargesOf).foldl (cutBarge Cause.uncorrectable) s
  let s2 := if (s1.engine core).queue.isEmpty then s1 else emptyEngine s1 core Cause.uncorrectable
  let ids := (s2.ops.filter (fun (p : Nat × Op) => p.2.core = core && p.2.result.isNone && !Sparse.has s2.fabric.plans p.1)).map (fun p => p.1)
  ids.foldl (fun s id => if s.hasOp id then finishOp s id 0 (some { cause := Cause.uncorrectable, valid := false }) else s) s2

/-- The launches of the teams on a core end (R409, R56): status 0x06 where grid-synchronous, else 0x04 with the team's index. -/
def loseTeams (s : State) (core : Nat) (sync : Bool) : State :=
  (teamsOn s core).foldl (fun s t =>
    let k := launchOfTeam t
    if sync && (s.launch k).gridsync then stopLaunch s k 6 0 0 else stopLaunch s k 4 Cause.uncorrectable (gridTeamOf t)) s

/-- What a core held by itself is gone, and a reduce team on it faults (R374). -/
def emptyCore (s : State) (core : Nat) : State :=
  (s.modCore core (fun c => { c with wc := [], packets := [], sems := [], semQueues := [] })).modFabric (fun f => { f with
    reduces := f.reduces.map (fun r => if r.core = some core then { r with fault := some Cause.uncorrectable } else r) })

/-- A core and what it holds are lost. -/
def loseCore (s : State) (core : Nat) (sync : Bool) : State := emptyCore (loseTeams (failOps s core) core sync) core

/-! ### Hub links -/

/-- Die slots. -/
def dieCount : Nat := 16

/-- The traffic of a die goes over the links of another one. -/
def rides (s : State) (die via : Nat) : Bool := (s.die die).rerouted && !(s.die die).offline && (s.die die).via = via

/-- A neighbour can carry another die's traffic (R12). -/
def carries (s : State) (die of_ : Nat) : Bool :=
  let d := s.die die
  !d.linkDown && !d.offline && (rangeFrom 0 dieCount).all (fun x => x = of_ || !rides s x die)

/-- A die goes offline (R14, R39), with the bit "rerouted" as it stands, which only a retrained link clears (R13): its copies and what was on its way from them are gone, and its operations with them. A launch with a
pre-empted cluster there that holds die scratchpad ends with status 0x08, those of the other teams on it as R14 says. -/
def goOffline (s : State) (die : Nat) : State :=
  let cores := rangeFrom (128 * die) 128
  let s1 := s.modDie die (fun d => { d with offline := true })
  let s2 := (cores.foldl failOps s1).modMem (fun m => { m with
    fwd := m.fwd.filter (fun st => st.die != die), gaPend := m.gaPend.filter (fun st => st.die != die)
    invals := m.invals.filter (fun v => v.die != die), copies := m.copies.filter (fun (p : Nat × Copy) => p.1 % 16 != die) })
  let lost := (s2.work.clusters.filter (fun (p : Nat × Cluster) => p.2.saved && p.2.die = die && (s2.launch p.2.launch).diescratch != 0)).map
    (fun p => p.2.launch)
  let s3 := lost.eraseDups.foldl (fun s k => stopLaunch s k 8 0 0) s2
  askReplacement (cores.foldl emptyCore (cores.foldl (fun s c => loseTeams s c false) s3))

/-- The traffic of a die goes over a side link, or the die goes offline. What had been issued before the die's own hub link failed stays so where
it is rerouted a second time, its carrier's link having failed (R231, log 67: the model's reading). -/
def reroute (s : State) (die : Nat) : State :=
  let a := (die + 1) % dieCount
  let b := (die + 15) % dieCount
  let ride := fun (n : Nat) => s.modDie die (fun d => { d with rerouted := true, via := n, failedAt := if d.rerouted then d.failedAt else s.sched.nextId })
  if carries s a die then ride a else if carries s b die then ride b else goOffline s die

/-- The hub link of a die fails; a die whose traffic it carried is rerouted again. -/
def failLink (s : State) (die : Nat) : State :=
  if dieCount ≤ die || (s.die die).linkDown || (s.die die).offline then s
  else
    let riders := (rangeFrom 0 dieCount).filter (fun x => rides s x die)
    let s1 := reroute (s.modDie die (fun d => { d with linkDown := true })) die
    riders.foldl reroute s1

/-- HUB_LINK_FAILURE (R12, R14). -/
def execHubLinkFailure (die : Nat) (s : State) : Out := .next (failLink s die)

/-- Nothing of a die is on its way over a link: no store of it, no invalidation to it (R13). -/
def pathDrained (s : State) (die : Nat) : Bool :=
  s.mem.fwd.all (fun st => st.die != die) && s.mem.gaPend.all (fun st => st.die != die) && s.mem.invals.all (fun v => v.die != die)

/-- HUB_LINK_RESTORED (R13): the link is retrained, over lanes that are not all retired (R409), and the side path has drained. -/
def execHubLinkRestored (die : Nat) (s : State) : Out :=
  if (s.die die).linkDown && (s.die die).lanes != 0 && !(s.die die).offline && pathDrained s die then
    .next (s.modDie die (fun d => { d with linkDown := false, rerouted := false }))
  else .next s

/-- LANE_RETIREMENT (R409): a lane of a hub link, kind 0, a station, 1, or a port, 2, passes its threshold or fails, and fewer lanes are left;
with none, traffic goes another way. -/
def execLaneRetirement (kind idx width : Nat) (s : State) : Out :=
  if !s.mgmt.retires (4 + kind) idx then .next s
  else
    let s0 := unitRetired s (4 + kind) idx
    match kind with
    | 0 =>
      if dieCount ≤ idx || (s.die idx).lanes ≤ width then .next s
      else
        let s1 := s0.modDie idx (fun d => { d with lanes := width })
        .next (if width = 0 then failLink s1 idx else s1)
    | 1 =>
      if stationCount ≤ idx || 3 ≤ width || (s.station idx).lanes ≤ width then .next s
      else
        let s1 := s0.modStation idx (fun x => { x with lanes := width })
        .next (if width = 0 then stopStation s1 idx else s1)
    | _ =>
      if kind = 2 && idx < 3 && (width = 8 || width = 4) && width < portLanes s idx then
        .next (s0.modHost (fun h => { h with width := Sparse.set 0 h.width idx width }))
      else .next s

/-! ### Cores -/

/-- CORE_RETIRE (R409): past its threshold a core takes no new team. -/
def execCoreRetire (core : Nat) (s : State) : Out :=
  if core < coreCount && s.mgmt.past 0 core && !(s.core core).retired then .next (s.modCore core (fun c => { c with marked := true })) else .next s

/-- CORE_RETIREMENT_COMPLETE (R409, R410): it holds no team any more. -/
def execCoreRetirementComplete (core : Nat) (s : State) : Out :=
  if (s.core core).marked && !(s.core core).retired && (teamsOn s core).isEmpty && reducesOn s core = 0 then
    .next (askReplacement (s.modCore core (fun c => { c with retired := true })))
  else .next s

/-- CORE_UNCORRECTABLE (R409, R56). -/
def execCoreUncorrectable (core : Nat) (s : State) : Out :=
  if core < coreCount && !(s.core core).retired then
    .next (askReplacement ((loseCore s core true).modCore core (fun c => { c with retired := true, marked := true })))
  else .next s

/-! ### Slices (R256, R257) -/

/-- The slices that take over, in their order after the retired one. -/
def heirs (x : SliceState) (slice : Nat) : List Nat :=
  ((rangeFrom 1 511).map (fun i => (slice + i) % 512)).filter (fun k => !decide (k ∈ x.retired))

/-- The map without a slice: its i-th entry goes to the i-th heir. -/
def mapWithout (x : SliceState) (slice : Nat) : Sparse Nat :=
  let hs := heirs x slice
  let es := (rangeFrom 0 4096).filter (fun e => mapSlice x e = slice)
  ((rangeFrom 0 es.length).zip es).foldl (fun m p => Sparse.insert m p.2 (nth slice hs (p.1 % max 1 hs.length))) x.map

/-- What is left of a store without the bytes of a sector. -/
def Store.without (st : Store) (sec : Nat) : List Store :=
  let before := 32 * sec - st.addr
  let after := 32 * sec + 32 - st.addr
  [{ st with bytes := st.bytes.take before }, { st with addr := st.addr + after, va := st.va + after, bytes := st.bytes.drop after }].filter
    (fun x => !x.bytes.isEmpty)

/-- A sector that a slice cannot read out is marked at the home, and the stores to it that were on their way fail, a store of several sectors
with its bytes of this one. -/
def loseSector (die : Nat) (s : State) (sec : Nat) : State :=
  let mine := fun (st : Store) => decide (st.die = die) && meets st.addr st.bytes.length (32 * sec) 32
  let lost := s.mem.fwd.filter mine
  let s1 := s.modMem (fun m =>
    let c := m.copy (sec / 4) die
    { (m.setTag sec .bad).setCopy (sec / 4) die { c with valid := setBits c.valid (32 * (sec % 4)) 32 0 } with
      fwd := m.fwd.flatMap (fun st => if mine st then st.without sec else [st]) })
  lost.foldl (fun s st => failStore s st Cause.uncorrectable) s1

/-- SLICE_FLUSH (R257, R409): retirement of a slice begins; sectors that cannot be read out are marked at the home, and lines with no
store on its way are dropped. -/
def execSliceFlush (die slice : Nat) (unreadable : List Nat) (s : State) : Out :=
  let x := s.slice die
  if dieCount ≤ die || 512 ≤ slice || x.phase ≠ 0 || slice ∈ x.retired || !s.mgmt.retires 1 (512 * die + slice) then .next s
  else
    let bad := unreadable.filter (fun sec => (s.mem.copy (sec / 4) die).valid != 0 && sliceOf s die (sec / 4) = slice)
    let s1 := bad.foldl (loseSector die) s
    let s2 := askReplacement (s1.modSlice die (fun x => { x with phase := 1, slice := slice, retired := x.retired ++ [slice] }))
    let held := (s2.mem.copies.filter (fun (p : Nat × Copy) => p.1 % 16 = die)).map (fun p => p.1 / 16)
    .next (held.foldl (fun s l => dropFlushed s l die) s2)

/-- Something of the slice is still to be performed at the homes. -/
def sliceBusy (s : State) (die slice : Nat) : Bool :=
  s.mem.fwd.any (fun st => st.die = die && sliceOf s die (st.addr / 128) = slice) ||
    s.mem.gaPend.any (fun st => st.die = die && sliceOf s die (st.addr / 128) = slice)

/-- SLICE_MAP_SWITCH (R257): the slice holds no line, and the new map is sent. -/
def execSliceMapSwitch (die : Nat) (s : State) : Out :=
  let x := s.slice die
  if x.phase ≠ 1 || sliceBusy s die x.slice then .next s
  else
    let s1 := s.modMem (fun m => { m with
      copies := m.copies.filter (fun (p : Nat × Copy) => !(p.1 % 16 = die && sliceOf s die (p.1 / 16) = x.slice)) })
    .next (s1.modSlice die (fun x => { x with phase := 2, newMap := mapWithout x x.slice, adopted := [], quiet := 0 }))

/-- The slice to which a core of a die sends a request for a line (R257). -/
def sentTo (s : State) (core line : Nat) : Nat :=
  let x := s.slice (dieOf core)
  if core ∈ x.adopted then mapSlice x (sliceHash (128 * line)) else oldSlice x (sliceHash (128 * line))

/-- A core has a request outstanding to a slice of its die. -/
def asksSlice (s : State) (core slice : Nat) : Bool :=
  s.ops.any (fun (p : Nat × Op) => p.2.isGlobal && p.2.core = core && !p.2.held && p.2.left.any (fun k =>
    match partPlace s p.2 k with
    | some a => sentTo s core (a / 128) = slice
    | none => false))

/-- CORE_MAP_ADOPT (R257). -/
def execCoreMapAdopt (core : Nat) (s : State) : Out :=
  let x := s.slice (dieOf core)
  if x.phase ≠ 2 || core ∈ x.adopted || asksSlice s core x.slice then .next s
  else .next (s.modSlice (dieOf core) (fun x => { x with adopted := core :: x.adopted }))

/-- Every core of the die has adopted the new map. -/
def allAdopted (x : SliceState) (die : Nat) : Bool := (rangeFrom (128 * die) 128).all (fun c => decide (c ∈ x.adopted))

/-- Something is on its way to a forward-only slice, which redirects it: a request, or an invalidation of a line that was its own (R257). -/
def inputBusy (s : State) (die : Nat) : Bool :=
  let x := s.slice die
  (rangeFrom (128 * die) 128).any (fun c => asksSlice s c x.slice) ||
    s.mem.invals.any (fun v => v.die = die && oldSlice x (sliceHash (128 * v.line)) = x.slice)

/-- A mesh cycle of a die as its forward-only slice sees it: one more with empty input queues once every core has adopted, or none (R257). -/
def quietCycle (s : State) (die : Nat) : State :=
  let x := s.slice die
  if x.phase = 2 && allAdopted x die then s.modSlice die (fun x => { x with quiet := if inputBusy s die then 0 else x.quiet + 1 }) else s

/-- Mesh cycles of empty input queues after which a slice leaves service. -/
def quietRun : Nat := 4096

/-- SLICE_END (R257). -/
def execSliceEnd (die : Nat) (s : State) : Out :=
  let x := s.slice die
  if x.phase = 2 && allAdopted x die && quietRun ≤ x.quiet then
    .next (s.modSlice die (fun x => { x with map := x.newMap, newMap := [], phase := 0, adopted := [], quiet := 0 }))
  else .next s

/-! ### HBM rows and banks (R409) -/

/-- Every sector of a row fails until a write covers it whole. -/
def failRow (s : State) (stack row : Nat) : State :=
  let first := (stack * 2 ^ 44 + row * Config.rowBytes) / 32
  s.modMem (fun m => (rangeFrom first (Config.rowBytes / 32)).foldl (fun m sec => m.setTag sec .bad) m)

/-- Spare rows of a stack that are left. -/
def sparesLeft (s : State) (stack : Nat) : Nat := Config.spareRows stack - Sparse.get 0 s.mgmt.spares stack

/-- Use up spare rows. -/
def useSpares (s : State) (stack n : Nat) : State := s.modMgmt (fun m => { m with spares := Sparse.set 0 m.spares stack (Sparse.get 0 m.spares stack + n) })

/-- HBM_ROW_RETIRE: into a spare row, with marks and data as they were; with none left the row fails. -/
def execHbmRowRetire (stack row : Nat) (s0 : State) : Out :=
  let s := unitRetired s0 2 (12 * row + stack)
  if 12 ≤ stack || !s0.mgmt.retires 2 (12 * row + stack) then .next s0
  else if sparesLeft s stack = 0 then .next ((failRow s stack row).modMgmt (fun m => { m with rows := m.rows + 1 }))
  else if sparesLeft s stack = 1 then .next (askReplacement (useSpares s stack 1))
  else .next (useSpares s stack 1)

/-- HBM_BANK_RETIRE: past its threshold all rows go into spares; with too few, or where an uncorrectable failure has struck, all of them
fail. -/
def execHbmBankRetire (stack bank : Nat) (s0 : State) : Out :=
  let unit := 12 * bank + stack
  let s := unitRetired s0 3 unit
  if 12 ≤ stack || !s0.mgmt.retires 3 unit then .next s0
  else
    let rows := Config.rowsOfBank stack bank
    let s1 := if rows.length ≤ sparesLeft s stack && !s0.mgmt.hit 3 unit then useSpares s stack rows.length else rows.foldl (fun s r => failRow s stack r) s
    .next (askReplacement (s1.modMgmt (fun m => { m with banks := m.banks ||| 2 ^ stack })))

/-! ### Walks and fetches for a core -/

/-- An address lies in the page of a walk's identity (R247). -/
def samePage (va page : Nat) : Bool := va / 65536 = page

/-- The words that a path of a group has to fetch, from the address it stands at, to issue lie in the page: headers, and the words of the
instruction after them as far as its first one tells how many there are (R142, R245). -/
def pathAsks (s : State) (grp page pc : Nat) : Bool :=
  let last := match lookAt s grp pc with
    | .ready va _ w _ => va + 4 * (wordsOf (BitVec.ofNat 32 w) - 1)
    | .stop _ va _ _ => va
    | .wait _ => pc
  decide (pc / 65536 ≤ page) && decide (page ≤ last / 65536)

/-- A demand access of the core waits for a translation: a part of an access, a line of cache maintenance, a granule of `biasset`; or, of kind
fetch, the words of a path's or a barge's next instruction (R245). -/
def asksWalk (s : State) (core asid va kind : Nat) : Bool :=
  let page := va / 65536
  let here := fun (k : Nat) => decide ((s.launch k).asid = asid)
  s.ops.any (fun (p : Nat × Op) => p.2.core = core && !p.2.held && p.2.result.isNone && here (launchOfGrp p.2.grp) &&
    (if p.2.isGlobal then p.2.needs = kind && p.2.left.any (fun k => samePage (p.2.at_ k) page)
     else if p.2.kind = .clean || p.2.kind = .inval then kind = 1 && p.2.addr.any (fun a => samePage a.2 page)
     else p.2.kind = .bias && kind = 1 && (rangeFrom 0 p.2.y).any (fun k => samePage (p.2.x + 4096 * k) page))) ||
  (kind = 3 && (teamsOn s core).any (fun t => here (launchOfTeam t) && (
    (groupsOf s t).any (fun k => (s.group k).runs && (frontier s k).any (pathAsks s k page)) ||
    (bargesOf t).any (fun b => let x := s.barge b; (x.mode = .running || x.mode = .waiting) && !x.parked && samePage x.pc page))))

/-- The walkers of the hub (R247). -/
def walkers : Nat := 64

/-- PAGE_WALK (R245 to R247): a walker resolves a page for the accesses that ask, if no walk for it is in progress; they receive its result.
A walk that fails leaves the failure to the access. -/
def execPageWalk (core asid va kind : Nat) (s : State) : Out :=
  if !(core < coreCount && asid < 4096 && va < 2 ^ 57 && asksWalk s core asid va kind) || (tlbFind s core asid va).isSome ||
      (walkJoined s asid va).isSome || walkers ≤ s.xlat.walks.length then .next s
  else
    match walk s core asid va with
    | .error _ => .next s
    | .ok (t, seen) =>
      match useLeaf (tookLost s) t kind (demandFlags kind) with
      | .error _ => .next s
      | .ok (t', s') =>
        .next ((keepWalk s' t seen).modXlat (fun x => { x with walks := x.walks ++ [{ asid := asid, page := va / 65536, leaf := t' }] }))

/-- A leaf that a run-ahead fetch may use (R250). -/
def aheadLeaf (s : State) (core asid va : Nat) : Option (TlbEntry × State) :=
  match tlbFind s core asid va with
  | some t => if (leafStop s t.entry 3).isNone then some (t, s) else none
  | none =>
    match walk s core asid va with
    | .error _ => none
    | .ok (t, seen) =>
      if (leafStop s t.entry 3).isNone && bitOf t.entry 6 then some (t, cacheLeaf (keepWalk (tookLost s) t seen) core t)
      else none

/-- RUN_AHEAD_FETCH (R250): a word comes into the core's instruction cache; nothing faults, and no accessed bit is set. -/
def execRunAheadFetch (core asid va : Nat) (s : State) : Out :=
  match (teamsOn s core).find? (fun t => (s.launch (launchOfTeam t)).asid = asid) with
  | none => .next s
  | some t =>
    if va % 4 ≠ 0 || 2 ^ 57 ≤ va then .next s
    else
      match aheadLeaf s core asid va with
      | none => .next s
      | some (leaf, s1) =>
        if (codeHeld s1 core asid va (leaf.phys va) (s1.leafKey leaf)).isSome then .next s
        else
          match codeAt s1 core (launchOfTeam t) leaf va with
          | .error _ => .next s
          | .ok (w, s2) => .next (keepCode s2 core asid va leaf w)

/-- LONG_LATENCY_FLAG (R51): an operation of the flag has been outstanding for more than 64 cycles. -/
def execLongLatencyFlag (grp flag : Nat) (s : State) : Out :=
  if !decide (flag ∈ (s.group grp).longFlags) && s.ops.any (fun (p : Nat × Op) =>
      p.2.grp = grp && p.2.flag = some flag && decide (p.2.birth + 64 < s.cycle p.2.core)) then
    .next (s.modGroup grp (fun g => { g with longFlags := flag :: g.longFlags }))
  else .next s

end Sys2Proof.Machine
end

