-- ==== Sys2Proof/Machine/Run.lean ====
section
/-! DEFINITION. An accepted encoding runs: the meaning of the instruction it stands for (`Enc.instr`), found without building
the instruction, which Lean's runtime cannot do for so many constructors. `Laws/Decoding.lean` proves that it is `exec`. -/

namespace Sys2Proof.Machine

open Sys2Proof

/-- The five instructions of `mov`. -/
def runMov (f : ExtForm) (s : State) : Out :=
  if isQueue f.d 0 63 == isQueue f.a 0 63 then Sys2Proof.Machine.execMovX f s
  else if isQueue f.d 32 63 then Sys2Proof.Machine.execMovQueueWrite f s
  else if isQueue f.d 0 31 then Sys2Proof.Machine.execNmPush f s
  else if isQueue f.a 32 63 then Sys2Proof.Machine.execMovQueueRead f s
  else Sys2Proof.Machine.execNmTake f s

/-- The instructions of `swr`. -/
def runSwr (f : ExtForm) (s : State) : Out :=
  let n := f.a.toNat
  if 96 ≤ n ∧ n ≤ 111 then Sys2Proof.Machine.execSwrTok f s
  else if 112 ≤ n ∧ n ≤ 127 then Sys2Proof.Machine.execSwrTokx f s
  else if n = 177 then Sys2Proof.Machine.execSwrMxQ f s
  else if n = 173 then Sys2Proof.Machine.execSwrMxBudget f s
  else Sys2Proof.Machine.execSwr f s

/-- The kinds of `rtt`. -/
def runRtt (f : ExtForm) (s : State) : Out :=
  if bits f.mods.toNat 0 2 = 0 then Sys2Proof.Machine.execRttRes f s
  else if bits f.mods.toNat 0 2 = 1 then Sys2Proof.Machine.execRttEnd f s
  else Sys2Proof.Machine.execRttSave f s

/-- A base word runs. -/
def runBase (major idx : Nat) (f : BaseForm) (s : State) : Out :=
  match major with
  | 0x01 => match idx with
    | 0 => Sys2Proof.Machine.execIadd f s
    | 1 => Sys2Proof.Machine.execIsub f s
    | 2 => Sys2Proof.Machine.execImul f s
    | _ => .next s
  | 0x02 => match idx with
    | 0 => Sys2Proof.Machine.execAnd f s
    | 1 => Sys2Proof.Machine.execOr f s
    | 2 => Sys2Proof.Machine.execXor f s
    | 3 => Sys2Proof.Machine.execNot f s
    | _ => .next s
  | 0x03 => match idx with
    | 0 => Sys2Proof.Machine.execShl f s
    | 1 => Sys2Proof.Machine.execShr f s
    | 2 => Sys2Proof.Machine.execSar f s
    | 3 => Sys2Proof.Machine.execRot f s
    | _ => .next s
  | 0x04 => match idx with
    | 0 => Sys2Proof.Machine.execIcmp f s
    | _ => .next s
  | 0x05 => match idx with
    | 0 => Sys2Proof.Machine.execMov f s
    | 2 => Sys2Proof.Machine.execMovs f s
    | 3 => Sys2Proof.Machine.execBcast f s
    | _ => .next s
  | 0x06 => match idx with
    | 0 => Sys2Proof.Machine.execFadd f s
    | 1 => Sys2Proof.Machine.execFmul f s
    | 3 => Sys2Proof.Machine.execFmin f s
    | _ => .next s
  | 0x07 => match idx with
    | 0 => Sys2Proof.Machine.execFcmp f s
    | _ => .next s
  | 0x08 => match idx with
    | 0 => Sys2Proof.Machine.execFrcp f s
    | 1 => Sys2Proof.Machine.execFrsq f s
    | 2 => Sys2Proof.Machine.execFsqrt f s
    | 3 => Sys2Proof.Machine.execFexp2 f s
    | _ => .next s
  | 0x09 => match idx with
    | 0 => Sys2Proof.Machine.execHadd2 f s
    | 1 => Sys2Proof.Machine.execHmul2 f s
    | 3 => Sys2Proof.Machine.execHmin2 f s
    | _ => .next s
  | 0x0A => match idx with
    | 0 => Sys2Proof.Machine.execDadd f s
    | 1 => Sys2Proof.Machine.execDmul f s
    | 3 => Sys2Proof.Machine.execDcmp f s
    | _ => .next s
  | 0x0B => match idx with
    | 0 => Sys2Proof.Machine.execCvt f s
    | 1 => Sys2Proof.Machine.execCpack f s
    | 2 => Sys2Proof.Machine.execCunpk f s
    | 3 => Sys2Proof.Machine.execFrnd f s
    | _ => .next s
  | 0x0C => match idx with
    | 1 => Sys2Proof.Machine.execLea f s
    | _ => .next s
  | 0x0D => match idx with
    | 0 => Sys2Proof.Machine.execShf f s
    | 1 => Sys2Proof.Machine.execShfup f s
    | 2 => Sys2Proof.Machine.execShfdn f s
    | 3 => Sys2Proof.Machine.execShfx f s
    | _ => .next s
  | 0x0E => match idx with
    | 0 => Sys2Proof.Machine.execVall f s
    | 1 => Sys2Proof.Machine.execVany f s
    | 2 => Sys2Proof.Machine.execVbal f s
    | 3 => Sys2Proof.Machine.execVmatch f s
    | _ => .next s
  | 0x0F => match idx with
    | 0 => Sys2Proof.Machine.execGred f s
    | 1 => Sys2Proof.Machine.execGscan f s
    | _ => .next s
  | 0x10 => match idx with
    | 0 => Sys2Proof.Machine.execBra f s
    | 1 => Sys2Proof.Machine.execBrx f s
    | 2 => Sys2Proof.Machine.execCall f s
    | 3 => Sys2Proof.Machine.execRet f s
    | _ => .next s
  | 0x12 => match idx with
    | 0 => Sys2Proof.Machine.execExit f s
    | 1 => Sys2Proof.Machine.execNop f s
    | 2 => Sys2Proof.Machine.execYield f s
    | _ => .next s
  | 0x13 => match idx with
    | 0 => Sys2Proof.Machine.execLds f s
    | 1 => Sys2Proof.Machine.execSts f s
    | _ => .next s
  | 0x14 => match idx with
    | 0 => Sys2Proof.Machine.execLdl f s
    | 1 => Sys2Proof.Machine.execStl f s
    | _ => .next s
  | 0x1C => match idx with
    | 0 => Sys2Proof.Machine.execSinc f s
    | 1 => Sys2Proof.Machine.execSwait f s
    | 2 => Sys2Proof.Machine.execSread f s
    | _ => .next s
  | 0x1E => match idx with
    | 0 => Sys2Proof.Machine.execRacq f s
    | 1 => Sys2Proof.Machine.execRrel f s
    | _ => .next s
  | _ => .next s

/-- An extended or literal form runs. -/
def runExt (major idx : Nat) (f : ExtForm) (s : State) : Out :=
  match major with
  | 0x01 => match idx with
    | 0 => Sys2Proof.Machine.execIaddX f s
    | 1 => Sys2Proof.Machine.execIsubX f s
    | 2 => Sys2Proof.Machine.execImulX f s
    | 3 => Sys2Proof.Machine.execImad f s
    | 4 => Sys2Proof.Machine.execImulh f s
    | 5 => Sys2Proof.Machine.execImin f s
    | 6 => Sys2Proof.Machine.execImax f s
    | 7 => Sys2Proof.Machine.execIabs f s
    | 8 => Sys2Proof.Machine.execIneg f s
    | 9 => Sys2Proof.Machine.execIaddc f s
    | _ => .next s
  | 0x02 => match idx with
    | 0 => Sys2Proof.Machine.execAndX f s
    | 1 => Sys2Proof.Machine.execOrX f s
    | 2 => Sys2Proof.Machine.execXorX f s
    | 3 => Sys2Proof.Machine.execNotX f s
    | 4 => Sys2Proof.Machine.execBfn3 f s
    | _ => .next s
  | 0x03 => match idx with
    | 0 => Sys2Proof.Machine.execShlX f s
    | 1 => Sys2Proof.Machine.execShrX f s
    | 2 => Sys2Proof.Machine.execSarX f s
    | 3 => Sys2Proof.Machine.execRotX f s
    | 4 => Sys2Proof.Machine.execPopc f s
    | 5 => Sys2Proof.Machine.execClz f s
    | 6 => Sys2Proof.Machine.execBrev f s
    | 7 => Sys2Proof.Machine.execBfe f s
    | 8 => Sys2Proof.Machine.execBfi f s
    | _ => .next s
  | 0x04 => match idx with
    | 0 => Sys2Proof.Machine.execIcmpX f s
    | 1 => Sys2Proof.Machine.execIcmpc f s
    | _ => .next s
  | 0x05 => match idx with
    | 0 => runMov f s
    | 1 => Sys2Proof.Machine.execSel f s
    | 2 => Sys2Proof.Machine.execMovsX f s
    | 3 => Sys2Proof.Machine.execBcastX f s
    | 4 => Sys2Proof.Machine.execMovp f s
    | _ => .next s
  | 0x06 => match idx with
    | 0 => Sys2Proof.Machine.execFaddX f s
    | 1 => Sys2Proof.Machine.execFmulX f s
    | 2 => Sys2Proof.Machine.execFfma f s
    | 3 => Sys2Proof.Machine.execFminX f s
    | 4 => Sys2Proof.Machine.execFmax f s
    | 5 => Sys2Proof.Machine.execFsub f s
    | _ => .next s
  | 0x07 => match idx with
    | 0 => Sys2Proof.Machine.execFcmpX f s
    | 1 => Sys2Proof.Machine.execFclass f s
    | _ => .next s
  | 0x08 => match idx with
    | 0 => Sys2Proof.Machine.execFrcpX f s
    | 1 => Sys2Proof.Machine.execFrsqX f s
    | 2 => Sys2Proof.Machine.execFsqrtX f s
    | 3 => Sys2Proof.Machine.execFexp2X f s
    | 4 => Sys2Proof.Machine.execFlog2 f s
    | 5 => Sys2Proof.Machine.execFsin f s
    | 6 => Sys2Proof.Machine.execFcos f s
    | 7 => Sys2Proof.Machine.execFtanh f s
    | _ => .next s
  | 0x09 => match idx with
    | 0 => Sys2Proof.Machine.execHadd2X f s
    | 1 => Sys2Proof.Machine.execHmul2X f s
    | 2 => Sys2Proof.Machine.execHfma2 f s
    | 3 => Sys2Proof.Machine.execHmin2X f s
    | 4 => Sys2Proof.Machine.execHmax2 f s
    | _ => .next s
  | 0x0A => match idx with
    | 0 => Sys2Proof.Machine.execDaddX f s
    | 1 => Sys2Proof.Machine.execDmulX f s
    | 2 => Sys2Proof.Machine.execDfma f s
    | 3 => Sys2Proof.Machine.execDcmpX f s
    | 4 => Sys2Proof.Machine.execDmin f s
    | 5 => Sys2Proof.Machine.execDmax f s
    | _ => .next s
  | 0x0B => match idx with
    | 0 => Sys2Proof.Machine.execCvtX f s
    | 1 => Sys2Proof.Machine.execCpackX f s
    | 2 => Sys2Proof.Machine.execCunpkX f s
    | 3 => Sys2Proof.Machine.execFrndX f s
    | _ => .next s
  | 0x0C => match idx with
    | 0 => Sys2Proof.Machine.execPerm f s
    | 1 => Sys2Proof.Machine.execLeaX f s
    | _ => .next s
  | 0x0D => match idx with
    | 0 => Sys2Proof.Machine.execShfX f s
    | 1 => Sys2Proof.Machine.execShfupX f s
    | 2 => Sys2Proof.Machine.execShfdnX f s
    | 3 => Sys2Proof.Machine.execShfxX f s
    | _ => .next s
  | 0x0E => match idx with
    | 0 => Sys2Proof.Machine.execVallX f s
    | 1 => Sys2Proof.Machine.execVanyX f s
    | 2 => Sys2Proof.Machine.execVbalX f s
    | 3 => Sys2Proof.Machine.execVmatchX f s
    | 4 => Sys2Proof.Machine.execVuni f s
    | _ => .next s
  | 0x0F => match idx with
    | 0 => Sys2Proof.Machine.execGredX f s
    | 1 => Sys2Proof.Machine.execGscanX f s
    | _ => .next s
  | 0x10 => match idx with
    | 0 => Sys2Proof.Machine.execBraX f s
    | 1 => Sys2Proof.Machine.execBrxX f s
    | 2 => Sys2Proof.Machine.execCallX f s
    | 3 => Sys2Proof.Machine.execRetX f s
    | _ => .next s
  | 0x11 => match idx with
    | 0 => Sys2Proof.Machine.execJoin f s
    | 1 => Sys2Proof.Machine.execLeave f s
    | 2 => if bitOf f.mods.toNat 0 then Sys2Proof.Machine.execMwaitBounded f s else Sys2Proof.Machine.execMwait f s
    | 3 => Sys2Proof.Machine.execElect f s
    | 4 => Sys2Proof.Machine.execMset f s
    | 5 => Sys2Proof.Machine.execMget f s
    | _ => .next s
  | 0x12 => match idx with
    | 0 => Sys2Proof.Machine.execExitX f s
    | 1 => Sys2Proof.Machine.execNopX f s
    | 2 => Sys2Proof.Machine.execYieldX f s
    | _ => .next s
  | 0x13 => match idx with
    | 0 => Sys2Proof.Machine.execLdsX f s
    | 1 => Sys2Proof.Machine.execStsX f s
    | 2 => Sys2Proof.Machine.execAtms f s
    | _ => .next s
  | 0x14 => match idx with
    | 0 => Sys2Proof.Machine.execLdlX f s
    | 1 => Sys2Proof.Machine.execStlX f s
    | _ => .next s
  | 0x15 => match idx with
    | 0 => Sys2Proof.Machine.execLdc f s
    | 1 => Sys2Proof.Machine.execStc f s
    | 2 => Sys2Proof.Machine.execCput f s
    | 3 => Sys2Proof.Machine.execAtmc f s
    | _ => .next s
  | 0x16 => match idx with
    | 0 => Sys2Proof.Machine.execLdd f s
    | 1 => Sys2Proof.Machine.execStd f s
    | _ => .next s
  | 0x17 => match idx with
    | 0 => Sys2Proof.Machine.execLdg f s
    | 1 => Sys2Proof.Machine.execStg f s
    | 2 => Sys2Proof.Machine.execAtg f s
    | 3 => Sys2Proof.Machine.execRedg f s
    | _ => .next s
  | 0x18 => match idx with
    | 0 => Sys2Proof.Machine.execPref f s
    | 1 => Sys2Proof.Machine.execCclean f s
    | 2 => Sys2Proof.Machine.execCinval f s
    | _ => .next s
  | 0x19 => match idx with
    | 0 => Sys2Proof.Machine.execTwait f s
    | 1 => Sys2Proof.Machine.execTtest f s
    | 2 => Sys2Proof.Machine.execTsleep f s
    | 3 => Sys2Proof.Machine.execTexp f s
    | 4 => Sys2Proof.Machine.execTjoin f s
    | 5 => Sys2Proof.Machine.execTclr f s
    | 6 => Sys2Proof.Machine.execTsig f s
    | _ => .next s
  | 0x1A => match idx with
    | 0 => Sys2Proof.Machine.execChini f s
    | 1 => Sys2Proof.Machine.execCharr f s
    | 2 => Sys2Proof.Machine.execChwait f s
    | 3 => Sys2Proof.Machine.execChtest f s
    | _ => .next s
  | 0x1B => match idx with
    | 0 => Sys2Proof.Machine.execNbarr f s
    | 1 => Sys2Proof.Machine.execNbwait f s
    | 2 => Sys2Proof.Machine.execNbsync f s
    | _ => .next s
  | 0x1C => match idx with
    | 0 => Sys2Proof.Machine.execSincX f s
    | 1 => Sys2Proof.Machine.execSwaitX f s
    | 2 => Sys2Proof.Machine.execSreadX f s
    | _ => .next s
  | 0x1D => match idx with
    | 0 => Sys2Proof.Machine.execFence f s
    | 1 => Sys2Proof.Machine.execTfence f s
    | 2 => Sys2Proof.Machine.execAcqr f s
    | _ => .next s
  | 0x1E => match idx with
    | 0 => Sys2Proof.Machine.execRacqX f s
    | 1 => Sys2Proof.Machine.execRrelX f s
    | _ => .next s
  | 0x1F => match idx with
    | 0 => Sys2Proof.Machine.execSrd f s
    | 1 => runSwr f s
    | _ => .next s
  | 0x20 => match idx with
    | 0 => Sys2Proof.Machine.execBgo f s
    | 1 => Sys2Proof.Machine.execBstop f s
    | 2 => if bitOf f.mods.toNat 7 then Sys2Proof.Machine.execBresLd f s else Sys2Proof.Machine.execBres f s
    | 3 => Sys2Proof.Machine.execBstat f s
    | _ => .next s
  | 0x21 => match idx with
    | 0 => Sys2Proof.Machine.execMxres f s
    | 1 => Sys2Proof.Machine.execMxrel f s
    | 2 => Sys2Proof.Machine.execMxsign f s
    | _ => .next s
  | 0x22 => match idx with
    | 0 => Sys2Proof.Machine.execMma f s
    | 1 => Sys2Proof.Machine.execMmac f s
    | _ => .next s
  | 0x23 => match idx with
    | 0 => Sys2Proof.Machine.execMxclr f s
    | 1 => Sys2Proof.Machine.execMxld f s
    | 2 => Sys2Proof.Machine.execMxst f s
    | 3 => Sys2Proof.Machine.execMxscl f s
    | _ => .next s
  | 0x24 => match idx with
    | 0 => Sys2Proof.Machine.execNmcfg f s
    | 1 => Sys2Proof.Machine.execNmv f s
    | 2 => Sys2Proof.Machine.execQpoll f s
    | 3 => Sys2Proof.Machine.execQflush f s
    | _ => .next s
  | 0x25 => match idx with
    | 0 => Sys2Proof.Machine.execPut f s
    | 1 => Sys2Proof.Machine.execRld f s
    | 2 => Sys2Proof.Machine.execRatom f s
    | 3 => Sys2Proof.Machine.execWcflush f s
    | _ => .next s
  | 0x26 => match idx with
    | 0 => Sys2Proof.Machine.execClplan f s
    | 1 => Sys2Proof.Machine.execClgo f s
    | 2 => Sys2Proof.Machine.execRring f s
    | _ => .next s
  | 0x27 => match idx with
    | 0 => Sys2Proof.Machine.execTrap f s
    | 1 => runRtt f s
    | 2 => Sys2Proof.Machine.execBrk f s
    | 3 => Sys2Proof.Machine.execCsync f s
    | 4 => Sys2Proof.Machine.execIcinv f s
    | 5 => Sys2Proof.Machine.execTlbinv f s
    | 6 => Sys2Proof.Machine.execBiasset f s
    | 7 => Sys2Proof.Machine.execGsync f s
    | _ => .next s
  | 0x28 => match idx with
    | 0 => Sys2Proof.Machine.execPmrd f s
    | _ => .next s
  | _ => .next s

/-- A barge word runs. -/
def runBarge (op : Nat) (f : BargeForm) (s : State) : Out :=
  match op with
  | 0x00 => Sys2Proof.Machine.execBnop f s
  | 0x01 => Sys2Proof.Machine.execBend f s
  | 0x02 => Sys2Proof.Machine.execBmov f s
  | 0x03 => Sys2Proof.Machine.execBmovi f s
  | 0x04 => Sys2Proof.Machine.execBadd f s
  | 0x05 => Sys2Proof.Machine.execBsub f s
  | 0x06 => Sys2Proof.Machine.execBmul f s
  | 0x07 => Sys2Proof.Machine.execBshl f s
  | 0x08 => Sys2Proof.Machine.execBshr f s
  | 0x09 => Sys2Proof.Machine.execBand f s
  | 0x0A => Sys2Proof.Machine.execBor f s
  | 0x0B => Sys2Proof.Machine.execBcmp f s
  | 0x0C => Sys2Proof.Machine.execBbr f s
  | 0x0D => Sys2Proof.Machine.execBjmp f s
  | 0x0E => Sys2Proof.Machine.execBloop f s
  | 0x0F => Sys2Proof.Machine.execBldi f s
  | 0x10 => Sys2Proof.Machine.execBqin f s
  | 0x11 => Sys2Proof.Machine.execBqout f s
  | 0x12 => Sys2Proof.Machine.execBaddr f s
  | 0x13 => Sys2Proof.Machine.execBcopy f s
  | 0x14 => Sys2Proof.Machine.execBgath f s
  | 0x15 => Sys2Proof.Machine.execBscat f s
  | 0x16 => Sys2Proof.Machine.execBpool f s
  | 0x17 => if bits f.x.toNat 11 2 = 1 then Sys2Proof.Machine.execBarrSc f s else Sys2Proof.Machine.execBarrNb f s
  | 0x18 => Sys2Proof.Machine.execBsem f s
  | 0x19 => if bits f.x.toNat 11 2 = 1 then Sys2Proof.Machine.execBwaitSc f s else if bits f.x.toNat 11 2 = 2 then Sys2Proof.Machine.execBwaitNb f s else Sys2Proof.Machine.execBwait f s
  | 0x1A => Sys2Proof.Machine.execBfence f s
  | 0x1B => Sys2Proof.Machine.execBtok f s
  | _ => .next s

/-- Run an encoding. -/
def runEnc (e : Enc) (s : State) : Out :=
  match e with
  | .step => .next s
  | .base major idx f => runBase major idx f s
  | .ext major idx f => runExt major idx f s
  | .barge op f => runBarge op f s

end Sys2Proof.Machine
end

