-- ==== Sys2Proof/Machine/Path.lean ====
section
/-! DEFINITION. A path of a group issues its next instruction (R138 to R143): what keeps it from issuing, breakpoints (R323), and how the
halts that it causes settle (R310, R311, R324). -/

namespace Sys2Proof.Machine

open Sys2Proof

/-- The state a meaning answers with; a meaning that stops leaves the state as it was. -/
def Out.orElse (o : Out) (s : State) : State :=
  match o with
  | .next t => t
  | .fault _ => s
  | .refused _ => s

/-! ### Halts settle (R311, R323, R324) -/

/-- A group whose skid is used up stops; one that has stopped stands as its team's halt says, once the entries selected with the one
that raised the cause have issued (R141, R310), and so does a double fault (R318); a step of one instruction ends. -/
def settleGroup (s : State) (k : Nat) : State :=
  let g := s.group k
  let t := s.team (teamOf k)
  let m : Mode := if t.debug then .debugStop else .halted
  if !g.picks.isEmpty && g.raisedNow then s
  else if g.dfault.isSome then doubleFault (s.modGroup k (fun g => { g with dfault := none })) k (g.dfault.getD 0)
  else if g.mode = .running && g.skidLeft = some 0 then stopGroup s k m
  else if g.mode = .running && t.stepping && g.stepLeft = 0 && !g.left then stopGroup s k .debugStop
  else if g.mode = .halted && g.raisedNow then stopGroup s k m
  else if g.mode = .halted && t.debug then stopGroup s k .debugStop
  else s

/-- Every group of a team. -/
def settleHalts (s : State) (team : Nat) : State := (groupsOf s team).foldl settleGroup s

/-! ### One path issues (R138 to R143) -/

/-- The group may issue one more instruction in this cycle (R141, R311). -/
def Group.mayIssue (g : Group) : Bool :=
  (g.runs || (g.raisedNow && g.mode = .halted)) && decide (g.issuedNow < 2) && !g.alone && g.skidLeft != some 0

/-- Causes that keep a path from its instruction are raised in lanes of the entry. -/
def raiseAt (s : State) (grp : Nat) (lanes : Lanes) (va hdr : Nat) (cs : Sparse Nat) (tok : Option (Nat × Nat)) : State :=
  (s.modSched (fun c => { c with cur := { c.cur with grp := grp, lanes := lanes, pc := va, npc := va, hdr := hdr } })).raise cs 0 tok false

/-- An instruction that issued: whether it issues alone, the words it used up, and the quadrant's cycle. -/
def afterIssue (s0 s : State) (grp va npc : Nat) (alone : Bool) : State :=
  if (s.group grp).issuedNow ≤ (s0.group grp).issuedNow then s
  else
    let quad := (s0.group grp).quad
    let s1 := s.modGroup grp (fun g => { g with
      alone := alone, fetched := g.fetched.filter (fun (p : Nat × Nat) => decide (p.1 < va) || decide (npc ≤ p.1)) })
    s1.modCore (coreOfGrp s0 grp) (fun c =>
      if quad ∈ c.served then c else { c with served := quad :: c.served, quadIssues := c.quadIssues + 1 })

/-- The sources of the instruction in hand are read (R112); a clause that begins with it has discarded the latches of its entry. -/
def readSources (s : State) (grp : Nat) (lanes : Lanes) (e : Enc) (begins : Bool) : State :=
  s.modGroup grp (fun g => Enc.latch e lanes (if begins then g.dropLatches lanes else g))

/-- An instruction that has not issued leaves the latches as they were. -/
def undoLatches (s0 s : State) (grp : Nat) : State :=
  if (s.group grp).issuedNow ≤ (s0.group grp).issuedNow then s.modGroup grp (fun g => { g with latches := (s0.group grp).latches }) else s

/-- The instruction in hand, decoded, issues for lanes of an entry; `begins` says that a clause begins with it. -/
def issueEnc (s : State) (grp : Nat) (lanes : Lanes) (va npc hdr : Nat) (begins : Bool) (e : Enc) : State :=
  if Enc.barred e (s.group grp) va lanes then s
  else
    let s1 := s.modSched (fun c => { c with cur := { c.cur with grp := grp, lanes := lanes, pc := va, npc := npc, hdr := hdr } })
    let s2 := undoLatches s ((runEnc e (readSources s1 grp lanes e begins)).orElse s) grp
    settleHalts (afterIssue s s2 grp va npc (Enc.alone e)) (teamOf grp)

/-- What the instruction in hand raises of its own as it issues; none where it does not issue now. -/
def ownCauses (s : State) (grp : Nat) (lanes : Lanes) (va npc hdr : Nat) (begins : Bool) (e : Enc) : Option CauseRec :=
  let alone := s.modGroup grp (fun g => { g with picks := [(va, lanes)], raisedNow := false, dfault := none })
  let g := (issueEnc alone grp lanes va npc hdr begins e).group grp
  if g.issuedNow ≤ (s.group grp).issuedNow then none
  else
    match g.dfault with
    | some c => some { cause := c, causes := causeAll lanes c }
    | none => some (if g.raisedNow then g.cause else {})

/-- The causes of an instruction at a breakpoint: each lane raises 17, or the cause it has of its own where that comes first (R170, R310,
R323, log 64). -/
def breakCauses (lanes : Lanes) (r : CauseRec) : Sparse Nat :=
  lanes.toList.map (fun i =>
    let c := Sparse.get 0 r.causes i
    (i, if c = 0 || Cause.breakpoint < c then Cause.breakpoint else c))

/-- An instruction at a breakpoint issues: it raises its causes and does nothing (R323). -/
def issueBroken (s : State) (grp : Nat) (lanes : Lanes) (va npc hdr : Nat) (begins : Bool) (e : Enc) : State :=
  match ownCauses s grp lanes va npc hdr begins e with
  | none => s
  | some r =>
    let tok := if r.tokv then some (r.token, r.tcause) else none
    settleHalts (afterIssue s (raiseAt s grp lanes va hdr (breakCauses lanes r) tok) grp va npc false) (teamOf grp)

/-- A path finds an instruction's first word: what keeps it from issuing comes first (R83, R90, R97, R170), then a breakpoint (R323). -/
def issueWord (s : State) (grp pc : Nat) (lanes : Lanes) (va hdr word : Nat) : State :=
  let g := s.group grp
  let npc := va + 4 * wordsOf (BitVec.ofNat 32 word)
  let lost := if va = pc then g.need &&& lanes else 0#32
  let stop := fun (s : State) (who : Lanes) (c : Nat) =>
    settleHalts (afterIssue s (raiseAt s grp lanes va hdr (causeAll who c) none) grp va npc false) (teamOf grp)
  if lost != 0#32 then stop s lost Cause.illegalInstruction
  else
    match instrAt s grp va word with
    | .error c => if c = 0 then s else stop s lanes c
    | .ok (none, s1) => stop s1 lanes Cause.illegalInstruction
    | .ok (some e, s1) =>
      if breakAt s1 grp va then issueBroken s1 grp lanes va npc hdr (va != pc) e else issueEnc s1 grp lanes va npc hdr (va != pc) e

/-- Lanes of an entry issue their next instruction. `asks` asks whether the entry is eligible (R140): the group as a whole may block
it. -/
def runEntry (s : State) (grp pc : Nat) (lanes : Lanes) (asks : Bool) : State :=
  let g := s.group grp
  if !(g.mayIssue && lanes != 0#32 && Lanes.sub lanes (g.entryLanes pc)) then s
  else
    match runHeaders grp headerFuel s pc (g.hdr (low lanes)) 0 with
    | .wait _ => s
    | .stop c va hdr s1 =>
      if asks && g.blocks va lanes then s
      else settleHalts (afterIssue s1 (raiseAt s1 grp lanes va hdr (causeAll lanes c) none) grp va va false) (teamOf grp)
    | .ready va hdr w s1 => if asks && g.blocks va lanes then s else issueWord s1 grp pc lanes va hdr w

/-- Turn `.path`: an entry that was selected in this cycle issues its instruction (R141). -/
def pathTurn (s : State) (grp pc : Nat) (lanes : Lanes) : State :=
  match (s.group grp).picks with
  | p :: ps =>
    if p = (pc, lanes) then runEntry (s.modGroup grp (fun g => { g with picks := ps })) grp pc lanes false else s
  | [] => s

/-! ### Address breakpoints (R323, R324) -/

/-- ADDRESS_BREAKPOINT (R323): the entry selected whose turn it is issues the instruction that a breakpoint of its team names. -/
def execAddressBreakpoint (grp : Nat) (s : State) : Out :=
  match (s.group grp).picks with
  | [] => .next s
  | (pc, lanes) :: _ =>
    match runHeaders grp headerFuel s pc ((s.group grp).hdr (low lanes)) 0 with
    | .ready va _ _ _ => if breakAt s grp va then .next (pathTurn s grp pc lanes) else .next s
    | _ => .next s

end Sys2Proof.Machine
end

