-- ==== Sys2Proof/Machine/Dispatch.lean ====
section
/-! DEFINITION. One arm for every instruction: a direct call of its meaning. -/

namespace Sys2Proof.Machine

open Sys2Proof

/-- What one instruction does. -/
def exec (i : Instr) (s : State) : Host.Outcome State Fault Refusal :=
  match i with
  | .reset => Sys2Proof.Machine.execReset s
  | .bootStageLoad stage version image => Sys2Proof.Machine.execBootStageLoad stage version image s
  | .thermalShutdown sensor deg => Sys2Proof.Machine.execThermalShutdown sensor deg s
  | .powerSample milliwatts => Sys2Proof.Machine.execPowerSample milliwatts s
  | .getMeasurements transport nonce => Sys2Proof.Machine.execGetMeasurements transport nonce s
  | .negotiateAlgorithms transport offers => Sys2Proof.Machine.execNegotiateAlgorithms transport offers s
  | .secureSession chainsToAnchor bothAuth => Sys2Proof.Machine.execSecureSession chainsToAnchor bothAuth s
  | .setPodIdentifier id => Sys2Proof.Machine.execSetPodIdentifier id s
  | .setExportSegment idx entry => Sys2Proof.Machine.execSetExportSegment idx entry s
  | .keySlotLoad slot key => Sys2Proof.Machine.execKeySlotLoad slot key s
  | .stationKeyLoad station dir key => Sys2Proof.Machine.execStationKeyLoad station dir key s
  | .ideKeyLoad port key => Sys2Proof.Machine.execIdeKeyLoad port key s
  | .setHdmKey slot => Sys2Proof.Machine.execSetHdmKey slot s
  | .setSpace3Window port base limit => Sys2Proof.Machine.execSetSpace3Window port base limit s
  | .setPrivilegeMask mask => Sys2Proof.Machine.execSetPrivilegeMask mask s
  | .setHotThreshold core deg => Sys2Proof.Machine.execSetHotThreshold core deg s
  | .setReserveMarks die high low => Sys2Proof.Machine.execSetReserveMarks die high low s
  | .setRetirementThreshold kind n => Sys2Proof.Machine.execSetRetirementThreshold kind n s
  | .setPowerLimit watts => Sys2Proof.Machine.execSetPowerLimit watts s
  | .dynamicCapacityExtent port add base len => Sys2Proof.Machine.execDynamicCapacityExtent port add base len s
  | .coreTemperatureReading core deg => Sys2Proof.Machine.execCoreTemperatureReading core deg s
  | .droopEvent core => Sys2Proof.Machine.execDroopEvent core s
  | .droopQuiet core => Sys2Proof.Machine.execDroopQuiet core s
  | .reserveGrow die => Sys2Proof.Machine.execReserveGrow die s
  | .reserveShrink die => Sys2Proof.Machine.execReserveShrink die s
  | .queueEnable q size val => Sys2Proof.Machine.execQueueEnable q size val s
  | .queueDisable q size val => Sys2Proof.Machine.execQueueDisable q size val s
  | .qtailWrite q size val => Sys2Proof.Machine.execQtailWrite q size val s
  | .registerWrite off size val => Sys2Proof.Machine.execRegisterWrite off size val s
  | .preEmpt q launchid => Sys2Proof.Machine.execPreEmpt q launchid s
  | .resume q launchid => Sys2Proof.Machine.execResume q launchid s
  | .cancel q launchid => Sys2Proof.Machine.execCancel q launchid s
  | .qcmdInvalidOp q op launchid => Sys2Proof.Machine.execQcmdInvalidOp q op launchid s
  | .halt => Sys2Proof.Machine.execHalt s
  | .debugResume => Sys2Proof.Machine.execDebugResume s
  | .readRegister => Sys2Proof.Machine.execReadRegister s
  | .writeRegister => Sys2Proof.Machine.execWriteRegister s
  | .forceWrite => Sys2Proof.Machine.execForceWrite s
  | .readSpecial => Sys2Proof.Machine.execReadSpecial s
  | .deliver => Sys2Proof.Machine.execDeliver s
  | .setBreakpoint => Sys2Proof.Machine.execSetBreakpoint s
  | .step => Sys2Proof.Machine.execStep s
  | .unclaimedRequest addr => Sys2Proof.Machine.execUnclaimedRequest addr s
  | .hostHdmRead off => Sys2Proof.Machine.execHostHdmRead off s
  | .hostHdmWrite off data mask => Sys2Proof.Machine.execHostHdmWrite off data mask s
  | .hostWriteBack off data => Sys2Proof.Machine.execHostWriteBack off data s
  | .bisnpReceived port off after => Sys2Proof.Machine.execBisnpReceived port off after s
  | .hostSnoop addr inv after => Sys2Proof.Machine.execHostSnoop addr inv after s
  | .ringEntryRead q => Sys2Proof.Machine.execRingEntryRead q s
  | .launchTake q => Sys2Proof.Machine.execLaunchTake q s
  | .edgeSatisfy launch edge => Sys2Proof.Machine.execEdgeSatisfy launch edge s
  | .dispatchBegin q => Sys2Proof.Machine.execDispatchBegin q s
  | .clusterRequest die col row => Sys2Proof.Machine.execClusterRequest die col row s
  | .clusterRelease cluster => Sys2Proof.Machine.execClusterRelease cluster s
  | .launchComplete launch => Sys2Proof.Machine.execLaunchComplete launch s
  | .racqGrant core => Sys2Proof.Machine.execRacqGrant core s
  | .mwaitDeadline grp mask => Sys2Proof.Machine.execMwaitDeadline grp mask s
  | .specialFunctionLand op => Sys2Proof.Machine.execSpecialFunctionLand op s
  | .shuffleLand op => Sys2Proof.Machine.execShuffleLand op s
  | .scratchpadLoadLand op => Sys2Proof.Machine.execScratchpadLoadLand op s
  | .scratchpadAtomicLand op => Sys2Proof.Machine.execScratchpadAtomicLand op s
  | .queueReadLand op => Sys2Proof.Machine.execQueueReadLand op s
  | .postedWriteLand op lane => Sys2Proof.Machine.execPostedWriteLand op lane s
  | .cputIncrement op team => Sys2Proof.Machine.execCputIncrement op team s
  | .heldOperationStart op => Sys2Proof.Machine.execHeldOperationStart op s
  | .globalAccessRetire op => Sys2Proof.Machine.execGlobalAccessRetire op s
  | .dieScratchpadRetire op => Sys2Proof.Machine.execDieScratchpadRetire op s
  | .chamberArrive op => Sys2Proof.Machine.execChamberArrive op s
  | .ackLost op => Sys2Proof.Machine.execAckLost op s
  | .watchdog grp => Sys2Proof.Machine.execWatchdog grp s
  | .addressBreakpoint grp => Sys2Proof.Machine.execAddressBreakpoint grp s
  | .handlerEntry grp => Sys2Proof.Machine.execHandlerEntry grp s
  | .pageWalk core asid va kind => Sys2Proof.Machine.execPageWalk core asid va kind s
  | .runAheadFetch core asid va => Sys2Proof.Machine.execRunAheadFetch core asid va s
  | .efStoreForward agent => Sys2Proof.Machine.execEfStoreForward agent s
  | .gaStoreAcknowledge op k => Sys2Proof.Machine.execGaStoreAcknowledge op k s
  | .wcEntryTimeout core peer line => Sys2Proof.Machine.execWcEntryTimeout core peer line s
  | .sluiceWindow core => Sys2Proof.Machine.execSluiceWindow core s
  | .matrixOperationStart core => Sys2Proof.Machine.execMatrixOperationStart core s
  | .matrixOperationRetire core => Sys2Proof.Machine.execMatrixOperationRetire core s
  | .mmacRendezvous cluster tile => Sys2Proof.Machine.execMmacRendezvous cluster tile s
  | .mmacMulticastLanded cluster tile => Sys2Proof.Machine.execMmacMulticastLanded cluster tile s
  | .tileStoreZeroed core => Sys2Proof.Machine.execTileStoreZeroed core s
  | .matrixQueuePark core => Sys2Proof.Machine.execMatrixQueuePark core s
  | .bargeFault barge => Sys2Proof.Machine.execBargeFault barge s
  | .bargePark barge => Sys2Proof.Machine.execBargePark barge s
  | .accPerform slot => Sys2Proof.Machine.execAccPerform slot s
  | .closePerform slot => Sys2Proof.Machine.execClosePerform slot s
  | .nmvRun op => Sys2Proof.Machine.execNmvRun op s
  | .qflushRetire op => Sys2Proof.Machine.execQflushRetire op s
  | .putRetire op fail => Sys2Proof.Machine.execPutRetire op fail s
  | .remoteAccessRetire op fail data => Sys2Proof.Machine.execRemoteAccessRetire op fail data s
  | .incomingPodRequest req => Sys2Proof.Machine.execIncomingPodRequest req s
  | .stationStop station => Sys2Proof.Machine.execStationStop station s
  | .stationStart station => Sys2Proof.Machine.execStationStart station s
  | .flitAuthFailure station => Sys2Proof.Machine.execFlitAuthFailure station s
  | .stationNonceExhausted station => Sys2Proof.Machine.execStationNonceExhausted station s
  | .clplanRun op => Sys2Proof.Machine.execClplanRun op s
  | .clgoRendezvous op => Sys2Proof.Machine.execClgoRendezvous op s
  | .chunkArrival op pos chunk data => Sys2Proof.Machine.execChunkArrival op pos chunk data s
  | .planAbort op cause => Sys2Proof.Machine.execPlanAbort op cause s
  | .abortNoticeArrival tag sender cause => Sys2Proof.Machine.execAbortNoticeArrival tag sender cause s
  | .clgoComplete op => Sys2Proof.Machine.execClgoComplete op s
  | .rringRun op => Sys2Proof.Machine.execRringRun op s
  | .rringPacketArrival packet => Sys2Proof.Machine.execRringPacketArrival packet s
  | .hubLinkFailure die => Sys2Proof.Machine.execHubLinkFailure die s
  | .hubLinkRestored die => Sys2Proof.Machine.execHubLinkRestored die s
  | .laneRetirement kind idx width => Sys2Proof.Machine.execLaneRetirement kind idx width s
  | .coreRetire core => Sys2Proof.Machine.execCoreRetire core s
  | .coreRetirementComplete core => Sys2Proof.Machine.execCoreRetirementComplete core s
  | .coreUncorrectable core => Sys2Proof.Machine.execCoreUncorrectable core s
  | .sliceFlush die slice unreadable => Sys2Proof.Machine.execSliceFlush die slice unreadable s
  | .sliceMapSwitch die => Sys2Proof.Machine.execSliceMapSwitch die s
  | .coreMapAdopt core => Sys2Proof.Machine.execCoreMapAdopt core s
  | .sliceEnd die => Sys2Proof.Machine.execSliceEnd die s
  | .hbmRowRetire stack row => Sys2Proof.Machine.execHbmRowRetire stack row s
  | .hbmBankRetire stack bank => Sys2Proof.Machine.execHbmBankRetire stack bank s
  | .biasFlipHost granule => Sys2Proof.Machine.execBiasFlipHost granule s
  | .biasFlipDevice granule => Sys2Proof.Machine.execBiasFlipDevice granule s
  | .iadd f => Sys2Proof.Machine.execIadd f s
  | .iaddX f => Sys2Proof.Machine.execIaddX f s
  | .isub f => Sys2Proof.Machine.execIsub f s
  | .isubX f => Sys2Proof.Machine.execIsubX f s
  | .imul f => Sys2Proof.Machine.execImul f s
  | .imulX f => Sys2Proof.Machine.execImulX f s
  | .imad f => Sys2Proof.Machine.execImad f s
  | .imulh f => Sys2Proof.Machine.execImulh f s
  | .imin f => Sys2Proof.Machine.execImin f s
  | .imax f => Sys2Proof.Machine.execImax f s
  | .iabs f => Sys2Proof.Machine.execIabs f s
  | .ineg f => Sys2Proof.Machine.execIneg f s
  | .iaddc f => Sys2Proof.Machine.execIaddc f s
  | .and f => Sys2Proof.Machine.execAnd f s
  | .andX f => Sys2Proof.Machine.execAndX f s
  | .or f => Sys2Proof.Machine.execOr f s
  | .orX f => Sys2Proof.Machine.execOrX f s
  | .xor f => Sys2Proof.Machine.execXor f s
  | .xorX f => Sys2Proof.Machine.execXorX f s
  | .not f => Sys2Proof.Machine.execNot f s
  | .notX f => Sys2Proof.Machine.execNotX f s
  | .bfn3 f => Sys2Proof.Machine.execBfn3 f s
  | .shl f => Sys2Proof.Machine.execShl f s
  | .shlX f => Sys2Proof.Machine.execShlX f s
  | .shr f => Sys2Proof.Machine.execShr f s
  | .shrX f => Sys2Proof.Machine.execShrX f s
  | .sar f => Sys2Proof.Machine.execSar f s
  | .sarX f => Sys2Proof.Machine.execSarX f s
  | .rot f => Sys2Proof.Machine.execRot f s
  | .rotX f => Sys2Proof.Machine.execRotX f s
  | .popc f => Sys2Proof.Machine.execPopc f s
  | .clz f => Sys2Proof.Machine.execClz f s
  | .brev f => Sys2Proof.Machine.execBrev f s
  | .bfe f => Sys2Proof.Machine.execBfe f s
  | .bfi f => Sys2Proof.Machine.execBfi f s
  | .icmp f => Sys2Proof.Machine.execIcmp f s
  | .icmpX f => Sys2Proof.Machine.execIcmpX f s
  | .icmpc f => Sys2Proof.Machine.execIcmpc f s
  | .mov f => Sys2Proof.Machine.execMov f s
  | .movX f => Sys2Proof.Machine.execMovX f s
  | .movQueueWrite f => Sys2Proof.Machine.execMovQueueWrite f s
  | .movQueueRead f => Sys2Proof.Machine.execMovQueueRead f s
  | .nmPush f => Sys2Proof.Machine.execNmPush f s
  | .nmTake f => Sys2Proof.Machine.execNmTake f s
  | .sel f => Sys2Proof.Machine.execSel f s
  | .movs f => Sys2Proof.Machine.execMovs f s
  | .movsX f => Sys2Proof.Machine.execMovsX f s
  | .bcast f => Sys2Proof.Machine.execBcast f s
  | .bcastX f => Sys2Proof.Machine.execBcastX f s
  | .movp f => Sys2Proof.Machine.execMovp f s
  | .perm f => Sys2Proof.Machine.execPerm f s
  | .lea f => Sys2Proof.Machine.execLea f s
  | .leaX f => Sys2Proof.Machine.execLeaX f s
  | .fadd f => Sys2Proof.Machine.execFadd f s
  | .faddX f => Sys2Proof.Machine.execFaddX f s
  | .fmul f => Sys2Proof.Machine.execFmul f s
  | .fmulX f => Sys2Proof.Machine.execFmulX f s
  | .ffma f => Sys2Proof.Machine.execFfma f s
  | .fmin f => Sys2Proof.Machine.execFmin f s
  | .fminX f => Sys2Proof.Machine.execFminX f s
  | .fmax f => Sys2Proof.Machine.execFmax f s
  | .fsub f => Sys2Proof.Machine.execFsub f s
  | .fcmp f => Sys2Proof.Machine.execFcmp f s
  | .fcmpX f => Sys2Proof.Machine.execFcmpX f s
  | .fclass f => Sys2Proof.Machine.execFclass f s
  | .frcp f => Sys2Proof.Machine.execFrcp f s
  | .frcpX f => Sys2Proof.Machine.execFrcpX f s
  | .frsq f => Sys2Proof.Machine.execFrsq f s
  | .frsqX f => Sys2Proof.Machine.execFrsqX f s
  | .fsqrt f => Sys2Proof.Machine.execFsqrt f s
  | .fsqrtX f => Sys2Proof.Machine.execFsqrtX f s
  | .fexp2 f => Sys2Proof.Machine.execFexp2 f s
  | .fexp2X f => Sys2Proof.Machine.execFexp2X f s
  | .flog2 f => Sys2Proof.Machine.execFlog2 f s
  | .fsin f => Sys2Proof.Machine.execFsin f s
  | .fcos f => Sys2Proof.Machine.execFcos f s
  | .ftanh f => Sys2Proof.Machine.execFtanh f s
  | .hadd2 f => Sys2Proof.Machine.execHadd2 f s
  | .hadd2X f => Sys2Proof.Machine.execHadd2X f s
  | .hmul2 f => Sys2Proof.Machine.execHmul2 f s
  | .hmul2X f => Sys2Proof.Machine.execHmul2X f s
  | .hfma2 f => Sys2Proof.Machine.execHfma2 f s
  | .hmin2 f => Sys2Proof.Machine.execHmin2 f s
  | .hmin2X f => Sys2Proof.Machine.execHmin2X f s
  | .hmax2 f => Sys2Proof.Machine.execHmax2 f s
  | .dadd f => Sys2Proof.Machine.execDadd f s
  | .daddX f => Sys2Proof.Machine.execDaddX f s
  | .dmul f => Sys2Proof.Machine.execDmul f s
  | .dmulX f => Sys2Proof.Machine.execDmulX f s
  | .dfma f => Sys2Proof.Machine.execDfma f s
  | .dcmp f => Sys2Proof.Machine.execDcmp f s
  | .dcmpX f => Sys2Proof.Machine.execDcmpX f s
  | .dmin f => Sys2Proof.Machine.execDmin f s
  | .dmax f => Sys2Proof.Machine.execDmax f s
  | .cvt f => Sys2Proof.Machine.execCvt f s
  | .cvtX f => Sys2Proof.Machine.execCvtX f s
  | .cpack f => Sys2Proof.Machine.execCpack f s
  | .cpackX f => Sys2Proof.Machine.execCpackX f s
  | .cunpk f => Sys2Proof.Machine.execCunpk f s
  | .cunpkX f => Sys2Proof.Machine.execCunpkX f s
  | .frnd f => Sys2Proof.Machine.execFrnd f s
  | .frndX f => Sys2Proof.Machine.execFrndX f s
  | .shf f => Sys2Proof.Machine.execShf f s
  | .shfX f => Sys2Proof.Machine.execShfX f s
  | .shfup f => Sys2Proof.Machine.execShfup f s
  | .shfupX f => Sys2Proof.Machine.execShfupX f s
  | .shfdn f => Sys2Proof.Machine.execShfdn f s
  | .shfdnX f => Sys2Proof.Machine.execShfdnX f s
  | .shfx f => Sys2Proof.Machine.execShfx f s
  | .shfxX f => Sys2Proof.Machine.execShfxX f s
  | .vall f => Sys2Proof.Machine.execVall f s
  | .vallX f => Sys2Proof.Machine.execVallX f s
  | .vany f => Sys2Proof.Machine.execVany f s
  | .vanyX f => Sys2Proof.Machine.execVanyX f s
  | .vbal f => Sys2Proof.Machine.execVbal f s
  | .vbalX f => Sys2Proof.Machine.execVbalX f s
  | .vmatch f => Sys2Proof.Machine.execVmatch f s
  | .vmatchX f => Sys2Proof.Machine.execVmatchX f s
  | .vuni f => Sys2Proof.Machine.execVuni f s
  | .gred f => Sys2Proof.Machine.execGred f s
  | .gredX f => Sys2Proof.Machine.execGredX f s
  | .gscan f => Sys2Proof.Machine.execGscan f s
  | .gscanX f => Sys2Proof.Machine.execGscanX f s
  | .bra f => Sys2Proof.Machine.execBra f s
  | .braX f => Sys2Proof.Machine.execBraX f s
  | .brx f => Sys2Proof.Machine.execBrx f s
  | .brxX f => Sys2Proof.Machine.execBrxX f s
  | .call f => Sys2Proof.Machine.execCall f s
  | .callX f => Sys2Proof.Machine.execCallX f s
  | .ret f => Sys2Proof.Machine.execRet f s
  | .retX f => Sys2Proof.Machine.execRetX f s
  | .join f => Sys2Proof.Machine.execJoin f s
  | .leave f => Sys2Proof.Machine.execLeave f s
  | .mwait f => Sys2Proof.Machine.execMwait f s
  | .mwaitBounded f => Sys2Proof.Machine.execMwaitBounded f s
  | .elect f => Sys2Proof.Machine.execElect f s
  | .mset f => Sys2Proof.Machine.execMset f s
  | .mget f => Sys2Proof.Machine.execMget f s
  | .exit f => Sys2Proof.Machine.execExit f s
  | .exitX f => Sys2Proof.Machine.execExitX f s
  | .nop f => Sys2Proof.Machine.execNop f s
  | .nopX f => Sys2Proof.Machine.execNopX f s
  | .yield f => Sys2Proof.Machine.execYield f s
  | .yieldX f => Sys2Proof.Machine.execYieldX f s
  | .lds f => Sys2Proof.Machine.execLds f s
  | .ldsX f => Sys2Proof.Machine.execLdsX f s
  | .sts f => Sys2Proof.Machine.execSts f s
  | .stsX f => Sys2Proof.Machine.execStsX f s
  | .atms f => Sys2Proof.Machine.execAtms f s
  | .ldl f => Sys2Proof.Machine.execLdl f s
  | .ldlX f => Sys2Proof.Machine.execLdlX f s
  | .stl f => Sys2Proof.Machine.execStl f s
  | .stlX f => Sys2Proof.Machine.execStlX f s
  | .ldc f => Sys2Proof.Machine.execLdc f s
  | .stc f => Sys2Proof.Machine.execStc f s
  | .cput f => Sys2Proof.Machine.execCput f s
  | .atmc f => Sys2Proof.Machine.execAtmc f s
  | .ldd f => Sys2Proof.Machine.execLdd f s
  | .std f => Sys2Proof.Machine.execStd f s
  | .ldg f => Sys2Proof.Machine.execLdg f s
  | .stg f => Sys2Proof.Machine.execStg f s
  | .atg f => Sys2Proof.Machine.execAtg f s
  | .redg f => Sys2Proof.Machine.execRedg f s
  | .pref f => Sys2Proof.Machine.execPref f s
  | .cclean f => Sys2Proof.Machine.execCclean f s
  | .cinval f => Sys2Proof.Machine.execCinval f s
  | .twait f => Sys2Proof.Machine.execTwait f s
  | .ttest f => Sys2Proof.Machine.execTtest f s
  | .tsleep f => Sys2Proof.Machine.execTsleep f s
  | .texp f => Sys2Proof.Machine.execTexp f s
  | .tjoin f => Sys2Proof.Machine.execTjoin f s
  | .tclr f => Sys2Proof.Machine.execTclr f s
  | .tsig f => Sys2Proof.Machine.execTsig f s
  | .chini f => Sys2Proof.Machine.execChini f s
  | .charr f => Sys2Proof.Machine.execCharr f s
  | .chwait f => Sys2Proof.Machine.execChwait f s
  | .chtest f => Sys2Proof.Machine.execChtest f s
  | .nbarr f => Sys2Proof.Machine.execNbarr f s
  | .nbwait f => Sys2Proof.Machine.execNbwait f s
  | .nbsync f => Sys2Proof.Machine.execNbsync f s
  | .sinc f => Sys2Proof.Machine.execSinc f s
  | .sincX f => Sys2Proof.Machine.execSincX f s
  | .swait f => Sys2Proof.Machine.execSwait f s
  | .swaitX f => Sys2Proof.Machine.execSwaitX f s
  | .sread f => Sys2Proof.Machine.execSread f s
  | .sreadX f => Sys2Proof.Machine.execSreadX f s
  | .fence f => Sys2Proof.Machine.execFence f s
  | .tfence f => Sys2Proof.Machine.execTfence f s
  | .acqr f => Sys2Proof.Machine.execAcqr f s
  | .racq f => Sys2Proof.Machine.execRacq f s
  | .racqX f => Sys2Proof.Machine.execRacqX f s
  | .rrel f => Sys2Proof.Machine.execRrel f s
  | .rrelX f => Sys2Proof.Machine.execRrelX f s
  | .srd f => Sys2Proof.Machine.execSrd f s
  | .swr f => Sys2Proof.Machine.execSwr f s
  | .swrTok f => Sys2Proof.Machine.execSwrTok f s
  | .swrTokx f => Sys2Proof.Machine.execSwrTokx f s
  | .swrMxQ f => Sys2Proof.Machine.execSwrMxQ f s
  | .swrMxBudget f => Sys2Proof.Machine.execSwrMxBudget f s
  | .bgo f => Sys2Proof.Machine.execBgo f s
  | .bstop f => Sys2Proof.Machine.execBstop f s
  | .bres f => Sys2Proof.Machine.execBres f s
  | .bresLd f => Sys2Proof.Machine.execBresLd f s
  | .bstat f => Sys2Proof.Machine.execBstat f s
  | .mxres f => Sys2Proof.Machine.execMxres f s
  | .mxrel f => Sys2Proof.Machine.execMxrel f s
  | .mxsign f => Sys2Proof.Machine.execMxsign f s
  | .mma f => Sys2Proof.Machine.execMma f s
  | .mmac f => Sys2Proof.Machine.execMmac f s
  | .mxclr f => Sys2Proof.Machine.execMxclr f s
  | .mxld f => Sys2Proof.Machine.execMxld f s
  | .mxst f => Sys2Proof.Machine.execMxst f s
  | .mxscl f => Sys2Proof.Machine.execMxscl f s
  | .nmcfg f => Sys2Proof.Machine.execNmcfg f s
  | .nmv f => Sys2Proof.Machine.execNmv f s
  | .qpoll f => Sys2Proof.Machine.execQpoll f s
  | .qflush f => Sys2Proof.Machine.execQflush f s
  | .put f => Sys2Proof.Machine.execPut f s
  | .rld f => Sys2Proof.Machine.execRld f s
  | .ratom f => Sys2Proof.Machine.execRatom f s
  | .wcflush f => Sys2Proof.Machine.execWcflush f s
  | .clplan f => Sys2Proof.Machine.execClplan f s
  | .clgo f => Sys2Proof.Machine.execClgo f s
  | .rring f => Sys2Proof.Machine.execRring f s
  | .trap f => Sys2Proof.Machine.execTrap f s
  | .rttRes f => Sys2Proof.Machine.execRttRes f s
  | .rttEnd f => Sys2Proof.Machine.execRttEnd f s
  | .rttSave f => Sys2Proof.Machine.execRttSave f s
  | .brk f => Sys2Proof.Machine.execBrk f s
  | .csync f => Sys2Proof.Machine.execCsync f s
  | .icinv f => Sys2Proof.Machine.execIcinv f s
  | .tlbinv f => Sys2Proof.Machine.execTlbinv f s
  | .biasset f => Sys2Proof.Machine.execBiasset f s
  | .gsync f => Sys2Proof.Machine.execGsync f s
  | .pmrd f => Sys2Proof.Machine.execPmrd f s
  | .bnop f => Sys2Proof.Machine.execBnop f s
  | .bend f => Sys2Proof.Machine.execBend f s
  | .bmov f => Sys2Proof.Machine.execBmov f s
  | .bmovi f => Sys2Proof.Machine.execBmovi f s
  | .badd f => Sys2Proof.Machine.execBadd f s
  | .bsub f => Sys2Proof.Machine.execBsub f s
  | .bmul f => Sys2Proof.Machine.execBmul f s
  | .bshl f => Sys2Proof.Machine.execBshl f s
  | .bshr f => Sys2Proof.Machine.execBshr f s
  | .band f => Sys2Proof.Machine.execBand f s
  | .bor f => Sys2Proof.Machine.execBor f s
  | .bcmp f => Sys2Proof.Machine.execBcmp f s
  | .bbr f => Sys2Proof.Machine.execBbr f s
  | .bjmp f => Sys2Proof.Machine.execBjmp f s
  | .bloop f => Sys2Proof.Machine.execBloop f s
  | .bldi f => Sys2Proof.Machine.execBldi f s
  | .bqin f => Sys2Proof.Machine.execBqin f s
  | .bqout f => Sys2Proof.Machine.execBqout f s
  | .baddr f => Sys2Proof.Machine.execBaddr f s
  | .bcopy f => Sys2Proof.Machine.execBcopy f s
  | .bgath f => Sys2Proof.Machine.execBgath f s
  | .bscat f => Sys2Proof.Machine.execBscat f s
  | .bpool f => Sys2Proof.Machine.execBpool f s
  | .barrNb f => Sys2Proof.Machine.execBarrNb f s
  | .barrSc f => Sys2Proof.Machine.execBarrSc f s
  | .bsem f => Sys2Proof.Machine.execBsem f s
  | .bwait f => Sys2Proof.Machine.execBwait f s
  | .bwaitSc f => Sys2Proof.Machine.execBwaitSc f s
  | .bwaitNb f => Sys2Proof.Machine.execBwaitNb f s
  | .bfence f => Sys2Proof.Machine.execBfence f s
  | .btok f => Sys2Proof.Machine.execBtok f s
  | .longLatencyFlag grp flag => Sys2Proof.Machine.execLongLatencyFlag grp flag s
  | .birspiReceived granule line dirty => Sys2Proof.Machine.execBirspiReceived granule line dirty s
  | .memberRendezvous tag kind g sbytes sender => Sys2Proof.Machine.execMemberRendezvous tag kind g sbytes sender s
  | .portLinkTraining port cxl rate width => Sys2Proof.Machine.execPortLinkTraining port cxl rate width s

end Sys2Proof.Machine
end

