-- ==== Sys2Proof/Machine/Issue.lean ====
section
/-! DEFINITION. Whose turn it is (log 2): a quadrant selects a group (R49, R50) and its entries (R141), a barge executes, an operation is performed, a row of the device or the host happens, a cycle of a core or of a die's mesh ends.
`Step.lean` calls `turn`. Log 3: the turns taken when nobody names any. -/

namespace Sys2Proof.Machine

open Sys2Proof

/-! ### A quadrant selects a group (R49, R50) -/

/-- The group can be selected in this cycle. -/
def Group.selectable (g : Group) : Bool := g.active && !g.tried && !g.left && g.runs && g.live != 0#32

/-- The fields of a group that hold for one cycle are as at its beginning (R154: a group that has yielded is not selected). -/
def Group.newCycle (g : Group) : Group :=
  { g.keepLatches with
    tried := g.yielded, yielded := false, picks := [], issuedNow := 0, prot := [], late := [], raisedNow := false, alone := false
    flags0 := g.flags, fences := g.fences.map (fun x => { x with now := false }) }

/-- Whether an entry is eligible (R140), as the cycle finds it: it would issue, and whether alone. -/
def tryEntry (s : State) (k pc : Nat) : Option Bool :=
  let g := (runEntry s k pc ((s.group k).entryLanes pc) true).group k
  if g.issuedNow ≤ (s.group k).issuedNow then none else some g.alone

/-- The eligible entries of a group, ranked, each with whether it issues alone. -/
def eligible (s : State) (k : Nat) : List (Nat × Bool) :=
  (frontier s k).filterMap (fun pc => (tryEntry s k pc).map (fun a => (pc, a)))

/-- The entry that issues after the first one in its cycle: the next of the ranked ones that still issues then, unless it issues alone. What
the first has issued keeps it back only where one of a token, a flag, a queue or a list of held operations has no room for both, and then the
one after it is asked (R141, R171, log 13). -/
def secondEntry (s : State) (k : Nat) (lanes : Nat → Lanes) : List (Nat × Bool) → List Nat
  | [] => []
  | e :: es =>
    if e.2 then []
    else if ((runEntry s k e.1 (lanes e.1) false).group k).issuedNow ≤ (s.group k).issuedNow then secondEntry s k lanes es
    else [e.1]

/-- The entries that issue in one cycle (R141): the first, and unless it issues alone, one after it. -/
def selected (s : State) (k : Nat) : List Nat :=
  let lanes := (s.group k).entryLanes
  match eligible s k with
  | [] => []
  | e :: es =>
    if e.2 then [e.1]
    else e.1 :: secondEntry (runEntry (s.modGroup k (fun g => { g with picks := es.map (fun x => (x.1, lanes x.1)) })) k e.1 (lanes e.1) true) k lanes es

/-- The group that a quadrant's slot goes to in this cycle, with its selected entries (R50): the oldest active one with an eligible
entry. -/
def slotFor (s : State) (core quad : Nat) : Option (Nat × List Nat) :=
  if quad ∈ (s.core core).served then none
  else
    let ks := (quadGroups s core quad).filter (fun k => (s.group k).selectable && !(eligible s k).isEmpty)
    (oldest s ks).map (fun k => (k, selected s k))

/-- Instructions of which those of one cycle act in increasing `group.idx`: `bgo`, `bstop`, `bres` (R264), the queue forms of `mov` (R280, R343,
R344) and `nmcfg` (R350). -/
def Enc.inOrder (e : Enc) : Bool :=
  match e with
  | .ext major idx f => (major = 0x20 && idx ≤ 2) || (major = 0x24 && idx = 0) ||
      (major = 5 && idx = 0 && (isQueue f.d 0 63 || isQueue f.a 0 63))
  | _ => false

/-- One of the entries issues such an instruction. -/
def picksInOrder (s : State) (k : Nat) (pcs : List Nat) : Bool :=
  pcs.any (fun pc => match lookAt s k pc with
    | .ready va _ w s1 => match instrAt s1 k va w with
      | .ok (some e, _) => Enc.inOrder e
      | _ => false
    | _ => false)

/-- A quadrant whose group has to issue before group `k` does, which issues such an instruction: one of the same team with a lower
index that issues one in the same cycle. -/
def goesFirst (s : State) (core quad k : Nat) (pcs : List Nat) : Option Nat :=
  if !picksInOrder s k pcs then none
  else (rangeFrom 0 4).find? (fun q => q != quad && (match slotFor s core q with
    | some (j, ps) => teamOf j = teamOf k && decide (idxOf j < idxOf k) && picksInOrder s j ps
    | none => false))

/-- Turn `.issue`: the group that has the quadrant's slot issues its selected entries (R50, R141), after the group of another quadrant
where the order of one cycle's requests asks for it. -/
def issueTurn (s : State) (core quad : Nat) : State :=
  match slotFor s core quad with
  | none => s
  | some (k, pcs) =>
    match goesFirst s core quad k pcs with
    | some q => s.now [.issue core q, .issue core quad]
    | none =>
      let ps := pcs.map (fun pc => (pc, (s.group k).entryLanes pc))
      (s.modGroup k (fun g => { g with tried := true, picks := ps })).now (ps.map (fun p => Turn.path k p.1 p.2))

/-- Some entry of the group is eligible (R140), in a cycle of its own. -/
def canIssue (s : State) (k : Nat) : Bool :=
  let s0 := s.modGroup k Group.newCycle
  let g := s0.group k
  g.runs && g.live != 0#32 && !(eligible s0 k).isEmpty

/-! ### The end of a core's cycle -/

/-- A flag of a mask is long-latency (R51): by age, or set by a cluster-shared load or a queue read. -/
def longFlag (s : State) (k flags : Nat) : Bool :=
  (rangeFrom 0 12).any (fun f => bitOf flags f && (decide (f ∈ (s.group k).longFlags) ||
    s.ops.any (fun (p : Nat × Op) => p.2.grp = k && p.2.flag = some f && (p.2.kind = .queueRead || p.2.major = 0x15))))

/-- The conditions of R49 that belong to an instruction, met: no token of the group holds an operation or is armed, every semaphore of its
core suffices and nobody waits for it, the phases of its barrier waits have flipped, and its arrivals at chambers are applied. -/
def lifted (s : State) (k : Nat) : State :=
  let g := s.group k
  let idle := fun (p : Nat × Token) => (p.1, { p.2 with count := 0, armed := false })
  let s1 := s.setGroup k { g with
    toks := g.toks.map idle, htoks := g.htoks.map idle, nbWaits := g.nbWaits.map (fun w => (w.1, w.2.1, true)), semWaits := [] }
  let s2 := s1.modCore (coreOfGrp s k) (fun c => { c with sems := (rangeFrom 0 32).map (fun n => (n, 2 ^ 32 - 1)), semQueues := [] })
  { s2 with ops := s2.ops.filter (fun (p : Nat × Op) => !(p.2.grp = k && p.2.kind = .charr)) }

/-- A `chwait` whose phase has flipped, as the `chtest` that passes wherever it does. -/
def Enc.unphased (e : Enc) : Enc :=
  match e with
  | .ext major idx f => if major = 0x1A && idx = 2 then .ext major 3 (if altMod f then f else { f with d := 1671#11 }) else e
  | _ => e

/-- The instruction is an `mwait` whose mask another site holds. -/
def Enc.atHeldMask (e : Enc) (g : Group) (va : Nat) : Bool :=
  match e with
  | .ext major _ _ => major = 0x11 && Enc.barred e g va g.live
  | _ => false

/-- An entry waits in the sense of R51: on a long-latency flag, at a join mask held elsewhere, or on one of the conditions of R49 that belong
to an instruction: with those met it would issue. -/
def entryWaitsLong (s : State) (k pc : Nat) : Bool :=
  match lookAt s k pc with
  | .wait flags => longFlag s k flags
  | .stop _ _ _ _ => false
  | .ready va hdr w s1 =>
    let g := s.group k
    let lanes := g.entryLanes pc
    match instrAt s1 k va w with
    | .ok (some e, s2) =>
      let t := lifted (s2.modGroup k Group.newCycle) k
      Enc.atHeldMask e g va ||
        (!(t.group k).blocks va lanes &&
          decide (0 < ((issueEnc t k lanes va (va + 4 * wordsOf (BitVec.ofNat 32 w)) hdr (va != pc) (Enc.unphased e)).group k).issuedNow))
    | _ => false

/-- An active group waits in the sense of R51: it has no eligible entry, and one of them waits on a token, on a long-latency flag or on
another condition of R49. -/
def waitsLong (s : State) (k : Nat) : Bool :=
  let g := s.group k
  !canIssue s k && (g.parkedLanes != 0#32 || g.racq.isSome || g.sleep.isSome || (frontier s k).any (entryWaitsLong s k))

/-- Groups of a quadrant in one of its two sets. -/
def setOf (s : State) (core quad : Nat) (on : Bool) : List Nat := (quadGroups s core quad).filter (fun k => (s.group k).active = on)

/-- The oldest ready group of the pending set. -/
def nextPending (s : State) (core quad : Nat) : Option Nat := oldest s ((setOf s core quad false).filter (canIssue s))

/-- A group changes its set: its operand latches are discarded (R51). -/
def setActive (s : State) (k : Nat) (on : Bool) : State := s.modGroup k (fun g => { g with active := on, latches := [] })

/-- A group leaves the active set for the oldest ready pending group, if there is one (R51, R154). -/
def swapOut (core quad : Nat) (s : State) (k : Nat) : State :=
  match nextPending s core quad with
  | some j => setActive (setActive s k false) j true
  | none => s

/-- The sets of a quadrant at the end of a cycle: `racq` waiters and `yield`, waiting groups, and free room (R47, R51, R52, R154).
The model's choice where the spec is silent (log 77): a `racq` waiter stays active while its pending set is full. -/
def arrangeQuad (core : Nat) (s : State) (quad : Nat) : State :=
  let act := setOf s core quad true
  let asking := act.filter (fun k => (s.group k).racq.isSome)
  let s1 := asking.foldl (fun s k => if (setOf s core quad false).length < 8 then setActive s k false else s) s
  let s2 := (act.filter (fun k => (s.group k).yielded || waitsLong s k)).foldl (fun s k =>
    if (s.group k).active then swapOut core quad s k else s) s1
  (rangeFrom 0 8).foldl (fun s _ =>
    if (setOf s core quad true).length < 8 then
      match nextPending s core quad with
      | some j => setActive s j true
      | none => s
    else s) s2

/-- Counters 1 to 3 of `pmrd` and the watchdog's count (R322, R330). -/
def countCycle (s : State) (k : Nat) : State :=
  let g := s.group k
  if g.left then s
  else
    let ready := g.issuedNow = 0 && canIssue s k
    s.modGroup k (fun g => { g with
      resident := g.resident + 1
      unselected := g.unselected + bit ready
      ineligible := g.ineligible + bit (g.issuedNow = 0 && !ready)
      idle := if g.runs && g.live != 0#32 && g.issuedNow = 0 then g.idle + 1 else g.idle })

/-- No halt of any kind is in course in the team: each of its groups runs in ordinary mode. -/
def undisturbed (s : State) (team : Nat) : Bool :=
  (liveGroupsOf s team).all (fun k => (s.group k).mode = .running && (s.group k).skidLeft.isNone) && !(s.team team).stepping

/-- Step 1 of R320: every group of a team whose launch is being pre-empted stops, and the write-combining buffer drains. -/
def stopForPreempt (s : State) (team : Nat) : State :=
  if (s.launch (launchOfTeam team)).halting && undisturbed s team then
    let s1 := (liveGroupsOf s team).foldl (fun s k =>
      if (s.group k).live = 0#32 then dropDead s k
      else (stopGroup s k .halted).modGroup k (fun g => { g with entPreempt := true, entResume := false, cause := {}, skid := 0 })) s
    drainNow (s1.modTeam team (fun t => { t with cause := 0, origin := 0 })) (s.team team).core (fun _ => true)
  else s

/-- What the end of a cycle brings to a group: its masks settle (R151), it leaves (R154), flags grow old (R51), its watchdog
(R322). -/
def tickGroup (s : State) (k : Nat) : State :=
  let core := coreOfGrp s k
  let s1 := if (s.group k).runs then s.modGroup k (fun g => g.settleAll (s.cycle core)) else s
  let s2 := countCycle (groupExit s1 k) k
  let s3 := (rangeFrom 0 12).foldl (fun s f => (execLongLatencyFlag k f s).orElse s) s2
  (execWatchdog k s3).orElse s3

/-- A sibling that a halt finds without an instruction to issue stops now (R311); a step leaves a blocked group where it is (R324). -/
def stopIdle (s : State) (k : Nat) : State :=
  let g := s.group k
  let t := s.team (teamOf k)
  let m : Mode := if t.debug then .debugStop else .halted
  if g.mode = .running && g.skidLeft.isSome && g.issuedNow = 0 && !canIssue s k then stopGroup s k m
  else if g.mode = .running && t.stepping && !g.left && !canIssue s k then stopGroup s k .debugStop
  else s

/-- Exports armed on tokens that are idle are tried again (R177). -/
def retryExports (s : State) (k : Nat) : State :=
  (rangeFrom 0 16).foldl (fun s t => tryExport (tryExport s k true t) k false t) s

/-- What the end of a cycle brings to a team. -/
def tickTeam (s : State) (team : Nat) : State :=
  let s1 := settleCsync (settleBarriers s team) team
  let s2 := (groupsOf s1 team).foldl tickGroup s1
  let s3 := settleHalts ((groupsOf s2 team).foldl stopIdle s2) team
  let s4 := stopForPreempt (raiseHeld s3 team) team
  tryReclaim ((groupsOf s4 team).foldl retryExports s4) team

/-- Turn `.tick`: a cycle of a core ends. -/
def tickTurn (s : State) (core : Nat) : State :=
  let ts := teamsOn s core
  let s1 := ts.foldl tickTeam s
  let s2 := ((ts.map launchOfTeam).eraseDups).foldl settleGrid s1
  let s3 := wcSettle (engineCycle (grantPool (grantSpare s2 core) core) core) core
  let s4 := ((s3.core core).wc).foldl (fun s e => (execWcEntryTimeout core e.peer e.line s).orElse s) s3
  let s5 := (rangeFrom 0 4).foldl (arrangeQuad core) s4
  let s6 := (groupsOn s5 core).foldl (fun s k => s.modGroup k Group.newCycle) s5
  let s7 := loseOverdue (s6.modCore core (fun c => { c with served := [], returned := 0 })) core
  newWindow (s7.modSched (fun c => { c with cycles := Sparse.set 0 c.cycles core (Sparse.get 0 c.cycles core + 1) })) core

/-! ### The end of a mesh cycle (R44, R257) -/

/-- Teams of queue 63 that wait for a core (R44): of clusters not yet placed, of saved ones that are to run again, and reduce teams
(R374). -/
def queueDepth (s : State) : Nat :=
  ((Sparse.get [] s.work.order 63).map (fun k =>
    let l := s.launch k
    let back := (s.work.clusters.filter (fun (p : Nat × Cluster) => p.2.launch = k && p.2.saved && l.stage = .running)).length
    if l.stage = .complete || l.outcome.isSome then 0 else (l.clusters - l.next + back) * l.w * l.h)).sum +
    (s.fabric.reduces.filter (fun r => r.core.isNone)).length

/-- Turn `.mesh`: runs above the high mark and below the low mark, and the quiet run of a slice that ends. -/
def meshTurn (s : State) (die : Nat) : State :=
  let n := queueDepth s
  let s1 := s.modDie die (fun d => { d with
    above := if d.high < n then d.above + 1 else 0, below := if n < d.low then d.below + 1 else 0 })
  quietCycle s1 die

/-! ### Other turns -/

/-- A word may be fetched ahead of its issue (R250): as a run-ahead fetch, with no fault and no mark. -/
def fetchAhead (s : State) (grp va : Nat) : State :=
  let core := coreOfGrp s grp
  let asid := asidOfGrp s grp
  if !(s.group grp).runs || va % 4 ≠ 0 || 2 ^ 57 ≤ va || Sparse.get 0 (s.group grp).fetched va ≠ 0 then s
  else
    let s1 := (execRunAheadFetch core asid va s).orElse s
    match aheadLeaf s1 core asid va with
    | none => s1
    | some (t, _) => match codeHeld s1 core asid va (t.phys va) (s1.leafKey t) with
      | some w => s1.modGroup grp (fun g => { g with fetched := Sparse.set 0 g.fetched va (w + 1) })
      | none => s1

/-- A barge may fetch a word ahead of its execution (R250, R268). -/
def fetchBarge (s : State) (b va : Nat) : State :=
  let x := s.barge b
  if !(x.mode = .running || x.mode = .waiting) || va % 8 ≠ 0 || 2 ^ 57 ≤ va then s
  else
    match aheadLeaf s (coreOfBarge s b) (asidOfBarge s b) va with
    | none => s
    | some (t, s1) =>
      if (wordKept s1 b t va).isSome then s1
      else
        match wordBehind s1 b t va with
        | .error _ => s
        | .ok (w, s2) => keepWord s2 b t va w

/-- A barge executes its next instruction, or takes what it found in its way (R262, R284). -/
def bargeTurn (s : State) (b : Nat) : State :=
  match bargeLook s b with
  | .rest s1 => s1
  | .run op f s1 => (runEnc (.barge op f) s1).orElse s

/-- A die's copy of a line is dropped, if no store of it is still to be forwarded (R228). -/
def evictLine (s : State) (line die : Nat) : State :=
  if s.mem.unforwarded line die || s.mem.gaPending line die then s else s.modMem (fun m => m.setCopy line die {})

/-- The k-th invalidation reaches its die (R228). -/
def takeInval (s : State) (k : Nat) : State :=
  match s.mem.invals[k]? with
  | none => payOwed s
  | some v => payOwed (s.modMem (fun m => { m.invalidate v.line v.die with invals := m.invals.eraseIdx k }))

/-- The k-th reduce team is placed on a core that may take it, or runs on the core it has (R374). -/
def reduceTurn (s : State) (k core : Nat) : State :=
  match s.fabric.reduces[k]? with
  | none => s
  | some r =>
    match r.core with
    | some _ => runReduce s r
    | none =>
      if reduceFits s core then
        s.modFabric (fun f => { f with reduces := f.reduces.modify k (fun r => { r with core := some core }) })
      else s

/-- One turn. A row of the device or the host has its own meaning. -/
def turn (t : Turn) (s : State) : Out :=
  match t with
  | .event e => exec e s
  | .issue core quad => .next (issueTurn s core quad)
  | .path grp pc lanes => .next (pathTurn s grp pc lanes)
  | .barge b => .next (bargeTurn s b)
  | .copy b k n => .next (copyTurn s b k n)
  | .perform op k => .next (performTurn s op k)
  | .invalidate k => .next (takeInval s k)
  | .evict line die => .next (evictLine s line die)
  | .evictTlb k => .next (s.modXlat (fun x => { x with tlb := x.tlb.eraseIdx k }))
  | .evictWalk k => .next (s.modXlat (fun x => { x with walk := x.walk.eraseIdx k }))
  | .evictWord k => .next (s.modXlat (fun x => { x with code := x.code.eraseIdx k }))
  | .evictBarge b => .next (s.modBarge b (fun x => { x with code := [] }))
  | .walkEnd k => .next (s.modXlat (fun x => { x with walks := x.walks.eraseIdx k }))
  | .fetch grp va => .next (fetchAhead s grp va)
  | .fetchBarge b va => .next (fetchBarge s b va)
  | .reduce k core => .next (reduceTurn s k core)
  | .tick core => .next (tickTurn s core)
  | .mesh die => .next (meshTurn s die)
  | .landed core k => .next (landEntry s core k)
  | .hostModify off data => .next (hostModify s off data)
  | .hostReply k => .next (hostReply s k)
  | .hostMemory line data => .next (hostMemory s line data)
  | .devicePoison sector => .next (devicePoison s sector)
  | .hdmDecoder value => .next (setDecoder s value)
  | .badSector sector => .next (badSector s sector)
  | .badExit k => .next (badExit s k)
  | .badEgress core k => .next (badEgress s core k)
  | .waiting => .next (waitingTurn s)
  | .unitError kind unit => .next (countError s kind unit)
  | .unitFailure kind unit => .next (strikeUnit s kind unit)
  | .askingFrom path => .next (askFrom s path)
  | .sessionEnd path => .next (endSession s path)

/-! ### Turns where nobody names any (log 3) -/

/-- Every part of the remote operation comes back to the package's own memory, so that no peer's answer is needed. -/
def loopsBack (s : State) (o : Op) : Bool :=
  o.podParts.all (fun p => match o.physOf p.1 with
    | some pa => ownPeer s pa
    | none => true)

/-- What an outstanding operation can do next. -/
def opTurns (s : State) (id : Nat) (o : Op) : List Turn :=
  if o.result.isSome then []
  else if o.held then [.event (.heldOperationStart id)]
  else match o.kind with
    | .special => [.event (.specialFunctionLand id)]
    | .shuffle => [.event (.shuffleLand id)]
    | .load => [.event (.scratchpadLoadLand id)]
    | .atom => [.event (.scratchpadAtomicLand id)]
    | .queueRead => [.event (.queueReadLand id)]
    | .posted => o.lanes.map (fun i => .event (.postedWriteLand id i)) ++ (cputTeams s o).map (fun t => .event (.cputIncrement id t))
    | .charr => [.event (.chamberArrive id)]
    | .dieScratch => [.perform id 128, .event (.dieScratchpadRetire id)]
    | .nmv => [.event (.nmvRun id)]
    | .qflush => [.event (.qflushRetire id)]
    | .clplan => [.event (.clplanRun id)]
    | .clgo => [.event (.clgoRendezvous id), .event (.clgoComplete id)]
    | .rring => [.event (.rringRun id)]
    | .put =>
      if (s.core o.core).wc.all (fun e => !decide (id ∈ e.ops) || some e.peer = s.fabric.podId) then [.event (.putRetire id none)] else []
    | .rld => if loopsBack s o then [.event (.remoteAccessRetire id none [])] else []
    | .ratom => if loopsBack s o then [.event (.remoteAccessRetire id none [])] else []
    | .wcflush => [.event (.remoteAccessRetire id none [])]
    | .tjoin => []
    | .tsig => []
    | .bargeRun => []
    | .bstop => []
    | .bres => []
    | .matrix => []
    | _ => [.perform id 128, .event (.globalAccessRetire id)]

/-- What a core's matrix engine and its groups can do next besides issuing. -/
def coreTurns (s : State) (core : Nat) : List Turn :=
  let e := s.engine core
  let mx : List Turn := if e.queue.isEmpty then [] else [.event (.matrixOperationStart core), .event (.matrixOperationRetire core), .event (.matrixQueuePark core)]
  let zero : List Turn := if e.zeroing then [.event (.tileStoreZeroed core)] else []
  let stopped := (groupsOn s core).filter (fun k => (s.group k).mode = .halted && (s.group k).live != 0#32)
  let bs := ((teamsOn s core).flatMap bargesOf).filter (fun b => (s.barge b).mode != .idle)
  let ofBarge := fun (b : Nat) =>
    let x := s.barge b
    (rangeFrom 0 x.flight.length).map (fun k => Turn.copy b k 4096) ++
      (if x.pending.isSome || x.flight.any (fun c => c.fault.isSome) then [Turn.event (.bargeFault b)] else []) ++
      (if x.busy then [Turn.barge b] else []) ++ [Turn.event (.bargePark b)]
  (if (teamsOn s core).isEmpty then [] else (rangeFrom 0 4).map (Turn.issue core)) ++ bs.flatMap ofBarge ++ mx ++ zero ++
    stopped.map (fun k => .event (.handlerEntry k)) ++ (if (teamsOn s core).isEmpty && !e.zeroing then [] else [.tick core])

/-- What the command processor can do next. -/
def workTurns (s : State) : List Turn :=
  let qs := (rangeFrom 0 64).filter (queueEnabled s)
  let ls := (s.work.launches.filter (fun (p : Nat × Launch) => p.2.stage != .complete)).map (fun p => p.1)
  let cs := s.work.clusters.filter (fun (p : Nat × Cluster) => p.2.placed && !p.2.saved && !p.2.released)
  let place := (rangeFrom 0 16).filterMap (fun d =>
    match chosenQueue s d with
    | none => none
    | some q => match offer s q d with
      | none => none
      | some (k, clu) =>
        ((rangeFrom 0 16).flatMap (fun c => (rangeFrom 0 8).map (fun r => (c, r)))).find? (fun p => rectFits s k clu d p.1 p.2) |>.map
          (fun p => Turn.event (.clusterRequest d p.1 p.2)))
  (qs.filter (fun q => queueHead s q != queueTail s q || Sparse.get 0 s.work.taking q != 0)).flatMap (fun q => [.event (.ringEntryRead q), .event (.launchTake q)]) ++
    ls.flatMap (fun k => (rangeFrom 0 (s.launch k).edgeList.length).map (fun e => .event (.edgeSatisfy k e))) ++
    (((rangeFrom 0 64).filter (fun q => (headLaunch s q).isSome)).map (fun q => .event (.dispatchBegin q))) ++ place.take 1 ++
    cs.map (fun p => .event (.clusterRelease p.1)) ++ ls.map (fun k => .event (.launchComplete k))

/-- What memory can do next (R228, R229): invalidations arrive, stores are forwarded and acknowledged. -/
def memTurns (s : State) : List Turn :=
  (if s.mem.invals.isEmpty && s.fabric.owed.isEmpty then [] else [.invalidate 0]) ++
    ((s.mem.fwd.map (fun (st : Store) => st.agent)).eraseDups).map (fun a => .event (.efStoreForward a)) ++
    s.mem.gaPend.map (fun (st : Store) => .event (.gaStoreAcknowledge st.op st.part))

/-- What the rest of the package can do next. -/
def deviceTurns (s : State) : List Turn :=
  (if s.host.waiting.isEmpty then [] else [.waiting]) ++ (if s.host.backInv.isEmpty then [] else [.hostReply 0]) ++
  s.host.flips.map (fun f => if f.toHost then .event (.biasFlipHost f.granule) else .event (.biasFlipDevice f.granule)) ++
    (s.near.slots.filter (fun (p : Nat × Slot) => !p.2.cmds.isEmpty)).flatMap (fun p => [.event (.accPerform p.1), .event (.closePerform p.1)]) ++
    (if s.fabric.transit.isEmpty then [] else [.event (.rringPacketArrival 0)]) ++
    (s.cores.filter (fun (p : Nat × Core) => p.2.marked && !p.2.retired)).map (fun p => .event (.coreRetirementComplete p.1)) ++
    (s.cores.filter (fun (p : Nat × Core) => p.2.drooping)).map (fun p => .event (.droopQuiet p.1)) ++
    (s.xlat.slices.filter (fun (p : Nat × SliceState) => p.2.phase != 0)).flatMap (fun p =>
      [.event (.sliceMapSwitch p.1)] ++ (rangeFrom (128 * p.1) 128).map (fun c => .event (.coreMapAdopt c)) ++ [.event (.sliceEnd p.1)]) ++
    (match mailCode s with
      | 0 => []
      | 1 => [.event .halt]
      | 2 => [.event .debugResume]
      | 3 => [.event .readRegister]
      | 4 => [.event .writeRegister]
      | 5 => [.event .forceWrite]
      | 6 => [.event .readSpecial]
      | 7 => [.event .deliver]
      | 8 => [.event .setBreakpoint]
      | 9 => [.event .step]
      | _ => [])

/-- Dies whose reserve, queue depth or slices make their mesh cycles count. -/
def meshTurns (s : State) : List Turn :=
  let n := queueDepth s
  ((rangeFrom 0 16).filter (fun d =>
    let x := s.die d
    decide (x.high < n) || (x.reserve != 0 && decide (n < x.low)) || decide (markRun ≤ x.above) || (s.slice d).phase = 2)).flatMap (fun d =>
      [.event (.reserveGrow d), .event (.reserveShrink d), .mesh d])

/-- Turns of reduce teams: a waiting one goes to the first core that may take it. -/
def reduceTurns (s : State) : List Turn :=
  ((rangeFrom 0 s.fabric.reduces.length).zip s.fabric.reduces).filterMap (fun p =>
    if p.2.core.isSome then some (.reduce p.1 0)
    else ((rangeFrom 0 coreCount).find? (reduceFits s)).map (fun c => .reduce p.1 c))

/-- Tiles of clusters that announce an `mmac`. -/
def tileTurns (s : State) : List Turn :=
  (s.work.clusters.filter (fun (p : Nat × Cluster) => p.2.placed && !p.2.saved && !p.2.released)).flatMap (fun p =>
    let ts := (teamsOfCluster s p.1).filterMap (announcedBy s)
    ((ts.map (fun q => bits q.shape 20 8)).eraseDups).flatMap (fun t =>
      [.event (.mmacRendezvous p.1 t), .event (.mmacMulticastLanded p.1 t)]))

/-- A round of everything the package can do by itself; nothing where it is idle. -/
def round (s : State) : List Turn :=
  workTurns s ++ ((s.cores.map (fun (p : Nat × Core) => p.1) ++ s.teams.filterMap (fun (p : Nat × Team) => if p.2.resident then some p.2.core else none)).eraseDups).flatMap (coreTurns s) ++
    s.ops.flatMap (fun (p : Nat × Op) => opTurns s p.1 p.2) ++ memTurns s ++ tileTurns s ++ reduceTurns s ++ deviceTurns s ++ meshTurns s

/-- The agenda; a round where it is empty. -/
def agendaOf (s : State) : List Turn :=
  match s.sched.agenda with
  | [] => round s
  | a => a

/-- A package without power runs again after a reset alone (R408, R416). -/
def Turn.isReset (t : Turn) : Bool :=
  match t with
  | .event .reset => true
  | _ => false

/-! ### A program placed by hand (log 9) -/

/-- The launch of a placed program: one team of one group that may name every register, in a privileged queue. -/
def placedLaunch : Launch :=
  { stage := .running, clusters := 1, full := 1536, scalars := 64, preds := 127, lanepriv := 32, scratch := 512, barges := 4
    diescratch := 1, gridsync := true, begun := true, next := 1, handler := 32768, slot := 5, savebase := 65536, priv := true, pmcore := true }

/-- Its group: it holds its full allotment, and stands inside a clause at address 0 that selects no flag. -/
def placedGroup : Group :=
  { admitted := true, active := true, live := Lanes.all, held := true, hdrs := laneList.map (fun i => (i, 0x0FF00000))
    tried := true, picks := [(0, Lanes.all)] }

/-- A page that maps virtual to physical 0 for reading, writing and execution, as plaintext. -/
def placedLeaf : TlbEntry :=
  { owner := 0, asid := 0, isGlobal := false, va := 0, pa := 0, size := 16, entry := 2 ^ 57 + 128 + 64 + 32 + 16 + 8 + 2, entryAt := 0, rootKey := 0 }

/-- Words at physical address 0, where no copy hides them. -/
def placeCode (s : State) (ws : List (BitVec 32)) : State :=
  let m := { s.mem.setCells 0 (ws.flatMap (fun w => toBytes w.toNat 4)) with
    copies := s.mem.copies.filter (fun (p : Nat × Copy) => 16 ≤ p.1), fwd := [], gaPend := [], invals := [] }
  { s with
    mem := m.setTag 0 (.under 0)
    host := { s.host with flips := [], bias := [] }
    xlat := { s.xlat with tlb := placedLeaf :: s.xlat.tlb, code := [] } }

/-- Words placed for a group, or for a barge, of core 0 of slot 0: the next turn runs them. -/
def placeWords (s : State) (barge : Bool) (ws : List (BitVec 32)) : State :=
  let s1 := (placeCode s ws).setGroup 0 placedGroup
  let s2 := s1.setTeam 0 { resident := true }
  let s3 := (s2.setLaunch 0 placedLaunch).setCluster 0 { placed := true }
  let s4 := if barge then s3.setBarge 0 { mode := .running } else s3
  let next : Turn := if barge then .barge 0 else .path 0 0 Lanes.all
  (s4.modMgmt (fun m => { m with powered := true })).modSched (fun c => { c with agenda := [next] })

end Sys2Proof.Machine
end

