-- ==== Sys2Proof/Machine/Step.lean ====
section
/-! DEFINITION. One step of the package: the turn at the head of the agenda (log 2, log 3), and a program placed by hand (log 9). -/

namespace Sys2Proof.Machine

open Sys2Proof

/-- One step. Where power has been removed (R408) nothing but a reset runs. -/
def step (s : State) : Host.Outcome State Fault Refusal :=
  match agendaOf s with
  | [] => if s.mgmt.powered then .next s else .fault .powerRemoved
  | t :: ts =>
    if s.mgmt.powered || t.isReset then turn t (s.modSched (fun c => { c with agenda := ts })) else .fault .powerRemoved

/-- `s` with an instruction of `nbits` bits `w`, numbered as the opcode table numbers them and followed by zeros, placed where
the next step fetches: the code of a group, or with 64 bits of a barge. -/
def State.withFetchWord (s : State) (nbits w : Nat) : State :=
  let v := w % 2 ^ nbits
  placeWords s (nbits = 64) [tableWord v 0, tableWord v 1, tableWord v 2, tableWord v 3, tableWord v 4]

end Sys2Proof.Machine
end

