-- ==== Sys2Proof/Safety.lean ====
section
/-! DEFINITION. What a safe run is: a step that neither faults nor refuses, and the form in which the tables of the state are kept. -/

namespace Sys2Proof.Machine

open Sys2Proof

/-- The outcome is a next state. -/
def Out.ok (o : Out) : Bool :=
  match o with
  | .next _ => true
  | .fault _ => false
  | .refused _ => false

/-- The answer is a next state, and `P` holds of it. -/
def Gives (o : Out) (P : State → Prop) : Prop := ∃ t, o = .next t ∧ P t

/-- Nothing stops a group instruction before it acts: its operands are legal (R91, R92), no register it names waits for an
outstanding operation, and outside a handler it reads no poisoned register (R167, R317). -/
structure Clear (s : State) (f : ExtForm) (u : Use) : Prop where
  plain : u.bad = false
  operands : operandsOk s f u = true
  settled : ∀ n ∈ allNames f u, n ∉ awaited s s.sched.cur.grp
  sound : inHandler s.me = true ∨ ∀ n ∈ readNames f u, Sparse.get 0 s.me.marks n = 0

/-- Some present lane's guard holds (R98). -/
def SomeActive (s : State) (f : ExtForm) : Prop := s.active f ≠ 0#32

/-- The state but for one group. -/
structure OnlyGroup (grp : Nat) (s t : State) : Prop where
  others : ∀ k, k ≠ grp → t.group k = s.group k
  rest : t = { s with groups := t.groups }

/-- Memory is in its canonical form. -/
def State.memOk (s : State) : Bool := s.mem.wf

end Sys2Proof.Machine
end

