-- ==== Sys2Proof/Certificates/Slice0/Rules.lean ====
section
/-! DEFINITION. What the statements say of group instructions, written from the rules and not from the meanings: which operands each
instruction takes (R91 and the operand rule of each chapter), and what each result is, in the arithmetic of bit vectors and integers. -/

namespace Sys2Proof.Rules

open Sys2Proof Sys2Proof.Machine

/-! ### Operand fields -/

/-- A field: accepted classes (1 `v`, 2 `s`, 4 `p0` to `p6`, 8 `pt`, 16 `m`, 32 inline constant) and registers it takes. -/
def field (cls words : Nat) : Option Want := some { cls := cls, words := words }

/-- Any source (R113). -/
def anySrc (n : Nat) : Option Want := field 63 n

/-- Any destination (R113). -/
def anyDst (n : Nat) : Option Want := field 15 n

/-- A numeric source (R125). -/
def numSrc (n : Nat) : Option Want := field 35 n

/-- A vector or scalar destination (R125). -/
def regDst (n : Nat) : Option Want := field 3 n

/-- A predicate. -/
def onePred : Option Want := field 12 1

/-- A scalar or an inline constant. -/
def small : Option Want := field 34 1

/-- A join mask. -/
def oneMask : Option Want := field 16 1

/-- A 32-bit address, or a pair. -/
def base (n : Nat) : Option Want := field 3 n

/-- Registers of the type in force. -/
def words (f : ExtForm) (dflt : Nat) : Nat := wordsOfTy (typeOf f dflt)

/-- Bits of the type in force. -/
def width (f : ExtForm) (dflt : Nat) : Nat := widthOf (typeOf f dflt)

/-- Operands D and A, in registers. -/
def uses1 (d a : Nat) : Use := { d := anyDst d, a := anySrc a }

/-- Operands D, A and B. -/
def uses2 (d a b : Nat) : Use := { d := anyDst d, a := anySrc a, b := anySrc b }

/-- Operands D, A, B and C. -/
def uses3 (d a b c : Nat) : Use := { d := anyDst d, a := anySrc a, b := anySrc b, c := anySrc c }

/-- Operands D, A, B and a predicate C. -/
def usesPred (d a b : Nat) : Use := { d := anyDst d, a := anySrc a, b := anySrc b, c := onePred }

/-! ### Integer arithmetic (R116, R117) -/

/-- An operand as a number of its type. -/
def number (isSigned : Bool) (w x : Nat) : Int := if isSigned then (BitVec.ofNat w x).toInt else ((BitVec.ofNat w x).toNat : Int)

/-- The exact result, clamped with `.sat`, in the low bits of the destination. -/
def narrow (sat isSigned : Bool) (w : Nat) (x : Int) : Nat :=
  let lo : Int := if isSigned then -(2 ^ (w - 1)) else 0
  let hi : Int := if isSigned then 2 ^ (w - 1) - 1 else 2 ^ w - 1
  (BitVec.ofInt w (if sat then max lo (min hi x) else x)).toNat

/-- An instruction on integers: its form, how many sources it has, whether `.sat` exists, and the exact result. -/
structure IntRule where
  f : ExtForm
  sources : Nat
  sat : Bool
  exact : Nat → Int → Int → Int → Int

/-- The integer instructions (R116). -/
inductive IsInt : Instr → IntRule → Prop where
  | iadd (g : BaseForm) : IsInt (.iadd g) ⟨g.toExt 1 0, 2, true, fun _ a b _ => a + b⟩
  | iaddX (f : ExtForm) : IsInt (.iaddX f) ⟨f, 2, true, fun _ a b _ => a + b⟩
  | isub (g : BaseForm) : IsInt (.isub g) ⟨g.toExt 1 1, 2, true, fun _ a b _ => a - b⟩
  | isubX (f : ExtForm) : IsInt (.isubX f) ⟨f, 2, true, fun _ a b _ => a - b⟩
  | imul (g : BaseForm) : IsInt (.imul g) ⟨g.toExt 1 2, 2, true, fun _ a b _ => a * b⟩
  | imulX (f : ExtForm) : IsInt (.imulX f) ⟨f, 2, true, fun _ a b _ => a * b⟩
  | imad (f : ExtForm) : IsInt (.imad f) ⟨f, 3, true, fun _ a b c => a * b + c⟩
  | imulh (f : ExtForm) : IsInt (.imulh f) ⟨f, 2, false, fun w a b _ => (a * b) / 2 ^ w⟩
  | imin (f : ExtForm) : IsInt (.imin f) ⟨f, 2, false, fun _ a b _ => min a b⟩
  | imax (f : ExtForm) : IsInt (.imax f) ⟨f, 2, false, fun _ a b _ => max a b⟩
  | iabs (f : ExtForm) : IsInt (.iabs f) ⟨f, 1, true, fun _ a _ _ => (a.natAbs : Int)⟩
  | ineg (f : ExtForm) : IsInt (.ineg f) ⟨f, 1, true, fun _ a _ _ => -a⟩

/-- Operands of an integer instruction (R113). -/
def IntRule.use (r : IntRule) : Use :=
  let n := words r.f 1
  { d := anyDst n, a := anySrc n, b := if 2 ≤ r.sources then anySrc n else none, c := if 3 ≤ r.sources then anySrc n else none }

/-- The result in one lane. -/
def IntRule.value (r : IntRule) (s : State) (k : Nat) : Nat :=
  let ty := typeOf r.f 1
  let w := widthOf ty
  let sgn := ty = 1 || ty = 3
  narrow (r.sat && r.f.mods.getLsbD 2) sgn w
    (r.exact w (number sgn w (s.opA r.f ty k)) (number sgn w (s.opB r.f ty k)) (number sgn w (s.opC r.f ty k)))

/-! ### Logic, shifts and bit fields (R118 to R120) -/

/-- The number whose bit j is `x j`, for j below `w`. -/
def ofBits (w : Nat) (x : Nat → Bool) : Nat := (List.range w).foldl (fun y j => if x j then y + 2 ^ j else y) 0

/-- Length of the field of R120: clipped at the operand's width. -/
def clip (p l w : Nat) : Nat := if w ≤ p then 0 else min l (w - p)

/-- An instruction on bits: its form, operands, registers of the result, and the result from the width, whether the type is signed,
the modifiers, and the operands. -/
structure BitRule where
  f : ExtForm
  u : Use
  regs : Nat
  /-- B is read as a 32-bit operand -/
  count : Bool
  value : (w : Nat) → Bool → BitVec 10 → Nat → Nat → Nat → Nat

/-- Two sources of the type. -/
def BitRule.two (f : ExtForm) (x : (w : Nat) → BitVec w → BitVec w → BitVec w) : BitRule :=
  let n := words f 5
  ⟨f, uses2 n n n, n, false, fun w _ _ a b _ => (x w (BitVec.ofNat w a) (BitVec.ofNat w b)).toNat⟩

/-- One source of the type. -/
def BitRule.one (f : ExtForm) (x : (w : Nat) → BitVec w → BitVec w) : BitRule :=
  let n := words f 5
  ⟨f, uses1 n n, n, false, fun w _ _ a _ _ => (x w (BitVec.ofNat w a)).toNat⟩

/-- A source and a 32-bit count. -/
def BitRule.shift (f : ExtForm) (x : (w : Nat) → BitVec w → Nat → BitVec w) : BitRule :=
  let n := words f 5
  ⟨f, uses2 n n 1, n, true, fun w _ _ a b _ => (x w (BitVec.ofNat w a) b).toNat⟩

/-- The logic, shift and bit-field instructions (R118 to R120). -/
inductive IsBit : Instr → BitRule → Prop where
  | and (g : BaseForm) : IsBit (.and g) (.two (g.toExt 2 0) (fun _ a b => a &&& b))
  | andX (f : ExtForm) : IsBit (.andX f) (.two f (fun _ a b => a &&& b))
  | or (g : BaseForm) : IsBit (.or g) (.two (g.toExt 2 1) (fun _ a b => a ||| b))
  | orX (f : ExtForm) : IsBit (.orX f) (.two f (fun _ a b => a ||| b))
  | xor (g : BaseForm) : IsBit (.xor g) (.two (g.toExt 2 2) (fun _ a b => a ^^^ b))
  | xorX (f : ExtForm) : IsBit (.xorX f) (.two f (fun _ a b => a ^^^ b))
  | not (g : BaseForm) : IsBit (.not g) (.one (g.toExt 2 3) (fun _ a => ~~~ a))
  | notX (f : ExtForm) : IsBit (.notX f) (.one f (fun _ a => ~~~ a))
  | bfn3 (f : ExtForm) : IsBit (.bfn3 f) ⟨f, uses3 (words f 5) (words f 5) (words f 5) (words f 5), words f 5, false, fun w _ m a b c =>
      ofBits w (fun j => m.getLsbD ((a.testBit j).toNat + 2 * (b.testBit j).toNat + 4 * (c.testBit j).toNat))⟩
  | shl (g : BaseForm) : IsBit (.shl g) (.shift (g.toExt 3 0) (fun _ a k => a <<< k))
  | shlX (f : ExtForm) : IsBit (.shlX f) (.shift f (fun _ a k => a <<< k))
  | shr (g : BaseForm) : IsBit (.shr g) (.shift (g.toExt 3 1) (fun _ a k => a >>> k))
  | shrX (f : ExtForm) : IsBit (.shrX f) (.shift f (fun _ a k => a >>> k))
  | sar (g : BaseForm) : IsBit (.sar g) (.shift (g.toExt 3 2) (fun _ a k => a.sshiftRight k))
  | sarX (f : ExtForm) : IsBit (.sarX f) (.shift f (fun _ a k => a.sshiftRight k))
  | rot (g : BaseForm) : IsBit (.rot g) (.shift (g.toExt 3 3) (fun _ a k => a.rotateLeft k))
  | rotX (f : ExtForm) : IsBit (.rotX f) (.shift f (fun _ a k => a.rotateLeft k))
  | popc (f : ExtForm) : IsBit (.popc f) ⟨f, uses1 1 (words f 5), 1, false, fun w _ _ a _ _ => ((List.range w).filter a.testBit).length⟩
  | clz (f : ExtForm) : IsBit (.clz f) ⟨f, uses1 1 (words f 5), 1, false, fun w _ _ a _ _ => ((List.range w).reverse.takeWhile (fun j => !a.testBit j)).length⟩
  | brev (f : ExtForm) : IsBit (.brev f) (.one f (fun _ a => a.reverse))
  | bfe (f : ExtForm) : IsBit (.bfe f) ⟨f, uses2 (words f 5) (words f 5) 1, words f 5, true, fun w sgn _ a b _ =>
      let l := clip (b % 256) (b / 256 % 256) w
      let x := BitVec.ofNat l (a >>> (b % 256))
      if sgn then (x.signExtend w).toNat else x.toNat⟩
  | bfi (f : ExtForm) : IsBit (.bfi f) ⟨f, uses3 (words f 5) (words f 5) 1 (words f 5), words f 5, true, fun w _ _ a b c =>
      let p := b % 256
      let l := clip p (b / 256 % 256) w
      ofBits w (fun j => if p ≤ j && j < p + l then a.testBit (j - p) else c.testBit j)⟩

/-- The result in one lane. -/
def BitRule.result (r : BitRule) (s : State) (k : Nat) : Nat :=
  let ty := typeOf r.f 5
  r.value (widthOf ty) (ty = 1 || ty = 3) r.f.mods (s.opA r.f ty k) (s.opB r.f (if r.count then 5 else ty) k) (s.opC r.f ty k)

/-! ### Moves (R122, R123) -/

/-- A byte of the pair B:A, plain or as its sign (R123). -/
def permByte (a b sel : Nat) : Nat :=
  let y := (b * 2 ^ 32 + a) / 2 ^ (8 * (sel % 8)) % 256
  if sel % 16 < 8 then y else if 128 ≤ y then 255 else 0

/-- A move: its form, operands, registers of the result, and the result in lane k with the active lanes. -/
structure MoveRule where
  f : ExtForm
  u : Use
  regs : Nat
  value : State → Lanes → Nat → Nat

/-- `bcast`: the lane that B names. -/
def bcastRule (f : ExtForm) : MoveRule :=
  let ty := typeOf f 5
  ⟨f, uses2 (words f 5) (words f 5) 1, words f 5, fun s act _ => s.opA f ty (s.opB f 5 (low act) % 32)⟩

/-- `lea`: base plus index shifted, the index sign-extended under `.s64`. -/
def leaRule (f : ExtForm) : MoveRule :=
  let ty := typeOf f 2
  ⟨f, uses2 (words f 2) (words f 2) 1, words f 2, fun s _ k =>
    let b := BitVec.ofNat 32 (s.opB f 5 k)
    let x : BitVec 64 := if ty = 3 then b.signExtend 64 else b.zeroExtend 64
    (BitVec.ofNat (width f 2) (s.opA f ty k + x.toNat * 2 ^ (f.mods.toNat % 8))).toNat⟩

/-- `mov` between registers. -/
def movRule (f : ExtForm) : MoveRule := ⟨f, uses1 (words f 5) (words f 5), words f 5, fun s _ k => s.opA f (typeOf f 5) k⟩

/-- The moves that write every active lane (R122). -/
inductive IsMove : Instr → MoveRule → Prop where
  | mov (g : BaseForm) : IsMove (.mov g) (movRule (g.toExt 5 0))
  | movX (f : ExtForm) : IsMove (.movX f) (movRule f)
  | sel (f : ExtForm) : IsMove (.sel f) ⟨f, usesPred (words f 5) (words f 5) (words f 5), words f 5, fun s _ k =>
      if s.predBit f.c k then s.opA f (typeOf f 5) k else s.opB f (typeOf f 5) k⟩
  | bcast (g : BaseForm) : IsMove (.bcast g) (bcastRule (g.toExt 5 3))
  | bcastX (f : ExtForm) : IsMove (.bcastX f) (bcastRule f)

/-- Byte permutes and address sums (R123). -/
inductive IsPermute : Instr → MoveRule → Prop where
  | perm (f : ExtForm) : IsPermute (.perm f) ⟨f, uses3 1 1 1 1, 1, fun s _ k =>
      let a := s.opA f 5 k
      let b := s.opB f 5 k
      let c := s.opC f 5 k
      permByte a b c + permByte a b (c / 16) * 2 ^ 8 + permByte a b (c / 2 ^ 8) * 2 ^ 16 + permByte a b (c / 2 ^ 12) * 2 ^ 24⟩
  | lea (g : BaseForm) : IsPermute (.lea g) (leaRule (g.toExt 12 1))
  | leaX (f : ExtForm) : IsPermute (.leaX f) (leaRule f)

/-! ### Floating point (R128, R133) -/

/-- A floating instruction: its form, type code, number of sources, and the result. -/
structure FloatRule where
  f : ExtForm
  ty : Nat
  sources : Nat
  value : Nat → Nat → Nat → Nat

/-- The exact sum of two operands, rounded once. -/
def sum (t : Fmt) (f : ExtForm) (a b : Nat) : Nat :=
  let rm := f.mods.toNat % 4
  roundTo (XVal.add rm (t.value a) (t.value b)) t rm (f.mods.getLsbD 2)

/-- The exact difference, rounded once. -/
def difference (t : Fmt) (f : ExtForm) (a b : Nat) : Nat :=
  let rm := f.mods.toNat % 4
  roundTo (XVal.add rm (t.value a) (t.value b).negate) t rm (f.mods.getLsbD 2)

/-- The exact product, rounded once. -/
def product (t : Fmt) (f : ExtForm) (a b : Nat) : Nat :=
  roundTo (XVal.mul (t.value a) (t.value b)) t (f.mods.toNat % 4) (f.mods.getLsbD 2)

/-- The exact product added exactly, rounded once. -/
def fused (t : Fmt) (f : ExtForm) (a b c : Nat) : Nat :=
  let rm := f.mods.toNat % 4
  roundTo (XVal.add rm (XVal.mul (t.value a) (t.value b)) (t.value c)) t rm (f.mods.getLsbD 2)

/-- Each half of a packed operand by itself (R128). -/
def halves (x : Nat → Nat → Nat → Nat) (a b c : Nat) : Nat :=
  x (a % 65536) (b % 65536) (c % 65536) + x (a / 65536 % 65536) (b / 65536 % 65536) (c / 65536 % 65536) * 65536

/-- Format of a packed instruction: `.bf16x2` unless `.f16x2` is named. -/
def packedFormat (f : ExtForm) : Fmt := if f.ty = 9#4 then .f16 else .bf16

/-- A packed instruction. -/
def packedRule (f : ExtForm) (sources : Nat) (x : Fmt → Nat → Nat → Nat → Nat) : FloatRule :=
  ⟨f, typeOf f 8, sources, halves (x (packedFormat f))⟩

/-- The arithmetic floating instructions (R128) and `frnd` (R133). -/
inductive IsFloat : Instr → FloatRule → Prop where
  | fadd (g : BaseForm) : IsFloat (.fadd g) ⟨(g.toExt 6 0), 6, 2, fun a b _ => sum .f32 (g.toExt 6 0) a b⟩
  | faddX (f : ExtForm) : IsFloat (.faddX f) ⟨f, 6, 2, fun a b _ => sum .f32 f a b⟩
  | fmul (g : BaseForm) : IsFloat (.fmul g) ⟨(g.toExt 6 1), 6, 2, fun a b _ => product .f32 (g.toExt 6 1) a b⟩
  | fmulX (f : ExtForm) : IsFloat (.fmulX f) ⟨f, 6, 2, fun a b _ => product .f32 f a b⟩
  | ffma (f : ExtForm) : IsFloat (.ffma f) ⟨f, 6, 3, fused .f32 f⟩
  | fmin (g : BaseForm) : IsFloat (.fmin g) ⟨g.toExt 6 3, 6, 2, fun a b _ => fpMin .f32 a b⟩
  | fminX (f : ExtForm) : IsFloat (.fminX f) ⟨f, 6, 2, fun a b _ => fpMin .f32 a b⟩
  | fmax (f : ExtForm) : IsFloat (.fmax f) ⟨f, 6, 2, fun a b _ => fpMax .f32 a b⟩
  | fsub (f : ExtForm) : IsFloat (.fsub f) ⟨f, 6, 2, fun a b _ => difference .f32 f a b⟩
  | hadd2 (g : BaseForm) : IsFloat (.hadd2 g) (packedRule (g.toExt 9 0) 2 (fun t a b _ => sum t (g.toExt 9 0) a b))
  | hadd2X (f : ExtForm) : IsFloat (.hadd2X f) (packedRule f 2 (fun t a b _ => sum t f a b))
  | hmul2 (g : BaseForm) : IsFloat (.hmul2 g) (packedRule (g.toExt 9 1) 2 (fun t a b _ => product t (g.toExt 9 1) a b))
  | hmul2X (f : ExtForm) : IsFloat (.hmul2X f) (packedRule f 2 (fun t a b _ => product t f a b))
  | hfma2 (f : ExtForm) : IsFloat (.hfma2 f) (packedRule f 3 (fun t => fused t f))
  | hmin2 (g : BaseForm) : IsFloat (.hmin2 g) (packedRule (g.toExt 9 3) 2 (fun t a b _ => fpMin t a b))
  | hmin2X (f : ExtForm) : IsFloat (.hmin2X f) (packedRule f 2 (fun t a b _ => fpMin t a b))
  | hmax2 (f : ExtForm) : IsFloat (.hmax2 f) (packedRule f 2 (fun t a b _ => fpMax t a b))
  | dadd (g : BaseForm) : IsFloat (.dadd g) ⟨(g.toExt 10 0), 7, 2, fun a b _ => sum .f64 (g.toExt 10 0) a b⟩
  | daddX (f : ExtForm) : IsFloat (.daddX f) ⟨f, 7, 2, fun a b _ => sum .f64 f a b⟩
  | dmul (g : BaseForm) : IsFloat (.dmul g) ⟨(g.toExt 10 1), 7, 2, fun a b _ => product .f64 (g.toExt 10 1) a b⟩
  | dmulX (f : ExtForm) : IsFloat (.dmulX f) ⟨f, 7, 2, fun a b _ => product .f64 f a b⟩
  | dfma (f : ExtForm) : IsFloat (.dfma f) ⟨f, 7, 3, fused .f64 f⟩
  | dmin (f : ExtForm) : IsFloat (.dmin f) ⟨f, 7, 2, fun a b _ => fpMin .f64 a b⟩
  | dmax (f : ExtForm) : IsFloat (.dmax f) ⟨f, 7, 2, fun a b _ => fpMax .f64 a b⟩
  | frnd (g : BaseForm) : IsFloat (.frnd g) ⟨(g.toExt 11 3), 6, 1, fun a _ _ => fpRint .f32 0 a⟩
  | frndX (f : ExtForm) : IsFloat (.frndX f) ⟨f, typeOf f 6, 1, fun a _ _ => fpRint (if f.ty = 7#4 then .f64 else .f32) (f.mods.toNat % 4) a⟩

/-- Operands of a floating instruction (R125). -/
def FloatRule.use (r : FloatRule) : Use :=
  let n := wordsOfTy r.ty
  { d := regDst n, a := numSrc n, b := if 2 ≤ r.sources then numSrc n else none, c := if 3 ≤ r.sources then numSrc n else none }

/-! ### Compares (R121, R129, R130) and votes (R161) -/

/-- The relation of an integer condition code. -/
def relation (cc : Nat) (a b : Int) : Bool :=
  match cc with
  | 0 => decide (a = b)
  | 1 => decide (a ≠ b)
  | 2 => decide (a < b)
  | 3 => decide (a ≤ b)
  | 4 => decide (a > b)
  | _ => decide (a ≥ b)

/-- And, or, exclusive or. -/
def mix (op : Nat) (x y : Bool) : Bool := if op = 0 then x && y else if op = 1 then x || y else x ^^ y

/-- A test: its form and operands, and the truth value of a lane with the active lanes. -/
structure TestRule where
  f : ExtForm
  u : Use
  value : State → Lanes → Nat → Bool

/-- An integer compare (R121). -/
def intTest (f : ExtForm) (s : State) (k : Nat) : Bool :=
  let ty := typeOf f 1
  let sgn := ty = 1 || ty = 3
  relation (f.mods.toNat % 8) (number sgn (widthOf ty) (s.opA f ty k)) (number sgn (widthOf ty) (s.opB f ty k))

def icmpRule (f : ExtForm) : TestRule := ⟨f, { d := anyDst 1, a := anySrc (words f 1), b := anySrc (words f 1) }, fun s _ => intTest f s⟩

/-- A floating compare with its combiner (R129). -/
def floatTest (t : Fmt) (ty : Nat) (f : ExtForm) : TestRule :=
  let n := wordsOfTy ty
  let op := f.mods.toNat / 8 % 4
  ⟨f, { d := anyDst 1, a := numSrc n, b := numSrc n, c := if op = 0 then none else onePred }, fun s _ k =>
    let y := fpCond t (f.mods.toNat % 8) (s.opA f ty k) (s.opB f ty k)
    if op = 0 then y else mix (op - 1) y (s.predBit f.c k)⟩

/-- The truth value a vote reads in a lane (R161): a bit of a predicate or mask, or a word that is not 0. -/
def vote (s : State) (f : ExtForm) (k : Nat) : Bool :=
  if 1664 ≤ f.a.toNat ∧ f.a.toNat ≤ 1683 then (s.opA f 5 k).testBit k else s.opA f 5 k ≠ 0

def allRule (f : ExtForm) : TestRule :=
  ⟨f, { d := anyDst 1, a := anySrc 1 }, fun s act _ => (List.range 32).all (fun k => !act.getLsbD k || vote s f k)⟩

def anyRule (f : ExtForm) : TestRule :=
  ⟨f, { d := anyDst 1, a := anySrc 1 }, fun s act _ => (List.range 32).any (fun k => act.getLsbD k && vote s f k)⟩

/-- The compares, which write a truth value in every active lane. -/
inductive IsTest : Instr → TestRule → Prop where
  | icmp (g : BaseForm) : IsTest (.icmp g) (icmpRule (g.toExt 4 0))
  | icmpX (f : ExtForm) : IsTest (.icmpX f) (icmpRule f)
  | icmpc (f : ExtForm) : IsTest (.icmpc f) ⟨f, { d := anyDst 1, a := anySrc (words f 1), b := anySrc (words f 1), c := onePred },
      fun s _ k => mix (f.mods.toNat / 8 % 4) (intTest f s k) (s.predBit f.c k)⟩
  | fcmp (g : BaseForm) : IsTest (.fcmp g) (floatTest .f32 6 (g.toExt 7 0))
  | fcmpX (f : ExtForm) : IsTest (.fcmpX f) (floatTest .f32 6 f)
  | dcmp (g : BaseForm) : IsTest (.dcmp g) (floatTest .f64 7 (g.toExt 10 3))
  | dcmpX (f : ExtForm) : IsTest (.dcmpX f) (floatTest .f64 7 f)
  | fclass (f : ExtForm) : IsTest (.fclass f) ⟨f, { d := anyDst 1, a := numSrc (wordsOfTy (typeOf f 6)), b := numSrc 1 },
      fun s _ k => (s.opB f 5 k).testBit (fpClass (if (typeOf f 6) = 7 then .f64 else .f32) (s.opA f (typeOf f 6) k))⟩

/-- The votes that write a truth value (R161). -/
inductive IsVote : Instr → TestRule → Prop where
  | vall (g : BaseForm) : IsVote (.vall g) (allRule (g.toExt 14 0))
  | vallX (f : ExtForm) : IsVote (.vallX f) (allRule f)
  | vany (g : BaseForm) : IsVote (.vany g) (anyRule (g.toExt 14 1))
  | vanyX (f : ExtForm) : IsVote (.vanyX f) (anyRule f)
  | vuni (f : ExtForm) : IsVote (.vuni f) ⟨f, { d := anyDst 1, a := numSrc (wordsOfTy (typeOf f 5)) },
      fun s act _ => (List.range 32).all (fun k => !act.getLsbD k || s.opA f (typeOf f 5) k = s.opA f (typeOf f 5) (low act))⟩

/-! ### Conversions, ballots, reductions, reads of special registers -/

/-- An instruction that computes: its form and operands, the registers of its result, and the result. -/
structure ValueRule where
  f : ExtForm
  u : Use
  regs : Nat
  value : State → Lanes → Nat → Nat

/-- `cvt` (R132): to and from the floating formats through the exact value, between integers through the integer. -/
def cvtRule (f : ExtForm) : ValueRule :=
  let dt := typeOf f 6
  let st := if f.mods.toNat / 16 % 16 = 0 then 1 else f.mods.toNat / 16 % 16
  let rm := f.mods.toNat % 4
  let sat := f.mods.getLsbD 2
  ⟨f, { d := regDst (wordsOfTy dt), a := numSrc (wordsOfTy st) }, wordsOfTy dt, fun s _ k =>
    let x := s.opA f st k
    let n := number (st = 1 || st = 3) (widthOf st) x
    match fmtOf dt, fmtOf st with
    | some d, some t => roundTo (t.value x) d rm sat
    | some d, none => roundTo (.ofInt n 0) d rm sat
    | none, some t => toIntType (t.value x) (dt = 1 || dt = 3) (widthOf dt) rm
    | none, none => narrow sat (dt = 1 || dt = 3) (widthOf dt) n⟩

/-- `cpack` (R134, R136). -/
def cpackRule (f : ExtForm) : ValueRule :=
  let ints := typeOf f 8 ≤ 2
  let scl := sclMod f && !decide ints
  ⟨f, { d := regDst 1, a := numSrc 1, b := numSrc 1, c := if scl then numSrc 1 else none, dRead := packWidth f != 16 }, 1, fun s _ k =>
    let ty := if ints then typeOf f 8 else 6
    cpackOf f (s.opD f 5 k) (s.opA f ty k) (s.opB f ty k) (if scl then s.opC f 5 k % 256 else 127)⟩

/-- `cunpk` (R135, R136). -/
def cunpkRule (f : ExtForm) : ValueRule :=
  let scl := sclMod f && !decide (typeOf f 8 ≤ 2)
  ⟨f, { d := regDst 1, a := numSrc 1, b := numSrc 1, c := if scl then numSrc 1 else none }, 1, fun s _ k =>
    cunpkOf f (s.opA f 5 k) (s.opB f 5 k) (if scl then some (s.opC f 5 k % 256) else none)⟩

/-- A lane set as a word. -/
def laneWord (x : Nat → Bool) : Nat := ofBits 32 x

def vbalRule (f : ExtForm) : ValueRule :=
  ⟨f, { d := regDst 1, a := anySrc 1 }, 1, fun s act _ => laneWord (fun k => act.getLsbD k && vote s f k)⟩

def vmatchRule (f : ExtForm) : ValueRule :=
  let ty := typeOf f 5
  ⟨f, { d := regDst 1, a := numSrc (wordsOfTy ty) }, 1, fun s act j =>
    laneWord (fun k => act.getLsbD k && decide (s.opA f ty k = s.opA f ty j))⟩

/-- `gred` (R162). -/
def gredRule (f : ExtForm) : ValueRule :=
  let ty := typeOf f 1
  ⟨f, { d := regDst (wordsOfTy ty), a := numSrc (wordsOfTy ty) }, wordsOfTy ty,
    fun s act _ => reduceLanes (f.mods.toNat / 4 % 8) ty (f.mods.toNat % 4) act (s.opA f ty)⟩

/-- `gscan` (R163). -/
def gscanRule (f : ExtForm) : ValueRule :=
  let ty := typeOf f 1
  ⟨f, { d := regDst (wordsOfTy ty), a := numSrc (wordsOfTy ty) }, wordsOfTy ty,
    fun s act k => scanLane (f.mods.toNat / 4 % 8) ty (f.mods.toNat % 4) (f.mods.getLsbD 5) act (s.opA f ty) k⟩

/-- The votes that write a mask of lanes (R161). -/
inductive IsBallot : Instr → ValueRule → Prop where
  | vbal (g : BaseForm) : IsBallot (.vbal g) (vbalRule (g.toExt 14 2))
  | vbalX (f : ExtForm) : IsBallot (.vbalX f) (vbalRule f)
  | vmatch (g : BaseForm) : IsBallot (.vmatch g) (vmatchRule (g.toExt 14 3))
  | vmatchX (f : ExtForm) : IsBallot (.vmatchX f) (vmatchRule f)

/-- The instructions of R132 to R136, R162 and R163, `srd` (R111), `pmrd` (R330) and `ttest` (R176). -/
inductive IsValue : Instr → ValueRule → Prop where
  | cvt (g : BaseForm) : IsValue (.cvt g) (cvtRule (g.toExt 11 0))
  | cvtX (f : ExtForm) : IsValue (.cvtX f) (cvtRule f)
  | cpack (g : BaseForm) : IsValue (.cpack g) (cpackRule (g.toExt 11 1))
  | cpackX (f : ExtForm) : IsValue (.cpackX f) (cpackRule f)
  | cunpk (g : BaseForm) : IsValue (.cunpk g) (cunpkRule (g.toExt 11 2))
  | cunpkX (f : ExtForm) : IsValue (.cunpkX f) (cunpkRule f)
  | gred (g : BaseForm) : IsValue (.gred g) (gredRule (g.toExt 15 0))
  | gredX (f : ExtForm) : IsValue (.gredX f) (gredRule f)
  | gscan (g : BaseForm) : IsValue (.gscan g) (gscanRule (g.toExt 15 1))
  | gscanX (f : ExtForm) : IsValue (.gscanX f) (gscanRule f)
  | srd (f : ExtForm) : IsValue (.srd f) ⟨f, { d := regDst (sregWords f.a.toNat), bad := (sregWidth f.a.toNat).isNone }, sregWords f.a.toNat,
      fun s _ k => special s s.sched.cur.grp f.a.toNat k⟩
  | pmrd (f : ExtForm) : IsValue (.pmrd f) ⟨f, { d := regDst 2, bad := decide (8 ≤ f.a.toNat) }, 2, fun s _ _ => counterValue s f.a.toNat % 2 ^ 64⟩
  | ttest (f : ExtForm) : IsValue (.ttest f) ⟨f, { d := regDst 2, bad := decide (16 ≤ f.a.toNat) }, 2, fun s _ _ => (s.myTok f.a.toNat).image⟩

/-! ### What the statements say of a computing instruction -/

/-- In every active lane the destination takes the value given, as far as its registers hold it; the instruction then passes on. -/
def Computes (i : Instr) (s : State) (f : ExtForm) (words : Nat) (value : Nat → Nat) : Prop :=
  ∃ x : Nat → Nat, (∀ k, k < 32 → (s.active f).getLsbD k = true → x k % 2 ^ (32 * words) = value k % 2 ^ (32 * words)) ∧
    exec i s = .next ((s.writeDest (s.active f) (rangeFrom f.d.toNat words) x).advance)

/-- In every active lane the destination takes the truth value given; the instruction then passes on. -/
def Tests (i : Instr) (s : State) (f : ExtForm) (value : Nat → Bool) : Prop :=
  ∃ x : Nat → Bool, (∀ k, k < 32 → (s.active f).getLsbD k = true → x k = value k) ∧
    exec i s = .next ((s.writeTruth (s.active f) f.d.toNat x).advance)

end Sys2Proof.Rules
end

