-- ==== Sys2Proof/Certificates/Slice0/Acts.lean ====
section
/-! DEFINITION. What the statements say of the group instructions that do more than compute: for each, its form and operands, when it
completes (in the state and the active lanes alone), and the state it leaves. -/

namespace Sys2Proof.Rules

open Sys2Proof Sys2Proof.Machine

/-- An instruction that acts. -/
structure Act where
  f : ExtForm
  u : Use
  /-- what must hold, besides legal operands and an active lane -/
  when : State → Lanes → Prop
  next : State → Lanes → State

/-- Nothing more than legal operands. -/
def always : State → Lanes → Prop := fun _ _ => True

/-- Past the gate and with an active lane, where its condition holds, the instruction leaves the state given. -/
def Acts (i : Instr) (r : Act) : Prop :=
  ∀ s, Clear s r.f r.u → SomeActive s r.f → r.when s (s.active r.f) → exec i s = .next (r.next s (s.active r.f))

/-- Group of the instruction in hand. -/
abbrev grp (s : State) : Nat := s.sched.cur.grp

/-- Its team. -/
abbrev team (s : State) : Nat := teamOf (grp s)

/-- Change the group in hand. -/
abbrev onMe (s : State) (x : Group → Group) : State := s.modGroup (grp s) x

/-- Change a join mask of the group in hand. -/
def onMask (s : State) (n : BitVec 11) (x : JoinMask → JoinMask) : State :=
  onMe s (fun g => g.putJoin (n.toNat - 1672) (x (g.join (n.toNat - 1672))))

/-- Value of a one-word operand of the lowest active lane. -/
abbrev opB0 (s : State) (f : ExtForm) (act : Lanes) : Nat := s.opB f 5 (low act)

/-! ### Control flow (R117, R122, R146, R149, R150, R152, R154) -/

/-- `bra` and `call`: active lanes go to the instruction's address plus the displacement, the others to the next word. -/
def branchAct (link : Bool) (f : ExtForm) : Act :=
  { f := f, u := { d := if link then base 2 else none, b := small }
    when := fun s act => s.opB f 1 (low act) % 4 = 0
    next := fun s act =>
      let c := s.sched.cur
      let s1 := if link then s.writeDest act [f.d.toNat, f.d.toNat + 1] (fun _ => c.npc % 2 ^ 57) else s
      s1.branch (fun k => if act.getLsbD k then
        (((c.pc : Int) + (BitVec.ofNat 32 (s.opB f 1 (low act))).toInt) % 2 ^ 57).toNat else c.npc) }

/-- `brx` and `ret`: each active lane goes to its own address. -/
def indirectAct (f : ExtForm) : Act :=
  { f := f, u := { a := base 2 }
    when := fun s act => ∀ k, k < 32 → act.getLsbD k = true → s.opA f 4 k % 4 = 0 ∧ s.opA f 4 k < 2 ^ 57
    next := fun s act => s.branch (fun k => if act.getLsbD k then s.opA f 4 k else s.sched.cur.npc) }

/-- `movs`: the lane that B names, where it is active. -/
def movsAct (f : ExtForm) : Act :=
  { f := f, u := { d := field 1 (words f 5), a := anySrc (words f 5), b := anySrc 1 }
    when := always
    next := fun s act =>
      (s.writeDest (act &&& Lanes.ofList [opB0 s f act % 32]) (rangeFrom f.d.toNat (words f 5)) (fun k => s.opA f (typeOf f 5) k)).advance }

/-- `mwait`: the active lanes park at their site. -/
def mwaitAct (bounded : Bool) (f : ExtForm) : Act :=
  { f := f, u := { d := if bounded then onePred else none, a := oneMask, b := if bounded then small else none }
    when := fun s _ => (s.me.join (f.a.toNat - 1672)).site = none ∨ (s.me.join (f.a.toNat - 1672)).site = some s.sched.cur.pc
    next := fun s act =>
      let c := s.sched.cur
      let p : Parked := { lanes := act, pd := f.d.toNat, bounded := bounded, npc := c.npc
                          deadline := if bounded then s.cycle s.myCore + s.opB f 2 (low act) else 0 }
      onMe (onMask s f.a (fun j => { j with site := some c.pc, parked := j.parked ||| act, paths := j.paths ++ [p] }))
        (fun g => ((g.place act c.pc c.hdr).place (c.lanes &&& ~~~act) c.npc c.hdr).counted) }

/-- `exit`: the active lanes leave; with the last one the group does. -/
def exitAct (f : ExtForm) : Act :=
  { f := f, u := {}, when := always
    next := fun s act =>
      let c := s.sched.cur
      groupExit (onMe s (fun g => ((g.place c.lanes c.npc c.hdr).exitLanes act).counted)) c.grp }

def nopAct (f : ExtForm) : Act := { f := f, u := {}, when := always, next := fun s _ => s.advance }

def yieldAct (f : ExtForm) : Act :=
  { f := f, u := {}, when := always, next := fun s _ => (onMe s (fun g => { g with yielded := true })).advance }

/-- Branches, join masks, `exit`, `nop`, `yield`, and the moves that are no plain result. -/
inductive IsControl : Instr → Act → Prop where
  | bra (g : BaseForm) : IsControl (.bra g) (branchAct false (g.toExt 0x10 0))
  | braX (f : ExtForm) : IsControl (.braX f) (branchAct false f)
  | call (g : BaseForm) : IsControl (.call g) (branchAct true (g.toExt 0x10 2))
  | callX (f : ExtForm) : IsControl (.callX f) (branchAct true f)
  | brx (g : BaseForm) : IsControl (.brx g) (indirectAct (g.toExt 0x10 1))
  | brxX (f : ExtForm) : IsControl (.brxX f) (indirectAct f)
  | ret (g : BaseForm) : IsControl (.ret g) (indirectAct (g.toExt 0x10 3))
  | retX (f : ExtForm) : IsControl (.retX f) (indirectAct f)
  | join (f : ExtForm) : IsControl (.join f)
      { f := f, u := { d := oneMask }, when := always
        next := fun s act => (onMask s f.d (fun j => { j with members := j.members ||| act })).advance }
  | leave (f : ExtForm) : IsControl (.leave f)
      { f := f, u := { d := oneMask }, when := always
        next := fun s act => (onMask s f.d (fun j => { j with members := j.members &&& ~~~act })).advance }
  | mset (f : ExtForm) : IsControl (.mset f)
      { f := f, u := { d := oneMask, b := field 62 1 }, when := always
        next := fun s act => (onMask s f.d (fun j => { j with members := BitVec.ofNat 32 (opB0 s f act) &&& s.me.live })).advance }
  | mget (f : ExtForm) : IsControl (.mget f)
      { f := f, u := { d := regDst 1, a := oneMask, b := small }, when := always
        next := fun s act =>
          let j := s.me.join (f.a.toNat - 1672)
          (s.writeDest act [f.d.toNat] (fun _ => (if opB0 s f act % 2 = 0 then j.members else j.parked).toNat)).advance }
  | elect (f : ExtForm) : IsControl (.elect f)
      { f := f, u := { d := onePred, a := oneMask }, when := always
        next := fun s act => (s.writeTruth act f.d.toNat
          (fun k => ((s.me.join (f.a.toNat - 1672)).members &&& act).lowest = some k)).advance }
  | mwait (f : ExtForm) : IsControl (.mwait f) (mwaitAct false f)
  | mwaitBounded (f : ExtForm) : IsControl (.mwaitBounded f) (mwaitAct true f)
  | exit (g : BaseForm) : IsControl (.exit g) (exitAct (g.toExt 0x12 0))
  | exitX (f : ExtForm) : IsControl (.exitX f) (exitAct f)
  | nop (g : BaseForm) : IsControl (.nop g) (nopAct (g.toExt 0x12 1))
  | nopX (f : ExtForm) : IsControl (.nopX f) (nopAct f)
  | yield (g : BaseForm) : IsControl (.yield g) (yieldAct (g.toExt 0x12 2))
  | yieldX (f : ExtForm) : IsControl (.yieldX f) (yieldAct f)
  | movs (g : BaseForm) : IsControl (.movs g) (movsAct (g.toExt 5 2))
  | movsX (f : ExtForm) : IsControl (.movsX f) (movsAct f)
  | movp (f : ExtForm) : IsControl (.movp f)
      { f := f, u := { d := field 4 1, a := field 62 1 }, when := always
        next := fun s act =>
          let m := BitVec.ofNat 32 (s.opA f 5 (low act))
          let c := s.sched.cur
          if f.mods.getLsbD 7 then (onMe s (fun g => g.setPred g.issuedNow c.lanes f.d.toNat m)).advance
          else (s.writeTruth act f.d.toNat (fun k => m.getLsbD k)).advance }
  | iaddc (f : ExtForm) : IsControl (.iaddc f)
      { f := f, u := usesPred (words f 1) (words f 1) (words f 1), when := always
        next := fun s act =>
          let ty := typeOf f 1
          let w := widthOf ty
          let sum := fun (s : State) (k : Nat) => s.opA f ty k % 2 ^ w + s.opB f ty k % 2 ^ w + (s.predBit f.c k).toNat
          let s1 := s.writeDest act (rangeFrom f.d.toNat (wordsOfTy ty)) (fun k => sum s k % 2 ^ w)
          (s1.writeDest act [f.c.toNat] (fun k => sum s k / 2 ^ w)).advance }

/-! ### Special functions and shuffles (R131, R159): flag operations -/

/-- A flag can take one more (R165). -/
def flagFree (f : ExtForm) (s : State) : Prop := flagFull s.me (s.flagNow f) = false

/-- A special function: its result is computed from what the source holds now. -/
def specialAct (k : Nat) (f : ExtForm) : Act :=
  { f := f, u := { d := regDst 1, a := numSrc 1 }, when := fun s _ => flagFree f s
    next := fun s act => s.issueFlag f
      { kind := .special, dests := [f.d.toNat], active := act
        vals := act.toList.map (fun j => (j, specialFn k (f.mods.toNat % 4) (s.opA f 6 j))) } }

/-- The lane whose A a shuffle gives lane `j`: absolute, up, down or exclusive or, within segments; itself outside. -/
def source (k w j x : Nat) : Nat :=
  if k = 0 then j / w * w + x % 32 % w
  else if k = 1 then (if x < w ∧ j / w * w + x ≤ j then j - x else j)
  else if k = 2 then (if x < w ∧ j + x < j / w * w + w then j + x else j)
  else if x % 32 < w then j ^^^ (x % 32) else j

/-- A shuffle: every source is read now; a source that is not present gives the lane its own. -/
def shuffleAct (k : Nat) (f : ExtForm) : Act :=
  let ty := typeOf f 5
  let w := 32 / 2 ^ (f.mods.toNat % 8)
  { f := f, u := { d := field 1 (words f 5), a := field 1 (words f 5), b := field 35 1 }, when := fun s _ => flagFree f s
    next := fun s act => s.issueFlag f
      { kind := .shuffle, dests := rangeFrom f.d.toNat (words f 5), active := act, x := s.sched.cur.lanes.toNat
        vals := act.toList.map (fun j =>
          let m := source k w j (s.opB f 2 j)
          (j, s.opA f ty (if s.sched.cur.lanes.getLsbD m then m else j))) } }

/-- The special functions and the shuffles. -/
inductive IsFlagged : Instr → Act → Prop where
  | frcp (g : BaseForm) : IsFlagged (.frcp g) (specialAct 0 (g.toExt 8 0))
  | frcpX (f : ExtForm) : IsFlagged (.frcpX f) (specialAct 0 f)
  | frsq (g : BaseForm) : IsFlagged (.frsq g) (specialAct 1 (g.toExt 8 1))
  | frsqX (f : ExtForm) : IsFlagged (.frsqX f) (specialAct 1 f)
  | fsqrt (g : BaseForm) : IsFlagged (.fsqrt g) (specialAct 2 (g.toExt 8 2))
  | fsqrtX (f : ExtForm) : IsFlagged (.fsqrtX f) (specialAct 2 f)
  | fexp2 (g : BaseForm) : IsFlagged (.fexp2 g) (specialAct 3 (g.toExt 8 3))
  | fexp2X (f : ExtForm) : IsFlagged (.fexp2X f) (specialAct 3 f)
  | flog2 (f : ExtForm) : IsFlagged (.flog2 f) (specialAct 4 f)
  | fsin (f : ExtForm) : IsFlagged (.fsin f) (specialAct 5 f)
  | fcos (f : ExtForm) : IsFlagged (.fcos f) (specialAct 6 f)
  | ftanh (f : ExtForm) : IsFlagged (.ftanh f) (specialAct 7 f)
  | shf (g : BaseForm) : IsFlagged (.shf g) (shuffleAct 0 (g.toExt 13 0))
  | shfX (f : ExtForm) : IsFlagged (.shfX f) (shuffleAct 0 f)
  | shfup (g : BaseForm) : IsFlagged (.shfup g) (shuffleAct 1 (g.toExt 13 1))
  | shfupX (f : ExtForm) : IsFlagged (.shfupX f) (shuffleAct 1 f)
  | shfdn (g : BaseForm) : IsFlagged (.shfdn g) (shuffleAct 2 (g.toExt 13 2))
  | shfdnX (f : ExtForm) : IsFlagged (.shfdnX f) (shuffleAct 2 f)
  | shfx (g : BaseForm) : IsFlagged (.shfx g) (shuffleAct 3 (g.toExt 13 3))
  | shfxX (f : ExtForm) : IsFlagged (.shfxX f) (shuffleAct 3 f)

/-! ### Scratchpads (R195 to R200) -/

/-- No fence of another path holds the group's accesses (R238). -/
def unfenced (s : State) : Prop := s.fenced = false

/-- Bytes of a size code (R196): code 0 is the type's own size. -/
def bytesOf (f : ExtForm) (size : Nat) : Nat :=
  if size = 1 ∨ size = 2 then 1
  else if size = 3 ∨ size = 4 then 2
  else if size = 5 then 16
  else if typeOf f 5 = 4 then 8 else 4

/-- Bytes of a load or store. -/
def dataBytes (f : ExtForm) : Nat := bytesOf f (f.mods.toNat % 8)

/-- Registers of the data of an access: four with `.x4`. -/
def dataRegs (f : ExtForm) : Nat := if f.mods.toNat % 8 = 5 then 4 else words f 5

/-- Data of a load or store. -/
def dataField (f : ExtForm) : Option Want := field (if f.mods.toNat % 8 = 5 then 1 else 3) (dataRegs f)

/-- The 32-bit address of a lane. -/
def addrOf (f : ExtForm) (s : State) (k : Nat) : Nat := (s.opA f 2 k + s.opB f 2 k) % 2 ^ 32

/-- The level takes the access: in the core scratchpad, a lane-private slice, the cluster's scratchpads or the die's (R195). -/
def fits (l : Launch) (major a n : Nat) : Prop :=
  if major = 0x13 then a + n ≤ l.scratch * 256
  else if major = 0x14 then a + n ≤ l.lanepriv * 16
  else if major = 0x15 then a < 2 ^ 24 ∧ a / 2 ^ 20 < l.w * l.h ∧ a % 2 ^ 20 + n ≤ l.scratch * 256
  else a + n ≤ l.diescratch * 2 ^ 20

/-- Every active lane's address is aligned and within the level. -/
def inLevel (major n : Nat) (f : ExtForm) (s : State) (act : Lanes) : Prop :=
  ∀ k, k < 32 → act.getLsbD k = true → addrOf f s k % n = 0 ∧ fits s.myLaunch major (addrOf f s k) n

/-- Operands of a load. -/
def loadUse (f : ExtForm) : Use := { d := dataField f, a := base 1, b := field 35 1 }

/-- Operands of a store. -/
def storeUse (f : ExtForm) : Use := { d := dataField f, a := base 1, b := field 35 1, dRead := true }

/-- Operands of a scratchpad atomic: `.cas` reads its destination. -/
def atomicUse (f : ExtForm) : Use :=
  { d := field 3 (words f 1), a := base 1, b := field 35 1, c := field 35 (words f 1), dRead := f.mods.toNat / 4 % 16 = 7 }

/-- The operation an access issues: what its lanes hold now. -/
def access (major idx : Nat) (kind : OpKind) (f : ExtForm) (s : State) (act : Lanes) : Op :=
  { s.accessOp major idx f act (addrOf f s) with kind := kind }

/-- A load or an atomic: a flag operation. -/
def loadAct (major idx : Nat) (kind : OpKind) (u : Use) (n : Nat) (f : ExtForm) : Act :=
  { f := f, u := u, when := fun s act => unfenced s ∧ inLevel major n f s act ∧ flagFree f s
    next := fun s act => s.issueFlag f (access major idx kind f s act) }

/-- A store to the core scratchpad or a lane-private slice: performed at issue, after the group's earlier accesses. -/
def storeAct (major : Nat) (f : ExtForm) : Act :=
  { f := f, u := storeUse f, when := fun s act => unfenced s ∧ inLevel major (dataBytes f) f s act
    next := fun s act =>
      ((performLevelAll (s.newOp (access major 1 .posted f s act)) s.sched.nextId).dropOp s.sched.nextId).advance }

/-- The output token can take `n` operations of a class, and a group does not hold four operations on preconditions (R171, R315). -/
def tokenFree (f : ExtForm) (cls : Nat) (s : State) : Prop :=
  tokenBusy s.me (inHandler s.me) f.out.toNat cls 1 = false ∧ (f.mask = 0#16 ∨ heldOps s (grp s) < 4)

/-- A cluster store: posted. -/
def postedAct (idx : Nat) (u : Use) (f : ExtForm) : Act :=
  { f := f, u := u
    when := fun s act => unfenced s ∧ inLevel 0x15 (dataBytes f) f s act ∧ (idx = 2 → s.opC f 5 (low act) < 32)
    next := fun s act => (s.newOp { access 0x15 idx .posted f s act with y := s.opC f 5 (low act) % 32 }).advance }

/-- A die-scratchpad access: it issues into its output token. -/
def dieAct (idx : Nat) (u : Use) (f : ExtForm) : Act :=
  { f := f, u := u, when := fun s act => unfenced s ∧ inLevel 0x16 (dataBytes f) f s act ∧ tokenFree f 2 s
    next := fun s act => s.engineOp f (access 0x16 idx .dieScratch f s act) }

/-- The scratchpad instructions. -/
inductive IsScratch : Instr → Act → Prop where
  | lds (g : BaseForm) : IsScratch (.lds g) (loadAct 0x13 0 .load (loadUse (g.toExt 0x13 0)) (dataBytes (g.toExt 0x13 0)) (g.toExt 0x13 0))
  | ldsX (f : ExtForm) : IsScratch (.ldsX f) (loadAct 0x13 0 .load (loadUse f) (dataBytes f) f)
  | ldl (g : BaseForm) : IsScratch (.ldl g) (loadAct 0x14 0 .load (loadUse (g.toExt 0x14 0)) (dataBytes (g.toExt 0x14 0)) (g.toExt 0x14 0))
  | ldlX (f : ExtForm) : IsScratch (.ldlX f) (loadAct 0x14 0 .load (loadUse f) (dataBytes f) f)
  | ldc (f : ExtForm) : IsScratch (.ldc f) (loadAct 0x15 0 .load (loadUse f) (dataBytes f) f)
  | atms (f : ExtForm) : IsScratch (.atms f) (loadAct 0x13 2 .atom (atomicUse f) (4 * words f 1) f)
  | atmc (f : ExtForm) : IsScratch (.atmc f) (loadAct 0x15 3 .atom (atomicUse f) (4 * words f 1) f)
  | sts (g : BaseForm) : IsScratch (.sts g) (storeAct 0x13 (g.toExt 0x13 1))
  | stsX (f : ExtForm) : IsScratch (.stsX f) (storeAct 0x13 f)
  | stl (g : BaseForm) : IsScratch (.stl g) (storeAct 0x14 (g.toExt 0x14 1))
  | stlX (f : ExtForm) : IsScratch (.stlX f) (storeAct 0x14 f)
  | stc (f : ExtForm) : IsScratch (.stc f) (postedAct 1 (storeUse f) f)
  | cput (f : ExtForm) : IsScratch (.cput f) (postedAct 2 { storeUse f with c := field 35 1 } f)
  | ldd (f : ExtForm) : IsScratch (.ldd f) (dieAct 0 (loadUse f) f)
  | std (f : ExtForm) : IsScratch (.std f) (dieAct 1 (storeUse f) f)

/-! ### Global memory (R211 to R215, R223, R240) -/

/-- The 64-bit address of a lane: a pair plus a sign-extended word. -/
def farAddr (f : ExtForm) (s : State) (k : Nat) : Nat :=
  (s.opA f 4 k + ((BitVec.ofNat 32 (s.opB f 5 k)).signExtend 64).toNat) % 2 ^ 64

/-- Every active lane's address is aligned to `n`. -/
def aligned (n : Nat) (f : ExtForm) (s : State) (act : Lanes) : Prop :=
  ∀ k, k < 32 → act.getLsbD k = true → farAddr f s k % n = 0

/-- Operands of a global load or store. -/
def farUse (store : Bool) (f : ExtForm) : Use := { d := dataField f, a := base 2, b := field 35 1, dRead := store }

/-- Operands of a global atomic; a scope code of 7 is illegal. -/
def farAtomicUse (reduce : Bool) (f : ExtForm) : Use :=
  { d := field (if reduce then 35 else 3) (words f 1), a := base 2, b := field 35 1
    c := if reduce then none else field 35 (words f 1), dRead := reduce || f.mods.toNat % 8 = 7, bad := f.mods.toNat / 8 % 8 = 7 }

/-- A global access issues into its output token, at its natural alignment, a load or store of 8 or 16 bytes at 4. -/
def globalAct (idx : Nat) (u : Use) (n : Nat) (f : ExtForm) : Act :=
  { f := f, u := u, when := fun s act => unfenced s ∧ aligned n f s act ∧ tokenFree f 1 s
    next := fun s act => s.engineOp f { s.accessOp 0x17 idx f act (farAddr f s) with kind := .global } }

/-- Operands of an instruction on lines: scopes outside the list are illegal. -/
def linesUse (f : ExtForm) (scopes : List Nat) : Use :=
  { a := base 2, b := field 35 1, bad := !decide (f.mods.toNat / 8 % 8 ∈ scopes) }

/-- Cleaning or discarding lines. -/
def lineAct (idx : Nat) (kind : OpKind) (scopes : List Nat) (f : ExtForm) : Act :=
  { f := f, u := linesUse f scopes, when := fun s _ => unfenced s ∧ tokenFree f 1 s
    next := fun s act => s.engineOp f
      { kind := kind, major := 0x18, idx := idx, active := act, addr := act.toList.map (fun k => (k, farAddr f s k)) } }

/-- The global-memory instructions. -/
inductive IsGlobal : Instr → Act → Prop where
  | ldg (f : ExtForm) : IsGlobal (.ldg f) (globalAct 0 (farUse false f) (min 4 (dataBytes f)) f)
  | stg (f : ExtForm) : IsGlobal (.stg f) (globalAct 1 (farUse true f) (min 4 (dataBytes f)) f)
  | atg (f : ExtForm) : IsGlobal (.atg f) (globalAct 2 (farAtomicUse false f) (4 * words f 1) f)
  | redg (f : ExtForm) : IsGlobal (.redg f) (globalAct 3 (farAtomicUse true f) (4 * words f 1) f)
  | pref (f : ExtForm) : IsGlobal (.pref f)
      { f := f, u := linesUse f [3, 4], when := fun s _ => unfenced s, next := fun s _ => s.advance }
  | cclean (f : ExtForm) : IsGlobal (.cclean f) (lineAct 1 .clean [4, 5] f)
  | cinval (f : ExtForm) : IsGlobal (.cinval f) (lineAct 2 .inval [3, 5] f)
  | acqr (f : ExtForm) : IsGlobal (.acqr f)
      { f := f
        u := { d := field 3 (words f 5), a := base 2, b := field 35 1
               bad := !decide (2 ≤ f.mods.toNat / 8 % 8 ∧ f.mods.toNat / 8 % 8 ≤ 4) }
        when := fun s act => unfenced s ∧ farAddr f s (low act) % bytesOf f 0 = 0 ∧ tokenFree f 1 s
        next := fun s act => s.engineOp f
          { kind := .acqr, major := 0x1D, idx := 2, active := act, dests := rangeFrom f.d.toNat (words f 5)
            addr := [(low act, farAddr f s (low act))] } }

/-! ### Tokens and chambers (R176 to R178, R184, R418) -/

/-- Bits of a mask operand: the tokens it names. -/
def named (s : State) (f : ExtForm) (act : Lanes) : List Nat := (List.range 16).filter (fun t => (opB0 s f act).testBit t)

/-- Idle: nothing outstanding and not armed. -/
def idle (s : State) (t : Nat) : Prop := (s.myTok t).count = 0 ∧ (s.myTok t).armed = false

/-- `tclr` of a token: every field is cleared, and the marks it covers. -/
def clearToken (h : Bool) (g : Group) (t : Nat) : Group :=
  let g1 := g.setTok h t { (g.tok h t) with poison := false, cause := 0, bytes := 0, cls := 0, tokf := 0 }
  { g1 with marks := g1.marks.filter (fun p => p.2 != (if h then t + 17 else t + 1)) }

/-- The tokens that a `tclr` still has to clear: those it has cleared before are not cleared again (R178). -/
def uncleared (s : State) (f : ExtForm) (act : Lanes) : List Nat :=
  (named s f act).filter (fun t => !(Sparse.get 0 s.me.clears s.sched.cur.pc).testBit t)

/-- The token instructions. A `twait` without `.tol` completes where the token carries no poison. -/
inductive IsToken : Instr → Act → Prop where
  | twait (f : ExtForm) : IsToken (.twait f)
      { f := f, u := { d := if f.mods.getLsbD 7 then onePred else none, b := small, bad := decide (16 ≤ f.a.toNat) }
        when := fun s act => (s.myTok f.a.toNat).count ≤ opB0 s f act ∧ (f.mods.getLsbD 7 = true ∨ (s.myTok f.a.toNat).poison = false)
        next := fun s act =>
          if f.mods.getLsbD 7 then (s.writeTruth act f.d.toNat (fun _ => (s.myTok f.a.toNat).poison)).advance else s.advance }
  | tsleep (f : ExtForm) : IsToken (.tsleep f)
      { f := f, u := { b := small }
        when := fun s act => if f.mods.getLsbD 0 then named s f act = [] ∨ (∃ t ∈ named s f act, (s.myTok t).count = 0)
          else ∀ t ∈ named s f act, (s.myTok t).count = 0
        next := fun s _ => (onMe s (fun g => { g with sleep := none })).advance }
  | tclr (f : ExtForm) : IsToken (.tclr f)
      { f := f, u := { b := small }, when := fun s act => ∀ t ∈ uncleared s f act, idle s t
        next := fun s act => (onMe (onMe s (fun g => (uncleared s f act).foldl (clearToken (inHandler s.me)) g)) (fun g =>
          { g with clears := Sparse.erase g.clears s.sched.cur.pc })).advance }
  | tjoin (f : ExtForm) : IsToken (.tjoin f)
      { f := f, u := {}, when := fun s _ => tokenFree f 0 s
        next := fun s act =>
          let s1 := s.engineOp f { kind := .tjoin, major := 0x19, idx := 4, active := act }
          if f.mask = 0#16 then finishOp s1 s.sched.nextId 0 none else s1 }
  | tsig (f : ExtForm) : IsToken (.tsig f)
      { f := f, u := { b := small }, when := fun s _ => tokenFree f 0 s
        next := fun s act => finishOp (s.engineOp f { kind := .tsig, major := 0x19, idx := 6, active := act }) s.sched.nextId
          (opB0 s f act) (if f.mods.getLsbD 7 then some { cause := Cause.signalled, valid := false } else none) }

/-- Scope of a chamber instruction. -/
abbrev scope (f : ExtForm) : Nat := f.mods.toNat / 8 % 8

/-- The chamber's address: 32 bits in a scratchpad, 64 in memory. -/
def chamberAddr (f : ExtForm) (s : State) (act : Lanes) : Nat :=
  if scope f ≤ 2 then addrOf f s (low act) else farAddr f s (low act)

/-- Operands of a chamber instruction beside its own: an address, and one of the four scopes. -/
def chamberUse (f : ExtForm) (u : Use) : Use :=
  { u with a := base (if scope f ≤ 2 then 1 else 2), bad := u.bad || !(scope f = 1 || scope f = 2 || scope f = 4 || scope f = 6) }

/-- A chamber stands at the address, and an access of its kind (0 read, 1 write, 2 both) passes the checks of issue. -/
def reached (kind : AccessKind) (f : ExtForm) (s : State) (act : Lanes) (c : ChamberAt) : Prop :=
  unfenced s ∧ chamberCause s s.myCore (team s) (scope f) (chamberAddr f s act) kind = 0 ∧
    chamberAt s (team s) (scope f) (chamberAddr f s act) = some c

/-- None of the group's earlier arrivals at the chamber is on its way. -/
def settled (s : State) (f : ExtForm) (act : Lanes) : Prop := arrivalsPending s f act = false

/-- The phase bit a wait names. -/
def phaseBit (s : State) (f : ExtForm) (act : Lanes) : Bool := s.opC f 5 (low act) % 2 = 1

/-- `chini` and `charr` act on the chamber at an address that is reached. -/
inductive IsChamber : Instr → ChamberAt → Act → Prop where
  | chini (f : ExtForm) (c : ChamberAt) : IsChamber (.chini f) c
      { f := f, u := chamberUse f { d := field 3 1, b := small, c := small, dRead := true }
        when := fun s act => reached 1 f s act c ∧ settled s f act ∧ ∃ s1, writeChamber s s.myAgent c
          { arrivals := s.opC f 5 (low act) % 65536, pending := s.opC f 5 (low act) % 65536, expbytes := s.opD f 5 (low act)
            scope := chamberScope (scope f) } = .ok () s1
        next := fun s act =>
          match writeChamber s s.myAgent c
              { arrivals := s.opC f 5 (low act) % 65536, pending := s.opC f 5 (low act) % 65536, expbytes := s.opD f 5 (low act)
                scope := chamberScope (scope f) } with
          | .ok _ s1 => (noteChamber s1 s.myAgent c).advance
          | _ => s }
  | charr (f : ExtForm) (c : ChamberAt) : IsChamber (.charr f) c
      { f := f, u := chamberUse f { b := small, c := field 35 1 }, when := fun s act => reached 2 f s act c
        next := fun s act =>
          (s.newOp { kind := .charr, grp := grp s, core := s.myCore, major := 0x1A, idx := 1, f := some f, active := act
                     addr := [(0, chamberAddr f s act)], x := s.opC f 5 (low act), y := if f.mods.getLsbD 7 then 0 else 1 }).advance }
  | texp (f : ExtForm) (c : ChamberAt) : IsChamber (.texp f) c
      { f := f, u := chamberUse f { b := field 35 1, bad := decide (16 ≤ f.c.toNat) }
        when := fun s act => reached 2 f s act c ∧ (s.myTok f.c.toNat).armed = false
        next := fun s act =>
          let h := inHandler s.me
          tryExport (onMe s (fun g => g.setTok h f.c.toNat
            { s.myTok f.c.toNat with armed := true, scope := scope f, addr := chamberAddr f s act })).advance (grp s) h f.c.toNat }

/-- `chwait` and `chtest` at a chamber that a read gives, with the state after the read. A `chwait` passes once the phase has left the one
it names, at the scope the chamber was initialised for; poison passes with `.tol` alone. -/
inductive IsChamberRead : Instr → ChamberAt → Chamber → State → Act → Prop where
  | chwait (f : ExtForm) (c : ChamberAt) (x : Chamber) (t : State) : IsChamberRead (.chwait f) c x t
      { f := f, u := chamberUse f { d := if f.mods.getLsbD 7 then onePred else none, b := small, c := small }
        when := fun s act => reached 0 f s act c ∧ settled s f act ∧ readChamber s s.myAgent c = .ok x t ∧ x.phase ≠ phaseBit s f act ∧
          chamberScope (scope f) = x.scope ∧ (f.mods.getLsbD 7 = true ∨ x.poison = false)
        next := fun _ act => if f.mods.getLsbD 7 then (t.writeTruth act f.d.toNat (fun _ => x.poison)).advance else t.advance }
  | chtest (f : ExtForm) (c : ChamberAt) (x : Chamber) (t : State) : IsChamberRead (.chtest f) c x t
      { f := f, u := chamberUse f { d := onePred, b := small, c := small }
        when := fun s act => reached 0 f s act c ∧ settled s f act ∧ readChamber s s.myAgent c = .ok x t
        next := fun s act => (t.writeTruth act f.d.toNat (fun _ => x.phase ≠ phaseBit s f act)).advance }

/-! ### Barriers and semaphores (R203 to R209) -/

/-- The named barrier of the team in hand. -/
abbrev barrier (s : State) (k : Nat) : Barrier := (s.team (team s)).nb k

/-- A count of the team's members (R203). -/
def inRange (f : ExtForm) (s : State) (act : Lanes) : Prop := 0 < opB0 s f act ∧ opB0 s f act ≤ s.myLaunch.groups + s.myLaunch.barges

/-- A count the barrier accepts from a group (R204): 1 to the members of the team, and equal to what is expected, unless the group has
arrived or nothing is expected yet. -/
def countOk (f : ExtForm) (s : State) (act : Lanes) : Prop :=
  let n := opB0 s f act
  let b := barrier s f.a.toNat
  0 < n ∧ n ≤ s.myLaunch.groups + s.myLaunch.barges ∧ (b.mask.testBit (idxOf (grp s)) = true ∨ b.expected = 0 ∨ n = b.expected)

/-- The group arrives (R204), once. -/
def arrived (f : ExtForm) (s : State) (act : Lanes) : Barrier :=
  let b := barrier s f.a.toNat
  let me := idxOf (grp s)
  if b.mask.testBit me then b
  else { b with expected := opB0 s f act, arrived := b.arrived + 1, mask := setBits b.mask me 1 1 }

/-- Operands of a barrier instruction. -/
def barrierUse (counted : Bool) (f : ExtForm) : Use := { b := if counted then small else none, bad := decide (16 ≤ f.a.toNat) }

/-- A semaphore of the core that the lowest active lane names. -/
def semOk (f : ExtForm) (s : State) (act : Lanes) : Prop := s.opA f 5 (low act) < 32

/-- Semaphore the lowest active lane names. -/
abbrev semNo (f : ExtForm) (s : State) (act : Lanes) : Nat := s.opA f 5 (low act)

/-- `sinc`: modulo 2³², at issue. -/
def sincAct (f : ExtForm) : Act :=
  { f := f, u := { a := small, b := small }, when := semOk f
    next := fun s act => (s.setSem s.myCore (semNo f s act) ((s.sem s.myCore (semNo f s act) + opB0 s f act) % 2 ^ 32)).advance }

/-- `swait` of 0 passes at once; of more, at the head of the queue once the count suffices, which it lowers. -/
def swaitAct (f : ExtForm) : Act :=
  { f := f, u := { a := small, b := small }
    when := fun s act => semOk f s act ∧ (opB0 s f act = 0 ∨
      (s.semQueue s.myCore (semNo f s act) = [] ∧ opB0 s f act ≤ s.sem s.myCore (semNo f s act)))
    next := fun s act =>
      let k := semNo f s act
      let me : Waiter := .path (grp s) s.sched.cur.pc
      if opB0 s f act = 0 then s.endSem.advance
      else
        let s1 := s.joinSem s.myCore k me
        let s2 := if (k, s.sched.cur.pc) ∈ s.me.semWaits then s1
          else s1.modGroup (grp s) (fun g => { g with semWaits := g.semWaits ++ [(k, s.sched.cur.pc)] })
        ((s2.setSem s.myCore k (s2.sem s.myCore k - opB0 s f act)).endSem).advance }

/-- `sread`. -/
def sreadAct (f : ExtForm) : Act :=
  { f := f, u := { d := regDst 1, a := small }, when := semOk f
    next := fun s act => (s.writeDest act [f.d.toNat] (fun _ => s.sem s.myCore (semNo f s act))).advance }

/-- The barrier and semaphore instructions. -/
inductive IsSync : Instr → Act → Prop where
  | nbarr (f : ExtForm) : IsSync (.nbarr f)
      { f := f, u := barrierUse true f, when := countOk f
        next := fun s act => (s.setNb (team s) f.a.toNat (arrived f s act)).advance }
  | nbwait (f : ExtForm) : IsSync (.nbwait f)
      { f := f, u := barrierUse false f
        when := fun s _ => match s.myNbWait f.a.toNat with
          | some w => w.2.2 = true
          | none => (barrier s f.a.toNat).mask.testBit (idxOf (grp s)) = false
        next := fun s _ => if (s.myNbWait f.a.toNat).isSome then s.endNb.advance else s.advance }
  | nbsync (f : ExtForm) : IsSync (.nbsync f)
      { f := f, u := barrierUse true f
        when := fun s act => match s.myNbWait f.a.toNat with
          | some w => w.2.2 = true
          | none => s.me.nbpend.testBit f.a.toNat = true ∧ inRange f s act ∧
              (barrier s f.a.toNat).phase ≠ s.me.nbph.testBit f.a.toNat
        next := fun s _ => ((onMe s (fun g => g.setPend f.a.toNat false (g.nbph.testBit f.a.toNat))).endNb).advance }
  | sinc (g : BaseForm) : IsSync (.sinc g) (sincAct (g.toExt 0x1C 0))
  | sincX (f : ExtForm) : IsSync (.sincX f) (sincAct f)
  | swait (g : BaseForm) : IsSync (.swait g) (swaitAct (g.toExt 0x1C 1))
  | swaitX (f : ExtForm) : IsSync (.swaitX f) (swaitAct f)
  | sread (g : BaseForm) : IsSync (.sread g) (sreadAct (g.toExt 0x1C 2))
  | sreadX (f : ExtForm) : IsSync (.sreadX f) (sreadAct f)

/-! ### Fences, the register allotment, `csync` and `gsync` (R110, R238, R239, R327, R329) -/

/-- The fence a path brings to the group, or the one it has brought. -/
def fenceOf (s : State) (scope : Nat) (rel acq holds : Bool) : Fence :=
  (s.me.fences.find? (fun x => x.pc = s.sched.cur.pc)).getD
    { pc := s.sched.cur.pc, scope := scope, rel := rel, acq := acq, upto := s.sched.nextId, holds := holds }

/-- A fence of this path has waited for what it covers (R238); a release at system scope has first drained what combines (R363). -/
def fenceOver (s : State) (scope : Nat) (rel acq holds : Bool) : Prop :=
  ((∃ x ∈ s.me.fences, x.pc = s.sched.cur.pc) ∨ ¬ (rel = true ∧ scope = 6)) ∧ (fenceOf s scope rel acq holds).done s (grp s) = true

/-- The state after a fence: the path's is gone, those of the group's other paths stay. -/
def afterFence (s : State) (scope : Nat) (rel acq holds : Bool) : State :=
  let x := fenceOf s scope rel acq holds
  ((if x.rel then writeBack s x.scope else s).modGroup (grp s) (fun g =>
    { g with fences := g.fences.filter (fun y => y.pc != s.sched.cur.pc) })).advance

/-- `racq`: it completes where the group holds its registers, and where the launch grants no more than the prologue; elsewhere with the grant. -/
def racqAct (f : ExtForm) : Act :=
  { f := f, u := {}, when := fun s _ => s.me.held = true ∨ s.myLaunch.full = 32
    next := fun s _ => if s.me.held then s.advance else (onMe s Group.granted).advance }

/-- `rrel`: once nothing outstanding writes `v32` or above, the registers from `v32` up are given back; the core may grant them again from
the next cycle on. -/
def rrelAct (f : ExtForm) : Act :=
  { f := f, u := {}, when := fun s _ => s.me.held = true → ∀ n ∈ pendingRegs s (grp s), n < 32 ∨ 1536 ≤ n
    next := fun s _ =>
      if s.me.held then
        (noteReturned s.myCore s (onMe s (fun g => { g with
          held := false, rrelAt := none, v := g.v.filter (fun p => p.1 < 1024)
          marks := g.marks.filter (fun p => p.1 < 32 || 1536 ≤ p.1)
          latches := g.latches.filter (fun l => l.name < 32 || 1536 ≤ l.name) }))).advance
      else s.advance }

/-- The instructions that order. -/
inductive IsOrder : Instr → Act → Prop where
  | fence (f : ExtForm) : IsOrder (.fence f)
      { f := f, u := { bad := scope f = 7 }
        when := fun s _ => fenceOver s (scope f) (2 ≤ f.mods.toNat % 4) (f.mods.toNat % 2 = 1) true
        next := fun s _ => afterFence s (scope f) (2 ≤ f.mods.toNat % 4) (f.mods.toNat % 2 = 1) true }
  | tfence (f : ExtForm) : IsOrder (.tfence f)
      { f := f, u := { bad := !(scope f = 4 || scope f = 5) }
        when := fun s _ => unfenced s ∧ fenceOver s (scope f) true false false
        next := fun s _ => (afterFence s (scope f) true false false).modXlat (fun x => { x with walk := [], walks := [] }) }
  | racq (g : BaseForm) : IsOrder (.racq g) (racqAct (g.toExt 0x1E 0))
  | racqX (f : ExtForm) : IsOrder (.racqX f) (racqAct f)
  | rrel (g : BaseForm) : IsOrder (.rrel g) (rrelAct (g.toExt 0x1E 1))
  | rrelX (f : ExtForm) : IsOrder (.rrelX f) (rrelAct f)
  | csync (f : ExtForm) : IsOrder (.csync f)
      { f := f, u := {}
        when := fun s _ => f.mods.getLsbD 0 = true → inHandler s.me = true ∧ ∃ n, s.myGenWait = some n ∧ n ≤ (s.team (team s)).csEpoch
        next := fun s _ =>
          let s1 := onMe s (fun g => { g with fetched := [] })
          if f.mods.getLsbD 0 then (onMe s1 (fun g => g.endGen s.sched.cur.pc)).advance else s1.advance }
  | gsync (f : ExtForm) : IsOrder (.gsync f)
      { f := f, u := {}
        when := fun s _ => s.myLaunch.gridsync = true ∧ ∃ n, s.myGenWait = some n ∧ n ≤ s.myLaunch.epoch
        next := fun s _ => (onMe s (fun g => g.endGen s.sched.cur.pc)).advance }

/-! ### Special registers, invalidations, traps (R111, R185, R249, R303, R307, R319, R326, R328, R401) -/

/-- Value a `swr` writes: its operand, a pair for a register of 64 bits. -/
def written (s : State) (f : ExtForm) (act : Lanes) : Nat := s.opD f (if sregWidth f.a.toNat = some 64 then 4 else 5) (low act)

/-- Operands of a `swr`. -/
def swrFields (n : Nat) : Use := { d := field 34 (sregWords n), dRead := true }

/-- `swr` acts in a handler: elsewhere its register is no operand it may name. -/
def swrAct (n : Nat) (f : ExtForm) (when : State → Lanes → Prop) (next : State → Nat → State) : Act :=
  { f := f, u := swrFields n, when := when, next := fun s act => (next s (written s f act)).advance }

/-- In a handler. -/
def handling (s : State) : Prop := inHandler s.me = true

/-- The group may run privileged instructions (R249). -/
def privileged (s : State) : Prop := inHandler s.me = true ∨ s.myLaunch.priv = true

/-- The special-register writes. -/
inductive IsSwr : Instr → Act → Prop where
  | barrier (f : ExtForm) (h : 128 ≤ f.a.toNat ∧ f.a.toNat < 144) : IsSwr (.swr f)
      (swrAct f.a.toNat f (fun s _ => handling s) (fun s x => s.setNb (team s) (f.a.toNat - 128) (Barrier.ofImage x)))
  | tokf (f : ExtForm) (h : 144 ≤ f.a.toNat ∧ f.a.toNat < 160) : IsSwr (.swr f)
      (swrAct f.a.toNat f (fun s _ => handling s) (fun s x =>
        s.setMyTok (f.a.toNat - 144) (fun k => { k with tokf := x % 2 ^ 64 })))
  | signed (f : ExtForm) (h : 160 ≤ f.a.toNat ∧ f.a.toNat < 172) : IsSwr (.swr f)
      (swrAct f.a.toNat f (fun s _ => handling s) (fun s x =>
        onMe s (fun g => g.putJoin (f.a.toNat - 160) { g.join (f.a.toNat - 160) with signed := BitVec.ofNat 32 x })))
  | image (f : ExtForm) (h : 192 ≤ f.a.toNat ∧ f.a.toNat < 256) : IsSwr (.swr f)
      (swrAct f.a.toNat f (fun s _ => handling s) (fun s x =>
        let n := f.a.toNat - 192
        s.modEngine s.myCore (fun e => { e with images := Sparse.set 0 e.images n (imageWord (n % 8) x) })))
  | swrTok (f : ExtForm) : IsSwr (.swrTok f)
      (swrAct f.a.toNat f (fun s _ => handling s) (fun s x =>
        tryExport (s.setMyTok (f.a.toNat - 96) (fun k => k.ofImage x)) (grp s) false (f.a.toNat - 96)))
  | swrTokx (f : ExtForm) : IsSwr (.swrTokx f)
      (swrAct f.a.toNat f (fun s _ => handling s) (fun s x =>
        tryExport (s.setMyTok (f.a.toNat - 112)
          (fun k => { k with armed := x.testBit 63, scope := x / 2 ^ 60 % 8, addr := x % 2 ^ 57 })) (grp s) false (f.a.toNat - 112)))
  | swrMxBudget (f : ExtForm) : IsSwr (.swrMxBudget f)
      (swrAct f.a.toNat f (fun s _ => privileged s) (fun s x =>
        if x % 128 = 0 ∨ 64 < x % 128 then s else s.modEngine s.myCore (fun e => { e with budget := x % 128 })))
  | discard (f : ExtForm) : IsSwr (.swrMxQ f)
      (swrAct 177 f (fun s act => handling s ∧ written s f act % 16 = 0) (fun s _ =>
        s.modEngine s.myCore (fun e => { e with images := [], nimages := 0, parked := [] })))
  | load (f : ExtForm) : IsSwr (.swrMxQ f)
      (swrAct 177 f (fun s act => handling s ∧ 0 < written s f act % 16 ∧ written s f act % 16 ≤ 8 ∧
          (s.engine s.myCore).holder = some (team s) ∧ (s.engine s.myCore).queue = [])
        (fun s x => (loadQueue s.myCore (team s) (grp s) (x % 16) 0 s).modEngine s.myCore (fun e =>
          { e with images := [], nimages := 0, parked := [] })))

/-- An engine operation of two numbers. -/
def twoOp (kind : OpKind) (major idx : Nat) (act : Lanes) (x y : Nat) : Op :=
  Op.ofTwo { kind := kind, major := major, idx := idx, active := act } x y

/-- Held operations a frame carries (R314). -/
def heldCount (bs : List Byte) : Nat := min 4 (frameField bs 0x18 8 / 2 ^ 32 % 16)

/-- The invalidations, the traps, and the returns from a handler: `rtt.res` with the frame's bytes and its images' (R319). -/
inductive IsSystem : Instr → Act → Prop where
  | icinv (f : ExtForm) : IsSystem (.icinv f)
      { f := f, u := { a := base 2, b := small, bad := !(scope f = 1 || scope f = 3 || scope f = 4) }
        when := fun s _ => unfenced s ∧ tokenFree f 1 s
        next := fun s act => s.engineOp f (twoOp .icinv 0x27 4 act (s.opA f 4 (low act)) (opB0 s f act)) }
  | tlbinv (f : ExtForm) : IsSystem (.tlbinv f)
      { f := f, u := { a := if f.mods.toNat % 4 = 2 then base 2 else none, b := if f.mods.toNat % 4 = 0 then none else small }
        when := fun s _ => unfenced s ∧ privileged s ∧ tokenFree f 1 s
        next := fun s act => s.engineOp f (twoOp .tlbinv 0x27 5 act
          (if f.mods.toNat % 4 = 2 then s.opA f 4 (low act) else 0) (if f.mods.toNat % 4 = 0 then 0 else opB0 s f act)) }
  | biasset (f : ExtForm) : IsSystem (.biasset f)
      { f := f, u := { a := base 2, b := small }
        when := fun s act => unfenced s ∧ privileged s ∧ s.opA f 4 (low act) % 4096 = 0 ∧ 0 < opB0 s f act ∧ opB0 s f act ≤ 4096 ∧
          tokenFree f 1 s
        next := fun s act => s.engineOp f (twoOp .bias 0x27 6 act (s.opA f 4 (low act)) (opB0 s f act)) }
  | trap (f : ExtForm) : IsSystem (.trap f)
      { f := f, u := { b := small }, when := always
        next := fun s act => s.raise (causeAll act Cause.trap) (opB0 s f act % 65536) none true }
  | brk (f : ExtForm) : IsSystem (.brk f)
      { f := f, u := { b := small }, when := always
        next := fun s act => s.raise (causeAll act Cause.breakpoint) (opB0 s f act % 65536) none true }
  | rttEnd (f : ExtForm) : IsSystem (.rttEnd f)
      { f := f, u := {}, when := fun s _ => handling s ∧ handlerDone s.me = true
        next := fun s _ =>
          let c := (s.team (team s)).cause
          (stopLaunch s (launchOfTeam (team s)) (if c = 0 then 5 else 4) c (if c = 0 then 0 else gridTeamOf (team s))).modGroup s.sched.cur.grp
            Group.counted }
  | rttSave (f : ExtForm) : IsSystem (.rttSave f)
      { f := f, u := {}, when := fun s _ => handling s ∧ handlerDone s.me = true ∧ s.me.entPreempt = true
        next := fun s _ =>
          tryReclaim (onMe s (fun g => { g.counted with mode := .saved, active := false, held := false })) (team s) }
  | rttRes (f : ExtForm) (bs imgs : List Byte) (s1 s2 : State) : IsSystem (.rttRes f)
      { f := f, u := {}
        when := fun s _ => handling s ∧ handlerDone s.me = true ∧
          s.load (agentOn s s.myCore (launchOfGrp (grp s))) (frameAddr s (grp s)) 0x4B0 = .ok bs s1 ∧
          s1.load (agentOn s s.myCore (launchOfGrp (grp s))) (frameAddr s (grp s) + 0x1000) (0x400 * heldCount bs) = .ok imgs s2
        next := fun s _ =>
          let s3 := s2.modGroup (grp s) (fun g => g.counted.restore bs)
          let s4 := refillAll (grp s) s.myCore imgs (heldCount bs) 0 s3
          let q := frameField bs 0x10 8
          let reads := (if q.testBit 63 then [QRead.ofWord q] else []) ++ (s4.group (grp s)).qread
          let s5 := reads.foldl (reissueRead (grp s)) (s4.modGroup (grp s) (fun g => { g with qread := [] }))
          afterHandlers (groupExit (drainAll s5 (grp s)) (grp s)) (team s) }

/-! ### Barges, the matrix engine (R264 to R267, R287, R292, R294, R300) -/

/-- The barge that the lowest active lane names is one of the team's. -/
def bargeOk (f : ExtForm) (s : State) (act : Lanes) : Prop := opB0 s f act < s.myLaunch.barges ∧ opB0 s f act < 4

/-- Its key. -/
abbrev bargeNo (f : ExtForm) (s : State) (act : Lanes) : Nat := 4 * team s + opB0 s f act

/-- The barge is neither armed, running nor waiting. -/
def atRest (f : ExtForm) (s : State) (act : Lanes) : Prop := (s.barge (bargeNo f s act)).busy = false

/-- The output token can take the operations of a run, one and one more for each `.seg` (R264). -/
def runFree (f : ExtForm) (s : State) : Prop :=
  tokenBusy s.me (inHandler s.me) f.out.toNat 3 (1 + f.mods.toNat % 16) = false

/-- Arguments of a run: four pairs of scalars from C. -/
def arguments (f : ExtForm) (s : State) : Sparse Nat :=
  (rangeFrom 0 4).foldl (fun m k => Sparse.set 0 m k (s.me.read 4 (f.c.toNat + 2 * k) 0)) []

/-- Operands of `bgo`: with `.try` a predicate for whether the run was taken. -/
def bgoUse (f : ExtForm) : Use :=
  { d := if f.mods.getLsbD 7 then onePred else none, a := base 2, b := small, c := some { cls := 2, words := 8, align := 2 }
    bad := decide (1592 < f.c.toNat) }

/-- The instructions of barges. -/
inductive IsBargeControl : Instr → Act → Prop where
  | bgo (f : ExtForm) : IsBargeControl (.bgo f)
      { f := f, u := bgoUse f
        when := fun s act => unfenced s ∧ bargeOk f s act ∧ s.opA f 4 (low act) % 8 = 0 ∧ atRest f s act ∧ runFree f s
        next := fun s act =>
          let s1 := if f.mods.getLsbD 7 then s.writeTruth act f.d.toNat (fun _ => true) else s
          (armBarge f (bargeNo f s act) s1 { pc := s.opA f 4 (low act) % 2 ^ 57, a := arguments f s }).advance }
  | bres (f : ExtForm) : IsBargeControl (.bres f)
      { f := f, u := { b := small }
        when := fun s act => unfenced s ∧ bargeOk f s act ∧ atRest f s act ∧ (s.barge (bargeNo f s act)).mode ≠ .idle ∧ runFree f s
        next := fun s act =>
          let x := s.barge (bargeNo f s act)
          (armBarge f (bargeNo f s act) s { x with word := 0 }).advance }
  | bstop (f : ExtForm) : IsBargeControl (.bstop f)
      { f := f, u := { b := small }, when := fun s act => unfenced s ∧ bargeOk f s act ∧ f.mask = 0#16 ∧ tokenFree f 3 s
        next := fun s act => stopNow (s.engineOp f { kind := .bstop, major := 0x20, idx := 1, active := act, x := bargeNo f s act })
          s.sched.nextId }
  | bresLd (f : ExtForm) : IsBargeControl (.bresLd f)
      { f := f, u := { a := base 1, b := small }
        when := fun s act => unfenced s ∧ bargeOk f s act ∧ atRest f s act ∧ s.opA f 2 (low act) % 64 = 0 ∧
          s.opA f 2 (low act) + 256 ≤ s.myLaunch.scratch * 256 ∧
          recordBad (recordWord s (team s) (s.opA f 2 (low act))) s.myLaunch.groups = false
        next := fun s act =>
          (loadBarge (recordWord s (team s) (s.opA f 2 (low act))) (bargeNo f s act) s).advance }
  | bstat (f : ExtForm) : IsBargeControl (.bstat f)
      { f := f, u := { d := regDst 2, b := small, c := small }
        when := fun s act => unfenced s ∧ bargeOk f s act ∧ s.opC f 5 (low act) < 32
        next := fun s act => (s.writeDest act [f.d.toNat, f.d.toNat + 1]
          (fun _ => bargeRecord (s.barge (bargeNo f s act)) (s.opC f 5 (low act)))).advance }
  | mxres (f : ExtForm) : IsBargeControl (.mxres f)
      { f := f, u := { d := onePred }, when := always
        next := fun s act =>
          let e := s.engine s.myCore
          let ok : Bool := e.holder = some (team s) || (e.holder = none && !e.zeroing)
          ((if ok then s.modEngine s.myCore (fun e => { e with holder := some (team s) }) else s).writeTruth act f.d.toNat
            (fun _ => ok)).advance }
  | mxrel (f : ExtForm) : IsBargeControl (.mxrel f)
      { f := f, u := {}, when := fun s _ => (s.engine s.myCore).holder = some (team s) → (s.engine s.myCore).queue = []
        next := fun s _ => if (s.engine s.myCore).holder = some (team s) then
            ((s.modEngine s.myCore (fun e => { e with holder := none, zeroing := true })).modScr (fun c =>
              { c with zero := c.zero.filter (fun z => z.team ≠ team s) })).advance
          else s.advance }
  | mxsign (f : ExtForm) : IsBargeControl (.mxsign f)
      { f := f, u := { d := oneMask }, when := always
        next := fun s act => (onMask s f.d (fun j => { j with signed := j.signed ||| act })).advance }

/-! ### Matrix operations (R291 to R300, R308) -/

/-- Major, index, and whether A and B name records, of a matrix instruction. -/
inductive IsMatrix : Instr → ExtForm → Nat → Nat → Bool → Bool → Prop where
  | mma (f : ExtForm) : IsMatrix (.mma f) f 0x22 0 true true
  | mmac (f : ExtForm) : IsMatrix (.mmac f) f 0x22 1 true true
  | mxclr (f : ExtForm) : IsMatrix (.mxclr f) f 0x23 0 false false
  | mxld (f : ExtForm) : IsMatrix (.mxld f) f 0x23 1 true false
  | mxst (f : ExtForm) : IsMatrix (.mxst f) f 0x23 2 true false
  | mxscl (f : ExtForm) : IsMatrix (.mxscl f) f 0x23 3 true true

/-- Operands: a join mask or `pt`, the records' offsets, the shape pair. -/
def matrixUse (useA useB : Bool) : Use :=
  { d := field 24 1, a := if useA then small else none, b := if useB then small else none, c := field 2 2 }

/-- The lanes a matrix instruction acts for: the live members of its mask, or with `pt` every live lane (R291). -/
def signers (s : State) (f : ExtForm) : Lanes :=
  if f.d = 1671#11 then s.me.live else (s.me.join (f.d.toNat - 1672)).members &&& s.me.live

/-- Lane `e` issues the instruction: the lowest of its lanes, present, guarded, and with every lane signed (R291). -/
structure Elected (s : State) (f : ExtForm) (e : Nat) : Prop where
  first : (signers s f).lowest = some e
  present : s.sched.cur.lanes.getLsbD e = true
  guarded : (guardLanes s.me f).getLsbD e = true
  signed : f.d = 1671#11 ∨ Lanes.sub (signers s f) (s.me.join (f.d.toNat - 1672)).signed = true

/-- A record's offset that lane `e` gives is aligned and within the scratchpad (R294). -/
def recordAt (s : State) (o : Nat) : Prop := o % 64 = 0 ∧ o + 64 ≤ s.myLaunch.scratch * 256

/-- Lane `e` may issue the operation now: shape and records are legal (R294, R308), the team holds its engine (R287), the queue and the
token take one more (R171, R300). -/
structure MatrixReady (s : State) (f : ExtForm) (major idx : Nat) (useA useB : Bool) (e : Nat) : Prop where
  unfenced : unfenced s
  shape : shapeCause major idx (elemOf (typeOf f 8) f.mods.toNat) (s.opC f 4 e) (s.myLaunch.w * s.myLaunch.h) = 0
  a : useA = true → recordAt s (s.opA f 5 e)
  b : useB = true → recordAt s (s.opB f 5 e)
  holder : (s.engine s.myCore).holder = some (team s)
  queue : (s.engine s.myCore).queue.length < 8
  token : tokenBusy s.me (inHandler s.me) f.out.toNat 4 1 = false

/-- The entry a matrix operation makes in its engine's queue. -/
def matrixEntry (s : State) (f : ExtForm) (major idx : Nat) (useA useB : Bool) (e : Nat) : MxOp :=
  { op := s.sched.nextId, major := major, minor := f.ty.toNat * 16 + idx, mods := f.mods.toNat, grp := grp s, token := f.out.toNat
    handler := inHandler s.me, mask := f.mask.toNat, waits := waitsOf s.me (inHandler s.me) f.mask.toNat
    pre := preOf s.me (inHandler s.me) f.mask.toNat (waitsOf s.me (inHandler s.me) f.mask.toNat) none, shape := s.opC f 4 e
    a := if useA then s.opA f 5 e else 0, b := if useB then s.opB f 5 e else 0, lane := e }

/-- After the issue: the operation is in its token and in the queue, and the signatures are used up. -/
def afterMatrix (s : State) (f : ExtForm) (major idx : Nat) (useA useB : Bool) (e : Nat) : State :=
  let s1 := (s.engineOp f { kind := .matrix, major := major, idx := idx, active := s.sched.cur.lanes }).modOp s.sched.nextId
    (fun o => { o with held := false, x := e })
  let s2 := s1.modEngine s.myCore (fun en => { en with queue := enqueue s1 s.myCore (matrixEntry s f major idx useA useB e) en.queue })
  if f.d = 1671#11 then s2
  else onMask s2 f.d (fun j => { j with signed := j.signed &&& ~~~(j.members &&& s.me.live) })

/-! ### Near memory, queues, the fabric (R280, R343, R344, R351 to R354, R364 to R366, R372, R376) -/

/-- Slot of the team in hand. -/
abbrev slotNo (s : State) (n : Nat) : Nat := 16 * team s + n

/-- The 64-byte or 32-byte record that the lowest active lane names lies whole in the scratchpad. -/
def recordIn (n : Nat) (f : ExtForm) (s : State) (act : Lanes) : Prop :=
  addrOf f s (low act) % n = 0 ∧ addrOf f s (low act) + n ≤ s.myLaunch.scratch * 256

/-- A table record is read after the group's earlier scratchpad accesses. -/
def afterOlder (f : ExtForm) (s : State) (act : Lanes) : State :=
  performOlder s (grp s) s.sched.nextId (scrKey (team s) (addrOf f s (low act))) 32

/-- The table record. -/
def tableOf (f : ExtForm) (s : State) (act : Lanes) : TableRec :=
  let w := recordWord (afterOlder f s act) (team s) (addrOf f s (low act))
  { w0 := w 0, w1 := w 1, w2 := w 2, w3 := w 3 }

/-- The rows it asks for. -/
def askedRows (f : ExtForm) (s : State) (act : Lanes) : Nat := (tableOf f s act).w1 / 2 ^ 32 % 2 ^ 29

/-- Commands of a push: each active lane's of a `v` pair, else one. -/
def commands (s : State) (f : ExtForm) (act : Lanes) : List Nat :=
  if f.a.toNat < 1536 then act.toList.map (s.opA f 4) else [s.opA f 4 (low act)]

/-- The queue instructions. -/
inductive IsQueue : Instr → Act → Prop where
  | write (f : ExtForm) : IsQueue (.movQueueWrite f)
      { f := f, u := { a := field 63 (words f 5), bad := !(32 ≤ queueNo f.d && queueNo f.d < 48) }
        when := fun s _ => s.myLaunch.barges ≠ 0 ∧ (s.queueOf (team s) (queueNo f.d)).length < 8
        next := fun s act =>
          (s.setQueue (team s) (queueNo f.d) (s.queueOf (team s) (queueNo f.d) ++ [s.opA f (typeOf f 5) (low act)])).advance }
  | read (f : ExtForm) : IsQueue (.movQueueRead f)
      { f := f, u := { d := field 15 (words f 5), bad := !(48 ≤ queueNo f.a && queueNo f.a < 64) }
        when := fun s _ => s.myLaunch.barges ≠ 0 ∧ s.queueOf (team s) (queueNo f.a) ≠ [] ∧ flagFree f s
        next := fun s act => s.issueFlag f
          { kind := .queueRead, major := 5, active := act, dests := rangeFrom f.d.toNat (words f 5), x := queueNo f.a
            y := if f.mods.getLsbD 7 then 1 else 0 } }
  | push (f : ExtForm) : IsQueue (.nmPush f)
      { f := f, u := { a := field 35 2, bad := decide (16 ≤ queueNo f.d) || f.ty != 4#4 }
        when := fun s act =>
          let x := s.slot (slotNo s (queueNo f.d))
          unfenced s ∧ x.configured = true ∧ x.cfgWaits = [] ∧ (∀ c ∈ commands s f act, cmdBad x c = false) ∧
            x.cmds.length + (commands s f act).length ≤ 256
        next := fun s act => (s.modSlot (slotNo s (queueNo f.d)) (fun x =>
          { x with cmds := x.cmds ++ (commands s f act).map (fun c => (c, s.sched.nextId)) })).advance }
  | take (f : ExtForm) (e : Nat) (es : List Nat) : IsQueue (.nmTake f)
      { f := f, u := { d := regDst 2, bad := decide (queueNo f.a < 16) || f.ty != 4#4 }
        when := fun s _ =>
          let x := s.slot (slotNo s (queueNo f.a - 16))
          x.configured = true ∧ x.done = e :: es ∧ flagFree f s
        next := fun s act => (s.modSlot (slotNo s (queueNo f.a - 16)) (fun x => { x with done := es })).issueFlag f
          { kind := .queueRead, major := 5, active := act, dests := [f.d.toNat, f.d.toNat + 1], x := queueNo f.a
            vals := act.toList.map (fun k => (k, e)) } }
  | qpoll (f : ExtForm) : IsQueue (.qpoll f)
      { f := f, u := { d := onePred, bad := !(1600 ≤ f.a.toNat && f.a.toNat ≤ 1663) }
        when := fun s _ => unfenced s ∧ if queueNo f.a < 32 then (s.slot (slotNo s (queueNo f.a % 16))).configured = true else s.myLaunch.barges ≠ 0
        next := fun s act =>
          let q := queueNo f.a
          let x := s.slot (slotNo s (q % 16))
          (s.writeTruth act f.d.toNat (fun _ =>
            if q < 16 then x.cmds.length ≤ 224 else if q < 32 then x.done ≠ []
            else if q < 48 then (s.queueOf (team s) q).length < 8 else s.queueOf (team s) q ≠ [])).advance }
  | qflush (f : ExtForm) : IsQueue (.qflush f)
      { f := f, u := { bad := !(1600 ≤ f.a.toNat && f.a.toNat ≤ 1615) }, when := fun s _ => unfenced s ∧ tokenFree f 5 s
        next := fun s act => s.engineOp f { twoOp .qflush 0x24 3 act (queueNo f.a) 0 with z := [s.sched.nextId] } }
  | nmv (f : ExtForm) : IsQueue (.nmv f)
      { f := f, u := { a := base 1, b := small }, when := fun s act => unfenced s ∧ recordIn 64 f s act ∧ tokenFree f 5 s
        next := fun s act => s.engineOp f (twoOp .nmv 0x24 1 act (addrOf f s (low act)) 0) }
  | release (f : ExtForm) : IsQueue (.nmcfg f)
      { f := f, u := { d := onePred, a := base 1, b := small, bad := decide (16 ≤ f.c.toNat) }
        when := fun s act => unfenced s ∧ recordIn 32 f s act ∧ (s.slot (slotNo s f.c.toNat)).cmds = [] ∧
          askedRows f s act = 0
        next := fun s act =>
          ((endCfgWait (releaseSlot (afterOlder f s act) (slotNo s f.c.toNat)) (slotNo s f.c.toNat)).writeTruth act f.d.toNat (fun _ => true)).advance }
  | configure (f : ExtForm) (stack : Nat) (t : State) : IsQueue (.nmcfg f)
      { f := f, u := { d := onePred, a := base 1, b := small, bad := decide (16 ≤ f.c.toNat) }
        when := fun s act => unfenced s ∧ recordIn 32 f s act ∧ (s.slot (slotNo s f.c.toNat)).cmds = [] ∧
          askedRows f s act ≠ 0 ∧ (tableOf f s act).cause s.myLaunch.scratch = 0 ∧
          tableStack (afterOlder f s act) s.myCore (launchOfTeam (team s)) (tableOf f s act).base = .ok (stack, t)
        next := fun s act =>
          let k := slotNo s f.c.toNat
          let r := configure t k stack (tableOf f s act)
          ((endCfgWait r.1 k).writeTruth act f.d.toNat (fun _ => r.2)).advance }

/-- An operation of the fabric issues into its token (R364, R365). Without preconditions it starts, unless an earlier access of the core's path
to a location of its own is still open: it is then held, as on preconditions (R226, log 37). -/
def fabricNext (op : Op) (f : ExtForm) (s : State) : State :=
  let id := s.sched.nextId
  let s1 := s.engineOp f op
  if f.mask ≠ 0#16 then s1
  else if podBlocked s id op then s1.modOp id (fun o => { o with held := true })
  else startFabric s1 id

/-- There is room to hold the operation, where it has to wait. -/
def mayHold (op : Op) (f : ExtForm) (s : State) : Prop :=
  f.mask = 0#16 → podBlocked s s.sched.nextId op = true → heldOps s (grp s) < 4

/-- An instruction of the fabric. -/
def fabricAct (u : Use) (n : Nat) (op : ExtForm → State → Lanes → Op) (f : ExtForm) : Act :=
  { f := f, u := u, when := fun s act => unfenced s ∧ aligned n f s act ∧ tokenFree f 6 s ∧ mayHold (op f s act) f s
    next := fun s act => fabricNext (op f s act) f s }

/-- A `put`: its stores, and the address of the counter it advances (0: none). -/
def putOp (f : ExtForm) (s : State) (act : Lanes) : Op :=
  { s.accessOp 0x25 0 f act (farAddr f s) with kind := OpKind.put, y := s.opC f 4 (low act) }

/-- `clplan` and `clgo`: the plan block's address, aligned to 256. -/
def planAct (kind : OpKind) (idx : Nat) (f : ExtForm) : Act :=
  { f := f, u := { a := base 2, b := field 35 1 }
    when := fun s act => unfenced s ∧ farAddr f s (low act) % 256 = 0 ∧ tokenFree f 7 s
    next := fun s act => s.engineOp f (twoOp kind 0x26 idx act (farAddr f s (low act)) 0) }

/-- The fabric and collective instructions. -/
inductive IsFabric : Instr → Act → Prop where
  | put (f : ExtForm) : IsFabric (.put f)
      { f := f
        u := { farUse true f with c := field 34 2, bad := decide (1920 ≤ f.c.toNat) && f.c != 1920#11 }
        when := fun s act => unfenced s ∧ s.opC f 4 (low act) % 8 = 0 ∧ aligned (min 4 (dataBytes f)) f s act ∧ tokenFree f 6 s ∧
          mayHold (putOp f s act) f s ∧
          (f.mask = 0#16 → podBlocked s s.sched.nextId (putOp f s act) = false → putFits s (putOp f s act) = true)
        next := fun s act => fabricNext (putOp f s act) f s }
  | rld (f : ExtForm) : IsFabric (.rld f)
      (fabricAct (farUse false f) (min 4 (dataBytes f)) (fun f s act => { s.accessOp 0x25 1 f act (farAddr f s) with kind := .rld }) f)
  | ratom (f : ExtForm) : IsFabric (.ratom f)
      (fabricAct { d := field 3 (words f 1), a := base 2, b := field 35 1, c := field 35 (words f 1), dRead := f.mods.toNat % 8 = 7 }
        (4 * words f 1) (fun f s act => { s.accessOp 0x25 2 f act (farAddr f s) with kind := .ratom }) f)
  | wcflush (f : ExtForm) : IsFabric (.wcflush f)
      { f := f, u := {}, when := fun s _ => unfenced s ∧ tokenFree f 6 s
        next := fun s act => noteFlush (s.engineOp f { kind := .wcflush, major := 0x25, idx := 3, active := act }) s.sched.nextId }
  | clplan (f : ExtForm) : IsFabric (.clplan f) (planAct .clplan 0 f)
  | clgo (f : ExtForm) : IsFabric (.clgo f) (planAct .clgo 1 f)
  | rring (f : ExtForm) : IsFabric (.rring f)
      { f := f, u := { a := base 1, b := field 35 1 }, when := fun s act => unfenced s ∧ recordIn 128 f s act ∧ tokenFree f 7 s
        next := fun s act =>
          noteRing s (s.engineOp f (twoOp .rring 0x26 2 act (addrOf f s (low act)) 0)) (team s) (addrOf f s (low act)) }

end Sys2Proof.Rules
end

