-- ==== Sys2Proof/Certificates/Slice0/Barges.lean ====
section
/-! DEFINITION. What the statements say of the instructions of a barge's program (R268 to R283): when each completes, and the state it
leaves; and where it faults (R284). -/

namespace Sys2Proof.Rules

open Sys2Proof Sys2Proof.Machine

/-- An instruction of a barge, or a step that is not an instruction: when it acts, and the state it leaves. -/
structure StepRule where
  when : State → Prop
  next : State → State

/-- Where its condition holds, the step leaves the state given. -/
def Turns (i : Instr) (r : StepRule) : Prop := ∀ s, r.when s → exec i s = .next (r.next s)

/-- The barge in hand. -/
abbrev bge (s : State) : Barge := s.bargeNow

/-- Its team. -/
abbrev bteam (s : State) : Nat := s.bargeTeam

/-- Change the barge in hand. -/
abbrev onBarge (s : State) (x : Barge → Barge) : State := s.modBarge s.sched.cur.barge x

/-- Register `a`i of the barge. -/
def areg (s : State) (n : BitVec 4) : BitVec 64 := BitVec.ofNat 64 (Sparse.get 0 (bge s).a n.toNat)

/-- Source A. -/
def srcA (f : BargeForm) (s : State) : BitVec 64 := areg s f.a

/-- Source B: a register, or the immediate, sign-extended (R270). -/
def srcB (f : BargeForm) (s : State) : BitVec 64 := if f.i then f.imm.signExtend 64 else areg s f.b

/-- Bit X[k]. -/
def xbit (f : BargeForm) (k : Nat) : Bool := f.x.getLsbD k

/-- A field of X. -/
def xfield (f : BargeForm) (lo n : Nat) : Nat := f.x.toNat / 2 ^ lo % 2 ^ n

/-- `bcmp`: the relation of condition X[12:10] on values, signed with X[9]. -/
def compared (f : BargeForm) (a b : BitVec 64) : Bool :=
  relation (xfield f 10 3) (if xbit f 9 then a.toInt else a.toNat) (if xbit f 9 then b.toInt else b.toNat)

/-- Instructions that write a register with a value of the barge's registers alone (R270). -/
inductive IsBargeValue : Instr → BargeForm → (State → Prop) → (State → BitVec 64) → Prop where
  | bmov (f : BargeForm) : IsBargeValue (.bmov f) f (fun _ => True) (srcA f)
  | bmovi (f : BargeForm) : IsBargeValue (.bmovi f) f (fun _ => True)
      (fun s => if xbit f 12 then f.imm ++ (areg s f.d).setWidth 32 else f.imm.signExtend 64)
  | badd (f : BargeForm) : IsBargeValue (.badd f) f (fun _ => True) (fun s => srcA f s + srcB f s)
  | bsub (f : BargeForm) : IsBargeValue (.bsub f) f (fun _ => True) (fun s => srcA f s - srcB f s)
  | bmul (f : BargeForm) : IsBargeValue (.bmul f) f (fun _ => True) (fun s => srcA f s * srcB f s)
  | bshl (f : BargeForm) : IsBargeValue (.bshl f) f (fun _ => True) (fun s => srcA f s <<< ((srcB f s).toNat % 64))
  | bshr (f : BargeForm) : IsBargeValue (.bshr f) f (fun _ => True)
      (fun s => if xbit f 12 then (srcA f s).sshiftRight ((srcB f s).toNat % 64) else srcA f s >>> ((srcB f s).toNat % 64))
  | band (f : BargeForm) : IsBargeValue (.band f) f (fun _ => True) (fun s => srcA f s &&& srcB f s)
  | bor (f : BargeForm) : IsBargeValue (.bor f) f (fun _ => True) (fun s => srcA f s ||| srcB f s)
  | bcmp (f : BargeForm) : IsBargeValue (.bcmp f) f (fun _ => xfield f 10 3 < 6)
      (fun s => if compared f (srcA f s) (srcB f s) then 1 else 0)

/-- Register d of the barge in hand takes a value. -/
def setA (s : State) (f : BargeForm) (v : BitVec 64) : State :=
  onBarge s (fun x => { x with a := Sparse.set 0 x.a f.d.toNat v.toNat })

/-! ### Where a barge goes next (R271, R272) -/

/-- The instruction of the barge is over. -/
def wentOn (x : Barge) (loops : List LoopEntry) (pc : Nat) : Barge :=
  { x with mode := .running, loops := loops, pc := pc % 2 ^ 57, first := 0, rel := none, nbWait := none, fault := { cause := 0 } }

/-- After the last instruction of a loop's body: with iterations left the body starts again, else the loop is left, and the loop outside
it is tested at the same place. The stack after it, and where the barge goes. -/
inductive LoopTail (e : Nat) : List LoopEntry → List LoopEntry → Nat → Prop where
  | out : LoopTail e [] [] (e + 8)
  | inside (t : LoopEntry) (ts : List LoopEntry) (h : t.stop ≠ e) : LoopTail e (t :: ts) (t :: ts) (e + 8)
  | again (t : LoopEntry) (ts : List LoopEntry) (h : t.stop = e) (n : (t.count + (2 ^ 32 - 1)) % 2 ^ 32 ≠ 0) :
      LoopTail e (t :: ts) ({ t with count := (t.count + (2 ^ 32 - 1)) % 2 ^ 32 } :: ts) t.start
  | leave (t : LoopEntry) (ts l : List LoopEntry) (p : Nat) (h : t.stop = e) (n : (t.count + (2 ^ 32 - 1)) % 2 ^ 32 = 0)
      (o : LoopTail e ts l p) : LoopTail e (t :: ts) l p

/-- A jump leaves the loops, from the innermost, that its target lies outside. -/
inductive LoopsLeft (g : Nat) : List LoopEntry → List LoopEntry → Prop where
  | none : LoopsLeft g [] []
  | stay (t : LoopEntry) (ts : List LoopEntry) (h : t.start ≤ g ∧ g ≤ t.stop) : LoopsLeft g (t :: ts) (t :: ts)
  | leave (t : LoopEntry) (ts l : List LoopEntry) (h : ¬ (t.start ≤ g ∧ g ≤ t.stop)) (o : LoopsLeft g ts l) : LoopsLeft g (t :: ts) l

/-- Target of a displacement: relative to the instruction, within 57 bits. -/
def targetOf (f : BargeForm) (s : State) : Nat := ((((bge s).pc : Int) + f.imm.toInt) % 2 ^ 57).toNat

/-- Iterations of a `bloop`: X as a constant, or the low word of A. -/
def iterations (f : BargeForm) (s : State) : Nat := if f.i then f.x.toNat else (srcA f s).toNat % 2 ^ 32

/-- Branches, jumps and loops. -/
inductive IsBargeFlow : Instr → BargeForm → StepRule → Prop where
  | fall (f : BargeForm) (l : List LoopEntry) (p : Nat) : IsBargeFlow (.bnop f) f
      { when := fun s => LoopTail (bge s).pc (bge s).loops l p, next := fun s => onBarge s (fun x => wentOn x l p) }
  | taken (f : BargeForm) (l : List LoopEntry) : IsBargeFlow (.bbr f) f
      { when := fun s => f.imm.toNat % 8 = 0 ∧ ((srcA f s = 0) ↔ xbit f 12 = true) ∧
          LoopsLeft (targetOf f s) (bge s).loops l
        next := fun s => onBarge s (fun x => wentOn x l (targetOf f s)) }
  | notTaken (f : BargeForm) (l : List LoopEntry) (p : Nat) : IsBargeFlow (.bbr f) f
      { when := fun s => f.imm.toNat % 8 = 0 ∧ ¬ ((srcA f s = 0) ↔ xbit f 12 = true) ∧ LoopTail (bge s).pc (bge s).loops l p
        next := fun s => onBarge s (fun x => wentOn x l p) }
  | relative (f : BargeForm) (l : List LoopEntry) : IsBargeFlow (.bjmp f) f
      { when := fun s => f.i = true ∧ f.imm.toNat % 8 = 0 ∧ LoopsLeft (targetOf f s) (bge s).loops l
        next := fun s => onBarge s (fun x => wentOn x l (targetOf f s)) }
  | indirect (f : BargeForm) (l : List LoopEntry) : IsBargeFlow (.bjmp f) f
      { when := fun s => f.i = false ∧ (srcA f s).toNat % 8 = 0 ∧ (srcA f s).toNat < 2 ^ 57 ∧ LoopsLeft (srcA f s).toNat (bge s).loops l
        next := fun s => onBarge s (fun x => wentOn x l (srcA f s).toNat) }
  | enter (f : BargeForm) : IsBargeFlow (.bloop f) f
      { when := fun s => 0 < f.imm.toInt ∧ f.imm.toNat % 8 = 0 ∧ 0 < iterations f s ∧ (bge s).loops.length < 4
        next := fun s => onBarge s (fun x =>
          wentOn x ({ count := iterations f s, start := x.pc + 8, stop := targetOf f s } :: x.loops) (x.pc + 8)) }
  | skip (f : BargeForm) : IsBargeFlow (.bloop f) f
      { when := fun s => 0 < f.imm.toInt ∧ f.imm.toNat % 8 = 0 ∧ iterations f s = 0 ∧ ∀ t ∈ (bge s).loops, t.stop ≠ (bge s).pc
        next := fun s => onBarge s (fun x => wentOn x x.loops (targetOf f s + 8)) }
/-! ### Data: loads of indices, addresses, queues, copies (R274 to R280) -/

/-- The barge goes on with the next instruction, by the rule of loops. -/
abbrev goOn (s : State) : State := s.bargeStep

/-- An index read from memory, signed with X[8], of 2^X[10:9] bytes. -/
def indexRead (f : BargeForm) (bs : List Byte) : BitVec 64 :=
  let n := 8 * 2 ^ xfield f 9 2
  if xbit f 8 then (BitVec.ofNat n (ofBytes bs)).signExtend 64 else BitVec.ofNat 64 (ofBytes bs)

/-- Nothing that the groups of the core have issued is still to be stored in the bytes that the barge is to read (R283, log 85). -/
def inOrder (s : State) (sp a n : Nat) : Prop := s.readsBehind sp a n = false

/-- The layout record at a scratchpad offset, as the barge reads it. -/
def layoutRead (s : State) (a : BitVec 64) (r : Layout) : Prop := inOrder s 1 a.toNat 64 ∧ readLayout s (bteam s) a.toNat = .ok r

/-- The records of a copy, destination and source, as read. -/
def records (f : BargeForm) (s : State) (d r : Layout) : Prop := layoutRead s (areg s f.d) d ∧ layoutRead s (srcA f s) r

/-- The teams of the cluster a multicast may name. -/
def maskFits (f : BargeForm) (s : State) : Prop :=
  f.imm.toNat < 2 ^ ((s.launch (launchOfTeam (bteam s))).w * (s.launch (launchOfTeam (bteam s))).h)

/-- Coordinates of a copy: signed numbers in the registers from B. -/
def pointOf (f : BargeForm) (s : State) (n : Nat) : List Int :=
  (List.range n).map (fun k => (BitVec.ofNat 64 (Sparse.get 0 (bge s).a (f.b.toNat + k))).toInt)

/-- A table and a list of rows of one shape. -/
def shapesAgree (f : BargeForm) (d r : Layout) : Prop :=
  d.rank = 2 ∧ r.rank = 2 ∧ d.esize = r.esize ∧ d.dim 0 = r.dim 0 ∧ 2 ≤ xfield f 9 2

/-- A gather or a scatter is legal: a table and rows of one shape, and a multicast to scratchpads of teams that are there. -/
def rowsLegal (f : BargeForm) (s : State) (d r : Layout) : Prop :=
  records f s d r ∧ shapesAgree f d r ∧ (f.imm = 0 ∨ (d.space = 1 ∧ maskFits f s))

/-- The words of a record in the scratchpad as one number. -/
def recordNow (s : State) (a : BitVec 64) : Nat := ofBytes (s.scrRead (bteam s) (a.toNat % 2 ^ 32) 64)

/-- A copy begins (R273, R282): its records are read once, it is in flight behind the barge's earlier copies, from the unit that a resumed
barge names (R284), and the barge goes on with its next instruction. -/
def begun (op : Nat) (f : BargeForm) (s : State) : State :=
  let x := bge s
  let c : Flight := { op := op, f := f, word := x.word, pc := x.pc, a := x.a, loops := x.loops
                      recs := (recordNow s (areg s f.d), recordNow s (srcA f s)), seq := s.sched.nextId, unit := x.first, first := x.first }
  goOn (onBarge (s.modSched (fun k => { k with nextId := k.nextId + 1 })) (fun x => { x with flight := x.flight ++ [c] }))

/-- No copy of the barge is in flight: what another agent sees waits for that, the entry of a `bqout` apart (log 80). -/
def landed (s : State) : Prop := (bge s).flight = []

/-- Loads, addresses, queue accesses, and copies, which begin. -/
inductive IsBargeData : Instr → StepRule → Prop where
  | bldi (f : BargeForm) (bs : List Byte) (t : State) : IsBargeData (.bldi f)
      { when := fun s =>
          inOrder s (xfield f 11 2) ((srcA f s + f.imm.signExtend 64).toNat) (2 ^ xfield f 9 2) ∧
          spaceRead s (bteam s) (xfield f 11 2) ((srcA f s + f.imm.signExtend 64).toNat) (2 ^ xfield f 9 2) = .ok bs t
        next := fun _ => goOn (setA t f (indexRead f bs)) }
  | baddr (f : BargeForm) (r : Layout) : IsBargeData (.baddr f)
      { when := fun s => layoutRead s (srcA f s) r ∧ f.b.toNat + r.rank ≤ 16
        next := fun s => goOn (setA s f (BitVec.ofNat 64 (r.elemAddr (pointOf f s r.rank)))) }
  | bqin (f : BargeForm) (e : Nat) (es : List Nat) : IsBargeData (.bqin f)
      { when := fun s => 32 ≤ f.imm.toNat ∧ f.imm.toNat < 48 ∧ landed s ∧ s.queueOf (bteam s) f.imm.toNat = e :: es
        next := fun s => goOn (setA (s.setQueue (bteam s) f.imm.toNat es) f (BitVec.ofNat 64 e)) }
  | bqout (f : BargeForm) : IsBargeData (.bqout f)
      { when := fun s => 48 ≤ f.imm.toNat ∧ f.imm.toNat < 64 ∧ copiesPass s = true ∧ (s.queueOf (bteam s) f.imm.toNat).length < 8 ∧
          outAhead s s.sched.cur.barge f.imm.toNat = false
        next := fun s => goOn (s.setQueue (bteam s) f.imm.toNat (s.queueOf (bteam s) f.imm.toNat ++ [(srcA f s).toNat])) }
  | bcopy (f : BargeForm) (d r : Layout) : IsBargeData (.bcopy f)
      { when := fun s => records f s d r ∧ d.tile ≠ r.tile ∧ d.rank = r.rank ∧ d.esize = r.esize ∧ f.b.toNat + d.rank ≤ 16 ∧
          (f.imm = 0 ∨ (d.tile = true ∧ d.space = 1 ∧ maskFits f s))
        next := begun 0x13 f }
  | bgath (f : BargeForm) (d r : Layout) : IsBargeData (.bgath f) { when := fun s => rowsLegal f s d r, next := begun 0x14 f }
  | bscat (f : BargeForm) (d r : Layout) : IsBargeData (.bscat f) { when := fun s => rowsLegal f s d r, next := begun 0x15 f }
  | bpool (f : BargeForm) (d r : Layout) : IsBargeData (.bpool f)
      { when := fun s => records f s d r ∧ shapesAgree f d r ∧ xfield f 6 2 ≠ 3 ∧ d.esize = (if xfield f 6 2 = 1 then 2 else 4)
        next := begun 0x16 f }

/-! ### Units of a copy in flight (R275 to R278) -/

/-- The moves of one row whose index is `k`: a gather's source, or a scatter's destination, is the row that the index names; outside the
table a gathered row is zeros, and of a scattered one nothing is read or written (R276). -/
def rowMoves (scatter : Bool) (d r : Layout) (n : Nat) (k : Int) : Moves :=
  if scatter then (if 0 ≤ k ∧ k < d.dim 1 then ((r.row n).map some).zip ((d.row k.toNat).map some) else [])
  else (if 0 ≤ k ∧ k < r.dim 1 then (r.row k.toNat).map some else (d.row n).map (fun _ => none)).zip ((d.row n).map some)

/-- The elements of the next unit of a copy, and the state after its index, if it has one, is read. -/
inductive UnitMoves (s : State) (b : Nat) (c : Flight) : Moves → State → Prop where
  | box (h : c.op = 0x13) : UnitMoves s b c (c.boxLine c.unit) s
  | gather (k : Int) (t : State) (h : c.op = 0x14) (i : readIndex (c.mover s b c.unit) s c c.unit = .ok k t) :
      UnitMoves s b c (rowMoves false c.dst c.src c.unit k) t
  | scatter (k : Int) (t : State) (h : c.op = 0x15) (i : readIndex (c.mover s b c.unit) s c c.unit = .ok k t) :
      UnitMoves s b c (rowMoves true c.dst c.src c.unit k) t

/-- What the next unit writes, element by element, and the state after its reads: every element that has a destination, or the columns' sums
of a pool. -/
inductive UnitReads (s : State) (b : Nat) (c : Flight) : List (Nat × List Byte) → State → Prop where
  | moves (es : Moves) (t u : State) (vs : List (List Byte)) (h : UnitMoves s b c es t)
      (r : readMoves (c.mover s b c.unit) t (es.map (fun e => e.1)) = .ok vs u) :
      UnitReads s b c ((es.zip vs).filterMap (fun e => e.1.2.map (fun a => (a, e.2)))) u
  | pool (acc : List (Option Nat)) (t : State) (h : c.op = 0x16)
      (r : poolRows (c.mover s b c.unit) c (c.reg (xfield c.f 2 4) % 2 ^ 32) 0 s ((rangeFrom 0 (c.dst.dim 0)).map (fun _ => none)) =
        .ok (some (acc, t))) :
      UnitReads s b c ((c.dst.row 0).zip (acc.map (fun x => toBytes (poolOut (xfield c.f 6 2) x) c.dst.esize))) t

/-- The bytes whose values a copy leaves unspecified where it writes them: those that a `bcopy` also reads (R275). -/
def unspecified (s : State) (b : Nat) (c : Flight) : List Nat := if c.op = 0x13 then c.sources s (teamOfBarge b) else []

/-- The next unit of a copy in flight is performed: no write of it meets a check, nor an access that the core's groups have issued and that is
still to be performed (log 85), and every one is made in every target. -/
def UnitDone (s : State) (b : Nat) (c : Flight) (t : State) : Prop :=
  ∃ ws u, UnitReads s b c ws u ∧ (∀ w ∈ ws, writeStop u (teamOfBarge b) c.dst.space w.1 c.dst.esize = 0) ∧
    (∀ n ∈ c.teams s (teamOfBarge b), ∀ w ∈ ws, behindPath u (pathAhead s b false) n c.dst.space w.1 c.dst.esize = false) ∧
    writeTargets (c.mover s b c.unit) (unspecified s b c) ws u (c.teams s (teamOfBarge b)) = .ok () t

/-- The copy has done one unit more, and the core has counted its bytes (R330). -/
def unitCounted (b k : Nat) (c : Flight) (t : State) : State :=
  let t1 := t.modBarge b (fun x => { x with flight := x.flight.modify k (fun c => { c with unit := c.unit + 1 }) })
  t1.modCore (t1.team (teamOfBarge b)).core (fun x => { x with bargeBytes := x.bargeBytes + c.bytes })

/-! ### Synchronisation (R281, R282) -/

/-- Member count of a barrier arrival: imm[13:8]. -/
def memberCount (f : BargeForm) : Nat := f.imm.toNat / 2 ^ 8 % 2 ^ 6

/-- Named barrier of an instruction: imm[3:0]. -/
def barrierNo (f : BargeForm) : Nat := f.imm.toNat % 16

/-- Semaphore of an instruction: imm[4:0]. -/
def semaphoreNo (f : BargeForm) : Nat := f.imm.toNat % 32

/-- Amount: 1 with the immediate bit, else the low word of B. -/
def amount (f : BargeForm) (s : State) : Nat := if f.i then 1 else (areg s f.b).toNat % 2 ^ 32

/-- Core of the team. -/
def bcore (s : State) : Nat := (s.team (bteam s)).core

/-- Scope X[10:8] and address of a chamber instruction name a chamber of the team (R180). -/
def bchamber (f : BargeForm) (s : State) (c : ChamberAt) : Prop :=
  let sc := xfield f 8 3
  let a := if sc ≤ 2 then (srcA f s).toNat % 2 ^ 32 else (srcA f s).toNat
  (sc = 1 ∨ sc = 2 ∨ sc = 4 ∨ sc = 6) ∧ a % 16 = 0 ∧ chamberAt s (bteam s) sc a = some c

/-- Agent of a barge's accesses. -/
abbrev bagent (s : State) : Agent := teamAgent s (bteam s)

/-- The release in course has begun with this number: what was performed at a copy of the die before it is covered (R233). -/
def relFrom (s : State) : Nat := (bge s).rel.getD s.sched.nextId

/-- The barge's own accesses are performed at a scope (R227, R282); at system scope the host holds nothing older (R402). -/
def ownDone (s : State) (sc : Nat) : Prop :=
  (∀ c ∈ (bge s).flight, c.fault = none ∧ c.units ≤ c.unit) ∧
    (4 ≤ sc → (∀ x ∈ s.mem.fwd, x.agent ≠ bargeAgent s.sched.cur.barge) ∧ (∀ x ∈ s.mem.gaPend, x.agent ≠ bargeAgent s.sched.cur.barge) ∧
      ∀ x ∈ s.mem.invals, x.agent ≠ bargeAgent s.sched.cur.barge) ∧
    (5 ≤ sc → hostReleased s s.sched.nextId = true)

/-- A release at a scope is complete (R233): the barge's own accesses, and at package scope or wider every store covered at its die. -/
def released (s : State) (sc : Nat) : Prop :=
  landed s ∧ ownDone s sc ∧ (4 ≤ sc → dieReleased s (dieOf (bcore s)) (relFrom s) = true) ∧ (5 ≤ sc → hostReleased s (relFrom s) = true)

/-- The state in which a released instruction acts: at system scope what was written at this package is written back (R182, R227). -/
def atRelease (s : State) (sc : Nat) : State := writeBack (onBarge s (fun x => { x with rel := some (relFrom s) })) sc

/-- Arrivals, waits, fences, and the end of a run. -/
inductive IsBargeSync : Instr → StepRule → Prop where
  | barrNb (f : BargeForm) : IsBargeSync (.barrNb f)
      { when := fun s => xfield f 11 2 = 0 ∧ 0 < memberCount f ∧
          memberCount f ≤ (s.launch (launchOfTeam (bteam s))).groups + (s.launch (launchOfTeam (bteam s))).barges ∧
          (((s.team (bteam s)).nb (barrierNo f)).expected = 0 ∨ ((s.team (bteam s)).nb (barrierNo f)).expected = memberCount f) ∧ released s 1
        next := fun s =>
          let b := (s.team (bteam s)).nb (barrierNo f)
          goOn ((atRelease s 1).setNb (bteam s) (barrierNo f) { b with expected := memberCount f, arrived := b.arrived + 1 }) }
  | barrSc (f : BargeForm) (c : ChamberAt) (t : State) : IsBargeSync (.barrSc f)
      { when := fun s => xfield f 11 2 = 1 ∧ bchamber f s c ∧ released s (xfield f 8 3) ∧
          arriveAt (atRelease s (xfield f 8 3)) (bagent s) c (if xbit f 7 then 0 else 1) ((areg s f.b).toNat % 2 ^ 32) false 0 (xfield f 8 3) = .ok () t
        next := fun _ => goOn t }
  | bsem (f : BargeForm) : IsBargeSync (.bsem f)
      { when := fun s => released s 1
        next := fun s => goOn ((atRelease s 1).setSem (bcore s) (semaphoreNo f) ((s.sem (bcore s) (semaphoreNo f) + amount f s) % 2 ^ 32)) }
  | bwait (f : BargeForm) : IsBargeSync (.bwait f)
      { when := fun s => xfield f 11 2 = 0 ∧ amount f s ≠ 0 ∧ landed s ∧ s.semQueue (bcore s) (semaphoreNo f) = [] ∧
          amount f s ≤ s.sem (bcore s) (semaphoreNo f)
        next := fun s =>
          let b := s.sched.cur.barge
          let s1 := onBarge (s.joinSem (bcore s) (semaphoreNo f) (.barge b)) (fun x => { x with semWait := semaphoreNo f + 1 })
          goOn (leaveSemBarge (s1.setSem (bcore s) (semaphoreNo f) (s.sem (bcore s) (semaphoreNo f) - amount f s)) b) }
  | bwaitZero (f : BargeForm) : IsBargeSync (.bwait f)
      { when := fun s => xfield f 11 2 = 0 ∧ amount f s = 0 ∧ landed s, next := fun s => goOn (leaveSemBarge s s.sched.cur.barge) }
  | bwaitSc (f : BargeForm) (c : ChamberAt) (x : Chamber) (t : State) : IsBargeSync (.bwaitSc f)
      { when := fun s => bchamber f s c ∧ landed s ∧ readChamber s (bagent s) c = .ok x t ∧ x.phase ≠ f.imm.getLsbD 0 ∧
          chamberScope (xfield f 8 3) = x.scope ∧ x.poison = false
        next := fun _ => goOn t }
  | bwaitNb (f : BargeForm) : IsBargeSync (.bwaitNb f)
      { when := fun s => xfield f 11 2 = 2 ∧ landed s ∧ (bge s).nbWait = none ∧ ((s.team (bteam s)).nb (barrierNo f)).phase ≠ f.imm.getLsbD 8
        next := goOn }
  | bwaitNbFlipped (f : BargeForm) (n : Nat) : IsBargeSync (.bwaitNb f)
      { when := fun s => xfield f 11 2 = 2 ∧ landed s ∧ (bge s).nbWait = some (n, true), next := goOn }
  | bfence (f : BargeForm) : IsBargeSync (.bfence f)
      { when := fun s => xfield f 8 3 ≠ 0 ∧ xfield f 8 3 ≠ 7 ∧ ownDone s (xfield f 8 3), next := fun s => goOn (writeBack s (xfield f 8 3)) }
  | btok (f : BargeForm) : IsBargeSync (.btok f)
      { when := fun s => 2 ≤ (bge s).left ∧ released s 4
        next := fun s => goOn (retireRun (onBarge (atRelease s 4) (fun x => { x with since := 0 })) s.sched.cur.barge (bge s).since none) }
  | bend (f : BargeForm) : IsBargeSync (.bend f)
      { when := fun s => released s 4
        next := fun s =>
          let b := s.sched.cur.barge
          let s1 := retireRun (onBarge (atRelease s 4) (fun x => { x with since := 0 })) b (bge s).since none
          onBarge (retireRest s1 b none) (fun x => { x with mode := .idle, first := 0, rel := none }) }

/-! ### Faults of a barge's instructions (R284) -/

/-- The barge in hand has found a fault of a cause. -/
def faulted (s : State) (c : Nat) : State := onBarge s (fun x => { x with pending := some { cause := c } })

/-- Where an instruction faults on its own fields: the cause. -/
inductive BargeFaults : Instr → (State → Prop) → Nat → Prop where
  | bcmp (f : BargeForm) : BargeFaults (.bcmp f) (fun _ => 6 ≤ xfield f 10 3) Cause.illegalOperand
  | bbr (f : BargeForm) : BargeFaults (.bbr f) (fun _ => f.imm.toNat % 8 ≠ 0) Cause.illegalOperand
  | bjmp (f : BargeForm) : BargeFaults (.bjmp f) (fun _ => f.i = true ∧ f.imm.toNat % 8 ≠ 0) Cause.illegalOperand
  | bjmpOdd (f : BargeForm) : BargeFaults (.bjmp f) (fun s => f.i = false ∧ (srcA f s).toNat % 8 ≠ 0) Cause.misaligned
  | bjmpFar (f : BargeForm) : BargeFaults (.bjmp f)
      (fun s => f.i = false ∧ (srcA f s).toNat % 8 = 0 ∧ 2 ^ 57 ≤ (srcA f s).toNat) Cause.notPresent
  | bloop (f : BargeForm) : BargeFaults (.bloop f) (fun _ => f.imm.toInt ≤ 0 ∨ f.imm.toNat % 8 ≠ 0) Cause.illegalOperand
  | bloopDeep (f : BargeForm) : BargeFaults (.bloop f)
      (fun s => 0 < f.imm.toInt ∧ f.imm.toNat % 8 = 0 ∧ iterations f s ≠ 0 ∧ 4 ≤ (bge s).loops.length) Cause.illegalOperand
  | bqin (f : BargeForm) : BargeFaults (.bqin f) (fun _ => f.imm.toNat < 32 ∨ 48 ≤ f.imm.toNat) Cause.illegalOperand
  | bqinDead (f : BargeForm) : BargeFaults (.bqin f)
      (fun s => 32 ≤ f.imm.toNat ∧ f.imm.toNat < 48 ∧ landed s ∧ s.queueOf (bteam s) f.imm.toNat = [] ∧ liveGroupsOf s (bteam s) = [])
      Cause.queueProtocol
  | bqout (f : BargeForm) : BargeFaults (.bqout f) (fun _ => f.imm.toNat < 48 ∨ 64 ≤ f.imm.toNat) Cause.illegalOperand
  | barrNb (f : BargeForm) : BargeFaults (.barrNb f) (fun _ => xfield f 11 2 ≠ 0 ∨ memberCount f = 0) Cause.illegalOperand
  | barrSc (f : BargeForm) : BargeFaults (.barrSc f) (fun _ => xfield f 11 2 ≠ 1) Cause.illegalOperand
  | bwait (f : BargeForm) : BargeFaults (.bwait f) (fun _ => xfield f 11 2 ≠ 0) Cause.illegalOperand
  | bwaitNb (f : BargeForm) : BargeFaults (.bwaitNb f) (fun _ => xfield f 11 2 ≠ 2) Cause.illegalOperand
  | bfence (f : BargeForm) : BargeFaults (.bfence f) (fun _ => xfield f 8 3 = 0 ∨ xfield f 8 3 = 7) Cause.illegalOperand
  | btok (f : BargeForm) : BargeFaults (.btok f) (fun s => (bge s).left ≤ 1) Cause.illegalOperand

end Sys2Proof.Rules
end

