-- ==== Sys2Proof/Certificates/Slice0/Settings.lean ====
section
/-! DEFINITION. What the statements say of reset, power, the measured boot, what management sets, temperature, droop, the reserve and the
ports (R41, R42, R44, R384, R392 to R394, R396, R407, R408, R409, R412 to R414, R416): when each event acts, and the state it leaves. -/

namespace Sys2Proof.Rules

open Sys2Proof Sys2Proof.Machine

/-- No condition. -/
def ever : State → Prop := fun _ => True

/-! ### What management sets -/

/-- The accesses that the load of a key slot waits for are numbered below this one: the next at the moment it was first asked for (R255). -/
def loadFrom (s : State) (k : Nat) : Nat := if Sparse.get 0 s.xlat.loads k = 0 then s.sched.nextId else Sparse.get 0 s.xlat.loads k

/-- The management controller's firmware runs (R412). -/
def controllerRuns (s : State) : Prop := 1 < s.mgmt.boot.length

/-- The request at hand comes by the management's MCTP, from a requester that holds a secure session (R392, R414). -/
def entitled (s : State) : Prop := s.mgmt.asking % 3 = 1 ∧ s.mgmt.asking ∈ s.mgmt.sessions

/-- A setting, the values it takes, and the state it leaves in an authenticated session (R392, R414). -/
inductive IsSetting : Instr → (State → Prop) → (State → State) → Prop where
  | podIdentifier (n : Nat) : IsSetting (.setPodIdentifier n) (fun _ => n < 1024) (fun s => s.modFabric (fun f => { f with podId := some n }))
  | exportSegment (k e : Nat) : IsSetting (.setExportSegment k e) (fun _ => k < 64)
      (fun s => s.modFabric (fun f => { f with exports := Sparse.set 0 f.exports k (e % 2 ^ 64) }))
  | keySlot (k : Nat) (x : Option Nat) : IsSetting (.keySlotLoad k x) (fun s => k < 64 ∧ keyInFlight s (k + 1) (loadFrom s k) = false)
      (fun s =>
        let other := fun (w : CodeWord) => Machine.keySlot w.key != k + 1
        let s1 : State := { s with barges := s.barges.map (fun p => (p.1, { p.2 with code := p.2.code.filter other })) }
        (s1.modMem (fun m => { m with copies := m.copies.filter (fun p => Machine.keySlot p.2.key != k + 1) })).modXlat (fun y => { y with
          code := y.code.filter other
          loads := Sparse.erase y.loads k
          keys := Sparse.set 0 y.keys k (match x with
            | some n => n % 2 ^ 256 + 1
            | none => 0) }))
  | keySlotWaits (k : Nat) (x : Option Nat) : IsSetting (.keySlotLoad k x) (fun s => k < 64 ∧ keyInFlight s (k + 1) (loadFrom s k) = true)
      (fun s => s.modXlat (fun y => { y with loads := Sparse.set 0 y.loads k (loadFrom s k) }))
  | ideKey (p x : Nat) : IsSetting (.ideKeyLoad p x) (fun _ => p < 3)
      (fun s => s.modHost (fun h => { h with ideKeys := Sparse.set 0 h.ideKeys p (x % 2 ^ 256 + 1) }))
  | sendKey (n x : Nat) : IsSetting (.stationKeyLoad n 0 x) (fun _ => n < stationCount)
      (fun s => s.modStation n (fun t => { t with tx := x % 2 ^ 256 + 1, count := 0 }))
  | receiveKey (n x : Nat) : IsSetting (.stationKeyLoad n 1 x) (fun _ => n < stationCount)
      (fun s => s.modStation n (fun t => { t with rx := x % 2 ^ 256 + 1 }))
  | hdmKeyNone : IsSetting (.setHdmKey none) ever (fun s => s.modHost (fun h => { h with hdmKey := 0 }))
  | hdmKey (k : Nat) : IsSetting (.setHdmKey (some k)) (fun _ => k < 64) (fun s => s.modHost (fun h => { h with hdmKey := k + 1 }))
  | window (p b l : Nat) : IsSetting (.setSpace3Window p b l) (fun _ => p = 1 ∨ p = 2)
      (fun s => s.modHost (fun h => { h with windows := Sparse.set (0, 0) h.windows p (b, l) }))
  | privileges (x : Nat) : IsSetting (.setPrivilegeMask x) ever (fun s => s.modMgmt (fun m => { m with privMask := x % 2 ^ 64 }))
  | threshold (c d : Nat) : IsSetting (.setHotThreshold c d) (fun _ => c < 2048 ∧ 60 ≤ d ∧ d ≤ 105)
      (fun s => s.modCore c (fun x => { x with hot := d }.heat))
  | marks (d h l : Nat) : IsSetting (.setReserveMarks d h l) (fun _ => d < 16) (fun s => s.modDie d (fun x => { x with high := h, low := l }))
  | retirement (k n : Nat) : IsSetting (.setRetirementThreshold k n) (fun _ => k < 7)
      (fun s => s.modMgmt (fun m => { m with thresholds := Sparse.set 0 m.thresholds k n }))
  | powerLimit (w : Nat) : IsSetting (.setPowerLimit w) (fun _ => 3000 ≤ w ∧ w ≤ 6400)
      (fun s => settleAlarm (s.modMgmt (fun m => { m with limit := w })))

/-! ### Reset, power, boot and trust -/

/-- The package as at reset, but for what is outside it (R416): the host's and the expanders' memory, and what has left the package. Free
values go on being fresh, and the turns to come are not the package's. -/
def freshPackage (s : State) (m : Mgmt) : State :=
  let t := forgetLines s.mem.dirtyHome s
  { State.reset with
    sched := { agenda := t.sched.agenda, fresh := t.sched.fresh }
    mem := { cells := t.mem.cells.filter (fun c => spaceOf c.1 = 3 || spaceOf c.1 = 4) }
    fabric := { sent := s.fabric.sent }, mgmt := m }

/-- The last `n` samples satisfy `P`, and there are as many. -/
def lastSamples (m : Mgmt) (n : Nat) (P : Nat → Prop) : Prop := n ≤ m.history.length ∧ ∀ x ∈ m.history.take n, P x

/-- A sample enters the history, which keeps sixteen. -/
def sampled (s : State) (mw : Nat) : State :=
  s.modMgmt (fun m => { m with
    estimate := mw / 1000 % 65536, samples := (m.samples + 1) % 65536, history := (mw :: m.history).take 16 })

/-- A requester's path that reaches the port die: over the ports, transport 0, or the management's MCTP, 1, and a peer's where there is a
pod. -/
def transportUp (s : State) (t : Nat) : Prop := t % 3 = 0 ∨ t % 3 = 1 ∨ (t % 3 = 2 ∧ s.fabric.podId ≠ none)

/-- The measurement blocks: one for each stage in the order of loading, and a last one with the running digest. -/
def blocksOf (m : Mgmt) : List (List Byte) :=
  m.boot.map (fun e => toBytes e.stage 1 ++ toBytes e.version 4 ++ e.digest) ++
    [if m.digest = [] then List.replicate 32 0#8 else m.digest]

/-- Messages sent one after the other. -/
def sendAll (s : State) (ms : List Message) : State := ms.foldl State.send s

/-- Reset, thermal shutdown, power samples, the measured boot, and requests for measurements. -/
inductive IsTrust : Instr → StepRule → Prop where
  | reset : IsTrust .reset { when := ever, next := fun s => freshPackage s {} }
  | shutdown (n d : Nat) : IsTrust (.thermalShutdown n d)
      { when := fun _ => 115 ≤ d, next := fun s =>
          let t := freshPackage s { powered := false }
          { t with sched := { fresh := t.sched.fresh } } }
  | calm (x : Nat) : IsTrust (.powerSample x)
      { when := fun s => let m := (sampled s x).mgmt
          (m.alarm = false ∧ ¬ lastSamples m 4 (fun y => m.limit * 1000 < y)) ∨
            (m.alarm = true ∧ ¬ lastSamples m 16 (fun y => y ≤ m.limit * 95 / 100 * 1000))
        next := fun s => sampled s x }
  | alarm (x : Nat) : IsTrust (.powerSample x)
      { when := fun s => let m := (sampled s x).mgmt
          m.alarm = false ∧ lastSamples m 4 (fun y => m.limit * 1000 < y)
        next := fun s => signal ((sampled s x).modMgmt (fun m => { m with alarm := true })) 65 }
  | allClear (x : Nat) : IsTrust (.powerSample x)
      { when := fun s => let m := (sampled s x).mgmt
          m.alarm = true ∧ lastSamples m 16 (fun y => y ≤ m.limit * 95 / 100 * 1000)
        next := fun s => signal ((sampled s x).modMgmt (fun m => { m with alarm := false })) 65 }
  | stage (n v : Nat) (image : List Nat) : IsTrust (.bootStageLoad n v image)
      { when := fun s => n = s.mgmt.boot.length ∧ n < 15
        next := fun s => s.modMgmt (fun m =>
          let d := sha3 (image.map (BitVec.ofNat 8))
          { m with boot := m.boot ++ [{ stage := n, version := v % 2 ^ 32, digest := d }]
                   digest := sha3 ((if m.digest = [] then List.replicate 32 0#8 else m.digest) ++ d) }) }
  | agree (t : Nat) (offers : List Nat) : IsTrust (.negotiateAlgorithms t offers)
      { when := fun s => transportUp s t ∧ mlDsa ∈ offers ∧ sha3Hash ∈ offers
        next := fun s => (s.modMgmt (fun m => { m with agreed := Sparse.insert m.agreed t offers })).send (.algorithms t mlDsa sha3Hash) }
  | disagree (t : Nat) (offers : List Nat) : IsTrust (.negotiateAlgorithms t offers)
      { when := fun s => transportUp s t ∧ ¬ (mlDsa ∈ offers ∧ sha3Hash ∈ offers)
        next := fun s => (s.modMgmt (fun m => { m with agreed := Sparse.erase m.agreed t })).send (.spdmError t) }
  | measure (t nonce : Nat) : IsTrust (.getMeasurements t nonce)
      { when := fun s => transportUp s t ∧ Sparse.has s.mgmt.agreed t = true
        next := fun s =>
          let bs := blocksOf s.mgmt
          (sendAll s ((List.range bs.length).zip bs |>.map (fun p => .measurement t p.1 p.2))).send
            (.signed t (Config.signature s.mgmt.identity.secretKey (Config.spdmMessage (Sparse.get [] s.mgmt.agreed t) nonce bs))) }
  | unmeasured (t nonce : Nat) : IsTrust (.getMeasurements t nonce)
      { when := fun s => transportUp s t ∧ Sparse.has s.mgmt.agreed t = false, next := fun s => s.send (.spdmError t) }
  | session : IsTrust (.secureSession true true)
      { when := controllerRuns
        next := fun s => s.modMgmt (fun m => { m with sessions := m.asking :: m.sessions.filter (fun p => p != m.asking) }) }
  | noSession (a b : Bool) (h : ¬ (a = true ∧ b = true)) : IsTrust (.secureSession a b) { when := ever, next := fun s => s }

/-! ### Temperature, droop, the reserve, the ports -/

/-- A core too hot is not eligible until its reading has fallen six degrees below the threshold (R41). -/
def heated (hot d : Nat) (before : Bool) : Bool := hot ≤ d || (!decide (d + 6 ≤ hot) && before)

/-- Temperature, droop, the communication reserve and the ports. -/
inductive IsPlant : Instr → StepRule → Prop where
  | reading (c d : Nat) : IsPlant (.coreTemperatureReading c d)
      { when := fun _ => c < 2048
        next := fun s => s.modCore c (fun x => { x with reading := some d, tooHot := heated x.hot d x.tooHot }) }
  | droop (c : Nat) : IsPlant (.droopEvent c)
      { when := fun _ => c < 2048
        next := fun s =>
          let now := s.cycle c
          s.modCore c (fun x =>
            let ds := now :: x.droops.filter (fun d => now < d + 65536)
            { x with droops := ds, lastDroop := now, drooping := x.drooping || decide (4 < ds.length) }) }
  | quiet (c : Nat) : IsPlant (.droopQuiet c)
      { when := fun s => (s.core c).drooping = true ∧ (s.core c).lastDroop + 65536 ≤ s.cycle c
        next := fun s => s.modCore c (fun x => { x with drooping := false, droops := [] }) }
  | grow (d : Nat) : IsPlant (.reserveGrow d)
      { when := fun s => 4096 ≤ (s.die d).above
        next := fun s => s.modDie d (fun x => { x with
          above := x.above - 4096, reserve := if gangPlacing s = none ∧ x.reserve < 8 then x.reserve + 1 else x.reserve }) }
  | shrink (d : Nat) : IsPlant (.reserveShrink d)
      { when := fun s => 4096 ≤ (s.die d).below
        next := fun s => s.modDie d (fun x => { x with
          below := x.below - 4096, reserve := if gangPlacing s = none then x.reserve - 1 else x.reserve }) }
  | extentAdd (p b l : Nat) : IsPlant (.dynamicCapacityExtent p true b l)
      { when := fun _ => p = 1 ∨ p = 2
        next := fun s => s.modHost (fun h => { h with extents := (p, b, l) :: h.extents.filter (fun x => x != (p, b, l)) }) }
  | extentRelease (p b l : Nat) : IsPlant (.dynamicCapacityExtent p false b l)
      { when := fun _ => p = 1 ∨ p = 2
        next := fun s => s.modHost (fun h => { h with extents := h.extents.filter (fun x => x != (p, b, l)) }) }
  | cxl (p w : Nat) : IsPlant (.portLinkTraining p true 64 w)
      { when := fun s => p < 3 ∧ w = portLanes s p
        next := fun s => s.modHost (fun h => { h with
          noCxl := h.noCxl.filter (fun x => x != p), rate := Sparse.set 0 h.rate p 64 }) }
  | pcie (r w : Nat) : IsPlant (.portLinkTraining 0 false r w)
      { when := fun s => r ≤ 128 ∧ w = portLanes s 0
        next := fun s => s.modHost (fun h => { h with
          noCxl := 0 :: h.noCxl.filter (fun x => x != 0), rate := Sparse.set 0 h.rate 0 r }) }

end Sys2Proof.Rules
end

