-- ==== Sys2Proof/Certificates/Slice0/Ports.lean ====
section
/-! DEFINITION. What the statements say of the host's port and the debugger (R320, R323, R324, R385 to R391, R394 to R396, R398 to R400,
R412): when each event acts, and the state it leaves. -/

namespace Sys2Proof.Rules

open Sys2Proof Sys2Proof.Machine

/-! ### Queue registers (R387, R388) -/

/-- A doubleword after a write of 4 or 8 bytes to it, low or high half. -/
def afterWrite (old size val : Nat) (high : Bool) : Nat :=
  if size = 8 then val % 2 ^ 64
  else if high then val % 2 ^ 32 * 2 ^ 32 + old % 2 ^ 32
  else old % 2 ^ 64 / 2 ^ 32 * 2 ^ 32 + val % 2 ^ 32

/-- A BAR0 write of 4 or 8 bytes. -/
def regSize (n : Nat) : Prop := n = 4 ∨ n = 8

/-- QCFG as a write leaves it. -/
def qcfgWritten (s : State) (q size val : Nat) : Nat := afterWrite (s.queueReg q 0) size val true

/-- Ring size code of a QCFG value: 16 to 65536 entries are codes 4 to 16. -/
def ringCode (x : Nat) : Nat := x / 2 ^ 32 % 2 ^ 5

/-- The queue is set up: its configuration stands, the head starts at the tail, and the error registers are clear. -/
def queueSet (s : State) (q x : Nat) : State :=
  (((s.setQueueReg q 0 (x &&& queueKeep 0)).setQueueReg q 4 (s.queueReg q 3)).setQueueReg q 6 0).setQueueReg q 7 0

/-- A queue error (R388): the queue is disabled, its code and address stand, its vector is signalled. -/
def queueFails (s : State) (q code va : Nat) : State :=
  signal (((s.setQueueReg q 0 (s.queueReg q 0 % 2 ^ 63)).setQueueReg q 6 (code * 2 ^ 56)).setQueueReg q 7 (va % 2 ^ 57)) q

/-- Entries between head and tail. -/
def entriesOf (s : State) (q : Nat) : Nat := (s.queueReg q 3 + 2 ^ 32 - s.queueReg q 4) % 2 ^ 32

/-- A command ends: QCMD gives its operation, its code and its launch, and the queue's vector is signalled (R389). -/
def commandEnds (s : State) (q op id code : Nat) : State :=
  signal (s.setQueueReg q 5 (op * 2 ^ 56 + code * 2 ^ 48 + id % 2 ^ 32)) q

/-- The hub's firmware runs (R412). -/
def hubRuns (s : State) : Prop := 2 < s.mgmt.boot.length

/-- No command of the queue is in progress, and the hub's firmware takes one. -/
def commandFree (s : State) (q : Nat) : Prop := q < 64 ∧ s.queueReg q 5 / 2 ^ 48 % 2 ^ 8 ≠ 1 ∧ hubRuns s

/-- A launch's outcome is fixed, or it is being stopped. -/
def stopping (l : Launch) : Prop := l.stage = .preempted ∨ l.halting = true ∨ l.cancelled = true ∨ l.outcome ≠ none

/-- A command of a queue is in progress on a launch: its register says so (R389). -/
def started (s : State) (q op id k : Nat) : State :=
  (s.setQueueReg q 5 (op * 2 ^ 56 + 2 ^ 48 + id % 2 ^ 32)).modHost (fun h => { h with acting := Sparse.set 0 h.acting q k })

/-- The three events that write an operation of R389 to QCMD, with its code. -/
def IsCommand (i : Instr) (q op id : Nat) : Prop :=
  i = .preEmpt q id ∧ op = 1 ∨ i = .resume q id ∧ op = 2 ∨ i = .cancel q id ∧ op = 3

/-- BAR0 offset of a doubleword of the mailbox, or of its high half for a 4-byte write. -/
def mailboxOff (k size : Nat) (high : Bool) : Nat := 0x20000 + 8 * k + (if high ∧ size = 4 then 4 else 0)

/-- Mailbox doubleword `k`, and one as a write leaves it: the fields that hold a value (R391). -/
def mailWritten (s : State) (k size val : Nat) (high : Bool) : Nat := afterWrite (s.mail (8 * k)) size val high &&& mailKeep (8 * k)

/-- A mailbox command has been started and has not ended. -/
def mailboxBusy (s : State) : Prop := (s.mail 0x18).testBit 0 = true

/-- A write of QCTL's doubleword of the mailbox starts the command: it covers the low half, and sets go. -/
def mailboxGoes (size val : Nat) (high : Bool) : Prop := ¬ (high = true ∧ size = 4) ∧ val.testBit 0 = true

/-- Code of the command in the mailbox. -/
def mailboxCode (s : State) : Nat := s.mail 0 / 2 ^ 56 % 2 ^ 8

/-- A command code that names none ends at once, with a free status (log 30): go is clear, the marks too, vector 64 is signalled. -/
def mailNoCommand (s : State) : State :=
  let s1 := s.setMail 0x18 (setBits (s.mail 0x18) 0 1 1)
  signal (s1.took.setMail 0x18 (s1.freeByte.toNat % 256 * 2 ^ 8)) 64

/-- Queue registers and commands, and the rest of BAR0. -/
inductive IsQueueEvent : Instr → StepRule → Prop where
  | enable (q n x : Nat) : IsQueueEvent (.queueEnable q n x)
      { when := fun s => q < 64 ∧ regSize n ∧ queueEnabled s q = false ∧ (qcfgWritten s q n x).testBit 63 = true ∧
          4 ≤ ringCode (qcfgWritten s q n x) ∧ ringCode (qcfgWritten s q n x) ≤ 16
        next := fun s => queueSet s q (qcfgWritten s q n x) }
  | enableBad (q n x : Nat) : IsQueueEvent (.queueEnable q n x)
      { when := fun s => q < 64 ∧ regSize n ∧ queueEnabled s q = false ∧ (qcfgWritten s q n x).testBit 63 = true ∧
          ¬ (4 ≤ ringCode (qcfgWritten s q n x) ∧ ringCode (qcfgWritten s q n x) ≤ 16)
        next := fun s => queueFails (queueSet s q (qcfgWritten s q n x)) q 4 0 }
  | disable (q n x : Nat) : IsQueueEvent (.queueDisable q n x)
      { when := fun s => q < 64 ∧ regSize n ∧ queueEnabled s q = true ∧ (qcfgWritten s q n x).testBit 63 = false
        next := fun s => s.setQueueReg q 0 (setBits (setBits (s.queueReg q 0) 37 3 (qcfgWritten s q n x / 2 ^ 37 % 2 ^ 3)) 63 1 0) }
  | tail (q n x : Nat) : IsQueueEvent (.qtailWrite q n x)
      { when := fun s => q < 64 ∧ regSize n ∧
          (queueEnabled s q = false ∨ entriesOf (s.setQueueReg q 3 (x % 2 ^ 32)) q ≤ 2 ^ ringCode (s.queueReg q 0))
        next := fun s => s.setQueueReg q 3 (x % 2 ^ 32) }
  | tailOver (q n x : Nat) : IsQueueEvent (.qtailWrite q n x)
      { when := fun s => q < 64 ∧ regSize n ∧ queueEnabled s q = true ∧
          2 ^ ringCode (s.queueReg q 0) < entriesOf (s.setQueueReg q 3 (x % 2 ^ 32)) q
        next := fun s => queueFails (s.setQueueReg q 3 (x % 2 ^ 32)) q 3 0 }
  | root (k n x : Nat) : IsQueueEvent (.registerWrite (0x80000 + 8 * k) n x)
      { when := fun _ => k < 4096 ∧ n = 8
        next := fun s => s.modXlat (fun t => { t with roots := Sparse.set 0 t.roots k (x % 2 ^ 64 &&& rootKeep) }) }
  | unsupported (o n x : Nat) : IsQueueEvent (.registerWrite o n x)
      { when := fun _ => ¬ (regSize n ∧ o % n = 0 ∧ o + n ≤ 2 ^ 24), next := fun s => s.send (.unsupported o) }
  | readOnly (o n x : Nat) : IsQueueEvent (.registerWrite o n x)
      { when := fun _ => regSize n ∧ o % n = 0 ∧ o + n ≤ 2 ^ 24 ∧ (o < 0x10000 ∨ (0x200000 ≤ o ∧ o < 0xF80000)), next := fun s => s }
  | config (q n x : Nat) : IsQueueEvent (.registerWrite (queueOff q 0 n true) n x)
      { when := fun s => q < 64 ∧ regSize n ∧ queueEnabled s q = false ∧ (qcfgWritten s q n x).testBit 63 = false
        next := fun s => s.setQueueReg q 0 (qcfgWritten s q n x &&& queueKeep 0) }
  | priority (q n x : Nat) : IsQueueEvent (.registerWrite (queueOff q 0 n true) n x)
      { when := fun s => q < 64 ∧ regSize n ∧ queueEnabled s q = true ∧ (qcfgWritten s q n x).testBit 63 = true
        next := fun s => s.setQueueReg q 0 (setBits (setBits (s.queueReg q 0) 37 3 (qcfgWritten s q n x / 2 ^ 37 % 2 ^ 3)) 63 1 1) }
  | base (q k n x : Nat) (high : Bool) : IsQueueEvent (.registerWrite (queueOff q k n high) n x)
      { when := fun s => q < 64 ∧ (k = 1 ∨ k = 2) ∧ regSize n ∧ queueEnabled s q = false
        next := fun s => s.setQueueReg q k (afterWrite (s.queueReg q k) n x high &&& queueKeep k) }
  | baseHeld (q k n x : Nat) (high : Bool) : IsQueueEvent (.registerWrite (queueOff q k n high) n x)
      { when := fun s => q < 64 ∧ (k = 1 ∨ k = 2) ∧ regSize n ∧ queueEnabled s q = true, next := fun s => s }
  | reported (q k n x : Nat) (high : Bool) : IsQueueEvent (.registerWrite (queueOff q k n high) n x)
      { when := fun _ => q < 64 ∧ (k = 4 ∨ k = 6 ∨ k = 7) ∧ regSize n, next := fun s => s }
  | mailHeld (k n x : Nat) (high : Bool) : IsQueueEvent (.registerWrite (mailboxOff k n high) n x)
      { when := fun s => k < 32 ∧ regSize n ∧ mailboxBusy s, next := fun s => s }
  | mailWrite (k n x : Nat) (high : Bool) : IsQueueEvent (.registerWrite (mailboxOff k n high) n x)
      { when := fun s => k < 32 ∧ k ≠ 3 ∧ regSize n ∧ ¬ mailboxBusy s
        next := fun s => s.setMail (8 * k) (mailWritten s k n x high) }
  | mailGo (n x : Nat) (high : Bool) : IsQueueEvent (.registerWrite (mailboxOff 3 n high) n x)
      { when := fun s => regSize n ∧ ¬ mailboxBusy s ∧ mailboxGoes n x high ∧ 1 ≤ mailboxCode s ∧ mailboxCode s ≤ 9
        next := fun s => s.setMail 0x18 (setBits (s.mail 0x18) 0 1 1) }
  | mailNoCode (n x : Nat) (high : Bool) : IsQueueEvent (.registerWrite (mailboxOff 3 n high) n x)
      { when := fun s => regSize n ∧ ¬ mailboxBusy s ∧ mailboxGoes n x high ∧ ¬ (1 ≤ mailboxCode s ∧ mailboxCode s ≤ 9)
        next := fun s => mailNoCommand s }
  | mailRest (n x : Nat) (high : Bool) : IsQueueEvent (.registerWrite (mailboxOff 3 n high) n x)
      { when := fun s => regSize n ∧ ¬ mailboxBusy s ∧ ¬ mailboxGoes n x high, next := fun s => s }
  | busy (q op id : Nat) (i : Instr) (h : IsCommand i q op id) : IsQueueEvent i
      { when := fun s => q < 64 ∧ s.queueReg q 5 / 2 ^ 48 % 2 ^ 8 = 1, next := fun s => s }
  | notTaken (q op id : Nat) (i : Instr) (h : IsCommand i q op id) : IsQueueEvent i
      { when := fun s => q < 64 ∧ ¬ hubRuns s, next := fun s => s }
  | noLaunch (q op id : Nat) (i : Instr) (h : IsCommand i q op id) : IsQueueEvent i
      { when := fun s => commandFree s q ∧ launchNamed s q (id % 2 ^ 32) = none, next := fun s => commandEnds s q op id 2 }
  | preEmpt (q id k : Nat) : IsQueueEvent (.preEmpt q id)
      { when := fun s => commandFree s q ∧ launchNamed s q (id % 2 ^ 32) = some k ∧ ¬ stopping (s.launch k)
        next := fun s => settlePreempt ((started s q 1 id k).modLaunch k (fun l => { l with halting := true, gang := false })) k }
  | preEmptLate (q id k : Nat) : IsQueueEvent (.preEmpt q id)
      { when := fun s => commandFree s q ∧ launchNamed s q (id % 2 ^ 32) = some k ∧ stopping (s.launch k)
        next := fun s => commandEnds s q 1 id 2 }
  | resume (q id k : Nat) : IsQueueEvent (.resume q id)
      { when := fun s => commandFree s q ∧ launchNamed s q (id % 2 ^ 32) = some k ∧ (s.launch k).stage = .preempted
        next := fun s =>
          let s1 := s.modLaunch k (fun l => { l with stage := if l.begun then .running else .queued })
          commandEnds (if (s.launch k).gridsync ∧ (s.launch k).begun then beginGang s1 k else s1) q 2 id 0 }
  | resumeLate (q id k : Nat) : IsQueueEvent (.resume q id)
      { when := fun s => commandFree s q ∧ launchNamed s q (id % 2 ^ 32) = some k ∧ (s.launch k).stage ≠ .preempted
        next := fun s => commandEnds s q 2 id 2 }
  | cancel (q id k : Nat) : IsQueueEvent (.cancel q id)
      { when := fun s => commandFree s q ∧ launchNamed s q (id % 2 ^ 32) = some k
        next := fun s =>
          let s1 := started s q 3 id k
          stopLaunch (if (s.launch k).outcome = none ∧ (s.launch k).begun = true ∧ allExited s (s.launch k) k = true then
              s1.modLaunch k (fun l => { l with outcome := some (0, 0, 0) })
            else s1) k 5 0 0 }
  | invalidOp (q op id : Nat) : IsQueueEvent (.qcmdInvalidOp q op id)
      { when := fun s => commandFree s q ∧ ¬ (1 ≤ op % 256 ∧ op % 256 ≤ 3), next := fun s => commandEnds s q (op % 256) id 3 }
  | unclaimed (a : Nat) : IsQueueEvent (.unclaimedRequest a) { when := ever, next := fun s => s.send (.unsupported a) }

/-! ### Device and pooled memory seen from outside (R394 to R396, R398) -/

/-- A line of device memory that the host may ask for: its port carries CXL. -/
def hostLine (s : State) (o : Nat) : Prop := o % 64 = 0 ∧ o < 432 * 2 ^ 30 ∧ hostCxl s = true

/-- No `.ga` store stands pending on a line (R394). -/
def noGa (s : State) (line : Nat) : Prop := s.mem.gaAny line = false

/-- A host request that is served at once: no granule flips before it, and no `.ga` store holds its line (R394, R399, R400). -/
def hostNow (s : State) (o : Nat) : Prop := hostLine s o ∧ biasWait s (hdmAddr o) = false ∧ noGa s (hdmAddr o / 128)

/-- A host request that waits for its granule, behind those that wait already. -/
def hostLater (s : State) (o : Nat) (r : Request) : State :=
  s.modHost (fun h => { h with waiting := h.waiting ++ [(granuleOf (hdmAddr o), r)] })

/-- The home has recalled the line of an offset. -/
def recalled (s : State) (o : Nat) : State := recallLine s (hdmAddr o / 128)

/-- The HDM key with which the host's access to an offset then goes (R253, R394). -/
def recalledKey (s : State) (o : Nat) : Nat := (recalled s o).keyNum (recalled s o).host.hdmKey

/-- A failed read: poison, all ones, and a note to management. -/
def hostPoison (s : State) (o : Nat) : State := logFailure (s.send (.hostData o (2 ^ 512 - 1) true))

/-- A host write: the dies' copies go, and the bytes named are performed at the home, all or none. -/
def hostWritten (s : State) (o data mask : Nat) : State :=
  let line := hdmAddr o / 128
  let s1 := (recalled s o).modMem (fun m => { m.invalidateAll line 16 with invals := (m.invalidateAll line 16).invals.filter (fun v => v.line != line) })
  if keyEmpty s1 s1.host.hdmKey then logFailure s1
  else
    match hostRuns (s1.keyNum s1.host.hdmKey) (hdmAddr o) (wcRuns (mask % 2 ^ 64) data 64 0) s1.mem with
    | none => logFailure s1
    | some m => { s1 with mem := m }

/-- Host accesses, and coherence with host and pooled memory. -/
inductive IsHostEvent : Instr → StepRule → Prop where
  | read (o : Nat) (bs : List Byte) (t : State) : IsHostEvent (.hostHdmRead o)
      { when := fun s => hostNow s o ∧ keyEmpty (recalled s o) (recalled s o).host.hdmKey = false ∧
          (recalled s o).readBytes none (recalledKey s o) (hdmAddr o) 64 = .ok (bs, t)
        next := fun _ => keepHostCopy (t.send (.hostData o (ofBytes bs) false)) (hdmAddr o / 64) (ofBytes bs) }
  | readNoKey (o : Nat) : IsHostEvent (.hostHdmRead o)
      { when := fun s => hostNow s o ∧ keyEmpty (recalled s o) (recalled s o).host.hdmKey = true
        next := fun s => hostPoison (recalled s o) o }
  | readFails (o e : Nat) : IsHostEvent (.hostHdmRead o)
      { when := fun s => hostNow s o ∧ keyEmpty (recalled s o) (recalled s o).host.hdmKey = false ∧
          (recalled s o).readBytes none (recalledKey s o) (hdmAddr o) 64 = .error e
        next := fun s => hostPoison (recalled s o) o }
  | readLater (o : Nat) : IsHostEvent (.hostHdmRead o)
      { when := fun s => hostLine s o ∧ biasWait s (hdmAddr o) = true, next := fun s => hostLater s o (.read o) }
  | write (o d m : Nat) : IsHostEvent (.hostHdmWrite o d m)
      { when := fun s => hostNow s o, next := fun s => (hostWritten s o d m).send (.hostCmp o) }
  | writeLater (o d m : Nat) : IsHostEvent (.hostHdmWrite o d m)
      { when := fun s => hostLine s o ∧ biasWait s (hdmAddr o) = true, next := fun s => hostLater s o (.write o d m) }
  | gaHolds (o : Nat) (i : Instr) (h : i = .hostHdmRead o ∨ ∃ d m, i = .hostHdmWrite o d m) : IsHostEvent i
      { when := fun s => hostLine s o ∧ biasWait s (hdmAddr o) = false ∧ ¬ noGa s (hdmAddr o / 128), next := fun s => s }
  | writeBack (o d : Nat) : IsHostEvent (.hostWriteBack o d)
      { when := fun s => hostLine s o ∧ hostBias s (hdmAddr o) = true ∧ Sparse.has s.host.copies (hdmAddr o / 64) = true ∧ noGa s (hdmAddr o / 128)
        next := fun s => (hostWritten s o d (2 ^ 64 - 1)).modHost (fun h =>
          { h with copies := Sparse.insert h.copies (hdmAddr o / 64) { data := d % 2 ^ 512, dirty := false } }) }
  | bisnp (p o : Nat) (after : Option Nat) : IsHostEvent (.bisnpReceived p o after)
      { when := fun s => let w := Sparse.get (0, 0) s.host.windows p
          (p = 1 ∨ p = 2) ∧ o < 2 ^ 48 ∧ w.1 * 2 ^ 28 ≤ o ∧ o < w.2 * 2 ^ 28 ∧ noGa s ((3 * 2 ^ 48 + o) / 128)
        next := fun s => (giveUp s ((3 * 2 ^ 48 + o) / 128) after).send (.biRspI (3 * 2 ^ 48 + o)) }
  | snoop (a : Nat) (inv : Bool) (after : Option Nat) (bs : List Byte) (t : State) : IsHostEvent (.hostSnoop a inv after)
      { when := fun s => spaceOf a = 4 ∧ hostCxl s = true ∧ noGa s (a / 128) ∧
          (recallLine s (a / 128)).readBytes none 0 (128 * (a / 128)) 128 = .ok (bs, t)
        next := fun s =>
          let t1 := t.send (.snoopAnswer (128 * (a / 128)) (ofBytes bs))
          if inv then holdLine (giveUp t1 (a / 128) after) (a / 128) 0
          else holdLine (t1.modMem (fun m => { m with dirtyHome := m.dirtyHome.filter (fun l => l != a / 128) })) (a / 128)
            (min 1 (Sparse.get 0 s.host.lines (a / 128))) }

/-! ### The debug mailbox (R323, R324, R391) -/

/-- A command waits in the mailbox. -/
def asked (code : Nat) (s : State) : Prop := (s.mail 0x18).testBit 0 = true ∧ s.mail 0 / 2 ^ 56 % 2 ^ 8 = code

/-- The command ends: go is clear, the status and the two marks stand, vector 64 is signalled. -/
def answers (s : State) (status : Nat) (pending poison : Bool) : State :=
  signal (s.setMail 0x18 (status % 256 * 2 ^ 8 + bit poison * 4 + bit pending * 2)) 64

/-- The mailbox names a resident team that stands in debug stop, no group of it in a handler. -/
def stoppedTeam (s : State) (t : Nat) : Prop :=
  mailTeam s = some t ∧ teamInHandler s t = false ∧ inDebugStop s t = true

/-- And a group and a register of it. -/
def stoppedRegister (s : State) (t grp n : Nat) : Prop := stoppedTeam s t ∧ mailGroup s t = some grp ∧ mailReg s grp = some n

/-- Breakpoint that SET_BREAKPOINT writes: number in [61:60], on in [59], address below. -/
def breakWord (s : State) : Nat := s.mail 0x10

/-- The debugger's commands on a team that stands. -/
inductive IsDebug : Instr → StepRule → Prop where
  | halted (t : Nat) : IsDebug .halt
      { when := fun s => asked 1 s ∧ mailTeam s = some t ∧ inDebugStop s t = true, next := fun s => answers s 0 false false }
  | halt (t : Nat) : IsDebug .halt
      { when := fun s => asked 1 s ∧ mailTeam s = some t ∧ inDebugStop s t = false ∧ (s.team t).debug = false ∧ (s.team t).wantDebug = false
        next := fun s => askDebug s t }
  | noTeam : IsDebug .halt { when := fun s => asked 1 s ∧ mailTeam s = none, next := fun s => answers s 3 false false }
  | resume (t : Nat) : IsDebug .debugResume
      { when := fun s => asked 2 s ∧ stoppedTeam s t, next := fun s => answers (continueTeam s t false) 0 false false }
  | readVector (t grp n : Nat) : IsDebug .readRegister
      { when := fun s => asked 3 s ∧ stoppedRegister s t grp n ∧ n < 1536
        next := fun s => answers (s.setValues (fun k => (s.group grp).readV n k)) 0 (regPending s grp n)
          (Sparse.get 0 (s.group grp).marks n != 0) }
  | readScalar (t grp n : Nat) : IsDebug .readRegister
      { when := fun s => asked 3 s ∧ stoppedRegister s t grp n ∧ 1536 ≤ n ∧ n < 1600
        next := fun s => answers (s.setMail 0x80 ((s.group grp).readS (n - 1536))) 0 (regPending s grp n)
          (Sparse.get 0 (s.group grp).marks n != 0) }
  | readPredicate (t grp n : Nat) : IsDebug .readRegister
      { when := fun s => asked 3 s ∧ stoppedRegister s t grp n ∧ 1600 ≤ n
        next := fun s => answers (s.setMail 0x80 ((s.group grp).pred (n - 1664)).toNat) 0 (regPending s grp n)
          (Sparse.get 0 (s.group grp).marks n != 0) }
  | write (t grp n : Nat) : IsDebug .writeRegister
      { when := fun s => asked 4 s ∧ stoppedRegister s t grp n ∧ regPending s grp n = false
        next := fun s => answers (pokeRegister s grp n) 0 false false }
  | writeBusy (t grp n : Nat) : IsDebug .writeRegister
      { when := fun s => asked 4 s ∧ stoppedRegister s t grp n ∧ regPending s grp n = true, next := fun s => answers s 1 false false }
  | force (t grp n : Nat) : IsDebug .forceWrite
      { when := fun s => asked 5 s ∧ stoppedRegister s t grp n, next := fun s => answers (pokeRegister s grp n) 0 false false }
  | special (t grp n w : Nat) : IsDebug .readSpecial
      { when := fun s => asked 6 s ∧ stoppedTeam s t ∧ mailGroup s t = some grp ∧ n = s.mail 0x10 % 2 ^ 57 ∧ sregWidth n = some w
        next := fun s => answers (s.setMail 0x80 (Machine.special s grp n (low (s.group grp).live) % 2 ^ w)) 0 false false }
  | deliver (t : Nat) : IsDebug .deliver
      { when := fun s => asked 7 s ∧ stoppedTeam s t
        next := fun s =>
          let gs := standing s t
          let s1 := gs.foldl (fun s k => s.modGroup k (fun g => { g with
            mode := .halted, entPreempt := false, entResume := false
            cause := { cause := Cause.breakpoint, lane := low g.live, causes := causeAll g.live Cause.breakpoint, present := g.live
                       self := true } })) s
          let s2 := gs.foldl dropReads s1
          answers (s2.modTeam t (fun x => { x with
            debug := false, cause := Cause.breakpoint, origin := idxOf ((oldest s gs).getD (32 * t)) })) 0 false false }
  | breakpoint (t : Nat) : IsDebug .setBreakpoint
      { when := fun s => asked 8 s ∧ stoppedTeam s t
        next := fun s => answers (s.modTeam t (fun x => { x with
          breaks := Sparse.set 0 x.breaks (breakWord s / 2 ^ 60 % 4)
            (if (breakWord s).testBit 59 then breakWord s % 2 ^ 57 + 1 else 0) })) 0 false false }
  | step (t : Nat) : IsDebug .step
      { when := fun s => asked 9 s ∧ stoppedTeam s t ∧ (s.team t).stepping = false, next := fun s => continueTeam s t true }
  | stepped (t : Nat) : IsDebug .step
      { when := fun s => asked 9 s ∧ mailTeam s = some t ∧ (s.team t).stepping = true ∧
          (standing s t).all (fun k => (s.group k).mode = .debugStop) = true
        next := fun s => answers (s.modTeam t (fun x => { x with stepping := false })) 0 false false }

/-- What a command on a team that does not stand answers: 3 for no such team, 4 in a handler, 2 otherwise (R323). -/
inductive DebugRefused : Instr → Nat → (State → Prop) → Nat → Prop where
  | noName (i : Instr) (c : Nat) (h : (i, c) ∈ [(Instr.debugResume, 2), (.readRegister, 3), (.writeRegister, 4), (.forceWrite, 5),
      (.readSpecial, 6), (.deliver, 7), (.setBreakpoint, 8)]) : DebugRefused i c (fun s => mailTeam s = none) 3
  | handler (i : Instr) (c t : Nat) (h : (i, c) ∈ [(Instr.debugResume, 2), (.readRegister, 3), (.writeRegister, 4), (.forceWrite, 5),
      (.readSpecial, 6), (.deliver, 7), (.setBreakpoint, 8)]) :
      DebugRefused i c (fun s => mailTeam s = some t ∧ teamInHandler s t = true) 4
  | running (i : Instr) (c t : Nat) (h : (i, c) ∈ [(Instr.debugResume, 2), (.readRegister, 3), (.writeRegister, 4), (.forceWrite, 5),
      (.readSpecial, 6), (.deliver, 7), (.setBreakpoint, 8)]) :
      DebugRefused i c (fun s => mailTeam s = some t ∧ teamInHandler s t = false ∧ inDebugStop s t = false) 2

end Sys2Proof.Rules
end

