-- ==== Sys2Proof/Certificates/Slice0/Launches.lean ====
section
/-! DEFINITION. What the statements say of launches, clusters, landings, operations and traps (R28 to R40, R54, R55, R110, R152, R166,
R173, R188 to R190, R280, R312, R322, R417): when each event acts, and the state it leaves. -/

namespace Sys2Proof.Rules

open Sys2Proof Sys2Proof.Machine

/-! ### Launches and clusters -/

/-- A queue's agent at the hub. -/
abbrev queueAgent (s : State) (q : Nat) : Agent := hubAgent (queueAsid s q) 0

/-- Address of the ring entry at the head. -/
def ringEntry (s : State) (q : Nat) : Nat := s.queueReg q 1 + 8 * (s.queueReg q 4 % 2 ^ ringCode (s.queueReg q 0))

/-- Where a ring entry may be read (R388): by the hub's firmware, once it runs (R412). -/
def ringReady (s : State) (q : Nat) : Prop :=
  hubRuns s ∧ q < 64 ∧ queueEnabled s q = true ∧ s.queueReg q 4 ≠ s.queueReg q 3 ∧ Sparse.get 0 s.work.taking q = 0

/-- Doubleword `k` of bytes. -/
def dword (bs : List Byte) (k : Nat) : Nat := ofBytes ((bs.drop (8 * k)).take 8)

/-- What a launch record may ask for (R28, R29, R31). -/
structure RecordFits (l : Launch) (version : Nat) : Prop where
  version : version = 1
  width : 1 ≤ l.w ∧ l.w ≤ 12
  height : 1 ≤ l.h ∧ l.h ≤ 8
  teams : l.w * l.h ≤ 12
  clusters : 1 ≤ l.clusters ∧ l.clusters ≤ 2 ^ 24
  comm : l.comm = true ↔ l.queue = 63
  groups : 1 ≤ l.groups ∧ l.groups ≤ 32
  registers : 1 ≤ l.full ∧ l.full ≤ 1536
  scalars : l.scalars ≤ 64
  lanepriv : l.lanepriv ≤ 128
  scratch : l.scratch ≤ 2048
  barges : l.barges ≤ 4
  diescratch : l.diescratch ≤ 32
  bytes : l.scratch * 256 + l.groups * 32 * l.lanepriv * 16 ≤ 524288

/-- The launch of a record. -/
def launchOf (s : State) (q : Nat) (bs : List Byte) : Launch := Launch.ofRecord (dword bs) q (queueAsid s q)

/-- The record of a launch on its way in has been read. -/
def recordRead (s : State) (q : Nat) (bs : List Byte) (t : State) : Prop :=
  hubRuns s ∧ Sparse.get 0 s.work.taking q ≠ 0 ∧ s.load (queueAgent s q) (Sparse.get 0 s.work.taking q - 1) 64 = .ok bs t

/-- A launch waits for its first dispatch: at the head of its queue, and every edge satisfied. -/
def dispatchable (s : State) (q k : Nat) : Prop :=
  headLaunch s q = some k ∧ (s.launch k).begun = false ∧ (s.launch k).stage = .queued ∧ (s.launch k).halting = false ∧
    (s.launch k).edgeList.length ≤ (s.launch k).satisfied.length

/-- A launch's outcome is fixed by a status. -/
def endsWith (s : State) (k status : Nat) : State := s.modLaunch k (fun l => { l with outcome := some (status, 0, 0) })

/-- The trap control block of a queue has been read. -/
def blockRead (s : State) (q k : Nat) (bs : List Byte) (t : State) : Prop :=
  s.load (hubAgent (s.launch k).asid k) (s.queueReg q 2) 64 = .ok bs t

/-- The launch begins with what its block gives it. -/
def begins (s : State) (q k : Nat) (bs : List Byte) (t : State) : State :=
  t.modLaunch k (fun l => l.withBlock (dword bs) ((s.mgmt.privMask).testBit q))

/-- An edge that may be satisfied now, with its producer's status (R34). -/
def edgeReady (s : State) (k e : Nat) (x : Edge) (st : Nat) : Prop :=
  (s.launch k).stage ≠ .complete ∧ (s.launch k).outcome = none ∧ e ∉ (s.launch k).satisfied ∧ (s.launch k).edgeList[e]? = some x ∧
    edgeStatus s x = some st

/-- Lines of an edge's regions that some die holds. -/
def edgeLines (s : State) (k : Nat) (x : Edge) : List Nat :=
  linesIn s.mem (x.regions.flatMap (fun r => regionBlocks s (s.launch k).asid r.1 r.2))

/-- An edge is satisfied. -/
def edgeDone (s : State) (k e st : Nat) : State :=
  s.modLaunch k (fun l => { l with satisfied := e :: l.satisfied, edgeBad := l.edgeBad || st != 0 })

/-- No token of a team holds an armed export (R177). -/
def noExports (s : State) (t : Nat) : Prop :=
  ∀ p ∈ s.groups, teamOf p.1 = t → ∀ x ∈ p.2.toks ++ p.2.htoks, x.2.armed = false

/-- A cluster all of whose teams have exited, with nothing of theirs left (R37, R177, R260, R349). -/
def clusterOver (s : State) (c : Nat) : Prop :=
  (s.cluster c).placed = true ∧ (s.cluster c).saved = false ∧ (s.cluster c).released = false ∧
    ∀ t ∈ teamsOfCluster s c, (s.team t).exited = true ∧ nearDone s t = true ∧ noExports s t ∧ (∀ b ∈ bargesOf t, (s.barge b).busy = false) ∧
      (s.engine (s.team t).core).holder ≠ some t

/-- Launches and clusters. -/
inductive IsLaunch : Instr → StepRule → Prop where
  | ring (q : Nat) (bs : List Byte) (t : State) : IsLaunch (.ringEntryRead q)
      { when := fun s => ringReady s q ∧ s.load (queueAgent s q) (ringEntry s q) 8 = .ok bs t
        next := fun s => (t.setQueueReg q 4 ((s.queueReg q 4 + 1) % 2 ^ 32)).modWork (fun w => { w with
          taking := Sparse.set 0 w.taking q (ofBytes bs / 2 ^ 6 % 2 ^ 51 * 64 + 1) }) }
  | ringFails (q c a : Nat) : IsLaunch (.ringEntryRead q)
      { when := fun s => ringReady s q ∧ s.load (queueAgent s q) (ringEntry s q) 8 = .fail c a, next := fun s => queueFails s q 1 a }
  | take (q : Nat) (bs : List Byte) (t : State) : IsLaunch (.launchTake q)
      { when := fun s => recordRead s q bs t ∧ RecordFits (launchOf s q bs) (dword bs 0 / 2 ^ 56 % 2 ^ 8) ∧ (launchOf s q bs).edgecnt = 0
        next := fun s => enterQueue t (launchOf s q bs) }
  | takeEdges (q : Nat) (bs es : List Byte) (t u : State) (table : List Edge) : IsLaunch (.launchTake q)
      { when := fun s => recordRead s q bs t ∧ RecordFits (launchOf s q bs) (dword bs 0 / 2 ^ 56 % 2 ^ 8) ∧ (launchOf s q bs).edgecnt ≠ 0 ∧
          t.load (queueAgent s q) (launchOf s q bs).edges (144 * (launchOf s q bs).edgecnt) = .ok es u ∧
          edgesOf u es (launchOf s q bs).edgecnt = some table
        next := fun s => enterQueue u { launchOf s q bs with edgeList := table } }
  | takeEdgesBad (q : Nat) (bs es : List Byte) (t u : State) : IsLaunch (.launchTake q)
      { when := fun s => recordRead s q bs t ∧ RecordFits (launchOf s q bs) (dword bs 0 / 2 ^ 56 % 2 ^ 8) ∧ (launchOf s q bs).edgecnt ≠ 0 ∧
          t.load (queueAgent s q) (launchOf s q bs).edges (144 * (launchOf s q bs).edgecnt) = .ok es u ∧
          edgesOf u es (launchOf s q bs).edgecnt = none
        next := fun s => enterQueue u { launchOf s q bs with outcome := some (1, 0, 0) } }
  | takeEdgesFail (q c a : Nat) (bs : List Byte) (t : State) : IsLaunch (.launchTake q)
      { when := fun s => recordRead s q bs t ∧ RecordFits (launchOf s q bs) (dword bs 0 / 2 ^ 56 % 2 ^ 8) ∧ (launchOf s q bs).edgecnt ≠ 0 ∧
          t.load (queueAgent s q) (launchOf s q bs).edges (144 * (launchOf s q bs).edgecnt) = .fail c a
        next := fun s => enterQueue t { launchOf s q bs with outcome := some (7, 0, 0) } }
  | takeBad (q : Nat) (bs : List Byte) (t : State) : IsLaunch (.launchTake q)
      { when := fun s => recordRead s q bs t ∧ ¬ RecordFits (launchOf s q bs) (dword bs 0 / 2 ^ 56 % 2 ^ 8)
        next := fun s => enterQueue t { launchOf s q bs with outcome := some (1, 0, 0) } }
  | takeFails (q c a : Nat) : IsLaunch (.launchTake q)
      { when := fun s => hubRuns s ∧ Sparse.get 0 s.work.taking q ≠ 0 ∧
          s.load (queueAgent s q) (Sparse.get 0 s.work.taking q - 1) 64 = .fail c a
        next := fun s => (queueFails s q 5 a).modWork (fun w => { w with taking := Sparse.set 0 w.taking q 0 }) }
  | edge (k e : Nat) (x : Edge) : IsLaunch (.edgeSatisfy k e)
      { when := fun s => edgeReady s k e x 0 ∧ ∀ l ∈ edgeLines s k x, s.mem.gaAny l = false
        next := fun s => edgeDone ((edgeLines s k x).foldl flushLine s) k e 0 }
  | edgeBad (k e st : Nat) (x : Edge) : IsLaunch (.edgeSatisfy k e)
      { when := fun s => edgeReady s k e x st ∧ st ≠ 0, next := fun s => edgeDone s k e st }
  | dispatch (q k : Nat) (bs : List Byte) (t : State) : IsLaunch (.dispatchBegin q)
      { when := fun s => dispatchable s q k ∧ (s.launch k).edgeBad = false ∧ blockRead s q k bs t ∧ 5 ≤ dword bs 2 % 65536 ∧
          (s.launch k).gridsync = false
        next := fun s => begins s q k bs t }
  | gang (q k : Nat) (bs : List Byte) (t : State) : IsLaunch (.dispatchBegin q)
      { when := fun s => dispatchable s q k ∧ (s.launch k).edgeBad = false ∧ blockRead s q k bs t ∧ 5 ≤ dword bs 2 % 65536 ∧
          (s.launch k).gridsync = true ∧ (s.launch k).clusters ≤ gridRoom (begins s q k bs t) (s.launch k)
        next := fun s => beginGang (begins s q k bs t) k }
  | tooBig (q k : Nat) (bs : List Byte) (t : State) : IsLaunch (.dispatchBegin q)
      { when := fun s => dispatchable s q k ∧ (s.launch k).edgeBad = false ∧ blockRead s q k bs t ∧ 5 ≤ dword bs 2 % 65536 ∧
          (s.launch k).gridsync = true ∧ gridRoom (begins s q k bs t) (s.launch k) < (s.launch k).clusters
        next := fun s => endsWith (begins s q k bs t) k 2 }
  | badEdge (q k : Nat) : IsLaunch (.dispatchBegin q)
      { when := fun s => dispatchable s q k ∧ (s.launch k).edgeBad = true, next := fun s => endsWith s k 3 }
  | noBlock (q k c a : Nat) : IsLaunch (.dispatchBegin q)
      { when := fun s => dispatchable s q k ∧ (s.launch k).edgeBad = false ∧
          s.load (hubAgent (s.launch k).asid k) (s.queueReg q 2) 64 = .fail c a
        next := fun s => endsWith s k 7 }
  | shortSlot (q k : Nat) (bs : List Byte) (t : State) : IsLaunch (.dispatchBegin q)
      { when := fun s => dispatchable s q k ∧ (s.launch k).edgeBad = false ∧ blockRead s q k bs t ∧ dword bs 2 % 65536 < 5
        next := fun _ => endsWith t k 7 }
  | request (d c r q k n : Nat) : IsLaunch (.clusterRequest d c r)
      { when := fun s => chosenQueue s d = some q ∧ offer s q d = some (k, n) ∧ rectFits s k n d c r = true
        next := fun s => commitCluster s k n d c r }
  | release (c : Nat) : IsLaunch (.clusterRelease c)
      { when := fun s => clusterOver s c
        next := fun s => settlePreempt (((teamsOfCluster s c).foldl releaseTeam s).modCluster c (fun x => { x with released := true }))
          (c / 2 ^ 24) }
  | complete (k : Nat) (t : State) : IsLaunch (.launchComplete k)
      { when := fun s => launchOver s k = true ∧
          s.store (hubAgent (s.launch k).asid k) (s.launch k).done (completion (s.launch k)) = .ok () t
        next := fun s => retireLaunch (signal (writeBack t 5) (s.launch k).queue) k }
  | completeFails (k c a : Nat) : IsLaunch (.launchComplete k)
      { when := fun s => launchOver s k = true ∧
          s.store (hubAgent (s.launch k).asid k) (s.launch k).done (completion (s.launch k)) = .fail c a
        next := fun s => retireLaunch (queueFails s (s.launch k).queue 2 a) k }

/-! ### Landings -/

/-- An operation of a kind is there. -/
def flying (s : State) (id : Nat) (k : OpKind) : Prop := s.hasOp id = true ∧ (s.op id).kind = k

/-- An engine operation that has started and not finished. -/
def working (s : State) (id : Nat) : Prop := s.hasOp id = true ∧ (s.op id).held = false ∧ (s.op id).result = none

/-- A held operation may start: everything it waits for has retired, and none of that is poisoned (R173). -/
def goes (s : State) (id : Nat) : Prop :=
  s.hasOp id = true ∧ (s.op id).ready = true ∧
    poisonBy (s.op id).pre (s.group (s.op id).grp) (s.op id).handler (s.op id).mask = none

/-- No older operation of the same group satisfies `P`. -/
def oldestOf (s : State) (id : Nat) (P : Op → Prop) : Prop :=
  ∀ p ∈ s.ops, p.1 < id → p.2.grp = (s.op id).grp → ¬ P p.2

/-- The parts of an operation still to come in a lane. -/
def partsOf (s : State) (id lane : Nat) : List Nat := (s.op id).left.filter (fun k => k / 4 = lane)

/-- A part lands, after the group's earlier accesses to the same bytes. -/
def partLands (id : Nat) (s : State) (k : Nat) : State :=
  performLevel (match partPlace s (s.op id) k with
    | some a => performOlder s (s.op id).grp id a ((s.op id).span k).2
    | none => s) id k

/-- A team whose bytes of a `cput` have all landed, and that has not been counted. -/
def cputReady (s : State) (id t : Nat) : Prop :=
  flying s id .posted ∧ (s.op id).idx = 2 ∧ t ∈ cputTeams s (s.op id) ∧ t ∉ (s.op id).z ∧
    (∀ k ∈ (s.op id).left, clusterTeam s (teamOf (s.op id).grp) ((s.op id).at_ k) ≠ t) ∧ coveredDone s (s.op id).grp id = true

/-- A `.ga` store or atomic that has not retired 2²⁰ cycles after it issued (R222). -/
def overdue (s : State) (id : Nat) : Prop :=
  (s.op id).result = none ∧ (s.op id).ga = true ∧ (s.op id).storing = true ∧ (s.op id).birth + 2 ^ 20 ≤ s.cycle (s.op id).core

/-- Parts of a global access that are not home. -/
def partsOut (s : State) (id : Nat) : List Nat := (s.op id).parts.filter (fun k => !decide (k ∈ (s.op id).homed))

/-- An access is lost: what is not home fails. -/
def lostAccess (s : State) (id : Nat) : State :=
  let o := s.op id
  let out := partsOut s id
  let s1 := (out.foldl (fun s k => losePart s id k) s).modMem (fun m => { m with gaPend := m.gaPend.filter (fun st => st.op != id) })
  finishOp s1 id (o.lanes.length * o.size - o.lostBytes - (out.map (fun k => (o.span k).2)).sum)
    (some (match out with
      | [] => o.fail.getD (lostFail s o (o.parts.head?.getD 0))
      | k :: _ => o.noteFail (lostFail s o k)))

/-- A path that comes to an instruction which a breakpoint of its team names: the entry's counter and lanes, the entries selected after it,
the instruction's address and its clause's header, its first word, its encoding, the states in which the two have been fetched, and the
causes that the instruction has of its own. -/
structure Broken where
  pc : Nat
  lanes : Lanes
  rest : List (Nat × Lanes)
  va : Nat
  hdr : Nat
  word : Nat
  enc : Enc
  found1 : State
  decoded : State
  own : CauseRec

/-- A path's wait and headers are done, and it is at the instruction. -/
def Broken.at_ (x : Broken) (s : State) (g : Nat) (t : State) : Prop :=
  runHeaders g headerFuel s x.pc ((s.group g).hdr (low x.lanes)) 0 = .ready x.va x.hdr x.word t

/-- The entry whose turn it is issues an instruction that a breakpoint names (R138 to R143, R323). -/
def Broken.found (x : Broken) (s : State) (g : Nat) : Prop :=
  let s1 := s.modGroup g (fun y => { y with picks := x.rest })
  (s.group g).picks = (x.pc, x.lanes) :: x.rest ∧ breakAt s g x.va = true ∧ (∃ t, x.at_ s g t) ∧
    (s1.group g).mayIssue = true ∧ x.lanes ≠ 0#32 ∧ Lanes.sub x.lanes ((s1.group g).entryLanes x.pc) = true ∧ x.at_ s1 g x.found1 ∧
    (x.va = x.pc → (x.found1.group g).need &&& x.lanes = 0#32) ∧ instrAt x.found1 g x.va x.word = .ok (some x.enc, x.decoded) ∧
    breakAt x.decoded g x.va = true ∧
    ownCauses x.decoded g x.lanes x.va (x.va + 4 * wordsOf (BitVec.ofNat 32 x.word)) x.hdr (x.va != x.pc) x.enc = some x.own

/-- Landings, operations and flags. -/
inductive IsLanding : Instr → StepRule → Prop where
  | grant (c : Nat) : IsLanding (.racqGrant c) { when := ever, next := fun s => grantPool (grantSpare s c) c }
  | deadline (g m : Nat) : IsLanding (.mwaitDeadline g m)
      { when := fun s => ((s.group g).mode = .running ∨ (s.group g).mode = .handler) ∧ m < 12 ∧ issuedOut s g = true
        next := fun s => s.modGroup g (fun x => x.settle m (s.cycle (coreOfGrp s g))) }
  | special (id : Nat) : IsLanding (.specialFunctionLand id) { when := fun s => flying s id .special, next := fun s => flagDone s id }
  | shuffle (id : Nat) : IsLanding (.shuffleLand id)
      { when := fun s => flying s id .shuffle ∧ olderShuffle s id = false, next := fun s => flagDone s id }
  | load (id : Nat) : IsLanding (.scratchpadLoadLand id)
      { when := fun s => flying s id .load, next := fun s => flagDone ((performLevelAll s id).modOp id Op.results) id }
  | atomic (id : Nat) : IsLanding (.scratchpadAtomicLand id)
      { when := fun s => flying s id .atom, next := fun s => flagDone (performLevelAll s id) id }
  | taken (id : Nat) : IsLanding (.queueReadLand id)
      { when := fun s => flying s id .queueRead ∧ (s.op id).x < 32, next := fun s => flagDone s id }
  | entry (id e : Nat) (es : List Nat) : IsLanding (.queueReadLand id)
      { when := fun s => flying s id .queueRead ∧ 32 ≤ (s.op id).x ∧ (s.op id).withdrawn = false ∧
          oldestOf s id (fun o => o.kind = .queueRead ∧ o.x = (s.op id).x) ∧
          s.queueOf (teamOf (s.op id).grp) (s.op id).x = e :: es
        next := fun s => flagDone ((s.setQueue (teamOf (s.op id).grp) (s.op id).x es).modOp id
          (fun o => { o with vals := o.active.toList.map (fun k => (k, e)) })) id }
  | posted (id lane : Nat) : IsLanding (.postedWriteLand id lane)
      { when := fun s => flying s id .posted, next := fun s => postedEnd ((partsOf s id lane).foldl (partLands id) s) id }
  | cput (id t : Nat) : IsLanding (.cputIncrement id t)
      { when := fun s => cputReady s id t
        next := fun s =>
          let s1 := if holdsTeam s (s.team t).core then s.modCore (s.team t).core (fun c =>
              { c with sems := Sparse.set 0 c.sems (s.op id).y ((Sparse.get 0 c.sems (s.op id).y + 1) % 2 ^ 32) })
            else s
          postedEnd (s1.modOp id (fun o => { o with z := o.z ++ [t] })) id }
  | run (id : Nat) : IsLanding (.heldOperationStart id)
      { when := fun s => flying s id .bargeRun, next := fun s => startBarge s (s.op id).x }
  | held (id : Nat) : IsLanding (.heldOperationStart id)
      { when := fun s => s.hasOp id = true ∧ (s.op id).kind ≠ .bargeRun ∧ (s.op id).kind ≠ .bstop ∧ (s.op id).kind.cls ≠ 6
        next := fun s => startOp s id }
  | poisoned (id c : Nat) : IsLanding (.heldOperationStart id)
      { when := fun s => s.hasOp id = true ∧ (s.op id).kind ≠ .bargeRun ∧ (s.op id).ready = true ∧
          poisonBy (s.op id).pre (s.group (s.op id).grp) (s.op id).handler (s.op id).mask = some c ∧
          ¬ ((poisonOp s id c).hasOp id = true ∧ ((poisonOp s id c).op id).result = none)
        next := fun s => poisonOp s id c }
  | stop (id : Nat) : IsLanding (.heldOperationStart id)
      { when := fun s => goes s id ∧ (s.op id).kind = .bstop ∧ (s.op id).result = none, next := fun s => stopNow (startOp s id) id }
  | behind (id : Nat) : IsLanding (.heldOperationStart id)
      { when := fun s => goes s id ∧ (s.op id).toPod = true ∧ podBlocked s id (s.op id) = true, next := fun s => s }
  | noRoom (id : Nat) : IsLanding (.heldOperationStart id)
      { when := fun s => goes s id ∧ (s.op id).kind = .put ∧ podBlocked s id (s.op id) = false ∧ putFits s (s.op id) = false
        next := fun s => makeRoom s (s.op id) }
  | fabric (id : Nat) : IsLanding (.heldOperationStart id)
      { when := fun s => goes s id ∧ (s.op id).kind.cls = 6 ∧ (s.op id).result = none ∧ ((s.op id).toPod = true → podBlocked s id (s.op id) = false) ∧
          ((s.op id).kind = .put → putFits s (s.op id) = true)
        next := fun s => startFabric (startOp s id) id }
  | access (id : Nat) : IsLanding (.globalAccessRetire id)
      { when := fun s => working s id ∧ (s.op id).isGlobal = true ∧ (s.op id).left = [] ∧
          ((s.op id).storing = false ∨ ∀ k ∈ (s.op id).parts, k ∈ (s.op id).homed)
        next := fun s => finishOp ((if (s.op id).fail = none then unlose s (s.op id) else s).modOp id Op.results) id
          (s.op id).bytesDone (s.op id).fail }
  | lines (id : Nat) (t : State) : IsLanding (.globalAccessRetire id)
      { when := fun s => working s id ∧ ((s.op id).kind = .clean ∨ (s.op id).kind = .inval) ∧
          cleanLines s id (s.op id).active.toList = some t
        next := fun _ => finishOp t id 0 (t.op id).fail }
  | code (id : Nat) : IsLanding (.globalAccessRetire id)
      { when := fun s => working s id ∧ (s.op id).kind = .icinv, next := fun s => finishOp (discardCode s (s.op id)) id 0 none }
  | die (id : Nat) : IsLanding (.dieScratchpadRetire id)
      { when := fun s => flying s id .dieScratch ∧ working s id ∧ (s.op id).left = []
        next := fun s => finishOp (s.modOp id Op.results) id (s.op id).bytesDone none }
  | chamber (id : Nat) (c : ChamberAt) (t : State) : IsLanding (.chamberArrive id)
      { when := fun s => flying s id .charr ∧ releaseDone s (s.op id).grp id (scopeMod (s.op id).form) = true ∧
          oldestOf s id (fun o => o.kind = .charr ∧ o.addr = (s.op id).addr) ∧
          chamberAt s (teamOf (s.op id).grp) (scopeMod (s.op id).form) (Sparse.get 0 (s.op id).addr 0) = some c ∧
          arriveAt (writeBack s (scopeMod (s.op id).form)) (agentOn s (s.op id).core (launchOfGrp (s.op id).grp)) c (s.op id).y (s.op id).x
            false 0 (scopeMod (s.op id).form) = .ok () t
        next := fun _ => t.dropOp id }
  | lost (id : Nat) : IsLanding (.ackLost id)
      { when := fun s => flying s id .global ∧ overdue s id, next := fun s => lostAccess s id }
  | lostFar (id : Nat) : IsLanding (.ackLost id)
      { when := fun s => (flying s id .put ∨ flying s id .ratom) ∧ overdue s id, next := fun s => losePod s id }
  | longLatency (g f : Nat) : IsLanding (.longLatencyFlag g f)
      { when := fun s => f ∉ (s.group g).longFlags ∧
          ∃ p ∈ s.ops, p.2.grp = g ∧ p.2.flag = some f ∧ p.2.birth + 64 < s.cycle p.2.core
        next := fun s => s.modGroup g (fun x => { x with longFlags := f :: x.longFlags }) }
  | watchdog (g : Nat) : IsLanding (.watchdog g)
      { when := fun s => watchdogDue s g = true, next := fun s => raiseInPlace s g Cause.watchdog }
  | breakpoint (g : Nat) (x : Broken) : IsLanding (.addressBreakpoint g)
      { when := fun s => x.found s g
        next := fun _ => settleHalts (afterIssue x.decoded
          (raiseAt x.decoded g x.lanes x.va x.hdr (breakCauses x.lanes x.own) (if x.own.tokv then some (x.own.token, x.own.tcause) else none))
          g x.va (x.va + 4 * wordsOf (BitVec.ofNat 32 x.word)) false) (teamOf g) }
  | handler (g : Nat) : IsLanding (.handlerEntry g)
      { when := fun s => (s.group g).mode = .halted ∧ (s.group g).picks = [] ∧ (s.team (teamOf g)).debug = false ∧ (s.group g).live ≠ 0#32 ∧
          handlerReady s g (s.group g).entPreempt = true ∧ multicastsLanded s (teamOf g) = true ∧
          ((s.group g).entPreempt = false ∨ preemptReady s g = true)
        next := fun s => enterHandler s g }

end Sys2Proof.Rules
end

