-- ==== Sys2Proof/Certificates/Slice0/Devices.lean ====
section
/-! DEFINITION. What the statements say of the memory system, the matrix engine, near memory, barges as units, the fabric, collectives and
degraded operation (R12 to R14, R228, R229, R245 to R250, R257, R265, R284, R285, R288, R295 to R300, R303, R306, R345 to R354, R358 to
R361, R363, R366, R372 to R377, R399, R400, R409, R410): when each event acts, and the state it leaves. -/

namespace Sys2Proof.Rules

open Sys2Proof Sys2Proof.Machine

/-! ### Memory, translation, bias -/

/-- A granule's flip is asked for, and no store to the granule is on its way. -/
def flipQuiet (s : State) (g : Nat) : Prop :=
  (∀ st ∈ s.mem.fwd, lineInGranule g (st.addr / 128) = false) ∧ (∀ st ∈ s.mem.gaPend, lineInGranule g (st.addr / 128) = false)

/-- A core's access waits for a translation that neither its caches nor a walk in progress give, and a walker is free (R247). -/
def walkAsked (s : State) (c a va k : Nat) : Prop :=
  c < 2048 ∧ a < 4096 ∧ va < 2 ^ 57 ∧ asksWalk s c a va k = true ∧ tlbFind s c a va = none ∧ walkJoined s a va = none ∧
    s.xlat.walks.length < 64

/-- Address of a line of a granule: granules of a region lie one after the other, each of 64 host lines. -/
def granuleLine (g l : Nat) : Nat := g / 9437184 * 2 ^ 44 + g % 9437184 * 4096 + 64 * l

/-- The memory system. -/
inductive IsMemoryEvent : Instr → StepRule → Prop where
  | walk (c a va k : Nat) (x y : TlbEntry) (seen : List TableWord) (t : State) : IsMemoryEvent (.pageWalk c a va k)
      { when := fun s => walkAsked s c a va k ∧ walk s c a va = .ok (x, seen) ∧ useLeaf (tookLost s) x k (demandFlags k) = .ok (y, t)
        next := fun _ => (keepWalk t x seen).modXlat (fun m => { m with walks := m.walks ++ [{ asid := a, page := va / 65536, leaf := y }] }) }
  | walkFails (c a va k e : Nat) : IsMemoryEvent (.pageWalk c a va k)
      { when := fun s => walkAsked s c a va k ∧ walk s c a va = .error e, next := fun s => s }
  | walkForbids (c a va k e : Nat) (x : TlbEntry) (seen : List TableWord) : IsMemoryEvent (.pageWalk c a va k)
      { when := fun s => walkAsked s c a va k ∧ walk s c a va = .ok (x, seen) ∧ useLeaf (tookLost s) x k (demandFlags k) = .error e
        next := fun s => s }
  | walkUnasked (c a va k : Nat) : IsMemoryEvent (.pageWalk c a va k)
      { when := fun s => asksWalk s c a va k = false, next := fun s => s }
  | ahead (c a va t w : Nat) (x : TlbEntry) (u v : State) : IsMemoryEvent (.runAheadFetch c a va)
      { when := fun s => (teamsOn s c).find? (fun t => (s.launch (launchOfTeam t)).asid = a) = some t ∧ va % 4 = 0 ∧ va < 2 ^ 57 ∧
          aheadLeaf s c a va = some (x, u) ∧ codeHeld u c a va (x.phys va) (u.leafKey x) = none ∧ codeAt u c (launchOfTeam t) x va = .ok (w, v)
        next := fun _ => keepCode v c a va x w }
  | forward (g : Nat) (st : Store) : IsMemoryEvent (.efStoreForward g)
      { when := fun s => (∀ v ∈ s.mem.invals, v.agent ≠ g) ∧ forwardable s g = [st], next := fun s => Machine.forward s st }
  | forwardOne (g : Nat) (st : Store) (l : List Store) : IsMemoryEvent (.efStoreForward g)
      { when := fun s => (∀ v ∈ s.mem.invals, v.agent ≠ g) ∧ forwardable s g = st :: l ∧ l ≠ []
        next := fun s => Machine.forward s.took (nth st (st :: l) (s.freeChoice (l.length + 1))) }
  | acknowledge (id k : Nat) (st : Store) : IsMemoryEvent (.gaStoreAcknowledge id k)
      { when := fun s => s.mem.gaPend.find? (fun x => x.op = id && x.part = k && !s.mem.unforwarded (x.addr / 128) x.die &&
          firstOfLine s.mem.gaPend x) = some st
        next := fun s => Machine.acknowledge s st }
  | toHost (g : Nat) (f : Flip) : IsMemoryEvent (.biasFlipHost g)
      { when := fun s => flipOf s g true = some f ∧ flipQuiet s g
        next := fun s => endFlip (s.modMem (fun m => { m with
          copies := m.copies.filter (fun p => !lineInGranule g (p.1 / 16)), invals := m.invals.filter (fun v => !lineInGranule g v.line) })) g true }
  | deviceAlready (g : Nat) (f : Flip) : IsMemoryEvent (.biasFlipDevice g)
      { when := fun s => flipOf s g false = some f ∧ (hostCxl s = false ∨ Sparse.get false s.host.bias g = false), next := fun s => endFlip s g false }
  | deviceSnoops (g : Nat) (f : Flip) : IsMemoryEvent (.biasFlipDevice g)
      { when := fun s => flipOf s g false = some f ∧ hostCxl s = true ∧ Sparse.get false s.host.bias g = true ∧ f.sent = false
        next := fun s =>
          (sendAll s ((List.range 64).map (fun l => .biSnpInv (Config.hdmDecode s.host.decoder (granuleHdm g + 64 * l))))).modHost (fun h =>
            { h with flips := h.flips.map (fun x => if x = f then { f with sent := true } else x) }) }
  | deviceDone (g : Nat) (f : Flip) : IsMemoryEvent (.biasFlipDevice g)
      { when := fun s => flipOf s g false = some f ∧ hostCxl s = true ∧ Sparse.get false s.host.bias g = true ∧ f.sent = true ∧ f.replies = 2 ^ 64 - 1
        next := fun s => endFlip s g false }
  | reply (g l : Nat) (f : Flip) (d : Option Nat) : IsMemoryEvent (.birspiReceived g l d)
      { when := fun s => flipOf s g false = some f ∧ f.sent = true ∧ l < 64 ∧ f.replies.testBit l = false
        next := fun s =>
          (dropHostCopy (match writtenBack s (granuleLine g l / 64) d with
            | some x => hostPut s (granuleLine g l) x (2 ^ 64 - 1)
            | none => s) (granuleLine g l / 64)).modHost (fun h => { h with
              flips := h.flips.map (fun x => if x = f then { f with replies := setBits f.replies l 1 1 } else x) }) }

/-! ### The matrix engine, near memory and barges as units -/

/-- Head of an engine's queue. -/
def headOp (s : State) (c : Nat) (q : MxOp) : Prop := (s.engine c).queue.head? = some q

/-- A command at the head of a slot's queue that can be performed. -/
def atHead (s : State) (n kind c : Nat) : Prop := headCmd s n kind = some c

/-- A row of a table, with what has been read of it: added to its bag, and the command is done. -/
def accumulate (n c : Nat) (s : State) (r : Except Nat (List XVal)) : State :=
  s.modSlot n (fun x => { x with
    cmds := x.cmds.drop 1
    bag := Sparse.set {} x.bag (c / 2 ^ 16 % 2 ^ 10) ((Sparse.get {} x.bag (c / 2 ^ 16 % 2 ^ 10)).fold (c % 2 ^ 16) r) })

/-- Address of the row that a command names. -/
def rowAddr (s : State) (n c : Nat) : Nat := (s.slot n).base + 32 * (s.slot n).rowunits * (c / 2 ^ 26 % 2 ^ 28)

/-- A read of a stack for a slot's team. -/
def slotRead (s : State) (n c : Nat) : Acc (List Byte) :=
  let l := launchOfTeam (teamOfSlot n)
  stackRead (s.launch l).asid l (s.slot n).stack 3 s (rowAddr s n c) (32 * (s.slot n).rowunits)

/-- A bag's sums as its row of the scratchpad, zeros where nothing was added. -/
def bagSums (x : Slot) (b : Nat) : List Byte :=
  let y := Sparse.get {} x.bag b
  (rangeFrom 0 (rowElems x.rowunits x.fmt)).flatMap (fun k => toBytes (if y.isOpen then (Sparse.get 0#32 y.acc k).toNat else 0) 4)

/-- What a pre-emption parks of a queue: not what the team's handlers have put into it. -/
def ownQueue (s : State) (c : Nat) : List MxOp := (s.engine c).queue.filter (fun q => !q.handler)

/-- The queue that a pre-emption may park: its engine's team, its head at a place where it stops, and something in it. -/
def parks (s : State) (c t : Nat) : Prop :=
  (s.engine c).holder = some t ∧ preempting s t = true ∧ noHeldDest s t = true ∧ headParks (s.engine c) = true ∧ ownQueue s c ≠ []

/-- A pre-emption that finds none of its team's operations queued, and no handler begun. -/
def parksNone (s : State) (c t : Nat) : Prop :=
  (s.engine c).holder = some t ∧ preempting s t = true ∧ ownQueue s c = [] ∧ ∀ k ∈ liveGroupsOf s t, (s.group k).mode ≠ .handler

/-- The engine's predictions for the team are gone. -/
def unpredicted (t : Nat) (s : State) : State := s.modScr (fun m => { m with zero := m.zero.filter (fun z => z.team != t) })

/-- Entries as they are parked. -/
def parkedQueue (s : State) (c : Nat) : List MxOp :=
  (ownQueue s c).map (fun q => { q with op := 0, opened := false, met := false, recA := 0, recB := 0, bad := 0, parks := none })

/-- The queue stands in its images, with the scale sets of its entries kept for the team; the team's predictions are gone (R302, R306). -/
def queueParked (c t : Nat) (s : State) : State :=
  let s1 := (ownQueue s c).foldl (fun s q => if q.op ≠ 0 then forgetOp s q.op else s) s
  let s2 := s1.modEngine c (fun e => { e with
    queue := e.queue.filter (fun q => q.handler), parked := parkedQueue s c, images := imagesFrom 0 (parkedQueue s c)
    nimages := (parkedQueue s c).length, progress := 0 })
  (unpredicted t s2).modTeam t (fun x => { x with
    mxOwners := (parkedQueue s c).map (fun q => idxOf q.grp + 32 * q.lane), mxScales := (parkedQueue s c).map (fun q => q.scales) })

/-- A head that no pre-emption holds back (R306), its cycle of issue over: in that one an operation of a lower `group.idx` may still enter ahead
of it (R300). -/
def mayStart (s : State) (c : Nat) (q : MxOp) : Prop :=
  q.opened = false ∧ (preempting s q.team = false ∨ q.handler = true) ∧ (q.op = 0 ∨ (s.op q.op).birth ≠ s.cycle c)

/-- A head that has waited for its preconditions and the group's earlier scratchpad accesses (R301). -/
def awaitsNothing (s : State) (q : MxOp) : Prop := (∀ p ∈ q.waits, p.2 = 0) ∧ observesEarlier s q = true

/-- A head that has done its work. -/
def workDone (s : State) (c : Nat) (q : MxOp) : Prop := headOp s c q ∧ q.opened = true ∧ q.started = true ∧ q.computed = true

/-- The run of a barge has faulted, for which no halt was asked (R284). -/
def runFaulted (b : Nat) (f : BargeFault) (s : State) : State :=
  (retireRest (leaveSemBarge s b) b (some { cause := Cause.bargeFault, valid := false })).modBarge b (fun x => { x with
    mode := .faulted, cause := f.cause, fault := f, first := f.ndone, pending := none, ops := [], left := 0, flight := [], rel := none
    nbWait := none, stopping := none })

/-- The first tile of an identifier all of whose teams are there (R296). -/
def tileThere (s : State) (c t : Nat) (ts : List Nat) : Prop := (tilesOf s c t).find? (tileReady s) = some ts

/-- The announcements of a tile: every team's, and all alike. -/
def tileAgrees (s : State) (ts : List Nat) : Prop :=
  (∀ x ∈ ts, ∃ q, announcedBy s x = some q) ∧
    ∀ x ∈ ts, ∀ y ∈ ts, ∀ q r, announcedBy s x = some q → announcedBy s y = some r → q.terms = r.terms

/-- The launch of an operation. -/
abbrev opLaunch (s : State) (id : Nat) : Launch := s.launch (launchOfGrp (s.op id).grp)

/-- Record of an `nmv` in flight, in its team's scratchpad (R353). -/
def nmvRecord (s : State) (id : Nat) : NmvRec :=
  NmvRec.ofWords (recordWord s (teamOf (s.op id).grp) (s.op id).x) (nmvFmt (s.op id).form.ty.toNat).bytes

/-- The engine, near memory, and barges. -/
inductive IsUnitEvent : Instr → StepRule → Prop where
  | window (c : Nat) : IsUnitEvent (.sluiceWindow c) { when := ever, next := fun s => newWindow s c }
  | start (c : Nat) (q : MxOp) : IsUnitEvent (.matrixOperationStart c)
      { when := fun s => headOp s c q ∧ mayStart s c q ∧ (q.started = true ∨ (awaitsNothing s q ∧
          poisonBy q.pre (s.group q.grp) q.handler q.mask = none))
        next := fun s => openHead s c q }
  | startPoisoned (c e : Nat) (q : MxOp) : IsUnitEvent (.matrixOperationStart c)
      { when := fun s => headOp s c q ∧ mayStart s c q ∧ q.started = false ∧ awaitsNothing s q ∧
          poisonBy q.pre (s.group q.grp) q.handler q.mask = some e
        next := fun s => poisonHead s c e }
  | startHeld (c : Nat) (q : MxOp) : IsUnitEvent (.matrixOperationStart c)
      { when := fun s => headOp s c q ∧ preempting s q.team = true ∧ q.handler = false, next := fun s => s }
  | retire (c n : Nat) (q : MxOp) (t : State) (f : Option (Nat × Failure)) : IsUnitEvent (.matrixOperationRetire c)
      { when := fun s => workDone s c q ∧ q.sent = none ∧ headEffect s c q = some (t, n, f) ∧ storesHome t (2048 + c) q.op = true
        next := fun _ => retireHead t c (sentEnd (t.op q.op) n f).1 (sentEnd (t.op q.op) n f).2 }
  | stores (c n : Nat) (q : MxOp) (t : State) (f : Option (Nat × Failure)) : IsUnitEvent (.matrixOperationRetire c)
      { when := fun s => workDone s c q ∧ q.sent = none ∧ headEffect s c q = some (t, n, f) ∧ storesHome t (2048 + c) q.op = false
        next := fun _ => t.modEngine c (fun e => e.modHead (fun q => { q with sent := some (n, f) })) }
  | stored (c n : Nat) (q : MxOp) (f : Option (Nat × Failure)) : IsUnitEvent (.matrixOperationRetire c)
      { when := fun s => workDone s c q ∧ q.sent = some (n, f) ∧ storesHome s (2048 + c) q.op = true
        next := fun s => retireHead s c (sentEnd (s.op q.op) n f).1 (sentEnd (s.op q.op) n f).2 }
  | mustAgree (c t : Nat) (ts : List Nat) : IsUnitEvent (.mmacRendezvous c t)
      { when := fun s => tileThere s c t ts ∧ tileAgrees s ts ∧ (∀ x ∈ ts, ∀ q, announcedBy s x = some q → q.bad = 0)
        next := fun s => ts.foldl (fun s x => s.modEngine (s.team x).core (fun e => e.modHead (fun q => { q with met := true }))) s }
  | disagree (c t x : Nat) (ts : List Nat) (q : MxOp) : IsUnitEvent (.mmacRendezvous c t)
      { when := fun s => tileThere s c t ts ∧ ts.head? = some x ∧ announcedBy s x = some q ∧
          (∃ y ∈ ts, ∃ r, announcedBy s y = some r ∧ r.terms ≠ q.terms)
        next := fun s => poisonTile s ts Cause.illegalOperand }
  | memberGone (c t y : Nat) (ts : List Nat) : IsUnitEvent (.mmacRendezvous c t)
      { when := fun s => tileThere s c t ts ∧ y ∈ ts ∧ announcedBy s y = none, next := fun s => poisonTile s ts Cause.illegalOperand }
  | badRecord (c t : Nat) (ts : List Nat) (q : MxOp) : IsUnitEvent (.mmacRendezvous c t)
      { when := fun s => tileThere s c t ts ∧ tileAgrees s ts ∧ (ts.filterMap (announcedBy s)).find? (fun q => q.bad != 0) = some q
        next := fun s => poisonTile s ts q.bad }
  | multicast (c t : Nat) (ts : List Nat) : IsUnitEvent (.mmacMulticastLanded c t)
      { when := fun s => (tilesOf s c t).find? (fun ts => ts.all (inTile s)) = some ts
        next := fun s =>
          let s1 := (ts.flatMap (multicasts s c)).foldl (fun s w => w.2.foldl (fun s p => s.scrWrite w.1 p.1 p.2) s) s
          ts.foldl (fun s x => s.modEngine (s.team x).core (fun e =>
            e.modHead (fun q => { q.begun e.scales with mc := true, met := false }))) s1 }
  | zeroed (c : Nat) : IsUnitEvent (.tileStoreZeroed c)
      { when := fun s => (s.engine c).zeroing = true
        next := fun s => s.modEngine c (fun e => { e with zeroing := false, tile := [], scales := none }) }
  | park (c t : Nat) : IsUnitEvent (.matrixQueuePark c)
      { when := fun s => parks (decidePark s c) c t, next := fun s => queueParked c t (decidePark s c) }
  | parkNone (c t : Nat) : IsUnitEvent (.matrixQueuePark c)
      { when := fun s => parksNone (decidePark s c) c t, next := fun s => unpredicted t (decidePark s c) }
  | fault (b : Nat) (f : BargeFault) : IsUnitEvent (.bargeFault b)
      { when := fun s => ((landCopies s b).barge b).flight = [] ∧ ((landCopies s b).barge b).pending = some f ∧
          ((landCopies s b).barge b).halt = false
        next := fun s => runFaulted b { f with ndone := ((landCopies s b).barge b).first } (landCopies s b) }
  | copyFault (b : Nat) (c : Flight) (cs : List Flight) (f : BargeFault) : IsUnitEvent (.bargeFault b)
      { when := fun s => ((landCopies s b).barge b).flight = c :: cs ∧ c.fault = some f ∧
          storesHome (landCopies s b) (bargeAgent b) c.seq = true ∧ ((landCopies s b).barge b).halt = false
        next := fun s => runFaulted b f ((landCopies s b).modBarge b (fun x => { x with
          pc := c.pc, a := c.a, loops := c.loops, word := c.word
          since := (((landCopies s b).barge b).since + (f.ndone - c.first) * c.bytes) % 2 ^ 32 })) }
  | bargePark (b : Nat) (t : State) : IsUnitEvent (.bargePark b)
      { when := fun s => settleBarge s b = t ∧ preempting t (teamOfBarge b) = true ∧ (t.barge b).parked = false ∧ (t.barge b).mode ≠ .idle ∧
          ((t.barge b).busy = true → handlerRun t b = false) ∧ (t.barge b).pending = none ∧ (t.barge b).flight = [] ∧
          noHeldDest t (teamOfBarge b) = true
        next := fun _ => ((t.barge b).ops.foldl forgetOp (leaveSemBarge t b)).modBarge b (fun x => { x with
          parked := true, ops := [], rel := none, nbWait := none }) }
  | acc (n c : Nat) (bs : List Byte) (t : State) : IsUnitEvent (.accPerform n)
      { when := fun s => atHead s n 1 c ∧ slotRead s n c = .ok bs t
        next := fun s => accumulate n c t (.ok (elemsOf (tableFmt (s.slot n).fmt) (rowElems (s.slot n).rowunits (s.slot n).fmt) bs)) }
  | accFails (n c e a : Nat) : IsUnitEvent (.accPerform n)
      { when := fun s => atHead s n 1 c ∧ slotRead s n c = .fail e a, next := fun s => accumulate n c s (.error e) }
  | close (n c : Nat) : IsUnitEvent (.closePerform n)
      { when := fun s => atHead s n 2 c ∧ (s.slot n).done.length < 64
        next := fun s =>
          let x := s.slot n
          let b := c / 2 ^ 16 % 2 ^ 10
          let s1 := if (Sparse.get {} x.bag b).poisoned then s
            else s.scrWrite (teamOfSlot n) (x.bagbase + 4 * rowElems x.rowunits x.fmt * b) (bagSums x b)
          s1.modSlot n (fun y => { y with
            cmds := y.cmds.drop 1, done := y.done ++ [completionOf (Sparse.get {} x.bag b) b], bag := Sparse.set {} y.bag b {} }) }
  | flushed (id : Nat) : IsUnitEvent (.qflushRetire id)
      { when := fun s => flying s id .qflush ∧ working s id ∧
          ∀ c ∈ (s.slot (16 * teamOf (s.op id).grp + (s.op id).x)).cmds, (s.op id).z.head?.getD 0 < c.2
        next := fun s => finishOp s id 0 none }
  | nmv (id : Nat) (ys : List Nat) (stack : Nat) (t u : State) : IsUnitEvent (.nmvRun id)
      { when := fun s => flying s id .nmv ∧ working s id ∧
          (∀ p ∈ s.ops, p.1 < id → p.2.grp = (s.op id).grp → p.2.isLevel = true → p.2.left = []) ∧
          (nmvRecord s id).bad = false ∧
          (nmvRecord s id).xoff + 4 * (nmvRecord s id).cols ≤ (opLaunch s id).scratch * 256 ∧
          (nmvRecord s id).yoff + 4 * (nmvRecord s id).rows ≤ (opLaunch s id).scratch * 256 ∧
          tableStack s (s.op id).core (launchOfGrp (s.op id).grp) (nmvRecord s id).base = .ok (stack, t) ∧
          nmvRows (opLaunch s id).asid (launchOfGrp (s.op id).grp) stack (nmvRecord s id) (nmvFmt (s.op id).form.ty.toNat)
            (elemsOf .f32 (nmvRecord s id).cols (s.scrRead (teamOf (s.op id).grp) (nmvRecord s id).xoff (4 * (nmvRecord s id).cols)))
            (nmvRecord s id).rows 0 t = .ok ys u
        next := fun s => finishOp (u.scrWrite (teamOf (s.op id).grp) (nmvRecord s id).yoff (ys.flatMap (fun y => toBytes y 4))) id
          (4 * (nmvRecord s id).rows) none }
  | nmvBad (id : Nat) : IsUnitEvent (.nmvRun id)
      { when := fun s => flying s id .nmv ∧ working s id ∧
          (∀ p ∈ s.ops, p.1 < id → p.2.grp = (s.op id).grp → p.2.isLevel = true → p.2.left = []) ∧ (nmvRecord s id).bad = true
        next := fun s => finishOp s id 0 (some { cause := Cause.illegalOperand, valid := false }) }

/-! ### The fabric and collectives -/

/-- A read or an atomic at a peer, or a flush of the combining buffer, is in flight. -/
def remote (s : State) (id : Nat) (k : OpKind) : Prop := flying s id k ∧ working s id

/-- The core's combining buffer, with what has combined so far put on its way. -/
abbrev settledWc (s : State) (id : Nat) : State := wcSettle s (s.op id).core

/-- What the put left in the buffer has been sent, each entry after every earlier drain of its line (R363, R366). -/
def putSent (s : State) (id : Nat) : Prop :=
  ∀ e ∈ ((settledWc s id).core (s.op id).core).wc, id ∈ e.ops → e.draining = true ∧ e.via.isSome = true ∧
    drainAhead (((settledWc s id).core (s.op id).core).wc.filter (fun x => x = e || !decide (id ∈ x.ops))) e = false

/-- The answers to a put have come: its entries leave the buffer, and the stations' flits were good (R359). -/
def putAnswered (s : State) (id : Nat) : State :=
  (goodFlits (settledWc s id) ((((settledWc s id).core (s.op id).core).wc.filter (fun e => decide (id ∈ e.ops))).filterMap (fun e => e.via))).modCore
    (s.op id).core (fun c => { c with wc := c.wc.filter (fun e => !decide (id ∈ e.ops)) })

/-- Every part of a remote read or atomic has been answered: `t` holds what came. -/
def answered (s : State) (id : Nat) (far : Option Nat) (d : List FarData) (t : State) : Prop :=
  (remote s id .rld ∨ remote s id .ratom) ∧ (s.op id).x = 0 ∧ ownDrainAhead (settledWc s id) (s.op id) = false ∧
    allSent (settledWc s id) id = true ∧
    (s.op id).podParts.foldl (gatherPart id far d) (some (noteFar (goodFlits (settledWc s id)
      ((((settledWc s id).op id).sentBy.filter (fun p => p.2 ≤ stationCount)).map (fun p => p.2 - 1))) id far)) = some t

/-- The results of a remote access, with the numbers of what it wrote in the package. -/
def gathered (s : State) (id : Nat) (t : State) : State :=
  (t.modOp id Op.results).modOp id (fun o => { o with x := s.sched.nextId, y := t.sched.nextId })

/-- A request of a peer, by a station that works (R357, R358). -/
def asksHere (s : State) (r : PodRequest) : Prop :=
  s.fabric.podId ≠ none ∧ podFits r = true ∧ r.station < 24 ∧ (s.station r.station).works = true

/-- A plan of a `clgo` that is running. -/
def running (s : State) (id : Nat) (p : Plan) : Prop :=
  Sparse.has s.fabric.plans id = true ∧ Sparse.get {} s.fabric.plans id = p ∧ p.running = true

/-- A chunk from another member that the plan awaits, and that has not come. -/
def chunkDue (s : State) (id : Nat) (p : Plan) (m c : Nat) : Prop :=
  running s id p ∧ m ≠ p.pos ∧ m < p.g ∧ c ∈ p.awaits p.pos m ∧ Sparse.has p.arrived (arrivedKey c m) = false

/-- The chunk stands in the plan. -/
def chunkHeld (s : State) (id : Nat) (p : Plan) (m c x : Nat) : State :=
  s.modFabric (fun f => { f with
    plans := Sparse.set {} f.plans id { p with arrived := Sparse.insert p.arrived (arrivedKey c m) (x % 2 ^ 2048) } })

/-- A plan that may begin to be read: its block, its ranks and the bytes after it (R372). -/
def blockOf (s : State) (id : Nat) (k : OpKind) (w : List Nat) (rs : List (Nat × Nat)) (t : State) : Prop :=
  flying s id k ∧ working s id ∧ readBlock s (engineOf s (s.op id)) (s.op id).x = .ok (w, rs) t

/-- The plan that a `clgo` derives. -/
abbrev newPlan (s : State) (id : Nat) (w : List Nat) (rs : List (Nat × Nat)) (a kind : Nat) : Plan :=
  planOf w rs (launchOfGrp (s.op id).grp) a kind (ownId s)

/-- The plan enters the engine, those that have presented its tag are present, and its own tag goes to the other members. -/
def present (s : State) (id : Nat) (p : Plan) : State :=
  let s1 := s.modFabric (fun f => { f with
    plans := Sparse.set {} f.plans id { p with present := p.present ++ (presentedFor s p).2 }
    presented := (firstOnes p.tag p.members f.presented).foldl (fun l r => l.erase r) f.presented })
  (p.others s1).foldl (fun s m => sendTo s m 0 16 (fun f => .rendezvous f m p.tag p.kind p.g p.sbytes (ownId s))) s1

/-- The package takes what comes for a collective: it is in a pod, by a station that works (R357), and the hub's firmware runs (R412). -/
def here (s : State) : Prop := onPod s = true ∧ 2 < s.mgmt.boot.length

/-- A member presents a tag anew: its notices of the tag's earlier plans have come (log 27). -/
def noticesCome (tag m : Nat) (s : State) : State :=
  s.modFabric (fun f => { f with spent := f.spent.filter (fun x => x != (tag, m)) })

/-- What a member presents is kept for the plan it is for. -/
def kept (tag kind g n m : Nat) (s : State) : State :=
  s.modFabric (fun f => { f with presented := f.presented ++ [(tag, kind, g, n, m)] })

/-- A ring operation whose turn it is: its record is good, and the next member's core has room. -/
def ringReadyAt (s : State) (id : Nat) (r : Ring) : Prop :=
  flying s id .rring ∧ working s id ∧ (s.team (teamOf (s.op id).grp)).resident = true ∧
    (∀ p ∈ s.ops, p.1 < id → p.2.grp = (s.op id).grp → p.2.isLevel = true → p.2.left = []) ∧
    r = Ring.ofBytes (s.scrRead (teamOf (s.op id).grp) (s.op id).x 128) ∧
    r.cause (gridTeamOf (teamOf (s.op id).grp)) (s.launch (launchOfTeam (teamOf (s.op id).grp))).scratch = 0 ∧
    ¬ (r.pos + 1 < r.n ∧
      ringBlocked s (launchOfTeam (teamOf (s.op id).grp) * 2 ^ 28 + nth 0 r.members (r.pos + 1)) r.id = true)

/-- The fabric and collectives. -/
inductive IsFabricEvent : Instr → StepRule → Prop where
  | timeout (c p l : Nat) : IsFabricEvent (.wcEntryTimeout c p l)
      { when := ever
        next := fun s => drainNow s c (fun e => e.peer = p && e.line = l && decide (e.birth + 2048 ≤ s.cycle c)) }
  | put (id : Nat) (far : Option Nat) (t : State) : IsFabricEvent (.putRetire id far)
      { when := fun s => remote s id .put ∧ (s.op id).x = 0 ∧ putSent s id ∧
          addCounter (noteFar (putAnswered s id) id far) id far = some t ∧ (t.op id).x = 0
        next := fun _ => endRemote t id }
  | putCounts (id : Nat) (far : Option Nat) (t : State) : IsFabricEvent (.putRetire id far)
      { when := fun s => remote s id .put ∧ (s.op id).x = 0 ∧ putSent s id ∧
          addCounter (noteFar (putAnswered s id) id far) id far = some t ∧ (t.op id).x ≠ 0
        next := fun _ => t }
  | putCounted (id : Nat) (far : Option Nat) : IsFabricEvent (.putRetire id far)
      { when := fun s => remote s id .put ∧ (s.op id).x ≠ 0 ∧ podQuiet (settledWc s id) (s.op id).x = true
        next := fun s => endRemote (settledWc s id) id }
  | flush (id : Nat) (far : Option Nat) (d : List FarData) : IsFabricEvent (.remoteAccessRetire id far d)
      { when := fun s => remote s id .wcflush ∧ flushed (settledWc s id) (s.op id) = true
        next := fun s => finishOp (settledWc s id) id 0 none }
  | data (id : Nat) (far : Option Nat) (d : List FarData) (t : State) : IsFabricEvent (.remoteAccessRetire id far d)
      { when := fun s => answered s id far d t ∧ podOpQuiet (gathered s id t) ((gathered s id t).op id) = true
        next := fun s => endRemote (gathered s id t) id }
  | dataStores (id : Nat) (far : Option Nat) (d : List FarData) (t : State) : IsFabricEvent (.remoteAccessRetire id far d)
      { when := fun s => answered s id far d t ∧ podOpQuiet (gathered s id t) ((gathered s id t).op id) = false
        next := fun s => gathered s id t }
  | dataStored (id : Nat) (far : Option Nat) (d : List FarData) : IsFabricEvent (.remoteAccessRetire id far d)
      { when := fun s => (remote s id .rld ∨ remote s id .ratom) ∧ (s.op id).x ≠ 0 ∧ podOpQuiet (settledWc s id) (s.op id) = true
        next := fun s => endRemote (settledWc s id) id }
  | request (r : PodRequest) (x : Nat) (t : State) : IsFabricEvent (.incomingPodRequest r)
      { when := fun s => asksHere s r ∧ podChecked r = true ∧
          podPerform (goodFlit s r.station) r.kind r.ga r.off r.size r.data r.cmp = .ok x t
        next := fun s => payOwed (t.modFabric (fun f => { f with
          owed := f.owed ++ [((goodFlit s r.station).sched.nextId, answerTo r true x)] })) }
  | requestFails (r : PodRequest) (c a : Nat) : IsFabricEvent (.incomingPodRequest r)
      { when := fun s => asksHere s r ∧ podChecked r = true ∧
          podPerform (goodFlit s r.station) r.kind r.ga r.off r.size r.data r.cmp = .fail c a
        next := fun s => sendAnswer (goodFlit s r.station) (answerTo r false c) }
  | requestBroken (r : PodRequest) : IsFabricEvent (.incomingPodRequest r)
      { when := fun s => asksHere s r ∧ podChecked r = false
        next := fun s => sendAnswer (goodFlit s r.station) (answerTo r false Cause.checkMismatch) }
  | stop (n : Nat) : IsFabricEvent (.stationStop n) { when := ever, next := fun s => stopStation s n }
  | start (n : Nat) : IsFabricEvent (.stationStart n)
      { when := fun s => n < 24 ∧ (s.station n).down = true ∧ (s.station n).lanes ≠ 0 ∧ (s.station n).count < 2 ^ 63
        next := fun s => s.modStation n (fun x => { x with down := false, fails := 0 }) }
  | flit (n : Nat) : IsFabricEvent (.flitAuthFailure n)
      { when := fun s => n < 24 ∧ (s.station n).down = false ∧ (s.station n).fails < 15
        next := fun s => s.modStation n (fun x => { x with fails := x.fails + 1 }) }
  | flitLast (n : Nat) : IsFabricEvent (.flitAuthFailure n)
      { when := fun s => n < 24 ∧ (s.station n).down = false ∧ 15 ≤ (s.station n).fails
        next := fun s => stopStation (s.modStation n (fun x => { x with fails := x.fails + 1 })) n }
  | nonces (n : Nat) : IsFabricEvent (.stationNonceExhausted n)
      { when := fun s => n < 24 ∧ 2 ^ 63 ≤ (s.station n).count, next := fun s => stopStation s n }
  | planGood (id a kind : Nat) (w : List Nat) (rs : List (Nat × Nat)) (t u : State) : IsFabricEvent (.clplanRun id)
      { when := fun s => blockOf s id .clplan w rs t ∧ planStatus w (ownId s) (rankIn rs) = 0 ∧ axisOf w = some (a, kind) ∧
          t.store (engineOf s (s.op id)) ((s.op id).x + 0xC0) ((planRecord w a kind).flatMap (fun x => toBytes x 8)) = .ok () u
        next := fun _ => finishOp u id 0 none }
  | joins (id a kind : Nat) (w : List Nat) (rs : List (Nat × Nat)) (bs st : List Byte) (t u v y z : State) : IsFabricEvent (.clgoRendezvous id)
      { when := fun s => blockOf s id .clgo w rs t ∧ Sparse.has s.fabric.plans id = false ∧ olderClgo s id = false ∧
          s.fabric.plans.length < planRoom ∧ t.load (engineOf s (s.op id)) ((s.op id).x + 0xC0) 40 = .ok bs u ∧
          axisOf w = some (a, kind) ∧ planStatus w (ownId s) (rankIn rs) = 0 ∧ recordKept bs = (planRecord w a kind).take 5 ∧
          u.load (engineOf s (s.op id)) (meshStatus w) 8 = .ok st v ∧ ofBytes st / 2 ^ 62 % 4 ≠ 1 ∧
          keptFor v (newPlan s id w rs a kind) = none ∧ putStatus v (newPlan s id w rs a kind) 1 0 0 false = .ok () y ∧
          (presentedFor y (newPlan s id w rs a kind)).1 = true ∧
          ((newPlan s id w rs a kind).others (present y id (newPlan s id w rs a kind)) = [] ∨
            workingStations (present y id (newPlan s id w rs a kind)) ≠ []) ∧ tryStart (present y id (newPlan s id w rs a kind)) id = .ok () z
        next := fun _ => z }
  | chunk (id m c : Nat) (x : FarData) (p : Plan) (t : State) : IsFabricEvent (.chunkArrival id m c x)
      { when := fun s => chunkDue s id p m c ∧ onPod s = true ∧ x.checks = checksOf 0 256 x.data ∧ workOn (chunkHeld s id p m c x.data) id = .ok () t
        next := fun _ => t }
  | chunkBroken (id m c : Nat) (x : FarData) (p : Plan) (t : State) : IsFabricEvent (.chunkArrival id m c x)
      { when := fun s => chunkDue s id p m c ∧ onPod s = true ∧ x.checks ≠ checksOf 0 256 x.data ∧
          abortPlan s id Cause.checkMismatch (ownId s) = some t
        next := fun _ => t }
  | done (id : Nat) (p : Plan) (t u : State) : IsFabricEvent (.clgoComplete id)
      { when := fun s => running s id p ∧ p.chunks ≤ p.final.length ∧ blurChunks p (p.unspecified s) s = .ok () u ∧
          putStatus u p 2 0 0 true = .ok () t
        next := fun s => finishOp (awaitNotices (unwatch (t.modFabric (fun f => { f with plans := Sparse.erase f.plans id })) p) p.tag
          (p.others s)) id p.tbytes none }
  | spentNotice (tag m c : Nat) : IsFabricEvent (.abortNoticeArrival tag m c)
      { when := fun s => here s ∧ (tag, m) ∈ s.fabric.spent
        next := fun s => s.modFabric (fun f => { f with spent := f.spent.erase (tag, m) }) }
  | keptNotice (tag m c : Nat) : IsFabricEvent (.abortNoticeArrival tag m c)
      { when := fun s => here s ∧ (tag, m) ∉ s.fabric.spent ∧ planWith s tag m = none
        next := fun s => s.modFabric (fun f => { f with kept := f.kept ++ [(tag, m, c % 32)] }) }
  | notice (tag m c id : Nat) (p : Plan) (t : State) : IsFabricEvent (.abortNoticeArrival tag m c)
      { when := fun s => here s ∧ (tag, m) ∉ s.fabric.spent ∧ planWith s tag m = some (id, p) ∧ abortPlan s id (c % 32) m = some t
        next := fun _ => t }
  | nobody (tag m c : Nat) : IsFabricEvent (.abortNoticeArrival tag m c) { when := fun s => onPod s = false, next := fun s => s }
  | early (tag kind g n m : Nat) : IsFabricEvent (.memberRendezvous tag kind g n m)
      { when := fun s => here s ∧ planWith (noticesCome tag m s) tag m = none, next := fun s => kept tag kind g n m (noticesCome tag m s) }
  | next (tag kind g n m id : Nat) (p : Plan) : IsFabricEvent (.memberRendezvous tag kind g n m)
      { when := fun s => here s ∧ planWith (noticesCome tag m s) tag m = some (id, p) ∧ (p.running = true ∨ m ∈ p.present)
        next := fun s => kept tag kind g n m (noticesCome tag m s) }
  | member (tag kind g n m id : Nat) (p : Plan) (t : State) : IsFabricEvent (.memberRendezvous tag kind g n m)
      { when := fun s => here s ∧ planWith (noticesCome tag m s) tag m = some (id, p) ∧ p.running = false ∧ m ∉ p.present ∧
          kind = p.kind ∧ g = p.g ∧ n = p.sbytes ∧
          tryStart ((noticesCome tag m s).modFabric (fun f => { f with
            plans := Sparse.set {} f.plans id { p with present := p.present ++ [m] } })) id = .ok () t
        next := fun _ => t }
  | stranger (tag kind g n m id : Nat) (p : Plan) (t : State) : IsFabricEvent (.memberRendezvous tag kind g n m)
      { when := fun s => here s ∧ planWith (noticesCome tag m s) tag m = some (id, p) ∧ p.running = false ∧ m ∉ p.present ∧
          ¬ (kind = p.kind ∧ g = p.g ∧ n = p.sbytes) ∧
          abortPlan (noticesCome tag m s) id Cause.illegalOperand (ownId (noticesCome tag m s)) = some t
        next := fun _ => t }
  | abort (id c : Nat) (t : State) : IsFabricEvent (.planAbort id c)
      { when := fun s => Sparse.has s.fabric.plans id = true ∧ abortPlan s id (c % 32) (ownId s) = some t, next := fun _ => t }
  | ringFirst (id : Nat) (r : Ring) : IsFabricEvent (.rringRun id)
      { when := fun s => ringReadyAt s id r ∧ r.pos = 0, next := fun s => passRing s id r (teamOf (s.op id).grp) none }
  | ringNext (id : Nat) (r : Ring) (p : Packet) : IsFabricEvent (.rringRun id)
      { when := fun s => ringReadyAt s id r ∧ r.pos ≠ 0 ∧
          ringPacket s (s.team (teamOf (s.op id).grp)).core (teamOf (s.op id).grp) r = some p
        next := fun s => passRing s id r (teamOf (s.op id).grp) (some p) }
  | packet (n : Nat) (p : Packet) : IsFabricEvent (.rringPacketArrival n)
      { when := fun s => s.fabric.transit[n]? = some p ∧ (s.team p.team).resident = true ∧
          (ringIssued s p.team p.id = true ∨ ((s.team p.team).exited = false ∧ (earlyPackets s p.team).length < packetRoom))
        next := fun s => (s.modFabric (fun f => { f with transit := f.transit.eraseIdx n })).modCore (s.team p.team).core
          (fun c => { c with packets := c.packets ++ [p] }) }
  | packetFull (n : Nat) (p : Packet) : IsFabricEvent (.rringPacketArrival n)
      { when := fun s => s.fabric.transit[n]? = some p ∧ (s.team p.team).resident = true ∧ (s.team p.team).exited = false ∧
          ringIssued s p.team p.id = false ∧ packetRoom ≤ (earlyPackets s p.team).length
        next := fun s => s }
  | packetLate (n : Nat) (p : Packet) : IsFabricEvent (.rringPacketArrival n)
      { when := fun s => s.fabric.transit[n]? = some p ∧ (s.team p.team).resident = true ∧ (s.team p.team).exited = true ∧
          ringIssued s p.team p.id = false
        next := fun s => s.modFabric (fun f => { f with transit := f.transit.eraseIdx n }) }

/-! ### Degraded operation -/

/-- A unit is to be retired: its error count has passed the threshold of its kind, or an uncorrectable failure has struck it (R409). -/
def due (s : State) (kind unit : Nat) : Prop := s.mgmt.retires kind unit = true

/-- A replacement is asked for. -/
abbrev replaced (s : State) : State := askReplacement s

/-- Sectors of a slice that could not be read out. -/
def lostSectors (s : State) (d n : Nat) (bad : List Nat) : List Nat :=
  bad.filter (fun x => (s.mem.copy (x / 4) d).valid != 0 && sliceOf s d (x / 4) = n)

/-- Lines that a die holds. -/
def linesHeld (s : State) (d : Nat) : List Nat := (s.mem.copies.filter (fun p => p.1 % 16 = d)).map (fun p => p.1 / 16)

/-- A slice whose retirement begins: its sectors that cannot be read out are lost. -/
def sliceOut (d n : Nat) (bad : List Nat) (s : State) : State :=
  replaced (((lostSectors s d n bad).foldl (loseSector d) s).modSlice d (fun x => { x with phase := 1, slice := n, retired := x.retired ++ [n] }))

/-- Retirement, rerouting and repair. -/
inductive IsRepair : Instr → StepRule → Prop where
  | linkDown (d : Nat) : IsRepair (.hubLinkFailure d) { when := ever, next := fun s => failLink s d }
  | linkUp (d : Nat) : IsRepair (.hubLinkRestored d)
      { when := fun s => (s.die d).linkDown = true ∧ (s.die d).lanes ≠ 0 ∧ (s.die d).offline = false ∧ pathDrained s d = true
        next := fun s => s.modDie d (fun x => { x with linkDown := false, rerouted := false }) }
  | hubLanes (d w : Nat) : IsRepair (.laneRetirement 0 d w)
      { when := fun s => due s 4 d ∧ d < 16 ∧ w ≠ 0 ∧ w < (s.die d).lanes
        next := fun s => (unitRetired s 4 d).modDie d (fun x => { x with lanes := w }) }
  | hubLanesGone (d : Nat) : IsRepair (.laneRetirement 0 d 0)
      { when := fun s => due s 4 d ∧ d < 16 ∧ (s.die d).lanes ≠ 0
        next := fun s => failLink ((unitRetired s 4 d).modDie d (fun x => { x with lanes := 0 })) d }
  | stationLanes (n w : Nat) : IsRepair (.laneRetirement 1 n w)
      { when := fun s => due s 5 n ∧ n < 24 ∧ (w = 1 ∨ w = 2) ∧ w < (s.station n).lanes
        next := fun s => (unitRetired s 5 n).modStation n (fun x => { x with lanes := w }) }
  | stationLanesGone (n : Nat) : IsRepair (.laneRetirement 1 n 0)
      { when := fun s => due s 5 n ∧ n < 24 ∧ (s.station n).lanes ≠ 0
        next := fun s => stopStation ((unitRetired s 5 n).modStation n (fun x => { x with lanes := 0 })) n }
  | portLanes (p w : Nat) : IsRepair (.laneRetirement 2 p w)
      { when := fun s => due s 6 p ∧ p < 3 ∧ (w = 8 ∨ w = 4) ∧ w < portLanes s p
        next := fun s => (unitRetired s 6 p).modHost (fun h => { h with width := Sparse.set 0 h.width p w }) }
  | lanesStay (k n w : Nat) : IsRepair (.laneRetirement k n w) { when := fun s => ¬ due s (4 + k) n, next := fun s => s }
  | coreMarked (c : Nat) : IsRepair (.coreRetire c)
      { when := fun s => c < 2048 ∧ s.mgmt.past 0 c = true ∧ (s.core c).retired = false, next := fun s => s.modCore c (fun x => { x with marked := true }) }
  | coreStays (c : Nat) : IsRepair (.coreRetire c) { when := fun s => s.mgmt.past 0 c = false, next := fun s => s }
  | coreGone (c : Nat) : IsRepair (.coreRetirementComplete c)
      { when := fun s => (s.core c).marked = true ∧ (s.core c).retired = false ∧ teamsOn s c = [] ∧ reducesOn s c = 0
        next := fun s => replaced (s.modCore c (fun x => { x with retired := true })) }
  | coreLost (c : Nat) : IsRepair (.coreUncorrectable c)
      { when := fun s => c < 2048 ∧ (s.core c).retired = false
        next := fun s => replaced ((loseCore s c true).modCore c (fun x => { x with retired := true, marked := true })) }
  | sliceFlush (d n : Nat) (bad : List Nat) : IsRepair (.sliceFlush d n bad)
      { when := fun s => due s 1 (512 * d + n) ∧ d < 16 ∧ n < 512 ∧ (s.slice d).phase = 0 ∧ n ∉ (s.slice d).retired
        next := fun s => (linesHeld (sliceOut d n bad s) d).foldl (fun s l => dropFlushed s l d) (sliceOut d n bad s) }
  | sliceSwitch (d : Nat) : IsRepair (.sliceMapSwitch d)
      { when := fun s => (s.slice d).phase = 1 ∧ sliceBusy s d (s.slice d).slice = false
        next := fun s => (s.modMem (fun m => { m with
          copies := m.copies.filter (fun p => !(p.1 % 16 = d && sliceOf s d (p.1 / 16) = (s.slice d).slice)) })).modSlice d (fun x =>
            { x with phase := 2, newMap := mapWithout x x.slice, adopted := [], quiet := 0 }) }
  | adopt (c : Nat) : IsRepair (.coreMapAdopt c)
      { when := fun s => (s.slice (dieOf c)).phase = 2 ∧ c ∉ (s.slice (dieOf c)).adopted ∧ asksSlice s c (s.slice (dieOf c)).slice = false
        next := fun s => s.modSlice (dieOf c) (fun x => { x with adopted := c :: x.adopted }) }
  | sliceEnd (d : Nat) : IsRepair (.sliceEnd d)
      { when := fun s => (s.slice d).phase = 2 ∧ (∀ c, 128 * d ≤ c → c < 128 * d + 128 → c ∈ (s.slice d).adopted) ∧
          quietRun ≤ (s.slice d).quiet
        next := fun s => s.modSlice d (fun x => { x with map := x.newMap, newMap := [], phase := 0, adopted := [], quiet := 0 }) }
  | row (k r : Nat) : IsRepair (.hbmRowRetire k r)
      { when := fun s => due s 2 (12 * r + k) ∧ k < 12 ∧ 2 ≤ sparesLeft s k, next := fun s => useSpares (unitRetired s 2 (12 * r + k)) k 1 }
  | rowLast (k r : Nat) : IsRepair (.hbmRowRetire k r)
      { when := fun s => due s 2 (12 * r + k) ∧ k < 12 ∧ sparesLeft s k = 1
        next := fun s => replaced (useSpares (unitRetired s 2 (12 * r + k)) k 1) }
  | rowFails (k r : Nat) : IsRepair (.hbmRowRetire k r)
      { when := fun s => due s 2 (12 * r + k) ∧ k < 12 ∧ sparesLeft s k = 0
        next := fun s => (failRow (unitRetired s 2 (12 * r + k)) k r).modMgmt (fun m => { m with rows := m.rows + 1 }) }
  | bank (k b : Nat) : IsRepair (.hbmBankRetire k b)
      { when := fun s => due s 3 (12 * b + k) ∧ s.mgmt.hit 3 (12 * b + k) = false ∧ k < 12 ∧ (Config.rowsOfBank k b).length ≤ sparesLeft s k
        next := fun s => replaced ((useSpares (unitRetired s 3 (12 * b + k)) k (Config.rowsOfBank k b).length).modMgmt (fun m =>
          { m with banks := m.banks ||| 2 ^ k })) }
  | bankFails (k b : Nat) : IsRepair (.hbmBankRetire k b)
      { when := fun s => due s 3 (12 * b + k) ∧ k < 12 ∧
          (s.mgmt.hit 3 (12 * b + k) = true ∨ sparesLeft s k < (Config.rowsOfBank k b).length)
        next := fun s => replaced (((Config.rowsOfBank k b).foldl (fun s r => failRow s k r) (unitRetired s 3 (12 * b + k))).modMgmt (fun m =>
          { m with banks := m.banks ||| 2 ^ k })) }

end Sys2Proof.Rules
end

