-- ==== Sys2Proof/Certificates/Slice0/Frames.lean ====
section
/-! DEFINITION. What instructions leave alone: the shapes of instructions that compute, that issue an operation, and that store to a
scratchpad; what the gate answers them; and what a write of a result and the end of an instruction change. -/

namespace Sys2Proof.Rules

open Sys2Proof Sys2Proof.Machine

/-! ### Instructions that compute -/

/-- An instruction that writes a result of `n` registers and passes on: its form and its operands. -/
inductive Plain : Instr → ExtForm → Use → Nat → Prop where
  | int (i : Instr) (r : IntRule) (h : IsInt i r) : Plain i r.f r.use (words r.f 1)
  | bit (i : Instr) (r : BitRule) (h : IsBit i r) : Plain i r.f r.u r.regs
  | move (i : Instr) (r : MoveRule) (h : IsMove i r) : Plain i r.f r.u r.regs
  | permute (i : Instr) (r : MoveRule) (h : IsPermute i r) : Plain i r.f r.u r.regs
  | float (i : Instr) (r : FloatRule) (h : IsFloat i r) : Plain i r.f r.use (wordsOfTy r.ty)
  | test (i : Instr) (r : TestRule) (h : IsTest i r) : Plain i r.f r.u 1
  | vote (i : Instr) (r : TestRule) (h : IsVote i r) : Plain i r.f r.u 1
  | ballot (i : Instr) (r : ValueRule) (h : IsBallot i r) : Plain i r.f r.u r.regs
  | value (i : Instr) (r : ValueRule) (h : IsValue i r) : Plain i r.f r.u r.regs

/-- A register by its name: an element of a vector, a scalar, or a bit of a predicate. -/
def regBit (g : Group) (n k : Nat) : Nat :=
  if n < 1536 then g.readV n k else if n < 1600 then g.readS (n - 1536) else ((g.pred (n - 1664)).getLsbD k).toNat

/-- Names that hold a value of the group: `v`, `s`, `p0` to `p6`. -/
def isReg (n : Nat) : Prop := n < 1600 ∨ (1664 ≤ n ∧ n < 1671)

/-- The names have not been written by another path of the group in this cycle (R93). -/
def unwritten (s : State) (names : List Nat) : Prop := ∀ e ∈ s.me.prot, e.1 = s.me.issuedNow ∨ e.2.1 ∉ names

/-- Only one group is different, and of it only the registers named, in the lanes named, their poison marks, operand latches
that are dropped, and what passing on to the next instruction changes. -/
structure Wrote (s t : State) (names : List Nat) (act : Lanes) : Prop where
  group : OnlyGroup (grp s) s t
  memory : ∀ a, t.mem.cell a = s.mem.cell a
  registers : ∀ n k, isReg n → n ∉ names → k < 32 → regBit (t.group (grp s)) n k = regBit s.me n k
  lanes : ∀ n k, isReg n → ¬ (1536 ≤ n ∧ n < 1600) → k < 32 → act.getLsbD k = false → regBit (t.group (grp s)) n k = regBit s.me n k
  marks : ∀ n, n ∉ names → Sparse.get 0 (t.group (grp s)).marks n = Sparse.get 0 s.me.marks n
  latches : ∀ l ∈ (t.group (grp s)).latches, l ∈ s.me.latches
  rest : ∃ (v sr p : Sparse Word) (marks pcs hdrs : Sparse Nat) (latches : List Latch) (need : Lanes) (prot : List (Nat × Nat × Lanes))
      (issued issuedNow idle skid stepLeft : Nat) (skidLeft : Option Nat) (skipBreak : Bool),
    t.group (grp s) = { s.me with
      v := v, s := sr, p := p, marks := marks, latches := latches, pcs := pcs, hdrs := hdrs, need := need, prot := prot, issued := issued
      issuedNow := issuedNow, idle := idle, skid := skid, stepLeft := stepLeft, skidLeft := skidLeft, skipBreak := skipBreak }

/-! ### Instructions that issue an operation -/

/-- A store performed at issue: core scratchpad or lane-private slice. -/
inductive StoresNow : Instr → Prop where
  | sts (g : BaseForm) : StoresNow (.sts g)
  | stsX (f : ExtForm) : StoresNow (.stsX f)
  | stl (g : BaseForm) : StoresNow (.stl g)
  | stlX (f : ExtForm) : StoresNow (.stlX f)

/-- An instruction whose effect is an operation that it issues. -/
inductive Issues : Instr → Act → Prop where
  | flagged (i : Instr) (r : Act) (h : IsFlagged i r) : Issues i r
  | scratch (i : Instr) (r : Act) (h : IsScratch i r) (n : ¬ StoresNow i) : Issues i r
  | global (i : Instr) (r : Act) (h : IsGlobal i r) : Issues i r

/-- No register and no byte of any memory is different; of the group, only flags, tokens, stalls, and what passing on changes. -/
structure Issued (s t : State) : Prop where
  package : ∃ (gs : Sparse Group) (ops : Sparse Op) (id : Nat),
    t = { s with groups := gs, ops := ops, sched := { s.sched with nextId := id } }
  others : ∀ k, k ≠ grp s → t.group k = s.group k
  older : ∀ n, n ≠ s.sched.nextId → t.op n = s.op n
  rest : ∃ (flags pcs hdrs : Sparse Nat) (toks htoks : Sparse Token) (stalls : List (Nat × Lanes)) (late : List (Nat × Nat × Nat)) (need : Lanes)
      (issued issuedNow idle skid stepLeft : Nat) (skidLeft : Option Nat) (skipBreak : Bool),
    t.group (grp s) = { s.me with
      flags := flags, toks := toks, htoks := htoks, stalls := stalls, late := late, pcs := pcs, hdrs := hdrs, need := need, issued := issued
      issuedNow := issuedNow, idle := idle, skid := skid, stepLeft := stepLeft, skidLeft := skidLeft, skipBreak := skipBreak }

/-! ### Stores to a scratchpad -/

/-- Nothing the group has issued to a scratchpad is still to be performed. -/
def scratchQuiet (s : State) : Prop := ∀ p ∈ s.ops, p.1 < s.sched.nextId ∧ (p.2.grp = grp s → (s.op p.1).left = [])

/-- Byte `j` of what a store's data registers hold in a lane. -/
def storedByte (f : ExtForm) (s : State) (k j : Nat) : Byte := BitVec.ofNat 8 (s.me.read 5 (f.d.toNat + j / 4) k / 2 ^ (8 * (j % 4)))

/-- Byte of the core scratchpad of a team. -/
def coreByte (s : State) (t a : Nat) : Byte := Sparse.get 0#8 s.scr.core (t * 2 ^ 20 + a)

/-- Byte of a lane-private area of a group (R192): slices lie interleaved by words. -/
def laneByte (s : State) (g k a : Nat) : Byte := Sparse.get 0#8 s.scr.lane (g * 2 ^ 20 + (128 * (a / 4) + 4 * k + a % 4))

/-- What a store to a scratchpad leaves alone beside the bytes of its own level. -/
structure StoredFrame (s t : State) : Prop where
  memory : ∀ a, t.mem.cell a = s.mem.cell a
  registers : ∀ g n k, isReg n → k < 32 → regBit (t.group g) n k = regBit (s.group g) n k
  others : ∀ k, k ≠ grp s → t.group k = s.group k
  older : ∀ n, n ≠ s.sched.nextId → t.op n = s.op n
  die : t.scr.die = s.scr.die
  rest : t.work = s.work ∧ t.teams = s.teams ∧ t.barges = s.barges ∧ t.cores = s.cores ∧ t.host = s.host ∧ t.xlat = s.xlat

/-- After `sts`: each active lane's bytes are in the team's scratchpad where no other active lane stores to them too, and every byte that
no active lane stores to is as before. -/
structure CoreStored (f : ExtForm) (act : Lanes) (s t : State) : Prop where
  written : ∀ k j, k < 32 → act.getLsbD k = true → j < dataBytes f →
    (∀ m, m < 32 → act.getLsbD m = true → m ≠ k → addrOf f s k + j < addrOf f s m ∨ addrOf f s m + dataBytes f ≤ addrOf f s k + j) →
    coreByte t (team s) (addrOf f s k + j) = storedByte f s k j
  kept : ∀ x, (∀ k j, k < 32 → act.getLsbD k = true → j < dataBytes f → x ≠ team s * 2 ^ 20 + (addrOf f s k + j)) →
    Sparse.get 0#8 t.scr.core x = Sparse.get 0#8 s.scr.core x
  lane : t.scr.lane = s.scr.lane
  frame : StoredFrame s t

/-- After `stl`: each active lane's bytes are in its own slice, and every other byte is as before. -/
structure LaneStored (f : ExtForm) (act : Lanes) (s t : State) : Prop where
  written : ∀ k j, k < 32 → act.getLsbD k = true → j < dataBytes f → laneByte t (grp s) k (addrOf f s k + j) = storedByte f s k j
  kept : ∀ x, (∀ k j, k < 32 → act.getLsbD k = true → j < dataBytes f →
      x ≠ grp s * 2 ^ 20 + (128 * ((addrOf f s k + j) / 4) + 4 * k + (addrOf f s k + j) % 4)) →
    Sparse.get 0#8 t.scr.lane x = Sparse.get 0#8 s.scr.lane x
  core : t.scr.core = s.scr.core
  frame : StoredFrame s t

/-! ### A path that issues (R138 to R143) -/

/-- The state with an instruction in hand. -/
def inHand (s : State) (g : Nat) (lanes : Lanes) (va npc hdr : Nat) : State :=
  s.modSched (fun c => { c with cur := { c.cur with grp := g, lanes := lanes, pc := va, npc := npc, hdr := hdr } })

/-- The state once a turn of a path is taken: the entry is no longer among those selected. -/
def taken (s : State) (g : Nat) (ts : List Turn) (ps : List (Nat × Lanes)) : State :=
  (s.modSched (fun c => { c with agenda := ts })).modGroup g (fun x => { x with picks := ps })

/-- The turn at hand is a path's: lanes of an entry that its group selected in this cycle, of a group that may issue; headers in a run are
consumed, and the instruction's words fetched; no clause header is missing. -/
structure Ready (s s1 s2 : State) (g pc va hdr w : Nat) (lanes : Lanes) (ts : List Turn) (ps : List (Nat × Lanes)) (ws : List Nat) :
    Prop where
  powered : s.mgmt.powered = true
  turn : s.sched.agenda = .path g pc lanes :: ts
  picked : (s.group g).picks = (pc, lanes) :: ps
  may : (s.group g).mayIssue = true
  some : lanes ≠ 0#32
  entry : Lanes.sub lanes ((s.group g).entryLanes pc) = true
  found : runHeaders g headerFuel (taken s g ts ps) pc ((s.group g).hdr (low lanes)) 0 = .ready va hdr w s1
  clause : va = pc → (s1.group g).need &&& lanes = 0#32
  words : fetchWords g (wordsOf (BitVec.ofNat 32 w) - 1) s1 (va + 4) = .ok (ws, s2)

/-! ### Traps (R97, R309 to R311) -/

/-- The group in hand has stopped where it stood: each present lane's counter names the instruction, each lane's cause is the one given,
the lowest cause is reported with its lowest lane, and every register is as it was. -/
structure Trapped (s t : State) (c : Nat → Nat) (cause lane : Nat) : Prop where
  mode : (t.group (grp s)).mode = .halted
  cause : (t.group (grp s)).cause.cause = cause
  lane : (t.group (grp s)).cause.lane = lane
  causes : ∀ k, k < 32 → Sparse.get 0 (t.group (grp s)).cause.causes k = c k
  present : (t.group (grp s)).cause.present = s.sched.cur.lanes
  origin : (t.group (grp s)).cause.self = true
  pcs : ∀ k, k < 32 → s.sched.cur.lanes.getLsbD k = true → (t.group (grp s)).pc k = s.sched.cur.pc
  others : ∀ k, k < 32 → s.sched.cur.lanes.getLsbD k = false → (t.group (grp s)).pc k = s.me.pc k
  registers : ∀ n k, isReg n → k < 32 → regBit (t.group (grp s)) n k = regBit s.me n k
  live : (t.group (grp s)).live = s.me.live
  memory : t.mem = s.mem ∧ t.scr = s.scr

/-- The first 0x4B0 bytes of a group's frame, as the device writes them. -/
def frameOf (s : State) (g held : Nat) : List Byte := frameHead s g ++ frameBody s g held

/-- The queue-read doubleword of a frame (R166, R314): the oldest read withdrawn, zero where there is none. -/
def QueueReadField (l : List QRead) (x : Nat) : Prop :=
  match l with
  | [] => x = 0
  | q :: _ => q.dest < 2 ^ 11 → q.queue < 2 ^ 6 →
    x.testBit 63 = true ∧ x / 2 ^ 52 % 2 ^ 11 = q.dest ∧ x / 2 ^ 46 % 2 ^ 6 = q.queue ∧ x.testBit 45 = q.wide ∧ x.testBit 44 = q.fb ∧
      x / 2 ^ 32 % 2 ^ 12 = 0 ∧ x % 2 ^ 32 = q.lanes.toNat

/-- An ordinary moment: the group runs, has raised nothing in this cycle, and no group of its team is in a handler. -/
structure Ordinary (s : State) : Prop where
  runs : s.me.mode = .running
  calm : s.me.raisedNow = false
  outside : teamInHandler s (team s) = false

end Sys2Proof.Rules
end

