-- ==== Sys2Proof/Certificates/Slice0/Obligations.lean ====
section
/-! DEFINITION. What the model is held to: statements from the numbered rules of the spec, for the provers. -/

open Sys2Proof Sys2Proof.Machine Sys2Proof.Rules

/-! ### Encoding -/

/-- R81 to R88, R95, R268, R270: decoding the words of a well-formed instruction gives it back, with every operand. -/
def Obligations.DecodeEncode : Prop :=
  ∀ i : Instr, i.wf = true → i.enc ≠ .step → decodeInstr (match i.enc with
    | .barge _ _ => true
    | _ => false) (encode i) = .ok i

/-- R81 to R89, R97: whatever a group's words decode to is well formed, and encodes to these words and no others. -/
def Obligations.EncodeDecode : Prop :=
  ∀ (w0 w1 w2 w3 w4 : BitVec 32) (i : Instr), decode w0 w1 w2 w3 w4 = .ok i →
    i.wf = true ∧ encode i = [w0, w1, w2, w3, w4].take (wordsOf w0)

/-- Words written in the spec's tables decode to the instructions they stand for. -/
def Obligations.SampleWords : Prop :=
  decode 0x40000748#32 0 0 0 0 = .ok (.nop { neg := false, guard := 7, d := 0, a := 0, b := 0 }) ∧
  decode 0x43105734#32 0 0 0 0 = .ok (.shfup { neg := false, guard := 7, d := 5, a := 4, b := 3 }) ∧
  decode 0x040C0770#32 0 0 0 0 = .ok (.sinc { neg := false, guard := 7, d := 0, a := 3, b := 4 }) ∧
  decode 0x00070071#32 0x003C0F81#32 0 0 0 = .ok (.sincX { zeroForm with a := 1921, b := 1921 }) ∧
  decode 0x0037013D#32 0x08000002#32 0 0 0 = .ok (.gscanX { zeroForm with d := 3, a := 2, mods := 32 })

/-! ### Steps -/

/-- R112, R138 to R143: a selected path whose turn it is and whose words decode to an instruction reads its sources and runs it, unless a
breakpoint, a fault of the path or a rule of issue stops it first; then the cycle is counted. Turns as data of the state are the model's choice
(log 2). -/
def Obligations.StepRunsDecoded : Prop :=
  ∀ (s s1 s2 : State) (grp pc va hdr w : Nat) (lanes : Lanes) (ts : List Turn) (ps : List (Nat × Lanes))
      (ws : List Nat) (i : Instr),
    Ready s s1 s2 grp pc va hdr w lanes ts ps ws →
    decode (BitVec.ofNat 32 w) (BitVec.ofNat 32 (nth 0 ws 0)) (BitVec.ofNat 32 (nth 0 ws 1)) (BitVec.ofNat 32 (nth 0 ws 2))
      (BitVec.ofNat 32 (nth 0 ws 3)) = .ok i →
    breakAt s2 grp va = false → Enc.barred i.enc (s2.group grp) va lanes = false →
    let npc := va + 4 * wordsOf (BitVec.ofNat 32 w)
    let done := Out.orElse (exec i (readSources (inHand s2 grp lanes va npc hdr) grp lanes i.enc (va != pc))) s2
    step s = .next (settleHalts (afterIssue s2 (undoLatches s2 done grp) grp va npc (Enc.alone i.enc)) (teamOf grp))

/-- R97, R170: words that are no instruction raise illegal instruction in every present lane, whatever the guard, and before any
breakpoint. Turns are the model's (log 2). -/
def Obligations.UndecodedTraps : Prop :=
  ∀ (s s1 s2 : State) (grp pc va hdr w : Nat) (lanes : Lanes) (ts : List Turn) (ps : List (Nat × Lanes))
      (ws : List Nat) (c : DecodeError),
    Ready s s1 s2 grp pc va hdr w lanes ts ps ws →
    decode (BitVec.ofNat 32 w) (BitVec.ofNat 32 (nth 0 ws 0)) (BitVec.ofNat 32 (nth 0 ws 1)) (BitVec.ofNat 32 (nth 0 ws 2))
      (BitVec.ofNat 32 (nth 0 ws 3)) = .error c →
    step s = .next (settleHalts (afterIssue s2 ((inHand s2 grp lanes va va hdr).raise (causeAll lanes Cause.illegalInstruction) 0 none false)
      grp va (va + 4 * wordsOf (BitVec.ofNat 32 w)) false) (teamOf grp))

/-- A barge whose turn it is executes the instruction that its word decodes to; a copy in flight whose turn it is performs units, and the
barge then takes what is due (R278, R282); a reduce team whose turn it is is placed on a core that may take it (R374; what one asks of its
core is read from R43 and R45, log 82); a step of the device, the host or the management whose turn it is happens. Turns are the model's
choice (log 2). -/
def Obligations.StepTakesTurn : Prop :=
  (∀ (s t : State) (b op : Nat) (f : BargeForm) (ts : List Turn) (i : Instr), s.mgmt.powered = true → s.sched.agenda = .barge b :: ts →
    bargeLook (s.modSched (fun c => { c with agenda := ts })) b = .run op f t → (Enc.barge op f).instr = some i →
    step s = .next (Out.orElse (exec i t) (s.modSched (fun c => { c with agenda := ts })))) ∧
  (∀ (s : State) (b k n : Nat) (ts : List Turn), s.mgmt.powered = true → s.sched.agenda = .copy b k n :: ts →
    step s = .next (settleBarge (copyUnits b k n (s.modSched (fun c => { c with agenda := ts }))) b)) ∧
  (∀ (s : State) (k core : Nat) (x : ReduceTeam) (ts : List Turn), s.mgmt.powered = true → s.sched.agenda = .reduce k core :: ts →
    s.fabric.reduces[k]? = some x → x.core = none → reduceFits (s.modSched (fun c => { c with agenda := ts })) core = true →
    step s = .next ((s.modSched (fun c => { c with agenda := ts })).modFabric (fun y =>
      { y with reduces := y.reduces.modify k (fun x => { x with core := some core }) }))) ∧
  (∀ (s : State) (e : Instr) (ts : List Turn), s.mgmt.powered = true → s.sched.agenda = .event e :: ts →
    step s = exec e (s.modSched (fun c => { c with agenda := ts })))

/-- With the package's power removed (R408) nothing runs but a reset, which brings it back: the form of the stop is the model's choice
(log 74). -/
def Obligations.UnpoweredStops : Prop :=
  ∀ (s : State) (t : Turn) (ts : List Turn), s.mgmt.powered = false → s.sched.agenda = t :: ts →
    (t ≠ .event .reset → step s = .fault .powerRemoved) ∧
    (t = .event .reset → ∃ u, step s = .next u ∧ u.mgmt.powered = true)

/-- A package with power never stops: every step answers a next state. That an event which is not enabled leaves the state alone is the
model's choice (log 5). -/
def Obligations.PoweredGoesOn : Prop := ∀ s : State, s.mgmt.powered = true → ∃ t, step s = .next t

/-! ### Reset and memory -/

/-- After reset (R416) memory lists nothing, and is in its canonical form; that a byte nothing has written reads 0 is the model's choice
(log 1). -/
def Obligations.ResetMemoryCanonical : Prop := State.reset.memOk = true ∧ ∀ a, State.reset.mem.cell a = 0#8

/-- Every step keeps memory in its canonical form, which is the model's own (log 1). -/
def Obligations.MemoryCanonicalKept : Prop := ∀ s t : State, s.memOk = true → step s = .next t → t.memOk = true

/-- What the spec says of reset: thresholds, marks, budgets, semaphores, slice maps, queue registers, keys, bias, the export table, the
privilege mask, the power limit, the boot log, and sectors that nothing has written (R41, R44, R206, R256, R303, R357, R361, R387, R392, R394,
R397, R407, R412, R416). -/
def Obligations.ResetValues : Prop :=
  (∀ c, (State.reset.core c).hot = 95 ∧ (State.reset.engine c).budget = 64 ∧ ∀ k, State.reset.sem c k = 0) ∧
  (∀ d, (State.reset.die d).high = 16 ∧ (State.reset.die d).low = 2 ∧ ∀ e, e < 4096 → mapSlice (State.reset.slice d) e = e % 512) ∧
  (∀ q k, State.reset.queueReg q k = 0) ∧
  (∀ g, Sparse.get false State.reset.host.bias g = false) ∧
  State.reset.host.hdmKey = 0 ∧ State.reset.fabric.podId = none ∧ (∀ k, Sparse.get 0 State.reset.fabric.exports k = 0) ∧
  State.reset.mgmt.privMask = 0 ∧ State.reset.mgmt.limit = 6400 ∧ State.reset.mgmt.boot = [] ∧
  blocksOf State.reset.mgmt = [List.replicate 32 0#8] ∧ (∀ x, State.reset.mem.tag x = .fresh)

/-! ### The gate of a group instruction -/

/-- R92, R97, R310, R311: an illegal operand stops the group at the instruction, with that cause in every present lane; in a handler it is
a double fault, and the launch ends with status 4 and this cause (R318), or the lower one that the cycle's other path has raised. While that
path is still to issue, the cause is held for it (R310). -/
def Obligations.IllegalOperandTraps : Prop :=
  ∀ (i : Instr) (f : ExtForm) (u : Use) (n : Nat) (s : State), Plain i f u n → (u.bad = true ∨ operandsOk s f u = false) →
    s.sched.cur.lanes ≠ 0#32 →
    (Ordinary s → ∃ t, exec i s = .next t ∧
      Trapped s t (fun k => if s.sched.cur.lanes.getLsbD k then Cause.illegalOperand else 0) Cause.illegalOperand (low s.sched.cur.lanes)) ∧
    (s.me.mode = .handler →
      let c := (s.me.dfault.map (min Cause.illegalOperand)).getD Cause.illegalOperand
      (s.me.picks = [] → s.myLaunch.outcome = none → ∃ t, exec i s = .next t ∧
        (t.launch (launchOfTeam (team s))).outcome = some (4, c, gridTeamOf (team s))) ∧
      (s.me.picks ≠ [] → ∃ t, exec i s = .next t ∧ (t.group (grp s)).dfault = some c ∧ t.work = s.work))

/-- R167, R174: an instruction that reads a poisoned register outside a handler traps in its active lanes with the cause of a consumed
poison. That a poisoned scalar or predicate counts in every active lane is read from R167 (log 21). -/
def Obligations.PoisonTraps : Prop :=
  ∀ (i : Instr) (f : ExtForm) (u : Use) (n : Nat) (s : State), Plain i f u n → u.bad = false → operandsOk s f u = true →
    (∀ m ∈ allNames f u, m ∉ awaited s (grp s)) → (∃ m ∈ readNames f u, Sparse.get 0 s.me.marks m ≠ 0) → SomeActive s f → Ordinary s →
    ∃ t, exec i s = .next t ∧
      Trapped s t (fun k => if (s.active f).getLsbD k then Cause.poisonConsumed else 0) Cause.poisonConsumed (low (s.active f))

/-- R98, R141, R167: an instruction that names a pending register stays where it is, but for one that the cycle's first path has made so; one
without an active lane passes on and does nothing else. -/
def Obligations.WaitsAndIdles : Prop :=
  ∀ (i : Instr) (f : ExtForm) (u : Use) (n : Nat) (s : State), Plain i f u n →
    (u.bad = false → operandsOk s f u = true → (∃ m ∈ allNames f u, m ∈ awaited s (grp s)) → exec i s = .next s) ∧
    (Clear s f u → s.active f = 0#32 → exec i s = .next s.advance)

/-! ### Writes, and what is left alone -/

/-- R91, R93, R167: what a result does to the registers it names. Each active lane takes its word in a vector; a scalar takes the word of
the lowest active lane, unless another path of this cycle has written it; a predicate takes a bit for each active lane; `pt` takes nothing.
The poison mark goes. -/
def Obligations.ResultWritten : Prop :=
  ∀ (s : State) (act : Lanes) (d n j : Nat) (x : Nat → Nat), act ≠ 0#32 → j < n → unwritten s (rangeFrom d n) →
    let g := (s.writeDest act (rangeFrom d n) x).group (grp s)
    (d + n ≤ 1536 → ∀ k, k < 32 → act.getLsbD k = true → g.readV (d + j) k = x k / 2 ^ (32 * j) % 2 ^ 32) ∧
    (1536 ≤ d → d + n ≤ 1600 → g.readS (d + j - 1536) = x (low act) / 2 ^ (32 * j) % 2 ^ 32) ∧
    (1664 ≤ d → d < 1671 → n = 1 → ∀ k, k < 32 → act.getLsbD k = true →
      (g.pred (d - 1664)).getLsbD k = decide (x k % 2 ^ 32 ≠ 0)) ∧
    (d = 1671 → n = 1 → g = s.me) ∧
    (d + n ≤ 1600 → Sparse.get 0 g.marks (d + j) = 0) ∧ OnlyGroup (grp s) s (s.writeDest act (rangeFrom d n) x)

/-- R93: two paths of one cycle write one scalar or one predicate. -/
def Obligations.TwoPathsWrite : Prop :=
  ∀ (g : Group) (pa pb : Nat) (la lb aa ab : Lanes) (x y : Nat → Nat) (n : Nat), pa ≠ pb → la &&& lb = 0#32 → Lanes.sub aa la = true →
    Lanes.sub ab lb = true → aa ≠ 0#32 → ab ≠ 0#32 → (∀ e ∈ g.prot, e.2.1 ≠ n) →
    let h := (g.writeReg (some (pa, la)) n aa x).writeReg (some (pb, lb)) n ab y
    (1536 ≤ n → n < 1600 → h.readS (n - 1536) = x (low aa) % 2 ^ 32) ∧
    (1664 ≤ n → n < 1671 → ∀ k, k < 32 → (h.pred (n - 1664)).getLsbD k =
      if aa.getLsbD k then decide (x k ≠ 0) else if ab.getLsbD k then decide (y k ≠ 0) else (g.pred (n - 1664)).getLsbD k)

/-- R98, R142: the present lanes of an instruction pass on to the next word, in the clause in force; the others stay. -/
def Obligations.LanesPassOn : Prop :=
  ∀ (s : State) (k : Nat), k < 32 →
    let g := s.advance.group (grp s)
    (g.pc k = if s.sched.cur.lanes.getLsbD k then s.sched.cur.npc else s.me.pc k) ∧
    (g.hdr k = if s.sched.cur.lanes.getLsbD k then s.sched.cur.hdr else s.me.hdr k) ∧
    g.issued = s.me.issued + 1 ∧ g.live = s.me.live ∧ OnlyGroup (grp s) s s.advance

/-- Frame of the instructions that compute: memory, every other group, and every register outside the destination are unchanged, and so is
the destination in the lanes that are not active. -/
def Obligations.ComputingFrame : Prop :=
  ∀ (i : Instr) (f : ExtForm) (u : Use) (n : Nat) (s t : State), Plain i f u n → Clear s f u → SomeActive s f →
    unwritten s (rangeFrom f.d.toNat n) → exec i s = .next t → Wrote s t (rangeFrom f.d.toNat n) (s.active f)

/-- Frame of the instructions that issue an operation: no register, and no byte of any memory, is different. -/
def Obligations.IssuingFrame : Prop :=
  ∀ (i : Instr) (r : Act) (s t : State), Issues i r → Clear s r.f r.u → SomeActive s r.f → r.when s (s.active r.f) → exec i s = .next t →
    Issued s t

/-- R192, R196: `sts` stores each active lane's data at the lane's address in the scratchpad, `stl` in the lane's own slice; every other
byte and everything else is left alone. -/
def Obligations.ScratchpadStores : Prop :=
  (∀ (i : Instr) (f : ExtForm) (s : State), (i = .stsX f ∨ ∃ g : BaseForm, i = .sts g ∧ f = g.toExt 0x13 1) → Clear s f (storeUse f) →
    SomeActive s f → unfenced s → inLevel 0x13 (dataBytes f) f s (s.active f) → scratchQuiet s → (s.team (team s)).exited = false →
    ∃ t, exec i s = .next t ∧ CoreStored f (s.active f) s t) ∧
  (∀ (i : Instr) (f : ExtForm) (s : State), (i = .stlX f ∨ ∃ g : BaseForm, i = .stl g ∧ f = g.toExt 0x14 1) → Clear s f (storeUse f) →
    SomeActive s f → unfenced s → inLevel 0x14 (dataBytes f) f s (s.active f) → scratchQuiet s →
    ∃ t, exec i s = .next t ∧ LaneStored f (s.active f) s t)

/-! ### Computing instructions -/

/-- R116: the integer instructions write the exact result, clamped with `.sat`, in the low bits of the destination. -/
def Obligations.IntegerResults : Prop :=
  ∀ i r s, IsInt i r → Clear s r.f r.use → SomeActive s r.f → Computes i s r.f (words r.f 1) (r.value s)

/-- R118 to R120: logic, shifts, counts of bits and bit fields. -/
def Obligations.BitResults : Prop :=
  ∀ i r s, IsBit i r → Clear s r.f r.u → SomeActive s r.f → Computes i s r.f r.regs (r.result s)

/-- R122: moves, selects and broadcasts. -/
def Obligations.MoveResults : Prop :=
  ∀ i r s, IsMove i r → Clear s r.f r.u → SomeActive s r.f → Computes i s r.f r.regs (r.value s (s.active r.f))

/-- R123: byte permutes and address sums. -/
def Obligations.PermuteResults : Prop :=
  ∀ i r s, IsPermute i r → Clear s r.f r.u → SomeActive s r.f → Computes i s r.f r.regs (r.value s (s.active r.f))

/-- R128, R133: floating arithmetic rounds the exact result once. -/
def Obligations.FloatResults : Prop :=
  ∀ i r s, IsFloat i r → Clear s r.f r.use → SomeActive s r.f →
    Computes i s r.f (wordsOfTy r.ty) (fun k => r.value (s.opA r.f r.ty k) (s.opB r.f r.ty k) (s.opC r.f r.ty k))

/-- R121, R129, R130: compares and classification write a truth value in every active lane. -/
def Obligations.CompareResults : Prop :=
  ∀ i r s, IsTest i r → Clear s r.f r.u → SomeActive s r.f → Tests i s r.f (r.value s (s.active r.f))

/-- R161: the votes. -/
def Obligations.VoteResults : Prop :=
  (∀ i r s, IsVote i r → Clear s r.f r.u → SomeActive s r.f → Tests i s r.f (r.value s (s.active r.f))) ∧
  (∀ i r s, IsBallot i r → Clear s r.f r.u → SomeActive s r.f → Computes i s r.f r.regs (r.value s (s.active r.f)))

/-- R111, R132 to R136, R162, R163, R176, R330: conversions, reductions, scans and reads of special registers. That the unsigned forms of
`cpack` read their sources as unsigned and that source A of `cunpk` is of type `.b32` are log 81, and what the counters of `pmrd` count log 63. -/
def Obligations.ValueResults : Prop :=
  ∀ i r s, IsValue i r → Clear s r.f r.u → SomeActive s r.f → Computes i s r.f r.regs (r.value s (s.active r.f))

/-! ### Instructions of groups that act -/

/-- Branches, join masks, `exit`, `nop`, `yield`, `movs`, `movp` and `iaddc`. -/
def Obligations.ControlActs : Prop := ∀ i r, IsControl i r → Acts i r

/-- Special functions and shuffles (R131, R159, R165); the exact value that is rounded is computed in fixed point (log 19). -/
def Obligations.FlaggedActs : Prop := ∀ i r, IsFlagged i r → Acts i r

/-- Scratchpad accesses (R195 to R200). -/
def Obligations.ScratchpadActs : Prop := ∀ i r, IsScratch i r → Acts i r

/-- Global-memory accesses, prefetches, cleans and invalidations (R211 to R215, R223, R240). -/
def Obligations.GlobalMemoryActs : Prop := ∀ i r, IsGlobal i r → Acts i r

/-- Tokens: `twait`, `tsleep`, `tclr`, `tjoin`, `tsig` (R171, R173, R176, R178). -/
def Obligations.TokenActs : Prop := ∀ i r, IsToken i r → Acts i r

/-- Chambers (R177, R183, R184, R418); what a plain store leaves in one is free (log 16). The classes that the offset of `texp` takes are log 38,
and which stores the release of an export covers log 36. -/
def Obligations.ChamberActs : Prop := (∀ i c r, IsChamber i c r → Acts i r) ∧ (∀ i c x t r, IsChamberRead i c x t r → Acts i r)

/-- Named barriers and semaphores (R203 to R208). -/
def Obligations.BarrierActs : Prop := ∀ i r, IsSync i r → Acts i r

/-- `fence`, `tfence`, `racq`, `rrel`, `csync` and `gsync` (R110, R238, R239, R327, R329); each path waits in a fence of its own (log 35), and a
`racq` with F = 32 sets held (log 84). -/
def Obligations.OrderingActs : Prop := ∀ i r, IsOrder i r → Acts i r

/-- Writes of special registers (R111, R185, R205, R220, R292, R303, R307), `mx.q` with a count of 0 to 8: what a greater one does is log 42.
That `tok` and `tokx` take every value, scope codes of no chamber and odd addresses among them, is log 79, and which stores a delivery
releases log 36. -/
def Obligations.SpecialWriteActs : Prop := ∀ i r, IsSwr i r → Acts i r

/-- Invalidations, `biasset`, the traps, and the ways out of a handler (R249, R319, R326, R328, R401). What `rtt.res` brings back where the rules
leave it open, lanes that exited, a saved word that is no header, several queue reads, is logs 39, 40 and 47; the cycles and places of what it
restores are log 83. -/
def Obligations.SystemActs : Prop := ∀ i r, IsSystem i r → Acts i r

/-- The instructions of barges and of the engine's reservation (R264 to R267, R287, R292); bits [63:57] of a `bgo` code address are log 87. -/
def Obligations.BargeControlActs : Prop := ∀ i r, IsBargeControl i r → Acts i r

/-- R291 to R300: a matrix instruction whose lanes have signed enters its engine's queue. -/
def Obligations.MatrixIssues : Prop :=
  ∀ i f m x a b s e, IsMatrix i f m x a b → Clear s f (matrixUse a b) → Elected s f e → MatrixReady s f m x a b e →
    exec i s = .next (afterMatrix s f m x a b e)

/-- Queues of barges and of near memory, the fabric and collectives (R280, R343, R344, R350 to R353, R364 to R366, R372, R376). That an `nmcfg`
record with 0 rows releases its slot whatever its other bits is log 52, and when an earlier access of the core's path holds a `put`, `rld` or
`ratom` log 37. -/
def Obligations.QueueAndFabricActs : Prop := (∀ i r, IsQueue i r → Acts i r) ∧ (∀ i r, IsFabric i r → Acts i r)

/-! ### Traps and handlers -/

/-- R311, R326: `trap` and `brk` complete, and stop their group with their own cause and the low bits of their operand. -/
def Obligations.TrapCompletes : Prop :=
  ∀ (f : ExtForm) (s : State) (i : Instr) (c : Nat), (i = .trap f ∧ c = Cause.trap ∨ i = .brk f ∧ c = Cause.breakpoint) →
    Clear s f { b := small } → SomeActive s f → Ordinary s →
    ∃ t, exec i s = .next t ∧ (t.group (grp s)).mode = .halted ∧ (t.group (grp s)).cause.cause = c ∧
      (t.group (grp s)).cause.code = opB0 s f (s.active f) % 65536 ∧ (t.group (grp s)).cause.lane = low (s.active f) ∧
      (∀ k, k < 32 → (t.group (grp s)).pc k = if s.sched.cur.lanes.getLsbD k then s.sched.cur.npc else s.me.pc k) ∧
      (t.group (grp s)).issued = s.me.issued + 1

/-- R312, R314, R316: a halted group whose frame can be written enters its handler: every live lane at the handler's address, the
addresses of frame and slot in v0 to v3, the predicates and the sites and parked sets of its masks clear, and no other register touched. -/
def Obligations.HandlerEntered : Prop :=
  ∀ (s s1 : State) (g : Nat), (s.group g).mode = .halted → (s.group g).picks = [] → (s.team (teamOf g)).debug = false →
    (s.group g).live ≠ 0#32 → (s.group g).entPreempt = false → (s.group g).entResume = false → handlerReady s g false = true →
    multicastsLanded s (teamOf g) = true → s.store (agentOn s (coreOfGrp s g) (launchOfGrp g)) (frameAddr s g) (wholeFrame s g 0) = .ok () s1 →
    ∃ t, exec (.handlerEntry g) s = .next t ∧
      (t.group g).mode = .handler ∧ (t.group g).live = (s1.group g).live ∧
      (∀ k, k < 32 → (s1.group g).live.getLsbD k = true → (t.group g).pc k = (s.launch (launchOfGrp g)).handler) ∧
      (∀ k, k < 32 → (t.group g).readV 0 k = frameAddr s g % 2 ^ 32 ∧ (t.group g).readV 1 k = frameAddr s g / 2 ^ 32 % 2 ^ 32 ∧
        (t.group g).readV 2 k = slotAddr s1 (teamOf g) % 2 ^ 32 ∧ (t.group g).readV 3 k = slotAddr s1 (teamOf g) / 2 ^ 32 % 2 ^ 32) ∧
      (∀ r, r < 7 → (t.group g).pred r = 0#32) ∧
      (∀ m, ((t.group g).join m).parked = 0#32 ∧ ((t.group g).join m).site = none ∧
        ((t.group g).join m).members = ((s1.group g).join m).members) ∧
      (∀ n k, 3 < n → n < 1536 → (t.group g).readV n k = (s1.group g).readV n k) ∧ (t.group g).s = (s1.group g).s

/-- R5, R314, R319: where the frame holds each field, and that its reserved bytes from 0x4B0 on are zero. A live lane's header word is that
of the clause that holds its counter. -/
def Obligations.FrameLayout : Prop :=
  ∀ (s : State) (g held : Nat), (s.group g).cause.cause < 32 → (s.group g).cause.lane < 32 → (s.group g).skid < 8 → (s.group g).gen < 2 ^ 32 →
    held < 16 → (s.group g).cause.token < 16 → (s.group g).cause.tcause < 32 → (s.team (teamOf g)).origin < 32 →
    let x := s.group g
    let bs := wholeFrame s g held
    bs.length = 0x1000 ∧ bs.take 0x4B0 = frameOf s g held ∧ (∀ a, 0x4B0 ≤ a → a < 0x1000 → bs[a]? = some 0#8) ∧
    frameField bs 0 8 / 2 ^ 59 = x.cause.cause ∧ frameField bs 0 8 / 2 ^ 54 % 32 = x.cause.lane ∧
    (frameField bs 0 8).testBit 53 = x.entPreempt ∧ (frameField bs 0 8).testBit 52 = x.entResume ∧
    frameField bs 0 8 / 2 ^ 49 % 8 = x.skid ∧ frameField bs 0 8 / 2 ^ 32 % 65536 = x.cause.code % 65536 ∧
    frameField bs 0 4 = x.live.toNat ∧ frameField bs 8 4 = x.cause.present.toNat ∧
    (frameField bs 8 8).testBit 47 = x.cause.tokv ∧ frameField bs 8 8 / 2 ^ 43 % 16 = x.cause.token ∧
    frameField bs 8 8 / 2 ^ 38 % 32 = x.cause.tcause ∧ frameField bs 8 8 / 2 ^ 33 % 32 = (s.team (teamOf g)).origin ∧
    (frameField bs 8 8).testBit 32 = x.cause.self ∧ frameField bs 8 8 / 2 ^ 48 = 0 ∧ (frameField bs 0 8).testBit 48 = false ∧
    QueueReadField x.qread (frameField bs 0x10 8) ∧
    (∀ n, n < 1536 → (frameField bs 0x360 192).testBit n = decide (Sparse.get 0 x.marks n ≠ 0)) ∧
    (∀ n, n < 64 → (frameField bs 0x420 8).testBit n = decide (Sparse.get 0 x.marks (1536 + n) ≠ 0)) ∧
    frameField bs 0x18 4 = x.gen ∧ frameField bs 0x1C 4 = held ∧
    (∀ r, r < 7 → frameField bs (0x20 + 4 * r) 4 = (x.pred r).toNat) ∧
    (∀ k, k < 32 → frameField bs (0x40 + k) 1 = Sparse.get 0 x.cause.causes k % 256) ∧
    (∀ k, k < 32 → x.pc k < 2 ^ 57 → frameField bs (0x60 + 8 * k) 8 = (if x.live.getLsbD k then 2 ^ 63 else 0) + x.pc k) ∧
    (∀ r k, r < 4 → k < 32 → frameField bs (0x160 + 128 * r + 4 * k) 4 = x.readV r k) ∧
    frameField bs 0x428 2 = x.nbph % 65536 ∧ frameField bs 0x42A 2 = x.nbpend % 65536 ∧
    (∀ k, k < 32 → frameField bs (0x430 + 4 * k) 4 = (if x.live.getLsbD k then laneHeader s g k else x.hdr k) % 2 ^ 32)

/-- R314, R319: what the device writes at the entry and `rtt.res` reads back are the same: predicates, v0 to v3, and each live lane's counter
come back as they were, and its header in force is that of the clause that holds its counter. -/
def Obligations.FrameRoundTrip : Prop :=
  ∀ (s : State) (g held : Nat) (h : Group), (s.group g).gen < 2 ^ 32 → held < 16 → h.live = (s.group g).live → h.liveAtEntry = h.live →
    (∀ k, k < 32 → (s.group g).live.getLsbD k = true → (s.group g).pc k < 2 ^ 57 ∧ laneHeader s g k < 2 ^ 32) →
    let x := s.group g
    let y := h.restore (frameOf s g held)
    y.mode = .running ∧ y.live = x.live ∧ y.gen = x.gen ∧ y.nbpend = x.nbpend % 65536 ∧ y.nbph = x.nbph % 65536 ∧
    (∀ r, r < 7 → y.pred r = x.pred r) ∧
    (∀ r k, r < 4 → k < 32 → y.readV r k = x.readV r k) ∧
    (∀ k, k < 32 → x.live.getLsbD k = true → y.pc k = x.pc k ∧ y.hdr k = laneHeader s g k) ∧
    (∀ n k, 3 < n → n < 1536 → k < 32 → y.readV n k = h.readV n k)

/-! ### Barges -/

/-- R270 to R272: the instructions that write a register, branches, jumps and loops. -/
def Obligations.BargeFlow : Prop :=
  (∀ i f w v, IsBargeValue i f w v → ∀ s, w s → exec i s = .next (goOn (setA s f (v s)))) ∧ (∀ i f r, IsBargeFlow i f r → Turns i r)

/-- R273 to R280: loads of indices, addresses and queues; copies, which begin, and the units of one in flight; what another agent sees waits
for copies in flight (log 80), reads and writes wait for what the core's groups have issued to the same bytes (log 85), units go in increasing
order (log 87), and bytes that are source and destination are free (log 15). -/
def Obligations.BargeData : Prop :=
  (∀ i r, IsBargeData i r → Turns i r) ∧
  (∀ (s t : State) (b k : Nat) (c : Flight), (s.barge b).flight[k]? = some c → c.fault = none → c.unit < c.units → UnitDone s b c t →
    copyUnits b k 1 s = unitCounted b k c t)

/-- R281, R282: arrivals, waits, fences and the end of a run; R233 for what each releases and R208 for the semaphore. Which stores of the die a
release covers is log 36, and that an effect that another agent sees waits until the copies in flight have landed log 80. -/
def Obligations.BargeSync : Prop := ∀ i r, IsBargeSync i r → Turns i r

/-- R284: where an instruction of a barge faults, and with which cause. -/
def Obligations.BargeFaultsFound : Prop := ∀ i w c, BargeFaults i w c → ∀ s, w s → exec i s = .next (faulted s c)

/-! ### The package, the host, the management -/

/-- R392, R412, R414: a setting is taken from a requester that holds a secure session, over the management's path; without one the request
is refused and changes nothing else, and before the management controller's firmware runs nobody takes it. That the keys of stations need a
session is the model's reading (log 55); heat and the power alarm, which a new threshold or limit settles, are log 56. -/
def Obligations.SettingsTaken : Prop :=
  (∀ i w n, IsSetting i w n → ∀ s, controllerRuns s → entitled s → w s → exec i s = .next (n s)) ∧
  (∀ i w n, IsSetting i w n → ∀ s, controllerRuns s → ¬ entitled s → exec i s = .next (s.send .refusedRequest)) ∧
  (∀ i w n, IsSetting i w n → ∀ s, ¬ controllerRuns s → exec i s = .next s)

/-- Reset, power, the measured boot and measurements; temperature, droop, the communication reserve, capacity and the ports (R41, R42, R44,
R55, R384, R396, R407, R408, R412 to R414, R416); what stands outside, and reset values the spec does not give, are the model's (logs 10, 11, 17,
56). That an extent needs no session is log 58, the runs that a change of the reserve uses up log 70, which port trains without CXL log 73. -/
def Obligations.PackageEvents : Prop := (∀ i r, IsTrust i r → Turns i r) ∧ (∀ i r, IsPlant i r → Turns i r)

/-- Queue registers, queue commands, the debug mailbox's registers and BAR0 (R313, R385 to R391, R395). That QERRVA is 0 for codes 3 and 4 is
log 72, how a mailbox command of no code ends log 30, that a command before the hub's firmware runs is lost log 89. -/
def Obligations.QueueEvents : Prop := ∀ i r, IsQueueEvent i r → Turns i r

/-- Host accesses, and coherence with host and pooled memory (R394 to R396, R398 to R400); what answers from outside is an argument (log 17).
That a host write is performed whole or not at all, and poison under an empty key, are log 57, and how what waits for a granule goes on is
log 90. -/
def Obligations.HostEvents : Prop := ∀ i r, IsHostEvent i r → Turns i r

/-- The debug mailbox (R323, R324, R391); codes the rules leave open are the model's choice (logs 30, 62), and so is that READ_SPECIAL answers
for the lowest live lane (log 61). -/
def Obligations.DebugCommands : Prop :=
  (∀ i r, IsDebug i r → Turns i r) ∧
  (∀ i c w st, DebugRefused i c w st → ∀ s, asked c s → w s → exec i s = .next (answers s st false false))

/-- Launches and clusters (R28 to R40, R54, R55, R313, R417); where clusters are placed is an argument (log 25). Which launch an edge names is
log 59, when QTRAP is read log 72, three points of dispatch log 78, that nothing is taken before the hub's firmware runs log 89. -/
def Obligations.LaunchEvents : Prop := ∀ i r, IsLaunch i r → Turns i r

/-- Landings of operations and flags, and what time brings to a group (R47, R51, R165 to R167, R173, R199, R200, R206, R218, R222, R312, R322,
R323); when one comes is named by the turn (logs 2, 4). An instruction of several causes at a breakpoint is log 64, `cclean` and `cinval` as
writes log 65, which shuffles are of one path log 88, what holds an operation of the fabric log 37. -/
def Obligations.Landings : Prop := ∀ i r, IsLanding i r → Turns i r

/-- Page walks, forwarding, acknowledgements and flips of bias (R228 to R230, R245 to R250, R399, R400); when a store without a retirement ends a
lost state is log 83, and that a walk waits for its granule log 90. -/
def Obligations.MemoryEvents : Prop := ∀ i r, IsMemoryEvent i r → Turns i r

/-- The matrix engine, near memory and barges as units (R284, R285, R288, R295 to R306, R345 to R354). That a transfer is one step is log 4, who
owns a parked entry log 22, details of panels and tiles log 50, that a barge parks when its copies are complete log 80. -/
def Obligations.UnitEvents : Prop := ∀ i r, IsUnitEvent i r → Turns i r

/-- The fabric and collectives (R358 to R361, R363, R364, R366, R372 to R377); peers answer from outside (log 18), chunks are numbered by the
model (log 26). To which plan a notice or a rendezvous belongs is log 27, corners of stations and check values log 53, that a kept notice is
looked for after the records log 54. -/
def Obligations.FabricEvents : Prop := ∀ i r, IsFabricEvent i r → Turns i r

/-- Degraded operation (R12 to R14, R39, R257, R409, R410); which unit fails comes from outside (log 17). What goes with a die is log 67, when a
slice counts as retired log 68, how errors are counted log 86. -/
def Obligations.RepairEvents : Prop := ∀ i r, IsRepair i r → Turns i r
end

