-- ==== Sys2Proof/Laws/Arms.lean ====
section
/-! SUPPORT. What `exec` calls for each instruction, one equation an arm. -/

namespace Sys2Proof.Laws

open Sys2Proof Sys2Proof.Machine

theorem exec_reset (s : State) : exec .reset s = execReset s := rfl

theorem exec_bootStageLoad (stage version : Nat) (image : List Nat) (s : State) : exec (.bootStageLoad stage version image) s = execBootStageLoad stage version image s := rfl

theorem exec_thermalShutdown (sensor deg : Nat) (s : State) : exec (.thermalShutdown sensor deg) s = execThermalShutdown sensor deg s := rfl

theorem exec_powerSample (milliwatts : Nat) (s : State) : exec (.powerSample milliwatts) s = execPowerSample milliwatts s := rfl

theorem exec_getMeasurements (transport nonce : Nat) (s : State) : exec (.getMeasurements transport nonce) s = execGetMeasurements transport nonce s := rfl

theorem exec_negotiateAlgorithms (transport : Nat) (offers : List Nat) (s : State) : exec (.negotiateAlgorithms transport offers) s = execNegotiateAlgorithms transport offers s := rfl

theorem exec_secureSession (chainsToAnchor bothAuth : Bool) (s : State) : exec (.secureSession chainsToAnchor bothAuth) s = execSecureSession chainsToAnchor bothAuth s := rfl

theorem exec_setPodIdentifier (id : Nat) (s : State) : exec (.setPodIdentifier id) s = execSetPodIdentifier id s := rfl

theorem exec_setExportSegment (idx entry : Nat) (s : State) : exec (.setExportSegment idx entry) s = execSetExportSegment idx entry s := rfl

theorem exec_keySlotLoad (slot : Nat) (key : Option Nat) (s : State) : exec (.keySlotLoad slot key) s = execKeySlotLoad slot key s := rfl

theorem exec_stationKeyLoad (station dir key : Nat) (s : State) : exec (.stationKeyLoad station dir key) s = execStationKeyLoad station dir key s := rfl

theorem exec_ideKeyLoad (port key : Nat) (s : State) : exec (.ideKeyLoad port key) s = execIdeKeyLoad port key s := rfl

theorem exec_setHdmKey (slot : Option Nat) (s : State) : exec (.setHdmKey slot) s = execSetHdmKey slot s := rfl

theorem exec_setSpace3Window (port base limit : Nat) (s : State) : exec (.setSpace3Window port base limit) s = execSetSpace3Window port base limit s := rfl

theorem exec_setPrivilegeMask (mask : Nat) (s : State) : exec (.setPrivilegeMask mask) s = execSetPrivilegeMask mask s := rfl

theorem exec_setHotThreshold (core deg : Nat) (s : State) : exec (.setHotThreshold core deg) s = execSetHotThreshold core deg s := rfl

theorem exec_setReserveMarks (die high low : Nat) (s : State) : exec (.setReserveMarks die high low) s = execSetReserveMarks die high low s := rfl

theorem exec_setRetirementThreshold (kind n : Nat) (s : State) : exec (.setRetirementThreshold kind n) s = execSetRetirementThreshold kind n s := rfl

theorem exec_setPowerLimit (watts : Nat) (s : State) : exec (.setPowerLimit watts) s = execSetPowerLimit watts s := rfl

theorem exec_dynamicCapacityExtent (port : Nat) (add : Bool) (base len : Nat) (s : State) : exec (.dynamicCapacityExtent port add base len) s = execDynamicCapacityExtent port add base len s := rfl

theorem exec_coreTemperatureReading (core deg : Nat) (s : State) : exec (.coreTemperatureReading core deg) s = execCoreTemperatureReading core deg s := rfl

theorem exec_droopEvent (core : Nat) (s : State) : exec (.droopEvent core) s = execDroopEvent core s := rfl

theorem exec_droopQuiet (core : Nat) (s : State) : exec (.droopQuiet core) s = execDroopQuiet core s := rfl

theorem exec_reserveGrow (die : Nat) (s : State) : exec (.reserveGrow die) s = execReserveGrow die s := rfl

theorem exec_reserveShrink (die : Nat) (s : State) : exec (.reserveShrink die) s = execReserveShrink die s := rfl

theorem exec_queueEnable (q size val : Nat) (s : State) : exec (.queueEnable q size val) s = execQueueEnable q size val s := rfl

theorem exec_queueDisable (q size val : Nat) (s : State) : exec (.queueDisable q size val) s = execQueueDisable q size val s := rfl

theorem exec_qtailWrite (q size val : Nat) (s : State) : exec (.qtailWrite q size val) s = execQtailWrite q size val s := rfl

theorem exec_registerWrite (off size val : Nat) (s : State) : exec (.registerWrite off size val) s = execRegisterWrite off size val s := rfl

theorem exec_preEmpt (q launchid : Nat) (s : State) : exec (.preEmpt q launchid) s = execPreEmpt q launchid s := rfl

theorem exec_resume (q launchid : Nat) (s : State) : exec (.resume q launchid) s = execResume q launchid s := rfl

theorem exec_cancel (q launchid : Nat) (s : State) : exec (.cancel q launchid) s = execCancel q launchid s := rfl

theorem exec_qcmdInvalidOp (q op launchid : Nat) (s : State) : exec (.qcmdInvalidOp q op launchid) s = execQcmdInvalidOp q op launchid s := rfl

theorem exec_halt (s : State) : exec .halt s = execHalt s := rfl

theorem exec_debugResume (s : State) : exec .debugResume s = execDebugResume s := rfl

theorem exec_readRegister (s : State) : exec .readRegister s = execReadRegister s := rfl

theorem exec_writeRegister (s : State) : exec .writeRegister s = execWriteRegister s := rfl

theorem exec_forceWrite (s : State) : exec .forceWrite s = execForceWrite s := rfl

theorem exec_readSpecial (s : State) : exec .readSpecial s = execReadSpecial s := rfl

theorem exec_deliver (s : State) : exec .deliver s = execDeliver s := rfl

theorem exec_setBreakpoint (s : State) : exec .setBreakpoint s = execSetBreakpoint s := rfl

theorem exec_step (s : State) : exec .step s = execStep s := rfl

theorem exec_unclaimedRequest (addr : Nat) (s : State) : exec (.unclaimedRequest addr) s = execUnclaimedRequest addr s := rfl

theorem exec_hostHdmRead (off : Nat) (s : State) : exec (.hostHdmRead off) s = execHostHdmRead off s := rfl

theorem exec_hostHdmWrite (off data mask : Nat) (s : State) : exec (.hostHdmWrite off data mask) s = execHostHdmWrite off data mask s := rfl

theorem exec_hostWriteBack (off data : Nat) (s : State) : exec (.hostWriteBack off data) s = execHostWriteBack off data s := rfl

theorem exec_bisnpReceived (port off : Nat) (after : Option Nat) (s : State) : exec (.bisnpReceived port off after) s = execBisnpReceived port off after s := rfl

theorem exec_hostSnoop (addr : Nat) (inv : Bool) (after : Option Nat) (s : State) : exec (.hostSnoop addr inv after) s = execHostSnoop addr inv after s := rfl

theorem exec_ringEntryRead (q : Nat) (s : State) : exec (.ringEntryRead q) s = execRingEntryRead q s := rfl

theorem exec_launchTake (q : Nat) (s : State) : exec (.launchTake q) s = execLaunchTake q s := rfl

theorem exec_edgeSatisfy (launch edge : Nat) (s : State) : exec (.edgeSatisfy launch edge) s = execEdgeSatisfy launch edge s := rfl

theorem exec_dispatchBegin (q : Nat) (s : State) : exec (.dispatchBegin q) s = execDispatchBegin q s := rfl

theorem exec_clusterRequest (die col row : Nat) (s : State) : exec (.clusterRequest die col row) s = execClusterRequest die col row s := rfl

theorem exec_clusterRelease (cluster : Nat) (s : State) : exec (.clusterRelease cluster) s = execClusterRelease cluster s := rfl

theorem exec_launchComplete (launch : Nat) (s : State) : exec (.launchComplete launch) s = execLaunchComplete launch s := rfl

theorem exec_racqGrant (core : Nat) (s : State) : exec (.racqGrant core) s = execRacqGrant core s := rfl

theorem exec_mwaitDeadline (grp mask : Nat) (s : State) : exec (.mwaitDeadline grp mask) s = execMwaitDeadline grp mask s := rfl

theorem exec_specialFunctionLand (op : Nat) (s : State) : exec (.specialFunctionLand op) s = execSpecialFunctionLand op s := rfl

theorem exec_shuffleLand (op : Nat) (s : State) : exec (.shuffleLand op) s = execShuffleLand op s := rfl

theorem exec_scratchpadLoadLand (op : Nat) (s : State) : exec (.scratchpadLoadLand op) s = execScratchpadLoadLand op s := rfl

theorem exec_scratchpadAtomicLand (op : Nat) (s : State) : exec (.scratchpadAtomicLand op) s = execScratchpadAtomicLand op s := rfl

theorem exec_queueReadLand (op : Nat) (s : State) : exec (.queueReadLand op) s = execQueueReadLand op s := rfl

theorem exec_postedWriteLand (op lane : Nat) (s : State) : exec (.postedWriteLand op lane) s = execPostedWriteLand op lane s := rfl

theorem exec_cputIncrement (op team : Nat) (s : State) : exec (.cputIncrement op team) s = execCputIncrement op team s := rfl

theorem exec_heldOperationStart (op : Nat) (s : State) : exec (.heldOperationStart op) s = execHeldOperationStart op s := rfl

theorem exec_globalAccessRetire (op : Nat) (s : State) : exec (.globalAccessRetire op) s = execGlobalAccessRetire op s := rfl

theorem exec_dieScratchpadRetire (op : Nat) (s : State) : exec (.dieScratchpadRetire op) s = execDieScratchpadRetire op s := rfl

theorem exec_chamberArrive (op : Nat) (s : State) : exec (.chamberArrive op) s = execChamberArrive op s := rfl

theorem exec_ackLost (op : Nat) (s : State) : exec (.ackLost op) s = execAckLost op s := rfl

theorem exec_watchdog (grp : Nat) (s : State) : exec (.watchdog grp) s = execWatchdog grp s := rfl

theorem exec_addressBreakpoint (grp : Nat) (s : State) : exec (.addressBreakpoint grp) s = execAddressBreakpoint grp s := rfl

theorem exec_handlerEntry (grp : Nat) (s : State) : exec (.handlerEntry grp) s = execHandlerEntry grp s := rfl

theorem exec_pageWalk (core asid va kind : Nat) (s : State) : exec (.pageWalk core asid va kind) s = execPageWalk core asid va kind s := rfl

theorem exec_runAheadFetch (core asid va : Nat) (s : State) : exec (.runAheadFetch core asid va) s = execRunAheadFetch core asid va s := rfl

theorem exec_efStoreForward (agent : Nat) (s : State) : exec (.efStoreForward agent) s = execEfStoreForward agent s := rfl

theorem exec_gaStoreAcknowledge (op k : Nat) (s : State) : exec (.gaStoreAcknowledge op k) s = execGaStoreAcknowledge op k s := rfl

theorem exec_wcEntryTimeout (core peer line : Nat) (s : State) : exec (.wcEntryTimeout core peer line) s = execWcEntryTimeout core peer line s := rfl

theorem exec_sluiceWindow (core : Nat) (s : State) : exec (.sluiceWindow core) s = execSluiceWindow core s := rfl

theorem exec_matrixOperationStart (core : Nat) (s : State) : exec (.matrixOperationStart core) s = execMatrixOperationStart core s := rfl

theorem exec_matrixOperationRetire (core : Nat) (s : State) : exec (.matrixOperationRetire core) s = execMatrixOperationRetire core s := rfl

theorem exec_mmacRendezvous (cluster tile : Nat) (s : State) : exec (.mmacRendezvous cluster tile) s = execMmacRendezvous cluster tile s := rfl

theorem exec_mmacMulticastLanded (cluster tile : Nat) (s : State) : exec (.mmacMulticastLanded cluster tile) s = execMmacMulticastLanded cluster tile s := rfl

theorem exec_tileStoreZeroed (core : Nat) (s : State) : exec (.tileStoreZeroed core) s = execTileStoreZeroed core s := rfl

theorem exec_matrixQueuePark (core : Nat) (s : State) : exec (.matrixQueuePark core) s = execMatrixQueuePark core s := rfl

theorem exec_bargeFault (barge : Nat) (s : State) : exec (.bargeFault barge) s = execBargeFault barge s := rfl

theorem exec_bargePark (barge : Nat) (s : State) : exec (.bargePark barge) s = execBargePark barge s := rfl

theorem exec_accPerform (slot : Nat) (s : State) : exec (.accPerform slot) s = execAccPerform slot s := rfl

theorem exec_closePerform (slot : Nat) (s : State) : exec (.closePerform slot) s = execClosePerform slot s := rfl

theorem exec_nmvRun (op : Nat) (s : State) : exec (.nmvRun op) s = execNmvRun op s := rfl

theorem exec_qflushRetire (op : Nat) (s : State) : exec (.qflushRetire op) s = execQflushRetire op s := rfl

theorem exec_putRetire (op : Nat) (fail : Option Nat) (s : State) : exec (.putRetire op fail) s = execPutRetire op fail s := rfl

theorem exec_remoteAccessRetire (op : Nat) (fail : Option Nat) (data : List FarData) (s : State) : exec (.remoteAccessRetire op fail data) s = execRemoteAccessRetire op fail data s := rfl

theorem exec_incomingPodRequest (req : PodRequest) (s : State) : exec (.incomingPodRequest req) s = execIncomingPodRequest req s := rfl

theorem exec_stationStop (station : Nat) (s : State) : exec (.stationStop station) s = execStationStop station s := rfl

theorem exec_stationStart (station : Nat) (s : State) : exec (.stationStart station) s = execStationStart station s := rfl

theorem exec_flitAuthFailure (station : Nat) (s : State) : exec (.flitAuthFailure station) s = execFlitAuthFailure station s := rfl

theorem exec_stationNonceExhausted (station : Nat) (s : State) : exec (.stationNonceExhausted station) s = execStationNonceExhausted station s := rfl

theorem exec_clplanRun (op : Nat) (s : State) : exec (.clplanRun op) s = execClplanRun op s := rfl

theorem exec_clgoRendezvous (op : Nat) (s : State) : exec (.clgoRendezvous op) s = execClgoRendezvous op s := rfl

theorem exec_chunkArrival (op pos chunk : Nat) (data : FarData) (s : State) : exec (.chunkArrival op pos chunk data) s = execChunkArrival op pos chunk data s := rfl

theorem exec_planAbort (op cause : Nat) (s : State) : exec (.planAbort op cause) s = execPlanAbort op cause s := rfl

theorem exec_abortNoticeArrival (tag sender cause : Nat) (s : State) : exec (.abortNoticeArrival tag sender cause) s = execAbortNoticeArrival tag sender cause s := rfl

theorem exec_clgoComplete (op : Nat) (s : State) : exec (.clgoComplete op) s = execClgoComplete op s := rfl

theorem exec_rringRun (op : Nat) (s : State) : exec (.rringRun op) s = execRringRun op s := rfl

theorem exec_rringPacketArrival (packet : Nat) (s : State) : exec (.rringPacketArrival packet) s = execRringPacketArrival packet s := rfl

theorem exec_hubLinkFailure (die : Nat) (s : State) : exec (.hubLinkFailure die) s = execHubLinkFailure die s := rfl

theorem exec_hubLinkRestored (die : Nat) (s : State) : exec (.hubLinkRestored die) s = execHubLinkRestored die s := rfl

theorem exec_laneRetirement (kind idx width : Nat) (s : State) : exec (.laneRetirement kind idx width) s = execLaneRetirement kind idx width s := rfl

theorem exec_coreRetire (core : Nat) (s : State) : exec (.coreRetire core) s = execCoreRetire core s := rfl

theorem exec_coreRetirementComplete (core : Nat) (s : State) : exec (.coreRetirementComplete core) s = execCoreRetirementComplete core s := rfl

theorem exec_coreUncorrectable (core : Nat) (s : State) : exec (.coreUncorrectable core) s = execCoreUncorrectable core s := rfl

theorem exec_sliceFlush (die slice : Nat) (unreadable : List Nat) (s : State) : exec (.sliceFlush die slice unreadable) s = execSliceFlush die slice unreadable s := rfl

theorem exec_sliceMapSwitch (die : Nat) (s : State) : exec (.sliceMapSwitch die) s = execSliceMapSwitch die s := rfl

theorem exec_coreMapAdopt (core : Nat) (s : State) : exec (.coreMapAdopt core) s = execCoreMapAdopt core s := rfl

theorem exec_sliceEnd (die : Nat) (s : State) : exec (.sliceEnd die) s = execSliceEnd die s := rfl

theorem exec_hbmRowRetire (stack row : Nat) (s : State) : exec (.hbmRowRetire stack row) s = execHbmRowRetire stack row s := rfl

theorem exec_hbmBankRetire (stack bank : Nat) (s : State) : exec (.hbmBankRetire stack bank) s = execHbmBankRetire stack bank s := rfl

theorem exec_biasFlipHost (granule : Nat) (s : State) : exec (.biasFlipHost granule) s = execBiasFlipHost granule s := rfl

theorem exec_biasFlipDevice (granule : Nat) (s : State) : exec (.biasFlipDevice granule) s = execBiasFlipDevice granule s := rfl

theorem exec_iadd (f : BaseForm) (s : State) : exec (.iadd f) s = execIadd f s := rfl

theorem exec_iaddX (f : ExtForm) (s : State) : exec (.iaddX f) s = execIaddX f s := rfl

theorem exec_isub (f : BaseForm) (s : State) : exec (.isub f) s = execIsub f s := rfl

theorem exec_isubX (f : ExtForm) (s : State) : exec (.isubX f) s = execIsubX f s := rfl

theorem exec_imul (f : BaseForm) (s : State) : exec (.imul f) s = execImul f s := rfl

theorem exec_imulX (f : ExtForm) (s : State) : exec (.imulX f) s = execImulX f s := rfl

theorem exec_imad (f : ExtForm) (s : State) : exec (.imad f) s = execImad f s := rfl

theorem exec_imulh (f : ExtForm) (s : State) : exec (.imulh f) s = execImulh f s := rfl

theorem exec_imin (f : ExtForm) (s : State) : exec (.imin f) s = execImin f s := rfl

theorem exec_imax (f : ExtForm) (s : State) : exec (.imax f) s = execImax f s := rfl

theorem exec_iabs (f : ExtForm) (s : State) : exec (.iabs f) s = execIabs f s := rfl

theorem exec_ineg (f : ExtForm) (s : State) : exec (.ineg f) s = execIneg f s := rfl

theorem exec_iaddc (f : ExtForm) (s : State) : exec (.iaddc f) s = execIaddc f s := rfl

theorem exec_and (f : BaseForm) (s : State) : exec (.and f) s = execAnd f s := rfl

theorem exec_andX (f : ExtForm) (s : State) : exec (.andX f) s = execAndX f s := rfl

theorem exec_or (f : BaseForm) (s : State) : exec (.or f) s = execOr f s := rfl

theorem exec_orX (f : ExtForm) (s : State) : exec (.orX f) s = execOrX f s := rfl

theorem exec_xor (f : BaseForm) (s : State) : exec (.xor f) s = execXor f s := rfl

theorem exec_xorX (f : ExtForm) (s : State) : exec (.xorX f) s = execXorX f s := rfl

theorem exec_not (f : BaseForm) (s : State) : exec (.not f) s = execNot f s := rfl

theorem exec_notX (f : ExtForm) (s : State) : exec (.notX f) s = execNotX f s := rfl

theorem exec_bfn3 (f : ExtForm) (s : State) : exec (.bfn3 f) s = execBfn3 f s := rfl

theorem exec_shl (f : BaseForm) (s : State) : exec (.shl f) s = execShl f s := rfl

theorem exec_shlX (f : ExtForm) (s : State) : exec (.shlX f) s = execShlX f s := rfl

theorem exec_shr (f : BaseForm) (s : State) : exec (.shr f) s = execShr f s := rfl

theorem exec_shrX (f : ExtForm) (s : State) : exec (.shrX f) s = execShrX f s := rfl

theorem exec_sar (f : BaseForm) (s : State) : exec (.sar f) s = execSar f s := rfl

theorem exec_sarX (f : ExtForm) (s : State) : exec (.sarX f) s = execSarX f s := rfl

theorem exec_rot (f : BaseForm) (s : State) : exec (.rot f) s = execRot f s := rfl

theorem exec_rotX (f : ExtForm) (s : State) : exec (.rotX f) s = execRotX f s := rfl

theorem exec_popc (f : ExtForm) (s : State) : exec (.popc f) s = execPopc f s := rfl

theorem exec_clz (f : ExtForm) (s : State) : exec (.clz f) s = execClz f s := rfl

theorem exec_brev (f : ExtForm) (s : State) : exec (.brev f) s = execBrev f s := rfl

theorem exec_bfe (f : ExtForm) (s : State) : exec (.bfe f) s = execBfe f s := rfl

theorem exec_bfi (f : ExtForm) (s : State) : exec (.bfi f) s = execBfi f s := rfl

theorem exec_icmp (f : BaseForm) (s : State) : exec (.icmp f) s = execIcmp f s := rfl

theorem exec_icmpX (f : ExtForm) (s : State) : exec (.icmpX f) s = execIcmpX f s := rfl

theorem exec_icmpc (f : ExtForm) (s : State) : exec (.icmpc f) s = execIcmpc f s := rfl

theorem exec_mov (f : BaseForm) (s : State) : exec (.mov f) s = execMov f s := rfl

theorem exec_movX (f : ExtForm) (s : State) : exec (.movX f) s = execMovX f s := rfl

theorem exec_movQueueWrite (f : ExtForm) (s : State) : exec (.movQueueWrite f) s = execMovQueueWrite f s := rfl

theorem exec_movQueueRead (f : ExtForm) (s : State) : exec (.movQueueRead f) s = execMovQueueRead f s := rfl

theorem exec_nmPush (f : ExtForm) (s : State) : exec (.nmPush f) s = execNmPush f s := rfl

theorem exec_nmTake (f : ExtForm) (s : State) : exec (.nmTake f) s = execNmTake f s := rfl

theorem exec_sel (f : ExtForm) (s : State) : exec (.sel f) s = execSel f s := rfl

theorem exec_movs (f : BaseForm) (s : State) : exec (.movs f) s = execMovs f s := rfl

theorem exec_movsX (f : ExtForm) (s : State) : exec (.movsX f) s = execMovsX f s := rfl

theorem exec_bcast (f : BaseForm) (s : State) : exec (.bcast f) s = execBcast f s := rfl

theorem exec_bcastX (f : ExtForm) (s : State) : exec (.bcastX f) s = execBcastX f s := rfl

theorem exec_movp (f : ExtForm) (s : State) : exec (.movp f) s = execMovp f s := rfl

theorem exec_perm (f : ExtForm) (s : State) : exec (.perm f) s = execPerm f s := rfl

theorem exec_lea (f : BaseForm) (s : State) : exec (.lea f) s = execLea f s := rfl

theorem exec_leaX (f : ExtForm) (s : State) : exec (.leaX f) s = execLeaX f s := rfl

theorem exec_fadd (f : BaseForm) (s : State) : exec (.fadd f) s = execFadd f s := rfl

theorem exec_faddX (f : ExtForm) (s : State) : exec (.faddX f) s = execFaddX f s := rfl

theorem exec_fmul (f : BaseForm) (s : State) : exec (.fmul f) s = execFmul f s := rfl

theorem exec_fmulX (f : ExtForm) (s : State) : exec (.fmulX f) s = execFmulX f s := rfl

theorem exec_ffma (f : ExtForm) (s : State) : exec (.ffma f) s = execFfma f s := rfl

theorem exec_fmin (f : BaseForm) (s : State) : exec (.fmin f) s = execFmin f s := rfl

theorem exec_fminX (f : ExtForm) (s : State) : exec (.fminX f) s = execFminX f s := rfl

theorem exec_fmax (f : ExtForm) (s : State) : exec (.fmax f) s = execFmax f s := rfl

theorem exec_fsub (f : ExtForm) (s : State) : exec (.fsub f) s = execFsub f s := rfl

theorem exec_fcmp (f : BaseForm) (s : State) : exec (.fcmp f) s = execFcmp f s := rfl

theorem exec_fcmpX (f : ExtForm) (s : State) : exec (.fcmpX f) s = execFcmpX f s := rfl

theorem exec_fclass (f : ExtForm) (s : State) : exec (.fclass f) s = execFclass f s := rfl

theorem exec_frcp (f : BaseForm) (s : State) : exec (.frcp f) s = execFrcp f s := rfl

theorem exec_frcpX (f : ExtForm) (s : State) : exec (.frcpX f) s = execFrcpX f s := rfl

theorem exec_frsq (f : BaseForm) (s : State) : exec (.frsq f) s = execFrsq f s := rfl

theorem exec_frsqX (f : ExtForm) (s : State) : exec (.frsqX f) s = execFrsqX f s := rfl

theorem exec_fsqrt (f : BaseForm) (s : State) : exec (.fsqrt f) s = execFsqrt f s := rfl

theorem exec_fsqrtX (f : ExtForm) (s : State) : exec (.fsqrtX f) s = execFsqrtX f s := rfl

theorem exec_fexp2 (f : BaseForm) (s : State) : exec (.fexp2 f) s = execFexp2 f s := rfl

theorem exec_fexp2X (f : ExtForm) (s : State) : exec (.fexp2X f) s = execFexp2X f s := rfl

theorem exec_flog2 (f : ExtForm) (s : State) : exec (.flog2 f) s = execFlog2 f s := rfl

theorem exec_fsin (f : ExtForm) (s : State) : exec (.fsin f) s = execFsin f s := rfl

theorem exec_fcos (f : ExtForm) (s : State) : exec (.fcos f) s = execFcos f s := rfl

theorem exec_ftanh (f : ExtForm) (s : State) : exec (.ftanh f) s = execFtanh f s := rfl

theorem exec_hadd2 (f : BaseForm) (s : State) : exec (.hadd2 f) s = execHadd2 f s := rfl

theorem exec_hadd2X (f : ExtForm) (s : State) : exec (.hadd2X f) s = execHadd2X f s := rfl

theorem exec_hmul2 (f : BaseForm) (s : State) : exec (.hmul2 f) s = execHmul2 f s := rfl

theorem exec_hmul2X (f : ExtForm) (s : State) : exec (.hmul2X f) s = execHmul2X f s := rfl

theorem exec_hfma2 (f : ExtForm) (s : State) : exec (.hfma2 f) s = execHfma2 f s := rfl

theorem exec_hmin2 (f : BaseForm) (s : State) : exec (.hmin2 f) s = execHmin2 f s := rfl

theorem exec_hmin2X (f : ExtForm) (s : State) : exec (.hmin2X f) s = execHmin2X f s := rfl

theorem exec_hmax2 (f : ExtForm) (s : State) : exec (.hmax2 f) s = execHmax2 f s := rfl

theorem exec_dadd (f : BaseForm) (s : State) : exec (.dadd f) s = execDadd f s := rfl

theorem exec_daddX (f : ExtForm) (s : State) : exec (.daddX f) s = execDaddX f s := rfl

theorem exec_dmul (f : BaseForm) (s : State) : exec (.dmul f) s = execDmul f s := rfl

theorem exec_dmulX (f : ExtForm) (s : State) : exec (.dmulX f) s = execDmulX f s := rfl

theorem exec_dfma (f : ExtForm) (s : State) : exec (.dfma f) s = execDfma f s := rfl

theorem exec_dcmp (f : BaseForm) (s : State) : exec (.dcmp f) s = execDcmp f s := rfl

theorem exec_dcmpX (f : ExtForm) (s : State) : exec (.dcmpX f) s = execDcmpX f s := rfl

theorem exec_dmin (f : ExtForm) (s : State) : exec (.dmin f) s = execDmin f s := rfl

theorem exec_dmax (f : ExtForm) (s : State) : exec (.dmax f) s = execDmax f s := rfl

theorem exec_cvt (f : BaseForm) (s : State) : exec (.cvt f) s = execCvt f s := rfl

theorem exec_cvtX (f : ExtForm) (s : State) : exec (.cvtX f) s = execCvtX f s := rfl

theorem exec_cpack (f : BaseForm) (s : State) : exec (.cpack f) s = execCpack f s := rfl

theorem exec_cpackX (f : ExtForm) (s : State) : exec (.cpackX f) s = execCpackX f s := rfl

theorem exec_cunpk (f : BaseForm) (s : State) : exec (.cunpk f) s = execCunpk f s := rfl

theorem exec_cunpkX (f : ExtForm) (s : State) : exec (.cunpkX f) s = execCunpkX f s := rfl

theorem exec_frnd (f : BaseForm) (s : State) : exec (.frnd f) s = execFrnd f s := rfl

theorem exec_frndX (f : ExtForm) (s : State) : exec (.frndX f) s = execFrndX f s := rfl

theorem exec_shf (f : BaseForm) (s : State) : exec (.shf f) s = execShf f s := rfl

theorem exec_shfX (f : ExtForm) (s : State) : exec (.shfX f) s = execShfX f s := rfl

theorem exec_shfup (f : BaseForm) (s : State) : exec (.shfup f) s = execShfup f s := rfl

theorem exec_shfupX (f : ExtForm) (s : State) : exec (.shfupX f) s = execShfupX f s := rfl

theorem exec_shfdn (f : BaseForm) (s : State) : exec (.shfdn f) s = execShfdn f s := rfl

theorem exec_shfdnX (f : ExtForm) (s : State) : exec (.shfdnX f) s = execShfdnX f s := rfl

theorem exec_shfx (f : BaseForm) (s : State) : exec (.shfx f) s = execShfx f s := rfl

theorem exec_shfxX (f : ExtForm) (s : State) : exec (.shfxX f) s = execShfxX f s := rfl

theorem exec_vall (f : BaseForm) (s : State) : exec (.vall f) s = execVall f s := rfl

theorem exec_vallX (f : ExtForm) (s : State) : exec (.vallX f) s = execVallX f s := rfl

theorem exec_vany (f : BaseForm) (s : State) : exec (.vany f) s = execVany f s := rfl

theorem exec_vanyX (f : ExtForm) (s : State) : exec (.vanyX f) s = execVanyX f s := rfl

theorem exec_vbal (f : BaseForm) (s : State) : exec (.vbal f) s = execVbal f s := rfl

theorem exec_vbalX (f : ExtForm) (s : State) : exec (.vbalX f) s = execVbalX f s := rfl

theorem exec_vmatch (f : BaseForm) (s : State) : exec (.vmatch f) s = execVmatch f s := rfl

theorem exec_vmatchX (f : ExtForm) (s : State) : exec (.vmatchX f) s = execVmatchX f s := rfl

theorem exec_vuni (f : ExtForm) (s : State) : exec (.vuni f) s = execVuni f s := rfl

theorem exec_gred (f : BaseForm) (s : State) : exec (.gred f) s = execGred f s := rfl

theorem exec_gredX (f : ExtForm) (s : State) : exec (.gredX f) s = execGredX f s := rfl

theorem exec_gscan (f : BaseForm) (s : State) : exec (.gscan f) s = execGscan f s := rfl

theorem exec_gscanX (f : ExtForm) (s : State) : exec (.gscanX f) s = execGscanX f s := rfl

theorem exec_bra (f : BaseForm) (s : State) : exec (.bra f) s = execBra f s := rfl

theorem exec_braX (f : ExtForm) (s : State) : exec (.braX f) s = execBraX f s := rfl

theorem exec_brx (f : BaseForm) (s : State) : exec (.brx f) s = execBrx f s := rfl

theorem exec_brxX (f : ExtForm) (s : State) : exec (.brxX f) s = execBrxX f s := rfl

theorem exec_call (f : BaseForm) (s : State) : exec (.call f) s = execCall f s := rfl

theorem exec_callX (f : ExtForm) (s : State) : exec (.callX f) s = execCallX f s := rfl

theorem exec_ret (f : BaseForm) (s : State) : exec (.ret f) s = execRet f s := rfl

theorem exec_retX (f : ExtForm) (s : State) : exec (.retX f) s = execRetX f s := rfl

theorem exec_join (f : ExtForm) (s : State) : exec (.join f) s = execJoin f s := rfl

theorem exec_leave (f : ExtForm) (s : State) : exec (.leave f) s = execLeave f s := rfl

theorem exec_mwait (f : ExtForm) (s : State) : exec (.mwait f) s = execMwait f s := rfl

theorem exec_mwaitBounded (f : ExtForm) (s : State) : exec (.mwaitBounded f) s = execMwaitBounded f s := rfl

theorem exec_elect (f : ExtForm) (s : State) : exec (.elect f) s = execElect f s := rfl

theorem exec_mset (f : ExtForm) (s : State) : exec (.mset f) s = execMset f s := rfl

theorem exec_mget (f : ExtForm) (s : State) : exec (.mget f) s = execMget f s := rfl

theorem exec_exit (f : BaseForm) (s : State) : exec (.exit f) s = execExit f s := rfl

theorem exec_exitX (f : ExtForm) (s : State) : exec (.exitX f) s = execExitX f s := rfl

theorem exec_nop (f : BaseForm) (s : State) : exec (.nop f) s = execNop f s := rfl

theorem exec_nopX (f : ExtForm) (s : State) : exec (.nopX f) s = execNopX f s := rfl

theorem exec_yield (f : BaseForm) (s : State) : exec (.yield f) s = execYield f s := rfl

theorem exec_yieldX (f : ExtForm) (s : State) : exec (.yieldX f) s = execYieldX f s := rfl

theorem exec_lds (f : BaseForm) (s : State) : exec (.lds f) s = execLds f s := rfl

theorem exec_ldsX (f : ExtForm) (s : State) : exec (.ldsX f) s = execLdsX f s := rfl

theorem exec_sts (f : BaseForm) (s : State) : exec (.sts f) s = execSts f s := rfl

theorem exec_stsX (f : ExtForm) (s : State) : exec (.stsX f) s = execStsX f s := rfl

theorem exec_atms (f : ExtForm) (s : State) : exec (.atms f) s = execAtms f s := rfl

theorem exec_ldl (f : BaseForm) (s : State) : exec (.ldl f) s = execLdl f s := rfl

theorem exec_ldlX (f : ExtForm) (s : State) : exec (.ldlX f) s = execLdlX f s := rfl

theorem exec_stl (f : BaseForm) (s : State) : exec (.stl f) s = execStl f s := rfl

theorem exec_stlX (f : ExtForm) (s : State) : exec (.stlX f) s = execStlX f s := rfl

theorem exec_ldc (f : ExtForm) (s : State) : exec (.ldc f) s = execLdc f s := rfl

theorem exec_stc (f : ExtForm) (s : State) : exec (.stc f) s = execStc f s := rfl

theorem exec_cput (f : ExtForm) (s : State) : exec (.cput f) s = execCput f s := rfl

theorem exec_atmc (f : ExtForm) (s : State) : exec (.atmc f) s = execAtmc f s := rfl

theorem exec_ldd (f : ExtForm) (s : State) : exec (.ldd f) s = execLdd f s := rfl

theorem exec_std (f : ExtForm) (s : State) : exec (.std f) s = execStd f s := rfl

theorem exec_ldg (f : ExtForm) (s : State) : exec (.ldg f) s = execLdg f s := rfl

theorem exec_stg (f : ExtForm) (s : State) : exec (.stg f) s = execStg f s := rfl

theorem exec_atg (f : ExtForm) (s : State) : exec (.atg f) s = execAtg f s := rfl

theorem exec_redg (f : ExtForm) (s : State) : exec (.redg f) s = execRedg f s := rfl

theorem exec_pref (f : ExtForm) (s : State) : exec (.pref f) s = execPref f s := rfl

theorem exec_cclean (f : ExtForm) (s : State) : exec (.cclean f) s = execCclean f s := rfl

theorem exec_cinval (f : ExtForm) (s : State) : exec (.cinval f) s = execCinval f s := rfl

theorem exec_twait (f : ExtForm) (s : State) : exec (.twait f) s = execTwait f s := rfl

theorem exec_ttest (f : ExtForm) (s : State) : exec (.ttest f) s = execTtest f s := rfl

theorem exec_tsleep (f : ExtForm) (s : State) : exec (.tsleep f) s = execTsleep f s := rfl

theorem exec_texp (f : ExtForm) (s : State) : exec (.texp f) s = execTexp f s := rfl

theorem exec_tjoin (f : ExtForm) (s : State) : exec (.tjoin f) s = execTjoin f s := rfl

theorem exec_tclr (f : ExtForm) (s : State) : exec (.tclr f) s = execTclr f s := rfl

theorem exec_tsig (f : ExtForm) (s : State) : exec (.tsig f) s = execTsig f s := rfl

theorem exec_chini (f : ExtForm) (s : State) : exec (.chini f) s = execChini f s := rfl

theorem exec_charr (f : ExtForm) (s : State) : exec (.charr f) s = execCharr f s := rfl

theorem exec_chwait (f : ExtForm) (s : State) : exec (.chwait f) s = execChwait f s := rfl

theorem exec_chtest (f : ExtForm) (s : State) : exec (.chtest f) s = execChtest f s := rfl

theorem exec_nbarr (f : ExtForm) (s : State) : exec (.nbarr f) s = execNbarr f s := rfl

theorem exec_nbwait (f : ExtForm) (s : State) : exec (.nbwait f) s = execNbwait f s := rfl

theorem exec_nbsync (f : ExtForm) (s : State) : exec (.nbsync f) s = execNbsync f s := rfl

theorem exec_sinc (f : BaseForm) (s : State) : exec (.sinc f) s = execSinc f s := rfl

theorem exec_sincX (f : ExtForm) (s : State) : exec (.sincX f) s = execSincX f s := rfl

theorem exec_swait (f : BaseForm) (s : State) : exec (.swait f) s = execSwait f s := rfl

theorem exec_swaitX (f : ExtForm) (s : State) : exec (.swaitX f) s = execSwaitX f s := rfl

theorem exec_sread (f : BaseForm) (s : State) : exec (.sread f) s = execSread f s := rfl

theorem exec_sreadX (f : ExtForm) (s : State) : exec (.sreadX f) s = execSreadX f s := rfl

theorem exec_fence (f : ExtForm) (s : State) : exec (.fence f) s = execFence f s := rfl

theorem exec_tfence (f : ExtForm) (s : State) : exec (.tfence f) s = execTfence f s := rfl

theorem exec_acqr (f : ExtForm) (s : State) : exec (.acqr f) s = execAcqr f s := rfl

theorem exec_racq (f : BaseForm) (s : State) : exec (.racq f) s = execRacq f s := rfl

theorem exec_racqX (f : ExtForm) (s : State) : exec (.racqX f) s = execRacqX f s := rfl

theorem exec_rrel (f : BaseForm) (s : State) : exec (.rrel f) s = execRrel f s := rfl

theorem exec_rrelX (f : ExtForm) (s : State) : exec (.rrelX f) s = execRrelX f s := rfl

theorem exec_srd (f : ExtForm) (s : State) : exec (.srd f) s = execSrd f s := rfl

theorem exec_swr (f : ExtForm) (s : State) : exec (.swr f) s = execSwr f s := rfl

theorem exec_swrTok (f : ExtForm) (s : State) : exec (.swrTok f) s = execSwrTok f s := rfl

theorem exec_swrTokx (f : ExtForm) (s : State) : exec (.swrTokx f) s = execSwrTokx f s := rfl

theorem exec_swrMxQ (f : ExtForm) (s : State) : exec (.swrMxQ f) s = execSwrMxQ f s := rfl

theorem exec_swrMxBudget (f : ExtForm) (s : State) : exec (.swrMxBudget f) s = execSwrMxBudget f s := rfl

theorem exec_bgo (f : ExtForm) (s : State) : exec (.bgo f) s = execBgo f s := rfl

theorem exec_bstop (f : ExtForm) (s : State) : exec (.bstop f) s = execBstop f s := rfl

theorem exec_bres (f : ExtForm) (s : State) : exec (.bres f) s = execBres f s := rfl

theorem exec_bresLd (f : ExtForm) (s : State) : exec (.bresLd f) s = execBresLd f s := rfl

theorem exec_bstat (f : ExtForm) (s : State) : exec (.bstat f) s = execBstat f s := rfl

theorem exec_mxres (f : ExtForm) (s : State) : exec (.mxres f) s = execMxres f s := rfl

theorem exec_mxrel (f : ExtForm) (s : State) : exec (.mxrel f) s = execMxrel f s := rfl

theorem exec_mxsign (f : ExtForm) (s : State) : exec (.mxsign f) s = execMxsign f s := rfl

theorem exec_mma (f : ExtForm) (s : State) : exec (.mma f) s = execMma f s := rfl

theorem exec_mmac (f : ExtForm) (s : State) : exec (.mmac f) s = execMmac f s := rfl

theorem exec_mxclr (f : ExtForm) (s : State) : exec (.mxclr f) s = execMxclr f s := rfl

theorem exec_mxld (f : ExtForm) (s : State) : exec (.mxld f) s = execMxld f s := rfl

theorem exec_mxst (f : ExtForm) (s : State) : exec (.mxst f) s = execMxst f s := rfl

theorem exec_mxscl (f : ExtForm) (s : State) : exec (.mxscl f) s = execMxscl f s := rfl

theorem exec_nmcfg (f : ExtForm) (s : State) : exec (.nmcfg f) s = execNmcfg f s := rfl

theorem exec_nmv (f : ExtForm) (s : State) : exec (.nmv f) s = execNmv f s := rfl

theorem exec_qpoll (f : ExtForm) (s : State) : exec (.qpoll f) s = execQpoll f s := rfl

theorem exec_qflush (f : ExtForm) (s : State) : exec (.qflush f) s = execQflush f s := rfl

theorem exec_put (f : ExtForm) (s : State) : exec (.put f) s = execPut f s := rfl

theorem exec_rld (f : ExtForm) (s : State) : exec (.rld f) s = execRld f s := rfl

theorem exec_ratom (f : ExtForm) (s : State) : exec (.ratom f) s = execRatom f s := rfl

theorem exec_wcflush (f : ExtForm) (s : State) : exec (.wcflush f) s = execWcflush f s := rfl

theorem exec_clplan (f : ExtForm) (s : State) : exec (.clplan f) s = execClplan f s := rfl

theorem exec_clgo (f : ExtForm) (s : State) : exec (.clgo f) s = execClgo f s := rfl

theorem exec_rring (f : ExtForm) (s : State) : exec (.rring f) s = execRring f s := rfl

theorem exec_trap (f : ExtForm) (s : State) : exec (.trap f) s = execTrap f s := rfl

theorem exec_rttRes (f : ExtForm) (s : State) : exec (.rttRes f) s = execRttRes f s := rfl

theorem exec_rttEnd (f : ExtForm) (s : State) : exec (.rttEnd f) s = execRttEnd f s := rfl

theorem exec_rttSave (f : ExtForm) (s : State) : exec (.rttSave f) s = execRttSave f s := rfl

theorem exec_brk (f : ExtForm) (s : State) : exec (.brk f) s = execBrk f s := rfl

theorem exec_csync (f : ExtForm) (s : State) : exec (.csync f) s = execCsync f s := rfl

theorem exec_icinv (f : ExtForm) (s : State) : exec (.icinv f) s = execIcinv f s := rfl

theorem exec_tlbinv (f : ExtForm) (s : State) : exec (.tlbinv f) s = execTlbinv f s := rfl

theorem exec_biasset (f : ExtForm) (s : State) : exec (.biasset f) s = execBiasset f s := rfl

theorem exec_gsync (f : ExtForm) (s : State) : exec (.gsync f) s = execGsync f s := rfl

theorem exec_pmrd (f : ExtForm) (s : State) : exec (.pmrd f) s = execPmrd f s := rfl

theorem exec_bnop (f : BargeForm) (s : State) : exec (.bnop f) s = execBnop f s := rfl

theorem exec_bend (f : BargeForm) (s : State) : exec (.bend f) s = execBend f s := rfl

theorem exec_bmov (f : BargeForm) (s : State) : exec (.bmov f) s = execBmov f s := rfl

theorem exec_bmovi (f : BargeForm) (s : State) : exec (.bmovi f) s = execBmovi f s := rfl

theorem exec_badd (f : BargeForm) (s : State) : exec (.badd f) s = execBadd f s := rfl

theorem exec_bsub (f : BargeForm) (s : State) : exec (.bsub f) s = execBsub f s := rfl

theorem exec_bmul (f : BargeForm) (s : State) : exec (.bmul f) s = execBmul f s := rfl

theorem exec_bshl (f : BargeForm) (s : State) : exec (.bshl f) s = execBshl f s := rfl

theorem exec_bshr (f : BargeForm) (s : State) : exec (.bshr f) s = execBshr f s := rfl

theorem exec_band (f : BargeForm) (s : State) : exec (.band f) s = execBand f s := rfl

theorem exec_bor (f : BargeForm) (s : State) : exec (.bor f) s = execBor f s := rfl

theorem exec_bcmp (f : BargeForm) (s : State) : exec (.bcmp f) s = execBcmp f s := rfl

theorem exec_bbr (f : BargeForm) (s : State) : exec (.bbr f) s = execBbr f s := rfl

theorem exec_bjmp (f : BargeForm) (s : State) : exec (.bjmp f) s = execBjmp f s := rfl

theorem exec_bloop (f : BargeForm) (s : State) : exec (.bloop f) s = execBloop f s := rfl

theorem exec_bldi (f : BargeForm) (s : State) : exec (.bldi f) s = execBldi f s := rfl

theorem exec_bqin (f : BargeForm) (s : State) : exec (.bqin f) s = execBqin f s := rfl

theorem exec_bqout (f : BargeForm) (s : State) : exec (.bqout f) s = execBqout f s := rfl

theorem exec_baddr (f : BargeForm) (s : State) : exec (.baddr f) s = execBaddr f s := rfl

theorem exec_bcopy (f : BargeForm) (s : State) : exec (.bcopy f) s = execBcopy f s := rfl

theorem exec_bgath (f : BargeForm) (s : State) : exec (.bgath f) s = execBgath f s := rfl

theorem exec_bscat (f : BargeForm) (s : State) : exec (.bscat f) s = execBscat f s := rfl

theorem exec_bpool (f : BargeForm) (s : State) : exec (.bpool f) s = execBpool f s := rfl

theorem exec_barrNb (f : BargeForm) (s : State) : exec (.barrNb f) s = execBarrNb f s := rfl

theorem exec_barrSc (f : BargeForm) (s : State) : exec (.barrSc f) s = execBarrSc f s := rfl

theorem exec_bsem (f : BargeForm) (s : State) : exec (.bsem f) s = execBsem f s := rfl

theorem exec_bwait (f : BargeForm) (s : State) : exec (.bwait f) s = execBwait f s := rfl

theorem exec_bwaitSc (f : BargeForm) (s : State) : exec (.bwaitSc f) s = execBwaitSc f s := rfl

theorem exec_bwaitNb (f : BargeForm) (s : State) : exec (.bwaitNb f) s = execBwaitNb f s := rfl

theorem exec_bfence (f : BargeForm) (s : State) : exec (.bfence f) s = execBfence f s := rfl

theorem exec_btok (f : BargeForm) (s : State) : exec (.btok f) s = execBtok f s := rfl

theorem exec_longLatencyFlag (grp flag : Nat) (s : State) : exec (.longLatencyFlag grp flag) s = execLongLatencyFlag grp flag s := rfl

theorem exec_birspiReceived (granule line : Nat) (dirty : Option Nat) (s : State) : exec (.birspiReceived granule line dirty) s = execBirspiReceived granule line dirty s := rfl

theorem exec_memberRendezvous (tag kind g sbytes sender : Nat) (s : State) : exec (.memberRendezvous tag kind g sbytes sender) s = execMemberRendezvous tag kind g sbytes sender s := rfl

theorem exec_portLinkTraining (port : Nat) (cxl : Bool) (rate width : Nat) (s : State) : exec (.portLinkTraining port cxl rate width) s = execPortLinkTraining port cxl rate width s := rfl

end Sys2Proof.Laws
end

