-- ==== Sys2Proof/Laws/Encoding.lean ====
section
/-! SUPPORT. What a field of an encoded word reads back as: for base words (R84), extended words (R85) and barge words
(R268), each field of the word that the encoder writes is the field it was given. -/

namespace Sys2Proof.Laws

open Sys2Proof

/-! ### Base words -/

theorem base_word_len (major idx len : Nat) (f : BaseForm) :
    (f.word major idx len).extractLsb' 0 2 = BitVec.ofNat 2 len := by
  simp only [BaseForm.word]
  rw [BitVec.extractLsb'_append_eq_of_add_le (by decide)]
  simp

theorem base_word_major (major idx len : Nat) (f : BaseForm) :
    (f.word major idx len).extractLsb' 2 6 = BitVec.ofNat 6 major := by
  simp only [BaseForm.word]
  rw [BitVec.extractLsb'_append_eq_of_le (by decide), BitVec.extractLsb'_append_eq_of_add_le (by decide)]
  simp

theorem base_word_idx (major idx len : Nat) (f : BaseForm) :
    (f.word major idx len).extractLsb' 30 2 = BitVec.ofNat 2 idx := by
  simp only [BaseForm.word]
  repeat rw [BitVec.extractLsb'_append_eq_of_le (by decide)]
  simp

/-- Every field of a base word reads back. -/
theorem base_word_fields (major idx len : Nat) (f : BaseForm) : BaseForm.ofWord (f.word major idx len) = f := by
  obtain ⟨neg, guard, d, a, b⟩ := f
  simp only [BaseForm.ofWord, BaseForm.word, BaseForm.mk.injEq]
  refine ⟨?_, ?_, ?_, ?_, ?_⟩ <;>
    first
    | (repeat rw [BitVec.extractLsb'_append_eq_of_le (by decide)]
       try rw [BitVec.extractLsb'_append_eq_of_add_le (by decide)]
       simp; done)
    | (repeat rw [BitVec.getLsbD_append]
       simp; done)

/-! ### Extended words -/

theorem ext_word0_len (major idx : Nat) (f : ExtForm) :
    (f.word0 major idx).extractLsb' 0 2 = if f.lit.isSome then 3#2 else 1#2 := by
  simp only [ExtForm.word0]
  rw [BitVec.extractLsb'_append_eq_of_add_le (by decide)]
  simp

theorem ext_word0_major (major idx : Nat) (f : ExtForm) :
    (f.word0 major idx).extractLsb' 2 6 = BitVec.ofNat 6 major := by
  simp only [ExtForm.word0]
  rw [BitVec.extractLsb'_append_eq_of_le (by decide), BitVec.extractLsb'_append_eq_of_add_le (by decide)]
  simp

theorem ext_word0_idx (major idx : Nat) (f : ExtForm) :
    (f.word0 major idx).extractLsb' 8 4 = BitVec.ofNat 4 idx := by
  simp only [ExtForm.word0]
  rw [BitVec.extractLsb'_append_eq_of_le (by decide), BitVec.extractLsb'_append_eq_of_le (by decide),
    BitVec.extractLsb'_append_eq_of_add_le (by decide)]
  simp

theorem ext_word0_top (major idx : Nat) (f : ExtForm) : (f.word0 major idx).getLsbD 31 = false := by
  simp only [ExtForm.word0]
  repeat rw [BitVec.getLsbD_append]
  simp

/-- Every field of the three extended words reads back. -/
theorem ext_words_fields (major idx : Nat) (f : ExtForm) :
    ExtForm.ofWords (f.word0 major idx) f.word1 f.word2 f.lit = { f with short := false } := by
  obtain ⟨short, neg, guard, ty, d, a, b, c, mods, mask, outv, out, lit⟩ := f
  simp only [ExtForm.ofWords, ExtForm.word0, ExtForm.word1, ExtForm.word2, ExtForm.mk.injEq]
  refine ⟨trivial, ?_, ?_, ?_, ?_, ?_, ?_, ?_, ?_, ?_, ?_, ?_, trivial⟩ <;>
    first
    | (repeat rw [BitVec.extractLsb'_append_eq_of_le (by decide)]
       try rw [BitVec.extractLsb'_append_eq_of_add_le (by decide)]
       simp; done)
    | (repeat rw [BitVec.getLsbD_append]
       simp; done)

/-- The literal's two words join to the literal. -/
theorem literal_words (v : BitVec 64) : v.extractLsb' 32 32 ++ v.extractLsb' 0 32 = v := by
  apply BitVec.eq_of_getLsbD_eq
  intro i hi
  rw [BitVec.getLsbD_append]
  have e : ¬ i < 32 → 32 + (i - 32) = i := by omega
  have l : i - 32 < 32 := by omega
  by_cases h : i < 32 <;> simp [h, l, e]

/-! ### Barge words -/

theorem barge_word_op (op : Nat) (f : BargeForm) : (f.word op).extractLsb' 58 6 = BitVec.ofNat 6 op := by
  simp only [BargeForm.word]
  repeat rw [BitVec.extractLsb'_append_eq_of_le (by decide)]
  simp

/-- Every field of a barge word reads back. -/
theorem barge_word_fields (op : Nat) (f : BargeForm) :
    ({ d := (f.word op).extractLsb' 54 4, a := (f.word op).extractLsb' 50 4, b := (f.word op).extractLsb' 46 4
       i := (f.word op).getLsbD 45, x := (f.word op).extractLsb' 32 13, imm := (f.word op).extractLsb' 0 32 } : BargeForm) = f := by
  obtain ⟨d, a, b, i, x, imm⟩ := f
  simp only [BargeForm.word, BargeForm.mk.injEq]
  refine ⟨?_, ?_, ?_, ?_, ?_, ?_⟩ <;>
    first
    | (repeat rw [BitVec.extractLsb'_append_eq_of_le (by decide)]
       try rw [BitVec.extractLsb'_append_eq_of_add_le (by decide)]
       simp; done)
    | (repeat rw [BitVec.getLsbD_append]
       simp; done)

end Sys2Proof.Laws
end

