-- ==== Sys2Proof/Laws/Decoding.lean ====
section
/-! SUPPORT. An encoding and the instruction it stands for: the instruction's own encoding is the one that was decoded, and the machine,
which runs encodings, runs `exec` of that instruction. -/

namespace Sys2Proof.Laws

open Sys2Proof Sys2Proof.Machine

set_option maxRecDepth 4000

/-! ### What a decoded instruction encodes as -/

/-- Base words. -/
theorem enc_of_base (m x : Nat) (f : BaseForm) (i : Instr) (h : mkBase m x f = some i) : i.enc = .base m x f ∧ i.formOk = true := by
  unfold mkBase at h
  split at h
  all_goals first
    | (cases h; done)
    | (split at h <;> first
        | (cases h; done)
        | (injection h with h; subst h; exact ⟨rfl, rfl⟩))

/-- A range of queues is one half or the other. -/
theorem queue_halves (n : BitVec 11) : isQueue n 0 63 = (isQueue n 0 31 || isQueue n 32 63) := by
  unfold isQueue
  rw [Bool.eq_iff_iff]
  simp only [Bool.or_eq_true, Bool.and_eq_true, decide_eq_true_eq]
  omega

/-- The two halves do not meet. -/
theorem queue_apart (n : BitVec 11) (h : isQueue n 0 31 = true) : isQueue n 32 63 = false := by
  revert h
  simp only [isQueue, Bool.and_eq_true, decide_eq_true_eq, Bool.and_eq_false_iff, decide_eq_false_iff_not]
  omega

/-- The opcode of `mov`. -/
theorem enc_of_mov (f : ExtForm) : (mkMov f).enc = .ext 5 0 f ∧ (mkMov f).formOk = true := by
  have hd := queue_halves f.d
  have ha := queue_halves f.a
  have xd := queue_apart f.d
  have xa := queue_apart f.a
  unfold mkMov
  repeat' split
  all_goals refine ⟨rfl, ?_⟩
  all_goals simp only [Instr.formOk]
  all_goals
    cases h1 : isQueue f.d 0 63 <;> cases h2 : isQueue f.a 0 63 <;> cases h3 : isQueue f.d 0 31 <;> cases h4 : isQueue f.d 32 63 <;>
      cases h5 : isQueue f.a 0 31 <;> cases h6 : isQueue f.a 32 63 <;> simp_all

/-- The opcode of `swr`. -/
theorem enc_of_swr (f : ExtForm) : (mkSwr f).enc = .ext 0x1F 1 f ∧ (mkSwr f).formOk = true := by
  simp only [mkSwr]
  repeat' split
  all_goals refine ⟨rfl, ?_⟩
  all_goals simp [Instr.formOk]
  all_goals omega

/-- The opcode of `rtt`, of a kind that exists. -/
theorem enc_of_rtt (f : ExtForm) (h : bits f.mods.toNat 0 2 ≠ 3) : (mkRtt f).enc = .ext 0x27 1 f ∧ (mkRtt f).formOk = true := by
  have hb : bits f.mods.toNat 0 2 < 4 := by simp only [bits]; omega
  unfold mkRtt
  repeat' split
  all_goals refine ⟨rfl, ?_⟩
  all_goals simp [Instr.formOk]
  all_goals omega

/-- Extended forms, but for a kind of `rtt` that does not exist. -/
theorem enc_of_ext (m x : Nat) (f : ExtForm) (i : Instr) (h : mkExt m x f = some i) (hr : m = 0x27 → x = 1 → bits f.mods.toNat 0 2 ≠ 3) :
    i.enc = .ext m x f ∧ i.formOk = true := by
  unfold mkExt at h
  split at h
  all_goals first
    | (cases h; done)
    | (split at h <;> first
        | (cases h; done)
        | (injection h with h; subst h; exact ⟨rfl, rfl⟩)
        | (injection h with h; subst h; exact enc_of_mov f)
        | (injection h with h; subst h; exact enc_of_swr f)
        | (injection h with h; subst h; exact enc_of_rtt f (hr rfl rfl))
        | (injection h with h; subst h; split <;> (refine ⟨rfl, ?_⟩; simp_all [Instr.formOk])))

/-- Barge words. -/
theorem enc_of_barge (op : Nat) (f : BargeForm) (i : Instr) (h : mkBarge op f = some i) : i.enc = .barge op f ∧ i.formOk = true := by
  unfold mkBarge at h
  split at h
  all_goals first
    | (cases h; done)
    | (injection h with h; subst h; exact ⟨rfl, rfl⟩)
    | (injection h with h; subst h; repeat' split
       all_goals (refine ⟨rfl, ?_⟩; simp_all [Instr.formOk]))

/-! ### What runs -/

/-- A base word runs its instruction. -/
theorem run_base (m x : Nat) (f : BaseForm) (i : Instr) (s : State) (h : mkBase m x f = some i) : runBase m x f s = exec i s := by
  unfold mkBase at h
  unfold runBase
  split at h
  all_goals first
    | (cases h; done)
    | (split at h <;> first
        | (cases h; done)
        | (injection h with h; subst h; rfl))

/-- `mov` and the queues. -/
theorem run_mov (f : ExtForm) (s : State) : runMov f s = exec (mkMov f) s := by
  unfold runMov mkMov
  repeat' split
  all_goals rfl

/-- `swr`. -/
theorem run_swr (f : ExtForm) (s : State) : runSwr f s = exec (mkSwr f) s := by
  simp only [runSwr, mkSwr]
  repeat' split
  all_goals rfl

/-- `rtt`. -/
theorem run_rtt (f : ExtForm) (s : State) : runRtt f s = exec (mkRtt f) s := by
  unfold runRtt mkRtt
  repeat' split
  all_goals rfl

set_option maxRecDepth 30000 in
/-- An extended form runs its instruction. -/
theorem run_ext (m x : Nat) (f : ExtForm) (i : Instr) (s : State) (h : mkExt m x f = some i) : runExt m x f s = exec i s := by
  unfold mkExt at h
  unfold runExt
  split at h
  all_goals first
    | (cases h; done)
    | (split at h <;> first
        | (cases h; done)
        | (injection h with h; subst h; rfl)
        | (injection h with h; subst h; exact run_mov f s)
        | (injection h with h; subst h; exact run_swr f s)
        | (injection h with h; subst h; exact run_rtt f s)
        | (injection h with h; subst h; show _ = exec (ite _ _ _) s; rw [apply_ite (fun j => exec j s)]; rfl))

/-- A barge word runs its instruction. -/
theorem run_barge (op : Nat) (f : BargeForm) (i : Instr) (s : State) (h : mkBarge op f = some i) : runBarge op f s = exec i s := by
  unfold mkBarge at h
  unfold runBarge
  split at h
  all_goals first
    | (cases h; done)
    | (injection h with h; subst h; rfl)
    | (injection h with h; subst h; (try simp only []); repeat' split
       all_goals rfl)

/-- The machine runs the instruction that an encoding stands for. -/
theorem run_enc (e : Enc) (i : Instr) (s : State) (h : e.instr = some i) : runEnc e s = exec i s := by
  cases e with
  | step => cases h
  | base m x f => exact run_base m x f i s h
  | ext m x f => exact run_ext m x f i s h
  | barge op f => exact run_barge op f i s h

end Sys2Proof.Laws
end

