-- ==== Sys2Proof/Laws/Sparse.lean ====
section
/-! SUPPORT. The laws of sparse tables: reading what was written, leaving every other key alone, and keeping the canonical form
(keys strictly rising, no entry equal to the default). -/

namespace Sys2Proof.Laws

open Sys2Proof

variable {α : Type}

/-! ### Reading -/

@[simp] theorem get_nil (d : α) (k : Nat) : Sparse.get d [] k = d := rfl

theorem get_erase_same (d : α) (m : Sparse α) (k : Nat) : Sparse.get d (Sparse.erase m k) k = d := by
  induction m with
  | nil => rfl
  | cons p m ih =>
    obtain ⟨k', v⟩ := p
    by_cases h : k = k' <;> simp [Sparse.erase, Sparse.get, h]
    · rw [← h]; exact ih
    · exact ih

theorem get_erase_other (d : α) (m : Sparse α) (k j : Nat) (h : j ≠ k) :
    Sparse.get d (Sparse.erase m k) j = Sparse.get d m j := by
  induction m with
  | nil => rfl
  | cons p m ih =>
    obtain ⟨k', v⟩ := p
    by_cases hk : k = k'
    · have hj : j ≠ k' := hk ▸ h
      simp only [Sparse.erase, Sparse.get, hk, hj, if_true, if_false]
      rw [← hk]; exact ih
    · by_cases hj : j = k' <;> simp [Sparse.erase, Sparse.get, hk, hj]
      exact ih

theorem get_insert_same (d : α) (m : Sparse α) (k : Nat) (v : α) : Sparse.get d (Sparse.insert m k v) k = v := by
  induction m with
  | nil => simp [Sparse.insert, Sparse.get]
  | cons p m ih =>
    obtain ⟨k', v'⟩ := p
    simp only [Sparse.insert]
    split
    · simp [Sparse.get]
    · split
      · simp [Sparse.get]
      · simp [Sparse.get, *]

theorem get_insert_other (d : α) (m : Sparse α) (k j : Nat) (v : α) (h : j ≠ k) :
    Sparse.get d (Sparse.insert m k v) j = Sparse.get d m j := by
  induction m with
  | nil => simp [Sparse.insert, Sparse.get, h]
  | cons p m ih =>
    obtain ⟨k', v'⟩ := p
    simp only [Sparse.insert]
    split
    · simp [Sparse.get, h]
    · split
      · next h1 h2 => subst h2; simp [Sparse.get, h]
      · by_cases hj : j = k' <;> simp [Sparse.get, hj]
        exact ih

/-- A read after a write to the same key gives the value written. -/
@[simp] theorem get_set_same [DecidableEq α] (d : α) (m : Sparse α) (k : Nat) (v : α) :
    Sparse.get d (Sparse.set d m k v) k = v := by
  simp only [Sparse.set]
  split
  · next h => rw [get_erase_same, h]
  · exact get_insert_same d m k v

/-- A write leaves every other key alone. -/
theorem get_set_other [DecidableEq α] (d : α) (m : Sparse α) (k j : Nat) (v : α) (h : j ≠ k) :
    Sparse.get d (Sparse.set d m k v) j = Sparse.get d m j := by
  simp only [Sparse.set]
  split
  · exact get_erase_other d m k j h
  · exact get_insert_other d m k j v h

/-- Both at once. -/
theorem get_set [DecidableEq α] (d : α) (m : Sparse α) (k j : Nat) (v : α) :
    Sparse.get d (Sparse.set d m k v) j = if j = k then v else Sparse.get d m j := by
  by_cases h : j = k
  · subst h; simp
  · simp [h, get_set_other d m k j v h]

/-! ### The canonical form -/

theorem above_mono (k j : Nat) (m : Sparse α) (h : j ≤ k) (hm : Sparse.above k m = true) : Sparse.above j m = true := by
  cases m with
  | nil => rfl
  | cons p m =>
    simp only [Sparse.above, Bool.and_eq_true, decide_eq_true_eq] at *
    exact ⟨Nat.lt_of_le_of_lt h hm.1, hm.2⟩

theorem above_erase (k j : Nat) (m : Sparse α) (h : Sparse.above k m = true) : Sparse.above k (Sparse.erase m j) = true := by
  induction m generalizing k with
  | nil => rfl
  | cons p m ih =>
    obtain ⟨k', v⟩ := p
    simp only [Sparse.above, Bool.and_eq_true, decide_eq_true_eq] at h
    simp only [Sparse.erase]
    split
    · exact ih k (above_mono k' k m (Nat.le_of_lt h.1) h.2)
    · simp only [Sparse.above, Bool.and_eq_true, decide_eq_true_eq]
      exact ⟨h.1, ih k' h.2⟩

theorem above_insert (k j : Nat) (v : α) (m : Sparse α) (hj : k < j) (h : Sparse.above k m = true) :
    Sparse.above k (Sparse.insert m j v) = true := by
  induction m generalizing k with
  | nil => simp [Sparse.insert, Sparse.above, hj]
  | cons p m ih =>
    obtain ⟨k', v'⟩ := p
    simp only [Sparse.above, Bool.and_eq_true, decide_eq_true_eq] at h
    simp only [Sparse.insert]
    split
    · next h1 => simp only [Sparse.above, Bool.and_eq_true, decide_eq_true_eq]; exact ⟨hj, h1, h.2⟩
    · split
      · next h2 => simp only [Sparse.above, Bool.and_eq_true, decide_eq_true_eq]; exact ⟨hj, h2 ▸ h.2⟩
      · simp only [Sparse.above, Bool.and_eq_true, decide_eq_true_eq]
        exact ⟨h.1, ih k' (by omega) h.2⟩

theorem wf_erase [DecidableEq α] (d : α) (m : Sparse α) (k : Nat) (h : Sparse.wf d m = true) :
    Sparse.wf d (Sparse.erase m k) = true := by
  induction m with
  | nil => rfl
  | cons p m ih =>
    obtain ⟨k', v⟩ := p
    simp only [Sparse.wf, Bool.and_eq_true] at h
    simp only [Sparse.erase]
    split
    · exact ih h.2
    · simp only [Sparse.wf, Bool.and_eq_true]
      exact ⟨⟨h.1.1, above_erase k' k m h.1.2⟩, ih h.2⟩

theorem wf_insert [DecidableEq α] (d : α) (m : Sparse α) (k : Nat) (v : α) (hv : v ≠ d) (h : Sparse.wf d m = true) :
    Sparse.wf d (Sparse.insert m k v) = true := by
  induction m with
  | nil => simp [Sparse.insert, Sparse.wf, Sparse.above, hv]
  | cons p m ih =>
    obtain ⟨k', v'⟩ := p
    have h0 := h
    simp only [Sparse.wf, Bool.and_eq_true] at h
    simp only [Sparse.insert]
    split
    · next h1 =>
      simp only [Sparse.wf, Bool.and_eq_true]
      refine ⟨⟨by simp [hv], ?_⟩, h⟩
      simp only [Sparse.above, Bool.and_eq_true, decide_eq_true_eq]
      exact ⟨h1, h.1.2⟩
    · split
      · next h2 =>
        simp only [Sparse.wf, Bool.and_eq_true]
        exact ⟨⟨by simp [hv], h2 ▸ h.1.2⟩, h.2⟩
      · simp only [Sparse.wf, Bool.and_eq_true]
        exact ⟨⟨h.1.1, above_insert k' k v m (by omega) h.1.2⟩, ih h.2⟩

/-- A write keeps the canonical form. -/
theorem wf_set [DecidableEq α] (d : α) (m : Sparse α) (k : Nat) (v : α) (h : Sparse.wf d m = true) :
    Sparse.wf d (Sparse.set d m k v) = true := by
  simp only [Sparse.set]
  split
  · exact wf_erase d m k h
  · next hv => exact wf_insert d m k v hv h

theorem above_filter (k : Nat) (q : Nat × α → Bool) (m : Sparse α) (h : Sparse.above k m = true) :
    Sparse.above k (m.filter q) = true := by
  induction m generalizing k with
  | nil => rfl
  | cons p m ih =>
    simp only [Sparse.above, Bool.and_eq_true, decide_eq_true_eq] at h
    simp only [List.filter_cons]
    split
    · simp only [Sparse.above, Bool.and_eq_true, decide_eq_true_eq]
      exact ⟨h.1, ih _ h.2⟩
    · exact ih k (above_mono _ _ _ (Nat.le_of_lt h.1) h.2)

/-- Dropping entries keeps the canonical form. -/
theorem wf_filter [DecidableEq α] (d : α) (q : Nat × α → Bool) (m : Sparse α) (h : Sparse.wf d m = true) :
    Sparse.wf d (m.filter q) = true := by
  induction m with
  | nil => rfl
  | cons p m ih =>
    obtain ⟨k', v⟩ := p
    simp only [Sparse.wf, Bool.and_eq_true] at h
    simp only [List.filter_cons]
    split
    · simp only [Sparse.wf, Bool.and_eq_true]
      exact ⟨⟨h.1.1, above_filter _ _ _ h.1.2⟩, ih h.2⟩
    · exact ih h.2

/-- Canonical tables that read alike are equal data: their first entries agree. -/
theorem get_below (d : α) (m : Sparse α) (k j : Nat) (h : Sparse.above k m = true) (hj : j ≤ k) : Sparse.get d m j = d := by
  induction m generalizing k with
  | nil => rfl
  | cons p m ih =>
    obtain ⟨k', v⟩ := p
    simp only [Sparse.above, Bool.and_eq_true, decide_eq_true_eq] at h
    have : j ≠ k' := by omega
    simp only [Sparse.get, this, if_false]
    exact ih k' h.2 (by omega)

/-- Canonical tables that read alike are equal data. -/
theorem wf_ext [DecidableEq α] (d : α) (m n : Sparse α) (hm : Sparse.wf d m = true) (hn : Sparse.wf d n = true)
    (h : ∀ k, Sparse.get d m k = Sparse.get d n k) : m = n := by
  induction m generalizing n with
  | nil =>
    cases n with
    | nil => rfl
    | cons q n =>
      obtain ⟨k, v⟩ := q
      simp only [Sparse.wf, Bool.and_eq_true, decide_eq_true_eq] at hn
      have := h k
      simp only [Sparse.get, if_true] at this
      exact absurd this.symm hn.1.1
  | cons p m ih =>
    obtain ⟨k, v⟩ := p
    cases n with
    | nil =>
      simp only [Sparse.wf, Bool.and_eq_true, decide_eq_true_eq] at hm
      have := h k
      simp only [Sparse.get, if_true] at this
      exact absurd this hm.1.1
    | cons q n =>
      obtain ⟨j, w⟩ := q
      simp only [Sparse.wf, Bool.and_eq_true, decide_eq_true_eq] at hm hn
      have hkj : k = j := by
        rcases Nat.lt_trichotomy k j with hlt | heq | hgt
        · have := h k
          simp only [Sparse.get, if_true, Nat.ne_of_lt hlt, if_false] at this
          rw [get_below d n j k hn.1.2 (Nat.le_of_lt hlt)] at this
          exact absurd this hm.1.1
        · exact heq
        · have := h j
          simp only [Sparse.get, if_true, Nat.ne_of_lt hgt, if_false] at this
          rw [get_below d m k j hm.1.2 (Nat.le_of_lt hgt)] at this
          exact absurd this.symm hn.1.1
      subst hkj
      have hv : v = w := by simpa [Sparse.get] using h k
      subst hv
      congr 1
      refine ih n hm.2 hn.2 (fun i => ?_)
      by_cases hi : i = k
      · subst hi
        rw [get_below d m i i hm.1.2 (Nat.le_refl i), get_below d n i i hn.1.2 (Nat.le_refl i)]
      · simpa [Sparse.get, hi] using h i

end Sys2Proof.Laws
end

