-- ==== Sys2Proof/Laws/State.lean ====
section
/-! SUPPORT. What each update of State does to each of its fields, true by definition, and what a table reads after an entry of it has
changed: later proofs never unfold a record update. -/

namespace Sys2Proof.Laws

open Sys2Proof Sys2Proof.Machine

variable (s : State)

/-! ### Fields -/

@[simp] theorem setGroup_sched (k : Nat) (g : Group) : (s.setGroup k g).sched = s.sched := rfl

@[simp] theorem setGroup_mem (k : Nat) (g : Group) : (s.setGroup k g).mem = s.mem := rfl

@[simp] theorem setGroup_xlat (k : Nat) (g : Group) : (s.setGroup k g).xlat = s.xlat := rfl

@[simp] theorem setGroup_scr (k : Nat) (g : Group) : (s.setGroup k g).scr = s.scr := rfl

@[simp] theorem setGroup_work (k : Nat) (g : Group) : (s.setGroup k g).work = s.work := rfl

@[simp] theorem setGroup_teams (k : Nat) (g : Group) : (s.setGroup k g).teams = s.teams := rfl

@[simp] theorem setGroup_groups (k : Nat) (g : Group) : (s.setGroup k g).groups = Sparse.set {} s.groups k g := rfl

@[simp] theorem setGroup_ops (k : Nat) (g : Group) : (s.setGroup k g).ops = s.ops := rfl

@[simp] theorem setGroup_barges (k : Nat) (g : Group) : (s.setGroup k g).barges = s.barges := rfl

@[simp] theorem setGroup_cores (k : Nat) (g : Group) : (s.setGroup k g).cores = s.cores := rfl

@[simp] theorem setGroup_near (k : Nat) (g : Group) : (s.setGroup k g).near = s.near := rfl

@[simp] theorem setGroup_fabric (k : Nat) (g : Group) : (s.setGroup k g).fabric = s.fabric := rfl

@[simp] theorem setGroup_host (k : Nat) (g : Group) : (s.setGroup k g).host = s.host := rfl

@[simp] theorem setGroup_mgmt (k : Nat) (g : Group) : (s.setGroup k g).mgmt = s.mgmt := rfl

@[simp] theorem modGroup_sched (k : Nat) (f : Group → Group) : (s.modGroup k f).sched = s.sched := rfl

@[simp] theorem modGroup_mem (k : Nat) (f : Group → Group) : (s.modGroup k f).mem = s.mem := rfl

@[simp] theorem modGroup_xlat (k : Nat) (f : Group → Group) : (s.modGroup k f).xlat = s.xlat := rfl

@[simp] theorem modGroup_scr (k : Nat) (f : Group → Group) : (s.modGroup k f).scr = s.scr := rfl

@[simp] theorem modGroup_work (k : Nat) (f : Group → Group) : (s.modGroup k f).work = s.work := rfl

@[simp] theorem modGroup_teams (k : Nat) (f : Group → Group) : (s.modGroup k f).teams = s.teams := rfl

@[simp] theorem modGroup_groups (k : Nat) (f : Group → Group) : (s.modGroup k f).groups = Sparse.set {} s.groups k (f (s.group k)) := rfl

@[simp] theorem modGroup_ops (k : Nat) (f : Group → Group) : (s.modGroup k f).ops = s.ops := rfl

@[simp] theorem modGroup_barges (k : Nat) (f : Group → Group) : (s.modGroup k f).barges = s.barges := rfl

@[simp] theorem modGroup_cores (k : Nat) (f : Group → Group) : (s.modGroup k f).cores = s.cores := rfl

@[simp] theorem modGroup_near (k : Nat) (f : Group → Group) : (s.modGroup k f).near = s.near := rfl

@[simp] theorem modGroup_fabric (k : Nat) (f : Group → Group) : (s.modGroup k f).fabric = s.fabric := rfl

@[simp] theorem modGroup_host (k : Nat) (f : Group → Group) : (s.modGroup k f).host = s.host := rfl

@[simp] theorem modGroup_mgmt (k : Nat) (f : Group → Group) : (s.modGroup k f).mgmt = s.mgmt := rfl

@[simp] theorem setTeam_sched (k : Nat) (t : Team) : (s.setTeam k t).sched = s.sched := rfl

@[simp] theorem setTeam_mem (k : Nat) (t : Team) : (s.setTeam k t).mem = s.mem := rfl

@[simp] theorem setTeam_xlat (k : Nat) (t : Team) : (s.setTeam k t).xlat = s.xlat := rfl

@[simp] theorem setTeam_scr (k : Nat) (t : Team) : (s.setTeam k t).scr = s.scr := rfl

@[simp] theorem setTeam_work (k : Nat) (t : Team) : (s.setTeam k t).work = s.work := rfl

@[simp] theorem setTeam_teams (k : Nat) (t : Team) : (s.setTeam k t).teams = Sparse.set {} s.teams k t := rfl

@[simp] theorem setTeam_groups (k : Nat) (t : Team) : (s.setTeam k t).groups = s.groups := rfl

@[simp] theorem setTeam_ops (k : Nat) (t : Team) : (s.setTeam k t).ops = s.ops := rfl

@[simp] theorem setTeam_barges (k : Nat) (t : Team) : (s.setTeam k t).barges = s.barges := rfl

@[simp] theorem setTeam_cores (k : Nat) (t : Team) : (s.setTeam k t).cores = s.cores := rfl

@[simp] theorem setTeam_near (k : Nat) (t : Team) : (s.setTeam k t).near = s.near := rfl

@[simp] theorem setTeam_fabric (k : Nat) (t : Team) : (s.setTeam k t).fabric = s.fabric := rfl

@[simp] theorem setTeam_host (k : Nat) (t : Team) : (s.setTeam k t).host = s.host := rfl

@[simp] theorem setTeam_mgmt (k : Nat) (t : Team) : (s.setTeam k t).mgmt = s.mgmt := rfl

@[simp] theorem modTeam_sched (k : Nat) (f : Team → Team) : (s.modTeam k f).sched = s.sched := rfl

@[simp] theorem modTeam_mem (k : Nat) (f : Team → Team) : (s.modTeam k f).mem = s.mem := rfl

@[simp] theorem modTeam_xlat (k : Nat) (f : Team → Team) : (s.modTeam k f).xlat = s.xlat := rfl

@[simp] theorem modTeam_scr (k : Nat) (f : Team → Team) : (s.modTeam k f).scr = s.scr := rfl

@[simp] theorem modTeam_work (k : Nat) (f : Team → Team) : (s.modTeam k f).work = s.work := rfl

@[simp] theorem modTeam_teams (k : Nat) (f : Team → Team) : (s.modTeam k f).teams = Sparse.set {} s.teams k (f (s.team k)) := rfl

@[simp] theorem modTeam_groups (k : Nat) (f : Team → Team) : (s.modTeam k f).groups = s.groups := rfl

@[simp] theorem modTeam_ops (k : Nat) (f : Team → Team) : (s.modTeam k f).ops = s.ops := rfl

@[simp] theorem modTeam_barges (k : Nat) (f : Team → Team) : (s.modTeam k f).barges = s.barges := rfl

@[simp] theorem modTeam_cores (k : Nat) (f : Team → Team) : (s.modTeam k f).cores = s.cores := rfl

@[simp] theorem modTeam_near (k : Nat) (f : Team → Team) : (s.modTeam k f).near = s.near := rfl

@[simp] theorem modTeam_fabric (k : Nat) (f : Team → Team) : (s.modTeam k f).fabric = s.fabric := rfl

@[simp] theorem modTeam_host (k : Nat) (f : Team → Team) : (s.modTeam k f).host = s.host := rfl

@[simp] theorem modTeam_mgmt (k : Nat) (f : Team → Team) : (s.modTeam k f).mgmt = s.mgmt := rfl

@[simp] theorem setBarge_sched (k : Nat) (b : Barge) : (s.setBarge k b).sched = s.sched := rfl

@[simp] theorem setBarge_mem (k : Nat) (b : Barge) : (s.setBarge k b).mem = s.mem := rfl

@[simp] theorem setBarge_xlat (k : Nat) (b : Barge) : (s.setBarge k b).xlat = s.xlat := rfl

@[simp] theorem setBarge_scr (k : Nat) (b : Barge) : (s.setBarge k b).scr = s.scr := rfl

@[simp] theorem setBarge_work (k : Nat) (b : Barge) : (s.setBarge k b).work = s.work := rfl

@[simp] theorem setBarge_teams (k : Nat) (b : Barge) : (s.setBarge k b).teams = s.teams := rfl

@[simp] theorem setBarge_groups (k : Nat) (b : Barge) : (s.setBarge k b).groups = s.groups := rfl

@[simp] theorem setBarge_ops (k : Nat) (b : Barge) : (s.setBarge k b).ops = s.ops := rfl

@[simp] theorem setBarge_barges (k : Nat) (b : Barge) : (s.setBarge k b).barges = Sparse.set {} s.barges k b := rfl

@[simp] theorem setBarge_cores (k : Nat) (b : Barge) : (s.setBarge k b).cores = s.cores := rfl

@[simp] theorem setBarge_near (k : Nat) (b : Barge) : (s.setBarge k b).near = s.near := rfl

@[simp] theorem setBarge_fabric (k : Nat) (b : Barge) : (s.setBarge k b).fabric = s.fabric := rfl

@[simp] theorem setBarge_host (k : Nat) (b : Barge) : (s.setBarge k b).host = s.host := rfl

@[simp] theorem setBarge_mgmt (k : Nat) (b : Barge) : (s.setBarge k b).mgmt = s.mgmt := rfl

@[simp] theorem modBarge_sched (k : Nat) (f : Barge → Barge) : (s.modBarge k f).sched = s.sched := rfl

@[simp] theorem modBarge_mem (k : Nat) (f : Barge → Barge) : (s.modBarge k f).mem = s.mem := rfl

@[simp] theorem modBarge_xlat (k : Nat) (f : Barge → Barge) : (s.modBarge k f).xlat = s.xlat := rfl

@[simp] theorem modBarge_scr (k : Nat) (f : Barge → Barge) : (s.modBarge k f).scr = s.scr := rfl

@[simp] theorem modBarge_work (k : Nat) (f : Barge → Barge) : (s.modBarge k f).work = s.work := rfl

@[simp] theorem modBarge_teams (k : Nat) (f : Barge → Barge) : (s.modBarge k f).teams = s.teams := rfl

@[simp] theorem modBarge_groups (k : Nat) (f : Barge → Barge) : (s.modBarge k f).groups = s.groups := rfl

@[simp] theorem modBarge_ops (k : Nat) (f : Barge → Barge) : (s.modBarge k f).ops = s.ops := rfl

@[simp] theorem modBarge_barges (k : Nat) (f : Barge → Barge) : (s.modBarge k f).barges = Sparse.set {} s.barges k (f (s.barge k)) := rfl

@[simp] theorem modBarge_cores (k : Nat) (f : Barge → Barge) : (s.modBarge k f).cores = s.cores := rfl

@[simp] theorem modBarge_near (k : Nat) (f : Barge → Barge) : (s.modBarge k f).near = s.near := rfl

@[simp] theorem modBarge_fabric (k : Nat) (f : Barge → Barge) : (s.modBarge k f).fabric = s.fabric := rfl

@[simp] theorem modBarge_host (k : Nat) (f : Barge → Barge) : (s.modBarge k f).host = s.host := rfl

@[simp] theorem modBarge_mgmt (k : Nat) (f : Barge → Barge) : (s.modBarge k f).mgmt = s.mgmt := rfl

@[simp] theorem setCore_sched (k : Nat) (c : Core) : (s.setCore k c).sched = s.sched := rfl

@[simp] theorem setCore_mem (k : Nat) (c : Core) : (s.setCore k c).mem = s.mem := rfl

@[simp] theorem setCore_xlat (k : Nat) (c : Core) : (s.setCore k c).xlat = s.xlat := rfl

@[simp] theorem setCore_scr (k : Nat) (c : Core) : (s.setCore k c).scr = s.scr := rfl

@[simp] theorem setCore_work (k : Nat) (c : Core) : (s.setCore k c).work = s.work := rfl

@[simp] theorem setCore_teams (k : Nat) (c : Core) : (s.setCore k c).teams = s.teams := rfl

@[simp] theorem setCore_groups (k : Nat) (c : Core) : (s.setCore k c).groups = s.groups := rfl

@[simp] theorem setCore_ops (k : Nat) (c : Core) : (s.setCore k c).ops = s.ops := rfl

@[simp] theorem setCore_barges (k : Nat) (c : Core) : (s.setCore k c).barges = s.barges := rfl

@[simp] theorem setCore_cores (k : Nat) (c : Core) : (s.setCore k c).cores = Sparse.set {} s.cores k c := rfl

@[simp] theorem setCore_near (k : Nat) (c : Core) : (s.setCore k c).near = s.near := rfl

@[simp] theorem setCore_fabric (k : Nat) (c : Core) : (s.setCore k c).fabric = s.fabric := rfl

@[simp] theorem setCore_host (k : Nat) (c : Core) : (s.setCore k c).host = s.host := rfl

@[simp] theorem setCore_mgmt (k : Nat) (c : Core) : (s.setCore k c).mgmt = s.mgmt := rfl

@[simp] theorem modCore_sched (k : Nat) (f : Core → Core) : (s.modCore k f).sched = s.sched := rfl

@[simp] theorem modCore_mem (k : Nat) (f : Core → Core) : (s.modCore k f).mem = s.mem := rfl

@[simp] theorem modCore_xlat (k : Nat) (f : Core → Core) : (s.modCore k f).xlat = s.xlat := rfl

@[simp] theorem modCore_scr (k : Nat) (f : Core → Core) : (s.modCore k f).scr = s.scr := rfl

@[simp] theorem modCore_work (k : Nat) (f : Core → Core) : (s.modCore k f).work = s.work := rfl

@[simp] theorem modCore_teams (k : Nat) (f : Core → Core) : (s.modCore k f).teams = s.teams := rfl

@[simp] theorem modCore_groups (k : Nat) (f : Core → Core) : (s.modCore k f).groups = s.groups := rfl

@[simp] theorem modCore_ops (k : Nat) (f : Core → Core) : (s.modCore k f).ops = s.ops := rfl

@[simp] theorem modCore_barges (k : Nat) (f : Core → Core) : (s.modCore k f).barges = s.barges := rfl

@[simp] theorem modCore_cores (k : Nat) (f : Core → Core) : (s.modCore k f).cores = Sparse.set {} s.cores k (f (s.core k)) := rfl

@[simp] theorem modCore_near (k : Nat) (f : Core → Core) : (s.modCore k f).near = s.near := rfl

@[simp] theorem modCore_fabric (k : Nat) (f : Core → Core) : (s.modCore k f).fabric = s.fabric := rfl

@[simp] theorem modCore_host (k : Nat) (f : Core → Core) : (s.modCore k f).host = s.host := rfl

@[simp] theorem modCore_mgmt (k : Nat) (f : Core → Core) : (s.modCore k f).mgmt = s.mgmt := rfl

@[simp] theorem modEngine_sched (k : Nat) (f : Engine → Engine) : (s.modEngine k f).sched = s.sched := rfl

@[simp] theorem modEngine_mem (k : Nat) (f : Engine → Engine) : (s.modEngine k f).mem = s.mem := rfl

@[simp] theorem modEngine_xlat (k : Nat) (f : Engine → Engine) : (s.modEngine k f).xlat = s.xlat := rfl

@[simp] theorem modEngine_scr (k : Nat) (f : Engine → Engine) : (s.modEngine k f).scr = s.scr := rfl

@[simp] theorem modEngine_work (k : Nat) (f : Engine → Engine) : (s.modEngine k f).work = s.work := rfl

@[simp] theorem modEngine_teams (k : Nat) (f : Engine → Engine) : (s.modEngine k f).teams = s.teams := rfl

@[simp] theorem modEngine_groups (k : Nat) (f : Engine → Engine) : (s.modEngine k f).groups = s.groups := rfl

@[simp] theorem modEngine_ops (k : Nat) (f : Engine → Engine) : (s.modEngine k f).ops = s.ops := rfl

@[simp] theorem modEngine_barges (k : Nat) (f : Engine → Engine) : (s.modEngine k f).barges = s.barges := rfl

@[simp] theorem modEngine_cores (k : Nat) (f : Engine → Engine) : (s.modEngine k f).cores = Sparse.set {} s.cores k { s.core k with engine := f (s.engine k) } := rfl

@[simp] theorem modEngine_near (k : Nat) (f : Engine → Engine) : (s.modEngine k f).near = s.near := rfl

@[simp] theorem modEngine_fabric (k : Nat) (f : Engine → Engine) : (s.modEngine k f).fabric = s.fabric := rfl

@[simp] theorem modEngine_host (k : Nat) (f : Engine → Engine) : (s.modEngine k f).host = s.host := rfl

@[simp] theorem modEngine_mgmt (k : Nat) (f : Engine → Engine) : (s.modEngine k f).mgmt = s.mgmt := rfl

@[simp] theorem setLaunch_sched (k : Nat) (l : Launch) : (s.setLaunch k l).sched = s.sched := rfl

@[simp] theorem setLaunch_mem (k : Nat) (l : Launch) : (s.setLaunch k l).mem = s.mem := rfl

@[simp] theorem setLaunch_xlat (k : Nat) (l : Launch) : (s.setLaunch k l).xlat = s.xlat := rfl

@[simp] theorem setLaunch_scr (k : Nat) (l : Launch) : (s.setLaunch k l).scr = s.scr := rfl

@[simp] theorem setLaunch_work (k : Nat) (l : Launch) : (s.setLaunch k l).work = { s.work with launches := Sparse.set {} s.work.launches k l } := rfl

@[simp] theorem setLaunch_teams (k : Nat) (l : Launch) : (s.setLaunch k l).teams = s.teams := rfl

@[simp] theorem setLaunch_groups (k : Nat) (l : Launch) : (s.setLaunch k l).groups = s.groups := rfl

@[simp] theorem setLaunch_ops (k : Nat) (l : Launch) : (s.setLaunch k l).ops = s.ops := rfl

@[simp] theorem setLaunch_barges (k : Nat) (l : Launch) : (s.setLaunch k l).barges = s.barges := rfl

@[simp] theorem setLaunch_cores (k : Nat) (l : Launch) : (s.setLaunch k l).cores = s.cores := rfl

@[simp] theorem setLaunch_near (k : Nat) (l : Launch) : (s.setLaunch k l).near = s.near := rfl

@[simp] theorem setLaunch_fabric (k : Nat) (l : Launch) : (s.setLaunch k l).fabric = s.fabric := rfl

@[simp] theorem setLaunch_host (k : Nat) (l : Launch) : (s.setLaunch k l).host = s.host := rfl

@[simp] theorem setLaunch_mgmt (k : Nat) (l : Launch) : (s.setLaunch k l).mgmt = s.mgmt := rfl

@[simp] theorem modLaunch_sched (k : Nat) (f : Launch → Launch) : (s.modLaunch k f).sched = s.sched := rfl

@[simp] theorem modLaunch_mem (k : Nat) (f : Launch → Launch) : (s.modLaunch k f).mem = s.mem := rfl

@[simp] theorem modLaunch_xlat (k : Nat) (f : Launch → Launch) : (s.modLaunch k f).xlat = s.xlat := rfl

@[simp] theorem modLaunch_scr (k : Nat) (f : Launch → Launch) : (s.modLaunch k f).scr = s.scr := rfl

@[simp] theorem modLaunch_work (k : Nat) (f : Launch → Launch) : (s.modLaunch k f).work = { s.work with launches := Sparse.set {} s.work.launches k (f (s.launch k)) } := rfl

@[simp] theorem modLaunch_teams (k : Nat) (f : Launch → Launch) : (s.modLaunch k f).teams = s.teams := rfl

@[simp] theorem modLaunch_groups (k : Nat) (f : Launch → Launch) : (s.modLaunch k f).groups = s.groups := rfl

@[simp] theorem modLaunch_ops (k : Nat) (f : Launch → Launch) : (s.modLaunch k f).ops = s.ops := rfl

@[simp] theorem modLaunch_barges (k : Nat) (f : Launch → Launch) : (s.modLaunch k f).barges = s.barges := rfl

@[simp] theorem modLaunch_cores (k : Nat) (f : Launch → Launch) : (s.modLaunch k f).cores = s.cores := rfl

@[simp] theorem modLaunch_near (k : Nat) (f : Launch → Launch) : (s.modLaunch k f).near = s.near := rfl

@[simp] theorem modLaunch_fabric (k : Nat) (f : Launch → Launch) : (s.modLaunch k f).fabric = s.fabric := rfl

@[simp] theorem modLaunch_host (k : Nat) (f : Launch → Launch) : (s.modLaunch k f).host = s.host := rfl

@[simp] theorem modLaunch_mgmt (k : Nat) (f : Launch → Launch) : (s.modLaunch k f).mgmt = s.mgmt := rfl

@[simp] theorem setCluster_sched (k : Nat) (c : Cluster) : (s.setCluster k c).sched = s.sched := rfl

@[simp] theorem setCluster_mem (k : Nat) (c : Cluster) : (s.setCluster k c).mem = s.mem := rfl

@[simp] theorem setCluster_xlat (k : Nat) (c : Cluster) : (s.setCluster k c).xlat = s.xlat := rfl

@[simp] theorem setCluster_scr (k : Nat) (c : Cluster) : (s.setCluster k c).scr = s.scr := rfl

@[simp] theorem setCluster_work (k : Nat) (c : Cluster) : (s.setCluster k c).work = { s.work with clusters := Sparse.set {} s.work.clusters k c } := rfl

@[simp] theorem setCluster_teams (k : Nat) (c : Cluster) : (s.setCluster k c).teams = s.teams := rfl

@[simp] theorem setCluster_groups (k : Nat) (c : Cluster) : (s.setCluster k c).groups = s.groups := rfl

@[simp] theorem setCluster_ops (k : Nat) (c : Cluster) : (s.setCluster k c).ops = s.ops := rfl

@[simp] theorem setCluster_barges (k : Nat) (c : Cluster) : (s.setCluster k c).barges = s.barges := rfl

@[simp] theorem setCluster_cores (k : Nat) (c : Cluster) : (s.setCluster k c).cores = s.cores := rfl

@[simp] theorem setCluster_near (k : Nat) (c : Cluster) : (s.setCluster k c).near = s.near := rfl

@[simp] theorem setCluster_fabric (k : Nat) (c : Cluster) : (s.setCluster k c).fabric = s.fabric := rfl

@[simp] theorem setCluster_host (k : Nat) (c : Cluster) : (s.setCluster k c).host = s.host := rfl

@[simp] theorem setCluster_mgmt (k : Nat) (c : Cluster) : (s.setCluster k c).mgmt = s.mgmt := rfl

@[simp] theorem modCluster_sched (k : Nat) (f : Cluster → Cluster) : (s.modCluster k f).sched = s.sched := rfl

@[simp] theorem modCluster_mem (k : Nat) (f : Cluster → Cluster) : (s.modCluster k f).mem = s.mem := rfl

@[simp] theorem modCluster_xlat (k : Nat) (f : Cluster → Cluster) : (s.modCluster k f).xlat = s.xlat := rfl

@[simp] theorem modCluster_scr (k : Nat) (f : Cluster → Cluster) : (s.modCluster k f).scr = s.scr := rfl

@[simp] theorem modCluster_work (k : Nat) (f : Cluster → Cluster) : (s.modCluster k f).work = { s.work with clusters := Sparse.set {} s.work.clusters k (f (s.cluster k)) } := rfl

@[simp] theorem modCluster_teams (k : Nat) (f : Cluster → Cluster) : (s.modCluster k f).teams = s.teams := rfl

@[simp] theorem modCluster_groups (k : Nat) (f : Cluster → Cluster) : (s.modCluster k f).groups = s.groups := rfl

@[simp] theorem modCluster_ops (k : Nat) (f : Cluster → Cluster) : (s.modCluster k f).ops = s.ops := rfl

@[simp] theorem modCluster_barges (k : Nat) (f : Cluster → Cluster) : (s.modCluster k f).barges = s.barges := rfl

@[simp] theorem modCluster_cores (k : Nat) (f : Cluster → Cluster) : (s.modCluster k f).cores = s.cores := rfl

@[simp] theorem modCluster_near (k : Nat) (f : Cluster → Cluster) : (s.modCluster k f).near = s.near := rfl

@[simp] theorem modCluster_fabric (k : Nat) (f : Cluster → Cluster) : (s.modCluster k f).fabric = s.fabric := rfl

@[simp] theorem modCluster_host (k : Nat) (f : Cluster → Cluster) : (s.modCluster k f).host = s.host := rfl

@[simp] theorem modCluster_mgmt (k : Nat) (f : Cluster → Cluster) : (s.modCluster k f).mgmt = s.mgmt := rfl

@[simp] theorem modDie_sched (k : Nat) (f : DieState → DieState) : (s.modDie k f).sched = s.sched := rfl

@[simp] theorem modDie_mem (k : Nat) (f : DieState → DieState) : (s.modDie k f).mem = s.mem := rfl

@[simp] theorem modDie_xlat (k : Nat) (f : DieState → DieState) : (s.modDie k f).xlat = s.xlat := rfl

@[simp] theorem modDie_scr (k : Nat) (f : DieState → DieState) : (s.modDie k f).scr = s.scr := rfl

@[simp] theorem modDie_work (k : Nat) (f : DieState → DieState) : (s.modDie k f).work = s.work := rfl

@[simp] theorem modDie_teams (k : Nat) (f : DieState → DieState) : (s.modDie k f).teams = s.teams := rfl

@[simp] theorem modDie_groups (k : Nat) (f : DieState → DieState) : (s.modDie k f).groups = s.groups := rfl

@[simp] theorem modDie_ops (k : Nat) (f : DieState → DieState) : (s.modDie k f).ops = s.ops := rfl

@[simp] theorem modDie_barges (k : Nat) (f : DieState → DieState) : (s.modDie k f).barges = s.barges := rfl

@[simp] theorem modDie_cores (k : Nat) (f : DieState → DieState) : (s.modDie k f).cores = s.cores := rfl

@[simp] theorem modDie_near (k : Nat) (f : DieState → DieState) : (s.modDie k f).near = s.near := rfl

@[simp] theorem modDie_fabric (k : Nat) (f : DieState → DieState) : (s.modDie k f).fabric = s.fabric := rfl

@[simp] theorem modDie_host (k : Nat) (f : DieState → DieState) : (s.modDie k f).host = s.host := rfl

@[simp] theorem modDie_mgmt (k : Nat) (f : DieState → DieState) : (s.modDie k f).mgmt = { s.mgmt with dies := Sparse.set {} s.mgmt.dies k (f (s.die k)) } := rfl

@[simp] theorem modSlice_sched (k : Nat) (f : SliceState → SliceState) : (s.modSlice k f).sched = s.sched := rfl

@[simp] theorem modSlice_mem (k : Nat) (f : SliceState → SliceState) : (s.modSlice k f).mem = s.mem := rfl

@[simp] theorem modSlice_xlat (k : Nat) (f : SliceState → SliceState) : (s.modSlice k f).xlat = { s.xlat with slices := Sparse.set {} s.xlat.slices k (f (s.slice k)) } := rfl

@[simp] theorem modSlice_scr (k : Nat) (f : SliceState → SliceState) : (s.modSlice k f).scr = s.scr := rfl

@[simp] theorem modSlice_work (k : Nat) (f : SliceState → SliceState) : (s.modSlice k f).work = s.work := rfl

@[simp] theorem modSlice_teams (k : Nat) (f : SliceState → SliceState) : (s.modSlice k f).teams = s.teams := rfl

@[simp] theorem modSlice_groups (k : Nat) (f : SliceState → SliceState) : (s.modSlice k f).groups = s.groups := rfl

@[simp] theorem modSlice_ops (k : Nat) (f : SliceState → SliceState) : (s.modSlice k f).ops = s.ops := rfl

@[simp] theorem modSlice_barges (k : Nat) (f : SliceState → SliceState) : (s.modSlice k f).barges = s.barges := rfl

@[simp] theorem modSlice_cores (k : Nat) (f : SliceState → SliceState) : (s.modSlice k f).cores = s.cores := rfl

@[simp] theorem modSlice_near (k : Nat) (f : SliceState → SliceState) : (s.modSlice k f).near = s.near := rfl

@[simp] theorem modSlice_fabric (k : Nat) (f : SliceState → SliceState) : (s.modSlice k f).fabric = s.fabric := rfl

@[simp] theorem modSlice_host (k : Nat) (f : SliceState → SliceState) : (s.modSlice k f).host = s.host := rfl

@[simp] theorem modSlice_mgmt (k : Nat) (f : SliceState → SliceState) : (s.modSlice k f).mgmt = s.mgmt := rfl

@[simp] theorem modSlot_sched (k : Nat) (f : Slot → Slot) : (s.modSlot k f).sched = s.sched := rfl

@[simp] theorem modSlot_mem (k : Nat) (f : Slot → Slot) : (s.modSlot k f).mem = s.mem := rfl

@[simp] theorem modSlot_xlat (k : Nat) (f : Slot → Slot) : (s.modSlot k f).xlat = s.xlat := rfl

@[simp] theorem modSlot_scr (k : Nat) (f : Slot → Slot) : (s.modSlot k f).scr = s.scr := rfl

@[simp] theorem modSlot_work (k : Nat) (f : Slot → Slot) : (s.modSlot k f).work = s.work := rfl

@[simp] theorem modSlot_teams (k : Nat) (f : Slot → Slot) : (s.modSlot k f).teams = s.teams := rfl

@[simp] theorem modSlot_groups (k : Nat) (f : Slot → Slot) : (s.modSlot k f).groups = s.groups := rfl

@[simp] theorem modSlot_ops (k : Nat) (f : Slot → Slot) : (s.modSlot k f).ops = s.ops := rfl

@[simp] theorem modSlot_barges (k : Nat) (f : Slot → Slot) : (s.modSlot k f).barges = s.barges := rfl

@[simp] theorem modSlot_cores (k : Nat) (f : Slot → Slot) : (s.modSlot k f).cores = s.cores := rfl

@[simp] theorem modSlot_near (k : Nat) (f : Slot → Slot) : (s.modSlot k f).near = { s.near with slots := Sparse.set {} s.near.slots k (f (s.slot k)) } := rfl

@[simp] theorem modSlot_fabric (k : Nat) (f : Slot → Slot) : (s.modSlot k f).fabric = s.fabric := rfl

@[simp] theorem modSlot_host (k : Nat) (f : Slot → Slot) : (s.modSlot k f).host = s.host := rfl

@[simp] theorem modSlot_mgmt (k : Nat) (f : Slot → Slot) : (s.modSlot k f).mgmt = s.mgmt := rfl

@[simp] theorem modStation_sched (k : Nat) (f : Station → Station) : (s.modStation k f).sched = s.sched := rfl

@[simp] theorem modStation_mem (k : Nat) (f : Station → Station) : (s.modStation k f).mem = s.mem := rfl

@[simp] theorem modStation_xlat (k : Nat) (f : Station → Station) : (s.modStation k f).xlat = s.xlat := rfl

@[simp] theorem modStation_scr (k : Nat) (f : Station → Station) : (s.modStation k f).scr = s.scr := rfl

@[simp] theorem modStation_work (k : Nat) (f : Station → Station) : (s.modStation k f).work = s.work := rfl

@[simp] theorem modStation_teams (k : Nat) (f : Station → Station) : (s.modStation k f).teams = s.teams := rfl

@[simp] theorem modStation_groups (k : Nat) (f : Station → Station) : (s.modStation k f).groups = s.groups := rfl

@[simp] theorem modStation_ops (k : Nat) (f : Station → Station) : (s.modStation k f).ops = s.ops := rfl

@[simp] theorem modStation_barges (k : Nat) (f : Station → Station) : (s.modStation k f).barges = s.barges := rfl

@[simp] theorem modStation_cores (k : Nat) (f : Station → Station) : (s.modStation k f).cores = s.cores := rfl

@[simp] theorem modStation_near (k : Nat) (f : Station → Station) : (s.modStation k f).near = s.near := rfl

@[simp] theorem modStation_fabric (k : Nat) (f : Station → Station) : (s.modStation k f).fabric = { s.fabric with stations := Sparse.set {} s.fabric.stations k (f (s.station k)) } := rfl

@[simp] theorem modStation_host (k : Nat) (f : Station → Station) : (s.modStation k f).host = s.host := rfl

@[simp] theorem modStation_mgmt (k : Nat) (f : Station → Station) : (s.modStation k f).mgmt = s.mgmt := rfl

@[simp] theorem modMem_sched (f : Memory → Memory) : (s.modMem f).sched = s.sched := rfl

@[simp] theorem modMem_mem (f : Memory → Memory) : (s.modMem f).mem = f s.mem := rfl

@[simp] theorem modMem_xlat (f : Memory → Memory) : (s.modMem f).xlat = s.xlat := rfl

@[simp] theorem modMem_scr (f : Memory → Memory) : (s.modMem f).scr = s.scr := rfl

@[simp] theorem modMem_work (f : Memory → Memory) : (s.modMem f).work = s.work := rfl

@[simp] theorem modMem_teams (f : Memory → Memory) : (s.modMem f).teams = s.teams := rfl

@[simp] theorem modMem_groups (f : Memory → Memory) : (s.modMem f).groups = s.groups := rfl

@[simp] theorem modMem_ops (f : Memory → Memory) : (s.modMem f).ops = s.ops := rfl

@[simp] theorem modMem_barges (f : Memory → Memory) : (s.modMem f).barges = s.barges := rfl

@[simp] theorem modMem_cores (f : Memory → Memory) : (s.modMem f).cores = s.cores := rfl

@[simp] theorem modMem_near (f : Memory → Memory) : (s.modMem f).near = s.near := rfl

@[simp] theorem modMem_fabric (f : Memory → Memory) : (s.modMem f).fabric = s.fabric := rfl

@[simp] theorem modMem_host (f : Memory → Memory) : (s.modMem f).host = s.host := rfl

@[simp] theorem modMem_mgmt (f : Memory → Memory) : (s.modMem f).mgmt = s.mgmt := rfl

@[simp] theorem modXlat_sched (f : Xlat → Xlat) : (s.modXlat f).sched = s.sched := rfl

@[simp] theorem modXlat_mem (f : Xlat → Xlat) : (s.modXlat f).mem = s.mem := rfl

@[simp] theorem modXlat_xlat (f : Xlat → Xlat) : (s.modXlat f).xlat = f s.xlat := rfl

@[simp] theorem modXlat_scr (f : Xlat → Xlat) : (s.modXlat f).scr = s.scr := rfl

@[simp] theorem modXlat_work (f : Xlat → Xlat) : (s.modXlat f).work = s.work := rfl

@[simp] theorem modXlat_teams (f : Xlat → Xlat) : (s.modXlat f).teams = s.teams := rfl

@[simp] theorem modXlat_groups (f : Xlat → Xlat) : (s.modXlat f).groups = s.groups := rfl

@[simp] theorem modXlat_ops (f : Xlat → Xlat) : (s.modXlat f).ops = s.ops := rfl

@[simp] theorem modXlat_barges (f : Xlat → Xlat) : (s.modXlat f).barges = s.barges := rfl

@[simp] theorem modXlat_cores (f : Xlat → Xlat) : (s.modXlat f).cores = s.cores := rfl

@[simp] theorem modXlat_near (f : Xlat → Xlat) : (s.modXlat f).near = s.near := rfl

@[simp] theorem modXlat_fabric (f : Xlat → Xlat) : (s.modXlat f).fabric = s.fabric := rfl

@[simp] theorem modXlat_host (f : Xlat → Xlat) : (s.modXlat f).host = s.host := rfl

@[simp] theorem modXlat_mgmt (f : Xlat → Xlat) : (s.modXlat f).mgmt = s.mgmt := rfl

@[simp] theorem modScr_sched (f : Scratch → Scratch) : (s.modScr f).sched = s.sched := rfl

@[simp] theorem modScr_mem (f : Scratch → Scratch) : (s.modScr f).mem = s.mem := rfl

@[simp] theorem modScr_xlat (f : Scratch → Scratch) : (s.modScr f).xlat = s.xlat := rfl

@[simp] theorem modScr_scr (f : Scratch → Scratch) : (s.modScr f).scr = f s.scr := rfl

@[simp] theorem modScr_work (f : Scratch → Scratch) : (s.modScr f).work = s.work := rfl

@[simp] theorem modScr_teams (f : Scratch → Scratch) : (s.modScr f).teams = s.teams := rfl

@[simp] theorem modScr_groups (f : Scratch → Scratch) : (s.modScr f).groups = s.groups := rfl

@[simp] theorem modScr_ops (f : Scratch → Scratch) : (s.modScr f).ops = s.ops := rfl

@[simp] theorem modScr_barges (f : Scratch → Scratch) : (s.modScr f).barges = s.barges := rfl

@[simp] theorem modScr_cores (f : Scratch → Scratch) : (s.modScr f).cores = s.cores := rfl

@[simp] theorem modScr_near (f : Scratch → Scratch) : (s.modScr f).near = s.near := rfl

@[simp] theorem modScr_fabric (f : Scratch → Scratch) : (s.modScr f).fabric = s.fabric := rfl

@[simp] theorem modScr_host (f : Scratch → Scratch) : (s.modScr f).host = s.host := rfl

@[simp] theorem modScr_mgmt (f : Scratch → Scratch) : (s.modScr f).mgmt = s.mgmt := rfl

@[simp] theorem modWork_sched (f : Work → Work) : (s.modWork f).sched = s.sched := rfl

@[simp] theorem modWork_mem (f : Work → Work) : (s.modWork f).mem = s.mem := rfl

@[simp] theorem modWork_xlat (f : Work → Work) : (s.modWork f).xlat = s.xlat := rfl

@[simp] theorem modWork_scr (f : Work → Work) : (s.modWork f).scr = s.scr := rfl

@[simp] theorem modWork_work (f : Work → Work) : (s.modWork f).work = f s.work := rfl

@[simp] theorem modWork_teams (f : Work → Work) : (s.modWork f).teams = s.teams := rfl

@[simp] theorem modWork_groups (f : Work → Work) : (s.modWork f).groups = s.groups := rfl

@[simp] theorem modWork_ops (f : Work → Work) : (s.modWork f).ops = s.ops := rfl

@[simp] theorem modWork_barges (f : Work → Work) : (s.modWork f).barges = s.barges := rfl

@[simp] theorem modWork_cores (f : Work → Work) : (s.modWork f).cores = s.cores := rfl

@[simp] theorem modWork_near (f : Work → Work) : (s.modWork f).near = s.near := rfl

@[simp] theorem modWork_fabric (f : Work → Work) : (s.modWork f).fabric = s.fabric := rfl

@[simp] theorem modWork_host (f : Work → Work) : (s.modWork f).host = s.host := rfl

@[simp] theorem modWork_mgmt (f : Work → Work) : (s.modWork f).mgmt = s.mgmt := rfl

@[simp] theorem modSched_sched (f : Sched → Sched) : (s.modSched f).sched = f s.sched := rfl

@[simp] theorem modSched_mem (f : Sched → Sched) : (s.modSched f).mem = s.mem := rfl

@[simp] theorem modSched_xlat (f : Sched → Sched) : (s.modSched f).xlat = s.xlat := rfl

@[simp] theorem modSched_scr (f : Sched → Sched) : (s.modSched f).scr = s.scr := rfl

@[simp] theorem modSched_work (f : Sched → Sched) : (s.modSched f).work = s.work := rfl

@[simp] theorem modSched_teams (f : Sched → Sched) : (s.modSched f).teams = s.teams := rfl

@[simp] theorem modSched_groups (f : Sched → Sched) : (s.modSched f).groups = s.groups := rfl

@[simp] theorem modSched_ops (f : Sched → Sched) : (s.modSched f).ops = s.ops := rfl

@[simp] theorem modSched_barges (f : Sched → Sched) : (s.modSched f).barges = s.barges := rfl

@[simp] theorem modSched_cores (f : Sched → Sched) : (s.modSched f).cores = s.cores := rfl

@[simp] theorem modSched_near (f : Sched → Sched) : (s.modSched f).near = s.near := rfl

@[simp] theorem modSched_fabric (f : Sched → Sched) : (s.modSched f).fabric = s.fabric := rfl

@[simp] theorem modSched_host (f : Sched → Sched) : (s.modSched f).host = s.host := rfl

@[simp] theorem modSched_mgmt (f : Sched → Sched) : (s.modSched f).mgmt = s.mgmt := rfl

@[simp] theorem modFabric_sched (f : Fabric → Fabric) : (s.modFabric f).sched = s.sched := rfl

@[simp] theorem modFabric_mem (f : Fabric → Fabric) : (s.modFabric f).mem = s.mem := rfl

@[simp] theorem modFabric_xlat (f : Fabric → Fabric) : (s.modFabric f).xlat = s.xlat := rfl

@[simp] theorem modFabric_scr (f : Fabric → Fabric) : (s.modFabric f).scr = s.scr := rfl

@[simp] theorem modFabric_work (f : Fabric → Fabric) : (s.modFabric f).work = s.work := rfl

@[simp] theorem modFabric_teams (f : Fabric → Fabric) : (s.modFabric f).teams = s.teams := rfl

@[simp] theorem modFabric_groups (f : Fabric → Fabric) : (s.modFabric f).groups = s.groups := rfl

@[simp] theorem modFabric_ops (f : Fabric → Fabric) : (s.modFabric f).ops = s.ops := rfl

@[simp] theorem modFabric_barges (f : Fabric → Fabric) : (s.modFabric f).barges = s.barges := rfl

@[simp] theorem modFabric_cores (f : Fabric → Fabric) : (s.modFabric f).cores = s.cores := rfl

@[simp] theorem modFabric_near (f : Fabric → Fabric) : (s.modFabric f).near = s.near := rfl

@[simp] theorem modFabric_fabric (f : Fabric → Fabric) : (s.modFabric f).fabric = f s.fabric := rfl

@[simp] theorem modFabric_host (f : Fabric → Fabric) : (s.modFabric f).host = s.host := rfl

@[simp] theorem modFabric_mgmt (f : Fabric → Fabric) : (s.modFabric f).mgmt = s.mgmt := rfl

@[simp] theorem modHost_sched (f : HostIf → HostIf) : (s.modHost f).sched = s.sched := rfl

@[simp] theorem modHost_mem (f : HostIf → HostIf) : (s.modHost f).mem = s.mem := rfl

@[simp] theorem modHost_xlat (f : HostIf → HostIf) : (s.modHost f).xlat = s.xlat := rfl

@[simp] theorem modHost_scr (f : HostIf → HostIf) : (s.modHost f).scr = s.scr := rfl

@[simp] theorem modHost_work (f : HostIf → HostIf) : (s.modHost f).work = s.work := rfl

@[simp] theorem modHost_teams (f : HostIf → HostIf) : (s.modHost f).teams = s.teams := rfl

@[simp] theorem modHost_groups (f : HostIf → HostIf) : (s.modHost f).groups = s.groups := rfl

@[simp] theorem modHost_ops (f : HostIf → HostIf) : (s.modHost f).ops = s.ops := rfl

@[simp] theorem modHost_barges (f : HostIf → HostIf) : (s.modHost f).barges = s.barges := rfl

@[simp] theorem modHost_cores (f : HostIf → HostIf) : (s.modHost f).cores = s.cores := rfl

@[simp] theorem modHost_near (f : HostIf → HostIf) : (s.modHost f).near = s.near := rfl

@[simp] theorem modHost_fabric (f : HostIf → HostIf) : (s.modHost f).fabric = s.fabric := rfl

@[simp] theorem modHost_host (f : HostIf → HostIf) : (s.modHost f).host = f s.host := rfl

@[simp] theorem modHost_mgmt (f : HostIf → HostIf) : (s.modHost f).mgmt = s.mgmt := rfl

@[simp] theorem modMgmt_sched (f : Mgmt → Mgmt) : (s.modMgmt f).sched = s.sched := rfl

@[simp] theorem modMgmt_mem (f : Mgmt → Mgmt) : (s.modMgmt f).mem = s.mem := rfl

@[simp] theorem modMgmt_xlat (f : Mgmt → Mgmt) : (s.modMgmt f).xlat = s.xlat := rfl

@[simp] theorem modMgmt_scr (f : Mgmt → Mgmt) : (s.modMgmt f).scr = s.scr := rfl

@[simp] theorem modMgmt_work (f : Mgmt → Mgmt) : (s.modMgmt f).work = s.work := rfl

@[simp] theorem modMgmt_teams (f : Mgmt → Mgmt) : (s.modMgmt f).teams = s.teams := rfl

@[simp] theorem modMgmt_groups (f : Mgmt → Mgmt) : (s.modMgmt f).groups = s.groups := rfl

@[simp] theorem modMgmt_ops (f : Mgmt → Mgmt) : (s.modMgmt f).ops = s.ops := rfl

@[simp] theorem modMgmt_barges (f : Mgmt → Mgmt) : (s.modMgmt f).barges = s.barges := rfl

@[simp] theorem modMgmt_cores (f : Mgmt → Mgmt) : (s.modMgmt f).cores = s.cores := rfl

@[simp] theorem modMgmt_near (f : Mgmt → Mgmt) : (s.modMgmt f).near = s.near := rfl

@[simp] theorem modMgmt_fabric (f : Mgmt → Mgmt) : (s.modMgmt f).fabric = s.fabric := rfl

@[simp] theorem modMgmt_host (f : Mgmt → Mgmt) : (s.modMgmt f).host = s.host := rfl

@[simp] theorem modMgmt_mgmt (f : Mgmt → Mgmt) : (s.modMgmt f).mgmt = f s.mgmt := rfl

@[simp] theorem send_sched (m : Message) : (s.send m).sched = s.sched := rfl

@[simp] theorem send_mem (m : Message) : (s.send m).mem = s.mem := rfl

@[simp] theorem send_xlat (m : Message) : (s.send m).xlat = s.xlat := rfl

@[simp] theorem send_scr (m : Message) : (s.send m).scr = s.scr := rfl

@[simp] theorem send_work (m : Message) : (s.send m).work = s.work := rfl

@[simp] theorem send_teams (m : Message) : (s.send m).teams = s.teams := rfl

@[simp] theorem send_groups (m : Message) : (s.send m).groups = s.groups := rfl

@[simp] theorem send_ops (m : Message) : (s.send m).ops = s.ops := rfl

@[simp] theorem send_barges (m : Message) : (s.send m).barges = s.barges := rfl

@[simp] theorem send_cores (m : Message) : (s.send m).cores = s.cores := rfl

@[simp] theorem send_near (m : Message) : (s.send m).near = s.near := rfl

@[simp] theorem send_fabric (m : Message) : (s.send m).fabric = { s.fabric with sent := s.fabric.sent ++ [m] } := rfl

@[simp] theorem send_host (m : Message) : (s.send m).host = s.host := rfl

@[simp] theorem send_mgmt (m : Message) : (s.send m).mgmt = s.mgmt := rfl

@[simp] theorem setQueueReg_sched (q k x : Nat) : (s.setQueueReg q k x).sched = s.sched := rfl

@[simp] theorem setQueueReg_mem (q k x : Nat) : (s.setQueueReg q k x).mem = s.mem := rfl

@[simp] theorem setQueueReg_xlat (q k x : Nat) : (s.setQueueReg q k x).xlat = s.xlat := rfl

@[simp] theorem setQueueReg_scr (q k x : Nat) : (s.setQueueReg q k x).scr = s.scr := rfl

@[simp] theorem setQueueReg_work (q k x : Nat) : (s.setQueueReg q k x).work = s.work := rfl

@[simp] theorem setQueueReg_teams (q k x : Nat) : (s.setQueueReg q k x).teams = s.teams := rfl

@[simp] theorem setQueueReg_groups (q k x : Nat) : (s.setQueueReg q k x).groups = s.groups := rfl

@[simp] theorem setQueueReg_ops (q k x : Nat) : (s.setQueueReg q k x).ops = s.ops := rfl

@[simp] theorem setQueueReg_barges (q k x : Nat) : (s.setQueueReg q k x).barges = s.barges := rfl

@[simp] theorem setQueueReg_cores (q k x : Nat) : (s.setQueueReg q k x).cores = s.cores := rfl

@[simp] theorem setQueueReg_near (q k x : Nat) : (s.setQueueReg q k x).near = s.near := rfl

@[simp] theorem setQueueReg_fabric (q k x : Nat) : (s.setQueueReg q k x).fabric = s.fabric := rfl

@[simp] theorem setQueueReg_host (q k x : Nat) : (s.setQueueReg q k x).host = { s.host with queue := Sparse.set 0 s.host.queue (8 * q + k) x } := rfl

@[simp] theorem setQueueReg_mgmt (q k x : Nat) : (s.setQueueReg q k x).mgmt = s.mgmt := rfl

@[simp] theorem setOp_sched (k : Nat) (o : Op) : (s.setOp k o).sched = s.sched := rfl

@[simp] theorem setOp_mem (k : Nat) (o : Op) : (s.setOp k o).mem = s.mem := rfl

@[simp] theorem setOp_xlat (k : Nat) (o : Op) : (s.setOp k o).xlat = s.xlat := rfl

@[simp] theorem setOp_scr (k : Nat) (o : Op) : (s.setOp k o).scr = s.scr := rfl

@[simp] theorem setOp_work (k : Nat) (o : Op) : (s.setOp k o).work = s.work := rfl

@[simp] theorem setOp_teams (k : Nat) (o : Op) : (s.setOp k o).teams = s.teams := rfl

@[simp] theorem setOp_groups (k : Nat) (o : Op) : (s.setOp k o).groups = s.groups := rfl

@[simp] theorem setOp_ops (k : Nat) (o : Op) : (s.setOp k o).ops = Sparse.insert s.ops k o := rfl

@[simp] theorem setOp_barges (k : Nat) (o : Op) : (s.setOp k o).barges = s.barges := rfl

@[simp] theorem setOp_cores (k : Nat) (o : Op) : (s.setOp k o).cores = s.cores := rfl

@[simp] theorem setOp_near (k : Nat) (o : Op) : (s.setOp k o).near = s.near := rfl

@[simp] theorem setOp_fabric (k : Nat) (o : Op) : (s.setOp k o).fabric = s.fabric := rfl

@[simp] theorem setOp_host (k : Nat) (o : Op) : (s.setOp k o).host = s.host := rfl

@[simp] theorem setOp_mgmt (k : Nat) (o : Op) : (s.setOp k o).mgmt = s.mgmt := rfl

@[simp] theorem dropOp_sched (k : Nat) : (s.dropOp k).sched = s.sched := rfl

@[simp] theorem dropOp_mem (k : Nat) : (s.dropOp k).mem = s.mem := rfl

@[simp] theorem dropOp_xlat (k : Nat) : (s.dropOp k).xlat = s.xlat := rfl

@[simp] theorem dropOp_scr (k : Nat) : (s.dropOp k).scr = s.scr := rfl

@[simp] theorem dropOp_work (k : Nat) : (s.dropOp k).work = s.work := rfl

@[simp] theorem dropOp_teams (k : Nat) : (s.dropOp k).teams = s.teams := rfl

@[simp] theorem dropOp_groups (k : Nat) : (s.dropOp k).groups = s.groups := rfl

@[simp] theorem dropOp_ops (k : Nat) : (s.dropOp k).ops = Sparse.erase s.ops k := rfl

@[simp] theorem dropOp_barges (k : Nat) : (s.dropOp k).barges = s.barges := rfl

@[simp] theorem dropOp_cores (k : Nat) : (s.dropOp k).cores = s.cores := rfl

@[simp] theorem dropOp_near (k : Nat) : (s.dropOp k).near = s.near := rfl

@[simp] theorem dropOp_fabric (k : Nat) : (s.dropOp k).fabric = s.fabric := rfl

@[simp] theorem dropOp_host (k : Nat) : (s.dropOp k).host = s.host := rfl

@[simp] theorem dropOp_mgmt (k : Nat) : (s.dropOp k).mgmt = s.mgmt := rfl

@[simp] theorem took_sched : (s.took).sched = { s.sched with fresh := s.sched.fresh + 1 } := rfl

@[simp] theorem took_mem : (s.took).mem = s.mem := rfl

@[simp] theorem took_xlat : (s.took).xlat = s.xlat := rfl

@[simp] theorem took_scr : (s.took).scr = s.scr := rfl

@[simp] theorem took_work : (s.took).work = s.work := rfl

@[simp] theorem took_teams : (s.took).teams = s.teams := rfl

@[simp] theorem took_groups : (s.took).groups = s.groups := rfl

@[simp] theorem took_ops : (s.took).ops = s.ops := rfl

@[simp] theorem took_barges : (s.took).barges = s.barges := rfl

@[simp] theorem took_cores : (s.took).cores = s.cores := rfl

@[simp] theorem took_near : (s.took).near = s.near := rfl

@[simp] theorem took_fabric : (s.took).fabric = s.fabric := rfl

@[simp] theorem took_host : (s.took).host = s.host := rfl

@[simp] theorem took_mgmt : (s.took).mgmt = s.mgmt := rfl

@[simp] theorem now_sched (ts : List Turn) : (s.now ts).sched = { s.sched with agenda := ts ++ s.sched.agenda } := rfl

@[simp] theorem now_mem (ts : List Turn) : (s.now ts).mem = s.mem := rfl

@[simp] theorem now_xlat (ts : List Turn) : (s.now ts).xlat = s.xlat := rfl

@[simp] theorem now_scr (ts : List Turn) : (s.now ts).scr = s.scr := rfl

@[simp] theorem now_work (ts : List Turn) : (s.now ts).work = s.work := rfl

@[simp] theorem now_teams (ts : List Turn) : (s.now ts).teams = s.teams := rfl

@[simp] theorem now_groups (ts : List Turn) : (s.now ts).groups = s.groups := rfl

@[simp] theorem now_ops (ts : List Turn) : (s.now ts).ops = s.ops := rfl

@[simp] theorem now_barges (ts : List Turn) : (s.now ts).barges = s.barges := rfl

@[simp] theorem now_cores (ts : List Turn) : (s.now ts).cores = s.cores := rfl

@[simp] theorem now_near (ts : List Turn) : (s.now ts).near = s.near := rfl

@[simp] theorem now_fabric (ts : List Turn) : (s.now ts).fabric = s.fabric := rfl

@[simp] theorem now_host (ts : List Turn) : (s.now ts).host = s.host := rfl

@[simp] theorem now_mgmt (ts : List Turn) : (s.now ts).mgmt = s.mgmt := rfl

@[simp] theorem newOp_mem (o : Op) : (s.newOp o).mem = s.mem := rfl

@[simp] theorem newOp_xlat (o : Op) : (s.newOp o).xlat = s.xlat := rfl

@[simp] theorem newOp_scr (o : Op) : (s.newOp o).scr = s.scr := rfl

@[simp] theorem newOp_work (o : Op) : (s.newOp o).work = s.work := rfl

@[simp] theorem newOp_teams (o : Op) : (s.newOp o).teams = s.teams := rfl

@[simp] theorem newOp_groups (o : Op) : (s.newOp o).groups = s.groups := rfl

@[simp] theorem newOp_barges (o : Op) : (s.newOp o).barges = s.barges := rfl

@[simp] theorem newOp_cores (o : Op) : (s.newOp o).cores = s.cores := rfl

@[simp] theorem newOp_near (o : Op) : (s.newOp o).near = s.near := rfl

@[simp] theorem newOp_fabric (o : Op) : (s.newOp o).fabric = s.fabric := rfl

@[simp] theorem newOp_host (o : Op) : (s.newOp o).host = s.host := rfl

@[simp] theorem newOp_mgmt (o : Op) : (s.newOp o).mgmt = s.mgmt := rfl

@[simp] theorem newOp_ops (o : Op) : (s.newOp o).ops = Sparse.insert s.ops s.sched.nextId o := rfl

@[simp] theorem newOp_sched (o : Op) : (s.newOp o).sched = { s.sched with nextId := s.sched.nextId + 1 } := rfl

@[simp] theorem modOp_sched (k : Nat) (f : Op → Op) : (s.modOp k f).sched = s.sched := by
  simp only [State.modOp]
  split <;> rfl

@[simp] theorem modOp_mem (k : Nat) (f : Op → Op) : (s.modOp k f).mem = s.mem := by
  simp only [State.modOp]
  split <;> rfl

@[simp] theorem modOp_xlat (k : Nat) (f : Op → Op) : (s.modOp k f).xlat = s.xlat := by
  simp only [State.modOp]
  split <;> rfl

@[simp] theorem modOp_scr (k : Nat) (f : Op → Op) : (s.modOp k f).scr = s.scr := by
  simp only [State.modOp]
  split <;> rfl

@[simp] theorem modOp_work (k : Nat) (f : Op → Op) : (s.modOp k f).work = s.work := by
  simp only [State.modOp]
  split <;> rfl

@[simp] theorem modOp_teams (k : Nat) (f : Op → Op) : (s.modOp k f).teams = s.teams := by
  simp only [State.modOp]
  split <;> rfl

@[simp] theorem modOp_groups (k : Nat) (f : Op → Op) : (s.modOp k f).groups = s.groups := by
  simp only [State.modOp]
  split <;> rfl

@[simp] theorem modOp_barges (k : Nat) (f : Op → Op) : (s.modOp k f).barges = s.barges := by
  simp only [State.modOp]
  split <;> rfl

@[simp] theorem modOp_cores (k : Nat) (f : Op → Op) : (s.modOp k f).cores = s.cores := by
  simp only [State.modOp]
  split <;> rfl

@[simp] theorem modOp_near (k : Nat) (f : Op → Op) : (s.modOp k f).near = s.near := by
  simp only [State.modOp]
  split <;> rfl

@[simp] theorem modOp_fabric (k : Nat) (f : Op → Op) : (s.modOp k f).fabric = s.fabric := by
  simp only [State.modOp]
  split <;> rfl

@[simp] theorem modOp_host (k : Nat) (f : Op → Op) : (s.modOp k f).host = s.host := by
  simp only [State.modOp]
  split <;> rfl

@[simp] theorem modOp_mgmt (k : Nat) (f : Op → Op) : (s.modOp k f).mgmt = s.mgmt := by
  simp only [State.modOp]
  split <;> rfl

/-! ### Entries -/

@[simp] theorem group_setGroup (k : Nat) (x : Group) : (s.setGroup k x).group k = x := by simp [State.group]

theorem group_setGroup_other (k j : Nat) (x : Group) (h : j ≠ k) : (s.setGroup k x).group j = s.group j := by
  simp [State.group, get_set_other _ _ _ _ _ h]

@[simp] theorem group_modGroup (k : Nat) (f : Group → Group) : (s.modGroup k f).group k = f (s.group k) := by simp [State.modGroup]

theorem group_modGroup_other (k j : Nat) (f : Group → Group) (h : j ≠ k) : (s.modGroup k f).group j = s.group j :=
  group_setGroup_other s k j _ h

@[simp] theorem team_setTeam (k : Nat) (x : Team) : (s.setTeam k x).team k = x := by simp [State.team]

theorem team_setTeam_other (k j : Nat) (x : Team) (h : j ≠ k) : (s.setTeam k x).team j = s.team j := by
  simp [State.team, get_set_other _ _ _ _ _ h]

@[simp] theorem team_modTeam (k : Nat) (f : Team → Team) : (s.modTeam k f).team k = f (s.team k) := by simp [State.modTeam]

theorem team_modTeam_other (k j : Nat) (f : Team → Team) (h : j ≠ k) : (s.modTeam k f).team j = s.team j :=
  team_setTeam_other s k j _ h

@[simp] theorem barge_setBarge (k : Nat) (x : Barge) : (s.setBarge k x).barge k = x := by simp [State.barge]

theorem barge_setBarge_other (k j : Nat) (x : Barge) (h : j ≠ k) : (s.setBarge k x).barge j = s.barge j := by
  simp [State.barge, get_set_other _ _ _ _ _ h]

@[simp] theorem barge_modBarge (k : Nat) (f : Barge → Barge) : (s.modBarge k f).barge k = f (s.barge k) := by simp [State.modBarge]

theorem barge_modBarge_other (k j : Nat) (f : Barge → Barge) (h : j ≠ k) : (s.modBarge k f).barge j = s.barge j :=
  barge_setBarge_other s k j _ h

@[simp] theorem core_setCore (k : Nat) (x : Core) : (s.setCore k x).core k = x := by simp [State.core]

theorem core_setCore_other (k j : Nat) (x : Core) (h : j ≠ k) : (s.setCore k x).core j = s.core j := by
  simp [State.core, get_set_other _ _ _ _ _ h]

@[simp] theorem core_modCore (k : Nat) (f : Core → Core) : (s.modCore k f).core k = f (s.core k) := by simp [State.modCore]

theorem core_modCore_other (k j : Nat) (f : Core → Core) (h : j ≠ k) : (s.modCore k f).core j = s.core j :=
  core_setCore_other s k j _ h

@[simp] theorem launch_setLaunch (k : Nat) (x : Launch) : (s.setLaunch k x).launch k = x := by simp [State.launch]

theorem launch_setLaunch_other (k j : Nat) (x : Launch) (h : j ≠ k) : (s.setLaunch k x).launch j = s.launch j := by
  simp [State.launch, get_set_other _ _ _ _ _ h]

@[simp] theorem launch_modLaunch (k : Nat) (f : Launch → Launch) : (s.modLaunch k f).launch k = f (s.launch k) := by simp [State.modLaunch]

theorem launch_modLaunch_other (k j : Nat) (f : Launch → Launch) (h : j ≠ k) : (s.modLaunch k f).launch j = s.launch j :=
  launch_setLaunch_other s k j _ h

@[simp] theorem cluster_setCluster (k : Nat) (x : Cluster) : (s.setCluster k x).cluster k = x := by simp [State.cluster]

theorem cluster_setCluster_other (k j : Nat) (x : Cluster) (h : j ≠ k) : (s.setCluster k x).cluster j = s.cluster j := by
  simp [State.cluster, get_set_other _ _ _ _ _ h]

@[simp] theorem cluster_modCluster (k : Nat) (f : Cluster → Cluster) : (s.modCluster k f).cluster k = f (s.cluster k) := by simp [State.modCluster]

theorem cluster_modCluster_other (k j : Nat) (f : Cluster → Cluster) (h : j ≠ k) : (s.modCluster k f).cluster j = s.cluster j :=
  cluster_setCluster_other s k j _ h

@[simp] theorem die_modDie (k : Nat) (f : DieState → DieState) : (s.modDie k f).die k = f (s.die k) := by
  simp [State.die]

theorem die_modDie_other (k j : Nat) (f : DieState → DieState) (h : j ≠ k) : (s.modDie k f).die j = s.die j := by
  simp [State.die, get_set_other _ _ _ _ _ h]

@[simp] theorem slice_modSlice (k : Nat) (f : SliceState → SliceState) : (s.modSlice k f).slice k = f (s.slice k) := by
  simp [State.slice]

theorem slice_modSlice_other (k j : Nat) (f : SliceState → SliceState) (h : j ≠ k) : (s.modSlice k f).slice j = s.slice j := by
  simp [State.slice, get_set_other _ _ _ _ _ h]

@[simp] theorem slot_modSlot (k : Nat) (f : Slot → Slot) : (s.modSlot k f).slot k = f (s.slot k) := by
  simp [State.slot]

theorem slot_modSlot_other (k j : Nat) (f : Slot → Slot) (h : j ≠ k) : (s.modSlot k f).slot j = s.slot j := by
  simp [State.slot, get_set_other _ _ _ _ _ h]

@[simp] theorem station_modStation (k : Nat) (f : Station → Station) : (s.modStation k f).station k = f (s.station k) := by
  simp [State.station]

theorem station_modStation_other (k j : Nat) (f : Station → Station) (h : j ≠ k) : (s.modStation k f).station j = s.station j := by
  simp [State.station, get_set_other _ _ _ _ _ h]

@[simp] theorem engine_modEngine (k : Nat) (f : Engine → Engine) : (s.modEngine k f).engine k = f (s.engine k) := by
  simp [State.engine, State.modEngine]

theorem engine_modEngine_other (k j : Nat) (f : Engine → Engine) (h : j ≠ k) : (s.modEngine k f).engine j = s.engine j := by
  simp [State.engine, State.modEngine, core_modCore_other _ _ _ _ h]

/-! ### Readers of other tables -/

@[simp] theorem team_setGroup_kept (k : Nat) (g : Group) (j : Nat) : (s.setGroup k g).team j = s.team j := rfl

@[simp] theorem barge_setGroup_kept (k : Nat) (g : Group) (j : Nat) : (s.setGroup k g).barge j = s.barge j := rfl

@[simp] theorem core_setGroup_kept (k : Nat) (g : Group) (j : Nat) : (s.setGroup k g).core j = s.core j := rfl

@[simp] theorem engine_setGroup_kept (k : Nat) (g : Group) (j : Nat) : (s.setGroup k g).engine j = s.engine j := rfl

@[simp] theorem launch_setGroup_kept (k : Nat) (g : Group) (j : Nat) : (s.setGroup k g).launch j = s.launch j := rfl

@[simp] theorem cluster_setGroup_kept (k : Nat) (g : Group) (j : Nat) : (s.setGroup k g).cluster j = s.cluster j := rfl

@[simp] theorem die_setGroup_kept (k : Nat) (g : Group) (j : Nat) : (s.setGroup k g).die j = s.die j := rfl

@[simp] theorem slice_setGroup_kept (k : Nat) (g : Group) (j : Nat) : (s.setGroup k g).slice j = s.slice j := rfl

@[simp] theorem slot_setGroup_kept (k : Nat) (g : Group) (j : Nat) : (s.setGroup k g).slot j = s.slot j := rfl

@[simp] theorem station_setGroup_kept (k : Nat) (g : Group) (j : Nat) : (s.setGroup k g).station j = s.station j := rfl

@[simp] theorem op_setGroup_kept (k : Nat) (g : Group) (j : Nat) : (s.setGroup k g).op j = s.op j := rfl

@[simp] theorem hasOp_setGroup_kept (k : Nat) (g : Group) (j : Nat) : (s.setGroup k g).hasOp j = s.hasOp j := rfl

@[simp] theorem team_modGroup_kept (k : Nat) (f : Group → Group) (j : Nat) : (s.modGroup k f).team j = s.team j := rfl

@[simp] theorem barge_modGroup_kept (k : Nat) (f : Group → Group) (j : Nat) : (s.modGroup k f).barge j = s.barge j := rfl

@[simp] theorem core_modGroup_kept (k : Nat) (f : Group → Group) (j : Nat) : (s.modGroup k f).core j = s.core j := rfl

@[simp] theorem engine_modGroup_kept (k : Nat) (f : Group → Group) (j : Nat) : (s.modGroup k f).engine j = s.engine j := rfl

@[simp] theorem launch_modGroup_kept (k : Nat) (f : Group → Group) (j : Nat) : (s.modGroup k f).launch j = s.launch j := rfl

@[simp] theorem cluster_modGroup_kept (k : Nat) (f : Group → Group) (j : Nat) : (s.modGroup k f).cluster j = s.cluster j := rfl

@[simp] theorem die_modGroup_kept (k : Nat) (f : Group → Group) (j : Nat) : (s.modGroup k f).die j = s.die j := rfl

@[simp] theorem slice_modGroup_kept (k : Nat) (f : Group → Group) (j : Nat) : (s.modGroup k f).slice j = s.slice j := rfl

@[simp] theorem slot_modGroup_kept (k : Nat) (f : Group → Group) (j : Nat) : (s.modGroup k f).slot j = s.slot j := rfl

@[simp] theorem station_modGroup_kept (k : Nat) (f : Group → Group) (j : Nat) : (s.modGroup k f).station j = s.station j := rfl

@[simp] theorem op_modGroup_kept (k : Nat) (f : Group → Group) (j : Nat) : (s.modGroup k f).op j = s.op j := rfl

@[simp] theorem hasOp_modGroup_kept (k : Nat) (f : Group → Group) (j : Nat) : (s.modGroup k f).hasOp j = s.hasOp j := rfl

@[simp] theorem group_setTeam_kept (k : Nat) (t : Team) (j : Nat) : (s.setTeam k t).group j = s.group j := rfl

@[simp] theorem barge_setTeam_kept (k : Nat) (t : Team) (j : Nat) : (s.setTeam k t).barge j = s.barge j := rfl

@[simp] theorem core_setTeam_kept (k : Nat) (t : Team) (j : Nat) : (s.setTeam k t).core j = s.core j := rfl

@[simp] theorem engine_setTeam_kept (k : Nat) (t : Team) (j : Nat) : (s.setTeam k t).engine j = s.engine j := rfl

@[simp] theorem launch_setTeam_kept (k : Nat) (t : Team) (j : Nat) : (s.setTeam k t).launch j = s.launch j := rfl

@[simp] theorem cluster_setTeam_kept (k : Nat) (t : Team) (j : Nat) : (s.setTeam k t).cluster j = s.cluster j := rfl

@[simp] theorem die_setTeam_kept (k : Nat) (t : Team) (j : Nat) : (s.setTeam k t).die j = s.die j := rfl

@[simp] theorem slice_setTeam_kept (k : Nat) (t : Team) (j : Nat) : (s.setTeam k t).slice j = s.slice j := rfl

@[simp] theorem slot_setTeam_kept (k : Nat) (t : Team) (j : Nat) : (s.setTeam k t).slot j = s.slot j := rfl

@[simp] theorem station_setTeam_kept (k : Nat) (t : Team) (j : Nat) : (s.setTeam k t).station j = s.station j := rfl

@[simp] theorem op_setTeam_kept (k : Nat) (t : Team) (j : Nat) : (s.setTeam k t).op j = s.op j := rfl

@[simp] theorem hasOp_setTeam_kept (k : Nat) (t : Team) (j : Nat) : (s.setTeam k t).hasOp j = s.hasOp j := rfl

@[simp] theorem group_modTeam_kept (k : Nat) (f : Team → Team) (j : Nat) : (s.modTeam k f).group j = s.group j := rfl

@[simp] theorem barge_modTeam_kept (k : Nat) (f : Team → Team) (j : Nat) : (s.modTeam k f).barge j = s.barge j := rfl

@[simp] theorem core_modTeam_kept (k : Nat) (f : Team → Team) (j : Nat) : (s.modTeam k f).core j = s.core j := rfl

@[simp] theorem engine_modTeam_kept (k : Nat) (f : Team → Team) (j : Nat) : (s.modTeam k f).engine j = s.engine j := rfl

@[simp] theorem launch_modTeam_kept (k : Nat) (f : Team → Team) (j : Nat) : (s.modTeam k f).launch j = s.launch j := rfl

@[simp] theorem cluster_modTeam_kept (k : Nat) (f : Team → Team) (j : Nat) : (s.modTeam k f).cluster j = s.cluster j := rfl

@[simp] theorem die_modTeam_kept (k : Nat) (f : Team → Team) (j : Nat) : (s.modTeam k f).die j = s.die j := rfl

@[simp] theorem slice_modTeam_kept (k : Nat) (f : Team → Team) (j : Nat) : (s.modTeam k f).slice j = s.slice j := rfl

@[simp] theorem slot_modTeam_kept (k : Nat) (f : Team → Team) (j : Nat) : (s.modTeam k f).slot j = s.slot j := rfl

@[simp] theorem station_modTeam_kept (k : Nat) (f : Team → Team) (j : Nat) : (s.modTeam k f).station j = s.station j := rfl

@[simp] theorem op_modTeam_kept (k : Nat) (f : Team → Team) (j : Nat) : (s.modTeam k f).op j = s.op j := rfl

@[simp] theorem hasOp_modTeam_kept (k : Nat) (f : Team → Team) (j : Nat) : (s.modTeam k f).hasOp j = s.hasOp j := rfl

@[simp] theorem group_setBarge_kept (k : Nat) (b : Barge) (j : Nat) : (s.setBarge k b).group j = s.group j := rfl

@[simp] theorem team_setBarge_kept (k : Nat) (b : Barge) (j : Nat) : (s.setBarge k b).team j = s.team j := rfl

@[simp] theorem core_setBarge_kept (k : Nat) (b : Barge) (j : Nat) : (s.setBarge k b).core j = s.core j := rfl

@[simp] theorem engine_setBarge_kept (k : Nat) (b : Barge) (j : Nat) : (s.setBarge k b).engine j = s.engine j := rfl

@[simp] theorem launch_setBarge_kept (k : Nat) (b : Barge) (j : Nat) : (s.setBarge k b).launch j = s.launch j := rfl

@[simp] theorem cluster_setBarge_kept (k : Nat) (b : Barge) (j : Nat) : (s.setBarge k b).cluster j = s.cluster j := rfl

@[simp] theorem die_setBarge_kept (k : Nat) (b : Barge) (j : Nat) : (s.setBarge k b).die j = s.die j := rfl

@[simp] theorem slice_setBarge_kept (k : Nat) (b : Barge) (j : Nat) : (s.setBarge k b).slice j = s.slice j := rfl

@[simp] theorem slot_setBarge_kept (k : Nat) (b : Barge) (j : Nat) : (s.setBarge k b).slot j = s.slot j := rfl

@[simp] theorem station_setBarge_kept (k : Nat) (b : Barge) (j : Nat) : (s.setBarge k b).station j = s.station j := rfl

@[simp] theorem op_setBarge_kept (k : Nat) (b : Barge) (j : Nat) : (s.setBarge k b).op j = s.op j := rfl

@[simp] theorem hasOp_setBarge_kept (k : Nat) (b : Barge) (j : Nat) : (s.setBarge k b).hasOp j = s.hasOp j := rfl

@[simp] theorem group_modBarge_kept (k : Nat) (f : Barge → Barge) (j : Nat) : (s.modBarge k f).group j = s.group j := rfl

@[simp] theorem team_modBarge_kept (k : Nat) (f : Barge → Barge) (j : Nat) : (s.modBarge k f).team j = s.team j := rfl

@[simp] theorem core_modBarge_kept (k : Nat) (f : Barge → Barge) (j : Nat) : (s.modBarge k f).core j = s.core j := rfl

@[simp] theorem engine_modBarge_kept (k : Nat) (f : Barge → Barge) (j : Nat) : (s.modBarge k f).engine j = s.engine j := rfl

@[simp] theorem launch_modBarge_kept (k : Nat) (f : Barge → Barge) (j : Nat) : (s.modBarge k f).launch j = s.launch j := rfl

@[simp] theorem cluster_modBarge_kept (k : Nat) (f : Barge → Barge) (j : Nat) : (s.modBarge k f).cluster j = s.cluster j := rfl

@[simp] theorem die_modBarge_kept (k : Nat) (f : Barge → Barge) (j : Nat) : (s.modBarge k f).die j = s.die j := rfl

@[simp] theorem slice_modBarge_kept (k : Nat) (f : Barge → Barge) (j : Nat) : (s.modBarge k f).slice j = s.slice j := rfl

@[simp] theorem slot_modBarge_kept (k : Nat) (f : Barge → Barge) (j : Nat) : (s.modBarge k f).slot j = s.slot j := rfl

@[simp] theorem station_modBarge_kept (k : Nat) (f : Barge → Barge) (j : Nat) : (s.modBarge k f).station j = s.station j := rfl

@[simp] theorem op_modBarge_kept (k : Nat) (f : Barge → Barge) (j : Nat) : (s.modBarge k f).op j = s.op j := rfl

@[simp] theorem hasOp_modBarge_kept (k : Nat) (f : Barge → Barge) (j : Nat) : (s.modBarge k f).hasOp j = s.hasOp j := rfl

@[simp] theorem group_setCore_kept (k : Nat) (c : Core) (j : Nat) : (s.setCore k c).group j = s.group j := rfl

@[simp] theorem team_setCore_kept (k : Nat) (c : Core) (j : Nat) : (s.setCore k c).team j = s.team j := rfl

@[simp] theorem barge_setCore_kept (k : Nat) (c : Core) (j : Nat) : (s.setCore k c).barge j = s.barge j := rfl

@[simp] theorem launch_setCore_kept (k : Nat) (c : Core) (j : Nat) : (s.setCore k c).launch j = s.launch j := rfl

@[simp] theorem cluster_setCore_kept (k : Nat) (c : Core) (j : Nat) : (s.setCore k c).cluster j = s.cluster j := rfl

@[simp] theorem die_setCore_kept (k : Nat) (c : Core) (j : Nat) : (s.setCore k c).die j = s.die j := rfl

@[simp] theorem slice_setCore_kept (k : Nat) (c : Core) (j : Nat) : (s.setCore k c).slice j = s.slice j := rfl

@[simp] theorem slot_setCore_kept (k : Nat) (c : Core) (j : Nat) : (s.setCore k c).slot j = s.slot j := rfl

@[simp] theorem station_setCore_kept (k : Nat) (c : Core) (j : Nat) : (s.setCore k c).station j = s.station j := rfl

@[simp] theorem op_setCore_kept (k : Nat) (c : Core) (j : Nat) : (s.setCore k c).op j = s.op j := rfl

@[simp] theorem hasOp_setCore_kept (k : Nat) (c : Core) (j : Nat) : (s.setCore k c).hasOp j = s.hasOp j := rfl

@[simp] theorem group_modCore_kept (k : Nat) (f : Core → Core) (j : Nat) : (s.modCore k f).group j = s.group j := rfl

@[simp] theorem team_modCore_kept (k : Nat) (f : Core → Core) (j : Nat) : (s.modCore k f).team j = s.team j := rfl

@[simp] theorem barge_modCore_kept (k : Nat) (f : Core → Core) (j : Nat) : (s.modCore k f).barge j = s.barge j := rfl

@[simp] theorem launch_modCore_kept (k : Nat) (f : Core → Core) (j : Nat) : (s.modCore k f).launch j = s.launch j := rfl

@[simp] theorem cluster_modCore_kept (k : Nat) (f : Core → Core) (j : Nat) : (s.modCore k f).cluster j = s.cluster j := rfl

@[simp] theorem die_modCore_kept (k : Nat) (f : Core → Core) (j : Nat) : (s.modCore k f).die j = s.die j := rfl

@[simp] theorem slice_modCore_kept (k : Nat) (f : Core → Core) (j : Nat) : (s.modCore k f).slice j = s.slice j := rfl

@[simp] theorem slot_modCore_kept (k : Nat) (f : Core → Core) (j : Nat) : (s.modCore k f).slot j = s.slot j := rfl

@[simp] theorem station_modCore_kept (k : Nat) (f : Core → Core) (j : Nat) : (s.modCore k f).station j = s.station j := rfl

@[simp] theorem op_modCore_kept (k : Nat) (f : Core → Core) (j : Nat) : (s.modCore k f).op j = s.op j := rfl

@[simp] theorem hasOp_modCore_kept (k : Nat) (f : Core → Core) (j : Nat) : (s.modCore k f).hasOp j = s.hasOp j := rfl

@[simp] theorem group_modEngine_kept (k : Nat) (f : Engine → Engine) (j : Nat) : (s.modEngine k f).group j = s.group j := rfl

@[simp] theorem team_modEngine_kept (k : Nat) (f : Engine → Engine) (j : Nat) : (s.modEngine k f).team j = s.team j := rfl

@[simp] theorem barge_modEngine_kept (k : Nat) (f : Engine → Engine) (j : Nat) : (s.modEngine k f).barge j = s.barge j := rfl

@[simp] theorem launch_modEngine_kept (k : Nat) (f : Engine → Engine) (j : Nat) : (s.modEngine k f).launch j = s.launch j := rfl

@[simp] theorem cluster_modEngine_kept (k : Nat) (f : Engine → Engine) (j : Nat) : (s.modEngine k f).cluster j = s.cluster j := rfl

@[simp] theorem die_modEngine_kept (k : Nat) (f : Engine → Engine) (j : Nat) : (s.modEngine k f).die j = s.die j := rfl

@[simp] theorem slice_modEngine_kept (k : Nat) (f : Engine → Engine) (j : Nat) : (s.modEngine k f).slice j = s.slice j := rfl

@[simp] theorem slot_modEngine_kept (k : Nat) (f : Engine → Engine) (j : Nat) : (s.modEngine k f).slot j = s.slot j := rfl

@[simp] theorem station_modEngine_kept (k : Nat) (f : Engine → Engine) (j : Nat) : (s.modEngine k f).station j = s.station j := rfl

@[simp] theorem op_modEngine_kept (k : Nat) (f : Engine → Engine) (j : Nat) : (s.modEngine k f).op j = s.op j := rfl

@[simp] theorem hasOp_modEngine_kept (k : Nat) (f : Engine → Engine) (j : Nat) : (s.modEngine k f).hasOp j = s.hasOp j := rfl

@[simp] theorem group_setLaunch_kept (k : Nat) (l : Launch) (j : Nat) : (s.setLaunch k l).group j = s.group j := rfl

@[simp] theorem team_setLaunch_kept (k : Nat) (l : Launch) (j : Nat) : (s.setLaunch k l).team j = s.team j := rfl

@[simp] theorem barge_setLaunch_kept (k : Nat) (l : Launch) (j : Nat) : (s.setLaunch k l).barge j = s.barge j := rfl

@[simp] theorem core_setLaunch_kept (k : Nat) (l : Launch) (j : Nat) : (s.setLaunch k l).core j = s.core j := rfl

@[simp] theorem engine_setLaunch_kept (k : Nat) (l : Launch) (j : Nat) : (s.setLaunch k l).engine j = s.engine j := rfl

@[simp] theorem die_setLaunch_kept (k : Nat) (l : Launch) (j : Nat) : (s.setLaunch k l).die j = s.die j := rfl

@[simp] theorem slice_setLaunch_kept (k : Nat) (l : Launch) (j : Nat) : (s.setLaunch k l).slice j = s.slice j := rfl

@[simp] theorem slot_setLaunch_kept (k : Nat) (l : Launch) (j : Nat) : (s.setLaunch k l).slot j = s.slot j := rfl

@[simp] theorem station_setLaunch_kept (k : Nat) (l : Launch) (j : Nat) : (s.setLaunch k l).station j = s.station j := rfl

@[simp] theorem op_setLaunch_kept (k : Nat) (l : Launch) (j : Nat) : (s.setLaunch k l).op j = s.op j := rfl

@[simp] theorem hasOp_setLaunch_kept (k : Nat) (l : Launch) (j : Nat) : (s.setLaunch k l).hasOp j = s.hasOp j := rfl

@[simp] theorem group_modLaunch_kept (k : Nat) (f : Launch → Launch) (j : Nat) : (s.modLaunch k f).group j = s.group j := rfl

@[simp] theorem team_modLaunch_kept (k : Nat) (f : Launch → Launch) (j : Nat) : (s.modLaunch k f).team j = s.team j := rfl

@[simp] theorem barge_modLaunch_kept (k : Nat) (f : Launch → Launch) (j : Nat) : (s.modLaunch k f).barge j = s.barge j := rfl

@[simp] theorem core_modLaunch_kept (k : Nat) (f : Launch → Launch) (j : Nat) : (s.modLaunch k f).core j = s.core j := rfl

@[simp] theorem engine_modLaunch_kept (k : Nat) (f : Launch → Launch) (j : Nat) : (s.modLaunch k f).engine j = s.engine j := rfl

@[simp] theorem die_modLaunch_kept (k : Nat) (f : Launch → Launch) (j : Nat) : (s.modLaunch k f).die j = s.die j := rfl

@[simp] theorem slice_modLaunch_kept (k : Nat) (f : Launch → Launch) (j : Nat) : (s.modLaunch k f).slice j = s.slice j := rfl

@[simp] theorem slot_modLaunch_kept (k : Nat) (f : Launch → Launch) (j : Nat) : (s.modLaunch k f).slot j = s.slot j := rfl

@[simp] theorem station_modLaunch_kept (k : Nat) (f : Launch → Launch) (j : Nat) : (s.modLaunch k f).station j = s.station j := rfl

@[simp] theorem op_modLaunch_kept (k : Nat) (f : Launch → Launch) (j : Nat) : (s.modLaunch k f).op j = s.op j := rfl

@[simp] theorem hasOp_modLaunch_kept (k : Nat) (f : Launch → Launch) (j : Nat) : (s.modLaunch k f).hasOp j = s.hasOp j := rfl

@[simp] theorem group_setCluster_kept (k : Nat) (c : Cluster) (j : Nat) : (s.setCluster k c).group j = s.group j := rfl

@[simp] theorem team_setCluster_kept (k : Nat) (c : Cluster) (j : Nat) : (s.setCluster k c).team j = s.team j := rfl

@[simp] theorem barge_setCluster_kept (k : Nat) (c : Cluster) (j : Nat) : (s.setCluster k c).barge j = s.barge j := rfl

@[simp] theorem core_setCluster_kept (k : Nat) (c : Cluster) (j : Nat) : (s.setCluster k c).core j = s.core j := rfl

@[simp] theorem engine_setCluster_kept (k : Nat) (c : Cluster) (j : Nat) : (s.setCluster k c).engine j = s.engine j := rfl

@[simp] theorem die_setCluster_kept (k : Nat) (c : Cluster) (j : Nat) : (s.setCluster k c).die j = s.die j := rfl

@[simp] theorem slice_setCluster_kept (k : Nat) (c : Cluster) (j : Nat) : (s.setCluster k c).slice j = s.slice j := rfl

@[simp] theorem slot_setCluster_kept (k : Nat) (c : Cluster) (j : Nat) : (s.setCluster k c).slot j = s.slot j := rfl

@[simp] theorem station_setCluster_kept (k : Nat) (c : Cluster) (j : Nat) : (s.setCluster k c).station j = s.station j := rfl

@[simp] theorem op_setCluster_kept (k : Nat) (c : Cluster) (j : Nat) : (s.setCluster k c).op j = s.op j := rfl

@[simp] theorem hasOp_setCluster_kept (k : Nat) (c : Cluster) (j : Nat) : (s.setCluster k c).hasOp j = s.hasOp j := rfl

@[simp] theorem group_modCluster_kept (k : Nat) (f : Cluster → Cluster) (j : Nat) : (s.modCluster k f).group j = s.group j := rfl

@[simp] theorem team_modCluster_kept (k : Nat) (f : Cluster → Cluster) (j : Nat) : (s.modCluster k f).team j = s.team j := rfl

@[simp] theorem barge_modCluster_kept (k : Nat) (f : Cluster → Cluster) (j : Nat) : (s.modCluster k f).barge j = s.barge j := rfl

@[simp] theorem core_modCluster_kept (k : Nat) (f : Cluster → Cluster) (j : Nat) : (s.modCluster k f).core j = s.core j := rfl

@[simp] theorem engine_modCluster_kept (k : Nat) (f : Cluster → Cluster) (j : Nat) : (s.modCluster k f).engine j = s.engine j := rfl

@[simp] theorem die_modCluster_kept (k : Nat) (f : Cluster → Cluster) (j : Nat) : (s.modCluster k f).die j = s.die j := rfl

@[simp] theorem slice_modCluster_kept (k : Nat) (f : Cluster → Cluster) (j : Nat) : (s.modCluster k f).slice j = s.slice j := rfl

@[simp] theorem slot_modCluster_kept (k : Nat) (f : Cluster → Cluster) (j : Nat) : (s.modCluster k f).slot j = s.slot j := rfl

@[simp] theorem station_modCluster_kept (k : Nat) (f : Cluster → Cluster) (j : Nat) : (s.modCluster k f).station j = s.station j := rfl

@[simp] theorem op_modCluster_kept (k : Nat) (f : Cluster → Cluster) (j : Nat) : (s.modCluster k f).op j = s.op j := rfl

@[simp] theorem hasOp_modCluster_kept (k : Nat) (f : Cluster → Cluster) (j : Nat) : (s.modCluster k f).hasOp j = s.hasOp j := rfl

@[simp] theorem group_modDie_kept (k : Nat) (f : DieState → DieState) (j : Nat) : (s.modDie k f).group j = s.group j := rfl

@[simp] theorem team_modDie_kept (k : Nat) (f : DieState → DieState) (j : Nat) : (s.modDie k f).team j = s.team j := rfl

@[simp] theorem barge_modDie_kept (k : Nat) (f : DieState → DieState) (j : Nat) : (s.modDie k f).barge j = s.barge j := rfl

@[simp] theorem core_modDie_kept (k : Nat) (f : DieState → DieState) (j : Nat) : (s.modDie k f).core j = s.core j := rfl

@[simp] theorem engine_modDie_kept (k : Nat) (f : DieState → DieState) (j : Nat) : (s.modDie k f).engine j = s.engine j := rfl

@[simp] theorem launch_modDie_kept (k : Nat) (f : DieState → DieState) (j : Nat) : (s.modDie k f).launch j = s.launch j := rfl

@[simp] theorem cluster_modDie_kept (k : Nat) (f : DieState → DieState) (j : Nat) : (s.modDie k f).cluster j = s.cluster j := rfl

@[simp] theorem slice_modDie_kept (k : Nat) (f : DieState → DieState) (j : Nat) : (s.modDie k f).slice j = s.slice j := rfl

@[simp] theorem slot_modDie_kept (k : Nat) (f : DieState → DieState) (j : Nat) : (s.modDie k f).slot j = s.slot j := rfl

@[simp] theorem station_modDie_kept (k : Nat) (f : DieState → DieState) (j : Nat) : (s.modDie k f).station j = s.station j := rfl

@[simp] theorem op_modDie_kept (k : Nat) (f : DieState → DieState) (j : Nat) : (s.modDie k f).op j = s.op j := rfl

@[simp] theorem hasOp_modDie_kept (k : Nat) (f : DieState → DieState) (j : Nat) : (s.modDie k f).hasOp j = s.hasOp j := rfl

@[simp] theorem group_modSlice_kept (k : Nat) (f : SliceState → SliceState) (j : Nat) : (s.modSlice k f).group j = s.group j := rfl

@[simp] theorem team_modSlice_kept (k : Nat) (f : SliceState → SliceState) (j : Nat) : (s.modSlice k f).team j = s.team j := rfl

@[simp] theorem barge_modSlice_kept (k : Nat) (f : SliceState → SliceState) (j : Nat) : (s.modSlice k f).barge j = s.barge j := rfl

@[simp] theorem core_modSlice_kept (k : Nat) (f : SliceState → SliceState) (j : Nat) : (s.modSlice k f).core j = s.core j := rfl

@[simp] theorem engine_modSlice_kept (k : Nat) (f : SliceState → SliceState) (j : Nat) : (s.modSlice k f).engine j = s.engine j := rfl

@[simp] theorem launch_modSlice_kept (k : Nat) (f : SliceState → SliceState) (j : Nat) : (s.modSlice k f).launch j = s.launch j := rfl

@[simp] theorem cluster_modSlice_kept (k : Nat) (f : SliceState → SliceState) (j : Nat) : (s.modSlice k f).cluster j = s.cluster j := rfl

@[simp] theorem die_modSlice_kept (k : Nat) (f : SliceState → SliceState) (j : Nat) : (s.modSlice k f).die j = s.die j := rfl

@[simp] theorem slot_modSlice_kept (k : Nat) (f : SliceState → SliceState) (j : Nat) : (s.modSlice k f).slot j = s.slot j := rfl

@[simp] theorem station_modSlice_kept (k : Nat) (f : SliceState → SliceState) (j : Nat) : (s.modSlice k f).station j = s.station j := rfl

@[simp] theorem op_modSlice_kept (k : Nat) (f : SliceState → SliceState) (j : Nat) : (s.modSlice k f).op j = s.op j := rfl

@[simp] theorem hasOp_modSlice_kept (k : Nat) (f : SliceState → SliceState) (j : Nat) : (s.modSlice k f).hasOp j = s.hasOp j := rfl

@[simp] theorem group_modSlot_kept (k : Nat) (f : Slot → Slot) (j : Nat) : (s.modSlot k f).group j = s.group j := rfl

@[simp] theorem team_modSlot_kept (k : Nat) (f : Slot → Slot) (j : Nat) : (s.modSlot k f).team j = s.team j := rfl

@[simp] theorem barge_modSlot_kept (k : Nat) (f : Slot → Slot) (j : Nat) : (s.modSlot k f).barge j = s.barge j := rfl

@[simp] theorem core_modSlot_kept (k : Nat) (f : Slot → Slot) (j : Nat) : (s.modSlot k f).core j = s.core j := rfl

@[simp] theorem engine_modSlot_kept (k : Nat) (f : Slot → Slot) (j : Nat) : (s.modSlot k f).engine j = s.engine j := rfl

@[simp] theorem launch_modSlot_kept (k : Nat) (f : Slot → Slot) (j : Nat) : (s.modSlot k f).launch j = s.launch j := rfl

@[simp] theorem cluster_modSlot_kept (k : Nat) (f : Slot → Slot) (j : Nat) : (s.modSlot k f).cluster j = s.cluster j := rfl

@[simp] theorem die_modSlot_kept (k : Nat) (f : Slot → Slot) (j : Nat) : (s.modSlot k f).die j = s.die j := rfl

@[simp] theorem slice_modSlot_kept (k : Nat) (f : Slot → Slot) (j : Nat) : (s.modSlot k f).slice j = s.slice j := rfl

@[simp] theorem station_modSlot_kept (k : Nat) (f : Slot → Slot) (j : Nat) : (s.modSlot k f).station j = s.station j := rfl

@[simp] theorem op_modSlot_kept (k : Nat) (f : Slot → Slot) (j : Nat) : (s.modSlot k f).op j = s.op j := rfl

@[simp] theorem hasOp_modSlot_kept (k : Nat) (f : Slot → Slot) (j : Nat) : (s.modSlot k f).hasOp j = s.hasOp j := rfl

@[simp] theorem group_modStation_kept (k : Nat) (f : Station → Station) (j : Nat) : (s.modStation k f).group j = s.group j := rfl

@[simp] theorem team_modStation_kept (k : Nat) (f : Station → Station) (j : Nat) : (s.modStation k f).team j = s.team j := rfl

@[simp] theorem barge_modStation_kept (k : Nat) (f : Station → Station) (j : Nat) : (s.modStation k f).barge j = s.barge j := rfl

@[simp] theorem core_modStation_kept (k : Nat) (f : Station → Station) (j : Nat) : (s.modStation k f).core j = s.core j := rfl

@[simp] theorem engine_modStation_kept (k : Nat) (f : Station → Station) (j : Nat) : (s.modStation k f).engine j = s.engine j := rfl

@[simp] theorem launch_modStation_kept (k : Nat) (f : Station → Station) (j : Nat) : (s.modStation k f).launch j = s.launch j := rfl

@[simp] theorem cluster_modStation_kept (k : Nat) (f : Station → Station) (j : Nat) : (s.modStation k f).cluster j = s.cluster j := rfl

@[simp] theorem die_modStation_kept (k : Nat) (f : Station → Station) (j : Nat) : (s.modStation k f).die j = s.die j := rfl

@[simp] theorem slice_modStation_kept (k : Nat) (f : Station → Station) (j : Nat) : (s.modStation k f).slice j = s.slice j := rfl

@[simp] theorem slot_modStation_kept (k : Nat) (f : Station → Station) (j : Nat) : (s.modStation k f).slot j = s.slot j := rfl

@[simp] theorem op_modStation_kept (k : Nat) (f : Station → Station) (j : Nat) : (s.modStation k f).op j = s.op j := rfl

@[simp] theorem hasOp_modStation_kept (k : Nat) (f : Station → Station) (j : Nat) : (s.modStation k f).hasOp j = s.hasOp j := rfl

@[simp] theorem group_modMem_kept (f : Memory → Memory) (j : Nat) : (s.modMem f).group j = s.group j := rfl

@[simp] theorem team_modMem_kept (f : Memory → Memory) (j : Nat) : (s.modMem f).team j = s.team j := rfl

@[simp] theorem barge_modMem_kept (f : Memory → Memory) (j : Nat) : (s.modMem f).barge j = s.barge j := rfl

@[simp] theorem core_modMem_kept (f : Memory → Memory) (j : Nat) : (s.modMem f).core j = s.core j := rfl

@[simp] theorem engine_modMem_kept (f : Memory → Memory) (j : Nat) : (s.modMem f).engine j = s.engine j := rfl

@[simp] theorem launch_modMem_kept (f : Memory → Memory) (j : Nat) : (s.modMem f).launch j = s.launch j := rfl

@[simp] theorem cluster_modMem_kept (f : Memory → Memory) (j : Nat) : (s.modMem f).cluster j = s.cluster j := rfl

@[simp] theorem die_modMem_kept (f : Memory → Memory) (j : Nat) : (s.modMem f).die j = s.die j := rfl

@[simp] theorem slice_modMem_kept (f : Memory → Memory) (j : Nat) : (s.modMem f).slice j = s.slice j := rfl

@[simp] theorem slot_modMem_kept (f : Memory → Memory) (j : Nat) : (s.modMem f).slot j = s.slot j := rfl

@[simp] theorem station_modMem_kept (f : Memory → Memory) (j : Nat) : (s.modMem f).station j = s.station j := rfl

@[simp] theorem op_modMem_kept (f : Memory → Memory) (j : Nat) : (s.modMem f).op j = s.op j := rfl

@[simp] theorem hasOp_modMem_kept (f : Memory → Memory) (j : Nat) : (s.modMem f).hasOp j = s.hasOp j := rfl

@[simp] theorem group_modXlat_kept (f : Xlat → Xlat) (j : Nat) : (s.modXlat f).group j = s.group j := rfl

@[simp] theorem team_modXlat_kept (f : Xlat → Xlat) (j : Nat) : (s.modXlat f).team j = s.team j := rfl

@[simp] theorem barge_modXlat_kept (f : Xlat → Xlat) (j : Nat) : (s.modXlat f).barge j = s.barge j := rfl

@[simp] theorem core_modXlat_kept (f : Xlat → Xlat) (j : Nat) : (s.modXlat f).core j = s.core j := rfl

@[simp] theorem engine_modXlat_kept (f : Xlat → Xlat) (j : Nat) : (s.modXlat f).engine j = s.engine j := rfl

@[simp] theorem launch_modXlat_kept (f : Xlat → Xlat) (j : Nat) : (s.modXlat f).launch j = s.launch j := rfl

@[simp] theorem cluster_modXlat_kept (f : Xlat → Xlat) (j : Nat) : (s.modXlat f).cluster j = s.cluster j := rfl

@[simp] theorem die_modXlat_kept (f : Xlat → Xlat) (j : Nat) : (s.modXlat f).die j = s.die j := rfl

@[simp] theorem slot_modXlat_kept (f : Xlat → Xlat) (j : Nat) : (s.modXlat f).slot j = s.slot j := rfl

@[simp] theorem station_modXlat_kept (f : Xlat → Xlat) (j : Nat) : (s.modXlat f).station j = s.station j := rfl

@[simp] theorem op_modXlat_kept (f : Xlat → Xlat) (j : Nat) : (s.modXlat f).op j = s.op j := rfl

@[simp] theorem hasOp_modXlat_kept (f : Xlat → Xlat) (j : Nat) : (s.modXlat f).hasOp j = s.hasOp j := rfl

@[simp] theorem group_modScr_kept (f : Scratch → Scratch) (j : Nat) : (s.modScr f).group j = s.group j := rfl

@[simp] theorem team_modScr_kept (f : Scratch → Scratch) (j : Nat) : (s.modScr f).team j = s.team j := rfl

@[simp] theorem barge_modScr_kept (f : Scratch → Scratch) (j : Nat) : (s.modScr f).barge j = s.barge j := rfl

@[simp] theorem core_modScr_kept (f : Scratch → Scratch) (j : Nat) : (s.modScr f).core j = s.core j := rfl

@[simp] theorem engine_modScr_kept (f : Scratch → Scratch) (j : Nat) : (s.modScr f).engine j = s.engine j := rfl

@[simp] theorem launch_modScr_kept (f : Scratch → Scratch) (j : Nat) : (s.modScr f).launch j = s.launch j := rfl

@[simp] theorem cluster_modScr_kept (f : Scratch → Scratch) (j : Nat) : (s.modScr f).cluster j = s.cluster j := rfl

@[simp] theorem die_modScr_kept (f : Scratch → Scratch) (j : Nat) : (s.modScr f).die j = s.die j := rfl

@[simp] theorem slice_modScr_kept (f : Scratch → Scratch) (j : Nat) : (s.modScr f).slice j = s.slice j := rfl

@[simp] theorem slot_modScr_kept (f : Scratch → Scratch) (j : Nat) : (s.modScr f).slot j = s.slot j := rfl

@[simp] theorem station_modScr_kept (f : Scratch → Scratch) (j : Nat) : (s.modScr f).station j = s.station j := rfl

@[simp] theorem op_modScr_kept (f : Scratch → Scratch) (j : Nat) : (s.modScr f).op j = s.op j := rfl

@[simp] theorem hasOp_modScr_kept (f : Scratch → Scratch) (j : Nat) : (s.modScr f).hasOp j = s.hasOp j := rfl

@[simp] theorem group_modWork_kept (f : Work → Work) (j : Nat) : (s.modWork f).group j = s.group j := rfl

@[simp] theorem team_modWork_kept (f : Work → Work) (j : Nat) : (s.modWork f).team j = s.team j := rfl

@[simp] theorem barge_modWork_kept (f : Work → Work) (j : Nat) : (s.modWork f).barge j = s.barge j := rfl

@[simp] theorem core_modWork_kept (f : Work → Work) (j : Nat) : (s.modWork f).core j = s.core j := rfl

@[simp] theorem engine_modWork_kept (f : Work → Work) (j : Nat) : (s.modWork f).engine j = s.engine j := rfl

@[simp] theorem die_modWork_kept (f : Work → Work) (j : Nat) : (s.modWork f).die j = s.die j := rfl

@[simp] theorem slice_modWork_kept (f : Work → Work) (j : Nat) : (s.modWork f).slice j = s.slice j := rfl

@[simp] theorem slot_modWork_kept (f : Work → Work) (j : Nat) : (s.modWork f).slot j = s.slot j := rfl

@[simp] theorem station_modWork_kept (f : Work → Work) (j : Nat) : (s.modWork f).station j = s.station j := rfl

@[simp] theorem op_modWork_kept (f : Work → Work) (j : Nat) : (s.modWork f).op j = s.op j := rfl

@[simp] theorem hasOp_modWork_kept (f : Work → Work) (j : Nat) : (s.modWork f).hasOp j = s.hasOp j := rfl

@[simp] theorem group_modSched_kept (f : Sched → Sched) (j : Nat) : (s.modSched f).group j = s.group j := rfl

@[simp] theorem team_modSched_kept (f : Sched → Sched) (j : Nat) : (s.modSched f).team j = s.team j := rfl

@[simp] theorem barge_modSched_kept (f : Sched → Sched) (j : Nat) : (s.modSched f).barge j = s.barge j := rfl

@[simp] theorem core_modSched_kept (f : Sched → Sched) (j : Nat) : (s.modSched f).core j = s.core j := rfl

@[simp] theorem engine_modSched_kept (f : Sched → Sched) (j : Nat) : (s.modSched f).engine j = s.engine j := rfl

@[simp] theorem launch_modSched_kept (f : Sched → Sched) (j : Nat) : (s.modSched f).launch j = s.launch j := rfl

@[simp] theorem cluster_modSched_kept (f : Sched → Sched) (j : Nat) : (s.modSched f).cluster j = s.cluster j := rfl

@[simp] theorem die_modSched_kept (f : Sched → Sched) (j : Nat) : (s.modSched f).die j = s.die j := rfl

@[simp] theorem slice_modSched_kept (f : Sched → Sched) (j : Nat) : (s.modSched f).slice j = s.slice j := rfl

@[simp] theorem slot_modSched_kept (f : Sched → Sched) (j : Nat) : (s.modSched f).slot j = s.slot j := rfl

@[simp] theorem station_modSched_kept (f : Sched → Sched) (j : Nat) : (s.modSched f).station j = s.station j := rfl

@[simp] theorem op_modSched_kept (f : Sched → Sched) (j : Nat) : (s.modSched f).op j = s.op j := rfl

@[simp] theorem hasOp_modSched_kept (f : Sched → Sched) (j : Nat) : (s.modSched f).hasOp j = s.hasOp j := rfl

@[simp] theorem group_modFabric_kept (f : Fabric → Fabric) (j : Nat) : (s.modFabric f).group j = s.group j := rfl

@[simp] theorem team_modFabric_kept (f : Fabric → Fabric) (j : Nat) : (s.modFabric f).team j = s.team j := rfl

@[simp] theorem barge_modFabric_kept (f : Fabric → Fabric) (j : Nat) : (s.modFabric f).barge j = s.barge j := rfl

@[simp] theorem core_modFabric_kept (f : Fabric → Fabric) (j : Nat) : (s.modFabric f).core j = s.core j := rfl

@[simp] theorem engine_modFabric_kept (f : Fabric → Fabric) (j : Nat) : (s.modFabric f).engine j = s.engine j := rfl

@[simp] theorem launch_modFabric_kept (f : Fabric → Fabric) (j : Nat) : (s.modFabric f).launch j = s.launch j := rfl

@[simp] theorem cluster_modFabric_kept (f : Fabric → Fabric) (j : Nat) : (s.modFabric f).cluster j = s.cluster j := rfl

@[simp] theorem die_modFabric_kept (f : Fabric → Fabric) (j : Nat) : (s.modFabric f).die j = s.die j := rfl

@[simp] theorem slice_modFabric_kept (f : Fabric → Fabric) (j : Nat) : (s.modFabric f).slice j = s.slice j := rfl

@[simp] theorem slot_modFabric_kept (f : Fabric → Fabric) (j : Nat) : (s.modFabric f).slot j = s.slot j := rfl

@[simp] theorem op_modFabric_kept (f : Fabric → Fabric) (j : Nat) : (s.modFabric f).op j = s.op j := rfl

@[simp] theorem hasOp_modFabric_kept (f : Fabric → Fabric) (j : Nat) : (s.modFabric f).hasOp j = s.hasOp j := rfl

@[simp] theorem group_modHost_kept (f : HostIf → HostIf) (j : Nat) : (s.modHost f).group j = s.group j := rfl

@[simp] theorem team_modHost_kept (f : HostIf → HostIf) (j : Nat) : (s.modHost f).team j = s.team j := rfl

@[simp] theorem barge_modHost_kept (f : HostIf → HostIf) (j : Nat) : (s.modHost f).barge j = s.barge j := rfl

@[simp] theorem core_modHost_kept (f : HostIf → HostIf) (j : Nat) : (s.modHost f).core j = s.core j := rfl

@[simp] theorem engine_modHost_kept (f : HostIf → HostIf) (j : Nat) : (s.modHost f).engine j = s.engine j := rfl

@[simp] theorem launch_modHost_kept (f : HostIf → HostIf) (j : Nat) : (s.modHost f).launch j = s.launch j := rfl

@[simp] theorem cluster_modHost_kept (f : HostIf → HostIf) (j : Nat) : (s.modHost f).cluster j = s.cluster j := rfl

@[simp] theorem die_modHost_kept (f : HostIf → HostIf) (j : Nat) : (s.modHost f).die j = s.die j := rfl

@[simp] theorem slice_modHost_kept (f : HostIf → HostIf) (j : Nat) : (s.modHost f).slice j = s.slice j := rfl

@[simp] theorem slot_modHost_kept (f : HostIf → HostIf) (j : Nat) : (s.modHost f).slot j = s.slot j := rfl

@[simp] theorem station_modHost_kept (f : HostIf → HostIf) (j : Nat) : (s.modHost f).station j = s.station j := rfl

@[simp] theorem op_modHost_kept (f : HostIf → HostIf) (j : Nat) : (s.modHost f).op j = s.op j := rfl

@[simp] theorem hasOp_modHost_kept (f : HostIf → HostIf) (j : Nat) : (s.modHost f).hasOp j = s.hasOp j := rfl

@[simp] theorem group_modMgmt_kept (f : Mgmt → Mgmt) (j : Nat) : (s.modMgmt f).group j = s.group j := rfl

@[simp] theorem team_modMgmt_kept (f : Mgmt → Mgmt) (j : Nat) : (s.modMgmt f).team j = s.team j := rfl

@[simp] theorem barge_modMgmt_kept (f : Mgmt → Mgmt) (j : Nat) : (s.modMgmt f).barge j = s.barge j := rfl

@[simp] theorem core_modMgmt_kept (f : Mgmt → Mgmt) (j : Nat) : (s.modMgmt f).core j = s.core j := rfl

@[simp] theorem engine_modMgmt_kept (f : Mgmt → Mgmt) (j : Nat) : (s.modMgmt f).engine j = s.engine j := rfl

@[simp] theorem launch_modMgmt_kept (f : Mgmt → Mgmt) (j : Nat) : (s.modMgmt f).launch j = s.launch j := rfl

@[simp] theorem cluster_modMgmt_kept (f : Mgmt → Mgmt) (j : Nat) : (s.modMgmt f).cluster j = s.cluster j := rfl

@[simp] theorem slice_modMgmt_kept (f : Mgmt → Mgmt) (j : Nat) : (s.modMgmt f).slice j = s.slice j := rfl

@[simp] theorem slot_modMgmt_kept (f : Mgmt → Mgmt) (j : Nat) : (s.modMgmt f).slot j = s.slot j := rfl

@[simp] theorem station_modMgmt_kept (f : Mgmt → Mgmt) (j : Nat) : (s.modMgmt f).station j = s.station j := rfl

@[simp] theorem op_modMgmt_kept (f : Mgmt → Mgmt) (j : Nat) : (s.modMgmt f).op j = s.op j := rfl

@[simp] theorem hasOp_modMgmt_kept (f : Mgmt → Mgmt) (j : Nat) : (s.modMgmt f).hasOp j = s.hasOp j := rfl

@[simp] theorem group_send_kept (m : Message) (j : Nat) : (s.send m).group j = s.group j := rfl

@[simp] theorem team_send_kept (m : Message) (j : Nat) : (s.send m).team j = s.team j := rfl

@[simp] theorem barge_send_kept (m : Message) (j : Nat) : (s.send m).barge j = s.barge j := rfl

@[simp] theorem core_send_kept (m : Message) (j : Nat) : (s.send m).core j = s.core j := rfl

@[simp] theorem engine_send_kept (m : Message) (j : Nat) : (s.send m).engine j = s.engine j := rfl

@[simp] theorem launch_send_kept (m : Message) (j : Nat) : (s.send m).launch j = s.launch j := rfl

@[simp] theorem cluster_send_kept (m : Message) (j : Nat) : (s.send m).cluster j = s.cluster j := rfl

@[simp] theorem die_send_kept (m : Message) (j : Nat) : (s.send m).die j = s.die j := rfl

@[simp] theorem slice_send_kept (m : Message) (j : Nat) : (s.send m).slice j = s.slice j := rfl

@[simp] theorem slot_send_kept (m : Message) (j : Nat) : (s.send m).slot j = s.slot j := rfl

@[simp] theorem op_send_kept (m : Message) (j : Nat) : (s.send m).op j = s.op j := rfl

@[simp] theorem hasOp_send_kept (m : Message) (j : Nat) : (s.send m).hasOp j = s.hasOp j := rfl

@[simp] theorem group_setQueueReg_kept (q k x : Nat) (j : Nat) : (s.setQueueReg q k x).group j = s.group j := rfl

@[simp] theorem team_setQueueReg_kept (q k x : Nat) (j : Nat) : (s.setQueueReg q k x).team j = s.team j := rfl

@[simp] theorem barge_setQueueReg_kept (q k x : Nat) (j : Nat) : (s.setQueueReg q k x).barge j = s.barge j := rfl

@[simp] theorem core_setQueueReg_kept (q k x : Nat) (j : Nat) : (s.setQueueReg q k x).core j = s.core j := rfl

@[simp] theorem engine_setQueueReg_kept (q k x : Nat) (j : Nat) : (s.setQueueReg q k x).engine j = s.engine j := rfl

@[simp] theorem launch_setQueueReg_kept (q k x : Nat) (j : Nat) : (s.setQueueReg q k x).launch j = s.launch j := rfl

@[simp] theorem cluster_setQueueReg_kept (q k x : Nat) (j : Nat) : (s.setQueueReg q k x).cluster j = s.cluster j := rfl

@[simp] theorem die_setQueueReg_kept (q k x : Nat) (j : Nat) : (s.setQueueReg q k x).die j = s.die j := rfl

@[simp] theorem slice_setQueueReg_kept (q k x : Nat) (j : Nat) : (s.setQueueReg q k x).slice j = s.slice j := rfl

@[simp] theorem slot_setQueueReg_kept (q k x : Nat) (j : Nat) : (s.setQueueReg q k x).slot j = s.slot j := rfl

@[simp] theorem station_setQueueReg_kept (q k x : Nat) (j : Nat) : (s.setQueueReg q k x).station j = s.station j := rfl

@[simp] theorem op_setQueueReg_kept (q k x : Nat) (j : Nat) : (s.setQueueReg q k x).op j = s.op j := rfl

@[simp] theorem hasOp_setQueueReg_kept (q k x : Nat) (j : Nat) : (s.setQueueReg q k x).hasOp j = s.hasOp j := rfl

@[simp] theorem group_setOp_kept (k : Nat) (o : Op) (j : Nat) : (s.setOp k o).group j = s.group j := rfl

@[simp] theorem team_setOp_kept (k : Nat) (o : Op) (j : Nat) : (s.setOp k o).team j = s.team j := rfl

@[simp] theorem barge_setOp_kept (k : Nat) (o : Op) (j : Nat) : (s.setOp k o).barge j = s.barge j := rfl

@[simp] theorem core_setOp_kept (k : Nat) (o : Op) (j : Nat) : (s.setOp k o).core j = s.core j := rfl

@[simp] theorem engine_setOp_kept (k : Nat) (o : Op) (j : Nat) : (s.setOp k o).engine j = s.engine j := rfl

@[simp] theorem launch_setOp_kept (k : Nat) (o : Op) (j : Nat) : (s.setOp k o).launch j = s.launch j := rfl

@[simp] theorem cluster_setOp_kept (k : Nat) (o : Op) (j : Nat) : (s.setOp k o).cluster j = s.cluster j := rfl

@[simp] theorem die_setOp_kept (k : Nat) (o : Op) (j : Nat) : (s.setOp k o).die j = s.die j := rfl

@[simp] theorem slice_setOp_kept (k : Nat) (o : Op) (j : Nat) : (s.setOp k o).slice j = s.slice j := rfl

@[simp] theorem slot_setOp_kept (k : Nat) (o : Op) (j : Nat) : (s.setOp k o).slot j = s.slot j := rfl

@[simp] theorem station_setOp_kept (k : Nat) (o : Op) (j : Nat) : (s.setOp k o).station j = s.station j := rfl

@[simp] theorem group_dropOp_kept (k : Nat) (j : Nat) : (s.dropOp k).group j = s.group j := rfl

@[simp] theorem team_dropOp_kept (k : Nat) (j : Nat) : (s.dropOp k).team j = s.team j := rfl

@[simp] theorem barge_dropOp_kept (k : Nat) (j : Nat) : (s.dropOp k).barge j = s.barge j := rfl

@[simp] theorem core_dropOp_kept (k : Nat) (j : Nat) : (s.dropOp k).core j = s.core j := rfl

@[simp] theorem engine_dropOp_kept (k : Nat) (j : Nat) : (s.dropOp k).engine j = s.engine j := rfl

@[simp] theorem launch_dropOp_kept (k : Nat) (j : Nat) : (s.dropOp k).launch j = s.launch j := rfl

@[simp] theorem cluster_dropOp_kept (k : Nat) (j : Nat) : (s.dropOp k).cluster j = s.cluster j := rfl

@[simp] theorem die_dropOp_kept (k : Nat) (j : Nat) : (s.dropOp k).die j = s.die j := rfl

@[simp] theorem slice_dropOp_kept (k : Nat) (j : Nat) : (s.dropOp k).slice j = s.slice j := rfl

@[simp] theorem slot_dropOp_kept (k : Nat) (j : Nat) : (s.dropOp k).slot j = s.slot j := rfl

@[simp] theorem station_dropOp_kept (k : Nat) (j : Nat) : (s.dropOp k).station j = s.station j := rfl

@[simp] theorem group_took_kept (j : Nat) : (s.took).group j = s.group j := rfl

@[simp] theorem team_took_kept (j : Nat) : (s.took).team j = s.team j := rfl

@[simp] theorem barge_took_kept (j : Nat) : (s.took).barge j = s.barge j := rfl

@[simp] theorem core_took_kept (j : Nat) : (s.took).core j = s.core j := rfl

@[simp] theorem engine_took_kept (j : Nat) : (s.took).engine j = s.engine j := rfl

@[simp] theorem launch_took_kept (j : Nat) : (s.took).launch j = s.launch j := rfl

@[simp] theorem cluster_took_kept (j : Nat) : (s.took).cluster j = s.cluster j := rfl

@[simp] theorem die_took_kept (j : Nat) : (s.took).die j = s.die j := rfl

@[simp] theorem slice_took_kept (j : Nat) : (s.took).slice j = s.slice j := rfl

@[simp] theorem slot_took_kept (j : Nat) : (s.took).slot j = s.slot j := rfl

@[simp] theorem station_took_kept (j : Nat) : (s.took).station j = s.station j := rfl

@[simp] theorem op_took_kept (j : Nat) : (s.took).op j = s.op j := rfl

@[simp] theorem hasOp_took_kept (j : Nat) : (s.took).hasOp j = s.hasOp j := rfl

@[simp] theorem group_now_kept (ts : List Turn) (j : Nat) : (s.now ts).group j = s.group j := rfl

@[simp] theorem team_now_kept (ts : List Turn) (j : Nat) : (s.now ts).team j = s.team j := rfl

@[simp] theorem barge_now_kept (ts : List Turn) (j : Nat) : (s.now ts).barge j = s.barge j := rfl

@[simp] theorem core_now_kept (ts : List Turn) (j : Nat) : (s.now ts).core j = s.core j := rfl

@[simp] theorem engine_now_kept (ts : List Turn) (j : Nat) : (s.now ts).engine j = s.engine j := rfl

@[simp] theorem launch_now_kept (ts : List Turn) (j : Nat) : (s.now ts).launch j = s.launch j := rfl

@[simp] theorem cluster_now_kept (ts : List Turn) (j : Nat) : (s.now ts).cluster j = s.cluster j := rfl

@[simp] theorem die_now_kept (ts : List Turn) (j : Nat) : (s.now ts).die j = s.die j := rfl

@[simp] theorem slice_now_kept (ts : List Turn) (j : Nat) : (s.now ts).slice j = s.slice j := rfl

@[simp] theorem slot_now_kept (ts : List Turn) (j : Nat) : (s.now ts).slot j = s.slot j := rfl

@[simp] theorem station_now_kept (ts : List Turn) (j : Nat) : (s.now ts).station j = s.station j := rfl

@[simp] theorem op_now_kept (ts : List Turn) (j : Nat) : (s.now ts).op j = s.op j := rfl

@[simp] theorem hasOp_now_kept (ts : List Turn) (j : Nat) : (s.now ts).hasOp j = s.hasOp j := rfl

@[simp] theorem group_newOp_kept (o : Op) (j : Nat) : (s.newOp o).group j = s.group j := rfl

@[simp] theorem team_newOp_kept (o : Op) (j : Nat) : (s.newOp o).team j = s.team j := rfl

@[simp] theorem barge_newOp_kept (o : Op) (j : Nat) : (s.newOp o).barge j = s.barge j := rfl

@[simp] theorem core_newOp_kept (o : Op) (j : Nat) : (s.newOp o).core j = s.core j := rfl

@[simp] theorem engine_newOp_kept (o : Op) (j : Nat) : (s.newOp o).engine j = s.engine j := rfl

@[simp] theorem launch_newOp_kept (o : Op) (j : Nat) : (s.newOp o).launch j = s.launch j := rfl

@[simp] theorem cluster_newOp_kept (o : Op) (j : Nat) : (s.newOp o).cluster j = s.cluster j := rfl

@[simp] theorem die_newOp_kept (o : Op) (j : Nat) : (s.newOp o).die j = s.die j := rfl

@[simp] theorem slice_newOp_kept (o : Op) (j : Nat) : (s.newOp o).slice j = s.slice j := rfl

@[simp] theorem slot_newOp_kept (o : Op) (j : Nat) : (s.newOp o).slot j = s.slot j := rfl

@[simp] theorem station_newOp_kept (o : Op) (j : Nat) : (s.newOp o).station j = s.station j := rfl

@[simp] theorem launch_modCluster_kept (k : Nat) (f : Cluster → Cluster) (j : Nat) : (s.modCluster k f).launch j = s.launch j := rfl

@[simp] theorem cluster_modLaunch_kept (k : Nat) (f : Launch → Launch) (j : Nat) : (s.modLaunch k f).cluster j = s.cluster j := rfl

end Sys2Proof.Laws
end

