-- ==== Sys2Proof/Laws/Memory.lean ====
section
/-! SUPPORT. Memory: a read after a write gives what was written, a write leaves every other byte alone, and every operation on
memory keeps its canonical form. -/

namespace Sys2Proof.Laws

open Sys2Proof Sys2Proof.Machine

/-! ### Bytes -/

@[simp] theorem cell_setCell_same (m : Memory) (a : Nat) (b : Byte) : (m.setCell a b).cell a = b := by
  simp [Memory.cell, Memory.setCell]

theorem cell_setCell_other (m : Memory) (a c : Nat) (b : Byte) (h : c ≠ a) : (m.setCell a b).cell c = m.cell c := by
  simp [Memory.cell, Memory.setCell, get_set_other _ _ _ _ _ h]

/-- A write leaves every byte outside it alone. -/
theorem cell_setCells_other (m : Memory) (a c : Nat) (bs : List Byte) (h : c < a ∨ a + bs.length ≤ c) :
    (m.setCells a bs).cell c = m.cell c := by
  induction bs generalizing m a with
  | nil => rfl
  | cons b bs ih =>
    simp only [List.length_cons] at h
    simp only [Memory.setCells]
    rw [ih (m.setCell a b) (a + 1) (by omega), cell_setCell_other _ _ _ _ (by omega)]

/-- A byte of what was written reads back. -/
theorem cell_setCells (m : Memory) (a k : Nat) (bs : List Byte) (h : k < bs.length) :
    (m.setCells a bs).cell (a + k) = bs[k] := by
  induction bs generalizing m a k with
  | nil => simp at h
  | cons b bs ih =>
    simp only [Memory.setCells]
    cases k with
    | zero => rw [cell_setCells_other _ _ _ _ (by omega)]; simp
    | succ k =>
      have := ih (m.setCell a b) (a + 1) k (by simpa using h)
      simpa [Nat.add_assoc, Nat.add_comm 1 k] using this

/-! ### What changes the bytes of memory, and what does not -/

@[simp] theorem setTag_cells (m : Memory) (sec : Nat) (t : Tag) : (m.setTag sec t).cells = m.cells := rfl

@[simp] theorem spoil_cells (m : Memory) (a n : Nat) : (m.spoil a n).cells = m.cells := rfl

@[simp] theorem noteWatch_cells (m : Memory) (a n : Nat) : (m.noteWatch a n).cells = m.cells := by
  simp only [Memory.noteWatch]
  split <;> rfl

@[simp] theorem setCopy_cells (m : Memory) (line die : Nat) (c : Copy) : (m.setCopy line die c).cells = m.cells := rfl

@[simp] theorem install_cells (m : Memory) (die key line : Nat) : (m.install die key line).cells = m.cells := rfl

@[simp] theorem invalidate_cells (m : Memory) (line die : Nat) : (m.invalidate line die).cells = m.cells := rfl

@[simp] theorem noteLost_cells (m : Memory) (a : Nat) (bs : List Byte) : (m.noteLost a bs).cells = m.cells := by
  induction bs generalizing m a with
  | nil => rfl
  | cons b bs ih =>
    simp only [Memory.noteLost]
    rw [ih]
    split <;> rfl

/-- Folding steps that keep the bytes keeps them. -/
theorem fold_cells {β : Type} (g : Memory → β → Memory) (h : ∀ m x, (g m x).cells = m.cells) (l : List β) (m : Memory) :
    (l.foldl g m).cells = m.cells := by
  induction l generalizing m with
  | nil => rfl
  | cons x l ih => rw [List.foldl_cons, ih, h]

@[simp] theorem invalidateAll_cells (m : Memory) (line except : Nat) : (m.invalidateAll line except).cells = m.cells := by
  simp only [Memory.invalidateAll]
  exact fold_cells _ (fun m d => by split <;> simp) _ _

/-! ### The canonical form -/

theorem setCell_wf (m : Memory) (a : Nat) (b : Byte) (h : m.wf = true) : (m.setCell a b).wf = true :=
  wf_set 0#8 m.cells a b h

theorem setCells_wf (m : Memory) (a : Nat) (bs : List Byte) (h : m.wf = true) : (m.setCells a bs).wf = true := by
  induction bs generalizing m a with
  | nil => exact h
  | cons b bs ih => exact ih _ _ (setCell_wf m a b h)

/-- Only the bytes decide. -/
theorem wf_of_cells (m n : Memory) (h : n.cells = m.cells) (hm : m.wf = true) : n.wf = true := by
  simpa [Memory.wf, h] using hm

theorem writeSector_wf (m n : Memory) (key a : Nat) (bs : List Byte) (h : m.wf = true) (hw : m.writeSector key a bs = .ok n) :
    n.wf = true := by
  simp only [Memory.writeSector] at hw
  split at hw
  · cases hw; exact wf_of_cells _ _ (setTag_cells _ _ _) (setCells_wf m a bs h)
  · split at hw
    · split at hw
      · cases hw
      · cases hw; exact setCells_wf m a bs h
    · split at hw
      · cases hw
      · cases hw
        refine wf_of_cells _ _ (setTag_cells _ _ _) (setCells_wf _ a bs ?_)
        split
        · split
          · exact h
          · exact setCells_wf _ _ _ h
        · exact h

theorem writeParts_wf (m : Memory) (key : Nat) (ps : List (Nat × List Byte)) (h : m.wf = true) : (m.writeParts key ps).1.wf = true := by
  induction ps generalizing m with
  | nil => exact h
  | cons p ps ih =>
    obtain ⟨a, bs⟩ := p
    simp only [Memory.writeParts]
    cases hw : m.writeSector key a bs with
    | error c => exact ih m h
    | ok n => exact ih n (writeSector_wf m n key a bs h hw)

/-- A store at its home keeps the canonical form. -/
theorem homeWrite_wf (m : Memory) (key a : Nat) (bs : List Byte) (h : m.wf = true) : (m.homeWrite key a bs).1.wf = true := by
  have h1 : (((m.noteLost a bs).spoil a bs.length).noteWatch a bs.length).wf = true := wf_of_cells m _ (by simp) h
  have h2 := writeParts_wf _ key (sectorParts a 200 bs) h1
  simp only [Memory.homeWrite]
  split
  · exact h2
  · exact wf_of_cells _ _ rfl h2

/-- A write at package scope keeps the canonical form. -/
theorem pkgWrite_wf (m : Memory) (key a : Nat) (bs : List Byte) (h : m.wf = true) : (m.pkgWrite key a bs).1.wf = true := by
  simp only [Memory.pkgWrite]
  exact wf_of_cells _ _ (fold_cells _ (fun m l => invalidateAll_cells m l 16) _ _) (homeWrite_wf m key a bs h)

/-- After reset nothing is listed. -/
theorem reset_wf : State.reset.mem.wf = true := rfl

end Sys2Proof.Laws
end

