-- ==== Sys2Proof/Laws/Gate.lean ====
section
/-! SUPPORT. What the gate of a group instruction answers, and what each shape of instruction does past it: the statements about
instructions go through these. -/

namespace Sys2Proof.Laws

open Sys2Proof Sys2Proof.Machine

variable {s : State} {f : ExtForm} {u : Use}

/-- Nothing stops the instruction. -/
theorem gate_clear (h : Clear s f u) : gate s f u = .go none := by
  obtain ⟨hp, ho, hw, hm⟩ := h
  have hw' : ((allNames f u).any (fun n => decide (n ∈ awaited s s.sched.cur.grp))) = false := by
    simp only [List.any_eq_false, decide_eq_true_eq]
    exact hw
  have hn : poisonedName s.me (readNames f u) = none := by
    simp only [poisonedName]
    split
    · rfl
    · next hh =>
      rcases hm with hm | hm
      · exact absurd hm hh
      · rw [List.find?_eq_none]
        intro n hn
        simp [hm n hn]
  simp [gate, hp, ho, hw', hn]

/-- An illegal operand. -/
theorem gate_illegal (h : u.bad = true ∨ operandsOk s f u = false) : gate s f u = .illegal := by
  rcases h with h | h <;> simp [gate, h]

/-- A register that waits. -/
theorem gate_wait (hp : u.bad = false) (ho : operandsOk s f u = true) (n : Nat) (hn : n ∈ allNames f u)
    (hw : n ∈ awaited s s.sched.cur.grp) : gate s f u = .wait := by
  have : ((allNames f u).any (fun n => decide (n ∈ awaited s s.sched.cur.grp))) = true := by
    simp only [List.any_eq_true, decide_eq_true_eq]
    exact ⟨n, hn, hw⟩
  simp [gate, hp, ho, this]

/-- Past the gate and without a cause, a checked instruction acts. -/
theorem checked_clear (h : Clear s f u) (chk : Lanes → State → Sparse Nat) (act : Lanes → State → State)
    (hc : chk (s.active f) s = []) : s.checked f u chk act = .next (act (s.active f) s) := by
  simp [State.checked, gate_clear h, hc, withPoison]

/-- Past the gate and with causes of its own, it traps. -/
theorem checked_traps (h : Clear s f u) (chk : Lanes → State → Sparse Nat) (act : Lanes → State → State)
    (hc : chk (s.active f) s ≠ []) :
    s.checked f u chk act = .next (s.raise (chk (s.active f) s) 0
      (if lowestCause (chk (s.active f) s) = Cause.poisonConsumed then tokenCause s.me none else none) false) := by
  simp [State.checked, gate_clear h, hc, withPoison]

/-- A plain instruction with an active lane acts. -/
theorem instr_clear (h : Clear s f u) (ha : SomeActive s f) (act : Lanes → State → State) :
    s.instr f u act = .next (act (s.active f) s) := by
  have ha' : ¬ s.active f = 0#32 := ha
  simp [State.instr, State.instrAny, checked_clear h, ha']

/-- Without an active lane it passes on. -/
theorem instr_idle (h : Clear s f u) (ha : s.active f = 0#32) (act : Lanes → State → State) :
    s.instr f u act = .next s.advance := by
  simp [State.instr, State.instrAny, checked_clear h, ha]

/-- A computing instruction with an active lane writes its result and passes on. -/
theorem compute_clear (h : Clear s f u) (ha : SomeActive s f) (words : Nat) (x : State → Lanes → Nat → Nat) :
    s.compute f u words x = .next ((s.writeDest (s.active f) (rangeFrom f.d.toNat words) (x s (s.active f))).advance) := by
  simp [State.compute, instr_clear h ha]

/-- A test with an active lane writes its truth values and passes on. -/
theorem test_clear (h : Clear s f u) (ha : SomeActive s f) (x : State → Lanes → Nat → Bool) :
    s.test f u x = .next ((s.writeTruth (s.active f) f.d.toNat (x s (s.active f))).advance) := by
  simp [State.test, instr_clear h ha]

/-- An access with an active lane, no fence before it and no cause acts. -/
theorem access_clear (h : Clear s f u) (ha : SomeActive s f) (hf : s.fenced = false) (chk : Lanes → State → Sparse Nat)
    (act : Lanes → State → State) (hc : chk (s.active f) s = []) : s.access f u chk act = .next (act (s.active f) s) := by
  have ha' : ¬ s.active f = 0#32 := ha
  simp [State.access, hf, checked_clear h chk _ hc, ha']

end Sys2Proof.Laws
end

