-- ==== Sys2Proof/Laws/PerInstr.lean ====
section
/-! SUPPORT. A law of every instruction, as syntax: its encoding says itself how long it is. A well-formed group instruction's first
word gives the number of its words (R81) and is no clause header (R89); a barge instruction has two words (R268); a step
that no program word encodes has none. -/

namespace Sys2Proof.Laws

open Sys2Proof

/-- The encoding of an instruction says how long it is. -/
def SelfSizing.Statement (i : Instr) : Prop :=
  match i.enc with
  | .step => encode i = []
  | .barge _ _ => (encode i).length = 2
  | _ => i.wf = true → ∃ w ws, encode i = w :: ws ∧ wordsOf w = ws.length + 1 ∧ isHeader w = false

/-- A word whose major opcode is not 0 is no header. -/
theorem not_header (w : BitVec 32) (major : Nat) (h : w.extractLsb' 2 6 = BitVec.ofNat 6 major) (hm : major % 64 ≠ 0) :
    isHeader w = false := by
  have h2 := congrArg BitVec.toNat h
  simp only [BitVec.extractLsb'_toNat, BitVec.toNat_ofNat] at h2
  simp only [isHeader, decide_eq_false_iff_not]
  intro h0
  have h1 := congrArg BitVec.toNat h0
  simp only [BitVec.extractLsb'_toNat, BitVec.toNat_ofNat, Nat.shiftRight_eq_div_pow] at h1 h2
  omega

/-- Every instruction of a base word. -/
theorem sizing_base (i : Instr) (major idx : Nat) (f : BaseForm) (he : i.enc = .base major idx f) (hm : major % 64 ≠ 0) :
    SelfSizing.Statement i := by
  simp only [SelfSizing.Statement, he]
  intro _
  exact ⟨f.word major idx 0, [], by simp only [encode, he], by simp [wordsOf, base_word_len],
    not_header _ major (base_word_major major idx 0 f) hm⟩

/-- A form that passes the checks and is a base word with a literal has the literal. -/
theorem short_has_literal (major idx : Nat) (f : ExtForm) (h : (f.check major idx).isNone = true) (hs : f.short = true) :
    f.lit.isSome = true := by
  refine Classical.byContradiction (fun hl => ?_)
  revert h
  simp only [ExtForm.check]
  split
  · simp
  · repeat' split
    all_goals simp_all

/-- Every instruction of extended words or of a base word with a literal. -/
theorem sizing_ext (i : Instr) (major idx : Nat) (f : ExtForm) (he : i.enc = .ext major idx f) (hm : major % 64 ≠ 0) :
    SelfSizing.Statement i := by
  simp only [SelfSizing.Statement, he]
  intro hw
  simp only [Instr.wf, he, Bool.and_eq_true] at hw
  by_cases hs : f.short = true
  · obtain ⟨v, hv⟩ := Option.isSome_iff_exists.mp (short_has_literal major idx f hw.2.1 hs)
    exact ⟨f.shortWord major idx, litWords f.lit, by simp only [encode, he, hs, if_true],
      by simp [wordsOf, ExtForm.shortWord, base_word_len, hv, litWords], not_header _ major (base_word_major major idx 2 _) hm⟩
  · refine ⟨f.word0 major idx, f.word1 :: f.word2 :: litWords f.lit, by simp [encode, he, hs], ?_,
      not_header _ major (ext_word0_major major idx f) hm⟩
    cases hl : f.lit <;> simp [wordsOf, ext_word0_len, hl, litWords]

/-- Every barge instruction. -/
theorem sizing_barge (i : Instr) (op : Nat) (f : BargeForm) (he : i.enc = .barge op f) : SelfSizing.Statement i := by
  simp only [SelfSizing.Statement, he, encode, List.length_cons, List.length_nil]

/-- Every step that no word encodes. -/
theorem sizing_step (i : Instr) (he : i.enc = .step) : SelfSizing.Statement i := by
  simp only [SelfSizing.Statement, he, encode]

theorem SelfSizing.reset : SelfSizing.Statement .reset := sizing_step _ rfl

theorem SelfSizing.bootStageLoad (stage version : Nat) (image : List Nat) : SelfSizing.Statement (.bootStageLoad stage version image) := sizing_step _ rfl

theorem SelfSizing.thermalShutdown (sensor deg : Nat) : SelfSizing.Statement (.thermalShutdown sensor deg) := sizing_step _ rfl

theorem SelfSizing.powerSample (milliwatts : Nat) : SelfSizing.Statement (.powerSample milliwatts) := sizing_step _ rfl

theorem SelfSizing.getMeasurements (transport nonce : Nat) : SelfSizing.Statement (.getMeasurements transport nonce) := sizing_step _ rfl

theorem SelfSizing.negotiateAlgorithms (transport : Nat) (offers : List Nat) : SelfSizing.Statement (.negotiateAlgorithms transport offers) := sizing_step _ rfl

theorem SelfSizing.secureSession (chainsToAnchor bothAuth : Bool) : SelfSizing.Statement (.secureSession chainsToAnchor bothAuth) := sizing_step _ rfl

theorem SelfSizing.setPodIdentifier (id : Nat) : SelfSizing.Statement (.setPodIdentifier id) := sizing_step _ rfl

theorem SelfSizing.setExportSegment (idx entry : Nat) : SelfSizing.Statement (.setExportSegment idx entry) := sizing_step _ rfl

theorem SelfSizing.keySlotLoad (slot : Nat) (key : Option Nat) : SelfSizing.Statement (.keySlotLoad slot key) := sizing_step _ rfl

theorem SelfSizing.stationKeyLoad (station dir key : Nat) : SelfSizing.Statement (.stationKeyLoad station dir key) := sizing_step _ rfl

theorem SelfSizing.ideKeyLoad (port key : Nat) : SelfSizing.Statement (.ideKeyLoad port key) := sizing_step _ rfl

theorem SelfSizing.setHdmKey (slot : Option Nat) : SelfSizing.Statement (.setHdmKey slot) := sizing_step _ rfl

theorem SelfSizing.setSpace3Window (port base limit : Nat) : SelfSizing.Statement (.setSpace3Window port base limit) := sizing_step _ rfl

theorem SelfSizing.setPrivilegeMask (mask : Nat) : SelfSizing.Statement (.setPrivilegeMask mask) := sizing_step _ rfl

theorem SelfSizing.setHotThreshold (core deg : Nat) : SelfSizing.Statement (.setHotThreshold core deg) := sizing_step _ rfl

theorem SelfSizing.setReserveMarks (die high low : Nat) : SelfSizing.Statement (.setReserveMarks die high low) := sizing_step _ rfl

theorem SelfSizing.setRetirementThreshold (kind n : Nat) : SelfSizing.Statement (.setRetirementThreshold kind n) := sizing_step _ rfl

theorem SelfSizing.setPowerLimit (watts : Nat) : SelfSizing.Statement (.setPowerLimit watts) := sizing_step _ rfl

theorem SelfSizing.dynamicCapacityExtent (port : Nat) (add : Bool) (base len : Nat) : SelfSizing.Statement (.dynamicCapacityExtent port add base len) := sizing_step _ rfl

theorem SelfSizing.coreTemperatureReading (core deg : Nat) : SelfSizing.Statement (.coreTemperatureReading core deg) := sizing_step _ rfl

theorem SelfSizing.droopEvent (core : Nat) : SelfSizing.Statement (.droopEvent core) := sizing_step _ rfl

theorem SelfSizing.droopQuiet (core : Nat) : SelfSizing.Statement (.droopQuiet core) := sizing_step _ rfl

theorem SelfSizing.reserveGrow (die : Nat) : SelfSizing.Statement (.reserveGrow die) := sizing_step _ rfl

theorem SelfSizing.reserveShrink (die : Nat) : SelfSizing.Statement (.reserveShrink die) := sizing_step _ rfl

theorem SelfSizing.queueEnable (q size val : Nat) : SelfSizing.Statement (.queueEnable q size val) := sizing_step _ rfl

theorem SelfSizing.queueDisable (q size val : Nat) : SelfSizing.Statement (.queueDisable q size val) := sizing_step _ rfl

theorem SelfSizing.qtailWrite (q size val : Nat) : SelfSizing.Statement (.qtailWrite q size val) := sizing_step _ rfl

theorem SelfSizing.registerWrite (off size val : Nat) : SelfSizing.Statement (.registerWrite off size val) := sizing_step _ rfl

theorem SelfSizing.preEmpt (q launchid : Nat) : SelfSizing.Statement (.preEmpt q launchid) := sizing_step _ rfl

theorem SelfSizing.resume (q launchid : Nat) : SelfSizing.Statement (.resume q launchid) := sizing_step _ rfl

theorem SelfSizing.cancel (q launchid : Nat) : SelfSizing.Statement (.cancel q launchid) := sizing_step _ rfl

theorem SelfSizing.qcmdInvalidOp (q op launchid : Nat) : SelfSizing.Statement (.qcmdInvalidOp q op launchid) := sizing_step _ rfl

theorem SelfSizing.halt : SelfSizing.Statement .halt := sizing_step _ rfl

theorem SelfSizing.debugResume : SelfSizing.Statement .debugResume := sizing_step _ rfl

theorem SelfSizing.readRegister : SelfSizing.Statement .readRegister := sizing_step _ rfl

theorem SelfSizing.writeRegister : SelfSizing.Statement .writeRegister := sizing_step _ rfl

theorem SelfSizing.forceWrite : SelfSizing.Statement .forceWrite := sizing_step _ rfl

theorem SelfSizing.readSpecial : SelfSizing.Statement .readSpecial := sizing_step _ rfl

theorem SelfSizing.deliver : SelfSizing.Statement .deliver := sizing_step _ rfl

theorem SelfSizing.setBreakpoint : SelfSizing.Statement .setBreakpoint := sizing_step _ rfl

theorem SelfSizing.step : SelfSizing.Statement .step := sizing_step _ rfl

theorem SelfSizing.unclaimedRequest (addr : Nat) : SelfSizing.Statement (.unclaimedRequest addr) := sizing_step _ rfl

theorem SelfSizing.hostHdmRead (off : Nat) : SelfSizing.Statement (.hostHdmRead off) := sizing_step _ rfl

theorem SelfSizing.hostHdmWrite (off data mask : Nat) : SelfSizing.Statement (.hostHdmWrite off data mask) := sizing_step _ rfl

theorem SelfSizing.hostWriteBack (off data : Nat) : SelfSizing.Statement (.hostWriteBack off data) := sizing_step _ rfl

theorem SelfSizing.bisnpReceived (port off : Nat) (after : Option Nat) : SelfSizing.Statement (.bisnpReceived port off after) := sizing_step _ rfl

theorem SelfSizing.hostSnoop (addr : Nat) (inv : Bool) (after : Option Nat) : SelfSizing.Statement (.hostSnoop addr inv after) := sizing_step _ rfl

theorem SelfSizing.ringEntryRead (q : Nat) : SelfSizing.Statement (.ringEntryRead q) := sizing_step _ rfl

theorem SelfSizing.launchTake (q : Nat) : SelfSizing.Statement (.launchTake q) := sizing_step _ rfl

theorem SelfSizing.edgeSatisfy (launch edge : Nat) : SelfSizing.Statement (.edgeSatisfy launch edge) := sizing_step _ rfl

theorem SelfSizing.dispatchBegin (q : Nat) : SelfSizing.Statement (.dispatchBegin q) := sizing_step _ rfl

theorem SelfSizing.clusterRequest (die col row : Nat) : SelfSizing.Statement (.clusterRequest die col row) := sizing_step _ rfl

theorem SelfSizing.clusterRelease (cluster : Nat) : SelfSizing.Statement (.clusterRelease cluster) := sizing_step _ rfl

theorem SelfSizing.launchComplete (launch : Nat) : SelfSizing.Statement (.launchComplete launch) := sizing_step _ rfl

theorem SelfSizing.racqGrant (core : Nat) : SelfSizing.Statement (.racqGrant core) := sizing_step _ rfl

theorem SelfSizing.mwaitDeadline (grp mask : Nat) : SelfSizing.Statement (.mwaitDeadline grp mask) := sizing_step _ rfl

theorem SelfSizing.specialFunctionLand (op : Nat) : SelfSizing.Statement (.specialFunctionLand op) := sizing_step _ rfl

theorem SelfSizing.shuffleLand (op : Nat) : SelfSizing.Statement (.shuffleLand op) := sizing_step _ rfl

theorem SelfSizing.scratchpadLoadLand (op : Nat) : SelfSizing.Statement (.scratchpadLoadLand op) := sizing_step _ rfl

theorem SelfSizing.scratchpadAtomicLand (op : Nat) : SelfSizing.Statement (.scratchpadAtomicLand op) := sizing_step _ rfl

theorem SelfSizing.queueReadLand (op : Nat) : SelfSizing.Statement (.queueReadLand op) := sizing_step _ rfl

theorem SelfSizing.postedWriteLand (op lane : Nat) : SelfSizing.Statement (.postedWriteLand op lane) := sizing_step _ rfl

theorem SelfSizing.cputIncrement (op team : Nat) : SelfSizing.Statement (.cputIncrement op team) := sizing_step _ rfl

theorem SelfSizing.heldOperationStart (op : Nat) : SelfSizing.Statement (.heldOperationStart op) := sizing_step _ rfl

theorem SelfSizing.globalAccessRetire (op : Nat) : SelfSizing.Statement (.globalAccessRetire op) := sizing_step _ rfl

theorem SelfSizing.dieScratchpadRetire (op : Nat) : SelfSizing.Statement (.dieScratchpadRetire op) := sizing_step _ rfl

theorem SelfSizing.chamberArrive (op : Nat) : SelfSizing.Statement (.chamberArrive op) := sizing_step _ rfl

theorem SelfSizing.ackLost (op : Nat) : SelfSizing.Statement (.ackLost op) := sizing_step _ rfl

theorem SelfSizing.watchdog (grp : Nat) : SelfSizing.Statement (.watchdog grp) := sizing_step _ rfl

theorem SelfSizing.addressBreakpoint (grp : Nat) : SelfSizing.Statement (.addressBreakpoint grp) := sizing_step _ rfl

theorem SelfSizing.handlerEntry (grp : Nat) : SelfSizing.Statement (.handlerEntry grp) := sizing_step _ rfl

theorem SelfSizing.pageWalk (core asid va kind : Nat) : SelfSizing.Statement (.pageWalk core asid va kind) := sizing_step _ rfl

theorem SelfSizing.runAheadFetch (core asid va : Nat) : SelfSizing.Statement (.runAheadFetch core asid va) := sizing_step _ rfl

theorem SelfSizing.efStoreForward (agent : Nat) : SelfSizing.Statement (.efStoreForward agent) := sizing_step _ rfl

theorem SelfSizing.gaStoreAcknowledge (op k : Nat) : SelfSizing.Statement (.gaStoreAcknowledge op k) := sizing_step _ rfl

theorem SelfSizing.wcEntryTimeout (core peer line : Nat) : SelfSizing.Statement (.wcEntryTimeout core peer line) := sizing_step _ rfl

theorem SelfSizing.sluiceWindow (core : Nat) : SelfSizing.Statement (.sluiceWindow core) := sizing_step _ rfl

theorem SelfSizing.matrixOperationStart (core : Nat) : SelfSizing.Statement (.matrixOperationStart core) := sizing_step _ rfl

theorem SelfSizing.matrixOperationRetire (core : Nat) : SelfSizing.Statement (.matrixOperationRetire core) := sizing_step _ rfl

theorem SelfSizing.mmacRendezvous (cluster tile : Nat) : SelfSizing.Statement (.mmacRendezvous cluster tile) := sizing_step _ rfl

theorem SelfSizing.mmacMulticastLanded (cluster tile : Nat) : SelfSizing.Statement (.mmacMulticastLanded cluster tile) := sizing_step _ rfl

theorem SelfSizing.tileStoreZeroed (core : Nat) : SelfSizing.Statement (.tileStoreZeroed core) := sizing_step _ rfl

theorem SelfSizing.matrixQueuePark (core : Nat) : SelfSizing.Statement (.matrixQueuePark core) := sizing_step _ rfl

theorem SelfSizing.bargeFault (barge : Nat) : SelfSizing.Statement (.bargeFault barge) := sizing_step _ rfl

theorem SelfSizing.bargePark (barge : Nat) : SelfSizing.Statement (.bargePark barge) := sizing_step _ rfl

theorem SelfSizing.accPerform (slot : Nat) : SelfSizing.Statement (.accPerform slot) := sizing_step _ rfl

theorem SelfSizing.closePerform (slot : Nat) : SelfSizing.Statement (.closePerform slot) := sizing_step _ rfl

theorem SelfSizing.nmvRun (op : Nat) : SelfSizing.Statement (.nmvRun op) := sizing_step _ rfl

theorem SelfSizing.qflushRetire (op : Nat) : SelfSizing.Statement (.qflushRetire op) := sizing_step _ rfl

theorem SelfSizing.putRetire (op : Nat) (fail : Option Nat) : SelfSizing.Statement (.putRetire op fail) := sizing_step _ rfl

theorem SelfSizing.remoteAccessRetire (op : Nat) (fail : Option Nat) (data : List FarData) : SelfSizing.Statement (.remoteAccessRetire op fail data) := sizing_step _ rfl

theorem SelfSizing.incomingPodRequest (req : PodRequest) : SelfSizing.Statement (.incomingPodRequest req) := sizing_step _ rfl

theorem SelfSizing.stationStop (station : Nat) : SelfSizing.Statement (.stationStop station) := sizing_step _ rfl

theorem SelfSizing.stationStart (station : Nat) : SelfSizing.Statement (.stationStart station) := sizing_step _ rfl

theorem SelfSizing.flitAuthFailure (station : Nat) : SelfSizing.Statement (.flitAuthFailure station) := sizing_step _ rfl

theorem SelfSizing.stationNonceExhausted (station : Nat) : SelfSizing.Statement (.stationNonceExhausted station) := sizing_step _ rfl

theorem SelfSizing.clplanRun (op : Nat) : SelfSizing.Statement (.clplanRun op) := sizing_step _ rfl

theorem SelfSizing.clgoRendezvous (op : Nat) : SelfSizing.Statement (.clgoRendezvous op) := sizing_step _ rfl

theorem SelfSizing.chunkArrival (op pos chunk : Nat) (data : FarData) : SelfSizing.Statement (.chunkArrival op pos chunk data) := sizing_step _ rfl

theorem SelfSizing.planAbort (op cause : Nat) : SelfSizing.Statement (.planAbort op cause) := sizing_step _ rfl

theorem SelfSizing.abortNoticeArrival (tag sender cause : Nat) : SelfSizing.Statement (.abortNoticeArrival tag sender cause) := sizing_step _ rfl

theorem SelfSizing.clgoComplete (op : Nat) : SelfSizing.Statement (.clgoComplete op) := sizing_step _ rfl

theorem SelfSizing.rringRun (op : Nat) : SelfSizing.Statement (.rringRun op) := sizing_step _ rfl

theorem SelfSizing.rringPacketArrival (packet : Nat) : SelfSizing.Statement (.rringPacketArrival packet) := sizing_step _ rfl

theorem SelfSizing.hubLinkFailure (die : Nat) : SelfSizing.Statement (.hubLinkFailure die) := sizing_step _ rfl

theorem SelfSizing.hubLinkRestored (die : Nat) : SelfSizing.Statement (.hubLinkRestored die) := sizing_step _ rfl

theorem SelfSizing.laneRetirement (kind idx width : Nat) : SelfSizing.Statement (.laneRetirement kind idx width) := sizing_step _ rfl

theorem SelfSizing.coreRetire (core : Nat) : SelfSizing.Statement (.coreRetire core) := sizing_step _ rfl

theorem SelfSizing.coreRetirementComplete (core : Nat) : SelfSizing.Statement (.coreRetirementComplete core) := sizing_step _ rfl

theorem SelfSizing.coreUncorrectable (core : Nat) : SelfSizing.Statement (.coreUncorrectable core) := sizing_step _ rfl

theorem SelfSizing.sliceFlush (die slice : Nat) (unreadable : List Nat) : SelfSizing.Statement (.sliceFlush die slice unreadable) := sizing_step _ rfl

theorem SelfSizing.sliceMapSwitch (die : Nat) : SelfSizing.Statement (.sliceMapSwitch die) := sizing_step _ rfl

theorem SelfSizing.coreMapAdopt (core : Nat) : SelfSizing.Statement (.coreMapAdopt core) := sizing_step _ rfl

theorem SelfSizing.sliceEnd (die : Nat) : SelfSizing.Statement (.sliceEnd die) := sizing_step _ rfl

theorem SelfSizing.hbmRowRetire (stack row : Nat) : SelfSizing.Statement (.hbmRowRetire stack row) := sizing_step _ rfl

theorem SelfSizing.hbmBankRetire (stack bank : Nat) : SelfSizing.Statement (.hbmBankRetire stack bank) := sizing_step _ rfl

theorem SelfSizing.biasFlipHost (granule : Nat) : SelfSizing.Statement (.biasFlipHost granule) := sizing_step _ rfl

theorem SelfSizing.biasFlipDevice (granule : Nat) : SelfSizing.Statement (.biasFlipDevice granule) := sizing_step _ rfl

theorem SelfSizing.iadd (f : BaseForm) : SelfSizing.Statement (.iadd f) := sizing_base _ _ _ f rfl (by decide)

theorem SelfSizing.iaddX (f : ExtForm) : SelfSizing.Statement (.iaddX f) := sizing_ext _ _ _ f rfl (by decide)

theorem SelfSizing.isub (f : BaseForm) : SelfSizing.Statement (.isub f) := sizing_base _ _ _ f rfl (by decide)

theorem SelfSizing.isubX (f : ExtForm) : SelfSizing.Statement (.isubX f) := sizing_ext _ _ _ f rfl (by decide)

theorem SelfSizing.imul (f : BaseForm) : SelfSizing.Statement (.imul f) := sizing_base _ _ _ f rfl (by decide)

theorem SelfSizing.imulX (f : ExtForm) : SelfSizing.Statement (.imulX f) := sizing_ext _ _ _ f rfl (by decide)

theorem SelfSizing.imad (f : ExtForm) : SelfSizing.Statement (.imad f) := sizing_ext _ _ _ f rfl (by decide)

theorem SelfSizing.imulh (f : ExtForm) : SelfSizing.Statement (.imulh f) := sizing_ext _ _ _ f rfl (by decide)

theorem SelfSizing.imin (f : ExtForm) : SelfSizing.Statement (.imin f) := sizing_ext _ _ _ f rfl (by decide)

theorem SelfSizing.imax (f : ExtForm) : SelfSizing.Statement (.imax f) := sizing_ext _ _ _ f rfl (by decide)

theorem SelfSizing.iabs (f : ExtForm) : SelfSizing.Statement (.iabs f) := sizing_ext _ _ _ f rfl (by decide)

theorem SelfSizing.ineg (f : ExtForm) : SelfSizing.Statement (.ineg f) := sizing_ext _ _ _ f rfl (by decide)

theorem SelfSizing.iaddc (f : ExtForm) : SelfSizing.Statement (.iaddc f) := sizing_ext _ _ _ f rfl (by decide)

theorem SelfSizing.and (f : BaseForm) : SelfSizing.Statement (.and f) := sizing_base _ _ _ f rfl (by decide)

theorem SelfSizing.andX (f : ExtForm) : SelfSizing.Statement (.andX f) := sizing_ext _ _ _ f rfl (by decide)

theorem SelfSizing.or (f : BaseForm) : SelfSizing.Statement (.or f) := sizing_base _ _ _ f rfl (by decide)

theorem SelfSizing.orX (f : ExtForm) : SelfSizing.Statement (.orX f) := sizing_ext _ _ _ f rfl (by decide)

theorem SelfSizing.xor (f : BaseForm) : SelfSizing.Statement (.xor f) := sizing_base _ _ _ f rfl (by decide)

theorem SelfSizing.xorX (f : ExtForm) : SelfSizing.Statement (.xorX f) := sizing_ext _ _ _ f rfl (by decide)

theorem SelfSizing.not (f : BaseForm) : SelfSizing.Statement (.not f) := sizing_base _ _ _ f rfl (by decide)

theorem SelfSizing.notX (f : ExtForm) : SelfSizing.Statement (.notX f) := sizing_ext _ _ _ f rfl (by decide)

theorem SelfSizing.bfn3 (f : ExtForm) : SelfSizing.Statement (.bfn3 f) := sizing_ext _ _ _ f rfl (by decide)

theorem SelfSizing.shl (f : BaseForm) : SelfSizing.Statement (.shl f) := sizing_base _ _ _ f rfl (by decide)

theorem SelfSizing.shlX (f : ExtForm) : SelfSizing.Statement (.shlX f) := sizing_ext _ _ _ f rfl (by decide)

theorem SelfSizing.shr (f : BaseForm) : SelfSizing.Statement (.shr f) := sizing_base _ _ _ f rfl (by decide)

theorem SelfSizing.shrX (f : ExtForm) : SelfSizing.Statement (.shrX f) := sizing_ext _ _ _ f rfl (by decide)

theorem SelfSizing.sar (f : BaseForm) : SelfSizing.Statement (.sar f) := sizing_base _ _ _ f rfl (by decide)

theorem SelfSizing.sarX (f : ExtForm) : SelfSizing.Statement (.sarX f) := sizing_ext _ _ _ f rfl (by decide)

theorem SelfSizing.rot (f : BaseForm) : SelfSizing.Statement (.rot f) := sizing_base _ _ _ f rfl (by decide)

theorem SelfSizing.rotX (f : ExtForm) : SelfSizing.Statement (.rotX f) := sizing_ext _ _ _ f rfl (by decide)

theorem SelfSizing.popc (f : ExtForm) : SelfSizing.Statement (.popc f) := sizing_ext _ _ _ f rfl (by decide)

theorem SelfSizing.clz (f : ExtForm) : SelfSizing.Statement (.clz f) := sizing_ext _ _ _ f rfl (by decide)

theorem SelfSizing.brev (f : ExtForm) : SelfSizing.Statement (.brev f) := sizing_ext _ _ _ f rfl (by decide)

theorem SelfSizing.bfe (f : ExtForm) : SelfSizing.Statement (.bfe f) := sizing_ext _ _ _ f rfl (by decide)

theorem SelfSizing.bfi (f : ExtForm) : SelfSizing.Statement (.bfi f) := sizing_ext _ _ _ f rfl (by decide)

theorem SelfSizing.icmp (f : BaseForm) : SelfSizing.Statement (.icmp f) := sizing_base _ _ _ f rfl (by decide)

theorem SelfSizing.icmpX (f : ExtForm) : SelfSizing.Statement (.icmpX f) := sizing_ext _ _ _ f rfl (by decide)

theorem SelfSizing.icmpc (f : ExtForm) : SelfSizing.Statement (.icmpc f) := sizing_ext _ _ _ f rfl (by decide)

theorem SelfSizing.mov (f : BaseForm) : SelfSizing.Statement (.mov f) := sizing_base _ _ _ f rfl (by decide)

theorem SelfSizing.movX (f : ExtForm) : SelfSizing.Statement (.movX f) := sizing_ext _ _ _ f rfl (by decide)

theorem SelfSizing.movQueueWrite (f : ExtForm) : SelfSizing.Statement (.movQueueWrite f) := sizing_ext _ _ _ f rfl (by decide)

theorem SelfSizing.movQueueRead (f : ExtForm) : SelfSizing.Statement (.movQueueRead f) := sizing_ext _ _ _ f rfl (by decide)

theorem SelfSizing.nmPush (f : ExtForm) : SelfSizing.Statement (.nmPush f) := sizing_ext _ _ _ f rfl (by decide)

theorem SelfSizing.nmTake (f : ExtForm) : SelfSizing.Statement (.nmTake f) := sizing_ext _ _ _ f rfl (by decide)

theorem SelfSizing.sel (f : ExtForm) : SelfSizing.Statement (.sel f) := sizing_ext _ _ _ f rfl (by decide)

theorem SelfSizing.movs (f : BaseForm) : SelfSizing.Statement (.movs f) := sizing_base _ _ _ f rfl (by decide)

theorem SelfSizing.movsX (f : ExtForm) : SelfSizing.Statement (.movsX f) := sizing_ext _ _ _ f rfl (by decide)

theorem SelfSizing.bcast (f : BaseForm) : SelfSizing.Statement (.bcast f) := sizing_base _ _ _ f rfl (by decide)

theorem SelfSizing.bcastX (f : ExtForm) : SelfSizing.Statement (.bcastX f) := sizing_ext _ _ _ f rfl (by decide)

theorem SelfSizing.movp (f : ExtForm) : SelfSizing.Statement (.movp f) := sizing_ext _ _ _ f rfl (by decide)

theorem SelfSizing.perm (f : ExtForm) : SelfSizing.Statement (.perm f) := sizing_ext _ _ _ f rfl (by decide)

theorem SelfSizing.lea (f : BaseForm) : SelfSizing.Statement (.lea f) := sizing_base _ _ _ f rfl (by decide)

theorem SelfSizing.leaX (f : ExtForm) : SelfSizing.Statement (.leaX f) := sizing_ext _ _ _ f rfl (by decide)

theorem SelfSizing.fadd (f : BaseForm) : SelfSizing.Statement (.fadd f) := sizing_base _ _ _ f rfl (by decide)

theorem SelfSizing.faddX (f : ExtForm) : SelfSizing.Statement (.faddX f) := sizing_ext _ _ _ f rfl (by decide)

theorem SelfSizing.fmul (f : BaseForm) : SelfSizing.Statement (.fmul f) := sizing_base _ _ _ f rfl (by decide)

theorem SelfSizing.fmulX (f : ExtForm) : SelfSizing.Statement (.fmulX f) := sizing_ext _ _ _ f rfl (by decide)

theorem SelfSizing.ffma (f : ExtForm) : SelfSizing.Statement (.ffma f) := sizing_ext _ _ _ f rfl (by decide)

theorem SelfSizing.fmin (f : BaseForm) : SelfSizing.Statement (.fmin f) := sizing_base _ _ _ f rfl (by decide)

theorem SelfSizing.fminX (f : ExtForm) : SelfSizing.Statement (.fminX f) := sizing_ext _ _ _ f rfl (by decide)

theorem SelfSizing.fmax (f : ExtForm) : SelfSizing.Statement (.fmax f) := sizing_ext _ _ _ f rfl (by decide)

theorem SelfSizing.fsub (f : ExtForm) : SelfSizing.Statement (.fsub f) := sizing_ext _ _ _ f rfl (by decide)

theorem SelfSizing.fcmp (f : BaseForm) : SelfSizing.Statement (.fcmp f) := sizing_base _ _ _ f rfl (by decide)

theorem SelfSizing.fcmpX (f : ExtForm) : SelfSizing.Statement (.fcmpX f) := sizing_ext _ _ _ f rfl (by decide)

theorem SelfSizing.fclass (f : ExtForm) : SelfSizing.Statement (.fclass f) := sizing_ext _ _ _ f rfl (by decide)

theorem SelfSizing.frcp (f : BaseForm) : SelfSizing.Statement (.frcp f) := sizing_base _ _ _ f rfl (by decide)

theorem SelfSizing.frcpX (f : ExtForm) : SelfSizing.Statement (.frcpX f) := sizing_ext _ _ _ f rfl (by decide)

theorem SelfSizing.frsq (f : BaseForm) : SelfSizing.Statement (.frsq f) := sizing_base _ _ _ f rfl (by decide)

theorem SelfSizing.frsqX (f : ExtForm) : SelfSizing.Statement (.frsqX f) := sizing_ext _ _ _ f rfl (by decide)

theorem SelfSizing.fsqrt (f : BaseForm) : SelfSizing.Statement (.fsqrt f) := sizing_base _ _ _ f rfl (by decide)

theorem SelfSizing.fsqrtX (f : ExtForm) : SelfSizing.Statement (.fsqrtX f) := sizing_ext _ _ _ f rfl (by decide)

theorem SelfSizing.fexp2 (f : BaseForm) : SelfSizing.Statement (.fexp2 f) := sizing_base _ _ _ f rfl (by decide)

theorem SelfSizing.fexp2X (f : ExtForm) : SelfSizing.Statement (.fexp2X f) := sizing_ext _ _ _ f rfl (by decide)

theorem SelfSizing.flog2 (f : ExtForm) : SelfSizing.Statement (.flog2 f) := sizing_ext _ _ _ f rfl (by decide)

theorem SelfSizing.fsin (f : ExtForm) : SelfSizing.Statement (.fsin f) := sizing_ext _ _ _ f rfl (by decide)

theorem SelfSizing.fcos (f : ExtForm) : SelfSizing.Statement (.fcos f) := sizing_ext _ _ _ f rfl (by decide)

theorem SelfSizing.ftanh (f : ExtForm) : SelfSizing.Statement (.ftanh f) := sizing_ext _ _ _ f rfl (by decide)

theorem SelfSizing.hadd2 (f : BaseForm) : SelfSizing.Statement (.hadd2 f) := sizing_base _ _ _ f rfl (by decide)

theorem SelfSizing.hadd2X (f : ExtForm) : SelfSizing.Statement (.hadd2X f) := sizing_ext _ _ _ f rfl (by decide)

theorem SelfSizing.hmul2 (f : BaseForm) : SelfSizing.Statement (.hmul2 f) := sizing_base _ _ _ f rfl (by decide)

theorem SelfSizing.hmul2X (f : ExtForm) : SelfSizing.Statement (.hmul2X f) := sizing_ext _ _ _ f rfl (by decide)

theorem SelfSizing.hfma2 (f : ExtForm) : SelfSizing.Statement (.hfma2 f) := sizing_ext _ _ _ f rfl (by decide)

theorem SelfSizing.hmin2 (f : BaseForm) : SelfSizing.Statement (.hmin2 f) := sizing_base _ _ _ f rfl (by decide)

theorem SelfSizing.hmin2X (f : ExtForm) : SelfSizing.Statement (.hmin2X f) := sizing_ext _ _ _ f rfl (by decide)

theorem SelfSizing.hmax2 (f : ExtForm) : SelfSizing.Statement (.hmax2 f) := sizing_ext _ _ _ f rfl (by decide)

theorem SelfSizing.dadd (f : BaseForm) : SelfSizing.Statement (.dadd f) := sizing_base _ _ _ f rfl (by decide)

theorem SelfSizing.daddX (f : ExtForm) : SelfSizing.Statement (.daddX f) := sizing_ext _ _ _ f rfl (by decide)

theorem SelfSizing.dmul (f : BaseForm) : SelfSizing.Statement (.dmul f) := sizing_base _ _ _ f rfl (by decide)

theorem SelfSizing.dmulX (f : ExtForm) : SelfSizing.Statement (.dmulX f) := sizing_ext _ _ _ f rfl (by decide)

theorem SelfSizing.dfma (f : ExtForm) : SelfSizing.Statement (.dfma f) := sizing_ext _ _ _ f rfl (by decide)

theorem SelfSizing.dcmp (f : BaseForm) : SelfSizing.Statement (.dcmp f) := sizing_base _ _ _ f rfl (by decide)

theorem SelfSizing.dcmpX (f : ExtForm) : SelfSizing.Statement (.dcmpX f) := sizing_ext _ _ _ f rfl (by decide)

theorem SelfSizing.dmin (f : ExtForm) : SelfSizing.Statement (.dmin f) := sizing_ext _ _ _ f rfl (by decide)

theorem SelfSizing.dmax (f : ExtForm) : SelfSizing.Statement (.dmax f) := sizing_ext _ _ _ f rfl (by decide)

theorem SelfSizing.cvt (f : BaseForm) : SelfSizing.Statement (.cvt f) := sizing_base _ _ _ f rfl (by decide)

theorem SelfSizing.cvtX (f : ExtForm) : SelfSizing.Statement (.cvtX f) := sizing_ext _ _ _ f rfl (by decide)

theorem SelfSizing.cpack (f : BaseForm) : SelfSizing.Statement (.cpack f) := sizing_base _ _ _ f rfl (by decide)

theorem SelfSizing.cpackX (f : ExtForm) : SelfSizing.Statement (.cpackX f) := sizing_ext _ _ _ f rfl (by decide)

theorem SelfSizing.cunpk (f : BaseForm) : SelfSizing.Statement (.cunpk f) := sizing_base _ _ _ f rfl (by decide)

theorem SelfSizing.cunpkX (f : ExtForm) : SelfSizing.Statement (.cunpkX f) := sizing_ext _ _ _ f rfl (by decide)

theorem SelfSizing.frnd (f : BaseForm) : SelfSizing.Statement (.frnd f) := sizing_base _ _ _ f rfl (by decide)

theorem SelfSizing.frndX (f : ExtForm) : SelfSizing.Statement (.frndX f) := sizing_ext _ _ _ f rfl (by decide)

theorem SelfSizing.shf (f : BaseForm) : SelfSizing.Statement (.shf f) := sizing_base _ _ _ f rfl (by decide)

theorem SelfSizing.shfX (f : ExtForm) : SelfSizing.Statement (.shfX f) := sizing_ext _ _ _ f rfl (by decide)

theorem SelfSizing.shfup (f : BaseForm) : SelfSizing.Statement (.shfup f) := sizing_base _ _ _ f rfl (by decide)

theorem SelfSizing.shfupX (f : ExtForm) : SelfSizing.Statement (.shfupX f) := sizing_ext _ _ _ f rfl (by decide)

theorem SelfSizing.shfdn (f : BaseForm) : SelfSizing.Statement (.shfdn f) := sizing_base _ _ _ f rfl (by decide)

theorem SelfSizing.shfdnX (f : ExtForm) : SelfSizing.Statement (.shfdnX f) := sizing_ext _ _ _ f rfl (by decide)

theorem SelfSizing.shfx (f : BaseForm) : SelfSizing.Statement (.shfx f) := sizing_base _ _ _ f rfl (by decide)

theorem SelfSizing.shfxX (f : ExtForm) : SelfSizing.Statement (.shfxX f) := sizing_ext _ _ _ f rfl (by decide)

theorem SelfSizing.vall (f : BaseForm) : SelfSizing.Statement (.vall f) := sizing_base _ _ _ f rfl (by decide)

theorem SelfSizing.vallX (f : ExtForm) : SelfSizing.Statement (.vallX f) := sizing_ext _ _ _ f rfl (by decide)

theorem SelfSizing.vany (f : BaseForm) : SelfSizing.Statement (.vany f) := sizing_base _ _ _ f rfl (by decide)

theorem SelfSizing.vanyX (f : ExtForm) : SelfSizing.Statement (.vanyX f) := sizing_ext _ _ _ f rfl (by decide)

theorem SelfSizing.vbal (f : BaseForm) : SelfSizing.Statement (.vbal f) := sizing_base _ _ _ f rfl (by decide)

theorem SelfSizing.vbalX (f : ExtForm) : SelfSizing.Statement (.vbalX f) := sizing_ext _ _ _ f rfl (by decide)

theorem SelfSizing.vmatch (f : BaseForm) : SelfSizing.Statement (.vmatch f) := sizing_base _ _ _ f rfl (by decide)

theorem SelfSizing.vmatchX (f : ExtForm) : SelfSizing.Statement (.vmatchX f) := sizing_ext _ _ _ f rfl (by decide)

theorem SelfSizing.vuni (f : ExtForm) : SelfSizing.Statement (.vuni f) := sizing_ext _ _ _ f rfl (by decide)

theorem SelfSizing.gred (f : BaseForm) : SelfSizing.Statement (.gred f) := sizing_base _ _ _ f rfl (by decide)

theorem SelfSizing.gredX (f : ExtForm) : SelfSizing.Statement (.gredX f) := sizing_ext _ _ _ f rfl (by decide)

theorem SelfSizing.gscan (f : BaseForm) : SelfSizing.Statement (.gscan f) := sizing_base _ _ _ f rfl (by decide)

theorem SelfSizing.gscanX (f : ExtForm) : SelfSizing.Statement (.gscanX f) := sizing_ext _ _ _ f rfl (by decide)

theorem SelfSizing.bra (f : BaseForm) : SelfSizing.Statement (.bra f) := sizing_base _ _ _ f rfl (by decide)

theorem SelfSizing.braX (f : ExtForm) : SelfSizing.Statement (.braX f) := sizing_ext _ _ _ f rfl (by decide)

theorem SelfSizing.brx (f : BaseForm) : SelfSizing.Statement (.brx f) := sizing_base _ _ _ f rfl (by decide)

theorem SelfSizing.brxX (f : ExtForm) : SelfSizing.Statement (.brxX f) := sizing_ext _ _ _ f rfl (by decide)

theorem SelfSizing.call (f : BaseForm) : SelfSizing.Statement (.call f) := sizing_base _ _ _ f rfl (by decide)

theorem SelfSizing.callX (f : ExtForm) : SelfSizing.Statement (.callX f) := sizing_ext _ _ _ f rfl (by decide)

theorem SelfSizing.ret (f : BaseForm) : SelfSizing.Statement (.ret f) := sizing_base _ _ _ f rfl (by decide)

theorem SelfSizing.retX (f : ExtForm) : SelfSizing.Statement (.retX f) := sizing_ext _ _ _ f rfl (by decide)

theorem SelfSizing.join (f : ExtForm) : SelfSizing.Statement (.join f) := sizing_ext _ _ _ f rfl (by decide)

theorem SelfSizing.leave (f : ExtForm) : SelfSizing.Statement (.leave f) := sizing_ext _ _ _ f rfl (by decide)

theorem SelfSizing.mwait (f : ExtForm) : SelfSizing.Statement (.mwait f) := sizing_ext _ _ _ f rfl (by decide)

theorem SelfSizing.mwaitBounded (f : ExtForm) : SelfSizing.Statement (.mwaitBounded f) := sizing_ext _ _ _ f rfl (by decide)

theorem SelfSizing.elect (f : ExtForm) : SelfSizing.Statement (.elect f) := sizing_ext _ _ _ f rfl (by decide)

theorem SelfSizing.mset (f : ExtForm) : SelfSizing.Statement (.mset f) := sizing_ext _ _ _ f rfl (by decide)

theorem SelfSizing.mget (f : ExtForm) : SelfSizing.Statement (.mget f) := sizing_ext _ _ _ f rfl (by decide)

theorem SelfSizing.exit (f : BaseForm) : SelfSizing.Statement (.exit f) := sizing_base _ _ _ f rfl (by decide)

theorem SelfSizing.exitX (f : ExtForm) : SelfSizing.Statement (.exitX f) := sizing_ext _ _ _ f rfl (by decide)

theorem SelfSizing.nop (f : BaseForm) : SelfSizing.Statement (.nop f) := sizing_base _ _ _ f rfl (by decide)

theorem SelfSizing.nopX (f : ExtForm) : SelfSizing.Statement (.nopX f) := sizing_ext _ _ _ f rfl (by decide)

theorem SelfSizing.yield (f : BaseForm) : SelfSizing.Statement (.yield f) := sizing_base _ _ _ f rfl (by decide)

theorem SelfSizing.yieldX (f : ExtForm) : SelfSizing.Statement (.yieldX f) := sizing_ext _ _ _ f rfl (by decide)

theorem SelfSizing.lds (f : BaseForm) : SelfSizing.Statement (.lds f) := sizing_base _ _ _ f rfl (by decide)

theorem SelfSizing.ldsX (f : ExtForm) : SelfSizing.Statement (.ldsX f) := sizing_ext _ _ _ f rfl (by decide)

theorem SelfSizing.sts (f : BaseForm) : SelfSizing.Statement (.sts f) := sizing_base _ _ _ f rfl (by decide)

theorem SelfSizing.stsX (f : ExtForm) : SelfSizing.Statement (.stsX f) := sizing_ext _ _ _ f rfl (by decide)

theorem SelfSizing.atms (f : ExtForm) : SelfSizing.Statement (.atms f) := sizing_ext _ _ _ f rfl (by decide)

theorem SelfSizing.ldl (f : BaseForm) : SelfSizing.Statement (.ldl f) := sizing_base _ _ _ f rfl (by decide)

theorem SelfSizing.ldlX (f : ExtForm) : SelfSizing.Statement (.ldlX f) := sizing_ext _ _ _ f rfl (by decide)

theorem SelfSizing.stl (f : BaseForm) : SelfSizing.Statement (.stl f) := sizing_base _ _ _ f rfl (by decide)

theorem SelfSizing.stlX (f : ExtForm) : SelfSizing.Statement (.stlX f) := sizing_ext _ _ _ f rfl (by decide)

theorem SelfSizing.ldc (f : ExtForm) : SelfSizing.Statement (.ldc f) := sizing_ext _ _ _ f rfl (by decide)

theorem SelfSizing.stc (f : ExtForm) : SelfSizing.Statement (.stc f) := sizing_ext _ _ _ f rfl (by decide)

theorem SelfSizing.cput (f : ExtForm) : SelfSizing.Statement (.cput f) := sizing_ext _ _ _ f rfl (by decide)

theorem SelfSizing.atmc (f : ExtForm) : SelfSizing.Statement (.atmc f) := sizing_ext _ _ _ f rfl (by decide)

theorem SelfSizing.ldd (f : ExtForm) : SelfSizing.Statement (.ldd f) := sizing_ext _ _ _ f rfl (by decide)

theorem SelfSizing.std (f : ExtForm) : SelfSizing.Statement (.std f) := sizing_ext _ _ _ f rfl (by decide)

theorem SelfSizing.ldg (f : ExtForm) : SelfSizing.Statement (.ldg f) := sizing_ext _ _ _ f rfl (by decide)

theorem SelfSizing.stg (f : ExtForm) : SelfSizing.Statement (.stg f) := sizing_ext _ _ _ f rfl (by decide)

theorem SelfSizing.atg (f : ExtForm) : SelfSizing.Statement (.atg f) := sizing_ext _ _ _ f rfl (by decide)

theorem SelfSizing.redg (f : ExtForm) : SelfSizing.Statement (.redg f) := sizing_ext _ _ _ f rfl (by decide)

theorem SelfSizing.pref (f : ExtForm) : SelfSizing.Statement (.pref f) := sizing_ext _ _ _ f rfl (by decide)

theorem SelfSizing.cclean (f : ExtForm) : SelfSizing.Statement (.cclean f) := sizing_ext _ _ _ f rfl (by decide)

theorem SelfSizing.cinval (f : ExtForm) : SelfSizing.Statement (.cinval f) := sizing_ext _ _ _ f rfl (by decide)

theorem SelfSizing.twait (f : ExtForm) : SelfSizing.Statement (.twait f) := sizing_ext _ _ _ f rfl (by decide)

theorem SelfSizing.ttest (f : ExtForm) : SelfSizing.Statement (.ttest f) := sizing_ext _ _ _ f rfl (by decide)

theorem SelfSizing.tsleep (f : ExtForm) : SelfSizing.Statement (.tsleep f) := sizing_ext _ _ _ f rfl (by decide)

theorem SelfSizing.texp (f : ExtForm) : SelfSizing.Statement (.texp f) := sizing_ext _ _ _ f rfl (by decide)

theorem SelfSizing.tjoin (f : ExtForm) : SelfSizing.Statement (.tjoin f) := sizing_ext _ _ _ f rfl (by decide)

theorem SelfSizing.tclr (f : ExtForm) : SelfSizing.Statement (.tclr f) := sizing_ext _ _ _ f rfl (by decide)

theorem SelfSizing.tsig (f : ExtForm) : SelfSizing.Statement (.tsig f) := sizing_ext _ _ _ f rfl (by decide)

theorem SelfSizing.chini (f : ExtForm) : SelfSizing.Statement (.chini f) := sizing_ext _ _ _ f rfl (by decide)

theorem SelfSizing.charr (f : ExtForm) : SelfSizing.Statement (.charr f) := sizing_ext _ _ _ f rfl (by decide)

theorem SelfSizing.chwait (f : ExtForm) : SelfSizing.Statement (.chwait f) := sizing_ext _ _ _ f rfl (by decide)

theorem SelfSizing.chtest (f : ExtForm) : SelfSizing.Statement (.chtest f) := sizing_ext _ _ _ f rfl (by decide)

theorem SelfSizing.nbarr (f : ExtForm) : SelfSizing.Statement (.nbarr f) := sizing_ext _ _ _ f rfl (by decide)

theorem SelfSizing.nbwait (f : ExtForm) : SelfSizing.Statement (.nbwait f) := sizing_ext _ _ _ f rfl (by decide)

theorem SelfSizing.nbsync (f : ExtForm) : SelfSizing.Statement (.nbsync f) := sizing_ext _ _ _ f rfl (by decide)

theorem SelfSizing.sinc (f : BaseForm) : SelfSizing.Statement (.sinc f) := sizing_base _ _ _ f rfl (by decide)

theorem SelfSizing.sincX (f : ExtForm) : SelfSizing.Statement (.sincX f) := sizing_ext _ _ _ f rfl (by decide)

theorem SelfSizing.swait (f : BaseForm) : SelfSizing.Statement (.swait f) := sizing_base _ _ _ f rfl (by decide)

theorem SelfSizing.swaitX (f : ExtForm) : SelfSizing.Statement (.swaitX f) := sizing_ext _ _ _ f rfl (by decide)

theorem SelfSizing.sread (f : BaseForm) : SelfSizing.Statement (.sread f) := sizing_base _ _ _ f rfl (by decide)

theorem SelfSizing.sreadX (f : ExtForm) : SelfSizing.Statement (.sreadX f) := sizing_ext _ _ _ f rfl (by decide)

theorem SelfSizing.fence (f : ExtForm) : SelfSizing.Statement (.fence f) := sizing_ext _ _ _ f rfl (by decide)

theorem SelfSizing.tfence (f : ExtForm) : SelfSizing.Statement (.tfence f) := sizing_ext _ _ _ f rfl (by decide)

theorem SelfSizing.acqr (f : ExtForm) : SelfSizing.Statement (.acqr f) := sizing_ext _ _ _ f rfl (by decide)

theorem SelfSizing.racq (f : BaseForm) : SelfSizing.Statement (.racq f) := sizing_base _ _ _ f rfl (by decide)

theorem SelfSizing.racqX (f : ExtForm) : SelfSizing.Statement (.racqX f) := sizing_ext _ _ _ f rfl (by decide)

theorem SelfSizing.rrel (f : BaseForm) : SelfSizing.Statement (.rrel f) := sizing_base _ _ _ f rfl (by decide)

theorem SelfSizing.rrelX (f : ExtForm) : SelfSizing.Statement (.rrelX f) := sizing_ext _ _ _ f rfl (by decide)

theorem SelfSizing.srd (f : ExtForm) : SelfSizing.Statement (.srd f) := sizing_ext _ _ _ f rfl (by decide)

theorem SelfSizing.swr (f : ExtForm) : SelfSizing.Statement (.swr f) := sizing_ext _ _ _ f rfl (by decide)

theorem SelfSizing.swrTok (f : ExtForm) : SelfSizing.Statement (.swrTok f) := sizing_ext _ _ _ f rfl (by decide)

theorem SelfSizing.swrTokx (f : ExtForm) : SelfSizing.Statement (.swrTokx f) := sizing_ext _ _ _ f rfl (by decide)

theorem SelfSizing.swrMxQ (f : ExtForm) : SelfSizing.Statement (.swrMxQ f) := sizing_ext _ _ _ f rfl (by decide)

theorem SelfSizing.swrMxBudget (f : ExtForm) : SelfSizing.Statement (.swrMxBudget f) := sizing_ext _ _ _ f rfl (by decide)

theorem SelfSizing.bgo (f : ExtForm) : SelfSizing.Statement (.bgo f) := sizing_ext _ _ _ f rfl (by decide)

theorem SelfSizing.bstop (f : ExtForm) : SelfSizing.Statement (.bstop f) := sizing_ext _ _ _ f rfl (by decide)

theorem SelfSizing.bres (f : ExtForm) : SelfSizing.Statement (.bres f) := sizing_ext _ _ _ f rfl (by decide)

theorem SelfSizing.bresLd (f : ExtForm) : SelfSizing.Statement (.bresLd f) := sizing_ext _ _ _ f rfl (by decide)

theorem SelfSizing.bstat (f : ExtForm) : SelfSizing.Statement (.bstat f) := sizing_ext _ _ _ f rfl (by decide)

theorem SelfSizing.mxres (f : ExtForm) : SelfSizing.Statement (.mxres f) := sizing_ext _ _ _ f rfl (by decide)

theorem SelfSizing.mxrel (f : ExtForm) : SelfSizing.Statement (.mxrel f) := sizing_ext _ _ _ f rfl (by decide)

theorem SelfSizing.mxsign (f : ExtForm) : SelfSizing.Statement (.mxsign f) := sizing_ext _ _ _ f rfl (by decide)

theorem SelfSizing.mma (f : ExtForm) : SelfSizing.Statement (.mma f) := sizing_ext _ _ _ f rfl (by decide)

theorem SelfSizing.mmac (f : ExtForm) : SelfSizing.Statement (.mmac f) := sizing_ext _ _ _ f rfl (by decide)

theorem SelfSizing.mxclr (f : ExtForm) : SelfSizing.Statement (.mxclr f) := sizing_ext _ _ _ f rfl (by decide)

theorem SelfSizing.mxld (f : ExtForm) : SelfSizing.Statement (.mxld f) := sizing_ext _ _ _ f rfl (by decide)

theorem SelfSizing.mxst (f : ExtForm) : SelfSizing.Statement (.mxst f) := sizing_ext _ _ _ f rfl (by decide)

theorem SelfSizing.mxscl (f : ExtForm) : SelfSizing.Statement (.mxscl f) := sizing_ext _ _ _ f rfl (by decide)

theorem SelfSizing.nmcfg (f : ExtForm) : SelfSizing.Statement (.nmcfg f) := sizing_ext _ _ _ f rfl (by decide)

theorem SelfSizing.nmv (f : ExtForm) : SelfSizing.Statement (.nmv f) := sizing_ext _ _ _ f rfl (by decide)

theorem SelfSizing.qpoll (f : ExtForm) : SelfSizing.Statement (.qpoll f) := sizing_ext _ _ _ f rfl (by decide)

theorem SelfSizing.qflush (f : ExtForm) : SelfSizing.Statement (.qflush f) := sizing_ext _ _ _ f rfl (by decide)

theorem SelfSizing.put (f : ExtForm) : SelfSizing.Statement (.put f) := sizing_ext _ _ _ f rfl (by decide)

theorem SelfSizing.rld (f : ExtForm) : SelfSizing.Statement (.rld f) := sizing_ext _ _ _ f rfl (by decide)

theorem SelfSizing.ratom (f : ExtForm) : SelfSizing.Statement (.ratom f) := sizing_ext _ _ _ f rfl (by decide)

theorem SelfSizing.wcflush (f : ExtForm) : SelfSizing.Statement (.wcflush f) := sizing_ext _ _ _ f rfl (by decide)

theorem SelfSizing.clplan (f : ExtForm) : SelfSizing.Statement (.clplan f) := sizing_ext _ _ _ f rfl (by decide)

theorem SelfSizing.clgo (f : ExtForm) : SelfSizing.Statement (.clgo f) := sizing_ext _ _ _ f rfl (by decide)

theorem SelfSizing.rring (f : ExtForm) : SelfSizing.Statement (.rring f) := sizing_ext _ _ _ f rfl (by decide)

theorem SelfSizing.trap (f : ExtForm) : SelfSizing.Statement (.trap f) := sizing_ext _ _ _ f rfl (by decide)

theorem SelfSizing.rttRes (f : ExtForm) : SelfSizing.Statement (.rttRes f) := sizing_ext _ _ _ f rfl (by decide)

theorem SelfSizing.rttEnd (f : ExtForm) : SelfSizing.Statement (.rttEnd f) := sizing_ext _ _ _ f rfl (by decide)

theorem SelfSizing.rttSave (f : ExtForm) : SelfSizing.Statement (.rttSave f) := sizing_ext _ _ _ f rfl (by decide)

theorem SelfSizing.brk (f : ExtForm) : SelfSizing.Statement (.brk f) := sizing_ext _ _ _ f rfl (by decide)

theorem SelfSizing.csync (f : ExtForm) : SelfSizing.Statement (.csync f) := sizing_ext _ _ _ f rfl (by decide)

theorem SelfSizing.icinv (f : ExtForm) : SelfSizing.Statement (.icinv f) := sizing_ext _ _ _ f rfl (by decide)

theorem SelfSizing.tlbinv (f : ExtForm) : SelfSizing.Statement (.tlbinv f) := sizing_ext _ _ _ f rfl (by decide)

theorem SelfSizing.biasset (f : ExtForm) : SelfSizing.Statement (.biasset f) := sizing_ext _ _ _ f rfl (by decide)

theorem SelfSizing.gsync (f : ExtForm) : SelfSizing.Statement (.gsync f) := sizing_ext _ _ _ f rfl (by decide)

theorem SelfSizing.pmrd (f : ExtForm) : SelfSizing.Statement (.pmrd f) := sizing_ext _ _ _ f rfl (by decide)

theorem SelfSizing.bnop (f : BargeForm) : SelfSizing.Statement (.bnop f) := sizing_barge _ _ f rfl

theorem SelfSizing.bend (f : BargeForm) : SelfSizing.Statement (.bend f) := sizing_barge _ _ f rfl

theorem SelfSizing.bmov (f : BargeForm) : SelfSizing.Statement (.bmov f) := sizing_barge _ _ f rfl

theorem SelfSizing.bmovi (f : BargeForm) : SelfSizing.Statement (.bmovi f) := sizing_barge _ _ f rfl

theorem SelfSizing.badd (f : BargeForm) : SelfSizing.Statement (.badd f) := sizing_barge _ _ f rfl

theorem SelfSizing.bsub (f : BargeForm) : SelfSizing.Statement (.bsub f) := sizing_barge _ _ f rfl

theorem SelfSizing.bmul (f : BargeForm) : SelfSizing.Statement (.bmul f) := sizing_barge _ _ f rfl

theorem SelfSizing.bshl (f : BargeForm) : SelfSizing.Statement (.bshl f) := sizing_barge _ _ f rfl

theorem SelfSizing.bshr (f : BargeForm) : SelfSizing.Statement (.bshr f) := sizing_barge _ _ f rfl

theorem SelfSizing.band (f : BargeForm) : SelfSizing.Statement (.band f) := sizing_barge _ _ f rfl

theorem SelfSizing.bor (f : BargeForm) : SelfSizing.Statement (.bor f) := sizing_barge _ _ f rfl

theorem SelfSizing.bcmp (f : BargeForm) : SelfSizing.Statement (.bcmp f) := sizing_barge _ _ f rfl

theorem SelfSizing.bbr (f : BargeForm) : SelfSizing.Statement (.bbr f) := sizing_barge _ _ f rfl

theorem SelfSizing.bjmp (f : BargeForm) : SelfSizing.Statement (.bjmp f) := sizing_barge _ _ f rfl

theorem SelfSizing.bloop (f : BargeForm) : SelfSizing.Statement (.bloop f) := sizing_barge _ _ f rfl

theorem SelfSizing.bldi (f : BargeForm) : SelfSizing.Statement (.bldi f) := sizing_barge _ _ f rfl

theorem SelfSizing.bqin (f : BargeForm) : SelfSizing.Statement (.bqin f) := sizing_barge _ _ f rfl

theorem SelfSizing.bqout (f : BargeForm) : SelfSizing.Statement (.bqout f) := sizing_barge _ _ f rfl

theorem SelfSizing.baddr (f : BargeForm) : SelfSizing.Statement (.baddr f) := sizing_barge _ _ f rfl

theorem SelfSizing.bcopy (f : BargeForm) : SelfSizing.Statement (.bcopy f) := sizing_barge _ _ f rfl

theorem SelfSizing.bgath (f : BargeForm) : SelfSizing.Statement (.bgath f) := sizing_barge _ _ f rfl

theorem SelfSizing.bscat (f : BargeForm) : SelfSizing.Statement (.bscat f) := sizing_barge _ _ f rfl

theorem SelfSizing.bpool (f : BargeForm) : SelfSizing.Statement (.bpool f) := sizing_barge _ _ f rfl

theorem SelfSizing.barrNb (f : BargeForm) : SelfSizing.Statement (.barrNb f) := sizing_barge _ _ f rfl

theorem SelfSizing.barrSc (f : BargeForm) : SelfSizing.Statement (.barrSc f) := sizing_barge _ _ f rfl

theorem SelfSizing.bsem (f : BargeForm) : SelfSizing.Statement (.bsem f) := sizing_barge _ _ f rfl

theorem SelfSizing.bwait (f : BargeForm) : SelfSizing.Statement (.bwait f) := sizing_barge _ _ f rfl

theorem SelfSizing.bwaitSc (f : BargeForm) : SelfSizing.Statement (.bwaitSc f) := sizing_barge _ _ f rfl

theorem SelfSizing.bwaitNb (f : BargeForm) : SelfSizing.Statement (.bwaitNb f) := sizing_barge _ _ f rfl

theorem SelfSizing.bfence (f : BargeForm) : SelfSizing.Statement (.bfence f) := sizing_barge _ _ f rfl

theorem SelfSizing.btok (f : BargeForm) : SelfSizing.Statement (.btok f) := sizing_barge _ _ f rfl

theorem SelfSizing.longLatencyFlag (grp flag : Nat) : SelfSizing.Statement (.longLatencyFlag grp flag) := sizing_step _ rfl

theorem SelfSizing.birspiReceived (granule line : Nat) (dirty : Option Nat) : SelfSizing.Statement (.birspiReceived granule line dirty) := sizing_step _ rfl

theorem SelfSizing.memberRendezvous (tag kind g sbytes sender : Nat) : SelfSizing.Statement (.memberRendezvous tag kind g sbytes sender) := sizing_step _ rfl

theorem SelfSizing.portLinkTraining (port : Nat) (cxl : Bool) (rate width : Nat) : SelfSizing.Statement (.portLinkTraining port cxl rate width) := sizing_step _ rfl

end Sys2Proof.Laws
end

