-- ==== Sys2Proof/Laws/Shared.lean ====
section
/-! SUPPORT. Small facts that the meanings of instructions share: signed numbers, lists of lanes, causes by lane, and the issue of
operations. -/

namespace Sys2Proof.Laws

open Sys2Proof Sys2Proof.Machine

/-- A word as a signed integer. -/
theorem signed_toInt (x : Nat) : signed 32 x = (BitVec.ofNat 32 x).toInt := by
  simp only [signed, BitVec.toInt_eq_toNat_cond, BitVec.toNat_ofNat]
  have := Nat.mod_lt x (by decide : 0 < 2 ^ 32)
  split <;> split <;> omega

/-- A doubleword as a signed integer. -/
theorem signed_toInt64 (x : Nat) : signed 64 x = (BitVec.ofNat 64 x).toInt := by
  simp only [signed, BitVec.toInt_eq_toNat_cond, BitVec.toNat_ofNat]
  have := Nat.mod_lt x (by decide : 0 < 2 ^ 64)
  split <;> split <;> omega

/-- The lanes of a set. -/
theorem mem_lanes {m : Lanes} {k : Nat} : k ∈ m.toList ↔ k < 32 ∧ m.getLsbD k = true := by
  have h : ∀ j, j ∈ laneList ↔ j < 32 := by
    intro j
    simp only [laneList, List.mem_cons, List.not_mem_nil, or_false]
    omega
  simp [Lanes.toList, h]

/-- No lane has a cause. -/
theorem laneCauses_nil {act : Lanes} {c : Nat → Nat} (h : ∀ k, k < 32 → act.getLsbD k = true → c k = 0) : laneCauses act c = [] := by
  simp only [laneCauses, List.filter_eq_nil_iff, List.mem_map, forall_exists_index, and_imp]
  rintro p k hk rfl
  obtain ⟨hl, hb⟩ := mem_lanes.1 hk
  simp [h k hl hb]

/-- Some lane has a cause. -/
theorem laneCauses_ne {act : Lanes} {c : Nat → Nat} {k : Nat} (hk : k < 32) (hb : act.getLsbD k = true) (h : c k ≠ 0) :
    laneCauses act c ≠ [] := by
  intro e
  simp only [laneCauses, List.filter_eq_nil_iff, List.mem_map, forall_exists_index, and_imp] at e
  have := e (k, c k) k (mem_lanes.2 ⟨hk, hb⟩) rfl
  simp [h] at this

/-! ### Operations -/

/-- What is inserted is there. -/
theorem has_insert {α : Type} (m : Sparse α) (k : Nat) (v : α) : Sparse.has (Sparse.insert m k v) k = true := by
  induction m with
  | nil => simp [Sparse.insert, Sparse.has]
  | cons p m ih =>
    obtain ⟨j, x⟩ := p
    simp only [Sparse.insert]
    split
    · simp [Sparse.has]
    · split
      · simp [Sparse.has]
      · simp [Sparse.has, ih]

/-- Passing on leaves the operations. -/
@[simp] theorem advance_ops (s : State) : s.advance.ops = s.ops := rfl

/-- The table of operations after an issue. -/
theorem issueOp_ops (s : State) (o : Op) :
    (s.issueOp o).ops = Sparse.insert s.ops s.sched.nextId { o with birth := s.cycle o.core, rivals := (s.group o.grp).rivalsOf o } := rfl

/-- The operation an engine instruction issues. -/
def engineEntry (s : State) (f : ExtForm) (o : Op) : Op :=
  { o with
    grp := s.sched.cur.grp, core := s.myCore, f := some f, tok := some f.out.toNat, handler := inHandler s.me
    held := f.mask.toNat != 0, mask := f.mask.toNat, waits := waitsOf s.me (inHandler s.me) f.mask.toNat
    pre := preOf s.me (inHandler s.me) f.mask.toNat (waitsOf s.me (inHandler s.me) f.mask.toNat) none }

/-- An engine operation issues where its token takes it and the group holds fewer than four operations on preconditions. -/
theorem engineOp_issues (s : State) (f : ExtForm) (o : Op) (h : tokenBusy s.me (inHandler s.me) f.out.toNat o.kind.cls 1 = false)
    (hm : f.mask.toNat = 0 ∨ o.kind.cls = 3 ∨ o.kind.cls = 4 ∨ heldOps s s.sched.cur.grp < 4) :
    s.engineOp f o = (s.issueOp (engineEntry s f o)).advance := by
  have hm' : (f.mask.toNat != 0 && o.kind.cls != 3 && o.kind.cls != 4 && decide (4 ≤ heldOps s s.sched.cur.grp)) = false := by
    rcases hm with h | h | h | h
    · simp [h]
    · simp [h]
    · simp [h]
    · simp [Nat.not_le.mpr h]
  simp only [State.engineOp, h, hm', Bool.or_self, Bool.false_eq_true, if_false]
  rfl

/-- The operation that has just issued is there. -/
theorem engineOp_has (s : State) (f : ExtForm) (o : Op) (h : tokenBusy s.me (inHandler s.me) f.out.toNat o.kind.cls 1 = false)
    (hm : f.mask.toNat = 0 ∨ o.kind.cls = 3 ∨ o.kind.cls = 4 ∨ heldOps s s.sched.cur.grp < 4) :
    (s.engineOp f o).hasOp s.sched.nextId = true := by
  rw [engineOp_issues s f o h hm]
  simp only [State.hasOp, advance_ops, issueOp_ops]
  exact has_insert _ _ _

/-- And it is the one issued. -/
theorem engineOp_op (s : State) (f : ExtForm) (o : Op) (h : tokenBusy s.me (inHandler s.me) f.out.toNat o.kind.cls 1 = false)
    (hm : f.mask.toNat = 0 ∨ o.kind.cls = 3 ∨ o.kind.cls = 4 ∨ heldOps s s.sched.cur.grp < 4) :
    (s.engineOp f o).op s.sched.nextId =
      { engineEntry s f o with birth := s.cycle s.myCore, rivals := s.me.rivalsOf (engineEntry s f o) } := by
  rw [engineOp_issues s f o h hm]
  simp only [State.op, advance_ops, issueOp_ops, get_insert_same]
  rfl

end Sys2Proof.Laws
end

