-- ==== Sys2Proof/Laws/Writes.lean ====
section
/-! SUPPORT. Register writes: what a write of one register or of a result's registers leaves, the bits of lane sets, and the counters of
lanes that pass on. -/

namespace Sys2Proof.Laws

open Sys2Proof Sys2Proof.Machine Sys2Proof.Rules

set_option maxRecDepth 4000

/-- Elements of a vector written one by one. -/
theorem foldl_lanes_readV (l : List Nat) (x : Nat → Nat) (n : Nat) : ∀ g : Group, 
   (∀ k ∈ l, k < 32) → l.Nodup → ∀ m k, k < 32 → (l.foldl (fun g i => g.putV n i (x i)) g).readV m k = if m = n ∧ k ∈ l then x k % 2^32 else g.readV m k := by
  induction l with
  | nil => intro g _ _ m k _; simp
  | cons a l ih =>
    intro g h hn m k hk
    have ha := h a (by simp)
    rw [List.foldl_cons, ih _ (fun k hk => h k (by simp [hk])) (List.nodup_cons.1 hn).2 m k hk]
    by_cases hm : m = n ∧ k ∈ l
    · simp [hm]
    · rw [if_neg hm]
      simp only [Group.readV, Group.putV]
      by_cases h2 : m = n ∧ k = a
      · obtain ⟨rfl, rfl⟩ := h2; simp
      · rw [get_set_other _ _ _ _ _ (by omega), if_neg]
        simp only [List.mem_cons]
        tauto

/-- Lanes are below 32. -/
theorem toList_lt (a : Lanes) : ∀ k ∈ a.toList, k < 32 := fun _ h => (mem_lanes.1 h).1
/-- No lane is listed twice. -/
theorem toList_nodup (a : Lanes) : a.toList.Nodup := List.Nodup.filter _ (by decide)

/-- A set that is not empty has a lowest lane, in it. -/
theorem low_mem (a : Lanes) (h : a ≠ 0#32) : ∃ e, a.lowest = some e ∧ low a = e ∧ e < 32 ∧ a.getLsbD e = true := by
  have : a.toList ≠ [] := by
    intro he
    apply h
    apply BitVec.eq_of_getLsbD_eq
    intro i hi
    by_contra hc
    have : i ∈ a.toList := mem_lanes.2 ⟨hi, by simpa using hc⟩
    simp [he] at this
  obtain ⟨e, l, hl⟩ := List.exists_cons_of_ne_nil this
  have he : e ∈ a.toList := by simp [hl]
  exact ⟨e, by simp [Lanes.lowest, hl], by simp [low, Lanes.lowest, hl], mem_lanes.1 he⟩

/-- Bits gathered from a list of lanes. -/
theorem ofList_bit (l : List Nat) : ∀ m : Lanes, ∀ k, k < 32 → (∀ i ∈ l, i < 32) → (l.foldl (fun m i => m ||| (1#32 <<< i)) m).getLsbD k = (m.getLsbD k || decide (k ∈ l)) := by
  induction l with
  | nil => intro m k _ _; simp
  | cons a l ih =>
    intro m k hk h
    rw [List.foldl_cons, ih _ k hk (fun i hi => h i (by simp [hi]))]
    have := h a (by simp)
    simp only [BitVec.getLsbD_or, BitVec.getLsbD_shiftLeft, BitVec.getLsbD_one, List.mem_cons]
    by_cases hka : k = a
    · subst hka; simp [hk]
    · have : ¬ (k - a = 0 ∧ ¬ k < a) := by omega
      by_cases hlt : k < a
      · simp [hlt, hka]
      · have h0 : k - a ≠ 0 := by omega
        simp [hka, h0]

/-- Bits gathered from a function. -/
theorem ofFn_bit (f : Nat → Bool) (k : Nat) (hk : k < 32) : (Lanes.ofFn f).getLsbD k = f k := by
  have hl : ∀ j, j ∈ laneList ↔ j < 32 := by
    intro j
    simp only [laneList, List.mem_cons, List.not_mem_nil, or_false]
    omega
  rw [Lanes.ofFn, Lanes.ofList, ofList_bit _ _ _ hk (by intro i hi; exact (hl i).1 ((List.mem_filter.1 hi).1))]
  simp [hl, hk]

/-- Bits replaced for some lanes. -/
theorem merge_bit (o n l : Lanes) (k : Nat) (hk : k < 32) : (mergeLanes o n l).getLsbD k = if l.getLsbD k then n.getLsbD k else o.getLsbD k := by
  simp [mergeLanes, hk]
  by_cases h : l[k] <;> simp [h]

/-- The same, as an element. -/
theorem merge_bit' (o n l : Lanes) (k : Nat) (hk : k < 32) : (mergeLanes o n l)[k] = if l[k] then n[k] else o[k] := by
  have := merge_bit o n l k hk
  simpa [hk] using this
/-- The same, as an element. -/
theorem ofFn_bit' (f : Nat → Bool) (k : Nat) (hk : k < 32) : (Lanes.ofFn f)[k] = f k := by
  have := ofFn_bit f k hk
  simpa [hk] using this


/-- Lanes are placed. -/
theorem placeAt_pc (l : List Nat) (pc : Nat → Nat) (h : Nat) : ∀ g : Group, ∀ k,
    (l.foldl (fun g i => { g with pcs := Sparse.set 0 g.pcs i (pc i), hdrs := Sparse.set 0 g.hdrs i h }) g : Group).pc k = (if k ∈ l then pc k else g.pc k) ∧ 
    (l.foldl (fun g i => { g with pcs := Sparse.set 0 g.pcs i (pc i), hdrs := Sparse.set 0 g.hdrs i h }) g : Group).hdr k = (if k ∈ l then h else g.hdr k) := by
  induction l with
  | nil => intro g k; simp
  | cons a l ih =>
    intro g k
    rw [List.foldl_cons]
    obtain ⟨h1, h2⟩ := ih { g with pcs := Sparse.set 0 g.pcs a (pc a), hdrs := Sparse.set 0 g.hdrs a h } k
    rw [h1, h2]
    simp only [Group.pc, Group.hdr, List.mem_cons]
    by_cases hk : k = a
    · subst hk; simp
    · rw [get_set_other _ _ _ _ _ hk, get_set_other _ _ _ _ _ hk]; simp [hk]

/-- Placing changes counters and headers alone. -/
theorem placeAt_rest (l : List Nat) (pc : Nat → Nat) (h : Nat) : ∀ g : Group, ∃ pcs hdrs,
    (l.foldl (fun g i => { g with pcs := Sparse.set 0 g.pcs i (pc i), hdrs := Sparse.set 0 g.hdrs i h }) g : Group) = { g with pcs := pcs, hdrs := hdrs } := by
  induction l with
  | nil => intro g; exact ⟨_, _, rfl⟩
  | cons a l ih =>
    intro g
    obtain ⟨p, q, e⟩ := ih { g with pcs := Sparse.set 0 g.pcs a (pc a), hdrs := Sparse.set 0 g.hdrs a h }
    exact ⟨p, q, by rw [List.foldl_cons, e]⟩

/-- Counters of lanes that are placed. -/
theorem place_pc (g : Group) (ls : Lanes) (pc h k : Nat) (hk : k < 32) : (g.place ls pc h).pc k = if ls.getLsbD k then pc else g.pc k := by
  rw [Group.place, Group.placeAt, (placeAt_pc _ _ _ _ _).1]
  simp [mem_lanes, hk]; rfl
/-- Clause headers of lanes that are placed. -/
theorem place_hdr (g : Group) (ls : Lanes) (pc h k : Nat) (hk : k < 32) : (g.place ls pc h).hdr k = if ls.getLsbD k then h else g.hdr k := by
  rw [Group.place, Group.placeAt, (placeAt_pc _ _ _ _ _).2]
  simp [mem_lanes, hk]; rfl
/-- Placing leaves the rest of the group. -/
theorem place_rest (g : Group) (ls : Lanes) (pc h : Nat) : ∃ pcs hdrs need, g.place ls pc h = { g with pcs := pcs, hdrs := hdrs, need := need } := by
  obtain ⟨p, q, e⟩ := placeAt_rest ls.toList (fun _ => pc) h { g with need := g.need &&& ~~~ls }
  exact ⟨p, q, _, by rw [Group.place, Group.placeAt, e]⟩

/-- What a write of one register changes. -/
theorem writeReg_rest (g : Group) (path) (n : Nat) (a : Lanes) (x : Nat → Nat) : ∃ v sr p marks lat prot,
    g.writeReg path n a x = { g with v := v, s := sr, p := p, marks := marks, latches := lat, prot := prot } ∧ (∀ m, m ≠ n → Sparse.get 0 marks m = Sparse.get 0 g.marks m) ∧ (∀ l ∈ lat, l ∈ g.latches) := by
  have hV : ∀ (l : List Nat) (g : Group), ∃ v, l.foldl (fun g i => g.putV n i (x i)) g = { g with v := v } := by
    intro l
    induction l with
    | nil => intro g; exact ⟨_, rfl⟩
    | cons b l ih => intro g; obtain ⟨v, e⟩ := ih (g.putV n b (x b)); exact ⟨v, by rw [List.foldl_cons, e]; rfl⟩
  unfold Group.writeReg
  rcases path with _ | ⟨pc, ls⟩ <;> dsimp only <;> split
  · exact ⟨_, _, _, _, _, _, rfl, fun _ _ => rfl, fun _ h => h⟩
  · split
    · obtain ⟨v, e⟩ := hV a.toList g
      rw [e]
      exact ⟨_, _, _, _, _, _, rfl, fun m hm => get_erase_other _ _ _ _ hm, fun _ h => (List.mem_filter.1 h).1⟩
    split
    · split
      · exact ⟨_, _, _, _, _, _, rfl, fun _ _ => rfl, fun _ h => h⟩
      · exact ⟨_, _, _, _, _, _, rfl, fun m hm => get_erase_other _ _ _ _ hm, fun _ h => (List.mem_filter.1 h).1⟩
    split
    · simp only [Group.putP]; split <;> exact ⟨_, _, _, _, _, _, rfl, fun _ _ => rfl, fun _ h => h⟩
    · exact ⟨_, _, _, _, _, _, rfl, fun _ _ => rfl, fun _ h => h⟩
  · exact ⟨_, _, _, _, _, _, rfl, fun _ _ => rfl, fun _ h => h⟩
  · split
    · obtain ⟨v, e⟩ := hV a.toList g
      rw [e]
      exact ⟨_, _, _, _, _, _, rfl, fun m hm => get_erase_other _ _ _ _ hm, fun _ h => (List.mem_filter.1 h).1⟩
    split
    · split
      · exact ⟨_, _, _, _, _, _, rfl, fun _ _ => rfl, fun _ h => h⟩
      · split
        · exact ⟨_, _, _, _, _, _, rfl, fun _ _ => rfl, fun _ h => h⟩
        · exact ⟨_, _, _, _, _, _, rfl, fun m hm => get_erase_other _ _ _ _ hm, fun _ h => (List.mem_filter.1 h).1⟩
    split
    · simp only [Group.putP]; split <;> exact ⟨_, _, _, _, _, _, rfl, fun _ _ => rfl, fun _ h => h⟩
    · exact ⟨_, _, _, _, _, _, rfl, fun _ _ => rfl, fun _ h => h⟩

/-- Predicates after a write. -/
theorem putP_pred (g : Group) (r q : Nat) (x : Lanes) (hr : r < 7) : (g.putP r x).pred q = if q = r then x else g.pred q := by
  have : r ≠ 7 := by omega
  simp only [Group.putP, this, if_false, Group.pred]
  by_cases h : q = r
  · subst h; simp [this]
  · rw [get_set_other _ _ _ _ _ h]; simp [h]

/-- A vector register written, and the other registers. -/
theorem writeV_other (g : Group) (n : Nat) (a : Lanes) (x : Nat → Nat) (m k : Nat) (h : m ≠ n) (hk : k < 32) :
    regBit ((a.toList.foldl (fun g i => g.putV n i (x i)) g).unmark n) m k = regBit g m k := by
  simp only [regBit]
  have := foldl_lanes_readV a.toList x n g (toList_lt a) (toList_nodup a) m k hk
  split
  · rw [if_neg (by simp [h])] at this; exact this
  · have e : ∀ (l : List Nat) (g : Group), ∃ v, l.foldl (fun g i => g.putV n i (x i)) g = { g with v := v } := by
      intro l
      induction l with
      | nil => intro g; exact ⟨_, rfl⟩
      | cons b l ih => intro g; obtain ⟨v, e⟩ := ih (g.putV n b (x b)); exact ⟨v, by rw [List.foldl_cons, e]; rfl⟩
    obtain ⟨v, e⟩ := e a.toList g
    rw [e]; rfl

/-- Other registers. -/
theorem writeReg_other (g : Group) (path) (n : Nat) (a : Lanes) (x : Nat → Nat) (m k : Nat) (hm : isReg m) (h : m ≠ n) (hk : k < 32) :
    regBit (g.writeReg path n a x) m k = regBit g m k := by
  have hS : ∀ g' : Group, 1536 ≤ n → n < 1600 → g'.v = g.v → g'.p = g.p → (∀ q, q ≠ n - 1536 → g'.readS q = g.readS q) → regBit g' m k = regBit g m k := by
    intro g' _ _ e1 e2 e3
    simp only [regBit, Group.readV, e1, Group.pred, e2]
    split
    · rfl
    split
    · exact e3 _ (by omega)
    · rfl
  have hP : ∀ g' : Group, 1664 ≤ n → g'.v = g.v → g'.s = g.s → (∀ q, q ≠ n - 1664 → g'.pred q = g.pred q) → regBit g' m k = regBit g m k := by
    intro g' _ e1 e2 e3
    simp only [regBit, Group.readV, e1, Group.readS, e2]
    split
    · rfl
    split
    · rfl
    · rw [e3 _ (by unfold isReg at hm; omega)]
  unfold Group.writeReg
  rcases path with _ | ⟨pc, ls⟩ <;> dsimp only <;> split
  · rfl
  · split
    · next h1 => exact writeV_other g n a x m k h hk
    split
    · split
      · rfl
      · refine hS _ (by omega) (by omega) rfl rfl ?_
        intro q hq; simp [Group.unmark, Group.readS, Group.putS, get_set_other _ _ _ _ _ hq]
    split
    · next h3 =>
      simp at h3
      have h7 : n - 1664 ≠ 7 := by omega
      refine hP _ h3.1 (by simp [Group.putP, h7]) (by simp [Group.putP, h7]) ?_
      intro q hq; simp [Group.pred, Group.putP, h7, get_set_other _ _ _ _ _ hq]
    · rfl
  · rfl
  · split
    · next h1 => exact writeV_other g n a x m k h hk
    split
    · split
      · rfl
      · split
        · rfl
        · refine hS _ (by omega) (by omega) rfl rfl ?_
          intro q hq; simp [Group.unmark, Group.readS, Group.putS, get_set_other _ _ _ _ _ hq]
    split
    · next h3 =>
      simp at h3
      have h7 : n - 1664 ≠ 7 := by omega
      refine hP _ h3.1 (by simp [Group.putP, h7]) (by simp [Group.putP, h7]) ?_
      intro q hq; simp [Group.pred, Group.putP, h7, get_set_other _ _ _ _ _ hq]
    · rfl

/-- Lanes not written. -/
theorem writeReg_lane (g : Group) (pc : Nat) (ls : Lanes) (n : Nat) (a : Lanes) (x : Nat → Nat) (k : Nat) (hn : ¬ (1536 ≤ n ∧ n < 1600)) (hk : k < 32)
    (ha : a.getLsbD k = false) (hu : ∀ e ∈ g.prot, e.1 = pc ∨ e.2.1 ≠ n) : 
    regBit (g.writeReg (some (pc, ls)) n a x) n k = regBit g n k := by
  have hf : g.prot.find? (fun (e : Nat × Nat × Lanes) => e.1 != pc && e.2.1 = n) = none := by
    rw [List.find?_eq_none]; intro q hq; have := hu q hq; simp; tauto
  unfold Group.writeReg
  dsimp only
  rw [hf]
  split
  · rfl
  split
  · next h1 =>
    have := foldl_lanes_readV a.toList x n g (toList_lt a) (toList_nodup a) n k hk
    rw [if_neg (fun c => by have := (mem_lanes.1 c.2).2; rw [ha] at this; cases this)] at this
    simp only [regBit, h1, if_true]
    exact this
  split
  · omega
  split
  · next h1 h2 h3 =>
    simp at h3
    have h7 : n - 1664 ≠ 7 := by omega
    simp only [regBit, h1, h2, if_false]
    have e : ∀ (q : List (Nat × Nat × Lanes)) (r x), ({ g.putP r x with prot := q } : Group).pred = (g.putP r x).pred := fun _ _ _ => rfl
    rw [e, putP_pred _ _ _ _ (by omega), if_pos rfl, merge_bit _ _ _ _ hk, ha]
    rfl
  · rfl

/-- Notes of writes. -/
theorem writeReg_prot (g : Group) (pc : Nat) (ls : Lanes) (n : Nat) (a : Lanes) (x : Nat → Nat) :
    ∀ e ∈ (g.writeReg (some (pc, ls)) n a x).prot, e.1 = pc ∨ e ∈ g.prot := by
  have hV : ∀ (l : List Nat) (g : Group), ∃ v, l.foldl (fun g i => g.putV n i (x i)) g = { g with v := v } := by
    intro l
    induction l with
    | nil => intro g; exact ⟨_, rfl⟩
    | cons b l ih => intro g; obtain ⟨v, e⟩ := ih (g.putV n b (x b)); exact ⟨v, by rw [List.foldl_cons, e]; rfl⟩
  unfold Group.writeReg
  dsimp only
  split
  · exact fun e h => .inr h
  split
  · obtain ⟨v, e⟩ := hV a.toList g
    rw [e]; exact fun e h => .inr h
  split
  · split
    · exact fun e h => .inr h
    · split
      · exact fun e h => .inr h
      · intro e h
        rcases List.mem_cons.1 h with h | h
        · exact .inl (by rw [h])
        · exact .inr h
  split
  · have hp : ∀ r y, (g.putP r y).prot = g.prot := by intro r y; simp only [Group.putP]; split <;> rfl
    intro e h
    rcases List.mem_cons.1 h with h | h
    · exact .inl (by rw [h])
    · rw [hp] at h; exact .inr h
  · exact fun e h => .inr h

/-- The registers of a result: everything else stays. -/
theorem writeRegs_frame (pc : Nat) (ls a : Lanes) (x : Nat → Nat) : ∀ (ns : List Nat) (j : Nat) (g : Group),
    (∀ e ∈ g.prot, e.1 = pc ∨ e.2.1 ∉ ns) →
    let h := g.writeRegs (some (pc, ls)) a x ns j
    (∃ v sr p marks lat prot, h = { g with v := v, s := sr, p := p, marks := marks, latches := lat, prot := prot } ∧ (∀ m, m ∉ ns → Sparse.get 0 marks m = Sparse.get 0 g.marks m) ∧ (∀ l ∈ lat, l ∈ g.latches)) ∧
    (∀ m k, isReg m → m ∉ ns → k < 32 → regBit h m k = regBit g m k) ∧
    (∀ m k, isReg m → ¬ (1536 ≤ m ∧ m < 1600) → k < 32 → a.getLsbD k = false → regBit h m k = regBit g m k) := by
  intro ns
  induction ns with
  | nil => intro j g _; exact ⟨⟨_, _, _, _, _, _, rfl, fun _ _ => rfl, fun _ h => h⟩, fun _ _ _ _ _ => rfl, fun _ _ _ _ _ _ => rfl⟩
  | cons n ns ih =>
    intro j g hu
    set g1 := g.writeReg (some (pc, ls)) n a (fun i => bits (x i) (32 * j) 32) with hg1
    obtain ⟨v, sr, p, mk, la, pr, e, hm, hl⟩ := writeReg_rest g (some (pc, ls)) n a (fun i => bits (x i) (32 * j) 32)
    obtain ⟨⟨v', sr', p', mk', la', pr', e', hm', hl'⟩, h2, h3⟩ := ih (j + 1) g1 (by
      intro q hq
      rcases writeReg_prot _ _ _ _ _ _ q hq with h | h
      · exact .inl h
      · rcases hu q h with h | h
        · exact .inl h
        · exact .inr (fun hc => h (by simp [hc])))
    refine ⟨⟨v', sr', p', mk', la', pr', ?_, ?_, ?_⟩, ?_, ?_⟩
    · show g1.writeRegs (some (pc, ls)) a x ns (j + 1) = _
      rw [e', hg1, e]
    · intro m h
      simp only [List.mem_cons, not_or] at h
      rw [hm' m h.2, hg1, e]; exact hm m h.1
    · intro l h
      have := hl' l h
      rw [hg1, e] at this; exact hl l this
    · intro m k h4 h5 h6
      simp only [List.mem_cons, not_or] at h5
      show regBit (g1.writeRegs (some (pc, ls)) a x ns (j + 1)) m k = _
      rw [h2 m k h4 h5.2 h6, hg1, writeReg_other _ _ _ _ _ _ _ h4 h5.1 h6]
    · intro m k h4 h5 h6 h7
      show regBit (g1.writeRegs (some (pc, ls)) a x ns (j + 1)) m k = _
      rw [h3 m k h4 h5 h6 h7, hg1]
      by_cases hmn : m = n
      · subst hmn
        exact writeReg_lane _ _ _ _ _ _ _ h5 h6 h7 (fun e he => by
          rcases hu e he with h | h
          · exact .inl h
          · exact .inr (fun hc => h (by simp [hc])))
      · exact writeReg_other _ _ _ _ _ _ _ h4 hmn h6

/-- A vector register that a write names. -/
theorem writeV_same (g : Group) (path) (n : Nat) (a : Lanes) (x : Nat → Nat) (hn : n < 1536) (ha : a ≠ 0#32) (k : Nat) (hk : k < 32) (hb : a.getLsbD k = true) :
    (g.writeReg path n a x).readV n k = x k % 2^32 ∧ Sparse.get 0 (g.writeReg path n a x).marks n = 0 := by
  have := foldl_lanes_readV a.toList x n g (toList_lt a) (toList_nodup a) n k hk
  rw [if_pos ⟨rfl, mem_lanes.2 ⟨hk, hb⟩⟩] at this
  have e : g.writeReg path n a x = (a.toList.foldl (fun g i => g.putV n i (x i)) g).unmark n := by
    simp [Group.writeReg, ha, hn]
  rw [e]
  exact ⟨this, get_erase_same _ _ _⟩

/-- No other path has written the register. -/
theorem unwritten_find (g : Group) (pc n : Nat) (h : ∀ e ∈ g.prot, e.1 = pc ∨ e.2.1 ≠ n) : g.prot.find? (fun (e : Nat × Nat × Lanes) => e.1 != pc && e.2.1 = n) = none := by
  rw [List.find?_eq_none]; intro q hq; have := h q hq; simp; tauto

/-- A scalar that a write names. -/
theorem writeS_same (g : Group) (pc : Nat) (ls : Lanes) (n : Nat) (a : Lanes) (x : Nat → Nat) (hn : 1536 ≤ n) (hn' : n < 1600) (ha : a ≠ 0#32)
    (h : ∀ e ∈ g.prot, e.1 = pc ∨ e.2.1 ≠ n) :
    (g.writeReg (some (pc, ls)) n a x).readS (n - 1536) = x (low a) % 2^32 ∧ Sparse.get 0 (g.writeReg (some (pc, ls)) n a x).marks n = 0 := by
  obtain ⟨e, he, hle, _⟩ := low_mem a ha
  have h3 : ¬ n < 1536 := by omega
  have hf := unwritten_find g pc n h
  unfold Group.writeReg
  simp only [ha, h3, hn', if_false, if_true, he, hf]
  simp only [Option.isSome_none, Bool.false_eq_true, if_false]
  exact ⟨by simp [Group.readS, Group.putS, Group.unmark, hle], get_erase_same _ _ _⟩

/-- Numbers of a range. -/
theorem mem_rangeFrom (d : Nat) : ∀ n m, m ∈ rangeFrom d n ↔ d ≤ m ∧ m < d + n := by
  intro n
  induction n generalizing d with
  | zero => intro m; simp [rangeFrom]
  | succ n ih => intro m; simp [rangeFrom, ih]; omega

/-- The registers of a result. -/
theorem writeRegs_hit (pc : Nat) (ls a : Lanes) (x : Nat → Nat) (ha : a ≠ 0#32) : ∀ (n d i : Nat) (g : Group) (j : Nat), j < n →
    (∀ e ∈ g.prot, e.1 = pc ∨ e.2.1 ∉ rangeFrom d n) →
    let h := g.writeRegs (some (pc, ls)) a x (rangeFrom d n) i
    (d + n ≤ 1536 → ∀ k, k < 32 → a.getLsbD k = true → h.readV (d + j) k = bits (x k) (32 * (i + j)) 32) ∧
    (1536 ≤ d → d + n ≤ 1600 → h.readS (d + j - 1536) = bits (x (low a)) (32 * (i + j)) 32) ∧
    (d + n ≤ 1600 → Sparse.get 0 h.marks (d + j) = 0) := by
  intro n
  induction n with
  | zero => intro d i g j hj; omega
  | succ n ih =>
    intro d i g j hj hu
    set g1 := g.writeReg (some (pc, ls)) d a (fun k => bits (x k) (32 * i) 32) with hg1
    have hu1 : ∀ e ∈ g1.prot, e.1 = pc ∨ e.2.1 ∉ rangeFrom (d + 1) n := by
      intro q hq
      rcases writeReg_prot _ _ _ _ _ _ q hq with h | h
      · exact .inl h
      · rcases hu q h with h | h
        · exact .inl h
        · exact .inr (fun hc => h (by rw [rangeFrom]; simp [hc]))
    have hu0 : ∀ e ∈ g.prot, e.1 = pc ∨ e.2.1 ≠ d := by
      intro q hq
      rcases hu q hq with h | h
      · exact .inl h
      · exact .inr (fun hc => h (by rw [rangeFrom]; simp [hc]))
    have hlt : ∀ y i, bits y i 32 % 2^32 = bits y i 32 := fun y i => Nat.mod_eq_of_lt (Nat.mod_lt _ (by decide))
    show let h := g1.writeRegs (some (pc, ls)) a x (rangeFrom (d + 1) n) (i + 1); _
    intro h
    rcases j with _ | j
    · obtain ⟨⟨v, sr, p, mk, la, pr, e1, hm, _⟩, h2, h3⟩ := writeRegs_frame pc ls a x (rangeFrom (d + 1) n) (i + 1) g1 hu1
      have hnot : d ∉ rangeFrom (d + 1) n := by rw [mem_rangeFrom]; omega
      refine ⟨?_, ?_, ?_⟩
      · intro hd k hk hb
        have := h2 d k (.inl (by omega)) hnot hk
        simp only [regBit, show d < 1536 by omega, if_true] at this
        show (g1.writeRegs _ _ _ _ _).readV d _ = _
        rw [this, hg1, (writeV_same _ _ _ _ _ (by omega) ha k hk hb).1, hlt]; rfl
      · intro hd hd'
        have := h2 d 0 (.inl (by omega)) hnot (by omega)
        simp only [regBit, show ¬ d < 1536 by omega, show d < 1600 by omega, if_true, if_false] at this
        show (g1.writeRegs _ _ _ _ _).readS (d - 1536) = _
        rw [this, hg1, (writeS_same _ _ _ _ _ _ (by omega) (by omega) ha hu0).1, hlt]; rfl
      · intro hd
        show Sparse.get 0 (g1.writeRegs _ _ _ _ _).marks _ = _
        rw [Nat.add_zero, e1]
        show Sparse.get 0 mk d = 0
        rw [hm d hnot, hg1]
        by_cases hv : d < 1536
        · obtain ⟨e, he, hle, h32, hb⟩ := low_mem a ha
          exact (writeV_same _ _ _ _ _ hv ha e h32 hb).2
        · exact (writeS_same _ _ _ _ _ _ (by omega) (by omega) ha hu0).2
    · obtain ⟨q1, q2, q3⟩ := ih (d + 1) (i + 1) g1 j (by omega) hu1
      have e1 : d + (j + 1) = d + 1 + j := by omega
      have e2 : i + (j + 1) = i + 1 + j := by omega
      rw [e1, e2]
      exact ⟨fun hd => q1 (by omega), fun hd hd' => q2 (by omega) (by omega), fun hd => q3 (by omega)⟩

/-- Every write of a result. -/
theorem wrote (s : State) (act : Lanes) (names : List Nat) (x : Nat → Nat) (hu : unwritten s names) :
    Wrote s (s.writeDest act names x).advance names act := by
  have hme : (s.writeDest act names x).me = s.me.writeRegs (some (s.me.issuedNow, s.sched.cur.lanes)) act x names 0 := by
    show (s.writeDest act names x).group s.sched.cur.grp = _
    simp [State.writeDest, State.me]
  have e : (s.writeDest act names x).advance.group (grp s) =
      (((s.writeDest act names x).me).place s.sched.cur.lanes s.sched.cur.npc s.sched.cur.hdr).counted := by
    simp only [State.advance, grp]
    show State.group (State.modGroup _ s.sched.cur.grp _) _ = _
    rw [group_modGroup]
    rfl
  rw [hme] at e
  obtain ⟨⟨v, sr, p, mk, la, pr, e1, h1, hl⟩, h2, h3⟩ := writeRegs_frame s.me.issuedNow s.sched.cur.lanes act x names 0 s.me hu
  obtain ⟨pcs, hdrs, need, e2⟩ := place_rest (s.me.writeRegs (some (s.me.issuedNow, s.sched.cur.lanes)) act x names 0) s.sched.cur.lanes s.sched.cur.npc s.sched.cur.hdr
  have er : ∀ n k, regBit ((s.writeDest act names x).advance.group (grp s)) n k = regBit (s.me.writeRegs (some (s.me.issuedNow, s.sched.cur.lanes)) act x names 0) n k := by
    intro n k; rw [e, e2]; rfl
  refine ⟨⟨?_, rfl⟩, fun _ => rfl, ?_, ?_, ?_, ?_, ?_⟩
  · intro k hk
    rw [show (s.writeDest act names x).advance = State.modGroup (State.modGroup s (grp s) (fun g => g.writeRegs (some (g.issuedNow, s.sched.cur.lanes)) act x names 0)) (grp s) (fun g => (g.place s.sched.cur.lanes s.sched.cur.npc s.sched.cur.hdr).counted) from rfl]
    rw [group_modGroup_other _ _ _ _ hk, group_modGroup_other _ _ _ _ hk]
  · intro n k a b c; rw [er]; exact h2 n k a b c
  · intro n k a b c d; rw [er]; exact h3 n k a b c d
  · intro n a; rw [e, e2, e1]; exact h1 n a
  · rw [e, e2, e1]; exact hl
  · rw [e, e2, e1]
    exact ⟨_, _, _, _, _, _, _, _, _, _, _, _, _, _, _, _, rfl⟩

end Sys2Proof.Laws
end

