-- ==== Sys2Proof/Laws/Traps.lean ====
section
/-! SUPPORT. What stopping a group, broadcasting a halt and raising causes leave as they were. -/

namespace Sys2Proof.Laws

open Sys2Proof Sys2Proof.Machine Sys2Proof.Rules

set_option maxRecDepth 4000

/-- A group but for its flags, its stalls and the reads that are to be issued again, and the memories, are as they were. -/
def SameButReads (s t : State) (k : Nat) : Prop :=
  (∃ flags lf stalls qr, t.group k = { s.group k with flags := flags, longFlags := lf, stalls := stalls, qread := qr }) ∧ t.mem = s.mem ∧ t.scr = s.scr

theorem SameButReads.rfl' (s : State) (k : Nat) : SameButReads s s k := ⟨⟨_, _, _, _, rfl⟩, rfl, rfl⟩

theorem SameButReads.trans {s t u : State} {k : Nat} (h : SameButReads s t k) (h' : SameButReads t u k) : SameButReads s u k := by
  obtain ⟨⟨f, l, st, q, e⟩, a, b⟩ := h
  obtain ⟨⟨f', l', st', q', e'⟩, a', b'⟩ := h'
  exact ⟨⟨f', l', st', q', by rw [e', e]⟩, a'.trans a, b'.trans b⟩

/-- States in which the group and the memories are the same. -/
theorem sameButReads_of_group {s t : State} {k : Nat} (h : t.group k = s.group k) (hm : t.mem = s.mem ∧ t.scr = s.scr) : SameButReads s t k :=
  ⟨⟨(s.group k).flags, (s.group k).longFlags, (s.group k).stalls, (s.group k).qread, h⟩, hm⟩

/-- States of the same groups and memories. -/
theorem sameButReads_of_groups {s t : State} (k : Nat) (h : t.groups = s.groups ∧ t.mem = s.mem ∧ t.scr = s.scr) : SameButReads s t k :=
  sameButReads_of_group (by simp only [State.group, h.1]) h.2

/-- Steps that touch no more, one after the other. -/
theorem sameButReads_fold {α : Type} {k : Nat} (F : State → α → State) (h : ∀ s x, SameButReads s (F s x) k) (l : List α) (s : State) :
    SameButReads s (l.foldl F s) k := by
  induction l generalizing s with
  | nil => exact SameButReads.rfl' s k
  | cons x l ih => exact (h s x).trans (ih (F s x))

/-- Dropping withdrawn reads touches flags, stalls and the reads to issue again. -/
theorem dropReads_rest (s : State) (j k : Nat) : SameButReads s (dropReads s j) k := by
  refine sameButReads_fold _ (fun s p => ?_) _ s
  by_cases e : j = k
  · subst e
    refine ⟨?_, rfl, rfl⟩
    rw [group_modGroup, show (s.dropOp p.1).group j = s.group j from rfl]
    unfold Group.dropFlag
    split <;> exact ⟨_, _, _, _, rfl⟩
  · refine ⟨?_, rfl, rfl⟩
    rw [group_modGroup_other _ j k _ (fun x => e x.symm)]
    exact ⟨_, _, _, _, rfl⟩

/-- So does dropping those of a group without a live lane. -/
theorem dropDead_rest (s : State) (j k : Nat) : SameButReads s (dropDead s j) k := by
  refine (dropReads_rest s j k).trans ⟨?_, rfl, rfl⟩
  unfold dropDead
  by_cases e : j = k
  · subst e; rw [group_modGroup]; exact ⟨_, _, _, _, rfl⟩
  · rw [group_modGroup_other _ j k _ (fun x => e x.symm)]; exact ⟨_, _, _, _, rfl⟩

/-- What standing still leaves of the group. -/
theorem standStill_rest (s : State) (k : Nat) (m : Mode) :
    (∃ joins sw, (standStill s k m).group k = { s.group k with
      joins := joins, semWaits := sw, mode := m, skidLeft := none,
      racq := none, rrelAt := none, sleep := none, fences := [], nbWaits := [], genWaits := [], fetched := [], clears := [], latches := [] }) ∧
    (standStill s k m).mem = s.mem ∧ (standStill s k m).scr = s.scr := by
  have hq : ∀ (l : List (Nat × Nat)) (s : State), let t := l.foldl (fun s w =>
      s.modCore (coreOfGrp s k) (fun c => { c with semQueues := Sparse.set [] c.semQueues w.1 ((Sparse.get [] c.semQueues w.1).filter (fun x => !x.isPathOf k)) })) s
      t.groups = s.groups ∧ t.mem = s.mem ∧ t.scr = s.scr := by
    intro l
    induction l with
    | nil => intro s; exact ⟨rfl, rfl, rfl⟩
    | cons w l ih => intro s; obtain ⟨a, b, c⟩ := ih (s.modCore (coreOfGrp s k) _); exact ⟨a, b, c⟩
  have h1 : (leaveSlots (leaveQueues s k) k).group k = { s.group k with semWaits := [] } ∧ (leaveSlots (leaveQueues s k) k).mem = s.mem ∧ (leaveSlots (leaveQueues s k) k).scr = s.scr := by
    obtain ⟨a, b, c⟩ := hq (s.group k).semWaits s
    refine ⟨?_, b, c⟩
    rw [show (leaveSlots (leaveQueues s k) k).group k = (leaveQueues s k).group k from rfl]
    unfold leaveQueues
    dsimp only
    rw [group_modGroup]
    simp only [State.group] at *
    rw [a]
  unfold standStill
  generalize leaveSlots (leaveQueues s k) k = s1 at h1
  obtain ⟨e, em, es⟩ := h1
  refine ⟨?_, em, es⟩
  rw [group_modGroup, e]; exact ⟨_, _, rfl⟩

/-- Withdrawing reads touches no group and no memory. -/
theorem withdrawReads_rest (s : State) (j : Nat) :
    (withdrawReads s j).groups = s.groups ∧ (withdrawReads s j).mem = s.mem ∧ (withdrawReads s j).scr = s.scr := by
  have hm : ∀ (s : State) (id : Nat) (f : Op → Op),
      (s.modOp id f).groups = s.groups ∧ (s.modOp id f).mem = s.mem ∧ (s.modOp id f).scr = s.scr := by
    intro s id f
    unfold State.modOp
    split <;> exact ⟨rfl, rfl, rfl⟩
  have h : ∀ (l : List (Nat × Op)) (s : State), let t := l.foldl (fun s p => s.modOp p.1 (fun o => { o with withdrawn := true })) s
      t.groups = s.groups ∧ t.mem = s.mem ∧ t.scr = s.scr := by
    intro l
    induction l with
    | nil => intro s; exact ⟨rfl, rfl, rfl⟩
    | cons p l ih =>
      intro s
      obtain ⟨a, b, c⟩ := ih (s.modOp p.1 (fun o => { o with withdrawn := true }))
      obtain ⟨x, y, z⟩ := hm s p.1 (fun o => { o with withdrawn := true })
      exact ⟨a.trans x, b.trans y, c.trans z⟩
  exact h _ s

/-- A broadcast leaves the group that raised, but for reads where it has no live lane. -/
theorem broadcast_rest (s : State) (team k : Nat) : SameButReads s (broadcast s team k) k := by
  refine sameButReads_fold _ (fun s j => ?_) _ s
  have hw : SameButReads s (if (s.team team).debug then s else if (s.group j).live = 0#32 then dropDead s j else withdrawReads s j) k := by
    split
    · exact SameButReads.rfl' s k
    · split
      · exact dropDead_rest s j k
      · exact sameButReads_of_groups k (withdrawReads_rest s j)
  dsimp only
  generalize (if (s.team team).debug then s else if (s.group j).live = 0#32 then dropDead s j else withdrawReads s j) = u at hw
  refine hw.trans ?_
  split
  · next h =>
    simp at h
    refine sameButReads_of_group ?_ ⟨rfl, rfl⟩
    rw [show ∀ u : State, u.took.group k = u.group k from fun _ => rfl]
    exact group_modGroup_other u j k _ (fun e => h.1.1.1 e.symm)
  · exact SameButReads.rfl' u k

/-- A group that raises causes at an ordinary moment has trapped. -/
theorem raise_trapped (s : State) (cs : Sparse Nat) (tok) (ho : Ordinary s) :
    Trapped s (s.raise cs 0 tok false) (fun k => Sparse.get 0 (cs.foldl (fun m p => Sparse.set 0 m p.1 p.2) []) k) (lowestCause cs) (lowestLane cs (lowestCause cs)) := by
  obtain ⟨h1, h2, h3⟩ := ho
  have hr : (s.group s.sched.cur.grp).raisedNow = false := h2
  have hm : (s.group s.sched.cur.grp).mode ≠ .handler := by
    show s.me.mode ≠ _
    rw [h1]; decide
  unfold State.raise
  simp only [hm, if_false, hr, Bool.false_eq_true]
  generalize hs1 : State.modTeam s (teamOf s.sched.cur.grp) _ = s1
  have e1 : SameButReads s s1 s.sched.cur.grp := by subst hs1; exact ⟨⟨_, _, _, _, rfl⟩, rfl, rfl⟩
  generalize hs2 : (if (s1.team (teamOf s.sched.cur.grp)).debug = true then keepReads s1 (teamOf s.sched.cur.grp)
      else if (s.group s.sched.cur.grp).picks.isEmpty = true then dropReads s1 s.sched.cur.grp else withdrawReads s1 s.sched.cur.grp) = s2
  have e2 : SameButReads s s2 s.sched.cur.grp := by
    refine e1.trans ?_
    subst hs2
    split
    · exact ⟨⟨_, _, _, _, rfl⟩, rfl, rfl⟩
    · split
      · exact dropReads_rest s1 _ _
      · exact sameButReads_of_groups _ (withdrawReads_rest s1 s.sched.cur.grp)
  obtain ⟨⟨j, sw, e3⟩, m3, c3⟩ := standStill_rest s2 s.sched.cur.grp .halted
  generalize standStill s2 s.sched.cur.grp .halted = s3 at e3 m3 c3 ⊢
  obtain ⟨⟨f, lf, st, q, e⟩, em, es⟩ := e2
  rw [show s.group s.sched.cur.grp = s.me from rfl] at e
  rw [e] at e3
  rw [em] at m3
  rw [es] at c3
  generalize hs4 : s3.modGroup s.sched.cur.grp _ = s4
  obtain ⟨p, hd, n, e4⟩ := place_rest (s3.group s.sched.cur.grp) s.sched.cur.lanes s.sched.cur.pc s.sched.cur.hdr
  have hpc := fun k hk => place_pc (s3.group s.sched.cur.grp) s.sched.cur.lanes s.sched.cur.pc s.sched.cur.hdr k hk
  have key : ∀ t : State, SameButReads s4 t s.sched.cur.grp → Trapped s t (fun k => Sparse.get 0 (cs.foldl (fun m p => Sparse.set 0 m p.1 p.2) []) k) (lowestCause cs) (lowestLane cs (lowestCause cs)) := by
    intro t ⟨⟨f', lf', st', q', et⟩, tm, ts⟩
    have eg : t.group s.sched.cur.grp = _ := et.trans (by rw [← hs4, group_modGroup])
    rw [e4] at eg hpc
    rw [e3] at eg hpc
    have tm' : t.mem = s.mem := by rw [tm, ← hs4]; exact m3
    have ts' : t.scr = s.scr := by rw [ts, ← hs4]; exact c3
    refine ⟨?_, ?_, ?_, ?_, ?_, ?_, ?_, ?_, ?_, ?_, ⟨tm', ts'⟩⟩
    · rw [show t.group (grp s) = t.group s.sched.cur.grp from rfl, eg]
    · rw [show t.group (grp s) = t.group s.sched.cur.grp from rfl, eg]
    · rw [show t.group (grp s) = t.group s.sched.cur.grp from rfl, eg]
    · intro k hk; rw [show t.group (grp s) = t.group s.sched.cur.grp from rfl, eg]
    · rw [show t.group (grp s) = t.group s.sched.cur.grp from rfl, eg]
    · rw [show t.group (grp s) = t.group s.sched.cur.grp from rfl, eg]
    · intro k hk hb; rw [show t.group (grp s) = t.group s.sched.cur.grp from rfl, eg]; exact (hpc k hk).trans (by rw [hb]; rfl)
    · intro k hk hb; rw [show t.group (grp s) = t.group s.sched.cur.grp from rfl, eg]; exact (hpc k hk).trans (by rw [hb]; rfl)
    · intro n k hn hk; rw [show t.group (grp s) = t.group s.sched.cur.grp from rfl, eg]; rfl
    · rw [show t.group (grp s) = t.group s.sched.cur.grp from rfl, eg]
  split
  · exact key _ ⟨⟨_, _, _, _, rfl⟩, rfl, rfl⟩
  · exact key _ (broadcast_rest s4 (teamOf s.sched.cur.grp) s.sched.cur.grp)

end Sys2Proof.Laws
end

