-- ==== Sys2Proof/Tests/Slice0.lean ====
section
/-! SUPPORT. The model's own tests: terms that are no instruction, words of the spec's tables and what they decode to, worked examples of
the spec stepped once, and for every statement with hypotheses a state and operands that meet them. -/

namespace Sys2Proof.Tests

open Sys2Proof Sys2Proof.Machine Sys2Proof.Rules

set_option maxRecDepth 20000
set_option Elab.async false

/-! ### Small states -/

/-- The state a step answers with. -/
def after (o : Out) : State := o.orElse State.reset

/-- Words placed for group 0 of core 0, whose turn it is with 32 lanes; its group changed by `g`. -/
def small (words : List (BitVec 32)) (g : Group → Group) : State := (placeWords State.reset false words).modGroup 0 g

/-- Group 0 after one step. -/
def stepped (words : List (BitVec 32)) (g : Group → Group) : Group := (after (step (small words g))).group 0

/-- The instruction at address 0 is in the hand of group 0, with 32 lanes. -/
def tiny : State :=
  (small [] id).modSched (fun c => { c with cur := { c.cur with grp := 0, lanes := Lanes.all, pc := 0, npc := 4, hdr := 0x0FF00000 } })

/-- The same, with the group changed. -/
def tinyWith (g : Group → Group) : State := tiny.modGroup 0 g

/-- A base form of `v1` and `v2` into `v3`. -/
def base3 : BaseForm := { neg := false, guard := 7, d := 3, a := 1, b := 2 }

/-- An extended form of `v1` and `v2` into `v4`. -/
def ext3 : ExtForm := { zeroForm with d := 4, a := 1, b := 2 }

/-! ### Terms that are no instruction (R97) -/

theorem test_wf_nop : (Instr.nop { base3 with d := 0, a := 0, b := 0 }).wf = true := by decide
theorem test_ill_guard : (Instr.iadd { base3 with neg := true }).wf = false := by decide
theorem test_ill_unused_base : (Instr.not base3).wf = false := by decide
theorem test_ill_type : (Instr.iaddX { ext3 with ty := 6 }).wf = false := by decide
theorem test_ill_unused : (Instr.iaddX { ext3 with c := 1 }).wf = false := by decide
theorem test_ill_modifier : (Instr.iaddX { ext3 with mods := 8 }).wf = false := by decide
theorem test_ill_condition : (Instr.icmpX { ext3 with mods := 6 }).wf = false := by decide
theorem test_ill_literal : (Instr.notX { ext3 with b := 0, lit := some 1 }).wf = false := by decide
theorem test_ill_literal_field : (Instr.iaddX { ext3 with lit := some 1 }).wf = false := by decide
theorem test_ill_token : (Instr.ldg { ext3 with b := 1920 }).wf = false := by decide
theorem test_ill_mask : (Instr.iaddX { ext3 with mask := 1 }).wf = false := by decide
theorem test_ill_short : (Instr.iaddX { ext3 with short := true, b := 0, mods := 4, lit := some 1 }).wf = false := by decide
theorem test_ill_short_name : (Instr.iaddX { ext3 with short := true, d := 64, b := 0, lit := some 1 }).wf = false := by decide
theorem test_ill_queue_move : (Instr.nmPush { ext3 with d := 1640, b := 0, ty := 4 }).wf = false := by decide
theorem test_ill_barge : (Instr.bnop { d := 1, a := 0, b := 0, i := false, x := 0, imm := 0 }).wf = false := by decide

/-! ### Words that are no instruction (R97) -/

theorem test_refuses_header : decodeWords 0x0FF00000#32 0 0 0 0 = .error .header := by rfl
theorem test_refuses_header_length : decodeWords 0x00000001#32 0 0 0 0 = .error .headerLength := by rfl
theorem test_refuses_major : decodeWords 0x000007A4#32 0 0 0 0 = .error .reservedOpcode := by rfl
theorem test_refuses_index : decodeWords 0x00070A05#32 0 0 0 0 = .error .reservedOpcode := by rfl
theorem test_refuses_no_base : decodeWords 0x00000744#32 0 0 0 0 = .error .noBaseForm := by rfl
theorem test_refuses_bit31 : decodeWords 0x80370005#32 0x1001#32 0 0 0 = .error .reservedBit := by rfl
theorem test_refuses_literal : decodeWords 0x0204370A#32 1 0 0 0 = .error .literalForm := by rfl
theorem test_refuses_barge : decodeBarge 0x7000000000000000#64 = .error .bargeOpcode := by rfl
theorem test_refuses_barge_field : decodeBarge 0x0000000000000001#64 = .error .unusedField := by rfl

/-! ### Words of the spec's tables, written out -/

/-- Major 0x01, worked words of R84: `iadd v3, v1, v2`. -/
theorem test_decode_iadd : decode 0x02043704#32 0 0 0 0 = .ok (.iadd { neg := false, guard := 7, d := 3, a := 1, b := 2 }) := by rfl

/-- `iaddc v6, v0, v3, p0` (chapter 5). -/
theorem test_decode_iaddc : decode 0x00670905#32 0x00001800#32 0x00000680#32 0 0 = .ok (.iaddc { zeroForm with d := 6, b := 3, c := 1664 }) := by rfl

/-- Major 0x02: `bfn3 v4, v1, v2, v3, 0x96` (chapter 5). -/
theorem test_decode_bfn3 : decode 0x00470409#32 0x25801001#32 0x00000003#32 0 0 = .ok (.bfn3 { zeroForm with d := 4, a := 1, b := 2, c := 3, mods := 150 }) := by rfl

/-- Major 0x03, index 0, by the layout of R84: `shl v3, v1, v2`. -/
theorem test_decode_shl : decode 0x0204370C#32 0 0 0 0 = .ok (.shl { neg := false, guard := 7, d := 3, a := 1, b := 2 }) := by rfl

/-- Major 0x04, index 0: `icmp.eq v3, v1, v2`. -/
theorem test_decode_icmp : decode 0x02043710#32 0 0 0 0 = .ok (.icmp { neg := false, guard := 7, d := 3, a := 1, b := 2 }) := by rfl

/-- Major 0x05: `movp.all p0, 0` (chapter 5). -/
theorem test_decode_movp : decode 0x68070415#32 0x20000780#32 0x00000000#32 0 0 = .ok (.movp { zeroForm with d := 1664, a := 1920, mods := 128 }) := by rfl

/-- Major 0x06, a base word with a literal: `fmul v1, v1, 0.1` (chapter 4). -/
theorem test_decode_fmul : decode 0x4004171A#32 0x3DCCCCCD#32 0x00000000#32 0 0 = .ok (.fmulX { zeroForm with short := true, d := 1, a := 1, lit := some 0x3DCCCCCD }) := by rfl

/-- `ffma.rz v10, v1, v2, v3` (chapter 6). -/
theorem test_decode_ffma : decode 0x00A70219#32 0x00401001#32 0x00000003#32 0 0 = .ok (.ffma { zeroForm with d := 10, a := 1, b := 2, c := 3, mods := 1 }) := by rfl

/-- Major 0x07: `fcmp.lt p1, v4, v5` (chapter 6). -/
theorem test_decode_fcmp : decode 0x6817001D#32 0x00802804#32 0x00000000#32 0 0 = .ok (.fcmpX { zeroForm with d := 1665, a := 4, b := 5, mods := 2 }) := by rfl

/-- Major 0x08, index 0: `frcp v1, v1`. -/
theorem test_decode_frcp : decode 0x00041720#32 0 0 0 0 = .ok (.frcp { neg := false, guard := 7, d := 1, a := 1, b := 0 }) := by rfl

/-- Major 0x09, index 0: `hadd2 v3, v1, v2`. -/
theorem test_decode_hadd2 : decode 0x02043724#32 0 0 0 0 = .ok (.hadd2 { neg := false, guard := 7, d := 3, a := 1, b := 2 }) := by rfl

/-- Major 0x0A, index 0: `dadd v4, v2, v4`. -/
theorem test_decode_dadd : decode 0x04084728#32 0 0 0 0 = .ok (.dadd { neg := false, guard := 7, d := 4, a := 2, b := 4 }) := by rfl

/-- Major 0x0B: `cvt.e4m3.f32.sat v4, v5` (chapter 6). -/
theorem test_decode_cvt : decode 0x0047A02D#32 0x19000005#32 0x00000000#32 0 0 = .ok (.cvtX { zeroForm with ty := 10, d := 4, a := 5, mods := 100 }) := by rfl

/-- `cpack.e2m1.sl0.scl.sat v7, v1, v2, v5` (chapter 6). -/
theorem test_decode_cpack : decode 0x0077E12D#32 0x03001001#32 0x00000005#32 0 0 = .ok (.cpackX { zeroForm with ty := 14, d := 7, a := 1, b := 2, c := 5, mods := 12 }) := by rfl

/-- Major 0x0C: `lea.s64 v10, v2, v6, 3` (chapter 5). -/
theorem test_decode_lea : decode 0x00A73131#32 0x00C03002#32 0x00000000#32 0 0 = .ok (.leaX { zeroForm with ty := 3, d := 10, a := 2, b := 6, mods := 3 }) := by rfl

/-- Major 0x0D: `shf.w8 v10, v9, 3` (chapter 8). -/
theorem test_decode_shf : decode 0x00A70035#32 0x00BC1809#32 0x00000000#32 0 0 = .ok (.shfX { zeroForm with d := 10, a := 9, b := 1923, mods := 2 }) := by rfl

/-- Major 0x0E: `vbal v6, v5` (chapter 8). -/
theorem test_decode_vbal : decode 0x80146738#32 0 0 0 0 = .ok (.vbal { neg := false, guard := 7, d := 6, a := 5, b := 0 }) := by rfl

/-- Major 0x0F: `gred.amax.f32 v9, v8` (chapter 8). -/
theorem test_decode_gred : decode 0x0097603D#32 0x06000008#32 0x00000000#32 0 0 = .ok (.gredX { zeroForm with ty := 6, d := 9, a := 8, mods := 24 }) := by rfl

/-- Major 0x10, index 0, base word with a literal: `bra +256`. -/
theorem test_decode_bra : decode 0x00000742#32 0x00000100#32 0x00000000#32 0 0 = .ok (.braX { zeroForm with short := true, lit := some 0x100 }) := by rfl

/-- Major 0x11, index 0: `join m1`. -/
theorem test_decode_join : decode 0x68970045#32 0x00000000#32 0x00000000#32 0 0 = .ok (.join { zeroForm with d := 1673 }) := by rfl

/-- Major 0x12, index 0: `exit`. -/
theorem test_decode_exit : decode 0x00000748#32 0 0 0 0 = .ok (.exit { neg := false, guard := 7, d := 0, a := 0, b := 0 }) := by rfl

/-- Major 0x13: `lds v3, [v1+0x200]` (chapter 10). -/
theorem test_decode_lds : decode 0x0004374E#32 0x00000200#32 0x00000000#32 0 0 = .ok (.ldsX { zeroForm with short := true, d := 3, a := 1, lit := some 0x200 }) := by rfl

/-- Major 0x14, index 0: `ldl v3, [v1+v2]`. -/
theorem test_decode_ldl : decode 0x02043750#32 0 0 0 0 = .ok (.ldl { neg := false, guard := 7, d := 3, a := 1, b := 2 }) := by rfl

/-- Major 0x15: `cput [v1+0x200], v2, 3` (chapter 10). -/
theorem test_decode_cput : decode 0x00270257#32 0x00000001#32 0x00000783#32 0x00000200#32 0x00000000#32 = .ok (.cput { zeroForm with d := 2, a := 1, c := 1923, lit := some 0x200 }) := by rfl

/-- Major 0x16, index 0: `ldd v3, [v1] -> t0`. -/
theorem test_decode_ldd : decode 0x00370059#32 0x003C0001#32 0x00008000#32 0 0 = .ok (.ldd { zeroForm with d := 3, a := 1, b := 1920, out := 0, outv := true }) := by rfl

/-- Major 0x17: `(!p2) stg.ga [s4+0x40], v8 after t1 -> t3` (chapter 4). -/
theorem test_decode_stg : decode 0x008A015F#32 0x10000604#32 0x00029800#32 0x00000040#32 0x00000000#32 = .ok (.stg { zeroForm with neg := true, guard := 2, d := 8, a := 1540, mods := 64, mask := 2, out := 3, outv := true, lit := some 0x40 }) := by rfl

/-- `redg.add.f32.pkg [s6], v5 after t1 -> t2` (chapter 11). -/
theorem test_decode_redg : decode 0x0057635D#32 0x083C0606#32 0x00029000#32 0 0 = .ok (.redg { zeroForm with ty := 6, d := 5, a := 1542, b := 1920, mods := 32, mask := 2, out := 2, outv := true }) := by rfl

/-- Major 0x18: `cinval.sys [v10] -> t4` (chapter 11). -/
theorem test_decode_cinval : decode 0x00070261#32 0x0A3C000A#32 0x0000A000#32 0 0 = .ok (.cinval { zeroForm with a := 10, b := 1920, mods := 40, out := 4, outv := true }) := by rfl

/-- Major 0x19: `twait.tol p1, t3, 0` (chapter 9). -/
theorem test_decode_twait : decode 0x68170065#32 0x203C0003#32 0x00000000#32 0 0 = .ok (.twait { zeroForm with d := 1665, a := 3, b := 1920, mods := 128 }) := by rfl

/-- Major 0x1A: `chini.core [s2], s3, 2` (chapter 9). -/
theorem test_decode_chini : decode 0x60370069#32 0x023C0602#32 0x00000782#32 0 0 = .ok (.chini { zeroForm with d := 1539, a := 1538, b := 1920, c := 1922, mods := 8 }) := by rfl

/-- Major 0x1B: `nbarr 3, 4` (chapter 10). -/
theorem test_decode_nbarr : decode 0x0007006D#32 0x003C2003#32 0x00000000#32 0 0 = .ok (.nbarr { zeroForm with a := 3, b := 1924 }) := by rfl

/-- Major 0x1C: `swait 3, 1` (chapter 10). -/
theorem test_decode_swait : decode 0x00070171#32 0x003C0F83#32 0x00000000#32 0 0 = .ok (.swaitX { zeroForm with a := 1923, b := 1921 }) := by rfl

/-- Major 0x1D: `acqr.pkg.n64 v2, [s4] -> t1` (chapter 12). -/
theorem test_decode_acqr : decode 0x00274275#32 0x083C0604#32 0x00008800#32 0 0 = .ok (.acqr { zeroForm with ty := 4, d := 2, a := 1540, b := 1920, mods := 32, out := 1, outv := true }) := by rfl

/-- Major 0x1E: `rrel` (chapter 5). -/
theorem test_decode_rrel : decode 0x40000778#32 0 0 0 0 = .ok (.rrel { neg := false, guard := 7, d := 0, a := 0, b := 0 }) := by rfl

/-- Major 0x1F: `swr tok.3, s14` (chapter 17). -/
theorem test_decode_swr : decode 0x60E7017D#32 0x00000063#32 0x00000000#32 0 0 = .ok (.swrTok { zeroForm with d := 1550, a := 99 }) := by rfl

/-- Major 0x20: `bgo.seg2 0, [s20], s8 after t0 -> t1` (chapter 14). -/
theorem test_decode_bgo : decode 0x00070081#32 0x00BC0614#32 0x00018E08#32 0 0 = .ok (.bgo { zeroForm with a := 1556, b := 1920, c := 1544, mods := 2, mask := 1, out := 1, outv := true }) := by rfl

/-- Major 0x21: `mxsign m1` (chapter 15). -/
theorem test_decode_mxsign : decode 0x68970285#32 0x00000000#32 0x00000000#32 0 0 = .ok (.mxsign { zeroForm with d := 1673 }) := by rfl

/-- Major 0x22: `mma.s8.n8 m1, s10, s11, s12 -> t1` (chapter 15). -/
theorem test_decode_mma : decode 0x68971089#32 0x10305E0A#32 0x00008E0C#32 0 0 = .ok (.mma { zeroForm with ty := 1, d := 1673, a := 1546, b := 1547, c := 1548, mods := 64, out := 1, outv := true }) := by rfl

/-- Major 0x23: `mxscl s20, s21, s12 -> t1` (chapter 15). -/
theorem test_decode_mxscl : decode 0x6877038D#32 0x0030AE14#32 0x00008E0C#32 0 0 = .ok (.mxscl { zeroForm with d := 1671, a := 1556, b := 1557, c := 1548, out := 1, outv := true }) := by rfl

/-- A near-memory push (R343): `mov.n64 q0, v12` (chapter 18). -/
theorem test_decode_nmpush : decode 0x64074015#32 0x0000000C#32 0x00000000#32 0 0 = .ok (.nmPush { zeroForm with ty := 4, d := 1600, a := 12 }) := by rfl

/-- Major 0x24: `nmcfg p1, 0, [s8+0x1000]` (chapter 18). -/
theorem test_decode_nmcfg : decode 0x68170093#32 0x00000608#32 0x00000000#32 0x00001000#32 0x00000000#32 = .ok (.nmcfg { zeroForm with d := 1665, a := 1544, lit := some 0x1000 }) := by rfl

/-- Major 0x25: `ratom.add.ga v2, [s4], 1 -> t1` (chapter 19). -/
theorem test_decode_ratom : decode 0x00270295#32 0x103C0604#32 0x00008F81#32 0 0 = .ok (.ratom { zeroForm with d := 2, a := 1540, b := 1920, c := 1921, mods := 64, out := 1, outv := true }) := by rfl

/-- Major 0x26: `clgo [s8] after t2 -> t3` (chapter 19). -/
theorem test_decode_clgo : decode 0x00070199#32 0x003C0608#32 0x00049800#32 0 0 = .ok (.clgo { zeroForm with a := 1544, b := 1920, mask := 4, out := 3, outv := true }) := by rfl

/-- Major 0x27: `rtt.save` (chapter 16). -/
theorem test_decode_rtt : decode 0x0007019D#32 0x00800000#32 0x00000000#32 0 0 = .ok (.rttSave { zeroForm with mods := 2 }) := by rfl

/-- Major 0x28: `pmrd s4, 3` (chapter 16). -/
theorem test_decode_pmrd : decode 0x604700A1#32 0x00000003#32 0x00000000#32 0 0 = .ok (.pmrd { zeroForm with d := 1540, a := 3 }) := by rfl

/-- `bmovi a1, 5` by the layout of R268: opcode 3, D 1, immediate 5. -/
theorem test_decode_bmovi : decodeBargeWord 0x0C40000000000005#64 = .ok (.bmovi { d := 1, a := 0, b := 0, i := false, x := 0, imm := 5 }) := by rfl

/-- `bwait.sc` of the worked program of R333, chamber at `a2` of the core's scratchpad: opcode 0x19, A 2, X[44:43] 1, X[42:40] 1. -/
theorem test_decode_bwaitSc : decodeBargeWord 0x6408090000000000#64 = .ok (.bwaitSc { d := 0, a := 2, b := 0, i := false, x := 0x900, imm := 0 }) := by rfl

/-- `badd a1, a2, a3`: opcode 4, D 1, A 2, B 3. -/
theorem test_decode_badd : decodeBargeWord 0x1048C00000000000#64 = .ok (.badd { d := 1, a := 2, b := 3, i := false, x := 0, imm := 0 }) := by rfl

/-- `bbr.z a2, +16`: opcode 0x0C, A 2, X[44], displacement 16. -/
theorem test_decode_bbr : decodeBargeWord 0x3008100000000010#64 = .ok (.bbr { d := 0, a := 2, b := 0, i := false, x := 0x1000, imm := 16 }) := by rfl

/-! ### Worked examples, one step each -/

/-- R116: 0xFFFFFFFF + 2 wraps to 1. -/
theorem test_iadd_wraps : (stepped [0x02043704] (fun g => (g.putV 1 0 0xFFFFFFFF).putV 2 0 2)).readV 3 0 = 1 := by decide

/-- R142: the lanes pass on to the next word. -/
theorem test_iadd_passes_on : (stepped [0x02043704] id).pc 31 = 4 := by decide

/-- The worked example of R123: selector 0xF640 gives 0xFF775511. -/
theorem test_perm : (stepped [0x00470031, 0x00001001, 0x00000003] (fun g => ((g.putV 1 0 0x44332211).putV 2 0 0x88776655).putV 3 0 0xF640)).readV 4 0 =
    0xFF775511 := by decide

/-- R132: FP32 2.5 to `.s32` under rn is 2. -/
theorem test_cvt : (stepped [0x0047102D, 0x18000005, 0] (fun g => g.putV 5 0 0x40200000)).readV 4 0 = 2 := by decide

/-- R97: major 0x29 is an illegal instruction, cause 1, and the group halts where it stands. -/
theorem test_reserved_major : (stepped [0x000007A4] id).mode = .halted ∧ (stepped [0x000007A4] id).pc 0 = 0 ∧
    (stepped [0x000007A4] id).cause.cause = Cause.illegalInstruction := by decide

/-- R326: `trap 5` completes: the counter stands at the next instruction, and the code is 5. -/
theorem test_trap : (stepped [0x0007009D, 0x003C2800, 0] id).pc 0 = 12 ∧ (stepped [0x0007009D, 0x003C2800, 0] id).cause.code = 5 := by decide

/-- R152: `exit` ends the lanes. -/
theorem test_exit : (stepped [0x00000748] id).live = 0#32 := by decide

/-- R110: `rrel` gives the full allotment back. -/
theorem test_rrel : (stepped [0x40000778] id).held = false := by decide

/-! ### States that meet the hypotheses of the statements -/

/-- Nothing stops an instruction whose operands are legal in `tiny`. -/
theorem tiny_clear {f : ExtForm} {u : Use} (h1 : u.bad = false) (h2 : operandsOk tiny f u = true) : Clear tiny f u :=
  ⟨h1, h2, fun _ _ => List.not_mem_nil, .inr fun _ _ => rfl⟩

/-- An instruction of a family acts in a state: its hypotheses hold together. -/
def Meets (P : Instr → Act → Prop) (i : Instr) (s : State) : Prop :=
  ∃ r, P i r ∧ Clear s r.f r.u ∧ SomeActive s r.f ∧ r.when s (s.active r.f)

/-- `DecodeEncode`: a well-formed base form, a literal form, an extended form with every field, a barge word. -/
theorem test_meets_decodeEncode : (Instr.iadd base3).wf = true ∧ (Instr.fmulX { zeroForm with short := true, d := 1, a := 1, lit := some 5 }).wf = true ∧
    (Instr.stg { zeroForm with guard := 2, neg := true, d := 8, a := 1540, mods := 0x40, mask := 2, outv := true, out := 3, lit := some 64 }).wf = true ∧
    (Instr.bnop { d := 0, a := 0, b := 0, i := false, x := 0, imm := 0 }).wf = true ∧ (Instr.iadd base3).enc ≠ .step := by
  decide

/-- `EncodeDecode`: a word that decodes, with the others of any value. -/
theorem test_meets_encodeDecode : decode 0x02043704#32 1 2 3 4 = .ok (.iadd base3) := by rfl

/-- What the headers before an instruction lead to. -/
def headersOf (s : State) : State :=
  match runHeaders 0 headerFuel (taken s 0 [] []) 0 ((s.group 0).hdr 0) 0 with
  | .ready _ _ _ t => t
  | _ => s

/-- `StepRunsDecoded`: `iadd` stands at address 0, and group 0 has its turn with all lanes. -/
theorem test_meets_step : Ready (small [0x02043704] id) (headersOf (small [0x02043704] id)) (headersOf (small [0x02043704] id)) 0 0 0 0x0FF00000 0x02043704
    Lanes.all [] [] [] ∧ decode 0x02043704#32 0 0 0 0 = .ok (.iadd base3) ∧
    breakAt (headersOf (small [0x02043704] id)) 0 0 = false ∧
    Enc.barred (Instr.iadd base3).enc ((headersOf (small [0x02043704] id)).group 0) 0 Lanes.all = false :=
  ⟨⟨rfl, rfl, by decide, by decide, by decide, by decide, by rfl, by decide, by rfl⟩, by rfl, by decide, by decide⟩

/-- `UndecodedTraps`: a word of major 0x29. -/
theorem test_meets_undecoded : Ready (small [0x000007A4] id) (headersOf (small [0x000007A4] id)) (headersOf (small [0x000007A4] id)) 0 0 0 0x0FF00000 0x000007A4
    Lanes.all [] [] [] ∧ decode 0x000007A4#32 0 0 0 0 = .error .reservedOpcode :=
  ⟨⟨rfl, rfl, by decide, by decide, by decide, by decide, by rfl, by decide, by rfl⟩, by rfl⟩

/-- A barge of group 0's team stands at `bnop`, at address 0, and has its turn. -/
def bargeState : State := placeWords State.reset true [0, 0]

/-- A reduce team waits for a core. -/
def teamWaits : State := State.reset.modFabric (fun f => { f with reduces := [{ plan := 0, unit := 0 }] })

/-- `StepTakesTurn`: a barge has its turn, a copy, an event, and a reduce team that core 1 may take. -/
theorem test_meets_turn : (∃ f t, bargeLook (bargeState.modSched (fun c => { c with agenda := [] })) 0 = .run 0 f t ∧
      (Enc.barge 0 f).instr = some (.bnop f)) ∧ bargeState.mgmt.powered = true ∧ bargeState.sched.agenda = [.barge 0] ∧
    (tiny.modSched (fun c => { c with agenda := [.event .reset] })).sched.agenda = .event .reset :: [] ∧
    (tiny.modSched (fun c => { c with agenda := [.copy 0 0 1] })).sched.agenda = .copy 0 0 1 :: [] ∧
    (teamWaits.modSched (fun c => { c with agenda := [.reduce 0 1] })).fabric.reduces[0]? = some { plan := 0, unit := 0 } ∧
    reduceFits teamWaits 1 = true :=
  ⟨⟨_, _, by rfl, by rfl⟩, by rfl, by rfl, by rfl, by rfl, by rfl, by decide +kernel⟩

/-- The package without power, with a turn. -/
def dark (t : Turn) : State := (tiny.modMgmt (fun m => { m with powered := false })).modSched (fun c => { c with agenda := [t] })

/-- `UnpoweredStops`: a cycle that would end, and a reset. -/
theorem test_meets_unpowered : (dark (.tick 0)).mgmt.powered = false ∧ (dark (.tick 0)).sched.agenda = [.tick 0] ∧ Turn.tick 0 ≠ .event .reset ∧
    (dark (.event .reset)).sched.agenda = [.event .reset] := by
  refine ⟨rfl, rfl, ?_, rfl⟩
  intro h
  cases h

/-- `PoweredGoesOn`: the state after reset has power. -/
theorem test_meets_powered : State.reset.mgmt.powered = true := by decide

/-- `MemoryCanonicalKept`: a step that answers a next state. -/
theorem test_meets_canonical : (small [0x02043704] id).memOk = true ∧ ∃ t, step (small [0x02043704] id) = .next t := by
  refine ⟨by decide, ?_⟩
  exact ⟨_, rfl⟩

/-- `IllegalOperandTraps`: a base name above the prologue of a group that has not its full allotment, outside and inside a handler. -/
theorem test_meets_illegal : Plain (.imad { ext3 with c := 64 }) { ext3 with c := 64 } (uses3 1 1 1 1) 1 ∧
    operandsOk (tinyWith (fun g => { g with held := false })) { ext3 with c := 64 } (uses3 1 1 1 1) = false ∧
    (tinyWith (fun g => { g with held := false })).sched.cur.lanes ≠ 0#32 ∧ Ordinary (tinyWith (fun g => { g with held := false })) ∧
    (tinyWith (fun g => { g with held := false, mode := .handler })).me.mode = .handler ∧
    (tinyWith (fun g => { g with held := false, mode := .handler })).myLaunch.outcome = none ∧
    operandsOk (tinyWith (fun g => { g with held := false, mode := .handler })) { ext3 with c := 64 } (uses3 1 1 1 1) = false :=
  ⟨.int _ _ (.imad _), by decide, by decide, ⟨by decide, by decide, by decide⟩, by decide, by decide, by decide⟩

/-- `IllegalOperandTraps`: in a handler, with a further path selected in the cycle. -/
theorem test_meets_illegal_paths :
    operandsOk (tinyWith (fun g => { g with held := false, mode := .handler, picks := [(0, 1#32)] })) { ext3 with c := 64 } (uses3 1 1 1 1) = false ∧
    (tinyWith (fun g => { g with held := false, mode := .handler, picks := [(0, 1#32)] })).me.mode = .handler ∧
    (tinyWith (fun g => { g with held := false, mode := .handler, picks := [(0, 1#32)] })).me.picks ≠ [] ∧
    (tinyWith (fun g => { g with held := false, mode := .handler, picks := [] })).me.picks = [] ∧
    (tinyWith (fun g => { g with held := false, mode := .handler, picks := [] })).myLaunch.outcome = none ∧
    operandsOk (tinyWith (fun g => { g with held := false, mode := .handler, picks := [] })) { ext3 with c := 64 } (uses3 1 1 1 1) = false := by
  decide

/-- `PoisonTraps`: `v1` carries a mark. -/
theorem test_meets_poison : Plain (.iaddX ext3) ext3 (uses2 1 1 1) 1 ∧
    operandsOk (tinyWith (fun g => { g with marks := [(1, 4)] })) ext3 (uses2 1 1 1) = true ∧
    (∀ m ∈ allNames ext3 (uses2 1 1 1), m ∉ awaited (tinyWith (fun g => { g with marks := [(1, 4)] })) 0) ∧
    (∃ m ∈ readNames ext3 (uses2 1 1 1), Sparse.get 0 (tinyWith (fun g => { g with marks := [(1, 4)] })).me.marks m ≠ 0) ∧
    SomeActive (tinyWith (fun g => { g with marks := [(1, 4)] })) ext3 ∧ Ordinary (tinyWith (fun g => { g with marks := [(1, 4)] })) :=
  ⟨.int _ _ (.iaddX _), by decide, fun _ _ => List.not_mem_nil, ⟨1, by decide, by decide⟩, by unfold SomeActive; decide,
    ⟨by decide, by decide, by decide⟩⟩

/-- An operation of group 0 that writes `v1`. -/
def waiting : State := { tiny with ops := [(0, { kind := .load, grp := 0, core := 0, dests := [1] })] }

/-- `WaitsAndIdles`: `v1` waits; and a guard that holds in no lane. -/
theorem test_meets_waits : Plain (.iaddX ext3) ext3 (uses2 1 1 1) 1 ∧ operandsOk waiting ext3 (uses2 1 1 1) = true ∧
    (∃ m ∈ allNames ext3 (uses2 1 1 1), m ∈ awaited waiting 0) ∧
    Clear tiny { ext3 with guard := 0 } (uses2 1 1 1) ∧ tiny.active { ext3 with guard := 0 } = 0#32 :=
  ⟨.int _ _ (.iaddX _), by decide, ⟨1, by decide, by decide⟩, tiny_clear rfl (by decide), by decide⟩

/-- `ResultWritten`: the last vector pair, the first and the last scalars, the first and the last predicate, `pt`. -/
theorem test_meets_result : Lanes.all ≠ 0#32 ∧ (∀ d n, unwritten tiny (rangeFrom d n)) ∧ 1534 + 2 ≤ 1536 ∧ 1536 ≤ 1536 ∧ 1598 + 2 ≤ 1600 ∧
    1664 ≤ 1664 ∧ 1670 < 1671 ∧ (31 < 32 ∧ Lanes.all.getLsbD 31 = true) :=
  ⟨by decide, fun _ _ _ h => absurd h List.not_mem_nil, by decide, by decide, by decide, by decide, by decide, by decide⟩

/-- `TwoPathsWrite`: lanes 0 and 31 on two paths; a scalar and a predicate, first and last. -/
theorem test_meets_twoPaths : (1#32 &&& 0x80000000#32) = 0#32 ∧ Lanes.sub 1#32 1#32 = true ∧ (1#32 : Lanes) ≠ 0#32 ∧
    (∀ n, ∀ e ∈ placedGroup.prot, e.2.1 ≠ n) ∧ 1536 ≤ 1599 ∧ 1599 < 1600 ∧ 1664 ≤ 1670 ∧ 1670 < 1671 :=
  ⟨by decide, by decide, by decide, fun _ _ h => absurd h List.not_mem_nil, by decide, by decide, by decide, by decide⟩

/-- `ComputingFrame`: `iadd` acts, and its destination has not been written in this cycle. -/
theorem test_meets_computing : Plain (.iaddX ext3) ext3 (uses2 1 1 1) 1 ∧ Clear tiny ext3 (uses2 1 1 1) ∧ SomeActive tiny ext3 ∧
    unwritten tiny (rangeFrom ext3.d.toNat 1) ∧ ∃ t, exec (.iaddX ext3) tiny = .next t :=
  ⟨.int _ _ (.iaddX _), tiny_clear rfl (by decide), by unfold SomeActive; decide, fun _ h => absurd h List.not_mem_nil, ⟨_, rfl⟩⟩

/-- `IssuingFrame`: a special function, a load of the scratchpad, a global load. -/
theorem test_meets_issuing : Meets Issues (.frcpX { zeroForm with d := 4, a := 1 }) tiny ∧ Meets Issues (.ldsX { ext3 with a := 1, b := 2 }) tiny ∧
    Meets Issues (.ldg { ext3 with a := 2, b := 1920, outv := true }) tiny := by
  refine ⟨⟨_, .flagged _ _ (.frcpX _), tiny_clear rfl (by decide), by unfold SomeActive; decide, by rfl⟩,
    ⟨_, .scratch _ _ (.ldsX _) (fun h => by cases h), tiny_clear rfl (by decide), by unfold SomeActive; decide, by rfl, ?_, by rfl⟩,
    ⟨_, .global _ _ (.ldg _), tiny_clear rfl (by decide), by unfold SomeActive; decide, by rfl, ?_, by rfl, .inl rfl⟩⟩
  · unfold inLevel fits; decide
  · unfold aligned; decide

/-- `ScratchpadStores`: `sts` and `stl` of a word at address 0. -/
theorem test_meets_stores : Clear tiny ext3 (storeUse ext3) ∧ SomeActive tiny ext3 ∧ unfenced tiny ∧
    inLevel 0x13 (dataBytes ext3) ext3 tiny (tiny.active ext3) ∧ inLevel 0x14 (dataBytes ext3) ext3 tiny (tiny.active ext3) ∧
    scratchQuiet tiny ∧ (tiny.team (team tiny)).exited = false := by
  refine ⟨tiny_clear rfl (by decide), by unfold SomeActive; decide, rfl, ?_, ?_, fun _ h => absurd h List.not_mem_nil, rfl⟩
  · unfold inLevel fits; decide
  · unfold inLevel fits; decide

/-- A base form of `v2` and `v6` into `v4`, and an extended form with `v8` as C: the registers serve as pairs too. -/
def pair3 : BaseForm := { neg := false, guard := 7, d := 4, a := 2, b := 6 }
def pairX : ExtForm := { zeroForm with d := 4, a := 2, b := 6, c := 8 }

/-- The same with `p0` as C. -/
def predX : ExtForm := { pairX with c := 1664 }

/-- `IntegerResults`: each integer instruction. -/
theorem test_meets_integerResults : (∃ r, IsInt (.iadd pair3) r ∧ Clear tiny r.f r.use ∧ SomeActive tiny r.f) ∧
    (∃ r, IsInt (.isub pair3) r ∧ Clear tiny r.f r.use ∧ SomeActive tiny r.f) ∧
    (∃ r, IsInt (.imul pair3) r ∧ Clear tiny r.f r.use ∧ SomeActive tiny r.f) ∧
    (∃ r, IsInt (.iaddX pairX) r ∧ Clear tiny r.f r.use ∧ SomeActive tiny r.f) ∧
    (∃ r, IsInt (.isubX pairX) r ∧ Clear tiny r.f r.use ∧ SomeActive tiny r.f) ∧
    (∃ r, IsInt (.imulX pairX) r ∧ Clear tiny r.f r.use ∧ SomeActive tiny r.f) ∧
    (∃ r, IsInt (.imad pairX) r ∧ Clear tiny r.f r.use ∧ SomeActive tiny r.f) ∧
    (∃ r, IsInt (.imulh pairX) r ∧ Clear tiny r.f r.use ∧ SomeActive tiny r.f) ∧
    (∃ r, IsInt (.imin pairX) r ∧ Clear tiny r.f r.use ∧ SomeActive tiny r.f) ∧
    (∃ r, IsInt (.imax pairX) r ∧ Clear tiny r.f r.use ∧ SomeActive tiny r.f) ∧
    (∃ r, IsInt (.iabs pairX) r ∧ Clear tiny r.f r.use ∧ SomeActive tiny r.f) ∧
    (∃ r, IsInt (.ineg pairX) r ∧ Clear tiny r.f r.use ∧ SomeActive tiny r.f) := by
  refine ⟨?_, ?_, ?_, ?_, ?_, ?_, ?_, ?_, ?_, ?_, ?_, ?_⟩ <;>
    exact ⟨_, by constructor, tiny_clear rfl (by decide), by unfold SomeActive; decide⟩

/-- `BitResults`. -/
theorem test_meets_bitResults : (∃ r, IsBit (.and pair3) r ∧ Clear tiny r.f r.u ∧ SomeActive tiny r.f) ∧
    (∃ r, IsBit (.or pair3) r ∧ Clear tiny r.f r.u ∧ SomeActive tiny r.f) ∧
    (∃ r, IsBit (.xor pair3) r ∧ Clear tiny r.f r.u ∧ SomeActive tiny r.f) ∧
    (∃ r, IsBit (.not pair3) r ∧ Clear tiny r.f r.u ∧ SomeActive tiny r.f) ∧
    (∃ r, IsBit (.shl pair3) r ∧ Clear tiny r.f r.u ∧ SomeActive tiny r.f) ∧
    (∃ r, IsBit (.shr pair3) r ∧ Clear tiny r.f r.u ∧ SomeActive tiny r.f) ∧
    (∃ r, IsBit (.sar pair3) r ∧ Clear tiny r.f r.u ∧ SomeActive tiny r.f) ∧
    (∃ r, IsBit (.rot pair3) r ∧ Clear tiny r.f r.u ∧ SomeActive tiny r.f) ∧
    (∃ r, IsBit (.andX pairX) r ∧ Clear tiny r.f r.u ∧ SomeActive tiny r.f) ∧
    (∃ r, IsBit (.orX pairX) r ∧ Clear tiny r.f r.u ∧ SomeActive tiny r.f) ∧
    (∃ r, IsBit (.xorX pairX) r ∧ Clear tiny r.f r.u ∧ SomeActive tiny r.f) ∧
    (∃ r, IsBit (.notX pairX) r ∧ Clear tiny r.f r.u ∧ SomeActive tiny r.f) ∧
    (∃ r, IsBit (.bfn3 pairX) r ∧ Clear tiny r.f r.u ∧ SomeActive tiny r.f) ∧
    (∃ r, IsBit (.shlX pairX) r ∧ Clear tiny r.f r.u ∧ SomeActive tiny r.f) ∧
    (∃ r, IsBit (.shrX pairX) r ∧ Clear tiny r.f r.u ∧ SomeActive tiny r.f) ∧
    (∃ r, IsBit (.sarX pairX) r ∧ Clear tiny r.f r.u ∧ SomeActive tiny r.f) ∧
    (∃ r, IsBit (.rotX pairX) r ∧ Clear tiny r.f r.u ∧ SomeActive tiny r.f) ∧
    (∃ r, IsBit (.popc pairX) r ∧ Clear tiny r.f r.u ∧ SomeActive tiny r.f) ∧
    (∃ r, IsBit (.clz pairX) r ∧ Clear tiny r.f r.u ∧ SomeActive tiny r.f) ∧
    (∃ r, IsBit (.brev pairX) r ∧ Clear tiny r.f r.u ∧ SomeActive tiny r.f) ∧
    (∃ r, IsBit (.bfe pairX) r ∧ Clear tiny r.f r.u ∧ SomeActive tiny r.f) ∧
    (∃ r, IsBit (.bfi pairX) r ∧ Clear tiny r.f r.u ∧ SomeActive tiny r.f) := by
  refine ⟨?_, ?_, ?_, ?_, ?_, ?_, ?_, ?_, ?_, ?_, ?_, ?_, ?_, ?_, ?_, ?_, ?_, ?_, ?_, ?_, ?_, ?_⟩ <;>
    exact ⟨_, by constructor, tiny_clear rfl (by decide), by unfold SomeActive; decide⟩

/-- `MoveResults`: `sel` with a predicate. -/
theorem test_meets_moveResults : (∃ r, IsMove (.mov pair3) r ∧ Clear tiny r.f r.u ∧ SomeActive tiny r.f) ∧
    (∃ r, IsMove (.movX pairX) r ∧ Clear tiny r.f r.u ∧ SomeActive tiny r.f) ∧
    (∃ r, IsMove (.sel predX) r ∧ Clear tiny r.f r.u ∧ SomeActive tiny r.f) ∧
    (∃ r, IsMove (.bcast pair3) r ∧ Clear tiny r.f r.u ∧ SomeActive tiny r.f) ∧
    (∃ r, IsMove (.bcastX pairX) r ∧ Clear tiny r.f r.u ∧ SomeActive tiny r.f) := by
  refine ⟨?_, ?_, ?_, ?_, ?_⟩ <;>
    exact ⟨_, by constructor, tiny_clear rfl (by decide), by unfold SomeActive; decide⟩

/-- `PermuteResults`. -/
theorem test_meets_permuteResults : (∃ r, IsPermute (.perm pairX) r ∧ Clear tiny r.f r.u ∧ SomeActive tiny r.f) ∧
    (∃ r, IsPermute (.lea pair3) r ∧ Clear tiny r.f r.u ∧ SomeActive tiny r.f) ∧
    (∃ r, IsPermute (.leaX pairX) r ∧ Clear tiny r.f r.u ∧ SomeActive tiny r.f) := by
  refine ⟨?_, ?_, ?_⟩ <;>
    exact ⟨_, by constructor, tiny_clear rfl (by decide), by unfold SomeActive; decide⟩

/-- `FloatResults`. -/
theorem test_meets_floatResults : (∃ r, IsFloat (.fadd pair3) r ∧ Clear tiny r.f r.use ∧ SomeActive tiny r.f) ∧
    (∃ r, IsFloat (.fmul pair3) r ∧ Clear tiny r.f r.use ∧ SomeActive tiny r.f) ∧
    (∃ r, IsFloat (.fmin pair3) r ∧ Clear tiny r.f r.use ∧ SomeActive tiny r.f) ∧
    (∃ r, IsFloat (.hadd2 pair3) r ∧ Clear tiny r.f r.use ∧ SomeActive tiny r.f) ∧
    (∃ r, IsFloat (.hmul2 pair3) r ∧ Clear tiny r.f r.use ∧ SomeActive tiny r.f) ∧
    (∃ r, IsFloat (.hmin2 pair3) r ∧ Clear tiny r.f r.use ∧ SomeActive tiny r.f) ∧
    (∃ r, IsFloat (.dadd pair3) r ∧ Clear tiny r.f r.use ∧ SomeActive tiny r.f) ∧
    (∃ r, IsFloat (.dmul pair3) r ∧ Clear tiny r.f r.use ∧ SomeActive tiny r.f) ∧
    (∃ r, IsFloat (.frnd pair3) r ∧ Clear tiny r.f r.use ∧ SomeActive tiny r.f) ∧
    (∃ r, IsFloat (.faddX pairX) r ∧ Clear tiny r.f r.use ∧ SomeActive tiny r.f) ∧
    (∃ r, IsFloat (.fmulX pairX) r ∧ Clear tiny r.f r.use ∧ SomeActive tiny r.f) ∧
    (∃ r, IsFloat (.ffma pairX) r ∧ Clear tiny r.f r.use ∧ SomeActive tiny r.f) ∧
    (∃ r, IsFloat (.fminX pairX) r ∧ Clear tiny r.f r.use ∧ SomeActive tiny r.f) ∧
    (∃ r, IsFloat (.fmax pairX) r ∧ Clear tiny r.f r.use ∧ SomeActive tiny r.f) ∧
    (∃ r, IsFloat (.fsub pairX) r ∧ Clear tiny r.f r.use ∧ SomeActive tiny r.f) ∧
    (∃ r, IsFloat (.hadd2X pairX) r ∧ Clear tiny r.f r.use ∧ SomeActive tiny r.f) ∧
    (∃ r, IsFloat (.hmul2X pairX) r ∧ Clear tiny r.f r.use ∧ SomeActive tiny r.f) ∧
    (∃ r, IsFloat (.hfma2 pairX) r ∧ Clear tiny r.f r.use ∧ SomeActive tiny r.f) ∧
    (∃ r, IsFloat (.hmin2X pairX) r ∧ Clear tiny r.f r.use ∧ SomeActive tiny r.f) ∧
    (∃ r, IsFloat (.hmax2 pairX) r ∧ Clear tiny r.f r.use ∧ SomeActive tiny r.f) ∧
    (∃ r, IsFloat (.daddX pairX) r ∧ Clear tiny r.f r.use ∧ SomeActive tiny r.f) ∧
    (∃ r, IsFloat (.dmulX pairX) r ∧ Clear tiny r.f r.use ∧ SomeActive tiny r.f) ∧
    (∃ r, IsFloat (.dfma pairX) r ∧ Clear tiny r.f r.use ∧ SomeActive tiny r.f) ∧
    (∃ r, IsFloat (.dmin pairX) r ∧ Clear tiny r.f r.use ∧ SomeActive tiny r.f) ∧
    (∃ r, IsFloat (.dmax pairX) r ∧ Clear tiny r.f r.use ∧ SomeActive tiny r.f) ∧
    (∃ r, IsFloat (.frndX pairX) r ∧ Clear tiny r.f r.use ∧ SomeActive tiny r.f) := by
  refine ⟨?_, ?_, ?_, ?_, ?_, ?_, ?_, ?_, ?_, ?_, ?_, ?_, ?_, ?_, ?_, ?_, ?_, ?_, ?_, ?_, ?_, ?_, ?_, ?_, ?_, ?_⟩ <;>
    exact ⟨_, by constructor, tiny_clear rfl (by decide), by unfold SomeActive; decide⟩

/-- `CompareResults`. -/
theorem test_meets_compareResults : (∃ r, IsTest (.icmp pair3) r ∧ Clear tiny r.f r.u ∧ SomeActive tiny r.f) ∧
    (∃ r, IsTest (.icmpX pairX) r ∧ Clear tiny r.f r.u ∧ SomeActive tiny r.f) ∧
    (∃ r, IsTest (.icmpc predX) r ∧ Clear tiny r.f r.u ∧ SomeActive tiny r.f) ∧
    (∃ r, IsTest (.fcmp pair3) r ∧ Clear tiny r.f r.u ∧ SomeActive tiny r.f) ∧
    (∃ r, IsTest (.fcmpX pairX) r ∧ Clear tiny r.f r.u ∧ SomeActive tiny r.f) ∧
    (∃ r, IsTest (.dcmp pair3) r ∧ Clear tiny r.f r.u ∧ SomeActive tiny r.f) ∧
    (∃ r, IsTest (.dcmpX pairX) r ∧ Clear tiny r.f r.u ∧ SomeActive tiny r.f) ∧
    (∃ r, IsTest (.fclass pairX) r ∧ Clear tiny r.f r.u ∧ SomeActive tiny r.f) := by
  refine ⟨?_, ?_, ?_, ?_, ?_, ?_, ?_, ?_⟩ <;>
    exact ⟨_, by constructor, tiny_clear rfl (by decide), by unfold SomeActive; decide⟩

/-- `VoteResults`: a vote over a register and over a predicate. -/
theorem test_meets_voteResults : (∃ r, IsVote (.vall pair3) r ∧ Clear tiny r.f r.u ∧ SomeActive tiny r.f) ∧
    (∃ r, IsVote (.vallX { pairX with a := 1664 }) r ∧ Clear tiny r.f r.u ∧ SomeActive tiny r.f) ∧
    (∃ r, IsVote (.vany pair3) r ∧ Clear tiny r.f r.u ∧ SomeActive tiny r.f) ∧
    (∃ r, IsVote (.vanyX pairX) r ∧ Clear tiny r.f r.u ∧ SomeActive tiny r.f) ∧
    (∃ r, IsVote (.vuni pairX) r ∧ Clear tiny r.f r.u ∧ SomeActive tiny r.f) ∧
    (∃ r, IsBallot (.vbal pair3) r ∧ Clear tiny r.f r.u ∧ SomeActive tiny r.f) ∧
    (∃ r, IsBallot (.vbalX { pairX with a := 1664 }) r ∧ Clear tiny r.f r.u ∧ SomeActive tiny r.f) ∧
    (∃ r, IsBallot (.vmatch pair3) r ∧ Clear tiny r.f r.u ∧ SomeActive tiny r.f) ∧
    (∃ r, IsBallot (.vmatchX pairX) r ∧ Clear tiny r.f r.u ∧ SomeActive tiny r.f) := by
  refine ⟨?_, ?_, ?_, ?_, ?_, ?_, ?_, ?_, ?_⟩ <;>
    exact ⟨_, by constructor, tiny_clear rfl (by decide), by unfold SomeActive; decide⟩

/-- `ValueResults`: `srd` of the team index and of a register of 64 bits. -/
theorem test_meets_valueResults : (∃ r, IsValue (.cvt pair3) r ∧ Clear tiny r.f r.u ∧ SomeActive tiny r.f) ∧
    (∃ r, IsValue (.cpack pair3) r ∧ Clear tiny r.f r.u ∧ SomeActive tiny r.f) ∧
    (∃ r, IsValue (.cunpk pair3) r ∧ Clear tiny r.f r.u ∧ SomeActive tiny r.f) ∧
    (∃ r, IsValue (.gred pair3) r ∧ Clear tiny r.f r.u ∧ SomeActive tiny r.f) ∧
    (∃ r, IsValue (.gscan pair3) r ∧ Clear tiny r.f r.u ∧ SomeActive tiny r.f) ∧
    (∃ r, IsValue (.cvtX pairX) r ∧ Clear tiny r.f r.u ∧ SomeActive tiny r.f) ∧
    (∃ r, IsValue (.cpackX pairX) r ∧ Clear tiny r.f r.u ∧ SomeActive tiny r.f) ∧
    (∃ r, IsValue (.cunpkX pairX) r ∧ Clear tiny r.f r.u ∧ SomeActive tiny r.f) ∧
    (∃ r, IsValue (.gredX pairX) r ∧ Clear tiny r.f r.u ∧ SomeActive tiny r.f) ∧
    (∃ r, IsValue (.gscanX pairX) r ∧ Clear tiny r.f r.u ∧ SomeActive tiny r.f) ∧
    (∃ r, IsValue (.pmrd pairX) r ∧ Clear tiny r.f r.u ∧ SomeActive tiny r.f) ∧
    (∃ r, IsValue (.ttest pairX) r ∧ Clear tiny r.f r.u ∧ SomeActive tiny r.f) ∧
    (∃ r, IsValue (.srd { zeroForm with d := 4, a := 2 }) r ∧ Clear tiny r.f r.u ∧ SomeActive tiny r.f) ∧
    (∃ r, IsValue (.srd { zeroForm with d := 4, a := 96 }) r ∧ Clear tiny r.f r.u ∧ SomeActive tiny r.f) := by
  refine ⟨?_, ?_, ?_, ?_, ?_, ?_, ?_, ?_, ?_, ?_, ?_, ?_, ?_, ?_⟩ <;>
    exact ⟨_, by constructor, tiny_clear rfl (by decide), by unfold SomeActive; decide⟩

/-- Nothing stops an instruction whose operands are legal where nothing is outstanding and no register is marked. -/
theorem clear_in {s : State} {f : ExtForm} {u : Use} (h1 : u.bad = false) (h2 : operandsOk s f u = true)
    (h3 : awaited s s.sched.cur.grp = []) (h4 : s.me.marks = []) : Clear s f u :=
  ⟨h1, h2, fun n _ => by rw [show awaited s (grp s) = [] from h3]; exact List.not_mem_nil, .inr fun n _ => by rw [h4]; rfl⟩

/-- `tiny` inside a handler. -/
def handlerState : State := tinyWith (fun g => { g with mode := .handler })

/-- A form with join mask `m1` as D, as A, with a zero literal's place as B. -/
def maskD : ExtForm := { zeroForm with d := 1673, b := 1920 }
def maskA : ExtForm := { zeroForm with d := 1664, a := 1673, b := 1920 }

/-- `ControlActs`: branches by 0 and to address 0, masks, a park at a mask nobody has parked at, and at the site already chosen. -/
theorem test_meets_control :
    Meets IsControl (.bra pair3) tiny ∧ Meets IsControl (.braX { zeroForm with b := 1920 }) tiny ∧ Meets IsControl (.call pair3) tiny ∧
    Meets IsControl (.callX { zeroForm with d := 4, b := 1920 }) tiny ∧
    Meets IsControl (.brx pair3) tiny ∧ Meets IsControl (.brxX { zeroForm with a := 2 }) tiny ∧
    Meets IsControl (.ret pair3) tiny ∧ Meets IsControl (.retX { zeroForm with a := 2 }) tiny ∧
    Meets IsControl (.join maskD) tiny ∧ Meets IsControl (.leave maskD) tiny ∧ Meets IsControl (.mset maskD) tiny ∧
    Meets IsControl (.mget { maskA with d := 4 }) tiny ∧ Meets IsControl (.elect maskA) tiny ∧
    Meets IsControl (.mwait maskA) tiny ∧ Meets IsControl (.mwaitBounded maskA) (tinyWith (fun g => g.putJoin 1 { site := some 0 })) ∧
    Meets IsControl (.exit base3) tiny ∧ Meets IsControl (.exitX zeroForm) tiny ∧ Meets IsControl (.nop base3) tiny ∧
    Meets IsControl (.nopX zeroForm) tiny ∧ Meets IsControl (.yield base3) tiny ∧ Meets IsControl (.yieldX zeroForm) tiny ∧
    Meets IsControl (.movs pair3) tiny ∧ Meets IsControl (.movsX pairX) tiny ∧
    Meets IsControl (.movp { zeroForm with d := 1664, a := 1920 }) tiny ∧ Meets IsControl (.iaddc predX) tiny := by
  refine ⟨⟨_, .bra _, tiny_clear rfl (by decide), by unfold SomeActive; decide, by rfl⟩,
    ⟨_, .braX _, tiny_clear rfl (by decide), by unfold SomeActive; decide, by rfl⟩,
    ⟨_, .call _, tiny_clear rfl (by decide), by unfold SomeActive; decide, by rfl⟩,
    ⟨_, .callX _, tiny_clear rfl (by decide), by unfold SomeActive; decide, by rfl⟩,
    ⟨_, .brx _, tiny_clear rfl (by decide), by unfold SomeActive; decide, by unfold indirectAct; dsimp only; decide⟩,
    ⟨_, .brxX _, tiny_clear rfl (by decide), by unfold SomeActive; decide, by unfold indirectAct; dsimp only; decide⟩,
    ⟨_, .ret _, tiny_clear rfl (by decide), by unfold SomeActive; decide, by unfold indirectAct; dsimp only; decide⟩,
    ⟨_, .retX _, tiny_clear rfl (by decide), by unfold SomeActive; decide, by unfold indirectAct; dsimp only; decide⟩,
    ⟨_, .join _, tiny_clear rfl (by decide), by unfold SomeActive; decide, trivial⟩,
    ⟨_, .leave _, tiny_clear rfl (by decide), by unfold SomeActive; decide, trivial⟩,
    ⟨_, .mset _, tiny_clear rfl (by decide), by unfold SomeActive; decide, trivial⟩,
    ⟨_, .mget _, tiny_clear rfl (by decide), by unfold SomeActive; decide, trivial⟩,
    ⟨_, .elect _, tiny_clear rfl (by decide), by unfold SomeActive; decide, trivial⟩,
    ⟨_, .mwait _, tiny_clear rfl (by decide), by unfold SomeActive; decide, .inl rfl⟩,
    ⟨_, .mwaitBounded _, clear_in rfl (by decide) rfl rfl, by unfold SomeActive; decide, .inr rfl⟩,
    ⟨_, .exit _, tiny_clear rfl (by decide), by unfold SomeActive; decide, trivial⟩,
    ⟨_, .exitX _, tiny_clear rfl (by decide), by unfold SomeActive; decide, trivial⟩,
    ⟨_, .nop _, tiny_clear rfl (by decide), by unfold SomeActive; decide, trivial⟩,
    ⟨_, .nopX _, tiny_clear rfl (by decide), by unfold SomeActive; decide, trivial⟩,
    ⟨_, .yield _, tiny_clear rfl (by decide), by unfold SomeActive; decide, trivial⟩,
    ⟨_, .yieldX _, tiny_clear rfl (by decide), by unfold SomeActive; decide, trivial⟩,
    ⟨_, .movs _, tiny_clear rfl (by decide), by unfold SomeActive; decide, trivial⟩,
    ⟨_, .movsX _, tiny_clear rfl (by decide), by unfold SomeActive; decide, trivial⟩,
    ⟨_, .movp _, tiny_clear rfl (by decide), by unfold SomeActive; decide, trivial⟩,
    ⟨_, .iaddc _, tiny_clear rfl (by decide), by unfold SomeActive; decide, trivial⟩⟩

/-- `FlaggedActs`: the special functions and the shuffles. -/
theorem test_meets_flagged : Meets IsFlagged (.frcp pair3) tiny ∧ Meets IsFlagged (.frcpX ext3) tiny ∧ Meets IsFlagged (.frsq pair3) tiny ∧
    Meets IsFlagged (.frsqX ext3) tiny ∧ Meets IsFlagged (.fsqrt pair3) tiny ∧ Meets IsFlagged (.fsqrtX ext3) tiny ∧
    Meets IsFlagged (.fexp2 pair3) tiny ∧ Meets IsFlagged (.fexp2X ext3) tiny ∧ Meets IsFlagged (.flog2 ext3) tiny ∧
    Meets IsFlagged (.fsin ext3) tiny ∧ Meets IsFlagged (.fcos ext3) tiny ∧ Meets IsFlagged (.ftanh ext3) tiny ∧
    Meets IsFlagged (.shf pair3) tiny ∧ Meets IsFlagged (.shfX pairX) tiny ∧ Meets IsFlagged (.shfup pair3) tiny ∧
    Meets IsFlagged (.shfupX pairX) tiny ∧ Meets IsFlagged (.shfdn pair3) tiny ∧ Meets IsFlagged (.shfdnX pairX) tiny ∧
    Meets IsFlagged (.shfx pair3) tiny ∧ Meets IsFlagged (.shfxX pairX) tiny := by
  refine ⟨?_, ?_, ?_, ?_, ?_, ?_, ?_, ?_, ?_, ?_, ?_, ?_, ?_, ?_, ?_, ?_, ?_, ?_, ?_, ?_⟩ <;>
    exact ⟨_, by constructor, tiny_clear rfl (by decide), by unfold SomeActive; decide, by rfl⟩

/-- `ScratchpadActs`: loads, stores, posted stores, atomics and the die's, at address 0. -/
theorem test_meets_scratchpad : Meets IsScratch (.lds pair3) tiny ∧ Meets IsScratch (.ldsX pairX) tiny ∧ Meets IsScratch (.ldl pair3) tiny ∧
    Meets IsScratch (.ldlX pairX) tiny ∧ Meets IsScratch (.ldc pairX) tiny ∧ Meets IsScratch (.atms pairX) tiny ∧
    Meets IsScratch (.atmc pairX) tiny ∧ Meets IsScratch (.sts pair3) tiny ∧ Meets IsScratch (.stsX pairX) tiny ∧
    Meets IsScratch (.stl pair3) tiny ∧ Meets IsScratch (.stlX pairX) tiny ∧ Meets IsScratch (.stc pairX) tiny ∧
    Meets IsScratch (.cput pairX) tiny ∧ Meets IsScratch (.ldd { pairX with outv := true }) tiny ∧
    Meets IsScratch (.std { pairX with outv := true }) tiny := by
  refine ⟨⟨_, .lds _, tiny_clear rfl (by decide), by unfold SomeActive; decide, by rfl, ?_, by rfl⟩,
    ⟨_, .ldsX _, tiny_clear rfl (by decide), by unfold SomeActive; decide, by rfl, ?_, by rfl⟩,
    ⟨_, .ldl _, tiny_clear rfl (by decide), by unfold SomeActive; decide, by rfl, ?_, by rfl⟩,
    ⟨_, .ldlX _, tiny_clear rfl (by decide), by unfold SomeActive; decide, by rfl, ?_, by rfl⟩,
    ⟨_, .ldc _, tiny_clear rfl (by decide), by unfold SomeActive; decide, by rfl, ?_, by rfl⟩,
    ⟨_, .atms _, tiny_clear rfl (by decide), by unfold SomeActive; decide, by rfl, ?_, by rfl⟩,
    ⟨_, .atmc _, tiny_clear rfl (by decide), by unfold SomeActive; decide, by rfl, ?_, by rfl⟩,
    ⟨_, .sts _, tiny_clear rfl (by decide), by unfold SomeActive; decide, by rfl, ?_⟩,
    ⟨_, .stsX _, tiny_clear rfl (by decide), by unfold SomeActive; decide, by rfl, ?_⟩,
    ⟨_, .stl _, tiny_clear rfl (by decide), by unfold SomeActive; decide, by rfl, ?_⟩,
    ⟨_, .stlX _, tiny_clear rfl (by decide), by unfold SomeActive; decide, by rfl, ?_⟩,
    ⟨_, .stc _, tiny_clear rfl (by decide), by unfold SomeActive; decide, by rfl, ?_, by decide⟩,
    ⟨_, .cput _, tiny_clear rfl (by decide), by unfold SomeActive; decide, by rfl, ?_, by decide⟩,
    ⟨_, .ldd _, tiny_clear rfl (by decide), by unfold SomeActive; decide, by rfl, ?_, by rfl, .inl rfl⟩,
    ⟨_, .std _, tiny_clear rfl (by decide), by unfold SomeActive; decide, by rfl, ?_, by rfl, .inl rfl⟩⟩ <;>
    (unfold inLevel fits; decide)

/-- A form into a token: pair `v2` as address, 0 as B, `v8` as C. -/
def tokX : ExtForm := { zeroForm with d := 4, a := 2, b := 1920, c := 8, outv := true }

/-- `GlobalMemoryActs`: scopes of the core, the package and the cluster where a rule lists them. -/
theorem test_meets_global : Meets IsGlobal (.ldg tokX) tiny ∧ Meets IsGlobal (.stg tokX) tiny ∧ Meets IsGlobal (.atg tokX) tiny ∧
    Meets IsGlobal (.redg tokX) tiny ∧ Meets IsGlobal (.pref { tokX with mods := 24 }) tiny ∧ Meets IsGlobal (.cclean { tokX with mods := 32 }) tiny ∧
    Meets IsGlobal (.cinval { tokX with mods := 40 }) tiny ∧ Meets IsGlobal (.acqr { tokX with mods := 32 }) tiny := by
  refine ⟨⟨_, .ldg _, tiny_clear rfl (by decide), by unfold SomeActive; decide, by rfl, ?_, by rfl, .inl rfl⟩,
    ⟨_, .stg _, tiny_clear rfl (by decide), by unfold SomeActive; decide, by rfl, ?_, by rfl, .inl rfl⟩,
    ⟨_, .atg _, tiny_clear rfl (by decide), by unfold SomeActive; decide, by rfl, ?_, by rfl, .inl rfl⟩,
    ⟨_, .redg _, tiny_clear rfl (by decide), by unfold SomeActive; decide, by rfl, ?_, by rfl, .inl rfl⟩,
    ⟨_, .pref _, tiny_clear rfl (by decide), by unfold SomeActive; decide, by rfl⟩,
    ⟨_, .cclean _, tiny_clear rfl (by decide), by unfold SomeActive; decide, by rfl, by rfl, .inl rfl⟩,
    ⟨_, .cinval _, tiny_clear rfl (by decide), by unfold SomeActive; decide, by rfl, by rfl, .inl rfl⟩,
    ⟨_, .acqr _, tiny_clear rfl (by decide), by unfold SomeActive; decide, by rfl, by decide, by rfl, .inl rfl⟩⟩ <;>
    (unfold aligned; decide)

/-- `TokenActs`: tokens with nothing outstanding. -/
theorem test_meets_token : Meets IsToken (.twait { zeroForm with b := 1920 }) tiny ∧
    Meets IsToken (.twait { zeroForm with d := 1664, b := 1920, mods := 128 }) tiny ∧ Meets IsToken (.tsleep { zeroForm with b := 1923 }) tiny ∧
    Meets IsToken (.tsleep { zeroForm with b := 1923, mods := 1 }) tiny ∧ Meets IsToken (.tclr { zeroForm with b := 1923 }) tiny ∧
    Meets IsToken (.tjoin { zeroForm with mask := 2, outv := true }) tiny ∧
    Meets IsToken (.tsig { zeroForm with b := 1920, outv := true }) tiny := by
  refine ⟨⟨_, .twait _, tiny_clear rfl (by decide), by unfold SomeActive; decide, by decide, .inr rfl⟩,
    ⟨_, .twait _, tiny_clear rfl (by decide), by unfold SomeActive; decide, by decide, .inl rfl⟩,
    ⟨_, .tsleep _, tiny_clear rfl (by decide), by unfold SomeActive; decide, by decide⟩,
    ⟨_, .tsleep _, tiny_clear rfl (by decide), by unfold SomeActive; decide, by decide⟩,
    ⟨_, .tclr _, tiny_clear rfl (by decide), by unfold SomeActive; decide, ?_⟩,
    ⟨_, .tjoin _, tiny_clear rfl (by decide), by unfold SomeActive; decide, by rfl, ?_⟩,
    ⟨_, .tsig _, tiny_clear rfl (by decide), by unfold SomeActive; decide, by rfl, .inl rfl⟩⟩
  · unfold idle; decide
  · exact .inr (by decide)

/-- A chamber instruction at address 0 of the core's scratchpad; the same in memory at package scope. -/
def chamX : ExtForm := { zeroForm with d := 1664, a := 2, b := 1920, c := 1921, mods := 8 }
def chamG : ExtForm := { chamX with mods := 32 }

/-- A chamber of zeros. -/
def noChamber : Chamber := Chamber.read (List.replicate 16 0#8)

/-- `ChamberActs`: the five instructions, in a scratchpad and in memory, of a chamber of zeros. -/
theorem test_meets_chamber : (∃ r, IsChamber (.chini { chamX with d := 1536 }) (.scr 0 0) r ∧ Clear tiny r.f r.u ∧ SomeActive tiny r.f ∧ r.when tiny (tiny.active r.f)) ∧
    (∃ r, IsChamber (.chini { chamG with d := 1536 }) (.glb 0) r ∧ Clear tiny r.f r.u ∧ SomeActive tiny r.f ∧ r.when tiny (tiny.active r.f)) ∧
    (∃ r, IsChamber (.charr chamX) (.scr 0 0) r ∧ Clear tiny r.f r.u ∧ SomeActive tiny r.f ∧ r.when tiny (tiny.active r.f)) ∧
    (∃ r, IsChamber (.texp { chamX with c := 15 }) (.scr 0 0) r ∧ Clear tiny r.f r.u ∧ SomeActive tiny r.f ∧ r.when tiny (tiny.active r.f)) ∧
    (∃ x t r, IsChamberRead (.chwait chamX) (.scr 0 0) x t r ∧ Clear tiny r.f r.u ∧ SomeActive tiny r.f ∧ r.when tiny (tiny.active r.f)) ∧
    (∃ x t r, IsChamberRead (.chwait { chamX with mods := 136 }) (.scr 0 0) x t r ∧ Clear tiny r.f r.u ∧ SomeActive tiny r.f ∧ r.when tiny (tiny.active r.f)) ∧
    (∃ x t r, IsChamberRead (.chtest chamX) (.scr 0 0) x t r ∧ Clear tiny r.f r.u ∧ SomeActive tiny r.f ∧ r.when tiny (tiny.active r.f)) :=
  ⟨⟨_, .chini _ _, tiny_clear rfl (by decide), by unfold SomeActive; decide, ⟨by rfl, by decide, by rfl⟩, by rfl, _, by rfl⟩,
    ⟨_, .chini _ _, tiny_clear rfl (by decide), by unfold SomeActive; decide, ⟨by rfl, by decide, by rfl⟩, by rfl, _, by rfl⟩,
    ⟨_, .charr _ _, tiny_clear rfl (by decide), by unfold SomeActive; decide, ⟨by rfl, by decide, by rfl⟩⟩,
    ⟨_, .texp _ _, tiny_clear rfl (by decide), by unfold SomeActive; decide, ⟨by rfl, by decide, by rfl⟩, by rfl⟩,
    ⟨noChamber, tiny, _, .chwait _ _ _ _, tiny_clear rfl (by decide), by unfold SomeActive; decide, ⟨by rfl, by decide, by rfl⟩, by rfl, by rfl, by decide, by rfl, .inr rfl⟩,
    ⟨noChamber, tiny, _, .chwait _ _ _ _, tiny_clear rfl (by decide), by unfold SomeActive; decide, ⟨by rfl, by decide, by rfl⟩, by rfl, by rfl, by decide, by rfl, .inl rfl⟩,
    ⟨noChamber, tiny, _, .chtest _ _ _ _, tiny_clear rfl (by decide), by unfold SomeActive; decide, ⟨by rfl, by decide, by rfl⟩, by rfl, by rfl⟩⟩

/-- The group has arrived at barrier 0, which expects two. -/
def awaiting : State := tiny.setNb 0 0 { mask := 1, arrived := 1, expected := 2 }

/-- It waits for the end of a phase, which has come. -/
def released : State :=
  tinyWith (fun g => { g with nbpend := 1, nbph := 1 })

/-- `BarrierActs`: arrivals, the first and one already counted; waits nobody holds; semaphores at 0 and above. -/
theorem test_meets_barrier : Meets IsSync (.nbarr { zeroForm with b := 1921 }) tiny ∧ Meets IsSync (.nbarr { zeroForm with b := 1921 }) awaiting ∧
    Meets IsSync (.nbwait { zeroForm with a := 15 }) tiny ∧ Meets IsSync (.nbsync { zeroForm with b := 1921 }) released ∧
    Meets IsSync (.sinc { base3 with a := 0, b := 1 }) tiny ∧
    Meets IsSync (.sincX { zeroForm with a := 1951, b := 1921 }) tiny ∧ Meets IsSync (.swait { base3 with a := 0, b := 1 }) tiny ∧
    Meets IsSync (.swaitX { zeroForm with a := 1951, b := 1921 }) (tiny.setSem 0 31 1) ∧ Meets IsSync (.sread { base3 with d := 3 }) tiny ∧
    Meets IsSync (.sreadX { zeroForm with d := 4, a := 1951 }) tiny :=
  ⟨⟨_, .nbarr _, tiny_clear rfl (by decide), by unfold SomeActive; decide, by decide, by decide, .inr (.inl rfl)⟩,
    ⟨_, .nbarr _, clear_in rfl (by decide) rfl rfl, by unfold SomeActive; decide, by decide, by decide, .inl rfl⟩,
    ⟨_, .nbwait _, tiny_clear rfl (by decide), by unfold SomeActive; decide, by rfl⟩,
    ⟨_, .nbsync _, clear_in rfl (by decide) rfl rfl, by unfold SomeActive; decide, by rfl, by unfold inRange; decide, fun h => by cases h⟩,
    ⟨_, .sinc _, tiny_clear rfl (by decide), by unfold SomeActive; decide, by unfold sincAct semOk; dsimp only; decide⟩,
    ⟨_, .sincX _, tiny_clear rfl (by decide), by unfold SomeActive; decide, by unfold sincAct semOk; dsimp only; decide⟩,
    ⟨_, .swait _, tiny_clear rfl (by decide), by unfold SomeActive; decide, by unfold semOk; decide, .inl rfl⟩,
    ⟨_, .swaitX _, clear_in rfl (by decide) rfl rfl, by unfold SomeActive; decide, by unfold semOk; decide, .inr ⟨rfl, by decide⟩⟩,
    ⟨_, .sread _, tiny_clear rfl (by decide), by unfold SomeActive; decide, by unfold sreadAct semOk; dsimp only; decide⟩,
    ⟨_, .sreadX _, tiny_clear rfl (by decide), by unfold SomeActive; decide, by unfold sreadAct semOk; dsimp only; decide⟩⟩

/-- The group waits at a `csync.wait` of a handler, or at a `gsync`, whose generation has come. -/
def generation (m : Mode) : State := tinyWith (fun g => { g with mode := m, genWaits := [(0, 0)] })

/-- `OrderingActs`: fences of a group with nothing outstanding, both ways; the allotment held and given back; generations that have come. -/
theorem test_meets_ordering : Meets IsOrder (.fence { zeroForm with mods := 8 }) tiny ∧ Meets IsOrder (.fence { zeroForm with mods := 51 })
      (tinyWith (fun g => { g with fences := [{ pc := 0, scope := 6, rel := true, acq := true, upto := 0 }] })) ∧
    Meets IsOrder (.tfence { zeroForm with mods := 32 }) tiny ∧ Meets IsOrder (.racq base3) tiny ∧ Meets IsOrder (.racqX zeroForm) tiny ∧
    Meets IsOrder (.rrel base3) tiny ∧ Meets IsOrder (.rrelX zeroForm) (tinyWith (fun g => { g with held := false })) ∧
    Meets IsOrder (.csync zeroForm) tiny ∧ Meets IsOrder (.csync { zeroForm with mods := 1 }) (generation .handler) ∧
    Meets IsOrder (.gsync zeroForm) (generation .running) :=
  ⟨⟨_, .fence _, tiny_clear rfl (by decide), by unfold SomeActive; decide, ⟨.inr (by decide), by decide⟩⟩,
    ⟨_, .fence _, clear_in rfl (by decide) rfl rfl, by unfold SomeActive; decide, ⟨.inl ⟨_, List.mem_singleton.mpr rfl, rfl⟩, by decide⟩⟩,
    ⟨_, .tfence _, tiny_clear rfl (by decide), by unfold SomeActive; decide, by rfl, .inr (by decide), by decide⟩,
    ⟨_, .racq _, tiny_clear rfl (by decide), by unfold SomeActive; decide, .inl rfl⟩,
    ⟨_, .racqX _, tiny_clear rfl (by decide), by unfold SomeActive; decide, .inl rfl⟩,
    ⟨_, .rrel _, tiny_clear rfl (by decide), by unfold SomeActive; decide, fun _ _ h => absurd h List.not_mem_nil⟩,
    ⟨_, .rrelX _, clear_in rfl (by decide) rfl rfl, by unfold SomeActive; decide, fun h => absurd h (by decide)⟩,
    ⟨_, .csync _, tiny_clear rfl (by decide), by unfold SomeActive; decide, fun h => absurd h (by decide)⟩,
    ⟨_, .csync _, clear_in rfl (by decide) rfl rfl, by unfold SomeActive; decide, fun _ => ⟨rfl, 0, by rfl, by decide⟩⟩,
    ⟨_, .gsync _, clear_in rfl (by decide) rfl rfl, by unfold SomeActive; decide, rfl, 0, by rfl, by decide⟩⟩

/-- A handler whose team holds the engine. -/
def engineHandler : State := handlerState.modEngine 0 (fun e => { e with holder := some 0 })

/-- `SpecialWriteActs`: each register at the first and the last of its numbers. -/
theorem test_meets_special : Meets IsSwr (.swr { zeroForm with d := 1920, a := 128 }) handlerState ∧
    Meets IsSwr (.swr { zeroForm with d := 1920, a := 143 }) handlerState ∧ Meets IsSwr (.swr { zeroForm with d := 1920, a := 159 }) handlerState ∧
    Meets IsSwr (.swr { zeroForm with d := 1920, a := 171 }) handlerState ∧ Meets IsSwr (.swr { zeroForm with d := 1920, a := 255 }) handlerState ∧
    Meets IsSwr (.swrTok { zeroForm with d := 1920, a := 111 }) handlerState ∧
    Meets IsSwr (.swrTokx { zeroForm with d := 1920, a := 127 }) handlerState ∧ Meets IsSwr (.swrMxBudget { zeroForm with d := 1920, a := 173 }) tiny ∧
    Meets IsSwr (.swrMxQ { zeroForm with d := 1920, a := 177 }) handlerState ∧
    Meets IsSwr (.swrMxQ { zeroForm with d := 1928, a := 177 }) engineHandler :=
  ⟨⟨_, .barrier _ (by decide), clear_in rfl (by decide) rfl rfl, by unfold SomeActive; decide, by rfl⟩,
    ⟨_, .barrier _ (by decide), clear_in rfl (by decide) rfl rfl, by unfold SomeActive; decide, by rfl⟩,
    ⟨_, .tokf _ (by decide), clear_in rfl (by decide) rfl rfl, by unfold SomeActive; decide, by rfl⟩,
    ⟨_, .signed _ (by decide), clear_in rfl (by decide) rfl rfl, by unfold SomeActive; decide, by rfl⟩,
    ⟨_, .image _ (by decide), clear_in rfl (by decide) rfl rfl, by unfold SomeActive; decide, by rfl⟩,
    ⟨_, .swrTok _, clear_in rfl (by decide) rfl rfl, by unfold SomeActive; decide, by rfl⟩,
    ⟨_, .swrTokx _, clear_in rfl (by decide) rfl rfl, by unfold SomeActive; decide, by rfl⟩,
    ⟨_, .swrMxBudget _, tiny_clear rfl (by decide), by unfold SomeActive; decide, .inr rfl⟩,
    ⟨_, .discard _, clear_in rfl (by decide) rfl rfl, by unfold SomeActive; decide, by rfl, by decide⟩,
    ⟨_, .load _, clear_in rfl (by decide) rfl rfl, by unfold SomeActive; decide, by rfl, by decide, by decide, by rfl, by rfl⟩⟩

/-- Whether a frame and its images can be read. -/
def frameReads (s : State) : Bool :=
  match s.load (agentOn s s.myCore (launchOfGrp (grp s))) (frameAddr s (grp s)) 0x4B0 with
  | .ok bs s1 => match s1.load (agentOn s s.myCore (launchOfGrp (grp s))) (frameAddr s (grp s) + 0x1000) (0x400 * heldCount bs) with
    | .ok _ _ => true
    | _ => false
  | _ => false

theorem frame_reads {s : State} (h : frameReads s = true) : ∃ bs imgs s1 s2,
    s.load (agentOn s s.myCore (launchOfGrp (grp s))) (frameAddr s (grp s)) 0x4B0 = .ok bs s1 ∧
    s1.load (agentOn s s.myCore (launchOfGrp (grp s))) (frameAddr s (grp s) + 0x1000) (0x400 * heldCount bs) = .ok imgs s2 := by
  unfold frameReads at h
  split at h
  · rename_i bs s1 h1
    split at h
    · rename_i imgs s2 h2
      exact ⟨bs, imgs, s1, s2, h1, h2⟩
    · cases h
  · cases h

/-- A handler whose frame lies in the page that is mapped. -/
def framed : State := handlerState.setLaunch 0 { placedLaunch with savebase := 0x4000 }

theorem test_frame_reads : frameReads framed = true := by decide +kernel

/-- `SystemActs`: the invalidations, the traps, and each return from a handler, `rtt.res` with a frame of zeros in memory. -/
theorem test_meets_system : Meets IsSystem (.icinv { tokX with mods := 8 }) tiny ∧ Meets IsSystem (.tlbinv { zeroForm with outv := true }) tiny ∧
    Meets IsSystem (.tlbinv { tokX with mods := 2 }) tiny ∧ Meets IsSystem (.biasset { tokX with b := 1921 }) tiny ∧
    Meets IsSystem (.trap { zeroForm with b := 1920 }) tiny ∧ Meets IsSystem (.brk { zeroForm with b := 1920 }) tiny ∧
    Meets IsSystem (.rttEnd zeroForm) handlerState ∧
    Meets IsSystem (.rttSave zeroForm) (tinyWith (fun g => { g with mode := .handler, entPreempt := true })) ∧
    Meets IsSystem (.rttRes zeroForm) framed := by
  obtain ⟨bs, imgs, s1, s2, h1, h2⟩ := frame_reads test_frame_reads
  exact ⟨⟨_, .icinv _, tiny_clear rfl (by decide), by unfold SomeActive; decide, by rfl, by rfl, .inl rfl⟩,
    ⟨_, .tlbinv _, tiny_clear rfl (by decide), by unfold SomeActive; decide, by rfl, .inr rfl, by rfl, .inl rfl⟩,
    ⟨_, .tlbinv _, tiny_clear rfl (by decide), by unfold SomeActive; decide, by rfl, .inr rfl, by rfl, .inl rfl⟩,
    ⟨_, .biasset _, tiny_clear rfl (by decide), by unfold SomeActive; decide, by rfl, .inr rfl, by decide, by decide, by decide, by rfl, .inl rfl⟩,
    ⟨_, .trap _, tiny_clear rfl (by decide), by unfold SomeActive; decide, trivial⟩,
    ⟨_, .brk _, tiny_clear rfl (by decide), by unfold SomeActive; decide, trivial⟩,
    ⟨_, .rttEnd _, clear_in rfl (by decide) rfl rfl, by unfold SomeActive; decide, by rfl, by rfl⟩,
    ⟨_, .rttSave _, clear_in rfl (by decide) rfl rfl, by unfold SomeActive; decide, by rfl, by rfl, by rfl⟩,
    ⟨_, .rttRes _ bs imgs s1 s2, clear_in rfl (by rfl) rfl rfl, show SomeActive framed zeroForm by unfold SomeActive; decide, by rfl, by rfl, h1, h2⟩⟩

/-- Barge 0 rests after a run. -/
def rested : State := tiny.setBarge 0 { mode := .stopped }

/-- The engine of the core is held by the team. -/
def engineTiny : State := tiny.modEngine 0 (fun e => { e with holder := some 0 })

/-- `BargeControlActs`: a barge at rest, after a run and before one; the engine free, held, and held by no one. -/
theorem test_meets_bargeControl : Meets IsBargeControl (.bgo { tokX with c := 1544 }) tiny ∧
    Meets IsBargeControl (.bgo { tokX with d := 1664, b := 1923, c := 1592, mods := 130 }) tiny ∧
    Meets IsBargeControl (.bres { zeroForm with b := 1920, outv := true }) rested ∧
    Meets IsBargeControl (.bstop { zeroForm with b := 1923, outv := true }) tiny ∧ Meets IsBargeControl (.bresLd { zeroForm with a := 2, b := 1920 }) tiny ∧
    Meets IsBargeControl (.bstat { zeroForm with d := 4, b := 1920, c := 1951 }) tiny ∧ Meets IsBargeControl (.mxres { zeroForm with d := 1664 }) tiny ∧
    Meets IsBargeControl (.mxrel zeroForm) tiny ∧ Meets IsBargeControl (.mxrel zeroForm) engineTiny ∧
    Meets IsBargeControl (.mxsign { zeroForm with d := 1673 }) tiny :=
  ⟨⟨_, .bgo _, tiny_clear rfl (by decide), by unfold SomeActive; decide, by rfl, ⟨by decide, by decide⟩, by decide, by rfl, by rfl⟩,
    ⟨_, .bgo _, tiny_clear rfl (by decide), by unfold SomeActive; decide, by rfl, ⟨by decide, by decide⟩, by decide, by rfl, by rfl⟩,
    ⟨_, .bres _, clear_in rfl (by decide) rfl rfl, by unfold SomeActive; decide, by rfl, ⟨by decide, by decide⟩, by rfl, by decide, by rfl⟩,
    ⟨_, .bstop _, tiny_clear rfl (by decide), by unfold SomeActive; decide, by rfl, ⟨by decide, by decide⟩, by rfl, by rfl, .inl rfl⟩,
    ⟨_, .bresLd _, tiny_clear rfl (by decide), by unfold SomeActive; decide, by rfl, ⟨by decide, by decide⟩, by rfl, by decide, by decide, by decide⟩,
    ⟨_, .bstat _, tiny_clear rfl (by decide), by unfold SomeActive; decide, by rfl, ⟨by decide, by decide⟩, by decide⟩,
    ⟨_, .mxres _, tiny_clear rfl (by decide), by unfold SomeActive; decide, trivial⟩,
    ⟨_, .mxrel _, tiny_clear rfl (by decide), by unfold SomeActive; decide, fun h => by cases h⟩,
    ⟨_, .mxrel _, clear_in rfl (by decide) rfl rfl, by unfold SomeActive; decide, fun _ => rfl⟩,
    ⟨_, .mxsign _, tiny_clear rfl (by decide), by unfold SomeActive; decide, trivial⟩⟩

/-- The team holds the engine; `s8` gives a shape with a depth of 16, `s10` one with none; lanes 0 to 31 have signed `m1`. -/
def matrixTiny : State :=
  engineTiny.modGroup 0 (fun g => (g.putS 8 16).putJoin 1 { members := Lanes.all, signed := Lanes.all })

/-- A matrix instruction for mask `m1`, records at 0, the shape of `s8`, into a token. -/
def mxX : ExtForm := { zeroForm with d := 1673, a := 1920, b := 1920, c := 1544, outv := true }

/-- A matrix instruction meets what its statement asks. -/
def MeetsMatrix (i : Instr) (s : State) : Prop :=
  ∃ f m x a b e, IsMatrix i f m x a b ∧ Clear s f (matrixUse a b) ∧ Elected s f e ∧ MatrixReady s f m x a b e

/-- `MatrixIssues`: each instruction for a mask whose members have signed, and `mma` for `pt`. -/
theorem test_meets_matrix : MeetsMatrix (.mma { mxX with d := 1671 }) matrixTiny ∧
    MeetsMatrix (.mma mxX) matrixTiny ∧
    MeetsMatrix (.mmac mxX) matrixTiny ∧
    MeetsMatrix (.mxclr { mxX with a := 0, b := 0, c := 1546 }) matrixTiny ∧
    MeetsMatrix (.mxld { mxX with b := 0, c := 1546 }) matrixTiny ∧
    MeetsMatrix (.mxst { mxX with b := 0, c := 1546 }) matrixTiny ∧
    MeetsMatrix (.mxscl mxX) matrixTiny := by
  refine ⟨⟨_, _, _, _, _, 0, .mma _, ?_⟩,
    ⟨_, _, _, _, _, 0, .mma _, ?_⟩,
    ⟨_, _, _, _, _, 0, .mmac _, ?_⟩,
    ⟨_, _, _, _, _, 0, .mxclr _, ?_⟩,
    ⟨_, _, _, _, _, 0, .mxld _, ?_⟩,
    ⟨_, _, _, _, _, 0, .mxst _, ?_⟩,
    ⟨_, _, _, _, _, 0, .mxscl _, ?_⟩⟩ <;>
    exact ⟨clear_in rfl (by decide) rfl rfl, ⟨by decide, by decide, by decide, by decide⟩,
      ⟨by rfl, by decide, fun _ => ⟨by decide, by decide⟩, fun _ => ⟨by decide, by decide⟩, by rfl, by decide, by rfl⟩⟩

/-- Slot 0 of near memory is configured with one completion; queue 48 has an entry. -/
def queueTiny : State := (tiny.modSlot 0 (fun x => { x with configured := true, rows := 1, bags := 1, done := [5] })).setQueue 0 48 [7]

/-- A command of `v2`'s pairs that a push may bring: operation 1 of row 0. -/
def pushTiny : State := queueTiny.modGroup 0 (fun g => laneList.foldl (fun g k => g.putV 3 k 0x10000000) g)

/-- A table record of one row of one unit and one bag, at address 0 of the scratchpad. -/
def tableTiny : State :=
  tiny.scrWrite 0 0 (toBytes 0 8 ++ toBytes (2 ^ 32 + 2 ^ 8) 8 ++ toBytes (2 ^ 32) 8)

/-- `QueueAndFabricActs`, queues. -/
theorem test_meets_queue : Meets IsQueue (.movQueueWrite { zeroForm with d := 1632, a := 1920 }) tiny ∧
    Meets IsQueue (.movQueueRead { zeroForm with d := 4, a := 1648 }) queueTiny ∧
    Meets IsQueue (.nmPush { zeroForm with d := 1600, a := 2, ty := 4 }) pushTiny ∧
    Meets IsQueue (.nmTake { zeroForm with d := 4, a := 1616, ty := 4 }) queueTiny ∧
    Meets IsQueue (.qpoll { zeroForm with d := 1664, a := 1616 }) queueTiny ∧ Meets IsQueue (.qpoll { zeroForm with d := 1664, a := 1663 }) tiny ∧
    Meets IsQueue (.qflush { zeroForm with a := 1615, outv := true }) tiny ∧ Meets IsQueue (.nmv { zeroForm with a := 2, b := 1920, outv := true }) tiny ∧
    Meets IsQueue (.nmcfg { zeroForm with d := 1664, a := 2, b := 1920, c := 15 }) tiny :=
  ⟨⟨_, .write _, tiny_clear rfl (by decide), by unfold SomeActive; decide, by decide, by decide⟩,
    ⟨_, .read _, clear_in rfl (by decide) rfl rfl, by unfold SomeActive; decide, by decide, by decide, by rfl⟩,
    ⟨_, .push _, clear_in rfl (by decide) rfl rfl, by unfold SomeActive; decide, by rfl, by rfl, by rfl, by decide, by decide⟩,
    ⟨_, .take _ 5 [], clear_in rfl (by decide) rfl rfl, by unfold SomeActive; decide, by rfl, by rfl, by rfl⟩,
    ⟨_, .qpoll _, clear_in rfl (by decide) rfl rfl, by unfold SomeActive; decide, by rfl, by rfl⟩,
    ⟨_, .qpoll _, tiny_clear rfl (by decide), by unfold SomeActive; decide, by rfl, by decide⟩,
    ⟨_, .qflush _, tiny_clear rfl (by decide), by unfold SomeActive; decide, by rfl, by rfl, .inl rfl⟩,
    ⟨_, .nmv _, tiny_clear rfl (by decide), by unfold SomeActive; decide, by rfl, ⟨by rfl, by decide⟩, by rfl, .inl rfl⟩,
    ⟨_, .release _, tiny_clear rfl (by decide), by unfold SomeActive; decide, by rfl, ⟨by rfl, by decide⟩, by rfl, by rfl⟩⟩

/-- `QueueAndFabricActs`: a table record that is taken. -/
theorem test_meets_table : Meets IsQueue (.nmcfg { zeroForm with d := 1664, a := 2, b := 1920, c := 15 }) tableTiny :=
  ⟨_, .configure _ 0 tableTiny, clear_in rfl (by rfl) rfl rfl, show SomeActive tableTiny zeroForm by unfold SomeActive; decide,
    by rfl, ⟨by rfl, by decide⟩, by rfl, by decide, by decide, by rfl⟩

/-- `QueueAndFabricActs`, the fabric and collectives: with preconditions and without. -/
theorem test_meets_fabric : Meets IsFabric (.put { tokX with c := 1920 }) tiny ∧ Meets IsFabric (.put { tokX with c := 1544, mask := 2 }) tiny ∧
    Meets IsFabric (.rld tokX) tiny ∧ Meets IsFabric (.ratom tokX) tiny ∧ Meets IsFabric (.wcflush { zeroForm with outv := true }) tiny ∧
    Meets IsFabric (.clplan tokX) tiny ∧ Meets IsFabric (.clgo tokX) tiny ∧ Meets IsFabric (.rring tokX) tiny := by
  refine ⟨⟨_, .put _, tiny_clear rfl (by decide), by unfold SomeActive; decide, by rfl, by decide, ?_, ⟨by rfl, .inl rfl⟩, fun _ _ => by decide, fun _ _ => by decide⟩,
    ⟨_, .put _, tiny_clear rfl (by decide), by unfold SomeActive; decide, by rfl, by decide, ?_, ⟨by rfl, .inr (by decide)⟩, fun h => absurd h (by decide), fun h => absurd h (by decide)⟩,
    ⟨_, .rld _, tiny_clear rfl (by decide), by unfold SomeActive; decide, by rfl, ?_, ⟨by rfl, .inl rfl⟩, fun _ _ => by decide⟩,
    ⟨_, .ratom _, tiny_clear rfl (by decide), by unfold SomeActive; decide, by rfl, ?_, ⟨by rfl, .inl rfl⟩, fun _ _ => by decide⟩,
    ⟨_, .wcflush _, tiny_clear rfl (by decide), by unfold SomeActive; decide, by rfl, by rfl, .inl rfl⟩,
    ⟨_, .clplan _, tiny_clear rfl (by decide), by unfold SomeActive; decide, by rfl, by rfl, by rfl, .inl rfl⟩,
    ⟨_, .clgo _, tiny_clear rfl (by decide), by unfold SomeActive; decide, by rfl, by rfl, by rfl, .inl rfl⟩,
    ⟨_, .rring _, tiny_clear rfl (by decide), by unfold SomeActive; decide, by rfl, ⟨by rfl, by decide⟩, by rfl, .inl rfl⟩⟩ <;>
    (unfold aligned; decide)

/-! ### Traps and handlers -/

/-- `TrapCompletes`. -/
theorem test_meets_traps : Clear tiny { zeroForm with b := 1925 } { b := Rules.small } ∧ SomeActive tiny { zeroForm with b := 1925 } ∧ Ordinary tiny :=
  ⟨tiny_clear rfl (by decide), by unfold SomeActive; decide, ⟨by decide, by decide, by decide⟩⟩

/-- A halted group whose frame lies in the page that is mapped. -/
def haltedState : State := (tinyWith (fun g => { g with mode := .halted, picks := [] })).setLaunch 0 { placedLaunch with savebase := 0x4000 }

/-- Whether the frame of group 0 can be written. -/
def frameWrites (s : State) : Bool :=
  match s.store (agentOn s (coreOfGrp s 0) (launchOfGrp 0)) (frameAddr s 0) (wholeFrame s 0 0) with
  | .ok _ _ => true
  | _ => false

theorem test_frame_writes : frameWrites haltedState = true := by decide +kernel

/-- `HandlerEntered`. -/
theorem test_meets_handler : ∃ s1, (haltedState.group 0).mode = .halted ∧ (haltedState.group 0).picks = [] ∧ (haltedState.team (teamOf 0)).debug = false ∧
    (haltedState.group 0).live ≠ 0#32 ∧ (haltedState.group 0).entPreempt = false ∧ (haltedState.group 0).entResume = false ∧
    handlerReady haltedState 0 false = true ∧ multicastsLanded haltedState (teamOf 0) = true ∧
    haltedState.store (agentOn haltedState (coreOfGrp haltedState 0) (launchOfGrp 0)) (frameAddr haltedState 0) (wholeFrame haltedState 0 0) = .ok () s1 := by
  have h := test_frame_writes
  unfold frameWrites at h
  split at h
  · rename_i x s1 h1
    exact ⟨s1, by decide, by decide, by decide, by decide, by decide, by decide, by decide, by decide, h1⟩
  · cases h

/-- `FrameLayout` and `FrameRoundTrip`: group 0 of `tiny`, and the group as its own entry left it. -/
theorem test_meets_frame : (tiny.group 0).cause.cause < 32 ∧ (tiny.group 0).cause.lane < 32 ∧ (tiny.group 0).skid < 8 ∧
    (tiny.group 0).gen < 2 ^ 32 ∧ 15 < 16 ∧
    ({ tiny.group 0 with liveAtEntry := Lanes.all } : Group).live = (tiny.group 0).live ∧
    ({ tiny.group 0 with liveAtEntry := Lanes.all } : Group).liveAtEntry = Lanes.all ∧ (tiny.group 0).live = Lanes.all ∧
    (tiny.group 0).cause.token < 16 ∧ (tiny.group 0).cause.tcause < 32 ∧ (tiny.team (teamOf 0)).origin < 32 ∧
    (∀ k, k < 32 → (tiny.group 0).live.getLsbD k = true → (tiny.group 0).pc k < 2 ^ 57 ∧ laneHeader tiny 0 k < 2 ^ 32) := by
  decide

/-- `FrameLayout`: a withdrawn queue read at the last of its names and queues. -/
theorem test_meets_frame_read : ((tinyWith (fun g => { g with qread := [{ lanes := 1, dest := 2047, queue := 63, wide := true, fb := false }] })).group 0).qread ≠ [] ∧
    2047 < 2 ^ 11 ∧ 63 < 2 ^ 6 := by
  decide

/-! ### Barges, and steps that are no instruction of a group -/

/-- An event or an instruction of a barge has its rule's condition in a state. -/
def Happens (P : Instr → StepRule → Prop) (i : Instr) (s : State) : Prop := ∃ r, P i r ∧ r.when s

/-- Fields of a barge's word, all 0. -/
def zeroBarge : BargeForm := { d := 0, a := 0, b := 0, i := false, x := 0, imm := 0 }

/-- Barge 0 has an instruction in hand, with the registers and loops given. -/
def bargeTiny (x : Barge) : State :=
  (tiny.setBarge 0 x).modSched (fun c => { c with cur := { c.cur with barge := 0 } })

/-- Barge 0, running at address 8. -/
def runs : Barge := { mode := .running, pc := 8 }

/-- `BargeFlow`: a value, and each way an instruction can go: through the end of two loops at once, out of a loop, into one, past one. -/
theorem test_meets_bargeFlow : (∃ w v, IsBargeValue (.badd zeroBarge) zeroBarge w v ∧ w (bargeTiny runs)) ∧
    (∃ w v, IsBargeValue (.bcmp { zeroBarge with x := 0x1600 }) { zeroBarge with x := 0x1600 } w v ∧ w (bargeTiny runs)) ∧
    (∃ f r, IsBargeFlow (.bnop zeroBarge) f r ∧ r.when (bargeTiny { runs with loops := [⟨1, 0, 8⟩, ⟨2, 0, 8⟩] })) ∧
    (∃ f r, IsBargeFlow (.bnop zeroBarge) f r ∧ r.when (bargeTiny { runs with loops := [⟨1, 0, 16⟩] })) ∧
    (∃ f r, IsBargeFlow (.bbr { zeroBarge with x := 0x1000, imm := 16 }) f r ∧ r.when (bargeTiny { runs with loops := [⟨1, 0, 16⟩] })) ∧
    (∃ f r, IsBargeFlow (.bbr { zeroBarge with imm := 16 }) f r ∧ r.when (bargeTiny runs)) ∧
    (∃ f r, IsBargeFlow (.bjmp { zeroBarge with i := true, imm := 8 }) f r ∧ r.when (bargeTiny { runs with loops := [⟨1, 0, 16⟩] })) ∧
    (∃ f r, IsBargeFlow (.bjmp zeroBarge) f r ∧ r.when (bargeTiny runs)) ∧
    (∃ f r, IsBargeFlow (.bloop { zeroBarge with i := true, x := 0x1FFF, imm := 8 }) f r ∧ r.when (bargeTiny runs)) ∧
    (∃ f r, IsBargeFlow (.bloop { zeroBarge with imm := 8 }) f r ∧ r.when (bargeTiny { runs with loops := [⟨1, 0, 16⟩] })) := by
  refine ⟨⟨_, _, .badd _, trivial⟩, ⟨_, _, .bcmp _, by decide⟩,
    ⟨_, _, .fall _ _ _, .leave _ _ _ _ rfl (by decide) (.again _ _ rfl (by decide))⟩, ⟨_, _, .fall _ _ _, .inside _ _ (by decide)⟩,
    ⟨_, _, .taken _ _, by decide, by decide, .leave _ _ _ (by decide) .none⟩, ⟨_, _, .notTaken _ _ _, by decide, by decide, .out⟩,
    ⟨_, _, .relative _ _, by decide, by decide, .stay _ _ (by decide)⟩, ⟨_, _, .indirect _ _, by decide, by decide, by decide, .none⟩,
    ⟨_, _, .enter _, by decide, by decide, by decide, by decide⟩, ⟨_, _, .skip _, by decide, by decide, by decide, by decide⟩⟩

/-- Two records of the scratchpad: at 0 a tile at 0x200, at 64 a tensor at 0x100, each of one dimension of one byte. -/
def boxes : State :=
  let s := bargeTiny { runs with a := [(1, 64)] }
  (s.scrWrite 0 0 (toBytes 0x200 8 ++ toBytes (2 ^ 32) 8 ++ toBytes 0 8 ++ toBytes 0x21200000 4)).scrWrite 0 64
    (toBytes 0x100 8 ++ toBytes (2 ^ 32) 8 ++ toBytes 0 8 ++ toBytes 0x21000000 4)

/-- At 0 and at 64 records of one row of one word; an index 0 at 0x300. -/
def rowsState : State :=
  let s := bargeTiny { runs with a := [(1, 64), (2, 0x300)] }
  (s.scrWrite 0 0 (toBytes 0x200 8 ++ toBytes (2 ^ 32 + 1) 8 ++ toBytes 0 8 ++ toBytes 0x51000000 4)).scrWrite 0 64
    (toBytes 0x100 8 ++ toBytes (2 ^ 32 + 1) 8 ++ toBytes 0 8 ++ toBytes 0x51000000 4)

/-- Records as they are read from these states. -/
def boxTile : Layout := Layout.ofBytes (boxes.scrRead 0 0 64)
def boxTensor : Layout := Layout.ofBytes (boxes.scrRead 0 64 64)
def rowTo : Layout := Layout.ofBytes (rowsState.scrRead 0 0 64)
def rowFrom : Layout := Layout.ofBytes (rowsState.scrRead 0 64 64)

/-- `BargeData`: a load of an index, an address, a queue each way. -/
theorem test_meets_bargeData : Happens IsBargeData (.bldi { zeroBarge with x := 0x0800 }) (bargeTiny runs) ∧
    Happens IsBargeData (.baddr { zeroBarge with b := 15 }) boxes ∧
    Happens IsBargeData (.bqin { zeroBarge with imm := 32 }) ((bargeTiny runs).setQueue 0 32 [9]) ∧
    Happens IsBargeData (.bqout { zeroBarge with imm := 63 }) (bargeTiny runs) :=
  ⟨⟨_, .bldi _ _ _, rfl, by rfl⟩, ⟨_, .baddr _ boxTile, ⟨rfl, by rfl⟩, by decide⟩, ⟨_, .bqin _ 9 [], by decide, by decide, by rfl, by rfl⟩,
    ⟨_, .bqout _, by decide, by decide, by rfl, by decide, by decide⟩⟩

/-- A box copy, a gather, a scatter and a pool of these records. -/
def boxForm : BargeForm := { zeroBarge with a := 1 }
def rowForm : BargeForm := { zeroBarge with a := 1, b := 2, x := 0x0C00 }
def poolForm : BargeForm := { zeroBarge with a := 1, b := 2, x := 0x0C04 }

/-- `BargeData`: copies that begin. -/
theorem test_meets_copies : Happens IsBargeData (.bcopy boxForm) boxes ∧ Happens IsBargeData (.bgath rowForm) rowsState ∧
    Happens IsBargeData (.bscat rowForm) rowsState ∧ Happens IsBargeData (.bpool poolForm) rowsState :=
  ⟨⟨_, .bcopy _ boxTile boxTensor, ⟨⟨rfl, by rfl⟩, ⟨rfl, by rfl⟩⟩, by decide, by rfl, by rfl, by decide, .inl rfl⟩,
    ⟨_, .bgath _ rowTo rowFrom, ⟨⟨rfl, by rfl⟩, ⟨rfl, by rfl⟩⟩, ⟨by rfl, by rfl, by rfl, by rfl, by decide⟩, .inl rfl⟩,
    ⟨_, .bscat _ rowTo rowFrom, ⟨⟨rfl, by rfl⟩, ⟨rfl, by rfl⟩⟩, ⟨by rfl, by rfl, by rfl, by rfl, by decide⟩, .inl rfl⟩,
    ⟨_, .bpool _ rowTo rowFrom, ⟨⟨rfl, by rfl⟩, ⟨rfl, by rfl⟩⟩, ⟨by rfl, by rfl, by rfl, by rfl, by decide⟩, by decide, by rfl⟩⟩

/-- The next unit of the first copy in flight of barge 0 can be performed. -/
def UnitNext (s : State) : Prop :=
  ∃ c t, (s.barge 0).flight[0]? = some c ∧ c.fault = none ∧ c.unit < c.units ∧ UnitDone s 0 c t

/-- `BargeData`: units of copies of each kind in flight. -/
theorem test_meets_unit : UnitNext (begun 0x13 boxForm boxes) ∧ UnitNext (begun 0x14 rowForm rowsState) ∧
    UnitNext (begun 0x15 rowForm rowsState) ∧ UnitNext (begun 0x16 poolForm rowsState) :=
  ⟨⟨_, _, rfl, rfl, by decide, _, _, .moves _ _ _ _ (.box rfl) (by rfl), by decide, by decide, by rfl⟩,
    ⟨_, _, rfl, rfl, by decide, _, _, .moves _ _ _ _ (.gather 0 _ rfl (by rfl)) (by rfl), by decide, by decide, by rfl⟩,
    ⟨_, _, rfl, rfl, by decide, _, _, .moves _ _ _ _ (.scatter 0 _ rfl (by rfl)) (by rfl), by decide, by decide, by rfl⟩,
    ⟨_, _, rfl, rfl, by decide, _, _, .pool _ _ rfl (by rfl), by decide, by decide, by rfl⟩⟩

/-- A barge with nothing in flight, in a memory with nothing on its way, has released at every scope. -/
theorem quiet_released (s : State) (sc : Nat) (h : (bge s).flight = []) (h1 : s.mem.fwd = []) (h2 : s.mem.gaPend = []) (h3 : s.mem.invals = [])
    (h5 : s.host.backInv = []) : Rules.released s sc ∧ ownDone s sc := by
  have h4 : ownDone s sc := by
    unfold ownDone
    rw [h, h1, h2, h3]
    simp [hostReleased, h5]
  exact ⟨⟨h, h4, fun _ => by simp [dieReleased, h1, h3], fun _ => by simp [hostReleased, h5]⟩, h4⟩

/-- `BargeSync`. -/
theorem test_meets_bargeSync : Happens IsBargeSync (.barrNb { zeroBarge with imm := 0x50F }) (bargeTiny runs) ∧
    Happens IsBargeSync (.barrSc { zeroBarge with x := 0x900 }) (bargeTiny runs) ∧ Happens IsBargeSync (.bsem { zeroBarge with imm := 31 }) (bargeTiny runs) ∧
    Happens IsBargeSync (.bwait { zeroBarge with i := true, imm := 31 }) ((bargeTiny runs).setSem 0 31 1) ∧
    Happens IsBargeSync (.bwait zeroBarge) (bargeTiny runs) ∧ Happens IsBargeSync (.bwaitSc { zeroBarge with x := 0x900, imm := 1 }) (bargeTiny runs) ∧
    Happens IsBargeSync (.bwaitNb { zeroBarge with x := 0x1000, imm := 0x10F }) (bargeTiny runs) ∧
    Happens IsBargeSync (.bwaitNb { zeroBarge with x := 0x1000, imm := 15 }) (bargeTiny { runs with nbWait := some (15, true) }) ∧
    Happens IsBargeSync (.bfence { zeroBarge with x := 0x100 }) (bargeTiny runs) ∧ Happens IsBargeSync (.btok zeroBarge) (bargeTiny { runs with left := 2 }) ∧
    Happens IsBargeSync (.bend zeroBarge) (bargeTiny runs) := by
  have q := fun sc => quiet_released (bargeTiny runs) sc (by rfl) (by rfl) (by rfl) (by rfl) (by rfl)
  exact ⟨⟨_, .barrNb _, by decide, by decide, by decide, .inl rfl, (q _).1⟩,
    ⟨_, .barrSc _ (.scr 0 0) _, by rfl, ⟨.inl rfl, by decide, by rfl⟩, (q _).1, by rfl⟩,
    ⟨_, .bsem _, (q _).1⟩, ⟨_, .bwait _, by decide, by decide, by rfl, by rfl, by decide⟩, ⟨_, .bwaitZero _, by decide, by decide, by rfl⟩,
    ⟨_, .bwaitSc _ (.scr 0 0) noChamber _, ⟨.inl rfl, by decide, by rfl⟩, by rfl, by rfl, by decide, by rfl, by rfl⟩,
    ⟨_, .bwaitNb _, by decide, by rfl, by rfl, by decide⟩,
    ⟨_, .bwaitNbFlipped _ 15, by decide, by rfl, by rfl⟩, ⟨_, .bfence _, by decide, by decide, (q _).2⟩,
    ⟨_, .btok _, by decide, (quiet_released _ _ (by rfl) (by rfl) (by rfl) (by rfl) (by rfl)).1⟩, ⟨_, .bend _, (q _).1⟩⟩

/-- A fault of a barge's instruction in a state. -/
def Faults (i : Instr) (s : State) : Prop := ∃ w c, BargeFaults i w c ∧ w s

/-- `BargeFaultsFound`: each kind once, at the first value that is too much. -/
theorem test_meets_bargeFaults : Faults (.bcmp { zeroBarge with x := 0x1800 }) (bargeTiny runs) ∧ Faults (.bbr { zeroBarge with imm := 4 }) (bargeTiny runs) ∧
    Faults (.bjmp { zeroBarge with i := true, imm := 4 }) (bargeTiny runs) ∧ Faults (.bjmp zeroBarge) (bargeTiny { runs with a := [(0, 4)] }) ∧
    Faults (.bjmp zeroBarge) (bargeTiny { runs with a := [(0, 2 ^ 57)] }) ∧ Faults (.bloop zeroBarge) (bargeTiny runs) ∧
    Faults (.bloop { zeroBarge with i := true, x := 1, imm := 8 })
      (bargeTiny { runs with loops := [⟨1, 0, 16⟩, ⟨1, 0, 16⟩, ⟨1, 0, 16⟩, ⟨1, 0, 16⟩] }) ∧
    Faults (.bqin { zeroBarge with imm := 48 }) (bargeTiny runs) ∧
    Faults (.bqin { zeroBarge with imm := 47 }) ((bargeTiny runs).modGroup 0 (fun _ => {})) ∧
    Faults (.bqout { zeroBarge with imm := 47 }) (bargeTiny runs) ∧ Faults (.barrNb zeroBarge) (bargeTiny runs) ∧ Faults (.barrSc zeroBarge) (bargeTiny runs) ∧
    Faults (.bwait { zeroBarge with x := 0x800 }) (bargeTiny runs) ∧ Faults (.bwaitNb zeroBarge) (bargeTiny runs) ∧
    Faults (.bfence { zeroBarge with x := 0x700 }) (bargeTiny runs) ∧ Faults (.btok zeroBarge) (bargeTiny { runs with left := 1 }) :=
  ⟨⟨_, _, .bcmp _, by decide⟩, ⟨_, _, .bbr _, by decide⟩, ⟨_, _, .bjmp _, by decide⟩, ⟨_, _, .bjmpOdd _, by decide⟩, ⟨_, _, .bjmpFar _, by decide⟩,
    ⟨_, _, .bloop _, by decide⟩, ⟨_, _, .bloopDeep _, by decide⟩, ⟨_, _, .bqin _, by decide⟩, ⟨_, _, .bqinDead _, by decide, by decide, by rfl, by decide, by decide⟩, ⟨_, _, .bqout _, by decide⟩,
    ⟨_, _, .barrNb _, by decide⟩, ⟨_, _, .barrSc _, by decide⟩, ⟨_, _, .bwait _, by decide⟩, ⟨_, _, .bwaitNb _, by decide⟩, ⟨_, _, .bfence _, by decide⟩,
    ⟨_, _, .btok _, by decide⟩⟩

/-- The first `n` stages of the boot have been loaded. -/
def booted (n : Nat) (s : State) : State := s.modMgmt (fun m => { m with boot := List.replicate n { stage := 0, version := 0, digest := [] } })

/-- The management controller runs, and is asked by a requester of the management's MCTP that holds a session. -/
def managedState : State := (booted 2 tiny).modMgmt (fun m => { m with asking := 4, sessions := [4] })

/-- An event of a setting takes its value in a session. -/
def Sets (i : Instr) : Prop := ∃ w n, IsSetting i w n ∧ w managedState

/-- A write under key slot 0 is on its way. -/
def keyBusy : State := managedState.modMem (fun m => { m with
  fwd := [{ op := 1, part := 0, seq := 0, agent := 0, die := 0, addr := 0, bytes := [1#8], key := 1 }] })

/-- `SettingsTaken`: each setting at the last of its values, in a session; without one; and before the controller runs. -/
theorem test_meets_settings : Sets (.setPodIdentifier 1023) ∧ Sets (.setExportSegment 63 1) ∧ Sets (.keySlotLoad 63 (some 1)) ∧ Sets (.keySlotLoad 0 none) ∧
    (∃ w n, IsSetting (.keySlotLoad 0 none) w n ∧ w keyBusy) ∧
    Sets (.ideKeyLoad 2 1) ∧ Sets (.stationKeyLoad 23 0 1) ∧ Sets (.stationKeyLoad 23 1 1) ∧ Sets (.setHdmKey none) ∧ Sets (.setHdmKey (some 63)) ∧
    Sets (.setSpace3Window 2 0 16) ∧ Sets (.setPrivilegeMask 1) ∧ Sets (.setHotThreshold 2047 105) ∧ Sets (.setReserveMarks 15 16 2) ∧
    Sets (.setRetirementThreshold 6 1) ∧ Sets (.setPowerLimit 6400) ∧ (controllerRuns managedState ∧ entitled managedState) ∧
    (controllerRuns (booted 2 tiny) ∧ ¬ entitled (booted 2 tiny)) ∧ ¬ controllerRuns (booted 1 tiny) :=
  ⟨⟨_, _, .podIdentifier _, by decide⟩, ⟨_, _, .exportSegment _ _, by decide⟩,
    ⟨_, _, .keySlot _ _, by decide⟩, ⟨_, _, .keySlot _ _, by decide⟩, ⟨_, _, .keySlotWaits _ _, by decide⟩, ⟨_, _, .ideKey _ _, by decide⟩,
    ⟨_, _, .sendKey _ _, by decide⟩, ⟨_, _, .receiveKey _ _, by decide⟩, ⟨_, _, .hdmKeyNone, trivial⟩,
    ⟨_, _, .hdmKey _, by decide⟩, ⟨_, _, .window _ _ _, by decide⟩, ⟨_, _, .privileges _, trivial⟩,
    ⟨_, _, .threshold _ _, by decide⟩, ⟨_, _, .marks _ _ _, by decide⟩, ⟨_, _, .retirement _ _, by decide⟩,
    ⟨_, _, .powerLimit _, by decide⟩, by unfold controllerRuns entitled; decide, by unfold controllerRuns entitled; decide,
    by unfold controllerRuns; decide⟩

/-- Power samples just seen, newest first, and whether the alarm stands. -/
def sampledState (h : List Nat) (a : Bool) : State := tiny.modMgmt (fun m => { m with history := h, alarm := a })

/-- `PackageEvents`: the alarm rises with the fourth sample above the limit, and falls with the sixteenth below. -/
theorem test_meets_package : Happens IsTrust .reset tiny ∧ Happens IsTrust (.thermalShutdown 0 115) tiny ∧ Happens IsTrust (.powerSample 0) tiny ∧
    Happens IsTrust (.powerSample 6400001) (sampledState [6400001, 6400001, 6400001] false) ∧
    Happens IsTrust (.powerSample 0) (sampledState (List.replicate 15 0) true) ∧ Happens IsTrust (.bootStageLoad 0 1 [7]) tiny ∧
    Happens IsTrust (.negotiateAlgorithms 0 [mlDsa, sha3Hash]) tiny ∧ Happens IsTrust (.negotiateAlgorithms 1 [sha3Hash]) tiny ∧
    Happens IsTrust (.negotiateAlgorithms 5 []) (tiny.modFabric (fun f => { f with podId := some 0 })) ∧
    Happens IsTrust (.getMeasurements 3 5) (tiny.modMgmt (fun m => { m with agreed := [(3, [])] })) ∧ Happens IsTrust (.getMeasurements 1 5) tiny ∧
    Happens IsTrust (.secureSession true true) (booted 2 tiny) ∧ Happens IsTrust (.secureSession true false) tiny := by
  refine ⟨⟨_, .reset, trivial⟩, ⟨_, .shutdown _ _, by decide⟩, ⟨_, .calm _, .inl ⟨rfl, ?_⟩⟩, ⟨_, .alarm _, rfl, ?_⟩, ⟨_, .allClear _, rfl, ?_⟩,
    ⟨_, .stage _ _ _, by decide⟩, ⟨_, .agree _ _, .inl rfl, by decide, by decide⟩, ⟨_, .disagree _ _, .inr (.inl rfl), by decide⟩,
    ⟨_, .disagree _ _, .inr (.inr (by decide)), by decide⟩, ⟨_, .measure _ _, .inl rfl, by rfl⟩, ⟨_, .unmeasured _ _, .inr (.inl rfl), by rfl⟩,
    ⟨_, .session, by unfold controllerRuns; decide⟩, ⟨_, .noSession _ _ (by decide), trivial⟩⟩
  · exact fun h => absurd h.1 (by decide)
  · exact ⟨by decide, by decide⟩
  · exact ⟨by decide, by decide⟩

/-- `PackageEvents`: temperature, droop, the reserve and the ports. -/
theorem test_meets_plant : Happens IsPlant (.coreTemperatureReading 2047 95) tiny ∧ Happens IsPlant (.droopEvent 0) tiny ∧
    Happens IsPlant (.droopQuiet 0) ((tiny.modCore 0 (fun c => { c with drooping := true, lastDroop := 0 })).modSched (fun c => { c with cycles := [(0, 65536)] })) ∧
    Happens IsPlant (.reserveGrow 0) (tiny.modDie 0 (fun d => { d with above := 4096 })) ∧
    Happens IsPlant (.reserveShrink 0) (tiny.modDie 0 (fun d => { d with below := 4096 })) ∧
    Happens IsPlant (.dynamicCapacityExtent 1 true 0 16) tiny ∧ Happens IsPlant (.dynamicCapacityExtent 2 false 0 16) tiny ∧
    Happens IsPlant (.portLinkTraining 2 true 64 16) tiny ∧
    Happens IsPlant (.portLinkTraining 0 false 128 4) (tiny.modHost (fun h => { h with width := [(0, 4)] })) :=
  ⟨⟨_, .reading _ _, by decide⟩, ⟨_, .droop _, by decide⟩, ⟨_, .quiet _, by decide⟩, ⟨_, .grow _, by decide⟩, ⟨_, .shrink _, by decide⟩,
    ⟨_, .extentAdd _ _ _, .inl rfl⟩, ⟨_, .extentRelease _ _ _, .inr rfl⟩, ⟨_, .cxl _ _, by decide⟩, ⟨_, .pcie _ _, by decide⟩⟩

/-- The hub's firmware runs; queue 0 is enabled with a ring of 16 entries, and holds launch 0. -/
def queued : State :=
  ((booted 3 tiny).setQueueReg 0 0 (2 ^ 63 + 4 * 2 ^ 32)).modWork (fun w => { w with order := [(0, [0])] })

/-- `QueueEvents`. -/
theorem test_meets_queueEvents : Happens IsQueueEvent (.queueEnable 63 8 (2 ^ 63 + 16 * 2 ^ 32)) tiny ∧
    Happens IsQueueEvent (.queueEnable 0 8 (2 ^ 63 + 3 * 2 ^ 32)) tiny ∧ Happens IsQueueEvent (.queueDisable 0 8 0) queued ∧
    Happens IsQueueEvent (.qtailWrite 0 8 16) queued ∧ Happens IsQueueEvent (.qtailWrite 0 8 17) queued ∧ Happens IsQueueEvent (.qtailWrite 1 4 17) queued ∧
    Happens IsQueueEvent (.registerWrite (0x80000 + 8 * 4095) 8 1) tiny ∧ Happens IsQueueEvent (.registerWrite 2 4 1) tiny ∧
    Happens IsQueueEvent (.registerWrite 0xFFF8 8 1) tiny ∧ Happens IsQueueEvent (.preEmpt 0 0) (queued.setQueueReg 0 5 (2 ^ 48)) ∧
    Happens IsQueueEvent (.cancel 0 7) queued ∧ Happens IsQueueEvent (.preEmpt 0 0) queued ∧
    Happens IsQueueEvent (.preEmpt 0 0) (queued.modLaunch 0 (fun l => { l with halting := true })) ∧
    Happens IsQueueEvent (.resume 0 0) (queued.modLaunch 0 (fun l => { l with stage := .preempted })) ∧ Happens IsQueueEvent (.resume 0 0) queued ∧
    Happens IsQueueEvent (.cancel 0 0) queued ∧ Happens IsQueueEvent (.qcmdInvalidOp 0 4 0) queued ∧ Happens IsQueueEvent (.unclaimedRequest 0) tiny := by
  refine ⟨⟨_, .enable _ _ _, by decide, .inr rfl, by decide, by decide, by decide, by decide⟩,
    ⟨_, .enableBad _ _ _, by decide, .inr rfl, by decide, by decide, by decide⟩, ⟨_, .disable _ _ _, by decide, .inr rfl, by decide, by decide⟩,
    ⟨_, .tail _ _ _, by decide, .inr rfl, .inr (by decide)⟩, ⟨_, .tailOver _ _ _, by decide, .inr rfl, by decide, by decide⟩,
    ⟨_, .tail _ _ _, by decide, .inl rfl, .inl (by decide)⟩,
    ⟨_, .root _ _ _, by decide⟩, ⟨_, .unsupported _ _ _, fun h => absurd h.2.1 (by decide)⟩, ⟨_, .readOnly _ _ _, .inr rfl, by decide, by decide, by decide⟩,
    ⟨_, .busy _ 1 _ _ (.inl ⟨rfl, rfl⟩), by decide⟩,
    ⟨_, .noLaunch _ 3 _ _ (.inr (.inr ⟨rfl, rfl⟩)), by unfold commandFree hubRuns; decide, by decide⟩,
    ⟨_, .preEmpt _ _ 0, by unfold commandFree hubRuns; decide, by decide, by unfold stopping; decide⟩,
    ⟨_, .preEmptLate _ _ 0, by unfold commandFree hubRuns; decide, by decide, by unfold stopping; decide⟩,
    ⟨_, .resume _ _ 0, by unfold commandFree hubRuns; decide, by decide, by decide⟩,
    ⟨_, .resumeLate _ _ 0, by unfold commandFree hubRuns; decide, by decide, by decide⟩,
    ⟨_, .cancel _ _ 0, by unfold commandFree hubRuns; decide, by decide⟩, ⟨_, .invalidOp _ _ _, by unfold commandFree hubRuns; decide, by decide⟩,
    ⟨_, .unclaimed _, trivial⟩⟩

/-- `QueueEvents`: the registers of an enabled and of a disabled queue, the mailbox, and a command before the hub's firmware runs. -/
theorem test_meets_registers : Happens IsQueueEvent (.registerWrite (queueOff 63 0 4 true) 4 5) tiny ∧
    Happens IsQueueEvent (.registerWrite (queueOff 0 0 8 true) 8 (2 ^ 63 + 7 * 2 ^ 37)) queued ∧
    Happens IsQueueEvent (.registerWrite (queueOff 63 1 4 false) 4 64) tiny ∧ Happens IsQueueEvent (.registerWrite (queueOff 0 2 8 true) 8 64) queued ∧
    Happens IsQueueEvent (.registerWrite (queueOff 63 7 4 true) 4 1) tiny ∧ Happens IsQueueEvent (.registerWrite (mailboxOff 31 8 true) 8 1) (tiny.setMail 0x18 1) ∧
    Happens IsQueueEvent (.registerWrite (mailboxOff 31 4 true) 4 1) tiny ∧
    Happens IsQueueEvent (.registerWrite (mailboxOff 3 4 false) 4 1) (tiny.setMail 0 (9 * 2 ^ 56)) ∧
    Happens IsQueueEvent (.registerWrite (mailboxOff 3 8 true) 8 1) (tiny.setMail 0 (10 * 2 ^ 56)) ∧
    Happens IsQueueEvent (.registerWrite (mailboxOff 3 4 true) 4 1) tiny ∧ Happens IsQueueEvent (.registerWrite (mailboxOff 3 8 true) 8 2) tiny ∧
    Happens IsQueueEvent (.cancel 63 0) (booted 2 tiny) :=
  ⟨⟨_, .config _ _ _, by decide, .inl rfl, by decide, by decide⟩, ⟨_, .priority _ _ _, by decide, .inr rfl, by decide, by decide⟩,
    ⟨_, .base _ _ _ _ _, by decide, .inl rfl, .inl rfl, by decide⟩, ⟨_, .baseHeld _ _ _ _ _, by decide, .inr rfl, .inr rfl, by decide⟩,
    ⟨_, .reported _ _ _ _ _, by decide, .inr (.inr rfl), .inl rfl⟩, ⟨_, .mailHeld _ _ _ _, by decide, .inr rfl, by unfold mailboxBusy; decide⟩,
    ⟨_, .mailWrite _ _ _ _, by decide, by decide, .inl rfl, by unfold mailboxBusy; decide⟩,
    ⟨_, .mailGo _ _ _, .inl rfl, by unfold mailboxBusy; decide, by unfold mailboxGoes; decide, by decide, by decide⟩,
    ⟨_, .mailNoCode _ _ _, .inr rfl, by unfold mailboxBusy; decide, by unfold mailboxGoes; decide, by decide⟩,
    ⟨_, .mailRest _ _ _, .inl rfl, by unfold mailboxBusy; decide, by unfold mailboxGoes; decide⟩,
    ⟨_, .mailRest _ _ _, .inr rfl, by unfold mailboxBusy; decide, by unfold mailboxGoes; decide⟩,
    ⟨_, .notTaken _ 3 _ _ (.inr (.inr ⟨rfl, rfl⟩)), by decide, by unfold hubRuns; decide⟩⟩

/-- Team 0 in debug stop, and a command for it in the mailbox; group 0, operand name `n`. -/
def mailed (code n : Nat) : State :=
  (((queued.modTeam 0 (fun t => { t with debug := true })).modGroup 0 (fun g => { g with mode := .debugStop })).setMail 0 (code * 2 ^ 56)
    |>.setMail 0x18 1).setMail 0x10 n

/-- The same command while the team runs. -/
def mailedRunning (code : Nat) : State := (queued.setMail 0 (code * 2 ^ 56)).setMail 0x18 1

/-- `DebugCommands`: each command on a team that stands; registers at the first and last names of each class. -/
theorem test_meets_debug : Happens IsDebug .halt (mailed 1 0) ∧ Happens IsDebug .halt (mailedRunning 1) ∧
    Happens IsDebug .halt ((mailed 1 0).setMail 0 (2 ^ 56 + 9)) ∧ Happens IsDebug .debugResume (mailed 2 0) ∧ Happens IsDebug .readRegister (mailed 3 1535) ∧
    Happens IsDebug .readRegister (mailed 3 1599) ∧ Happens IsDebug .readRegister (mailed 3 1670) ∧ Happens IsDebug .writeRegister (mailed 4 0) ∧
    Happens IsDebug .writeRegister { mailed 4 1 with ops := waiting.ops } ∧ Happens IsDebug .forceWrite (mailed 5 1536) ∧
    Happens IsDebug .readSpecial (mailed 6 96) ∧ Happens IsDebug .deliver (mailed 7 0) ∧ Happens IsDebug .setBreakpoint (mailed 8 (2 ^ 59)) ∧
    Happens IsDebug .step (mailed 9 0) ∧ Happens IsDebug .step ((mailed 9 0).modTeam 0 (fun t => { t with stepping := true })) := by
  refine ⟨⟨_, .halted 0, ⟨by decide, by decide⟩, by decide, by decide⟩, ⟨_, .halt 0, ⟨by decide, by decide⟩, by decide, by decide, by decide, by decide⟩,
    ⟨_, .noTeam, ⟨by decide, by decide⟩, by decide⟩, ⟨_, .resume 0, ⟨by decide, by decide⟩, by unfold stoppedTeam; decide⟩,
    ⟨_, .readVector 0 0 1535, ⟨by decide, by decide⟩, by unfold stoppedRegister stoppedTeam; decide, by decide⟩,
    ⟨_, .readScalar 0 0 1599, ⟨by decide, by decide⟩, by unfold stoppedRegister stoppedTeam; decide, by decide, by decide⟩,
    ⟨_, .readPredicate 0 0 1670, ⟨by decide, by decide⟩, by unfold stoppedRegister stoppedTeam; decide, by decide⟩,
    ⟨_, .write 0 0 0, ⟨by decide, by decide⟩, by unfold stoppedRegister stoppedTeam; decide, by decide⟩,
    ⟨_, .writeBusy 0 0 1, ⟨by decide, by decide⟩, by unfold stoppedRegister stoppedTeam; decide, by decide⟩,
    ⟨_, .force 0 0 1536, ⟨by decide, by decide⟩, by unfold stoppedRegister stoppedTeam; decide⟩,
    ⟨_, .special 0 0 96 64, ⟨by decide, by decide⟩, by unfold stoppedTeam; decide, by decide, by decide, by decide⟩,
    ⟨_, .deliver 0, ⟨by decide, by decide⟩, by unfold stoppedTeam; decide⟩, ⟨_, .breakpoint 0, ⟨by decide, by decide⟩, by unfold stoppedTeam; decide⟩,
    ⟨_, .step 0, ⟨by decide, by decide⟩, by unfold stoppedTeam; decide, by decide⟩, ⟨_, .stepped 0, ⟨by decide, by decide⟩, by decide, by decide, by decide⟩⟩

/-- `DebugCommands`, refused: no such team, one in a handler, one that runs. -/
theorem test_meets_refused : (∃ i c w st, DebugRefused i c w st ∧ asked c ((mailed 2 0).setMail 0 (2 * 2 ^ 56 + 9)) ∧ w ((mailed 2 0).setMail 0 (2 * 2 ^ 56 + 9))) ∧
    (∃ i c w st, DebugRefused i c w st ∧ asked c ((mailedRunning 8).modGroup 0 (fun g => { g with mode := .handler })) ∧
      w ((mailedRunning 8).modGroup 0 (fun g => { g with mode := .handler }))) ∧
    (∃ i c w st, DebugRefused i c w st ∧ asked c (mailedRunning 3) ∧ w (mailedRunning 3)) :=
  ⟨⟨_, _, _, _, .noName .debugResume 2 (by decide), ⟨by decide, by decide⟩, by decide⟩,
    ⟨_, _, _, _, .handler .setBreakpoint 8 0 (by decide), ⟨by decide, by decide⟩, by decide, by decide⟩,
    ⟨_, _, _, _, .running .readRegister 3 0 (by decide), ⟨by decide, by decide⟩, by decide, by decide, by decide⟩⟩

/-- Granule of the first offset of the host's memory flips, to the host or not; the host holds its first line. -/
def hostState (flips : Bool) : State :=
  tiny.modHost (fun h => { h with
    flips := if flips then [{ granule := granuleOf (hdmAddr 0), toHost := true }] else [], bias := [(granuleOf (hdmAddr 0), true)]
    copies := [(hdmAddr 0 / 64, { data := 0, dirty := true })] })

/-- A `.ga` store stands pending on that line. -/
def hostGa : State := tiny.modMem (fun m => { m with
  gaPend := [{ op := 1, part := 0, seq := 0, agent := 0, die := 0, addr := hdmAddr 0, bytes := [1#8], key := 0 }] })

/-- `HostEvents`: reads and writes of the first and the last line of device memory, now and later, and what other agents ask of pooled and
host memory. -/
theorem test_meets_host : Happens IsHostEvent (.hostHdmRead 0) tiny ∧ Happens IsHostEvent (.hostHdmRead 0) (tiny.modHost (fun h => { h with hdmKey := 1 })) ∧
    Happens IsHostEvent (.hostHdmRead 0) (tiny.modMem (fun m => { m with sectors := [(hdmAddr 0 / 32, .bad)] })) ∧
    Happens IsHostEvent (.hostHdmRead 0) (hostState true) ∧
    Happens IsHostEvent (.hostHdmWrite (432 * 2 ^ 30 - 64) 1 1) tiny ∧ Happens IsHostEvent (.hostHdmWrite 0 1 1) (hostState true) ∧
    Happens IsHostEvent (.hostHdmRead 64) hostGa ∧ Happens IsHostEvent (.hostHdmWrite 0 1 1) hostGa ∧
    Happens IsHostEvent (.hostWriteBack 0 1) (hostState false) ∧
    Happens IsHostEvent (.bisnpReceived 1 0 (some 1)) (tiny.modHost (fun h => { h with windows := [(1, 0, 1)] })) ∧
    Happens IsHostEvent (.hostSnoop (4 * 2 ^ 48) true (some 1)) tiny := by
  have l : ∀ (s : State) (o : Nat), o % 64 = 0 → o < 432 * 2 ^ 30 → hostCxl s = true → hostLine s o := fun _ _ a b c => ⟨a, b, c⟩
  exact ⟨⟨_, .read _ _ _, ⟨l _ _ (by decide) (by decide) (by decide), by decide, by rfl⟩, by decide, by rfl⟩,
    ⟨_, .readNoKey _, ⟨l _ _ (by decide) (by decide) (by decide), by decide, by rfl⟩, by decide⟩,
    ⟨_, .readFails _ _, ⟨l _ _ (by decide) (by decide) (by decide), by decide, by rfl⟩, by decide, by rfl⟩,
    ⟨_, .readLater _, l _ _ (by decide) (by decide) (by decide), by decide⟩,
    ⟨_, .write _ _ _, l _ _ (by decide) (by decide) (by decide), by decide, by rfl⟩,
    ⟨_, .writeLater _ _ _, l _ _ (by decide) (by decide) (by decide), by decide⟩,
    ⟨_, .gaHolds 64 _ (.inl rfl), l _ _ (by decide) (by decide) (by decide), by decide, by unfold noGa; decide⟩,
    ⟨_, .gaHolds 0 _ (.inr ⟨1, 1, rfl⟩), l _ _ (by decide) (by decide) (by decide), by decide, by unfold noGa; decide⟩,
    ⟨_, .writeBack _ _, l _ _ (by decide) (by decide) (by decide), by decide, by decide, by rfl⟩,
    ⟨_, .bisnp _ _ _, .inl rfl, by decide, by decide, by decide, by rfl⟩, ⟨_, .snoop _ _ _ _ _, by decide, by decide, by rfl, by rfl⟩⟩

/-! ### Launches -/

/-- A load answers with the bytes given. -/
def loadIs (s : State) (g : Agent) (va n : Nat) (bs : List Byte) : Bool :=
  match s.load g va n with
  | .ok x _ => decide (x = bs)
  | _ => false

theorem load_is {s : State} {g : Agent} {va n : Nat} {bs : List Byte} (h : loadIs s g va n bs = true) : ∃ t, s.load g va n = .ok bs t := by
  unfold loadIs at h
  split at h
  · rename_i x t h1
    exact ⟨t, by rw [h1, of_decide_eq_true h]⟩
  · cases h

/-- A load fails. -/
def loadFails (s : State) (g : Agent) (va n : Nat) : Bool :=
  match s.load g va n with
  | .fail _ _ => true
  | _ => false

theorem load_fails {s : State} {g : Agent} {va n : Nat} (h : loadFails s g va n = true) : ∃ c a, s.load g va n = .fail c a := by
  unfold loadFails at h
  split at h
  · rename_i c a h1
    exact ⟨c, a, h1⟩
  · cases h

/-- A store is performed, or fails. -/
def storeIs (s : State) (g : Agent) (va : Nat) (bs : List Byte) (good : Bool) : Bool :=
  match s.store g va bs with
  | .ok _ _ => good
  | .fail _ _ => !good
  | .wait => false

theorem store_is {s : State} {g : Agent} {va : Nat} {bs : List Byte} (h : storeIs s g va bs true = true) : ∃ t, s.store g va bs = .ok () t := by
  unfold storeIs at h
  split at h
  · rename_i x t h1
    exact ⟨t, h1⟩
  · cases h
  · cases h

theorem store_fails {s : State} {g : Agent} {va : Nat} {bs : List Byte} (h : storeIs s g va bs false = true) :
    ∃ c a, s.store g va bs = .fail c a := by
  unfold storeIs at h
  split at h
  · cases h
  · rename_i c a h1
    exact ⟨c, a, h1⟩
  · cases h

/-- `queued`, with the page of `tiny` mapped for the command processor too. -/
def hub : State := queued.modXlat (fun x => { x with tlb := { placedLeaf with owner := 8192 } :: x.tlb })

/-- Bytes put in memory by the command processor. -/
def withBytes (s : State) (va : Nat) (bs : List Byte) : State :=
  match s.store (hubAgent 0 0) va bs with
  | .ok _ t => t
  | _ => s

/-- A launch record of one cluster of one team of one group, with `w6` as its doubleword of edges. -/
def launchRecord (version w6 : Nat) : List Byte :=
  toBytes (version * 2 ^ 56 + 2 ^ 40 + 2 ^ 36 + 1) 8 ++ toBytes 0 8 ++ toBytes (2 ^ 52 + 2 ^ 46) 8 ++ toBytes 0 8 ++ toBytes 0 8 ++ toBytes 0 8 ++
    toBytes w6 8 ++ toBytes 0 8

/-- Queue 0 has read the ring entry of a record at 0x1000. -/
def taking (version w6 : Nat) : State :=
  (withBytes hub 0x1000 (launchRecord version w6)).modWork (fun w => { w with taking := [(0, 0x1001)] })

/-- A ring entry waits at address 0. -/
def ringState (s : State) : State := s.setQueueReg 0 3 1

theorem test_ring_reads : loadIs (ringState hub) (queueAgent (ringState hub) 0) (ringEntry (ringState hub) 0) 8 (List.replicate 8 0#8) = true := by decide +kernel
theorem test_ring_fails : loadFails (ringState queued) (queueAgent (ringState queued) 0) (ringEntry (ringState queued) 0) 8 = true := by decide +kernel
theorem test_take_reads : loadIs (taking 1 0) (queueAgent (taking 1 0) 0) 0x1000 64 (launchRecord 1 0) = true := by decide +kernel
theorem test_take_bad : loadIs (taking 2 0) (queueAgent (taking 2 0) 0) 0x1000 64 (launchRecord 2 0) = true := by decide +kernel

/-- A record that may be taken. -/
theorem record_fits {s : State} (w6 : Nat) (a : queueAsid s 0 = 0) (h : w6 = 0 ∨ w6 = 0x2001 ∨ w6 = 0x20001) :
    RecordFits (launchOf s 0 (launchRecord 1 w6)) (dword (launchRecord 1 w6) 0 / 2 ^ 56 % 2 ^ 8) := by
  unfold launchOf
  rw [a]
  rcases h with h | h | h <;> subst h <;>
    exact ⟨by rfl, by constructor <;> decide, by constructor <;> decide, by decide, by constructor <;> decide, by decide, by constructor <;> decide,
      by constructor <;> decide, by decide, by decide, by decide, by decide, by decide, by decide⟩

/-- `LaunchEvents`: a ring entry and a record, read and not. -/
theorem test_meets_take : Happens IsLaunch (.ringEntryRead 0) (ringState hub) ∧ Happens IsLaunch (.ringEntryRead 0) (ringState queued) ∧
    Happens IsLaunch (.launchTake 0) (taking 1 0) ∧ Happens IsLaunch (.launchTake 0) (taking 2 0) := by
  obtain ⟨t1, h1⟩ := load_is test_ring_reads
  obtain ⟨c, a, h2⟩ := load_fails test_ring_fails
  obtain ⟨t3, h3⟩ := load_is test_take_reads
  obtain ⟨t4, h4⟩ := load_is test_take_bad
  exact ⟨⟨_, .ring 0 _ t1, ⟨by unfold hubRuns; decide +kernel, by decide, by decide, by decide, by decide⟩, h1⟩, ⟨_, .ringFails 0 c a, ⟨by unfold hubRuns; decide +kernel, by decide, by decide, by decide, by decide⟩, h2⟩,
    ⟨_, .take 0 _ t3, ⟨by unfold hubRuns; decide +kernel, by decide +kernel, h3⟩, record_fits 0 (by decide +kernel) (.inl rfl), by rfl⟩,
    ⟨_, .takeBad 0 _ t4, ⟨by unfold hubRuns; decide +kernel, by decide +kernel, h4⟩, fun h => absurd h.version (by decide)⟩⟩

/-- The queue 0's launch waits for its dispatch; its trap control block is at 0x3000. -/
def waitsDispatch (l : Launch) : State := (withBytes hub 0x3010 (toBytes 5 8)).setQueueReg 0 2 0x3000 |>.setLaunch 0 l

/-- A launch that has not begun. -/
def fresh : Launch := { placedLaunch with stage := .queued, begun := false, gridsync := false, next := 0 }

/-- The bytes of a trap control block of slots of 5. -/
def block : List Byte := List.replicate 16 0#8 ++ toBytes 5 8 ++ List.replicate 40 0#8

theorem test_block_reads : loadIs (waitsDispatch fresh) (hubAgent 0 0) 0x3000 64 block = true := by decide +kernel
theorem test_block_fails : loadFails (queued.setLaunch 0 fresh) (hubAgent 0 0) 0 64 = true := by decide +kernel
theorem test_short_reads : loadIs (hub.setLaunch 0 fresh) (hubAgent 0 0) 0 64 (List.replicate 64 0#8) = true := by decide +kernel

/-- `LaunchEvents`: each way a dispatch begins or fails. -/
theorem test_meets_dispatch : Happens IsLaunch (.dispatchBegin 0) (waitsDispatch fresh) ∧
    Happens IsLaunch (.dispatchBegin 0) (queued.setLaunch 0 { fresh with edgeBad := true }) ∧ Happens IsLaunch (.dispatchBegin 0) (queued.setLaunch 0 fresh) ∧
    Happens IsLaunch (.dispatchBegin 0) (hub.setLaunch 0 fresh) := by
  obtain ⟨t1, h1⟩ := load_is test_block_reads
  obtain ⟨c, a, h2⟩ := load_fails test_block_fails
  obtain ⟨t3, h3⟩ := load_is test_short_reads
  exact ⟨⟨_, .dispatch 0 0 _ t1, ⟨by decide +kernel, by decide +kernel, by decide +kernel, by decide +kernel, by decide +kernel⟩, by decide +kernel, h1,
      by decide, by decide +kernel⟩,
    ⟨_, .badEdge 0 0, ⟨by decide, by decide, by decide, by decide, by decide⟩, by decide⟩,
    ⟨_, .noBlock 0 0 c a, ⟨by decide, by decide, by decide, by decide, by decide⟩, by decide, h2⟩,
    ⟨_, .shortSlot 0 0 _ t3, ⟨by decide, by decide, by decide, by decide, by decide⟩, by decide, h3, by decide⟩⟩

/-- A launch that dispatches as a gang. -/
def gangOf (n : Nat) : State := waitsDispatch { fresh with gridsync := true, clusters := n }

/-- The block is read, and there is room, or none. -/
def gangFits (n : Nat) (room : Bool) : Bool :=
  match (gangOf n).load (hubAgent 0 0) 0x3000 64 with
  | .ok bs t => decide (bs = block) && decide (n ≤ gridRoom (begins (gangOf n) 0 0 bs t) ((gangOf n).launch 0)) == room
  | _ => false

theorem gang_fits {n : Nat} {b : Bool} (h : gangFits n b = true) : ∃ t, (gangOf n).load (hubAgent 0 0) 0x3000 64 = .ok block t ∧
    decide (n ≤ gridRoom (begins (gangOf n) 0 0 block t) ((gangOf n).launch 0)) = b := by
  unfold gangFits at h
  split at h
  · rename_i bs t h1
    simp only [Bool.and_eq_true, decide_eq_true_eq, beq_iff_eq] at h
    obtain ⟨h2, h3⟩ := h
    subst h2
    exact ⟨t, h1, h3⟩
  · cases h

theorem test_gang_fits : gangFits 1 true = true := by decide +kernel
theorem test_gang_big : gangFits (2 ^ 24) false = true := by decide +kernel

/-- `LaunchEvents`: a gang that fits and one that does not. -/
theorem test_meets_gang : Happens IsLaunch (.dispatchBegin 0) (gangOf 1) ∧ Happens IsLaunch (.dispatchBegin 0) (gangOf (2 ^ 24)) := by
  obtain ⟨t1, h1, k1⟩ := gang_fits test_gang_fits
  obtain ⟨t2, h2, k2⟩ := gang_fits test_gang_big
  exact ⟨⟨_, .gang 0 0 _ t1, ⟨by decide +kernel, by decide +kernel, by decide +kernel, by decide +kernel, by decide +kernel⟩, by decide +kernel, h1,
      by decide, by decide +kernel, of_decide_eq_true k1⟩,
    ⟨_, .tooBig 0 0 _ t2, ⟨by decide +kernel, by decide +kernel, by decide +kernel, by decide +kernel, by decide +kernel⟩, by decide +kernel, h2,
      by decide, by decide +kernel, Nat.lt_of_not_le (of_decide_eq_false k2)⟩⟩

/-- Launch 0 has an edge, on a launch that has completed with a status. -/
def edged (st : Nat) : State := tiny.setLaunch 0 { fresh with edgeList := [{ status := st, regions := [(0, 128)] }] }

/-- A launch with a cluster to place. -/
def placing : State := queued.setLaunch 0 { placedLaunch with gridsync := false, next := 0 }

/-- The only team has exited, and the launch is at the head of its queue. -/
def ended (s : State) : State := s.modTeam 0 (fun t => { t with exited := true })

theorem test_done_writes : storeIs (ended hub) (hubAgent 0 0) 0 (completion placedLaunch) true = true := by decide +kernel
theorem test_done_fails : storeIs (ended queued) (hubAgent 0 0) 0 (completion placedLaunch) false = true := by decide +kernel

/-- `LaunchEvents`: edges, a cluster placed and released, the end of a launch. -/
theorem test_meets_launch : Happens IsLaunch (.edgeSatisfy 0 0) (edged 0) ∧ Happens IsLaunch (.edgeSatisfy 0 0) (edged 3) ∧
    Happens IsLaunch (.clusterRequest 0 3 0) placing ∧ Happens IsLaunch (.clusterRelease 0) (ended tiny) ∧
    Happens IsLaunch (.launchComplete 0) (ended hub) ∧ Happens IsLaunch (.launchComplete 0) (ended queued) := by
  obtain ⟨t, h1⟩ := store_is test_done_writes
  obtain ⟨c, a, h2⟩ := store_fails test_done_fails
  exact ⟨⟨_, .edge 0 0 _, ⟨by decide, by decide, by decide, by rfl, by rfl⟩, by decide⟩,
    ⟨_, .edgeBad 0 0 3 _, ⟨by decide, by decide, by decide, by rfl, by rfl⟩, by decide⟩,
    ⟨_, .request 0 3 0 0 0 0, by decide +kernel, by decide +kernel, by decide +kernel⟩,
    ⟨_, .release 0, by decide, by decide, by decide, by unfold noExports; decide⟩,
    ⟨_, .complete 0 t, by decide, h1⟩, ⟨_, .completeFails 0 c a, by decide, h2⟩⟩

theorem test_edges_read : (match (taking 1 0x2001).load (queueAgent (taking 1 0x2001) 0) 0x1000 64 with
    | .ok bs t => decide (bs = launchRecord 1 0x2001) && loadIs t (queueAgent (taking 1 0x2001) 0) 0x2000 144 (List.replicate 144 0#8)
    | _ => false) = true := by decide +kernel
theorem test_edges_fail : (match (taking 1 0x20001).load (queueAgent (taking 1 0x20001) 0) 0x1000 64 with
    | .ok bs t => decide (bs = launchRecord 1 0x20001) && loadFails t (queueAgent (taking 1 0x20001) 0) 0x20000 144
    | _ => false) = true := by decide +kernel

/-- Its edge table has nine regions in its first entry. -/
def nineRegions : State := (withBytes (taking 1 0x2001) 0x2000 (toBytes (9 * 2 ^ 22) 8)).modWork (fun w => { w with taking := [(0, 0x1001)] })

theorem test_edges_bad : (match nineRegions.load (queueAgent nineRegions 0) 0x1000 64 with
    | .ok bs t => decide (bs = launchRecord 1 0x2001) &&
      loadIs t (queueAgent nineRegions 0) 0x2000 144 (toBytes (9 * 2 ^ 22) 8 ++ List.replicate 136 0#8)
    | _ => false) = true := by decide +kernel
theorem test_take_fails : loadFails (queued.modWork (fun w => { w with taking := [(0, 0x1001)] }))
    (queueAgent (queued.modWork (fun w => { w with taking := [(0, 0x1001)] })) 0) 0x1000 64 = true := by decide +kernel

/-- `LaunchEvents`: a record that cannot be read, and one with too many regions. -/
theorem test_meets_take_bad : Happens IsLaunch (.launchTake 0) (queued.modWork (fun w => { w with taking := [(0, 0x1001)] })) ∧
    Happens IsLaunch (.launchTake 0) nineRegions := by
  obtain ⟨c, a, h1⟩ := load_fails test_take_fails
  refine ⟨⟨_, .takeFails 0 c a, by unfold hubRuns; decide +kernel, by decide, h1⟩, ?_⟩
  have h := test_edges_bad
  split at h
  · rename_i bs t h1
    simp only [Bool.and_eq_true, decide_eq_true_eq] at h
    obtain ⟨h2, h3⟩ := h
    subst h2
    obtain ⟨u, h4⟩ := load_is h3
    exact ⟨_, .takeEdgesBad 0 _ _ t u, ⟨by unfold hubRuns; decide +kernel, by decide +kernel, h1⟩, record_fits 0x2001 (by decide +kernel) (by decide), by decide +kernel, h4, rfl⟩
  · cases h

/-- `LaunchEvents`: a record with an edge table, in memory and not. -/
theorem test_meets_edges : Happens IsLaunch (.launchTake 0) (taking 1 0x2001) ∧ Happens IsLaunch (.launchTake 0) (taking 1 0x20001) := by
  constructor
  · have h := test_edges_read
    split at h
    · rename_i bs t h1
      simp only [Bool.and_eq_true, decide_eq_true_eq] at h
      obtain ⟨h2, h3⟩ := h
      subst h2
      obtain ⟨u, h4⟩ := load_is h3
      exact ⟨_, .takeEdges 0 _ _ t u _, ⟨by unfold hubRuns; decide +kernel, by decide +kernel, h1⟩, record_fits 0x2001 (by decide +kernel) (by decide), by decide +kernel, h4, rfl⟩
    · cases h
  · have h := test_edges_fail
    split at h
    · rename_i bs t h1
      simp only [Bool.and_eq_true, decide_eq_true_eq] at h
      obtain ⟨h2, h3⟩ := h
      subst h2
      obtain ⟨c, a, h4⟩ := load_fails h3
      exact ⟨_, .takeEdgesFail 0 c a _ t, ⟨by unfold hubRuns; decide +kernel, by decide +kernel, h1⟩, record_fits 0x20001 (by decide +kernel) (by decide), by decide +kernel, h4⟩
    · cases h

/-! ### Landings -/

/-- `tiny` after an instruction has been issued; the operation is number 1. -/
def issued (i : Instr) : State := after (exec i tiny)

/-- One operation, number 1, is outstanding. -/
def flyOp (o : Op) : State := { tiny with ops := [(1, o)] }

/-- The first instruction of `small` has a breakpoint. -/
def broken : State := (small [0x02043704] id).modTeam 0 (fun t => { t with breaks := [(0, 1)] })

/-- What group 0 finds there. -/
def brokenAt : Broken :=
  let s := match runHeaders 0 headerFuel (broken.modGroup 0 (fun g => { g with picks := [] })) 0 0x0FF00000 0 with
    | .ready _ _ _ t => t
    | _ => broken
  { pc := 0, lanes := Lanes.all, rest := [], va := 0, hdr := 0x0FF00000, word := 0x02043704, enc := (Instr.iadd base3).enc, found1 := s
    decoded := s, own := {} }

theorem test_first : tiny.sched.nextId = 1 := by decide

/-- The quadrant of group 0 has issued in this cycle, and nothing selected is left. -/
def issuedCore : State := (tinyWith (fun g => { g with picks := [] })).modCore 0 (fun c => { c with served := [0, 1, 2, 3] })

/-- `Landings`: flags, and loads and atomics of the scratchpads. -/
theorem test_meets_landings : Happens IsLanding (.racqGrant 0) tiny ∧ Happens IsLanding (.mwaitDeadline 0 11) issuedCore ∧
    Happens IsLanding (.specialFunctionLand 1) (issued (.frcpX ext3)) ∧ Happens IsLanding (.shuffleLand 1) (issued (.shfX pairX)) ∧
    Happens IsLanding (.scratchpadLoadLand 1) (issued (.ldsX pairX)) ∧ Happens IsLanding (.scratchpadAtomicLand 1) (issued (.atms pairX)) ∧
    Happens IsLanding (.queueReadLand 1) (flyOp { kind := .queueRead, x := 31, flag := some 0 }) ∧
    Happens IsLanding (.queueReadLand 1) ((flyOp { kind := .queueRead, x := 48, flag := some 0 }).setQueue 0 48 [7]) ∧
    Happens IsLanding (.postedWriteLand 1 31) (issued (.stc pairX)) ∧
    Happens IsLanding (.cputIncrement 1 0) (flyOp { kind := .posted, major := 0x15, idx := 2, active := 1, performed := [0] }) ∧
    Happens IsLanding (.longLatencyFlag 0 0)
      ((flyOp { kind := .load, flag := some 0 }).modSched (fun c => { c with cycles := [(0, 65)] })) ∧
    Happens IsLanding (.watchdog 0) ((tinyWith (fun g => { g with idle := 2 ^ 20 })).setLaunch 0 { placedLaunch with wdog := 20 }) ∧
    Happens IsLanding (.addressBreakpoint 0) broken ∧ Happens IsLanding (.handlerEntry 0) haltedState := by
  refine ⟨⟨_, .grant _, trivial⟩, ⟨_, .deadline _ _, .inl rfl, by decide, by decide⟩, ⟨_, .special _, by decide, by decide⟩,
    ⟨_, .shuffle _, ⟨by decide, by decide⟩, by decide⟩, ⟨_, .load _, by decide, by decide⟩, ⟨_, .atomic _, by decide, by decide⟩,
    ⟨_, .taken _, ⟨by decide, by decide⟩, by decide⟩, ⟨_, .entry _ 7 [], ⟨by decide, by decide⟩, by decide, by decide, ?_, by decide⟩,
    ⟨_, .posted _ _, by decide, by decide⟩, ⟨_, .cput _ _, ⟨by decide, by decide⟩, by decide, by decide, by decide, by decide, by decide⟩,
    ⟨_, .longLatency _ _, by decide, by decide⟩, ⟨_, .watchdog _, by decide⟩, ⟨_, .breakpoint 0 brokenAt, by rfl, by decide, ⟨_, by rfl⟩, by decide, by decide, by decide, by rfl, by decide, by rfl, by decide, by decide +kernel⟩,
    ⟨_, .handler _, by decide, by decide, by decide, by decide, by decide, by decide, .inl rfl⟩⟩
  intro p h
  have h2 : p = (1, { kind := .queueRead, x := 48, flag := some 0 }) := List.mem_singleton.mp h
  subst h2
  intro h3
  exact absurd h3 (by decide)

/-- `Landings`: operations that were held, and engine operations with every part home. -/
theorem test_meets_engine : Happens IsLanding (.heldOperationStart 1) (flyOp { kind := .bargeRun }) ∧
    Happens IsLanding (.heldOperationStart 1) (flyOp { kind := .global, held := true, tok := some 0 }) ∧
    Happens IsLanding (.globalAccessRetire 1) (flyOp { kind := .global, major := 0x17, active := 1, performed := [0], tok := some 0 }) ∧
    Happens IsLanding (.globalAccessRetire 1) (flyOp { kind := .global, major := 0x17, idx := 1, active := 1, performed := [0], homed := [0], tok := some 0 }) ∧
    Happens IsLanding (.globalAccessRetire 1) (flyOp { kind := .clean, active := 1, tok := some 0 }) ∧
    Happens IsLanding (.globalAccessRetire 1) (flyOp { kind := .icinv, tok := some 0 }) ∧
    Happens IsLanding (.dieScratchpadRetire 1) (flyOp { kind := .dieScratch, major := 0x16, active := 1, performed := [0], tok := some 0 }) ∧
    Happens IsLanding (.chamberArrive 1) (flyOp { kind := .charr, f := some chamX, addr := [(0, 0)], y := 1 }) ∧
    Happens IsLanding (.ackLost 1) ((flyOp { kind := .global, major := 0x17, idx := 1, f := some { zeroForm with mods := 64 }, active := 1, tok := some 0 }).modSched
      (fun c => { c with cycles := [(0, 2 ^ 20)] })) ∧
    Happens IsLanding (.ackLost 1) ((flyOp { kind := .ratom, major := 0x25, idx := 2, f := some { zeroForm with mods := 64 }, active := 1, tok := some 0 }).modSched
      (fun c => { c with cycles := [(0, 2 ^ 20)] })) := by
  refine ⟨⟨_, .run _, by decide, by decide⟩, ⟨_, .held _, by decide, by decide, by decide, by decide⟩,
    ⟨_, .access _, ⟨by decide, by decide, by decide⟩, by decide, by decide, .inl (by decide)⟩,
    ⟨_, .access _, ⟨by decide, by decide, by decide⟩, by decide, by decide, .inr (by decide)⟩,
    ⟨_, .lines _ _, ⟨by decide, by decide, by decide⟩, .inl rfl, by rfl⟩, ⟨_, .code _, ⟨by decide, by decide, by decide⟩, by decide⟩,
    ⟨_, .die _, ⟨by decide, by decide⟩, ⟨by decide, by decide, by decide⟩, by decide⟩,
    ⟨_, .chamber _ (.scr 0 0) _, ⟨by decide, by decide⟩, by decide, ?_, by decide, by rfl⟩,
    ⟨_, .lost _, ⟨by decide, by decide⟩, by decide, by decide, by decide, by decide⟩,
    ⟨_, .lostFar _, .inr ⟨by decide, by decide⟩, by decide, by decide, by decide, by decide⟩⟩
  intro p h
  have h2 : p = (1, { kind := .charr, f := some chamX, addr := [(0, 0)], y := 1 }) := List.mem_singleton.mp h
  subst h2
  intro h3
  exact absurd h3 (by decide)

/-! ### Memory and units -/

/-- A store of core 0 is on its way, or bound pending. -/
def aStore (op : Nat) : Store := { op := op, part := 0, seq := 0, agent := 0, die := 0, addr := 0, bytes := [1#8], key := 0 }

/-- A flip of granule 0 is asked for. -/
def flipping0 (f : Flip) (b : Bool) : State := tiny.modHost (fun h => { h with flips := [f], bias := if b then [(0, true)] else [] })

/-- A load of group 0 at address 0 waits for its translation: its tables' first node is at 0x20000, whose entry names the node at 0x40000,
whose entry is the leaf; nothing where there is no root. -/
def asking (leaf : Option Nat) : State :=
  (flyOp { kind := .global, major := 0x17, active := 1, addr := [(0, 0)], tok := some 0 }).modXlat (fun x => { x with
    tlb := [], roots := (match leaf with | none => [] | some _ => [(0, 2 ^ 63 + 2 ^ 56 + 0x20000)])
    walk := (match leaf with | none => [] | some e => [{ addr := 0x20000, key := 0, value := 0x40001 }, { addr := 0x40000, key := 0, value := e }]) })

/-- The leaf of `tiny`'s page, of a level of 512 MiB. -/
def askedLeaf : TlbEntry := { placedLeaf with size := 29, entryAt := 0x40000 }

/-- `MemoryEvents`: walks, which are asked for or not. -/
theorem test_meets_walks : Happens IsMemoryEvent (.pageWalk 0 0 0 0) (asking (some placedLeaf.entry)) ∧
    Happens IsMemoryEvent (.pageWalk 0 0 0 0) (asking none) ∧ Happens IsMemoryEvent (.pageWalk 0 0 0 0) (asking (some (placedLeaf.entry - 8))) ∧
    Happens IsMemoryEvent (.pageWalk 0 0 0 0) tiny :=
  ⟨⟨_, .walk _ _ _ _ askedLeaf askedLeaf _ _, ⟨by decide, by decide, by decide, by decide, by rfl, by rfl, by decide⟩, by rfl, by rfl⟩,
    ⟨_, .walkFails _ _ _ _ _, ⟨by decide, by decide, by decide, by decide, by rfl, by rfl, by decide⟩, by rfl⟩,
    ⟨_, .walkForbids _ _ _ _ _ { askedLeaf with entry := placedLeaf.entry - 8 } _,
      ⟨by decide, by decide, by decide, by decide, by rfl, by rfl, by decide⟩, by rfl, by rfl⟩,
    ⟨_, .walkUnasked _ _ _ _, by decide⟩⟩

/-- `MemoryEvents`. -/
theorem test_meets_memory :
    Happens IsMemoryEvent (.runAheadFetch 0 0 8) tiny ∧ Happens IsMemoryEvent (.efStoreForward 0) (tiny.modMem (fun m => { m with fwd := [aStore 1] })) ∧
    Happens IsMemoryEvent (.gaStoreAcknowledge 1 0) (tiny.modMem (fun m => { m with gaPend := [aStore 1] })) ∧
    Happens IsMemoryEvent (.biasFlipHost 0) (flipping0 { granule := 0, toHost := true } false) ∧
    Happens IsMemoryEvent (.biasFlipDevice 0) (flipping0 { granule := 0, toHost := false } false) ∧
    Happens IsMemoryEvent (.biasFlipDevice 0) (flipping0 { granule := 0, toHost := false } true) ∧
    Happens IsMemoryEvent (.biasFlipDevice 0) (flipping0 { granule := 0, toHost := false, sent := true, replies := 2 ^ 64 - 1 } true) ∧
    Happens IsMemoryEvent (.birspiReceived 0 63 none) (flipping0 { granule := 0, toHost := false, sent := true } true) := by
  refine ⟨⟨_, .ahead _ _ _ 0 _ _ _ _, by decide, by decide, by decide, by rfl, by rfl, by rfl⟩, ⟨_, .forward _ (aStore 1), by decide, by decide⟩,
    ⟨_, .acknowledge _ _ (aStore 1), by decide⟩, ⟨_, .toHost _ { granule := 0, toHost := true }, by decide, ⟨by decide, by decide⟩⟩,
    ⟨_, .deviceAlready _ { granule := 0, toHost := false }, by decide, by decide⟩, ⟨_, .deviceSnoops _ { granule := 0, toHost := false }, by decide, by decide, by decide⟩,
    ⟨_, .deviceDone _ { granule := 0, toHost := false, sent := true, replies := 2 ^ 64 - 1 }, by decide, by decide, by decide, by decide⟩,
    ⟨_, .reply _ _ { granule := 0, toHost := false, sent := true } none, by decide, by decide, by decide, by decide⟩⟩

/-- The engine of core 0, of team 0, has an operation at its head, of an earlier cycle. -/
def engined (q : MxOp) : State :=
  (tiny.modEngine 0 (fun e => { e with holder := some 0, queue := [q] })).modSched (fun c => { c with cycles := [(0, 1)] })

/-- An `mma` of depth 0, begun. -/
def begunOp : MxOp := { op := 1, major := 0x22, opened := true, started := true, kdone := 512 }

/-- An `mmac` that has announced itself, of the teams that `part` names. -/
def announced (part : Nat) : MxOp := { op := 1, major := 0x22, minor := 1, shape := part * 2 ^ 52, opened := true }

/-- A cluster of two teams, on cores 0 and 1, whose engines have the operations given at their heads. -/
def twoTeams (p q : MxOp) : State :=
  (((tiny.setLaunch 0 { placedLaunch with w := 2 }).setTeam 1 { resident := true, core := 1 }).modEngine 0 (fun e =>
    { e with holder := some 0, queue := [p] })).modEngine 1 (fun e => { e with holder := some 1, queue := [{ q with grp := 32 }] })

/-- A launch that is being pre-empted, its group halted. -/
def preempted (s : State) : State :=
  (s.modLaunch 0 (fun l => { l with halting := true })).modGroup 0 (fun g => { g with mode := .halted, entPreempt := true })

/-- Slot 0 with a command at its head; a page of the stack is mapped for near memory. -/
def slotState (c : Nat) : State :=
  hub.modSlot 0 (fun x => { x with configured := true, rows := 1, rowunits := 1, bags := 1, cmds := [(c, 1)] })

/-- `UnitEvents`: the matrix engine. -/
theorem test_meets_units : Happens IsUnitEvent (.sluiceWindow 0) tiny ∧
    Happens IsUnitEvent (.matrixOperationStart 0) (engined { op := 1, major := 0x22 }) ∧
    Happens IsUnitEvent (.matrixOperationStart 0) ((engined { op := 1, major := 0x22, mask := 1 }).modGroup 0 (fun g =>
      g.setTok false 0 { (g.tok false 0) with poison := true, cause := 3 })) ∧
    Happens IsUnitEvent (.matrixOperationStart 0) (preempted (engined { op := 1, major := 0x22 })) ∧
    Happens IsUnitEvent (.matrixOperationRetire 0) (engined begunOp) ∧
    Happens IsUnitEvent (.matrixOperationRetire 0) (engined { begunOp with sent := some (4, none) }) ∧
    Happens IsUnitEvent (.matrixOperationRetire 0) ((engined begunOp).modMem (fun m => { m with fwd := [{ aStore 1 with agent := 2048, seq := 1 }] })) ∧ Happens IsUnitEvent (.mmacRendezvous 0 0) (engined (announced 1)) ∧
    Happens IsUnitEvent (.mmacRendezvous 0 0) (twoTeams (announced 3) (announced 1)) ∧
    Happens IsUnitEvent (.mmacMulticastLanded 0 0) (engined { announced 1 with met := true }) ∧
    Happens IsUnitEvent (.tileStoreZeroed 0) (tiny.modEngine 0 (fun e => { e with zeroing := true })) ∧
    Happens IsUnitEvent (.matrixQueuePark 0) (preempted (engined { op := 1, major := 0x22 })) := by
  refine ⟨⟨_, .window _, trivial⟩, ⟨_, .start _ _, by rfl, ⟨by rfl, .inl (by rfl), .inr (by decide)⟩, .inr ⟨⟨by decide, by decide⟩, by rfl⟩⟩,
    ⟨_, .startPoisoned _ 3 _, by rfl, ⟨by rfl, .inl (by rfl), .inr (by decide)⟩, by rfl, ⟨by decide, by decide⟩, by rfl⟩,
    ⟨_, .startHeld _ _, by rfl, by decide, by rfl⟩, ⟨_, .retire _ _ _ _ _, ⟨by rfl, by rfl, by rfl, by decide⟩, by rfl, by rfl, by decide⟩,
    ⟨_, .stored _ 4 _ none, ⟨by rfl, by rfl, by rfl, by decide⟩, by rfl, by decide⟩,
    ⟨_, .stores _ _ _ _ _, ⟨by rfl, by rfl, by rfl, by decide⟩, by rfl, by rfl, by decide⟩,
    ⟨_, .mustAgree _ _ [0], by rfl, ⟨?_, ?_⟩, ?_⟩, ⟨_, .disagree _ _ 0 [0, 1] (announced 3), by rfl, by rfl, by rfl, ?_⟩,
    ⟨_, .multicast _ _ [0], by rfl⟩, ⟨_, .zeroed _, by rfl⟩, ⟨_, .park _ 0, by decide, by decide, by decide, by decide, by decide⟩⟩
  · intro x h
    have h2 : x = 0 := List.mem_singleton.mp h
    subst h2
    exact ⟨announced 1, by rfl⟩
  · intro x h y k q r h1 h2
    have h3 : x = 0 := List.mem_singleton.mp h
    have h4 : y = 0 := List.mem_singleton.mp k
    subst h3
    subst h4
    rw [h1] at h2
    cases h2
    rfl
  · intro x h q h1
    have h3 : x = 0 := List.mem_singleton.mp h
    subst h3
    have h4 : announcedBy (engined (announced 1)) 0 = some (announced 1) := by rfl
    rw [h4] at h1
    cases h1
    rfl
  · exact ⟨1, by decide, { announced 1 with grp := 32 }, by rfl, by decide⟩

theorem test_row_reads : (match slotRead (slotState (2 ^ 60)) 0 (2 ^ 60) with
    | .ok _ _ => true
    | _ => false) = true := by decide +kernel
theorem test_row_fails : (match slotRead { slotState (2 ^ 60) with xlat := tiny.xlat } 0 (2 ^ 60) with
    | .fail _ _ => true
    | _ => false) = true := by decide +kernel

/-- A copy that has faulted at its first unit. -/
def haltedCopy : Flight := { op := 0x13, f := zeroBarge, word := 0, pc := 0, a := [], loops := [], recs := (0, 0), seq := 0, fault := some { cause := 2 } }

/-- `UnitEvents`: near memory and barges. -/
theorem test_meets_near : Happens IsUnitEvent (.bargeFault 0) (tiny.setBarge 0 { mode := .running, pending := some { cause := 2 } }) ∧
    Happens IsUnitEvent (.bargeFault 0) (tiny.setBarge 0 { mode := .running, flight := [haltedCopy] }) ∧
    Happens IsUnitEvent (.bargePark 0) (preempted (tiny.setBarge 0 { mode := .running })) ∧
    Happens IsUnitEvent (.accPerform 0) (slotState (2 ^ 60)) ∧ Happens IsUnitEvent (.accPerform 0) { slotState (2 ^ 60) with xlat := tiny.xlat } ∧
    Happens IsUnitEvent (.closePerform 0) (slotState (2 * 2 ^ 60)) ∧
    Happens IsUnitEvent (.qflushRetire 1) (flyOp { kind := .qflush, tok := some 0 }) := by
  have h := test_row_reads
  have k := test_row_fails
  split at h
  · rename_i bs t h1
    split at k
    · rename_i c a k1
      exact ⟨⟨_, .fault _ _, by rfl, by rfl, by rfl⟩,
        ⟨_, .copyFault _ haltedCopy [] { cause := 2 }, by rfl, by rfl, by decide, by rfl⟩,
        ⟨_, .bargePark _ _, by rfl, by decide, by decide, by decide, by decide, by decide, by decide, by decide⟩,
        ⟨_, .acc _ (2 ^ 60) bs t, by rfl, h1⟩, ⟨_, .accFails _ (2 ^ 60) c a, by rfl, k1⟩, ⟨_, .close _ (2 * 2 ^ 60), by rfl, by decide⟩,
        ⟨_, .flushed _, ⟨by decide, by decide⟩, ⟨by decide, by decide, by decide⟩, by decide⟩⟩
    · cases k
  · cases h

/-- An `nmv` of one row of 16 columns, its record at 0x100, its matrix at 0. -/
def nmvState : State :=
  { (hub.scrWrite 0 0x100 (toBytes 0 8 ++ toBytes (64 * 2 ^ 32) 8 ++ toBytes (2 ^ 32 + 1) 8)) with
    ops := [(1, { kind := .nmv, x := 0x100, f := some zeroForm, tok := some 0 })] }

/-- Its table's stack is found, and the rows are multiplied. -/
def nmvGoes : Bool :=
  match tableStack nmvState (nmvState.op 1).core (launchOfGrp (nmvState.op 1).grp) (nmvRecord nmvState 1).base with
  | .ok (k, t) =>
    match nmvRows (opLaunch nmvState 1).asid (launchOfGrp (nmvState.op 1).grp) k (nmvRecord nmvState 1) (nmvFmt (nmvState.op 1).form.ty.toNat)
      (elemsOf .f32 (nmvRecord nmvState 1).cols (nmvState.scrRead (teamOf (nmvState.op 1).grp) (nmvRecord nmvState 1).xoff (4 * (nmvRecord nmvState 1).cols)))
      (nmvRecord nmvState 1).rows 0 t with
    | .ok _ _ => true
    | _ => false
  | .error _ => false

theorem test_nmv_goes : nmvGoes = true := by decide +kernel

/-- `UnitEvents`: `nmv`, with a good record and one that is all zeros. -/
theorem test_meets_nmv : Happens IsUnitEvent (.nmvRun 1) nmvState ∧ Happens IsUnitEvent (.nmvRun 1) (flyOp { kind := .nmv, tok := some 0 }) := by
  constructor
  · have h := test_nmv_goes
    unfold nmvGoes at h
    split at h
    · rename_i k t h1
      split at h
      · rename_i ys u h2
        exact ⟨_, .nmv _ ys k t u, ⟨by decide, by decide⟩, ⟨by decide, by decide, by decide⟩, by decide +kernel, by decide +kernel, by decide +kernel,
          by decide +kernel, h1, h2⟩
      · cases h
    · cases h
  · exact ⟨_, .nmvBad _, ⟨by decide, by decide⟩, ⟨by decide, by decide, by decide⟩, by decide, by decide +kernel⟩

/-! ### Fabric, collectives, degraded operation -/

/-- The package has identifier 0 and two stations with keys, and exports its first region for reading, writing and atomics. -/
def podState (s : State) : State :=
  (booted 3 s).modFabric (fun f => { f with
    podId := some 0, exports := [(0, 2 ^ 63 + 2 ^ 62 + 2 ^ 61 + 2 ^ 60 + 2 ^ 53)], stations := [(1, { tx := 1, rx := 1 }), (2, { tx := 1, rx := 1 })] })

/-- An access that is performed. -/
def goesOn {α : Type} (r : Acc α) : Bool :=
  match r with
  | .ok _ _ => true
  | _ => false

theorem goes_on {α : Type} {r : Acc α} (h : goesOn r = true) : ∃ x t, r = .ok x t := by
  unfold goesOn at h
  split at h
  · rename_i x t
    exact ⟨x, t, rfl⟩
  · cases h

/-- A request of peer 1. -/
def request0 : PodRequest := { peer := 1, station := 2, kind := .read, off := 0, size := 8, data := 0, cmp := 0, ga := false, checks := [] }

theorem test_request : goesOn (podPerform (goodFlit (podState tiny) 2) .read false 0 8 0 0) = true := by decide +kernel

/-- `FabricEvents`: puts, accesses and requests of peers, stations. -/
theorem test_meets_stations : Happens IsFabricEvent (.wcEntryTimeout 0 0 0) tiny ∧
    Happens IsFabricEvent (.putRetire 1 none) (podState (flyOp { kind := .put, tok := some 0 })) ∧
    Happens IsFabricEvent (.putRetire 1 none) (podState (flyOp { kind := .put, tok := some 0, x := 5 })) ∧
    Happens IsFabricEvent (.remoteAccessRetire 1 none []) (podState (flyOp { kind := .ratom, tok := some 0, x := 5, y := 6 })) ∧
    Happens IsFabricEvent (.incomingPodRequest { request0 with kind := .write }) (podState tiny) ∧
    Happens IsFabricEvent (.remoteAccessRetire 1 none []) (podState (flyOp { kind := .wcflush, tok := some 0 })) ∧
    Happens IsFabricEvent (.remoteAccessRetire 1 none []) (podState (flyOp { kind := .rld, tok := some 0 })) ∧
    Happens IsFabricEvent (.incomingPodRequest request0) (podState tiny) ∧
    Happens IsFabricEvent (.incomingPodRequest request0) ((podState tiny).modFabric (fun f => { f with exports := [] })) ∧
    Happens IsFabricEvent (.stationStop 23) tiny ∧ Happens IsFabricEvent (.stationStart 23) (tiny.modStation 23 (fun x => { x with down := true })) ∧
    Happens IsFabricEvent (.flitAuthFailure 0) (tiny.modStation 0 (fun x => { x with fails := 14 })) ∧
    Happens IsFabricEvent (.flitAuthFailure 0) (tiny.modStation 0 (fun x => { x with fails := 15 })) ∧
    Happens IsFabricEvent (.stationNonceExhausted 23) (tiny.modStation 23 (fun x => { x with count := 2 ^ 63 })) := by
  obtain ⟨x, t, h⟩ := goes_on test_request
  exact ⟨⟨_, .timeout _ _ _, trivial⟩, ⟨_, .put _ _ _, ⟨⟨by decide, by decide⟩, by decide, by decide, by decide⟩, by decide, by unfold putSent; decide, by rfl, by decide⟩,
    ⟨_, .putCounted _ _, ⟨⟨by decide, by decide⟩, by decide, by decide, by decide⟩, by decide, by decide⟩,
    ⟨_, .dataStored _ _ _, .inr ⟨⟨by decide, by decide⟩, by decide, by decide, by decide⟩, by decide, by decide⟩,
    ⟨_, .requestBroken _, ⟨by decide, by decide, by decide, by decide⟩, by decide⟩,
    ⟨_, .flush _ _ _, ⟨⟨by decide, by decide⟩, by decide, by decide, by decide⟩, by decide⟩,
    ⟨_, .data _ _ _ _, ⟨.inl ⟨⟨by decide, by decide⟩, by decide, by decide, by decide⟩, by decide, by decide, by decide, by rfl⟩, by decide⟩,
    ⟨_, .request _ x t, ⟨by decide, by decide, by decide, by decide⟩, by decide, h⟩,
    ⟨_, .requestFails _ _ _, ⟨by decide, by decide, by decide, by decide⟩, by decide, by rfl⟩, ⟨_, .stop _, trivial⟩,
    ⟨_, .start _, by decide, by decide, by decide⟩, ⟨_, .flit _, by decide, by decide, by decide⟩, ⟨_, .flitLast _, by decide, by decide, by decide⟩,
    ⟨_, .nonces _, by decide, by decide⟩⟩

/-- Address 0 is the package's own, in its window to peers, and die 1 has a copy of the line behind it. -/
def ownState (o : Op) : State :=
  ((podState (flyOp o)).modXlat (fun x => { x with tlb := [{ placedLeaf with pa := 5 * 2 ^ 48 }] })).modMem (fun m => { m with
    copies := [(1, { valid := 1 })] })

theorem test_put_counts : (match addCounter (noteFar (putAnswered (ownState { kind := .put, major := 0x25, idx := 1, tok := some 0, y := 8 }) 1) 1 none) 1 none with
    | some t => (t.op 1).x != 0
    | none => false) = true := by decide +kernel

/-- `FabricEvents`: a counter add and an atomic of the package's own, for which a copy has to go. -/
theorem test_meets_looped : Happens IsFabricEvent (.putRetire 1 none) (ownState { kind := .put, major := 0x25, idx := 1, tok := some 0, y := 8 }) ∧
    Happens IsFabricEvent (.remoteAccessRetire 1 none []) (ownState { kind := .ratom, f := some zeroForm, active := 1, addr := [(0, 0)], z := [2 ^ 54 * 5], tok := some 0 }) := by
  constructor
  · have h := test_put_counts
    split at h
    · rename_i t h1
      exact ⟨_, .putCounts _ _ t, ⟨⟨by decide, by decide⟩, by decide, by decide, by decide⟩, by decide, by unfold putSent; decide, h1,
        bne_iff_ne.mp h⟩
    · cases h
  · exact ⟨_, .dataStores _ _ _ _, ⟨.inr ⟨⟨by decide, by decide⟩, by decide, by decide, by decide⟩, by decide, by decide, by decide, by rfl⟩,
      by decide +kernel⟩

/-- Bytes of doublewords. -/
def words8 (l : List Nat) : List Byte := l.flatMap (fun x => toBytes x 8)

/-- An all-reduce of 64 words over two packages: ranks at 0x5000, staging at 0x6000, status at 0x5100, source at 0x7000, target at 0x7400. -/
def planWords : List Nat :=
  [0x5000, 2 * 2 ^ 48 + 2 ^ 32 + 2 ^ 16, 0x6000, 0x5100, 0, 0, 0, 0, 0x7000, 2 ^ 61 + 2 ^ 56, 64 * 2 ^ 32, 0, 0, 0, 0, 0, 0x7400, 2 ^ 61, 64 * 2 ^ 32, 0, 0, 0, 0, 0]

/-- Its block at 0x4000 with its ranks, and an operation on it. -/
def planState (k : OpKind) : State :=
  { (withBytes (withBytes (podState hub) 0x4000 (words8 planWords)) 0x5002 (toBytes 1 2)) with ops := [(1, { kind := k, x := 0x4000, tok := some 0 })] }

/-- The same with the plan record that its derivation gives. -/
def goState : State :=
  { (withBytes (planState .clgo) 0x40C0 (words8 (planRecord planWords 0 1))) with ops := (planState .clgo).ops }

/-- The plan in the engine. -/
def thePlan (r : Bool) (fin : List Nat) : Plan :=
  { planOf planWords [(0, 0), (1, 1)] 0 0 1 0 with running := r, final := fin }

/-- The engine holds the plan. -/
def planned (r : Bool) (fin : List Nat) : State := goState.modFabric (fun f => { f with plans := [(1, thePlan r fin)] })

/-- The block is read, and its record written. -/
def planGoes : Bool :=
  match readBlock (planState .clplan) (engineOf (planState .clplan) ((planState .clplan).op 1)) 0x4000 with
  | .ok p t => decide (p = (planWords, [(0, 0), (1, 1)])) &&
      storeIs t (engineOf (planState .clplan) ((planState .clplan).op 1)) 0x40C0 (words8 (planRecord planWords 0 1)) true
  | _ => false

theorem test_plan_goes : planGoes = true := by decide +kernel

/-- `FabricEvents`: a plan derived. -/
theorem test_meets_clplan : Happens IsFabricEvent (.clplanRun 1) (planState .clplan) := by
  have h := test_plan_goes
  unfold planGoes at h
  split at h
  · rename_i p t h1
    simp only [Bool.and_eq_true, decide_eq_true_eq] at h
    obtain ⟨h2, h3⟩ := h
    subst h2
    obtain ⟨u, h4⟩ := store_is h3
    exact ⟨_, .planGood 1 0 1 planWords [(0, 0), (1, 1)] t u, ⟨⟨by decide +kernel, by decide +kernel⟩,
      ⟨by decide +kernel, by decide +kernel, by decide +kernel⟩, h1⟩, by decide +kernel, by decide +kernel, h4⟩
  · cases h

/-- The agent of the plan's engine. -/
abbrev goAgent : Agent := engineOf goState (goState.op 1)

/-- What a `clgo` does until it waits for the other member. -/
def goGoes : Bool :=
  match readBlock goState goAgent 0x4000 with
  | .ok p t => decide (p = (planWords, [(0, 0), (1, 1)])) &&
      match t.load goAgent 0x40C0 40 with
      | .ok bs u => decide (recordKept bs = (planRecord planWords 0 1).take 5) &&
        match u.load goAgent 0x5100 8 with
        | .ok st v => decide (ofBytes st / 2 ^ 62 % 4 ≠ 1) && (keptFor v (newPlan goState 1 planWords [(0, 0), (1, 1)] 0 1)).isNone &&
          match putStatus v (newPlan goState 1 planWords [(0, 0), (1, 1)] 0 1) 1 0 0 false with
          | .ok _ y => (presentedFor y (newPlan goState 1 planWords [(0, 0), (1, 1)] 0 1)).1 &&
            decide (workingStations (present y 1 (newPlan goState 1 planWords [(0, 0), (1, 1)] 0 1)) ≠ []) &&
            match tryStart (present y 1 (newPlan goState 1 planWords [(0, 0), (1, 1)] 0 1)) 1 with
            | .ok _ _ => true
            | _ => false
          | _ => false
        | _ => false
      | _ => false
  | _ => false

theorem test_go_goes : goGoes = true := by decide +kernel

/-- `FabricEvents`: a plan entered in the engine. -/
theorem test_meets_clgo : Happens IsFabricEvent (.clgoRendezvous 1) goState := by
  have h := test_go_goes
  unfold goGoes at h
  split at h
  · rename_i p t h1
    simp only [Bool.and_eq_true, decide_eq_true_eq] at h
    obtain ⟨h2, h⟩ := h
    subst h2
    split at h
    · rename_i bs u h3
      simp only [Bool.and_eq_true, decide_eq_true_eq] at h
      obtain ⟨h4, h⟩ := h
      split at h
      · rename_i st v h5
        simp only [Bool.and_eq_true, decide_eq_true_eq, Option.isNone_iff_eq_none] at h
        obtain ⟨⟨h6, h7⟩, h⟩ := h
        split at h
        · rename_i x y h8
          simp only [Bool.and_eq_true, decide_eq_true_eq] at h
          obtain ⟨⟨h9, h11⟩, h⟩ := h
          split at h
          · rename_i x2 z h10
            exact ⟨_, .joins 1 0 1 planWords [(0, 0), (1, 1)] bs st t u v y z, ⟨⟨by decide +kernel, by decide +kernel⟩,
              ⟨by decide +kernel, by decide +kernel, by decide +kernel⟩, h1⟩, by decide +kernel, by decide +kernel, by decide +kernel, h3,
              by decide +kernel, by decide +kernel, h4, h5, h6, h7, h8, h9, .inr h11, h10⟩
          · cases h
        · cases h
      · cases h
    · cases h
  · cases h

/-- A chunk of all zeros but for its first byte, with the check values of its sectors, or without. -/
def sevens (good : Bool) : FarData := { data := 7, checks := if good then checksOf 0 256 7 else [] }

theorem test_chunk_goes : goesOn (workOn (chunkHeld (planned true []) 1 (thePlan true []) 1 0 7) 1) = true := by decide +kernel
theorem test_done_goes : goesOn (putStatus (planned true [0]) (thePlan true [0]) 2 0 0 true) = true := by decide +kernel
theorem test_member_goes : goesOn (tryStart ((noticesCome 0 1 (planned false [])).modFabric (fun f =>
    { f with plans := Sparse.set {} f.plans 1 { thePlan false [] with present := (thePlan false []).present ++ [1] } })) 1) = true := by decide +kernel
theorem test_aborts : (abortPlan (planned false []) 1 5 1).isSome = true ∧
    (abortPlan (noticesCome 0 1 (planned false [])) 1 Cause.illegalOperand (ownId (noticesCome 0 1 (planned false [])))).isSome = true ∧
    (abortPlan (planned true []) 1 5 (ownId (planned true []))).isSome = true ∧
    (abortPlan (planned true []) 1 Cause.checkMismatch (ownId (planned true []))).isSome = true := by decide +kernel

/-- A package of a pod with its firmware takes what comes for a collective. -/
theorem here_in (s : State) (h : onPod s = true) (k : 2 < s.mgmt.boot.length) : here s := ⟨h, k⟩

/-- `FabricEvents`: chunks, good and broken, the end of a plan, and notices: kept, spent, taken, and where there is no pod. -/
theorem test_meets_plans : Happens IsFabricEvent (.chunkArrival 1 1 0 (sevens true)) (planned true []) ∧
    Happens IsFabricEvent (.chunkArrival 1 1 0 (sevens false)) (planned true []) ∧ Happens IsFabricEvent (.clgoComplete 1) (planned true [0]) ∧
    Happens IsFabricEvent (.abortNoticeArrival 9 1 5) (podState tiny) ∧
    Happens IsFabricEvent (.abortNoticeArrival 9 1 5) ((podState tiny).modFabric (fun f => { f with spent := [(9, 1)] })) ∧
    Happens IsFabricEvent (.abortNoticeArrival 0 1 5) (planned false []) ∧ Happens IsFabricEvent (.abortNoticeArrival 0 1 5) tiny ∧
    Happens IsFabricEvent (.planAbort 1 5) (planned true []) := by
  obtain ⟨_, t1, h1⟩ := goes_on test_chunk_goes
  obtain ⟨_, t2, h2⟩ := goes_on test_done_goes
  obtain ⟨t4, h4⟩ := Option.isSome_iff_exists.mp test_aborts.1
  obtain ⟨t6, h6⟩ := Option.isSome_iff_exists.mp test_aborts.2.2.1
  obtain ⟨t7, h7⟩ := Option.isSome_iff_exists.mp test_aborts.2.2.2
  have u : (thePlan true [0]).unspecified (planned true [0]) = [] := by decide +kernel
  have r : chunkDue (planned true []) 1 (thePlan true []) 1 0 :=
    ⟨⟨by decide +kernel, by decide +kernel, by decide⟩, by decide, by decide, by decide +kernel, by decide +kernel⟩
  exact ⟨⟨_, .chunk _ _ _ _ (thePlan true []) t1, r, by decide +kernel, by decide +kernel, h1⟩,
    ⟨_, .chunkBroken _ _ _ _ (thePlan true []) t7, r, by decide +kernel, by decide +kernel, h7⟩,
    ⟨_, .done _ (thePlan true [0]) t2 (planned true [0]), ⟨by decide +kernel, by decide +kernel, by decide⟩, by decide +kernel, by rw [u]; rfl, h2⟩,
    ⟨_, .keptNotice _ _ _, here_in _ (by decide) (by decide), by decide, by decide⟩,
    ⟨_, .spentNotice _ _ _, here_in _ (by decide) (by decide), by decide⟩,
    ⟨_, .notice _ _ _ 1 (thePlan false []) t4, here_in _ (by decide +kernel) (by decide +kernel), by decide +kernel, by decide +kernel, h4⟩,
    ⟨_, .nobody _ _ _, by decide⟩, ⟨_, .abort _ _ t6, by decide +kernel, h6⟩⟩

/-- `FabricEvents`: members that present a tag: before any plan, for the next one, for this one, and with other terms. -/
theorem test_meets_members : Happens IsFabricEvent (.memberRendezvous 9 1 2 256 1) (podState tiny) ∧
    Happens IsFabricEvent (.memberRendezvous 0 1 2 256 1) (planned true []) ∧
    Happens IsFabricEvent (.memberRendezvous 0 1 2 256 1) (planned false []) ∧ Happens IsFabricEvent (.memberRendezvous 0 1 2 512 1) (planned false []) := by
  obtain ⟨_, t3, h3⟩ := goes_on test_member_goes
  obtain ⟨t5, h5⟩ := Option.isSome_iff_exists.mp test_aborts.2.1
  have w : here (planned false []) := here_in _ (by decide +kernel) (by decide +kernel)
  exact ⟨⟨_, .early _ _ _ _ _, here_in _ (by decide) (by decide), by decide⟩,
    ⟨_, .next _ _ _ _ _ 1 (thePlan true []), here_in _ (by decide +kernel) (by decide +kernel), by decide +kernel, .inl (by decide)⟩,
    ⟨_, .member _ _ _ _ _ 1 (thePlan false []) t3, w, by decide +kernel, by decide, by decide +kernel, by decide, by decide +kernel, by decide +kernel, h3⟩,
    ⟨_, .stranger _ _ _ _ _ 1 (thePlan false []) t5, w, by decide +kernel, by decide, by decide +kernel, by decide +kernel, h5⟩⟩

/-- The second member of a ring of two, whose packet has come. -/
def ringState2 : State :=
  ((flyOp { kind := .rring, x := 0, tok := some 0 }).scrWrite 0 0 (toBytes (2 ^ 44 + 2 ^ 40) 8 ++ List.replicate 56 0#8 ++ toBytes 1 4)).modCore 0 (fun c =>
    { c with packets := [{ team := 0, id := 0, pos := 1, n := 2, fmt := 0, bytes := 0, poisoned := false, data := [] }] })

/-- A packet on its way to team 0. -/
def transit (s : State) : State :=
  s.modFabric (fun f => { f with transit := [{ team := 0, id := 0, pos := 1, n := 2, fmt := 0, bytes := 0, poisoned := false, data := [] }] })

/-- `FabricEvents`: rings. -/
theorem test_meets_rings : Happens IsFabricEvent (.rringRun 1) (flyOp { kind := .rring, x := 0, tok := some 0 }) ∧ Happens IsFabricEvent (.rringRun 1) ringState2 ∧
    Happens IsFabricEvent (.rringPacketArrival 0) (transit tiny) ∧ Happens IsFabricEvent (.rringPacketArrival 0) (transit (ended tiny)) := by
  refine ⟨⟨_, .ringFirst _ _, ⟨⟨by decide, by decide⟩, ⟨by decide, by decide, by decide⟩, by decide, by decide, rfl, by decide +kernel, by decide +kernel⟩,
      by decide +kernel⟩,
    ⟨_, .ringNext _ _ { team := 0, id := 0, pos := 1, n := 2, fmt := 0, bytes := 0, poisoned := false, data := [] },
      ⟨⟨by decide, by decide⟩, ⟨by decide, by decide, by decide⟩, by decide, by decide, rfl, by decide +kernel, by decide +kernel⟩,
      by decide +kernel, by decide +kernel⟩,
    ⟨_, .packet _ _, by rfl, by decide, by decide⟩, ⟨_, .packetLate _ _, by rfl, by decide, by decide, by decide⟩⟩

/-- A slice is being retired, its map switched for all cores. -/
def switched (q : Nat) : State := tiny.modSlice 0 (fun x => { x with phase := 2, slice := 5, adopted := (List.range 128), quiet := q })

/-- An uncorrectable failure has struck a unit, or its errors have passed the threshold of its kind. -/
def struck (kind unit : Nat) (s : State) : State := s.modMgmt (fun m => { m with struck := [unitKey kind unit] })
def worn (kind unit : Nat) (s : State) : State := s.modMgmt (fun m => { m with errors := [(unitKey kind unit, 1)] })

/-- `RepairEvents`: links, lanes, cores, slices. -/
theorem test_meets_repair : Happens IsRepair (.hubLinkFailure 0) tiny ∧ Happens IsRepair (.hubLinkRestored 0) (tiny.modDie 0 (fun d => { d with linkDown := true })) ∧
    Happens IsRepair (.laneRetirement 0 15 1) (struck 4 15 tiny) ∧ Happens IsRepair (.laneRetirement 0 0 0) (worn 4 0 tiny) ∧
    Happens IsRepair (.laneRetirement 1 23 1) (worn 5 23 tiny) ∧ Happens IsRepair (.laneRetirement 1 23 0) (struck 5 23 tiny) ∧
    Happens IsRepair (.laneRetirement 2 2 4) (worn 6 2 tiny) ∧ Happens IsRepair (.laneRetirement 2 2 4) tiny ∧
    Happens IsRepair (.coreRetire 2047) (worn 0 2047 tiny) ∧ Happens IsRepair (.coreRetire 2047) tiny ∧
    Happens IsRepair (.coreRetirementComplete 5) (tiny.modCore 5 (fun c => { c with marked := true })) ∧ Happens IsRepair (.coreUncorrectable 0) tiny ∧
    Happens IsRepair (.sliceFlush 15 511 [0]) (worn 1 (512 * 15 + 511) tiny) ∧
    Happens IsRepair (.sliceMapSwitch 0) (tiny.modSlice 0 (fun x => { x with phase := 1, slice := 5 })) ∧
    Happens IsRepair (.coreMapAdopt 5) (tiny.modSlice 0 (fun x => { x with phase := 2, slice := 5 })) ∧ Happens IsRepair (.sliceEnd 0) (switched quietRun) :=
  ⟨⟨_, .linkDown _, trivial⟩, ⟨_, .linkUp _, by decide⟩, ⟨_, .hubLanes _ _, by unfold due; decide⟩, ⟨_, .hubLanesGone _, by unfold due; decide⟩,
    ⟨_, .stationLanes _ _, by unfold due; decide⟩, ⟨_, .stationLanesGone _, by unfold due; decide⟩, ⟨_, .portLanes _ _, by unfold due; decide⟩,
    ⟨_, .lanesStay _ _ _, by unfold due; decide⟩, ⟨_, .coreMarked _, by decide⟩, ⟨_, .coreStays _, by decide⟩,
    ⟨_, .coreGone _, by decide⟩, ⟨_, .coreLost _, by decide⟩, ⟨_, .sliceFlush _ _ _, by unfold due; decide⟩, ⟨_, .sliceSwitch _, by decide⟩,
    ⟨_, .adopt _, by decide⟩, ⟨_, .sliceEnd _, by decide, fun c _ h => List.mem_range.mpr (by simpa using h), by decide⟩⟩

/-- `RepairEvents`: a row and a bank of a stack, whatever the number of spare rows (log 17); a bank that a failure has struck. -/
theorem test_meets_rows : Happens IsRepair (.hbmRowRetire 0 7) (worn 2 84 tiny) ∧
    Happens IsRepair (.hbmRowRetire 0 7) (useSpares (worn 2 84 tiny) 0 (Config.spareRows 0)) ∧
    Happens IsRepair (.hbmBankRetire 11 7) (worn 3 95 tiny) ∧ Happens IsRepair (.hbmBankRetire 11 7) (struck 3 95 tiny) := by
  refine ⟨?_, ⟨_, .rowFails _ _, by rfl, by decide, ?_⟩, ?_, ⟨_, .bankFails _ _, by rfl, by decide, .inl (by decide)⟩⟩
  · by_cases h : sparesLeft (worn 2 84 tiny) 0 = 0
    · exact ⟨_, .rowFails _ _, by rfl, by decide, h⟩
    · by_cases k : sparesLeft (worn 2 84 tiny) 0 = 1
      · exact ⟨_, .rowLast _ _, by rfl, by decide, k⟩
      · exact ⟨_, .row _ _, by rfl, by decide, by omega⟩
  · show Config.spareRows 0 - Sparse.get 0 (Sparse.set 0 [] 0 (0 + Config.spareRows 0)) 0 = 0
    rw [Laws.get_set_same]
    omega
  · by_cases h : (Config.rowsOfBank 11 7).length ≤ sparesLeft (worn 3 95 tiny) 11
    · exact ⟨_, .bank _ _, by rfl, by decide, by decide, h⟩
    · exact ⟨_, .bankFails _ _, by rfl, by decide, .inr (Nat.lt_of_not_le h)⟩

/-- Two stores of core 0, to different stacks, while its die is rerouted. -/
def twoStores : State :=
  (tiny.modDie 0 (fun d => { d with rerouted := true, failedAt := 9 })).modMem (fun m => { m with
    fwd := [aStore 1, { aStore 2 with seq := 1, addr := 2 ^ 44 }] })

/-- `MemoryEvents`: the later store may overtake. -/
theorem test_meets_overtaking : Happens IsMemoryEvent (.efStoreForward 0) twoStores :=
  ⟨_, .forwardOne _ (aStore 1) [{ aStore 2 with seq := 1, addr := 2 ^ 44 }], by decide, by decide, by decide⟩

/-- Group 0's token 0 is poisoned. -/
def poisoned0 (s : State) : State := s.modGroup 0 (fun g => g.setTok false 0 { (g.tok false 0) with poison := true, cause := 3 })

/-- An operation of the fabric that its preconditions let go. -/
def heldPod (o : Op) : State := ownState { o with held := true, tok := some 0 }

/-- An access held behind an earlier one of the core to the same line. -/
def twoRemote : State :=
  let s := ownState { kind := .rld, f := some zeroForm, active := 1, addr := [(0, 0)], z := [2 ^ 54 * 5], tok := some 0 }
  { s with ops := s.ops ++ [(2, { kind := .put, f := some zeroForm, active := 1, addr := [(0, 0)], data := [(0, 7)], held := true, tok := some 1 })] }

/-- The combining buffer of core 0 is full. -/
def fullWc (s : State) : State :=
  s.modCore 0 (fun c => { c with wc := (List.range 64).map (fun k => { peer := 1, line := 1000 + k, mask := 1, data := 0, birth := 0, ops := [], draining := false, ga := false }) })

/-- `Landings`: held operations: poisoned, a stop of a barge, a flush. -/
theorem test_meets_held : Happens IsLanding (.heldOperationStart 1)
      (poisoned0 (flyOp { kind := .global, held := true, mask := 1, tok := some 0 })) ∧
    Happens IsLanding (.heldOperationStart 1) ((flyOp { kind := .bstop, held := true, tok := some 0 }).setBarge 0 runs) ∧
    Happens IsLanding (.heldOperationStart 1) (heldPod { kind := .wcflush }) := by
  refine ⟨⟨_, .poisoned _ 3, by decide, by decide, by decide, by decide, by decide⟩,
    ⟨_, .stop _, by unfold goes; decide, by decide, by decide⟩, ⟨_, .fabric _, by unfold goes; decide, by decide, by decide, by decide, by decide⟩⟩

/-- `Landings`: held behind an earlier access of the path, for want of room, and a put that goes. -/
theorem test_meets_behind : Happens IsLanding (.heldOperationStart 2) twoRemote :=
  ⟨_, .behind _, by unfold goes; decide, by decide, by decide +kernel⟩

theorem test_meets_noRoom : Happens IsLanding (.heldOperationStart 1)
    (fullWc (heldPod { kind := .put, f := some zeroForm, active := 1, addr := [(0, 0)], data := [(0, 7)] })) :=
  ⟨_, .noRoom _, by unfold goes; decide, by decide, by decide +kernel, by decide +kernel⟩

theorem test_meets_put : Happens IsLanding (.heldOperationStart 1)
    (heldPod { kind := .put, f := some zeroForm, active := 1, addr := [(0, 0)], data := [(0, 7)] }) :=
  ⟨_, .fabric _, by unfold goes; decide, by decide, by decide, fun _ => by decide +kernel, fun _ => by decide +kernel⟩

/-- `UnitEvents`: a tile that lacks a team which has ended, one whose record is bad, and a pre-emption that finds no operation queued. -/
theorem test_meets_tiles :
    Happens IsUnitEvent (.mmacRendezvous 0 0) ((twoTeams (announced 3) (announced 1)).modTeam 1 (fun t => { t with exited := true }) |>.modEngine 1 (fun e => { e with queue := [] })) ∧
    Happens IsUnitEvent (.mmacRendezvous 0 0) (engined { announced 1 with bad := 7 }) ∧
    Happens IsUnitEvent (.matrixQueuePark 0) (preempted ((engined {}).modEngine 0 (fun e => { e with queue := [] }))) := by
  refine ⟨⟨_, .memberGone _ _ 1 [0, 1], by rfl, by decide, by rfl⟩, ⟨_, .badRecord _ _ [0] { announced 1 with bad := 7 }, by rfl, ⟨?_, ?_⟩, by rfl⟩,
    ⟨_, .parkNone _ 0, by rfl, by decide, by rfl, by decide⟩⟩
  · intro x h
    have h2 : x = 0 := List.mem_singleton.mp h
    subst h2
    exact ⟨{ announced 1 with bad := 7 }, by rfl⟩
  · intro x h y k q r h1 h2
    have h3 : x = 0 := List.mem_singleton.mp h
    have h4 : y = 0 := List.mem_singleton.mp k
    subst h3
    subst h4
    rw [h1] at h2
    cases h2
    rfl

/-- `FabricEvents`: a packet that finds four at the core. -/
theorem test_meets_packetFull : Happens IsFabricEvent (.rringPacketArrival 0) ((transit tiny).modCore 0 (fun c =>
    { c with packets := List.replicate 4 { team := 0, id := 0, pos := 1, n := 2, fmt := 0, bytes := 0, poisoned := false, data := [] } })) :=
  ⟨_, .packetFull _ { team := 0, id := 0, pos := 1, n := 2, fmt := 0, bytes := 0, poisoned := false, data := [] }, by rfl, by decide, by decide, by decide, by decide⟩

/-- `BargeData`: a `bqout` with a copy in flight. -/
theorem test_meets_bqout : Happens IsBargeData (.bqout { zeroBarge with imm := 48 }) (begun 0x13 boxForm boxes) :=
  ⟨_, .bqout _, by decide, by decide, by decide +kernel, by decide, by decide⟩

/-- Bounds of the levels: the last word of each, and one byte more. -/
theorem test_fits : fits placedLaunch 0x13 131068 4 ∧ ¬ fits placedLaunch 0x13 131069 4 ∧ fits placedLaunch 0x14 508 4 ∧ ¬ fits placedLaunch 0x14 509 4 ∧
    fits placedLaunch 0x15 131068 4 ∧ ¬ fits placedLaunch 0x15 (2 ^ 20) 4 ∧ fits placedLaunch 0x16 (2 ^ 20 - 4) 4 ∧ ¬ fits placedLaunch 0x16 (2 ^ 20 - 3) 4 := by
  unfold fits
  decide

end Sys2Proof.Tests
end

/-! The layout of a group's frame (R314): every field is read back from the bytes that the device writes. A frame is a row of
blocks of fixed sizes, one for each line of the table, and a field is found by its block and its place in it. -/

namespace Sys2Proof.Proofs

open Sys2Proof Sys2Proof.Machine Sys2Proof.Rules

/-! ### Numbers as bytes -/

@[simp] theorem length_toBytes (x n : Nat) : (toBytes x n).length = n := by
  induction n generalizing x with
  | zero => rfl
  | succ n ih => simp [toBytes, ih]

theorem ofBytes_toBytes (x n : Nat) : ofBytes (toBytes x n) = x % 2 ^ (8 * n) := by
  induction n generalizing x with
  | zero => simp [toBytes, ofBytes, Nat.mod_one]
  | succ n ih =>
    have hp : 2 ^ (8 * (n + 1)) = 256 * 2 ^ (8 * n) := by rw [Nat.mul_add, Nat.pow_add, Nat.mul_comm]
    rw [hp, Nat.mod_mul, ← ih (x / 256)]
    simp [toBytes, ofBytes]

theorem drop_toBytes (x n m : Nat) : (toBytes x n).drop m = toBytes (x / 2 ^ (8 * m)) (n - m) := by
  induction m generalizing x n with
  | zero => simp
  | succ m ih =>
    cases n with
    | zero => simp [toBytes]
    | succ n =>
      have hp : 2 ^ (8 * (m + 1)) = 256 * 2 ^ (8 * m) := by rw [Nat.mul_add, Nat.pow_add, Nat.mul_comm]
      rw [hp, ← Nat.div_div_eq_div_mul, Nat.add_sub_add_right, ← ih]
      rfl

theorem take_toBytes {n m : Nat} (x : Nat) (h : m ≤ n) : (toBytes x n).take m = toBytes x m := by
  induction m generalizing x n with
  | zero => rfl
  | succ m ih =>
    cases n with
    | zero => omega
    | succ n => simp only [toBytes, List.take_succ_cons, ih _ (Nat.le_of_succ_le_succ h)]

theorem frameField_toBytes {off m n : Nat} (x : Nat) (h : off + m ≤ n) :
    frameField (toBytes x n) off m = x / 2 ^ (8 * off) % 2 ^ (8 * m) := by
  rw [frameField, drop_toBytes, take_toBytes _ (by omega), ofBytes_toBytes]

/-! ### Fields of concatenations -/

theorem frameField_append_left {as : List Byte} {off n : Nat} (bs : List Byte) (h : off + n ≤ as.length) :
    frameField (as ++ bs) off n = frameField as off n := by
  have hn : n ≤ (as.drop off).length := by rw [List.length_drop]; omega
  rw [frameField, List.drop_append_of_le_length (by omega), List.take_append_of_le_length hn, frameField]

theorem frameField_append_right (as bs : List Byte) (off n : Nat) :
    frameField (as ++ bs) (as.length + off) n = frameField bs off n := by
  rw [frameField, List.drop_length_add_append, frameField]

/-- A field of a row of blocks that lies within block `i`. -/
theorem frameField_flatten {bss : List (List Byte)} {i off n : Nat} {b : List Byte} (rest : List Byte) (hb : bss[i]? = some b)
    (h : off + n ≤ b.length) :
    frameField (bss.flatten ++ rest) (((bss.map List.length).take i).sum + off) n = frameField b off n := by
  induction bss generalizing i with
  | nil => simp at hb
  | cons a bss ih =>
    rw [List.flatten_cons, List.append_assoc]
    cases i with
    | zero =>
      obtain rfl : a = b := by simpa using hb
      simpa using frameField_append_left _ h
    | succ i =>
      rw [List.map_cons, List.take_succ_cons, List.sum_cons, Nat.add_assoc, frameField_append_right]
      exact ih (by simpa using hb)

/-- A field of entry `i` of a table whose entries are `w` bytes each. -/
theorem frameField_flatMap {α : Type} {l : List α} {f : α → List Byte} {i off n w : Nat} {x : α} (hw : ∀ y, (f y).length = w)
    (hx : l[i]? = some x) (h : off + n ≤ w) : frameField (l.flatMap f) (w * i + off) n = frameField (f x) off n := by
  have hi : i < l.length := (List.getElem?_eq_some_iff.mp hx).1
  have hb : (l.map f)[i]? = some (f x) := by rw [List.getElem?_map, hx]; rfl
  have hl : (((l.map f).map List.length).take i).sum = w * i := by
    have hf : List.length ∘ f = fun _ => w := funext hw
    rw [List.map_map, hf, List.map_const', List.take_replicate, List.sum_replicate, Nat.min_eq_left (by omega), smul_eq_mul,
      Nat.mul_comm]
  have hfield := frameField_flatten [] hb (h.trans_eq (hw x).symm)
  rwa [hl, List.append_nil, ← List.flatMap_def] at hfield

/-- A number of a table of numbers of `w` bytes each. -/
theorem frameField_table {l : List Nat} {f : Nat → Nat} {i w x : Nat} (hx : l[i]? = some x) :
    frameField (l.flatMap (fun y => toBytes (f y) w)) (w * i) w = f x % 2 ^ (8 * w) := by
  have h := frameField_flatMap (off := 0) (n := w) (fun y => length_toBytes (f y) w) hx (Nat.le_of_eq (Nat.zero_add w))
  rw [Nat.add_zero, frameField_toBytes _ (by omega)] at h
  simpa using h

theorem length_table (l : List Nat) (f : Nat → Nat) (w : Nat) : (l.flatMap (fun y => toBytes (f y) w)).length = l.length * w := by
  simp [List.length_flatMap]

/-! ### The lists of lanes and registers -/

theorem rangeFrom_eq_range' (a n : Nat) : rangeFrom a n = List.range' a n := by
  induction n generalizing a with
  | zero => rfl
  | succ n ih => rw [rangeFrom, List.range'_succ, ih]

theorem rangeFrom_zero_eq_range (n : Nat) : rangeFrom 0 n = List.range n := by rw [rangeFrom_eq_range', List.range_eq_range']

theorem getElem?_rangeFrom_zero {n k : Nat} (hk : k < n) : (rangeFrom 0 n)[k]? = some k := by
  rw [rangeFrom_zero_eq_range, List.getElem?_range hk]

theorem getElem?_laneList {k : Nat} (hk : k < 32) : laneList[k]? = some k := getElem?_rangeFrom_zero hk

/-! ### Bit masks -/

theorem testBit_eq_of_div_mod {x i : Nat} {b : Bool} (h : x / 2 ^ i % 2 = b.toNat) : x.testBit i = b := by
  rw [Nat.testBit_eq_decide_div_mod_eq, h]
  cases b <;> rfl

theorem ite_eq_toNat_mul (b : Bool) (n : Nat) : (if b then n else 0) = b.toNat * n := by cases b <;> simp

theorem markBits_succ (g : Group) (lo n : Nat) :
    markBits g lo (n + 1) = if Sparse.get 0 g.marks (lo + n) = 0 then markBits g lo n else markBits g lo n + 2 ^ n := by
  simp only [markBits, rangeFrom_zero_eq_range, List.range_succ, List.foldl_concat]

theorem markBits_lt (g : Group) (lo n : Nat) : markBits g lo n < 2 ^ n := by
  induction n with
  | zero => exact Nat.one_pos
  | succ n ih =>
    rw [markBits_succ, Nat.pow_succ]
    split <;> omega

theorem testBit_markBits (g : Group) (lo : Nat) {n k : Nat} (hk : k < n) :
    (markBits g lo n).testBit k = decide (Sparse.get 0 g.marks (lo + k) ≠ 0) := by
  induction n with
  | zero => omega
  | succ n ih =>
    rw [markBits_succ]
    obtain hlt | rfl : k < n ∨ k = n := by omega
    · split
      · exact ih hlt
      · rw [Nat.add_comm, Nat.testBit_two_pow_add_gt hlt, ih hlt]
    · have hclear := Nat.testBit_lt_two_pow (markBits_lt g lo k)
      split
      · next h => simp [h, hclear]
      · next h => rw [Nat.add_comm, Nat.testBit_two_pow_add_eq]; simp [h, hclear]

/-! ### The blocks of a frame -/

/-- The doubleword at 0x000 of a group's frame. -/
def causeWord (g : Group) : Nat :=
  g.cause.cause * 2 ^ 59 + g.cause.lane * 2 ^ 54 + (if g.entPreempt then 2 ^ 53 else 0) + (if g.entResume then 2 ^ 52 else 0) +
    g.skid * 2 ^ 49 + g.cause.code % 65536 * 2 ^ 32 + g.live.toNat

/-- The doubleword at 0x008, in a team with the reporting origin given. -/
def originWord (g : Group) (origin : Nat) : Nat :=
  (if g.cause.tokv then 2 ^ 47 else 0) + g.cause.token * 2 ^ 43 + g.cause.tcause * 2 ^ 38 + origin * 2 ^ 33 +
    (if g.cause.self then 2 ^ 32 else 0) + g.cause.present.toNat

/-- The doubleword at 0x010, for the queue reads withdrawn (R166). -/
def queueWord : List QRead → Nat
  | [] => 0
  | q :: _ => 2 ^ 63 + q.dest * 2 ^ 52 + q.queue * 2 ^ 46 + (if q.wide then 2 ^ 45 else 0) + (if q.fb then 2 ^ 44 else 0) + q.lanes.toNat

/-- The lines of the frame's table (R314), up to the reserved bytes at 0x4B0. -/
def frameBlocks (s : State) (grp held : Nat) : List (List Byte) :=
  let g := s.group grp
  [toBytes (causeWord g) 8, toBytes (originWord g (s.team (teamOf grp)).origin) 8, toBytes (queueWord g.qread) 8,
    toBytes (held * 2 ^ 32 + g.gen) 8, (rangeFrom 0 7).flatMap (fun r => toBytes (g.pred r).toNat 4), toBytes 0 4,
    laneList.flatMap (fun i => toBytes (Sparse.get 0 g.cause.causes i) 1),
    laneList.flatMap (fun i => toBytes ((if g.live.getLsbD i then 2 ^ 63 else 0) + g.pc i) 8),
    (rangeFrom 0 4).flatMap (fun r => laneList.flatMap (fun i => toBytes (g.readV r i) 4)),
    toBytes (markBits g 0 1536) 192, toBytes (markBits g 1536 64) 8, toBytes (g.nbpend % 65536 * 2 ^ 16 + g.nbph % 65536) 8,
    laneList.flatMap (fun i => toBytes (if g.live.getLsbD i then laneHeader s grp i else g.hdr i) 4)]

theorem frameHead_eq (s : State) (g : Nat) :
    frameHead s g = toBytes (causeWord (s.group g)) 8 ++ toBytes (originWord (s.group g) (s.team (teamOf g)).origin) 8 ++
      toBytes (queueWord (s.group g).qread) 8 := by
  cases h : (s.group g).qread <;> simp only [frameHead, h] <;> rfl

theorem frameOf_eq_flatten (s : State) (g held : Nat) : frameOf s g held = (frameBlocks s g held).flatten := by
  have hbytes : ∀ f : Nat → Nat, laneList.map (fun i => BitVec.ofNat 8 (f i)) = laneList.flatMap (fun i => toBytes (f i) 1) :=
    fun f => List.map_eq_flatMap
  simp only [frameOf, frameHead_eq, frameBody, hbytes, frameBlocks, List.flatten_cons, List.flatten_nil, List.append_nil,
    List.append_assoc]

/-- How many bytes each line of the table takes. -/
def frameSizes : List Nat := [8, 8, 8, 8, 28, 4, 32, 256, 512, 192, 8, 8, 128]

theorem length_vRow (g : Group) (r : Nat) : (laneList.flatMap (fun i => toBytes (g.readV r i) 4)).length = 128 :=
  length_table _ _ _

theorem length_vRows (g : Group) :
    ((rangeFrom 0 4).flatMap (fun r => laneList.flatMap (fun i => toBytes (g.readV r i) 4))).length = 512 := by
  simp only [List.length_flatMap (f := fun r => laneList.flatMap _), length_vRow]
  rfl

theorem frameBlocks_lengths (s : State) (g held : Nat) : (frameBlocks s g held).map List.length = frameSizes := by
  simp only [frameBlocks, List.map_cons, List.map_nil, length_table, length_toBytes, length_vRows]
  rfl

theorem length_frameOf (s : State) (g held : Nat) : (frameOf s g held).length = 0x4B0 := by
  rw [frameOf_eq_flatten, List.length_flatten, frameBlocks_lengths]
  rfl

/-! ### The frame's bytes as a whole -/

theorem length_wholeFrame (s : State) (g held : Nat) : (wholeFrame s g held).length = 0x1000 := by
  change (frameOf s g held ++ List.replicate 2896 0#8).length = 0x1000
  rw [List.length_append, length_frameOf, List.length_replicate]

theorem frameOf_prefix_wholeFrame (s : State) (g held : Nat) : frameOf s g held <+: wholeFrame s g held :=
  List.prefix_append _ _

theorem take_wholeFrame (s : State) (g held : Nat) : (wholeFrame s g held).take 0x4B0 = frameOf s g held :=
  List.take_left' (length_frameOf s g held)

theorem wholeFrame_reserved (s : State) (g held : Nat) {a : Nat} (h1 : 0x4B0 ≤ a) (h2 : a < 0x1000) :
    (wholeFrame s g held)[a]? = some 0#8 := by
  change (frameOf s g held ++ List.replicate 2896 0#8)[a]? = some 0#8
  rw [List.getElem?_append_right (by rw [length_frameOf]; exact h1), length_frameOf, List.getElem?_replicate_of_lt (by omega)]

/-! ### The fields, in any bytes that begin with the frame -/

section Fields

variable {s : State} {g held : Nat} {bs : List Byte} (hbs : frameOf s g held <+: bs)
include hbs

/-- A field at `at_` lies at `off` of block `i`. -/
theorem frameField_block {i at_ off n : Nat} {b : List Byte} (hb : (frameBlocks s g held)[i]? = some b)
    (hat : at_ = (frameSizes.take i).sum + off) (h : off + n ≤ b.length) :
    frameField bs at_ n = frameField b off n := by
  obtain ⟨rest, rfl⟩ := hbs
  rw [hat, ← frameBlocks_lengths s g held, frameOf_eq_flatten]
  exact frameField_flatten rest hb h

/-- The same, of a block that is one number. -/
theorem frameField_number (i at_ off n : Nat) {x m : Nat} (hb : (frameBlocks s g held)[i]? = some (toBytes x m))
    (hat : at_ = (frameSizes.take i).sum + off) (h : off + n ≤ m) :
    frameField bs at_ n = x / 2 ^ (8 * off) % 2 ^ (8 * n) := by
  rw [frameField_block hbs hb hat (by rwa [length_toBytes]), frameField_toBytes x h]

/-- The same, of the low bytes of a block that is one number. -/
theorem frameField_lowBytes (i at_ n : Nat) {x m : Nat} (hb : (frameBlocks s g held)[i]? = some (toBytes x m))
    (hat : at_ = (frameSizes.take i).sum) (h : n ≤ m) :
    frameField bs at_ n = x % 2 ^ (8 * n) := by
  rw [frameField_number hbs i at_ 0 n hb hat (by omega), Nat.mul_zero, Nat.pow_zero, Nat.div_one]

/-- The same, of a block that is a table of numbers. -/
theorem frameField_entry (i : Nat) {at_ k x w : Nat} {l : List Nat} (f : Nat → Nat)
    (hb : (frameBlocks s g held)[i]? = some (l.flatMap (fun y => toBytes (f y) w)))
    (hat : at_ = (frameSizes.take i).sum + w * k) (hx : l[k]? = some x) :
    frameField bs at_ w = f x % 2 ^ (8 * w) := by
  have hk : k < l.length := (List.getElem?_eq_some_iff.mp hx).1
  have hfit : w * k + w ≤ l.length * w := by rw [← Nat.mul_succ, Nat.mul_comm]; exact Nat.mul_le_mul_right w hk
  rw [frameField_block hbs hb hat (by rwa [length_table]), frameField_table hx]

/-- R314, 0x000: the reported cause and lane, how the handler was entered, the skid, the code, the live lanes. -/
theorem frame_cause (hc : (s.group g).cause.cause < 32) (hl : (s.group g).cause.lane < 32) (hs : (s.group g).skid < 8) :
    frameField bs 0 8 / 2 ^ 59 = (s.group g).cause.cause ∧ frameField bs 0 8 / 2 ^ 54 % 32 = (s.group g).cause.lane ∧
    (frameField bs 0 8).testBit 53 = (s.group g).entPreempt ∧ (frameField bs 0 8).testBit 52 = (s.group g).entResume ∧
    frameField bs 0 8 / 2 ^ 49 % 8 = (s.group g).skid ∧ (frameField bs 0 8).testBit 48 = false ∧
    frameField bs 0 8 / 2 ^ 32 % 65536 = (s.group g).cause.code % 65536 ∧ frameField bs 0 4 = (s.group g).live.toNat := by
  have hword : frameField bs 0 8 = causeWord (s.group g) % 2 ^ 64 := frameField_lowBytes hbs 0 0 8 rfl rfl (by decide)
  have hlow : frameField bs 0 4 = causeWord (s.group g) % 2 ^ 32 := frameField_lowBytes hbs 0 0 4 rfl rfl (by decide)
  have hlive : (s.group g).live.toNat < 2 ^ 32 := (s.group g).live.isLt
  have hp := Bool.toNat_le (s.group g).entPreempt
  have hr := Bool.toNat_le (s.group g).entResume
  rw [hword, hlow]
  refine ⟨?_, ?_, testBit_eq_of_div_mod ?_, testBit_eq_of_div_mod ?_, ?_, testBit_eq_of_div_mod ?_, ?_, ?_⟩ <;>
    simp only [causeWord, ite_eq_toNat_mul, Bool.toNat_false] <;> omega

/-- R314, 0x008: the token with its cause, the team's origin, the self bit, the present lanes. -/
theorem frame_origin (ht : (s.group g).cause.token < 16) (hc : (s.group g).cause.tcause < 32) (ho : (s.team (teamOf g)).origin < 32) :
    (frameField bs 8 8).testBit 47 = (s.group g).cause.tokv ∧ frameField bs 8 8 / 2 ^ 43 % 16 = (s.group g).cause.token ∧
    frameField bs 8 8 / 2 ^ 38 % 32 = (s.group g).cause.tcause ∧ frameField bs 8 8 / 2 ^ 33 % 32 = (s.team (teamOf g)).origin ∧
    (frameField bs 8 8).testBit 32 = (s.group g).cause.self ∧ frameField bs 8 8 / 2 ^ 48 = 0 ∧
    frameField bs 8 4 = (s.group g).cause.present.toNat := by
  have hword : frameField bs 8 8 = originWord (s.group g) (s.team (teamOf g)).origin % 2 ^ 64 :=
    frameField_lowBytes hbs 1 8 8 rfl rfl (by decide)
  have hlow : frameField bs 8 4 = originWord (s.group g) (s.team (teamOf g)).origin % 2 ^ 32 :=
    frameField_lowBytes hbs 1 8 4 rfl rfl (by decide)
  have hpresent : (s.group g).cause.present.toNat < 2 ^ 32 := (s.group g).cause.present.isLt
  have hv := Bool.toNat_le (s.group g).cause.tokv
  have hs := Bool.toNat_le (s.group g).cause.self
  rw [hword, hlow]
  refine ⟨testBit_eq_of_div_mod ?_, ?_, ?_, ?_, testBit_eq_of_div_mod ?_, ?_, ?_⟩ <;>
    simp only [originWord, ite_eq_toNat_mul] <;> omega

/-- R314, 0x010: the queue read withdrawn (R166). -/
theorem frame_queueRead : QueueReadField (s.group g).qread (frameField bs 0x10 8) := by
  have hword : frameField bs 0x10 8 = queueWord (s.group g).qread % 2 ^ 64 := frameField_lowBytes hbs 2 0x10 8 rfl rfl (by decide)
  rw [hword]
  cases (s.group g).qread with
  | nil => rfl
  | cons q l =>
    intro hd hq
    have hlanes : q.lanes.toNat < 2 ^ 32 := q.lanes.isLt
    have hw := Bool.toNat_le q.wide
    have hf := Bool.toNat_le q.fb
    refine ⟨testBit_eq_of_div_mod ?_, ?_, ?_, testBit_eq_of_div_mod ?_, testBit_eq_of_div_mod ?_, ?_, ?_⟩ <;>
      simp only [queueWord, ite_eq_toNat_mul, Bool.toNat_true] <;> omega

/-- R314, 0x018: the generation and the count of held images. -/
theorem frame_generation (hg : (s.group g).gen < 2 ^ 32) (hh : held < 16) :
    frameField bs 0x18 4 = (s.group g).gen ∧ frameField bs 0x1C 4 = held := by
  rw [frameField_lowBytes hbs 3 0x18 4 rfl rfl (by decide), frameField_number hbs 3 0x1C 4 4 rfl rfl (by decide)]
  omega

theorem frame_pred {r : Nat} (hr : r < 7) : frameField bs (0x20 + 4 * r) 4 = ((s.group g).pred r).toNat := by
  have hentry := frameField_entry hbs 4 (at_ := 0x20 + 4 * r) _ rfl rfl (getElem?_rangeFrom_zero hr)
  rw [hentry]
  exact Nat.mod_eq_of_lt ((s.group g).pred r).isLt

theorem frame_laneCause {k : Nat} (hk : k < 32) : frameField bs (0x40 + k) 1 = Sparse.get 0 (s.group g).cause.causes k % 256 :=
  frameField_entry hbs 6 (fun i => Sparse.get 0 (s.group g).cause.causes i) rfl (by rw [Nat.one_mul]; rfl) (getElem?_laneList hk)

theorem frame_pc {k : Nat} (hk : k < 32) (hpc : (s.group g).pc k < 2 ^ 57) :
    frameField bs (0x60 + 8 * k) 8 = (if (s.group g).live.getLsbD k then 2 ^ 63 else 0) + (s.group g).pc k := by
  have hentry := frameField_entry hbs 7 (at_ := 0x60 + 8 * k) _ rfl rfl (getElem?_laneList hk)
  rw [hentry]
  split <;> omega

theorem frame_v {r k : Nat} (hr : r < 4) (hk : k < 32) : frameField bs (0x160 + 128 * r + 4 * k) 4 = (s.group g).readV r k := by
  have hrow := frameField_block hbs (i := 8) (at_ := 0x160 + 128 * r + 4 * k) (off := 128 * r + 4 * k) (n := 4) rfl
    (Nat.add_assoc _ _ _) (by rw [length_vRows]; omega)
  rw [hrow, frameField_flatMap (length_vRow _) (getElem?_rangeFrom_zero hr) (by omega), frameField_table (getElem?_laneList hk)]
  exact Nat.mod_eq_of_lt (BitVec.isLt _)

/-- R314, 0x360: the marks of the vector registers. -/
theorem frame_vmark {n : Nat} (hn : n < 1536) :
    (frameField bs 0x360 192).testBit n = decide (Sparse.get 0 (s.group g).marks n ≠ 0) := by
  rw [frameField_lowBytes hbs 9 0x360 192 rfl rfl (by decide), Nat.mod_eq_of_lt (markBits_lt _ _ _), testBit_markBits _ _ hn, Nat.zero_add]

/-- R314, 0x420: the marks of the scalars. -/
theorem frame_smark {n : Nat} (hn : n < 64) :
    (frameField bs 0x420 8).testBit n = decide (Sparse.get 0 (s.group g).marks (1536 + n) ≠ 0) := by
  rw [frameField_lowBytes hbs 10 0x420 8 rfl rfl (by decide), Nat.mod_eq_of_lt (markBits_lt _ _ _), testBit_markBits _ _ hn]

/-- R314, 0x428: the phase words of the named barriers. -/
theorem frame_barriers : frameField bs 0x428 2 = (s.group g).nbph % 65536 ∧ frameField bs 0x42A 2 = (s.group g).nbpend % 65536 := by
  rw [frameField_lowBytes hbs 11 0x428 2 rfl rfl (by decide), frameField_number hbs 11 0x42A 2 2 rfl rfl (by decide)]
  omega

/-- R314, R319, 0x430: the header of the clause that holds a live lane's counter. -/
theorem frame_header {k : Nat} (hk : k < 32) :
    frameField bs (0x430 + 4 * k) 4 = (if (s.group g).live.getLsbD k then laneHeader s g k else (s.group g).hdr k) % 2 ^ 32 :=
  frameField_entry hbs 12 (fun i => if (s.group g).live.getLsbD i then laneHeader s g i else (s.group g).hdr i) rfl rfl
    (getElem?_laneList hk)

end Fields

/-- Settles O44: a frame is its blocks, and each field is read from its place in its block. -/
theorem frameLayout : Obligations.FrameLayout := by
  intro s g held hcause hlane hskid hgen hheld htoken htcause horigin x bs
  have hbs := frameOf_prefix_wholeFrame s g held
  obtain ⟨cause, lane, preempt, resume, skid, clear, code, live⟩ := frame_cause hbs hcause hlane hskid
  obtain ⟨tokv, token, tcause, origin, self, reserved, present⟩ := frame_origin hbs htoken htcause horigin
  obtain ⟨gen, images⟩ := frame_generation hbs hgen hheld
  obtain ⟨nbph, nbpend⟩ := frame_barriers hbs
  exact ⟨length_wholeFrame s g held, take_wholeFrame s g held, fun _ => wholeFrame_reserved s g held,
    cause, lane, preempt, resume, skid, code, live, present, tokv, token, tcause, origin, self, reserved, clear,
    frame_queueRead hbs, fun _ => frame_vmark hbs, fun _ => frame_smark hbs, gen, images, fun _ => frame_pred hbs,
    fun _ => frame_laneCause hbs, fun _ => frame_pc hbs, fun _ _ => frame_v hbs, nbph, nbpend, fun _ => frame_header hbs⟩

end Sys2Proof.Proofs

/-! Degraded operation (R12 to R14, R257, R409, R410): what each failure and each repair answers where it is enabled, an equation
a case, and from them that every event of `IsRepair` turns as its rule says. -/

namespace Sys2Proof.Proofs

open Sys2Proof Sys2Proof.Machine Sys2Proof.Rules

section Repairs

variable {s : State}

/-! ### Links and lanes -/

/-- R13: a link comes back once lanes are left, its die is there, and the side path has drained. -/
theorem execHubLinkRestored_drained {d : Nat} (hdown : (s.die d).linkDown = true) (hlanes : (s.die d).lanes ≠ 0)
    (hon : (s.die d).offline = false) (hpath : pathDrained s d = true) :
    execHubLinkRestored d s = .next (s.modDie d (fun x => { x with linkDown := false, rerouted := false })) := by
  simp [execHubLinkRestored, hdown, hlanes, hon, hpath]

theorem execLaneRetirement_notDue {k n : Nat} (w : Nat) (hdue : ¬ s.mgmt.retires (4 + k) n = true) : execLaneRetirement k n w s = .next s :=
  if_pos (by simpa using hdue)

/-- R409: a hub link goes on over fewer lanes; with none its traffic goes another way (R12). -/
theorem execLaneRetirement_hub {d w : Nat} (hdue : s.mgmt.retires 4 d = true) (hd : d < 16) (hw : w < (s.die d).lanes) :
    execLaneRetirement 0 d w s =
      .next (if w = 0 then failLink ((unitRetired s 4 d).modDie d (fun x => { x with lanes := w })) d
        else (unitRetired s 4 d).modDie d (fun x => { x with lanes := w })) := by
  simp [execLaneRetirement, hdue, dieCount, Nat.not_le.mpr hd, Nat.not_le.mpr hw]

/-- R409: a station goes on over one or two lanes; with none it stops. -/
theorem execLaneRetirement_station {n w : Nat} (hdue : s.mgmt.retires 5 n = true) (hn : n < 24) (hw3 : w < 3) (hw : w < (s.station n).lanes) :
    execLaneRetirement 1 n w s =
      .next (if w = 0 then stopStation ((unitRetired s 5 n).modStation n (fun x => { x with lanes := w })) n
        else (unitRetired s 5 n).modStation n (fun x => { x with lanes := w })) := by
  simp [execLaneRetirement, hdue, stationCount, Nat.not_le.mpr hn, Nat.not_le.mpr hw3, Nat.not_le.mpr hw]

/-- R384, R409: a port goes on over eight or four of its lanes. -/
theorem execLaneRetirement_port {p w : Nat} (hdue : s.mgmt.retires 6 p = true) (hp : p < 3) (hw : w = 8 ∨ w = 4) (hless : w < portLanes s p) :
    execLaneRetirement 2 p w s = .next ((unitRetired s 6 p).modHost (fun h => { h with width := Sparse.set 0 h.width p w })) := by
  simp [execLaneRetirement, hdue, hp, hw, hless]

/-! ### Cores -/

theorem execCoreRetire_past {c : Nat} (hc : c < 2048) (hpast : s.mgmt.past 0 c = true) (hin : (s.core c).retired = false) :
    execCoreRetire c s = .next (s.modCore c (fun x => { x with marked := true })) := by
  simp [execCoreRetire, coreCount, hc, hpast, hin]

theorem execCoreRetire_notPast {c : Nat} (hpast : s.mgmt.past 0 c = false) : execCoreRetire c s = .next s := by
  simp [execCoreRetire, hpast]

theorem execCoreRetirementComplete_empty {c : Nat} (hmarked : (s.core c).marked = true) (hin : (s.core c).retired = false)
    (hteams : teamsOn s c = []) (hreduces : reducesOn s c = 0) :
    execCoreRetirementComplete c s = .next (askReplacement (s.modCore c (fun x => { x with retired := true }))) := by
  simp [execCoreRetirementComplete, hmarked, hin, hteams, hreduces]

theorem execCoreUncorrectable_inService {c : Nat} (hc : c < 2048) (hin : (s.core c).retired = false) :
    execCoreUncorrectable c s =
      .next (askReplacement ((loseCore s c true).modCore c (fun x => { x with retired := true, marked := true }))) := by
  simp [execCoreUncorrectable, coreCount, hc, hin]

/-! ### Slices -/

/-- R257: a slice of a die that retires no other one gives up its lines. -/
theorem execSliceFlush_due {d n : Nat} (bad : List Nat) (hdue : s.mgmt.retires 1 (512 * d + n) = true) (hd : d < 16) (hn : n < 512)
    (hphase : (s.slice d).phase = 0) (hin : n ∉ (s.slice d).retired) :
    execSliceFlush d n bad s =
      .next ((linesHeld (sliceOut d n bad s) d).foldl (fun s l => dropFlushed s l d) (sliceOut d n bad s)) :=
  if_neg (by simp [dieCount, Nat.not_le.mpr hd, hn, hphase, hin, hdue])

theorem execSliceMapSwitch_idle {d : Nat} (hphase : (s.slice d).phase = 1) (hidle : sliceBusy s d (s.slice d).slice = false) :
    execSliceMapSwitch d s = .next ((s.modMem (fun m => { m with
      copies := m.copies.filter (fun p => !(p.1 % 16 = d && sliceOf s d (p.1 / 16) = (s.slice d).slice)) })).modSlice d (fun x =>
        { x with phase := 2, newMap := mapWithout x x.slice, adopted := [], quiet := 0 })) :=
  if_neg (by simp [hphase, hidle])

theorem execCoreMapAdopt_first {c : Nat} (hphase : (s.slice (dieOf c)).phase = 2) (hnew : c ∉ (s.slice (dieOf c)).adopted)
    (hquiet : asksSlice s c (s.slice (dieOf c)).slice = false) :
    execCoreMapAdopt c s = .next (s.modSlice (dieOf c) (fun x => { x with adopted := c :: x.adopted })) :=
  if_neg (by simp [hphase, hnew, hquiet])

/-- The cores of a die are numbered from 128 times its number. -/
theorem allAdopted_iff (x : SliceState) (d : Nat) :
    allAdopted x d = true ↔ ∀ c, 128 * d ≤ c → c < 128 * d + 128 → c ∈ x.adopted := by
  simp only [allAdopted, List.all_eq_true, decide_eq_true_eq, Laws.mem_rangeFrom, and_imp]

theorem execSliceEnd_adopted {d : Nat} (hphase : (s.slice d).phase = 2) (hall : allAdopted (s.slice d) d = true)
    (hquiet : quietRun ≤ (s.slice d).quiet) :
    execSliceEnd d s =
      .next (s.modSlice d (fun x => { x with map := x.newMap, newMap := [], phase := 0, adopted := [], quiet := 0 })) :=
  if_pos (by simp [hphase, hall, hquiet])

/-! ### Rows and banks -/

/-- R409: a row goes into a spare one, the last of which asks for a replacement (R410); without a spare it fails. -/
theorem execHbmRowRetire_due {k r : Nat} (hdue : s.mgmt.retires 2 (12 * r + k) = true) (hk : k < 12) :
    execHbmRowRetire k r s =
      if sparesLeft s k = 0 then
        .next ((failRow (unitRetired s 2 (12 * r + k)) k r).modMgmt (fun m => { m with rows := m.rows + 1 }))
      else if sparesLeft s k = 1 then .next (askReplacement (useSpares (unitRetired s 2 (12 * r + k)) k 1))
      else .next (useSpares (unitRetired s 2 (12 * r + k)) k 1) :=
  if_neg (by simp [hk, hdue])

/-- R409: the rows of a bank go into spare ones, all together or not at all; a bank struck by a failure has nothing to save. -/
theorem execHbmBankRetire_due {k b : Nat} (hdue : s.mgmt.retires 3 (12 * b + k) = true) (hk : k < 12) :
    execHbmBankRetire k b s =
      .next (askReplacement ((if (Config.rowsOfBank k b).length ≤ sparesLeft s k && !s.mgmt.hit 3 (12 * b + k) then
          useSpares (unitRetired s 3 (12 * b + k)) k (Config.rowsOfBank k b).length
        else (Config.rowsOfBank k b).foldl (fun s r => failRow s k r) (unitRetired s 3 (12 * b + k))).modMgmt (fun m =>
          { m with banks := m.banks ||| 2 ^ k }))) :=
  if_neg (by simp [hk, hdue])

end Repairs

/-- Settles O60: each event answers what the equation of its case says. -/
theorem repairEvents : Obligations.RepairEvents := by
  intro i r h s hwhen
  cases h with
  | linkDown d => exact Laws.exec_hubLinkFailure d s
  | linkUp d =>
    obtain ⟨hdown, hlanes, hon, hpath⟩ := hwhen
    rw [Laws.exec_hubLinkRestored, execHubLinkRestored_drained hdown hlanes hon hpath]
  | hubLanes d w =>
    obtain ⟨hdue, hd, hw0, hw⟩ := hwhen
    rw [Laws.exec_laneRetirement, execLaneRetirement_hub hdue hd hw, if_neg hw0]
  | hubLanesGone d =>
    obtain ⟨hdue, hd, hlanes⟩ := hwhen
    rw [Laws.exec_laneRetirement, execLaneRetirement_hub hdue hd (Nat.pos_of_ne_zero hlanes), if_pos rfl]
  | stationLanes n w =>
    obtain ⟨hdue, hn, hw12, hw⟩ := hwhen
    rw [Laws.exec_laneRetirement, execLaneRetirement_station hdue hn (by omega) hw, if_neg (by omega)]
  | stationLanesGone n =>
    obtain ⟨hdue, hn, hlanes⟩ := hwhen
    rw [Laws.exec_laneRetirement, execLaneRetirement_station hdue hn (by decide) (Nat.pos_of_ne_zero hlanes), if_pos rfl]
  | portLanes p w =>
    obtain ⟨hdue, hp, hw, hless⟩ := hwhen
    rw [Laws.exec_laneRetirement, execLaneRetirement_port hdue hp hw hless]
  | lanesStay k n w => rw [Laws.exec_laneRetirement, execLaneRetirement_notDue w hwhen]
  | coreMarked c =>
    obtain ⟨hc, hpast, hin⟩ := hwhen
    rw [Laws.exec_coreRetire, execCoreRetire_past hc hpast hin]
  | coreStays c => rw [Laws.exec_coreRetire, execCoreRetire_notPast hwhen]
  | coreGone c =>
    obtain ⟨hmarked, hin, hteams, hreduces⟩ := hwhen
    rw [Laws.exec_coreRetirementComplete, execCoreRetirementComplete_empty hmarked hin hteams hreduces]
  | coreLost c =>
    obtain ⟨hc, hin⟩ := hwhen
    rw [Laws.exec_coreUncorrectable, execCoreUncorrectable_inService hc hin]
  | sliceFlush d n bad =>
    obtain ⟨hdue, hd, hn, hphase, hin⟩ := hwhen
    rw [Laws.exec_sliceFlush, execSliceFlush_due bad hdue hd hn hphase hin]
  | sliceSwitch d =>
    obtain ⟨hphase, hidle⟩ := hwhen
    rw [Laws.exec_sliceMapSwitch, execSliceMapSwitch_idle hphase hidle]
  | adopt c =>
    obtain ⟨hphase, hnew, hquiet⟩ := hwhen
    rw [Laws.exec_coreMapAdopt, execCoreMapAdopt_first hphase hnew hquiet]
  | sliceEnd d =>
    obtain ⟨hphase, hadopted, hquiet⟩ := hwhen
    rw [Laws.exec_sliceEnd, execSliceEnd_adopted hphase ((allAdopted_iff _ d).mpr hadopted) hquiet]
  | row k r =>
    obtain ⟨hdue, hk, hleft⟩ := hwhen
    rw [Laws.exec_hbmRowRetire, execHbmRowRetire_due hdue hk, if_neg (by omega), if_neg (by omega)]
  | rowLast k r =>
    obtain ⟨hdue, hk, hleft⟩ := hwhen
    rw [Laws.exec_hbmRowRetire, execHbmRowRetire_due hdue hk, if_neg (by omega), if_pos hleft]
  | rowFails k r =>
    obtain ⟨hdue, hk, hleft⟩ := hwhen
    rw [Laws.exec_hbmRowRetire, execHbmRowRetire_due hdue hk, if_pos hleft]
  | bank k b =>
    obtain ⟨hdue, hsound, hk, hfits⟩ := hwhen
    rw [Laws.exec_hbmBankRetire, execHbmBankRetire_due hdue hk, if_pos (by simp [hsound, hfits])]
  | bankFails k b =>
    obtain ⟨hdue, hk, hlost⟩ := hwhen
    have hkept : ¬ ((Config.rowsOfBank k b).length ≤ sparesLeft s k && !s.mgmt.hit 3 (12 * b + k)) = true := by
      rcases hlost with hhit | hfew
      · simp [hhit]
      · simp [Nat.not_le.mpr hfew]
    rw [Laws.exec_hbmBankRetire, execHbmBankRetire_due hdue hk, if_neg hkept]

end Sys2Proof.Proofs

/-! What reset leaves, the spec's values and no others (R41, R44, R206, R303, R357, R361, R387, R392, R397, R407, R412, R416). -/

namespace Sys2Proof.Proofs

open Sys2Proof Sys2Proof.Machine Sys2Proof.Rules

theorem reset_core (c : Nat) : State.reset.core c = {} := rfl

theorem reset_die (d : Nat) : State.reset.die d = {} := rfl

theorem reset_slice (d : Nat) : State.reset.slice d = {} := rfl

/-- R256: a map that lists nothing sends each entry to the slice of its number. -/
theorem mapSlice_default (e : Nat) : mapSlice {} e = e % 512 := Laws.get_nil (e % 512) e

/-- Settles O11: every table of the state after reset is empty, so a read of it gives the default of its entries. -/
theorem resetValues : Obligations.ResetValues := by
  refine ⟨fun c => ?core, fun d => ?die, fun q k => Laws.get_nil 0 (8 * q + k), Laws.get_nil false, rfl, rfl, Laws.get_nil 0, rfl, rfl, rfl,
    rfl, fun _ => rfl⟩
  case core =>
    have hsem : ∀ k, State.reset.sem c k = 0 := fun k => by rw [State.sem, reset_core]; exact Laws.get_nil 0 k
    rw [State.engine, reset_core]
    exact ⟨rfl, rfl, hsem⟩
  case die =>
    rw [reset_die, reset_slice]
    exact ⟨rfl, rfl, fun e _ => mapSlice_default e⟩

end Sys2Proof.Proofs

/-! Reset, power, the measured boot and measurements; temperature, droop, the reserve, capacity and the ports (R41, R42, R44, R384, R396,
R407, R408, R412 to R414, R416): what each event answers where it is enabled. -/

namespace Sys2Proof.Proofs

open Sys2Proof Sys2Proof.Machine Sys2Proof.Rules

section Package

variable {s : State}

/-! ### Power samples -/

/-- R407: four samples above the limit raise the alarm. -/
theorem powerHigh_iff (m : Mgmt) : powerHigh m = true ↔ lastSamples m 4 (fun y => m.limit * 1000 < y) := by
  simp [powerHigh, lastSamples]

/-- R407: sixteen samples at or below 95 % of the limit end it; a history that a sample has entered holds no more than sixteen. -/
theorem powerLow_sampled (x : Nat) :
    powerLow (sampled s x).mgmt = true ↔
      lastSamples (sampled s x).mgmt 16 (fun y => y ≤ (sampled s x).mgmt.limit * 95 / 100 * 1000) := by
  have hkept : (sampled s x).mgmt.history.take 16 = (sampled s x).mgmt.history := by
    rw [List.take_of_length_le]
    exact List.length_take_le 16 _
  simp only [powerLow, lastSamples, hkept, Bool.and_eq_true, decide_eq_true_eq, List.all_eq_true]

theorem settleAlarm_raised (hoff : s.mgmt.alarm = false) (hhigh : powerHigh s.mgmt = true) :
    settleAlarm s = signal (s.modMgmt (fun m => { m with alarm := true })) 65 :=
  if_pos (by simp [hoff, hhigh])

theorem settleAlarm_ended (hon : s.mgmt.alarm = true) (hlow : powerLow s.mgmt = true) :
    settleAlarm s = signal (s.modMgmt (fun m => { m with alarm := false })) 65 := by
  simp [settleAlarm, hon, hlow]

theorem settleAlarm_kept_off (hoff : s.mgmt.alarm = false) (hhigh : ¬ powerHigh s.mgmt = true) : settleAlarm s = s := by
  simp [settleAlarm, hoff, hhigh]

theorem settleAlarm_kept_on (hon : s.mgmt.alarm = true) (hlow : ¬ powerLow s.mgmt = true) : settleAlarm s = s := by
  simp [settleAlarm, hon, hlow]

theorem execPowerSample_eq (x : Nat) : execPowerSample x s = .next (settleAlarm (sampled s x)) := rfl

/-! ### The measured boot and the signed log -/

theorem execThermalShutdown_hot {d : Nat} (n : Nat) (hd : 115 ≤ d) :
    execThermalShutdown n d s =
      .next { freshPackage s { powered := false } with sched := { fresh := (freshPackage s { powered := false }).sched.fresh } } :=
  if_pos hd

theorem runningDigest_eq (m : Mgmt) : runningDigest m = if m.digest = [] then List.replicate 32 0#8 else m.digest := by
  simp only [runningDigest, List.isEmpty_iff]

/-- R412: a stage is loaded in its turn. -/
theorem execBootStageLoad_next {n : Nat} (v : Nat) (image : List Nat) (hturn : n = s.mgmt.boot.length) (hn : n < 15) :
    execBootStageLoad n v image s = .next (s.modMgmt (fun m =>
      { m with boot := m.boot ++ [{ stage := n, version := v % 2 ^ 32, digest := sha3 (image.map (BitVec.ofNat 8)) }]
               digest := sha3 (runningDigest m ++ sha3 (image.map (BitVec.ofNat 8))) })) :=
  if_pos (by simp [← hturn, bootStages, hn])

/-- R413: requests over the ports and the management's MCTP reach the port die, a peer's where there is a pod. -/
theorem reaches_iff (t : Nat) : reaches s t = true ↔ transportUp s t := by
  have hthree : t % 3 = 0 ∨ t % 3 = 1 ∨ t % 3 = 2 := by omega
  simp only [reaches, transportUp, transportOf, Bool.or_eq_true, bne_iff_ne, Option.isSome_iff_ne_none]
  rcases hthree with h | h | h <;> simp [h]

theorem execNegotiateAlgorithms_reached {t : Nat} (offers : List Nat) (hup : transportUp s t) :
    execNegotiateAlgorithms t offers s =
      if mlDsa ∈ offers ∧ sha3Hash ∈ offers then
        .next ((s.modMgmt (fun m => { m with agreed := Sparse.insert m.agreed t offers })).send (.algorithms t mlDsa sha3Hash))
      else .next ((s.modMgmt (fun m => { m with agreed := Sparse.erase m.agreed t })).send (.spdmError t)) := by
  simp [execNegotiateAlgorithms, (reaches_iff t).mpr hup]

/-- The blocks of R413: one for each stage, and a last one with the running digest. -/
theorem measurementBlocks_eq (m : Mgmt) : m.boot.map BootEntry.block ++ [runningDigest m] = blocksOf m := by
  rw [runningDigest_eq]
  rfl

theorem execGetMeasurements_agreed {t : Nat} (nonce : Nat) (hup : transportUp s t) (hagreed : Sparse.has s.mgmt.agreed t = true) :
    execGetMeasurements t nonce s =
      .next ((sendAll s ((List.range (blocksOf s.mgmt).length).zip (blocksOf s.mgmt) |>.map (fun p => .measurement t p.1 p.2))).send
        (.signed t (Config.signature s.mgmt.identity.secretKey
          (Config.spdmMessage (Sparse.get [] s.mgmt.agreed t) nonce (blocksOf s.mgmt))))) := by
  simp [execGetMeasurements, (reaches_iff t).mpr hup, hagreed, measurementBlocks_eq, rangeFrom_zero_eq_range, sendAll, List.foldl_map]

theorem execGetMeasurements_notAgreed {t : Nat} (nonce : Nat) (hup : transportUp s t) (hnone : Sparse.has s.mgmt.agreed t = false) :
    execGetMeasurements t nonce s = .next (s.send (.spdmError t)) := by
  simp [execGetMeasurements, (reaches_iff t).mpr hup, hnone]

/-- R412: a stage runs once its entry stands in the log; that of the management controller is stage 1. -/
theorem runsStage_controller : s.runsStage 1 = true ↔ controllerRuns s := decide_eq_true_iff

/-- R414: both sides authenticated and the chain good, the requester at hand holds a session. -/
theorem execSecureSession_authenticated (hruns : controllerRuns s) :
    execSecureSession true true s =
      .next (s.modMgmt (fun m => { m with sessions := m.asking :: m.sessions.filter (fun p => p != m.asking) })) :=
  if_pos (runsStage_controller.mpr hruns)

theorem execSecureSession_refused {a b : Bool} (h : ¬ (a = true ∧ b = true)) : execSecureSession a b s = .next s :=
  if_neg (by simpa using fun ha hb => absurd ⟨ha, hb⟩ h)

/-! ### Temperature and droop -/

/-- R41: the threshold makes a core too hot, six degrees below it end that, and between them it stays as it is. -/
theorem heat_reading (c : Core) (d : Nat) :
    Core.heat { c with reading := some d } = { c with reading := some d, tooHot := heated c.hot d c.tooHot } := by
  by_cases hhot : c.hot ≤ d
  · simp [Core.heat, heated, hhot]
  · by_cases hcool : d + 6 ≤ c.hot <;> simp [Core.heat, heated, hhot, hcool]

theorem execCoreTemperatureReading_core {c : Nat} (d : Nat) (hc : c < 2048) :
    execCoreTemperatureReading c d s =
      .next (s.modCore c (fun x => { x with reading := some d, tooHot := heated x.hot d x.tooHot })) := by
  rw [execCoreTemperatureReading, if_pos (show c < coreCount from hc)]
  simp only [heat_reading]

theorem execDroopEvent_core {c : Nat} (hc : c < 2048) :
    execDroopEvent c s = .next (s.modCore c (fun x =>
      let ds := s.cycle c :: x.droops.filter (fun d => s.cycle c < d + 65536)
      { x with droops := ds, lastDroop := s.cycle c, drooping := x.drooping || decide (4 < ds.length) })) :=
  if_pos hc

theorem execDroopQuiet_due {c : Nat} (hon : (s.core c).drooping = true) (hquiet : (s.core c).lastDroop + 65536 ≤ s.cycle c) :
    execDroopQuiet c s = .next (s.modCore c (fun x => { x with drooping := false, droops := [] })) :=
  if_pos (by simp [hon, droopSpan, hquiet])

/-! ### The communication reserve -/

theorem execReserveGrow_run {d : Nat} (hrun : 4096 ≤ (s.die d).above) :
    execReserveGrow d s = .next (s.modDie d (fun x => { x with
      above := x.above - 4096, reserve := if gangPlacing s = none ∧ x.reserve < 8 then x.reserve + 1 else x.reserve })) := by
  simp [execReserveGrow, markRun, hrun]

theorem execReserveShrink_run {d : Nat} (hrun : 4096 ≤ (s.die d).below) :
    execReserveShrink d s = .next (s.modDie d (fun x => { x with
      below := x.below - 4096, reserve := if gangPlacing s = none then x.reserve - 1 else x.reserve })) := by
  simp [execReserveShrink, markRun, hrun]

/-! ### Capacity and ports -/

theorem memoryPort_iff (p : Nat) : memoryPort p = true ↔ p = 1 ∨ p = 2 := by simp [memoryPort]

theorem execDynamicCapacityExtent_port {p : Nat} (add : Bool) (b l : Nat) (hp : p = 1 ∨ p = 2) :
    execDynamicCapacityExtent p add b l s = .next (s.modHost (fun h => { h with
      extents := if add then (p, b, l) :: h.extents.filter (fun x => x != (p, b, l)) else h.extents.filter (fun x => x != (p, b, l)) })) := by
  simp [execDynamicCapacityExtent, (memoryPort_iff p).mpr hp]

theorem execPortLinkTraining_cxl {p w : Nat} (hp : p < 3) (hw : w = portLanes s p) :
    execPortLinkTraining p true 64 w s =
      .next (s.modHost (fun h => { h with noCxl := h.noCxl.filter (fun x => x != p), rate := Sparse.set 0 h.rate p 64 })) := by
  simp [execPortLinkTraining, Nat.not_le.mpr hp, hw]

theorem execPortLinkTraining_pcie {r w : Nat} (hr : r ≤ 128) (hw : w = portLanes s 0) :
    execPortLinkTraining 0 false r w s =
      .next (s.modHost (fun h => { h with noCxl := 0 :: h.noCxl.filter (fun x => x != 0), rate := Sparse.set 0 h.rate 0 r })) := by
  simp [execPortLinkTraining, Nat.not_lt.mpr hr, hw]

end Package

/-- Reset, shutdown, power samples, the measured boot and requests for measurements turn as their rules say. -/
theorem trustEvents : ∀ i r, IsTrust i r → Turns i r := by
  intro i r h s hwhen
  cases h with
  | reset => exact Laws.exec_reset s
  | shutdown n d => rw [Laws.exec_thermalShutdown, execThermalShutdown_hot n hwhen]
  | calm x =>
    have hkept : settleAlarm (sampled s x) = sampled s x := by
      rcases hwhen with ⟨hoff, hfew⟩ | ⟨hon, hfew⟩
      · exact settleAlarm_kept_off hoff (mt (powerHigh_iff _).mp hfew)
      · exact settleAlarm_kept_on hon (mt (powerLow_sampled x).mp hfew)
    rw [Laws.exec_powerSample, execPowerSample_eq, hkept]
  | alarm x =>
    obtain ⟨hoff, hhigh⟩ := hwhen
    rw [Laws.exec_powerSample, execPowerSample_eq, settleAlarm_raised hoff ((powerHigh_iff _).mpr hhigh)]
  | allClear x =>
    obtain ⟨hon, hlow⟩ := hwhen
    rw [Laws.exec_powerSample, execPowerSample_eq, settleAlarm_ended hon ((powerLow_sampled x).mpr hlow)]
  | stage n v image =>
    obtain ⟨hturn, hn⟩ := hwhen
    rw [Laws.exec_bootStageLoad, execBootStageLoad_next v image hturn hn]
    simp only [runningDigest_eq]
  | agree t offers =>
    obtain ⟨hup, hboth⟩ := hwhen
    rw [Laws.exec_negotiateAlgorithms, execNegotiateAlgorithms_reached offers hup, if_pos hboth]
  | disagree t offers =>
    obtain ⟨hup, hnot⟩ := hwhen
    rw [Laws.exec_negotiateAlgorithms, execNegotiateAlgorithms_reached offers hup, if_neg hnot]
  | measure t nonce =>
    obtain ⟨hup, hagreed⟩ := hwhen
    rw [Laws.exec_getMeasurements, execGetMeasurements_agreed nonce hup hagreed]
  | unmeasured t nonce =>
    obtain ⟨hup, hnone⟩ := hwhen
    rw [Laws.exec_getMeasurements, execGetMeasurements_notAgreed nonce hup hnone]
  | session => rw [Laws.exec_secureSession, execSecureSession_authenticated hwhen]
  | noSession a b h => rw [Laws.exec_secureSession, execSecureSession_refused h]

/-- Temperature, droop, the reserve, extents and port training turn as their rules say. -/
theorem plantEvents : ∀ i r, IsPlant i r → Turns i r := by
  intro i r h s hwhen
  cases h with
  | reading c d => rw [Laws.exec_coreTemperatureReading, execCoreTemperatureReading_core d hwhen]
  | droop c => rw [Laws.exec_droopEvent, execDroopEvent_core hwhen]
  | quiet c =>
    obtain ⟨hon, hquiet⟩ := hwhen
    rw [Laws.exec_droopQuiet, execDroopQuiet_due hon hquiet]
  | grow d => rw [Laws.exec_reserveGrow, execReserveGrow_run hwhen]
  | shrink d => rw [Laws.exec_reserveShrink, execReserveShrink_run hwhen]
  | extentAdd p b l => rw [Laws.exec_dynamicCapacityExtent, execDynamicCapacityExtent_port true b l hwhen]; rfl
  | extentRelease p b l => rw [Laws.exec_dynamicCapacityExtent, execDynamicCapacityExtent_port false b l hwhen]; rfl
  | cxl p w =>
    obtain ⟨hp, hw⟩ := hwhen
    rw [Laws.exec_portLinkTraining, execPortLinkTraining_cxl hp hw]
  | pcie r w =>
    obtain ⟨hr, hw⟩ := hwhen
    rw [Laws.exec_portLinkTraining, execPortLinkTraining_pcie hr hw]

/-- Settles O51: the events of trust and of the plant, each by the equation of its case. -/
theorem packageEvents : Obligations.PackageEvents := ⟨trustEvents, plantEvents⟩

end Sys2Proof.Proofs

/-! Launches and clusters (R28 to R40, R54, R55, R313, R417): what each event of the dispatcher answers where it is enabled. -/

namespace Sys2Proof.Proofs

open Sys2Proof Sys2Proof.Machine Sys2Proof.Rules

section Launches

variable {s t u : State} {q k e st c a : Nat} {x : Edge} {bs es : List Byte}

/-! ### Fields and records -/

theorem bits_eq_div_mod (x lo w : Nat) : bits x lo w = x / 2 ^ lo % 2 ^ w := by rw [bits, Nat.shiftRight_eq_div_pow]

/-- R412: the hub's firmware is stage 2. -/
theorem runsStage_hub : s.runsStage 2 = true ↔ hubRuns s := decide_eq_true_iff

/-- R388: a queue error clears the enable bit, which is the highest of QCFG. -/
theorem queueError_eq_queueFails (s : State) (q code va : Nat) : queueError s q code va = queueFails s q code va := by
  simp only [queueError, queueFails, bits_eq_div_mod, Nat.pow_zero, Nat.div_one]

/-- R28, R29, R31: a record is taken as it stands where it fits. -/
theorem recordRefused_eq_false (l : Launch) (v : Nat) : recordRefused l v = false ↔ RecordFits l v := by
  have hcomm : l.comm = (l.queue = 63 : Bool) ↔ (l.comm = true ↔ l.queue = 63) := by rw [Bool.eq_iff_iff, decide_eq_true_iff]
  simp only [recordRefused, Bool.or_eq_false_iff, bne_eq_false_iff_eq, decide_eq_false_iff_not, hcomm, Nat.not_lt, and_assoc,
    ← Nat.pos_iff_ne_zero]
  constructor
  · rintro ⟨hv, hh1, hh, hw1, hw, hteams, hclu1, hclu, hqueue, hgrp1, hgrp, hreg1, hreg, hscal, hlane, hscr, hbar, hdie, hbytes⟩
    exact ⟨hv, ⟨hw1, hw⟩, ⟨hh1, hh⟩, hteams, ⟨hclu1, hclu⟩, hqueue, ⟨hgrp1, hgrp⟩, ⟨hreg1, hreg⟩, hscal, hlane,
      hscr, hbar, hdie, hbytes⟩
  · rintro ⟨hv, ⟨hw1, hw⟩, ⟨hh1, hh⟩, hteams, ⟨hclu1, hclu⟩, hqueue, ⟨hgrp1, hgrp⟩, ⟨hreg1, hreg⟩, hscal, hlane,
      hscr, hbar, hdie, hbytes⟩
    exact ⟨hv, hh1, hh, hw1, hw, hteams, hclu1, hclu, hqueue, hgrp1, hgrp, hreg1, hreg, hscal, hlane, hscr, hbar, hdie, hbytes⟩

/-! ### Ring entries -/

/-- R388: nothing holds the command processor back from the entry at the head. -/
theorem ringReady_notHeld (hready : ringReady s q) :
    (!s.runsStage 2 || 64 ≤ q || !queueEnabled s q || queueHead s q = queueTail s q || Sparse.get 0 s.work.taking q != 0) = false := by
  obtain ⟨hruns, hq, hon, hmore, hidle⟩ := hready
  have hmore' : queueHead s q ≠ queueTail s q := hmore
  simp [runsStage_hub.mpr hruns, hq, hon, hmore', hidle]

theorem ringEntry_eq (s : State) (q : Nat) : s.queueReg q 1 + 8 * (queueHead s q % 2 ^ queueRinglog s q) = ringEntry s q := by
  rw [queueRinglog, bits_eq_div_mod]
  rfl

theorem execRingEntryRead_read (hready : ringReady s q) (hload : s.load (queueAgent s q) (ringEntry s q) 8 = .ok bs t) :
    execRingEntryRead q s =
      .next ((t.setQueueReg q 4 ((s.queueReg q 4 + 1) % 2 ^ 32)).modWork (fun w => { w with
        taking := Sparse.set 0 w.taking q (ofBytes bs / 2 ^ 6 % 2 ^ 51 * 64 + 1) })) := by
  rw [execRingEntryRead, ringReady_notHeld hready]
  simp only [Bool.false_eq_true, if_false, ringEntry_eq, hload, bits_eq_div_mod]
  rfl

theorem execRingEntryRead_fails (hready : ringReady s q) (hload : s.load (queueAgent s q) (ringEntry s q) 8 = .fail c a) :
    execRingEntryRead q s = .next (queueFails s q 1 a) := by
  rw [execRingEntryRead, ringReady_notHeld hready]
  simp only [Bool.false_eq_true, if_false, ringEntry_eq, hload, queueError_eq_queueFails]

/-! ### Launch records -/

theorem taking_notHeld (hruns : hubRuns s) (htaking : Sparse.get 0 s.work.taking q ≠ 0) :
    (!s.runsStage 2 || Sparse.get 0 s.work.taking q = 0) = false := by
  simp [runsStage_hub.mpr hruns, htaking]

theorem execLaunchTake_unread (hruns : hubRuns s) (htaking : Sparse.get 0 s.work.taking q ≠ 0)
    (hload : s.load (queueAgent s q) (Sparse.get 0 s.work.taking q - 1) 64 = .fail c a) :
    execLaunchTake q s = .next ((queueFails s q 5 a).modWork (fun w => { w with taking := Sparse.set 0 w.taking q 0 })) := by
  simp only [execLaunchTake, taking_notHeld hruns htaking, Bool.false_eq_true, if_false, hload, queueError_eq_queueFails]

theorem recordVersion_eq (bs : List Byte) : bits (ofBytes ((bs.drop (8 * 0)).take 8)) 56 8 = dword bs 0 / 2 ^ 56 % 2 ^ 8 :=
  bits_eq_div_mod _ _ _

theorem ofRecord_eq_launchOf (s : State) (q : Nat) (bs : List Byte) :
    Launch.ofRecord (fun i => ofBytes ((bs.drop (8 * i)).take 8)) q (queueAsid s q) = launchOf s q bs := rfl

theorem execLaunchTake_refused (hread : recordRead s q bs t) (hbad : ¬ RecordFits (launchOf s q bs) (dword bs 0 / 2 ^ 56 % 2 ^ 8)) :
    execLaunchTake q s = .next (enterQueue t { launchOf s q bs with outcome := some (1, 0, 0) }) := by
  obtain ⟨hruns, htaking, hload⟩ := hread
  rw [← recordRefused_eq_false, Bool.not_eq_false] at hbad
  simp only [execLaunchTake, taking_notHeld hruns htaking, Bool.false_eq_true, if_false, hload, ofRecord_eq_launchOf, recordVersion_eq,
    hbad, if_true]

section Fits

variable (hread : recordRead s q bs t) (hfits : RecordFits (launchOf s q bs) (dword bs 0 / 2 ^ 56 % 2 ^ 8))
include hread hfits

theorem execLaunchTake_noEdges (hnone : (launchOf s q bs).edgecnt = 0) :
    execLaunchTake q s = .next (enterQueue t (launchOf s q bs)) := by
  obtain ⟨hruns, htaking, hload⟩ := hread
  simp only [execLaunchTake, taking_notHeld hruns htaking, Bool.false_eq_true, if_false, hload, ofRecord_eq_launchOf, recordVersion_eq,
    (recordRefused_eq_false _ _).mpr hfits, hnone, if_true]

theorem execLaunchTake_edgesUnread (hsome : (launchOf s q bs).edgecnt ≠ 0)
    (hedges : t.load (queueAgent s q) (launchOf s q bs).edges (144 * (launchOf s q bs).edgecnt) = .fail c a) :
    execLaunchTake q s = .next (enterQueue t { launchOf s q bs with outcome := some (7, 0, 0) }) := by
  obtain ⟨hruns, htaking, hload⟩ := hread
  simp only [execLaunchTake, taking_notHeld hruns htaking, Bool.false_eq_true, if_false, hload, ofRecord_eq_launchOf, recordVersion_eq,
    (recordRefused_eq_false _ _).mpr hfits, hsome, hedges]

/-- R33: an edge table that has been read is taken, or refused with status 1. -/
theorem execLaunchTake_edges (hsome : (launchOf s q bs).edgecnt ≠ 0)
    (hedges : t.load (queueAgent s q) (launchOf s q bs).edges (144 * (launchOf s q bs).edgecnt) = .ok es u) :
    execLaunchTake q s = .next (enterQueue u
      ((edgesOf u es (launchOf s q bs).edgecnt).elim { launchOf s q bs with outcome := some (1, 0, 0) }
        (fun table => { launchOf s q bs with edgeList := table }))) := by
  obtain ⟨hruns, htaking, hload⟩ := hread
  simp only [execLaunchTake, taking_notHeld hruns htaking, Bool.false_eq_true, if_false, hload, ofRecord_eq_launchOf, recordVersion_eq,
    (recordRefused_eq_false _ _).mpr hfits, hsome, hedges]
  cases edgesOf u es (launchOf s q bs).edgecnt <;> rfl

end Fits

/-! ### Edges -/

/-- R34: an edge whose producer has failed is marked; one whose producer has succeeded waits for pending stores to its regions' lines,
which are then cleaned and discarded. -/
theorem execEdgeSatisfy_ready (hready : edgeReady s k e x st) :
    execEdgeSatisfy k e s =
      if st ≠ 0 then .next (edgeDone s k e st)
      else if (edgeLines s k x).any (fun l => s.mem.gaAny l) then .next s
      else .next (edgeDone ((edgeLines s k x).foldl flushLine s) k e st) := by
  obtain ⟨hstage, hout, hnew, hedge, hstatus⟩ := hready
  have hopen : ((s.launch k).stage = .complete || (s.launch k).outcome.isSome || e ∈ (s.launch k).satisfied) = false := by
    simp [hstage, hout, hnew]
  simp only [execEdgeSatisfy, hopen, Bool.false_eq_true, if_false, hedge, hstatus]
  rfl

/-! ### Dispatch -/

theorem dispatchable_notHeld (h : dispatchable s q k) :
    ((s.launch k).begun || (s.launch k).stage != .queued || (s.launch k).halting ||
      (s.launch k).satisfied.length < (s.launch k).edgeList.length) = false := by
  obtain ⟨-, hbegun, hstage, hhalting, hedges⟩ := h
  simp [hbegun, hstage, hhalting, hedges]

theorem execDispatchBegin_badEdge (h : dispatchable s q k) (hbad : (s.launch k).edgeBad = true) :
    execDispatchBegin q s = .next (endsWith s k 3) := by
  simp only [execDispatchBegin, h.1, dispatchable_notHeld h, Bool.false_eq_true, if_false, hbad, if_true]
  rfl

theorem execDispatchBegin_noBlock (h : dispatchable s q k) (hgood : (s.launch k).edgeBad = false)
    (hload : s.load (hubAgent (s.launch k).asid k) (s.queueReg q 2) 64 = .fail c a) :
    execDispatchBegin q s = .next (endsWith s k 7) := by
  simp only [execDispatchBegin, h.1, dispatchable_notHeld h, Bool.false_eq_true, if_false, hgood, hload]
  rfl

/-- R54, R55, R313: what a control block that has been read leads to. -/
theorem execDispatchBegin_block (h : dispatchable s q k) (hgood : (s.launch k).edgeBad = false) (hread : blockRead s q k bs t) :
    execDispatchBegin q s =
      if dword bs 2 % 65536 < 5 then .next (endsWith t k 7)
      else if !(s.launch k).gridsync then .next (begins s q k bs t)
      else if gridRoom (begins s q k bs t) (s.launch k) < (s.launch k).clusters then .next (endsWith (begins s q k bs t) k 2)
      else .next (beginGang (begins s q k bs t) k) := by
  have hload : s.load (hubAgent (s.launch k).asid k) (s.queueReg q 2) 64 = .ok bs t := hread
  simp only [execDispatchBegin, h.1, dispatchable_notHeld h, Bool.false_eq_true, if_false, hgood, hload]
  rfl

/-- R37: a die that the rectangle suits takes the cluster that the queue served offers it. -/
theorem execClusterRequest_fits {d col row n : Nat} (hqueue : chosenQueue s d = some q) (hoffer : offer s q d = some (k, n))
    (hfits : rectFits s k n d col row = true) : execClusterRequest d col row s = .next (commitCluster s k n d col row) := by
  simp only [execClusterRequest, hqueue, hoffer, hfits, if_true]

/-! ### Release and completion -/

/-- R177: no token of a team's groups is still armed. -/
theorem exportsOver_team (s : State) (t : Nat) : exportsOver s (fun g => teamOf g = t) = true ↔ noExports s t := by
  simp only [exportsOver, noExports, List.all_eq_true, Bool.or_eq_true, Bool.not_eq_true', decide_eq_false_iff_not, ← imp_iff_not_or]

theorem execClusterRelease_over (h : clusterOver s c) :
    execClusterRelease c s =
      .next (settlePreempt (((teamsOfCluster s c).foldl releaseTeam s).modCluster c (fun x => { x with released := true })) (c / 2 ^ 24)) := by
  obtain ⟨hplaced, hsaved, hreleased, hteams⟩ := h
  refine if_pos ?_
  simpa [hplaced, hsaved, hreleased, exportsOver_team, and_assoc] using hteams

theorem execLaunchComplete_written (hover : launchOver s k = true)
    (hstore : s.store (hubAgent (s.launch k).asid k) (s.launch k).done (completion (s.launch k)) = .ok () t) :
    execLaunchComplete k s = .next (retireLaunch (signal (writeBack t 5) (s.launch k).queue) k) := by
  simp [execLaunchComplete, hover, hstore]

theorem execLaunchComplete_fails (hover : launchOver s k = true)
    (hstore : s.store (hubAgent (s.launch k).asid k) (s.launch k).done (completion (s.launch k)) = .fail c a) :
    execLaunchComplete k s = .next (retireLaunch (queueFails s (s.launch k).queue 2 a) k) := by
  simp [execLaunchComplete, hover, hstore, queueError_eq_queueFails]

end Launches

/-- Settles O55: each event of the dispatcher, by the equation of its case. -/
theorem launchEvents : Obligations.LaunchEvents := by
  intro i r h s hwhen
  cases h with
  | ring q bs t =>
    obtain ⟨hready, hload⟩ := hwhen
    rw [Laws.exec_ringEntryRead, execRingEntryRead_read hready hload]
  | ringFails q c a =>
    obtain ⟨hready, hload⟩ := hwhen
    rw [Laws.exec_ringEntryRead, execRingEntryRead_fails hready hload]
  | take q bs t =>
    obtain ⟨hread, hfits, hnone⟩ := hwhen
    rw [Laws.exec_launchTake, execLaunchTake_noEdges hread hfits hnone]
  | takeEdges q bs es t u table =>
    obtain ⟨hread, hfits, hsome, hedges, htable⟩ := hwhen
    rw [Laws.exec_launchTake, execLaunchTake_edges hread hfits hsome hedges, htable, Option.elim_some]
  | takeEdgesBad q bs es t u =>
    obtain ⟨hread, hfits, hsome, hedges, htable⟩ := hwhen
    rw [Laws.exec_launchTake, execLaunchTake_edges hread hfits hsome hedges, htable, Option.elim_none]
  | takeEdgesFail q c a bs t =>
    obtain ⟨hread, hfits, hsome, hedges⟩ := hwhen
    rw [Laws.exec_launchTake, execLaunchTake_edgesUnread hread hfits hsome hedges]
  | takeBad q bs t =>
    obtain ⟨hread, hbad⟩ := hwhen
    rw [Laws.exec_launchTake, execLaunchTake_refused hread hbad]
  | takeFails q c a =>
    obtain ⟨hruns, htaking, hload⟩ := hwhen
    rw [Laws.exec_launchTake, execLaunchTake_unread hruns htaking hload]
  | edge k e x =>
    obtain ⟨hready, hquiet⟩ := hwhen
    rw [Laws.exec_edgeSatisfy, execEdgeSatisfy_ready hready, if_neg (by decide), if_neg (by simpa using hquiet)]
  | edgeBad k e st x =>
    obtain ⟨hready, hst⟩ := hwhen
    rw [Laws.exec_edgeSatisfy, execEdgeSatisfy_ready hready, if_pos hst]
  | dispatch q k bs t =>
    obtain ⟨hfirst, hgood, hread, hslot, hplain⟩ := hwhen
    rw [Laws.exec_dispatchBegin, execDispatchBegin_block hfirst hgood hread, if_neg (by omega), if_pos (by simp [hplain])]
  | gang q k bs t =>
    obtain ⟨hfirst, hgood, hread, hslot, hgrid, hroom⟩ := hwhen
    rw [Laws.exec_dispatchBegin, execDispatchBegin_block hfirst hgood hread, if_neg (by omega), if_neg (by simp [hgrid]), if_neg (by omega)]
  | tooBig q k bs t =>
    obtain ⟨hfirst, hgood, hread, hslot, hgrid, hroom⟩ := hwhen
    rw [Laws.exec_dispatchBegin, execDispatchBegin_block hfirst hgood hread, if_neg (by omega), if_neg (by simp [hgrid]), if_pos hroom]
  | badEdge q k =>
    obtain ⟨hfirst, hbad⟩ := hwhen
    rw [Laws.exec_dispatchBegin, execDispatchBegin_badEdge hfirst hbad]
  | noBlock q k c a =>
    obtain ⟨hfirst, hgood, hload⟩ := hwhen
    rw [Laws.exec_dispatchBegin, execDispatchBegin_noBlock hfirst hgood hload]
  | shortSlot q k bs t =>
    obtain ⟨hfirst, hgood, hread, hslot⟩ := hwhen
    rw [Laws.exec_dispatchBegin, execDispatchBegin_block hfirst hgood hread, if_pos hslot]
  | request d c r q k n =>
    obtain ⟨hchosen, hoffer, hfits⟩ := hwhen
    rw [Laws.exec_clusterRequest, execClusterRequest_fits hchosen hoffer hfits]
  | release c => rw [Laws.exec_clusterRelease, execClusterRelease_over hwhen]
  | complete k t =>
    obtain ⟨hover, hstore⟩ := hwhen
    rw [Laws.exec_launchComplete, execLaunchComplete_written hover hstore]
  | completeFails k c a =>
    obtain ⟨hover, hstore⟩ := hwhen
    rw [Laws.exec_launchComplete, execLaunchComplete_fails hover hstore]

end Sys2Proof.Proofs

/-! Landings of operations and flags, and what time brings to a group (R47, R51, R165 to R167, R173, R199, R200, R206, R218, R222, R312,
R322, R323): what each answers where it is enabled. -/

namespace Sys2Proof.Proofs

open Sys2Proof Sys2Proof.Machine Sys2Proof.Rules

section Landings

variable {s t : State} {id : Nat}

/-! ### Registers, masks and flag operations -/

theorem execMwaitDeadline_due {g m : Nat} (hruns : (s.group g).mode = .running ∨ (s.group g).mode = .handler) (hm : m < 12)
    (hout : issuedOut s g = true) :
    execMwaitDeadline g m s = .next (s.modGroup g (fun x => x.settle m (s.cycle (coreOfGrp s g)))) :=
  if_pos (by simp [hruns, hm, hout])

theorem execSpecialFunctionLand_flying (h : flying s id .special) : execSpecialFunctionLand id s = .next (flagDone s id) := by
  obtain ⟨hthere, hkind⟩ := h
  exact if_pos (by simp [hthere, hkind])

theorem execShuffleLand_first (h : flying s id .shuffle) (hfirst : olderShuffle s id = false) :
    execShuffleLand id s = .next (flagDone s id) := by
  obtain ⟨hthere, hkind⟩ := h
  exact if_pos (by simp [hthere, hkind, hfirst])

theorem execScratchpadLoadLand_flying (h : flying s id .load) :
    execScratchpadLoadLand id s = .next (flagDone ((performLevelAll s id).modOp id Op.results) id) := by
  obtain ⟨hthere, hkind⟩ := h
  exact if_pos (by simp [hthere, hkind])

theorem execScratchpadAtomicLand_flying (h : flying s id .atom) :
    execScratchpadAtomicLand id s = .next (flagDone (performLevelAll s id) id) := by
  obtain ⟨hthere, hkind⟩ := h
  exact if_pos (by simp [hthere, hkind])

/-! ### Queue reads -/

theorem execQueueReadLand_taken (h : flying s id .queueRead) (hnear : (s.op id).x < 32) :
    execQueueReadLand id s = .next (flagDone s id) := by
  obtain ⟨hthere, hkind⟩ := h
  exact if_pos (by simp [hthere, hkind, hnear])

/-- R280: the oldest read of its group at a queue takes the entry at its head. -/
theorem execQueueReadLand_oldest {e : Nat} {es : List Nat} (h : flying s id .queueRead) (hfar : 32 ≤ (s.op id).x)
    (hkept : (s.op id).withdrawn = false) (hfirst : oldestOf s id (fun o => o.kind = .queueRead ∧ o.x = (s.op id).x))
    (hqueue : s.queueOf (teamOf (s.op id).grp) (s.op id).x = e :: es) :
    execQueueReadLand id s = .next (flagDone ((s.setQueue (teamOf (s.op id).grp) (s.op id).x es).modOp id
      (fun o => { o with vals := o.active.toList.map (fun k => (k, e)) })) id) := by
  obtain ⟨hthere, hkind⟩ := h
  have holder : s.ops.any (fun (p : Nat × Op) => p.1 < id && p.2.kind = .queueRead && p.2.grp = (s.op id).grp && p.2.x = (s.op id).x) = false := by
    simp only [List.any_eq_false, Bool.and_eq_true, decide_eq_true_eq]
    rintro p hp ⟨⟨⟨hlt, hk⟩, hgrp⟩, hx⟩
    exact hfirst p hp hlt hgrp ⟨hk, hx⟩
  simp [execQueueReadLand, hthere, hkind, Nat.not_lt.mpr hfar, hkept, holder, hqueue]

/-! ### Posted writes -/

theorem execPostedWriteLand_flying (lane : Nat) (h : flying s id .posted) :
    execPostedWriteLand id lane s = .next (postedEnd ((partsOf s id lane).foldl (partLands id) s) id) := by
  obtain ⟨hthere, hkind⟩ := h
  exact if_pos (by simp [hthere, hkind])

/-- R199, R209: a semaphore goes up where a core holds a team (R206). -/
theorem execCputIncrement_ready {team : Nat} (h : cputReady s id team) :
    execCputIncrement id team s =
      .next (postedEnd ((if holdsTeam s (s.team team).core then s.modCore (s.team team).core (fun c =>
          { c with sems := Sparse.set 0 c.sems (s.op id).y ((Sparse.get 0 c.sems (s.op id).y + 1) % 2 ^ 32) })
        else s).modOp id (fun o => { o with z := o.z ++ [team] })) id) := by
  obtain ⟨⟨hthere, hkind⟩, hidx, hteam, hnew, hlanded, hcovered⟩ := h
  refine if_pos ?_
  simpa [hthere, hkind, hidx, hteam, hnew, hcovered] using hlanded

/-! ### Held operations -/

theorem execHeldOperationStart_bargeRun (h : flying s id .bargeRun) :
    execHeldOperationStart id s = .next (startBarge s (s.op id).x) := by
  obtain ⟨hthere, hkind⟩ := h
  exact if_pos (by simp [hthere, hkind])

/-- R366: only the operations of major 0x25 that name a peer's memory reach the pod; they are of class 6. -/
theorem not_toPod_of_cls {o : Op} (h : o.kind.cls ≠ 6) : o.toPod = false := by
  rw [← Bool.not_eq_true]
  intro hpod
  simp only [Op.toPod, Bool.or_eq_true, decide_eq_true_eq] at hpod
  rcases hpod with (hk | hk) | hk <;> exact h (by rw [hk]; rfl)

/-- R173: once its retirements are in, an operation that a poisoned one preceded retires poisoned. -/
theorem startOp_poisoned {c : Nat} (hthere : s.hasOp id = true) (hready : (s.op id).ready = true)
    (hcause : poisonBy (s.op id).pre (s.group (s.op id).grp) (s.op id).handler (s.op id).mask = some c) :
    startOp s id = poisonOp s id c := by
  have hstart : (s.hasOp id && (s.op id).held && (s.op id).waits.all (fun p => p.2 = 0)) = true := by
    rw [hthere, Bool.true_and]; exact hready
  simp only [startOp, hstart, Bool.not_true, Bool.false_eq_true, if_false, hcause]

/-- R173: one without poison before it starts; a `tjoin` has nothing else to do. -/
theorem startOp_goes (h : goes s id) (hkind : (s.op id).kind ≠ .tjoin) :
    startOp s id = s.modOp id (fun o => { o with held := false }) := by
  obtain ⟨hthere, hready, hsound⟩ := h
  have hstart : (s.hasOp id && (s.op id).held && (s.op id).waits.all (fun p => p.2 = 0)) = true := by
    rw [hthere, Bool.true_and]; exact hready
  simp only [startOp, hstart, Bool.not_true, Bool.false_eq_true, if_false, hsound]

theorem hasOp_modOp_same (f : Op → Op) (hthere : s.hasOp id = true) : (s.modOp id f).hasOp id = true := by
  rw [State.modOp, if_pos hthere]
  exact Laws.has_insert _ _ _

theorem op_modOp_same (f : Op → Op) (hthere : s.hasOp id = true) : (s.modOp id f).op id = f (s.op id) := by
  rw [State.modOp, if_pos hthere]
  exact Laws.get_insert_same _ _ _ _

/-- R364, R366: an operation held back by nothing before it in its core's path, and whose bytes find room in the buffer, starts, with what
its kind does as it starts. -/
theorem execHeldOperationStart_unblocked (hkind : (s.op id).kind ≠ .bargeRun)
    (hpath : goes s id → (s.op id).toPod = true → podBlocked s id (s.op id) = false)
    (hroom : goes s id → (s.op id).kind = .put → putFits s (s.op id) = true) :
    execHeldOperationStart id s =
      if s.hasOp id && (s.op id).held && (startOp s id).hasOp id && !((startOp s id).op id).held && ((startOp s id).op id).result.isNone then
        if (s.op id).kind = .bstop then .next (stopNow (startOp s id) id)
        else if (s.op id).kind.cls = 6 then .next (startFabric (startOp s id) id)
        else .next (startOp s id)
      else .next (startOp s id) := by
  have hrun : ¬ (s.hasOp id && (s.op id).kind = .bargeRun) = true := by simp [hkind]
  have hbehind : ¬ (s.hasOp id && (s.op id).toPod && (s.op id).ready &&
      (poisonBy (s.op id).pre (s.group (s.op id).grp) (s.op id).handler (s.op id).mask).isNone && podBlocked s id (s.op id)) = true := by
    simp only [Bool.and_eq_true, Option.isNone_iff_eq_none]
    rintro ⟨⟨⟨⟨hthere, hpod⟩, hready⟩, hsound⟩, hblocked⟩
    rw [hpath ⟨hthere, hready, hsound⟩ hpod] at hblocked
    exact Bool.noConfusion hblocked
  have hfull : ¬ (s.hasOp id && (s.op id).kind = .put && (s.op id).ready &&
      (poisonBy (s.op id).pre (s.group (s.op id).grp) (s.op id).handler (s.op id).mask).isNone && !putFits s (s.op id)) = true := by
    simp only [Bool.and_eq_true, Option.isNone_iff_eq_none, decide_eq_true_eq, Bool.not_eq_true']
    rintro ⟨⟨⟨⟨hthere, hput⟩, hready⟩, hsound⟩, hfits⟩
    rw [hroom ⟨hthere, hready, hsound⟩ hput] at hfits
    exact Bool.noConfusion hfits
  simp only [execHeldOperationStart, if_neg hrun, if_neg hbehind, if_neg hfull]

/-- The same of an operation that starts without poison. -/
theorem execHeldOperationStart_goes (h : goes s id) (hrun : (s.op id).kind ≠ .bargeRun) (hjoin : (s.op id).kind ≠ .tjoin)
    (hresult : (s.op id).result = none) (hpath : (s.op id).toPod = true → podBlocked s id (s.op id) = false)
    (hroom : (s.op id).kind = .put → putFits s (s.op id) = true) :
    execHeldOperationStart id s =
      if (s.op id).kind = .bstop then .next (stopNow (startOp s id) id)
      else if (s.op id).kind.cls = 6 then .next (startFabric (startOp s id) id)
      else .next (startOp s id) := by
  have hheld : (s.op id).held = true := (Bool.and_eq_true_iff.mp h.2.1).1
  rw [execHeldOperationStart_unblocked hrun (fun _ => hpath) (fun _ => hroom), if_pos]
  rw [startOp_goes h hjoin, hasOp_modOp_same _ h.1, op_modOp_same _ h.1]
  simp [h.1, hheld, hresult]

/-- R364, R366: outside class 6 nothing but preconditions holds an operation. -/
theorem execHeldOperationStart_ordinary (hrun : (s.op id).kind ≠ .bargeRun) (hstop : (s.op id).kind ≠ .bstop)
    (hcls : (s.op id).kind.cls ≠ 6) : execHeldOperationStart id s = .next (startOp s id) := by
  have hput : (s.op id).kind ≠ .put := fun hk => hcls (by rw [hk]; rfl)
  rw [execHeldOperationStart_unblocked hrun (fun _ hpod => absurd hpod (by simp [not_toPod_of_cls hcls])) (fun _ hk => absurd hk hput),
    if_neg hstop, if_neg hcls, ite_self]

theorem execHeldOperationStart_poisoned {c : Nat} (hthere : s.hasOp id = true) (hrun : (s.op id).kind ≠ .bargeRun)
    (hready : (s.op id).ready = true)
    (hcause : poisonBy (s.op id).pre (s.group (s.op id).grp) (s.op id).handler (s.op id).mask = some c)
    (hover : ¬ ((poisonOp s id c).hasOp id = true ∧ ((poisonOp s id c).op id).result = none)) :
    execHeldOperationStart id s = .next (poisonOp s id c) := by
  have hnot : ¬ goes s id := fun h => by simp [h.2.2] at hcause
  rw [execHeldOperationStart_unblocked hrun (fun h => absurd h hnot) (fun h => absurd h hnot), startOp_poisoned hthere hready hcause,
    if_neg]
  simp only [Bool.and_eq_true, Option.isNone_iff_eq_none]
  rintro ⟨⟨⟨-, hleft⟩, -⟩, hnone⟩
  exact hover ⟨hleft, hnone⟩

theorem execHeldOperationStart_behind (h : goes s id) (hpod : (s.op id).toPod = true) (hblocked : podBlocked s id (s.op id) = true) :
    execHeldOperationStart id s = .next s := by
  obtain ⟨hthere, hready, hsound⟩ := h
  have hrun : (s.op id).kind ≠ .bargeRun := fun hk => by simp [Op.toPod, hk] at hpod
  simp [execHeldOperationStart, hrun, hthere, hready, hsound, hpod, hblocked]

theorem execHeldOperationStart_noRoom (h : goes s id) (hput : (s.op id).kind = .put) (hfree : podBlocked s id (s.op id) = false)
    (hfull : putFits s (s.op id) = false) : execHeldOperationStart id s = .next (makeRoom s (s.op id)) := by
  obtain ⟨hthere, hready, hsound⟩ := h
  simp [execHeldOperationStart, hput, hthere, hready, hsound, hfree, hfull]

/-! ### Retirement of accesses -/

theorem working_notHeld (h : working s id) : (!(s.hasOp id && !(s.op id).held && (s.op id).result.isNone)) = false := by
  obtain ⟨hthere, hstarted, hnone⟩ := h
  simp [hthere, hstarted, hnone]

theorem execGlobalAccessRetire_access (h : working s id) (hglobal : (s.op id).isGlobal = true) (hleft : (s.op id).left = [])
    (hhome : (s.op id).storing = false ∨ ∀ k ∈ (s.op id).parts, k ∈ (s.op id).homed) :
    execGlobalAccessRetire id s =
      .next (finishOp ((if (s.op id).fail = none then unlose s (s.op id) else s).modOp id Op.results) id (s.op id).bytesDone (s.op id).fail) := by
  have hdone : ((s.op id).left.isEmpty && (!(s.op id).storing || (s.op id).parts.all (fun k => decide (k ∈ (s.op id).homed)))) = true := by
    simpa [hleft] using hhome
  simp only [execGlobalAccessRetire, working_notHeld h, Bool.false_eq_true, if_false, hglobal, if_true, hdone, Option.isNone_iff_eq_none]

theorem execGlobalAccessRetire_lines (h : working s id) (hkind : (s.op id).kind = .clean ∨ (s.op id).kind = .inval)
    (hlines : cleanLines s id (s.op id).active.toList = some t) :
    execGlobalAccessRetire id s = .next (finishOp t id 0 (t.op id).fail) := by
  have hother : (s.op id).isGlobal = false := by rcases hkind with hk | hk <;> simp [Op.isGlobal, hk]
  simp [execGlobalAccessRetire, working_notHeld h, hother, hkind, hlines]

theorem execGlobalAccessRetire_code (h : working s id) (hkind : (s.op id).kind = .icinv) :
    execGlobalAccessRetire id s = .next (finishOp (discardCode s (s.op id)) id 0 none) := by
  simp [execGlobalAccessRetire, working_notHeld h, Op.isGlobal, hkind]

theorem execDieScratchpadRetire_done (hkind : flying s id .dieScratch) (h : working s id) (hleft : (s.op id).left = []) :
    execDieScratchpadRetire id s = .next (finishOp (s.modOp id Op.results) id (s.op id).bytesDone none) := by
  obtain ⟨hthere, hstarted, hnone⟩ := h
  exact if_pos (by simp [hthere, hkind.2, hstarted, hnone, hleft])

/-! ### Arrivals at chambers -/

theorem execChamberArrive_oldest {c : ChamberAt} (h : flying s id .charr)
    (hreleased : releaseDone s (s.op id).grp id (scopeMod (s.op id).form) = true)
    (hfirst : oldestOf s id (fun o => o.kind = .charr ∧ o.addr = (s.op id).addr))
    (hplace : chamberAt s (teamOf (s.op id).grp) (scopeMod (s.op id).form) (Sparse.get 0 (s.op id).addr 0) = some c)
    (harrive : arriveAt (writeBack s (scopeMod (s.op id).form)) (agentOn s (s.op id).core (launchOfGrp (s.op id).grp)) c (s.op id).y
      (s.op id).x false 0 (scopeMod (s.op id).form) = .ok () t) :
    execChamberArrive id s = .next (t.dropOp id) := by
  obtain ⟨hthere, hkind⟩ := h
  have holder : s.ops.any (fun (p : Nat × Op) => p.1 < id && p.2.kind = .charr && p.2.grp = (s.op id).grp && p.2.addr = (s.op id).addr) = false := by
    simp only [List.any_eq_false, Bool.and_eq_true, decide_eq_true_eq]
    rintro p hp ⟨⟨⟨hlt, hk⟩, hgrp⟩, haddr⟩
    exact hfirst p hp hlt hgrp ⟨hk, haddr⟩
  simp [execChamberArrive, hthere, hkind, hreleased, holder, hplace, harrive]

/-! ### Lost acknowledgements -/

/-- R222, R366: a store or atomic, near or to a peer, that has been out for 2²⁰ cycles. -/
theorem ackOverdue_late (hthere : s.hasOp id = true) (hkind : ((s.op id).kind = .global ∨ (s.op id).kind = .put) ∨ (s.op id).kind = .ratom)
    (hlate : overdue s id) : ackOverdue s id = true := by
  obtain ⟨hnone, hga, hstoring, hbirth⟩ := hlate
  simp only [ackOverdue, Bool.and_eq_true, Bool.or_eq_true, decide_eq_true_eq, hnone, Option.all_none]
  exact ⟨⟨⟨⟨⟨hthere, hkind⟩, hga⟩, hstoring⟩, trivial⟩, hbirth⟩

theorem execAckLost_global (h : flying s id .global) (hlate : overdue s id) : execAckLost id s = .next (lostAccess s id) := by
  obtain ⟨hthere, hkind⟩ := h
  simp only [execAckLost, ackOverdue_late hthere (.inl (.inl hkind)) hlate, hkind, Bool.not_true, Bool.false_eq_true, if_false,
    bne_self_eq_false]
  rfl

theorem execAckLost_pod (h : flying s id .put ∨ flying s id .ratom) (hlate : overdue s id) : execAckLost id s = .next (losePod s id) := by
  have hfar : ackOverdue s id = true ∧ (s.op id).kind ≠ .global := by
    rcases h with ⟨hthere, hkind⟩ | ⟨hthere, hkind⟩
    · exact ⟨ackOverdue_late hthere (.inl (.inr hkind)) hlate, by simp [hkind]⟩
    · exact ⟨ackOverdue_late hthere (.inr hkind) hlate, by simp [hkind]⟩
  simp [execAckLost, hfar]

/-! ### Time, breakpoints and handlers -/

theorem execLongLatencyFlag_old {g f : Nat} (hnew : f ∉ (s.group g).longFlags)
    (hold : ∃ p ∈ s.ops, p.2.grp = g ∧ p.2.flag = some f ∧ p.2.birth + 64 < s.cycle p.2.core) :
    execLongLatencyFlag g f s = .next (s.modGroup g (fun x => { x with longFlags := f :: x.longFlags })) := by
  refine if_pos ?_
  simpa [hnew, and_assoc] using hold

theorem execWatchdog_due {g : Nat} (hdue : watchdogDue s g = true) : execWatchdog g s = .next (raiseInPlace s g Cause.watchdog) :=
  if_pos hdue

/-- R323: the entry whose turn it is issues. -/
theorem pathTurn_head {g pc : Nat} {lanes : Lanes} {ps : List (Nat × Lanes)} (hpicks : (s.group g).picks = (pc, lanes) :: ps) :
    pathTurn s g pc lanes = runEntry (s.modGroup g (fun x => { x with picks := ps })) g pc lanes false := by
  simp [pathTurn, hpicks]

/-- R138 to R143: an entry whose lanes may issue, past its headers, comes to an instruction. -/
theorem runEntry_ready {g pc va hdr w : Nat} {lanes : Lanes} (hmay : (s.group g).mayIssue = true) (hsome : lanes ≠ 0#32)
    (hsub : Lanes.sub lanes ((s.group g).entryLanes pc) = true)
    (hat : runHeaders g headerFuel s pc ((s.group g).hdr (low lanes)) 0 = .ready va hdr w t) :
    runEntry s g pc lanes false = issueWord t g pc lanes va hdr w := by
  simp [runEntry, hmay, hsome, hsub, hat]

/-- R310, R323: an instruction that a breakpoint names raises its causes and does nothing. -/
theorem issueWord_broken {g pc va hdr w : Nat} {lanes : Lanes} {e : Enc} {r : CauseRec}
    (hneed : va = pc → (s.group g).need &&& lanes = 0#32) (hdecoded : instrAt s g va w = .ok (some e, t)) (hbreak : breakAt t g va = true)
    (hown : ownCauses t g lanes va (va + 4 * wordsOf (BitVec.ofNat 32 w)) hdr (va != pc) e = some r) :
    issueWord s g pc lanes va hdr w =
      settleHalts (afterIssue t (raiseAt t g lanes va hdr (breakCauses lanes r) (if r.tokv then some (r.token, r.tcause) else none))
        g va (va + 4 * wordsOf (BitVec.ofNat 32 w)) false) (teamOf g) := by
  have hkept : (if va = pc then (s.group g).need &&& lanes else 0#32) = 0#32 := ite_eq_right_iff.mpr hneed
  simp only [issueWord, hkept, bne_self_eq_false, Bool.false_eq_true, if_false, hdecoded, hbreak, if_true, issueBroken, hown]

theorem execAddressBreakpoint_found {g : Nat} {x : Broken} (h : x.found s g) :
    execAddressBreakpoint g s = .next (settleHalts (afterIssue x.decoded
      (raiseAt x.decoded g x.lanes x.va x.hdr (breakCauses x.lanes x.own) (if x.own.tokv then some (x.own.token, x.own.tcause) else none))
      g x.va (x.va + 4 * wordsOf (BitVec.ofNat 32 x.word)) false) (teamOf g)) := by
  obtain ⟨hpicks, hbreak, ⟨t, hseen⟩, hmay, hsome, hsub, hat, hneed, hdecoded, hbreak', hown⟩ := h
  rw [← issueWord_broken hneed hdecoded hbreak' hown, ← runEntry_ready hmay hsome hsub hat, ← pathTurn_head hpicks]
  simp only [Broken.at_] at hseen
  simp only [execAddressBreakpoint, hpicks, hseen, hbreak, if_true]

theorem execHandlerEntry_ready {g : Nat} (hmode : (s.group g).mode = .halted) (hpicks : (s.group g).picks = [])
    (hfree : (s.team (teamOf g)).debug = false) (hlive : (s.group g).live ≠ 0#32) (hready : handlerReady s g (s.group g).entPreempt = true)
    (hlanded : multicastsLanded s (teamOf g) = true) (hpre : (s.group g).entPreempt = false ∨ preemptReady s g = true) :
    execHandlerEntry g s = .next (enterHandler s g) := by
  refine if_pos ?_
  simpa [hmode, hpicks, hfree, hlive, hready, hlanded] using hpre

end Landings

/-- Settles O56: each landing, each start and each timeout, by the equation of its case. -/
theorem landings : Obligations.Landings := by
  intro i r h s hwhen
  cases h with
  | grant c => exact Laws.exec_racqGrant c s
  | deadline g m =>
    obtain ⟨hruns, hm, hout⟩ := hwhen
    rw [Laws.exec_mwaitDeadline, execMwaitDeadline_due hruns hm hout]
  | special id => rw [Laws.exec_specialFunctionLand, execSpecialFunctionLand_flying hwhen]
  | shuffle id =>
    obtain ⟨hflying, hfirst⟩ := hwhen
    rw [Laws.exec_shuffleLand, execShuffleLand_first hflying hfirst]
  | load id => rw [Laws.exec_scratchpadLoadLand, execScratchpadLoadLand_flying hwhen]
  | atomic id => rw [Laws.exec_scratchpadAtomicLand, execScratchpadAtomicLand_flying hwhen]
  | taken id =>
    obtain ⟨hflying, hnear⟩ := hwhen
    rw [Laws.exec_queueReadLand, execQueueReadLand_taken hflying hnear]
  | entry id e es =>
    obtain ⟨hflying, hfar, hkept, hfirst, hqueue⟩ := hwhen
    rw [Laws.exec_queueReadLand, execQueueReadLand_oldest hflying hfar hkept hfirst hqueue]
  | posted id lane => rw [Laws.exec_postedWriteLand, execPostedWriteLand_flying lane hwhen]
  | cput id t => rw [Laws.exec_cputIncrement, execCputIncrement_ready hwhen]
  | run id => rw [Laws.exec_heldOperationStart, execHeldOperationStart_bargeRun hwhen]
  | held id =>
    obtain ⟨-, hrun, hstop, hcls⟩ := hwhen
    rw [Laws.exec_heldOperationStart, execHeldOperationStart_ordinary hrun hstop hcls]
  | poisoned id c =>
    obtain ⟨hthere, hrun, hready, hcause, hover⟩ := hwhen
    rw [Laws.exec_heldOperationStart, execHeldOperationStart_poisoned hthere hrun hready hcause hover]
  | stop id =>
    obtain ⟨hgoes, hkind, hnone⟩ := hwhen
    rw [Laws.exec_heldOperationStart, execHeldOperationStart_goes hgoes (by simp [hkind]) (by simp [hkind]) hnone
      (by simp [Op.toPod, hkind]) (by simp [hkind]), if_pos hkind]
  | behind id =>
    obtain ⟨hgoes, hpod, hblocked⟩ := hwhen
    rw [Laws.exec_heldOperationStart, execHeldOperationStart_behind hgoes hpod hblocked]
  | noRoom id =>
    obtain ⟨hgoes, hput, hfree, hfull⟩ := hwhen
    rw [Laws.exec_heldOperationStart, execHeldOperationStart_noRoom hgoes hput hfree hfull]
  | fabric id =>
    obtain ⟨hgoes, hcls, hnone, hpath, hroom⟩ := hwhen
    have hkind : ∀ k : OpKind, k.cls ≠ 6 → (s.op id).kind ≠ k := fun k hk heq => hk (heq ▸ hcls)
    rw [Laws.exec_heldOperationStart, execHeldOperationStart_goes hgoes (hkind _ (by decide)) (hkind _ (by decide)) hnone hpath hroom,
      if_neg (hkind _ (by decide)), if_pos hcls]
  | access id =>
    obtain ⟨hworking, hglobal, hleft, hhome⟩ := hwhen
    rw [Laws.exec_globalAccessRetire, execGlobalAccessRetire_access hworking hglobal hleft hhome]
  | lines id t =>
    obtain ⟨hworking, hkind, hlines⟩ := hwhen
    rw [Laws.exec_globalAccessRetire, execGlobalAccessRetire_lines hworking hkind hlines]
  | code id =>
    obtain ⟨hworking, hkind⟩ := hwhen
    rw [Laws.exec_globalAccessRetire, execGlobalAccessRetire_code hworking hkind]
  | die id =>
    obtain ⟨hflying, hworking, hleft⟩ := hwhen
    rw [Laws.exec_dieScratchpadRetire, execDieScratchpadRetire_done hflying hworking hleft]
  | chamber id c t =>
    obtain ⟨hflying, hreleased, hfirst, hplace, harrive⟩ := hwhen
    rw [Laws.exec_chamberArrive, execChamberArrive_oldest hflying hreleased hfirst hplace harrive]
  | lost id =>
    obtain ⟨hflying, hlate⟩ := hwhen
    rw [Laws.exec_ackLost, execAckLost_global hflying hlate]
  | lostFar id =>
    obtain ⟨hflying, hlate⟩ := hwhen
    rw [Laws.exec_ackLost, execAckLost_pod hflying hlate]
  | longLatency g f =>
    obtain ⟨hnew, hold⟩ := hwhen
    rw [Laws.exec_longLatencyFlag, execLongLatencyFlag_old hnew hold]
  | watchdog g => rw [Laws.exec_watchdog, execWatchdog_due hwhen]
  | breakpoint g x => rw [Laws.exec_addressBreakpoint, execAddressBreakpoint_found hwhen]
  | handler g =>
    obtain ⟨hmode, hpicks, hfree, hlive, hready, hlanded, hpre⟩ := hwhen
    rw [Laws.exec_handlerEntry, execHandlerEntry_ready hmode hpicks hfree hlive hready hlanded hpre]

end Sys2Proof.Proofs

/-! The results of file 03 that one instruction computes: moves and selects (R122), floating arithmetic (R64 to R67, R128, R133), and
compares (R67, R121, R129, R130). For each family one lemma says which computation or test the instruction is, with the operands and the
value that the rule names; past the gate (`Laws.compute_clear`, `Laws.test_clear`) that is the statement. -/

namespace Sys2Proof.Proofs

open Sys2Proof Sys2Proof.Machine Sys2Proof.Rules

section Results

variable {f : ExtForm} {u : Use} {s : State} {i : Instr}

/-! ### From a computation to its result -/

theorem computes_of_exec_eq_compute {n : Nat} {x : State → Lanes → Nat → Nat} (hexec : exec i s = s.compute f u n x) (hclear : Clear s f u)
    (hsome : SomeActive s f) : Computes i s f n (x s (s.active f)) :=
  ⟨x s (s.active f), fun _ _ _ => rfl, hexec.trans (Laws.compute_clear hclear hsome n x)⟩

theorem tests_of_exec_eq_test {x : State → Lanes → Nat → Bool} (hexec : exec i s = s.test f u x) (hclear : Clear s f u)
    (hsome : SomeActive s f) : Tests i s f (x s (s.active f)) :=
  ⟨x s (s.active f), fun _ _ _ => rfl, hexec.trans (Laws.test_clear hclear hsome x)⟩

/-! ### Modifier fields and numbers -/

theorem roundMod_eq (f : ExtForm) : roundMod f = f.mods.toNat % 4 := rfl

theorem combiner_eq (f : ExtForm) : bits f.mods.toNat 3 2 = f.mods.toNat / 8 % 4 := bits_eq_div_mod _ 3 2

theorem signed_widthOf (ty x : Nat) : signed (widthOf ty) x = (BitVec.ofNat (widthOf ty) x).toInt := by
  obtain h | h : widthOf ty = 64 ∨ widthOf ty = 32 := ite_eq_or_eq ..
  · rw [h, Laws.signed_toInt64]
  · rw [h, Laws.signed_toInt]

theorem asInt_eq_number (ty x : Nat) : asInt ty x = number (ty = 1 || ty = 3) (widthOf ty) x := by
  simp only [asInt, number, signed_widthOf, BitVec.toNat_ofNat, isSignedTy]

/-! ### Moves (R122) -/

/-- R122: every move is the computation of its rule: the model's meaning writes the same operand. -/
theorem exec_isMove {r : MoveRule} (h : IsMove i r) (s : State) : exec i s = s.compute r.f r.u r.regs r.value := by
  cases h with
  | mov g => rw [Laws.exec_mov]; rfl
  | movX f => rw [Laws.exec_movX]; rfl
  | sel f => rw [Laws.exec_sel]; rfl
  | bcast g => rw [Laws.exec_bcast]; rfl
  | bcastX f => rw [Laws.exec_bcastX]; rfl

/-! ### Floating arithmetic (R64 to R67, R128, R133) -/

/-- The computation that a rule of floating arithmetic describes. -/
def floatRun (r : FloatRule) (s : State) : Out :=
  s.compute r.f r.use (wordsOfTy r.ty) (fun s _ k => r.value (s.opA r.f r.ty k) (s.opB r.f r.ty k) (s.opC r.f r.ty k))

theorem fpUnary_eq_floatRun (f : ExtForm) (s : State) (ty : Nat) (x : Nat → Nat) :
    s.fpUnary f ty x = floatRun ⟨f, ty, 1, fun a _ _ => x a⟩ s := rfl

theorem fpBinary_eq_floatRun (f : ExtForm) (s : State) (ty : Nat) (x : Nat → Nat → Nat) :
    s.fpBinary f ty x = floatRun ⟨f, ty, 2, fun a b _ => x a b⟩ s := rfl

theorem fpTernary_eq_floatRun (f : ExtForm) (s : State) (ty : Nat) (x : Nat → Nat → Nat → Nat) :
    s.fpTernary f ty x = floatRun ⟨f, ty, 3, x⟩ s := rfl

theorem fpAdd_eq_sum (t : Fmt) (f : ExtForm) : fpAdd t (roundMod f) (satMod f) = sum t f := rfl

theorem fpSub_eq_difference (t : Fmt) (f : ExtForm) : fpSub t (roundMod f) (satMod f) = difference t f := rfl

theorem fpMul_eq_product (t : Fmt) (f : ExtForm) : fpMul t (roundMod f) (satMod f) = product t f := rfl

theorem fpFma_eq_fused (t : Fmt) (f : ExtForm) : fpFma t (roundMod f) (satMod f) = fused t f := rfl

theorem typeOf_eq_iff {f : ExtForm} {dflt n : Nat} (hdflt : dflt ≠ n) (hn : n ≠ 0) : typeOf f dflt = n ↔ f.ty.toNat = n := by
  unfold typeOf
  split
  · next h => simp [h, hdflt, hn.symm]
  · rfl

theorem packedFmt_eq_packedFormat (f : ExtForm) : packedFmt f = packedFormat f := by
  simp only [packedFmt, packedFormat, typeOf_eq_iff (by decide : 8 ≠ 9) (by decide : 9 ≠ 0), ← BitVec.toNat_inj]
  rfl

/-- R127: what `frnd` takes as FP64. -/
theorem typeOf_f64_iff (f : ExtForm) : typeOf f 6 = 7 ↔ f.ty = 7#4 := by
  rw [typeOf_eq_iff (by decide) (by decide), ← BitVec.toNat_inj]
  rfl

/-- R128: each half by itself. -/
theorem packed2_eq_halves (x : Nat → Nat → Nat) : (fun a b (_ : Nat) => packed2 x a b) = halves (fun a b _ => x a b) := by
  funext a b c
  simp only [packed2, halves, bits_eq_div_mod, Nat.pow_zero, Nat.div_one, Nat.reducePow]

theorem packed3_eq_halves (x : Nat → Nat → Nat → Nat) : packed3 x = halves x := by
  funext a b c
  simp only [packed3, halves, bits_eq_div_mod, Nat.pow_zero, Nat.div_one, Nat.reducePow]

theorem fpBinary_packed2 (f : ExtForm) (s : State) (ty : Nat) (x : Nat → Nat → Nat) :
    s.fpBinary f ty (packed2 x) = floatRun ⟨f, ty, 2, halves (fun a b _ => x a b)⟩ s := by
  rw [fpBinary_eq_floatRun, packed2_eq_halves]

theorem fpTernary_packed3 (f : ExtForm) (s : State) (ty : Nat) (x : Nat → Nat → Nat → Nat) :
    s.fpTernary f ty (packed3 x) = floatRun ⟨f, ty, 3, halves x⟩ s := by
  rw [fpTernary_eq_floatRun, packed3_eq_halves]

/-- R133: the format of `frnd` is FP32 or FP64 as the type says. -/
theorem roundIntegral_eq_floatRun (f : ExtForm) (s : State) : roundIntegral f s =
    floatRun ⟨f, typeOf f 6, 1, fun a _ _ => fpRint (if f.ty = 7#4 then .f64 else .f32) (f.mods.toNat % 4) a⟩ s := by
  simp only [roundIntegral, fpUnary_eq_floatRun, typeOf_f64_iff, roundMod_eq]

/-- R133: a base word of `frnd` rounds FP32 to nearest, ties to even. -/
theorem roundIntegral_base (g : BaseForm) (s : State) :
    roundIntegral (g.toExt 11 3) s = floatRun ⟨g.toExt 11 3, 6, 1, fun a _ _ => fpRint .f32 0 a⟩ s :=
  roundIntegral_eq_floatRun (g.toExt 11 3) s

/-- R128, R133: every instruction of floating arithmetic is the computation of its rule. -/
theorem exec_isFloat {r : FloatRule} (h : IsFloat i r) (s : State) : exec i s = floatRun r s := by
  cases h with
  | fadd g => rw [Laws.exec_fadd, execFadd, floatAdd, fpAdd_eq_sum, fpBinary_eq_floatRun]
  | faddX f => rw [Laws.exec_faddX, execFaddX, floatAdd, fpAdd_eq_sum, fpBinary_eq_floatRun]
  | fmul g => rw [Laws.exec_fmul, execFmul, floatMul, fpMul_eq_product, fpBinary_eq_floatRun]
  | fmulX f => rw [Laws.exec_fmulX, execFmulX, floatMul, fpMul_eq_product, fpBinary_eq_floatRun]
  | ffma f => rw [Laws.exec_ffma, execFfma, fpFma_eq_fused, fpTernary_eq_floatRun]
  | fmin g => rw [Laws.exec_fmin, execFmin, floatMin, fpBinary_eq_floatRun]
  | fminX f => rw [Laws.exec_fminX, execFminX, floatMin, fpBinary_eq_floatRun]
  | fmax f => rw [Laws.exec_fmax, execFmax, fpBinary_eq_floatRun]
  | fsub f => rw [Laws.exec_fsub, execFsub, fpSub_eq_difference, fpBinary_eq_floatRun]
  | hadd2 g => rw [Laws.exec_hadd2, execHadd2, packedAdd, fpAdd_eq_sum, packedFmt_eq_packedFormat, fpBinary_packed2, packedRule]
  | hadd2X f => rw [Laws.exec_hadd2X, execHadd2X, packedAdd, fpAdd_eq_sum, packedFmt_eq_packedFormat, fpBinary_packed2, packedRule]
  | hmul2 g => rw [Laws.exec_hmul2, execHmul2, packedMul, fpMul_eq_product, packedFmt_eq_packedFormat, fpBinary_packed2, packedRule]
  | hmul2X f => rw [Laws.exec_hmul2X, execHmul2X, packedMul, fpMul_eq_product, packedFmt_eq_packedFormat, fpBinary_packed2, packedRule]
  | hfma2 f => rw [Laws.exec_hfma2, execHfma2, fpFma_eq_fused, packedFmt_eq_packedFormat, fpTernary_packed3, packedRule]
  | hmin2 g => rw [Laws.exec_hmin2, execHmin2, packedMin, packedFmt_eq_packedFormat, fpBinary_packed2, packedRule]
  | hmin2X f => rw [Laws.exec_hmin2X, execHmin2X, packedMin, packedFmt_eq_packedFormat, fpBinary_packed2, packedRule]
  | hmax2 f => rw [Laws.exec_hmax2, execHmax2, packedFmt_eq_packedFormat, fpBinary_packed2, packedRule]
  | dadd g => rw [Laws.exec_dadd, execDadd, doubleAdd, fpAdd_eq_sum, fpBinary_eq_floatRun]
  | daddX f => rw [Laws.exec_daddX, execDaddX, doubleAdd, fpAdd_eq_sum, fpBinary_eq_floatRun]
  | dmul g => rw [Laws.exec_dmul, execDmul, doubleMul, fpMul_eq_product, fpBinary_eq_floatRun]
  | dmulX f => rw [Laws.exec_dmulX, execDmulX, doubleMul, fpMul_eq_product, fpBinary_eq_floatRun]
  | dfma f => rw [Laws.exec_dfma, execDfma, fpFma_eq_fused, fpTernary_eq_floatRun]
  | dmin f => rw [Laws.exec_dmin, execDmin, fpBinary_eq_floatRun]
  | dmax f => rw [Laws.exec_dmax, execDmax, fpBinary_eq_floatRun]
  | frnd g => rw [Laws.exec_frnd, execFrnd, roundIntegral_base]
  | frndX f => rw [Laws.exec_frndX, execFrndX, roundIntegral_eq_floatRun]

/-! ### Compares and classification (R67, R121, R129, R130) -/

theorem intCond_eq_relation (cc : Nat) (a b : Int) : intCond cc a b = relation cc a b :=
  match cc with
  | 0 | 1 | 2 | 3 | 4 => rfl
  | _ + 5 => rfl

theorem combine_eq_mix (op : Nat) (x y : Bool) : combine op x y = mix op x y :=
  match op with
  | 0 | 1 => rfl
  | _ + 2 => rfl

/-- R121: the truth value of an integer compare. -/
theorem intCond_eq_intTest (f : ExtForm) (s : State) (k : Nat) :
    intCond (bits f.mods.toNat 0 3) (asInt (typeOf f 1) (s.opA f (typeOf f 1) k)) (asInt (typeOf f 1) (s.opB f (typeOf f 1) k)) =
      intTest f s k := by
  rw [intCond_eq_relation, asInt_eq_number, asInt_eq_number]
  rfl

theorem intCompare_eq_test (f : ExtForm) (s : State) : intCompare f s = s.test f (icmpRule f).u (icmpRule f).value := by
  simp only [intCompare, intCond_eq_intTest]
  rfl

theorem execIcmpc_eq_test (f : ExtForm) (s : State) : execIcmpc f s =
    s.test f { d := anyDst 1, a := anySrc (words f 1), b := anySrc (words f 1), c := onePred }
      (fun s _ k => mix (f.mods.toNat / 8 % 4) (intTest f s k) (s.predBit f.c k)) := by
  simp only [execIcmpc, intCond_eq_intTest, combine_eq_mix, combiner_eq]
  rfl

/-- R129: without a combiner no predicate is read. -/
theorem floatCompare_eq_test (t : Fmt) (ty : Nat) (f : ExtForm) (s : State) :
    floatCompare t ty f s = s.test f (floatTest t ty f).u (floatTest t ty f).value := by
  simp only [floatCompare, combine_eq_mix, combiner_eq]
  rfl

/-- R121, R129, R130: every compare is the test of its rule. -/
theorem exec_isTest {r : TestRule} (h : IsTest i r) (s : State) : exec i s = s.test r.f r.u r.value := by
  cases h with
  | icmp g => rw [Laws.exec_icmp, execIcmp, intCompare_eq_test]; rfl
  | icmpX f => rw [Laws.exec_icmpX, execIcmpX, intCompare_eq_test]; rfl
  | icmpc f => rw [Laws.exec_icmpc, execIcmpc_eq_test]
  | fcmp g => rw [Laws.exec_fcmp, execFcmp, floatCompare_eq_test]; rfl
  | fcmpX f => rw [Laws.exec_fcmpX, execFcmpX, floatCompare_eq_test]; rfl
  | dcmp g => rw [Laws.exec_dcmp, execDcmp, floatCompare_eq_test]; rfl
  | dcmpX f => rw [Laws.exec_dcmpX, execDcmpX, floatCompare_eq_test]; rfl
  | fclass f => rw [Laws.exec_fclass]; rfl

end Results

/-- Settles O23: past its gate each move writes what its rule computes. -/
theorem moveResults : Obligations.MoveResults :=
  fun _ _ s h hclear hsome => computes_of_exec_eq_compute (exec_isMove h s) hclear hsome

/-- Settles O25: past its gate each instruction writes what its rule computes, the exact result rounded once. -/
theorem floatResults : Obligations.FloatResults :=
  fun _ _ s h hclear hsome => computes_of_exec_eq_compute (exec_isFloat h s) hclear hsome

/-- Settles O26: past its gate each compare writes the truth value of its rule's test. -/
theorem compareResults : Obligations.CompareResults :=
  fun _ _ s h hclear hsome => tests_of_exec_eq_test (exec_isTest h s) hclear hsome

end Sys2Proof.Proofs

/-! Encodings and their words (R81 to R97, R268, R270): which encodings pass the checks, what the words of one read back as, and which
instruction one stands for. Decoding and encoding are then inverse in both directions. -/

namespace Sys2Proof.Proofs

open Sys2Proof

section Encodings

/-! ### The table of R95 -/

/-- An operation with a base form takes no mask and no token. -/
def BareBase (p : OpSpec) : Prop := p.base.isSome = true → p.mask = false ∧ p.tok = false

@[simp] theorem bareBase_reg (b : Option Bool) (t : List Nat) (f m : Nat) (ok : Bool) : BareBase (.reg b t f m ok) := fun _ => ⟨rfl, rfl⟩

@[simp] theorem bareBase_eng (t : List Nat) (f m : Nat) (ok : Bool) : BareBase (.eng t f m ok) := fun h => nomatch h

@[simp] theorem bareBase_eng_mask (t : List Nat) (f m : Nat) (ok mask : Bool) : BareBase { OpSpec.eng t f m ok with mask := mask } :=
  fun h => nomatch h

@[simp] theorem bareBase_ite {c : Prop} [Decidable c] {p q : OpSpec} (hp : BareBase p) (hq : BareBase q) : BareBase (if c then p else q) := by
  split <;> assumption

/-- What holds of every row of a part of the table: its index is at most 9, and with a base form it takes no mask and no token. -/
def RowFits (x : Nat) (o : Option OpSpec) : Prop := ∀ p, o = some p → x ≤ 9 ∧ BareBase p

@[simp] theorem rowFits_none (x : Nat) : RowFits x none := fun _ h => nomatch h

@[simp] theorem rowFits_some {x : Nat} {p : OpSpec} : RowFits x (some p) ↔ x ≤ 9 ∧ BareBase p := by
  simp [RowFits]

theorem specRegister_fits (m x mods : Nat) (aq : Bool) : RowFits x (specRegister m x mods aq) := by
  unfold specRegister
  split
  all_goals repeat' split
  all_goals simp
  all_goals omega

theorem specFloat_fits (m x ty mods : Nat) : RowFits x (specFloat m x ty mods) := by
  unfold specFloat specPack specUnpack
  dsimp only
  split
  all_goals repeat' split
  all_goals simp
  all_goals omega

theorem specControl_fits (m x ty mods : Nat) : RowFits x (specControl m x ty mods) := by
  unfold specControl
  split
  all_goals repeat' split
  all_goals simp
  all_goals omega

theorem specMemory_fits (m x ty mods : Nat) : RowFits x (specMemory m x ty mods) := by
  unfold specMemory
  dsimp only
  split
  all_goals repeat' split
  all_goals simp
  all_goals omega

theorem specSync_fits (m x mods : Nat) : RowFits x (specSync m x mods) := by
  unfold specSync
  split
  all_goals repeat' split
  all_goals simp only [rowFits_none, rowFits_some, bareBase_reg, bareBase_eng, bareBase_eng_mask, and_true]
  all_goals omega

theorem specEngine_fits (m x ty mods : Nat) : RowFits x (specEngine m x ty mods) := by
  unfold specEngine
  dsimp only
  split
  all_goals repeat' split
  all_goals simp
  all_goals omega

theorem opSpec_fits (m x ty mods : Nat) (aq : Bool) : RowFits x (opSpec m x ty mods aq) := by
  unfold opSpec
  repeat' split
  · exact specRegister_fits m x mods aq
  · exact specFloat_fits m x ty mods
  · exact specControl_fits m x ty mods
  · exact specMemory_fits m x ty mods
  · exact specSync_fits m x mods
  · exact specEngine_fits m x ty mods

/-- The rows of an operation are there under every type and all modifiers, or under none. -/
theorem opSpec_isSome (m x ty mods : Nat) (aq : Bool) : (opSpec m x ty mods aq).isSome = (opSpec m x 0 0 false).isSome := by
  unfold opSpec
  repeat' split
  · unfold specRegister
    split <;> simp only [apply_ite Option.isSome, Option.isSome_some, Option.isSome_none]
  · unfold specFloat
    dsimp only
    split <;> simp only [apply_ite Option.isSome, Option.isSome_some, Option.isSome_none]
  · unfold specControl
    split <;> simp only [apply_ite Option.isSome, Option.isSome_some, Option.isSome_none]
  · unfold specMemory
    dsimp only
    split <;> simp only [apply_ite Option.isSome, Option.isSome_some, Option.isSome_none]
  · unfold specSync
    split <;> simp only [apply_ite Option.isSome, Option.isSome_some, Option.isSome_none]
  · unfold specEngine
    dsimp only
    split <;> simp only [apply_ite Option.isSome, Option.isSome_some, Option.isSome_none, ite_self]

/-- No operation has major 0 or a major of more than six bits. -/
theorem opSpec_major {m x ty mods : Nat} {aq : Bool} {p : OpSpec} (h : opSpec m x ty mods aq = some p) : 0 < m ∧ m < 64 := by
  refine ⟨Nat.pos_of_ne_zero (fun h0 => ?_), Nat.lt_of_not_le (fun hm => ?_)⟩
  · subst h0
    cases h
  · have hnone : opSpec m x ty mods aq = none := by
      unfold opSpec specEngine
      rw [if_neg (by omega), if_neg (by omega), if_neg (by omega), if_neg (by omega), if_neg (by omega)]
      dsimp only
      split <;> first | omega | rfl
    simp [hnone] at h

/-! ### Words from their fields -/

/-- A bit as a field of width 1. -/
theorem ofBool_getLsbD {n : Nat} (w : BitVec n) (i : Nat) : BitVec.ofBool (w.getLsbD i) = w.extractLsb' i 1 := by
  apply BitVec.eq_of_getLsbD_eq
  intro j hj
  obtain rfl : j = 0 := by omega
  simp

theorem base_word_ofWord (w : BitVec 32) :
    (BaseForm.ofWord w).word (w.extractLsb' 2 6).toNat (w.extractLsb' 30 2).toNat (w.extractLsb' 0 2).toNat = w := by
  simp only [BaseForm.word, BaseForm.ofWord, BitVec.ofNat_toNat, BitVec.setWidth_eq, ofBool_getLsbD,
    BitVec.extractLsb'_append_extractLsb'_eq_extractLsb']
  exact BitVec.extractLsb'_eq_self

theorem ext_word0_ofWords (w0 w1 w2 : BitVec 32) (lit : Option (BitVec 64)) (htop : w0.getLsbD 31 = false)
    (hlen : w0.extractLsb' 0 2 = if lit.isSome then 3#2 else 1#2) :
    (ExtForm.ofWords w0 w1 w2 lit).word0 (w0.extractLsb' 2 6).toNat (w0.extractLsb' 8 4).toNat = w0 := by
  have htop' : 0#1 = w0.extractLsb' 31 1 := by rw [← ofBool_getLsbD, htop]; rfl
  have hlow : (if (ExtForm.ofWords w0 w1 w2 lit).lit.isSome then 3#2 else 1#2) = w0.extractLsb' 0 2 := hlen.symm
  rw [ExtForm.word0, hlow]
  simp only [ExtForm.ofWords, htop', BitVec.ofNat_toNat, BitVec.setWidth_eq, ofBool_getLsbD,
    BitVec.extractLsb'_append_extractLsb'_eq_extractLsb']
  exact BitVec.extractLsb'_eq_self

theorem ext_word1_ofWords (w0 w1 w2 : BitVec 32) (lit : Option (BitVec 64)) : (ExtForm.ofWords w0 w1 w2 lit).word1 = w1 := by
  simp only [ExtForm.word1, ExtForm.ofWords, BitVec.extractLsb'_append_extractLsb'_eq_extractLsb']
  exact BitVec.extractLsb'_eq_self

theorem ext_word2_ofWords (w0 w1 w2 : BitVec 32) (lit : Option (BitVec 64)) : (ExtForm.ofWords w0 w1 w2 lit).word2 = w2 := by
  simp only [ExtForm.word2, ExtForm.ofWords, ofBool_getLsbD, BitVec.extractLsb'_append_extractLsb'_eq_extractLsb']
  exact BitVec.extractLsb'_eq_self

/-- The two words of a literal, from the words it was joined of. -/
theorem litWords_append (lo hi : BitVec 32) : litWords (some (hi ++ lo)) = [lo, hi] := by
  simp only [litWords, BitVec.extractLsb'_append_eq_right, BitVec.extractLsb'_append_eq_left]

/-! ### Base forms and the extended form of the same fields -/

/-- The name of a base register, its low six bits. -/
theorem baseName_low (scalar : Bool) (r : BitVec 6) : (baseName scalar r).extractLsb' 0 6 = r := by
  apply BitVec.eq_of_toNat_eq
  cases scalar <;> simp [baseName] <;> omega

/-- A base word can hold the name. -/
def baseNamed (scalar : Bool) (n : BitVec 11) : Bool := if scalar then 1536 ≤ n.toNat && n.toNat < 1600 else n.toNat < 64

theorem baseName_of_baseNamed {scalar : Bool} {n : BitVec 11} (h : baseNamed scalar n = true) : baseName scalar (n.extractLsb' 0 6) = n := by
  apply BitVec.eq_of_toNat_eq
  cases scalar <;> simp [baseName, baseNamed] at h ⊢ <;> omega

theorem baseNamed_baseName (scalar : Bool) (r : BitVec 6) : baseNamed scalar (baseName scalar r) = true := by
  cases scalar <;> simp [baseName, baseNamed] <;> omega

/-- A name that a base word can hold is no queue's. -/
theorem not_queue_of_baseNamed {scalar : Bool} {n : BitVec 11} (h : baseNamed scalar n = true) :
    (1600 ≤ n.toNat && n.toNat ≤ 1663) = false := by
  cases scalar <;> simp [baseNamed] at h ⊢ <;> omega

/-! ### The checks of R97 -/

/-- A rule of R97 is broken, or the rules after it decide. -/
theorem refuse_eq_none {ε : Type} (c : Prop) [Decidable c] (e : ε) (r : Option ε) : (if c then some e else r) = none ↔ ¬ c ∧ r = none := by
  split <;> simp [*]

/-- What a base word must be to pass. -/
structure BaseLegal (m x : Nat) (f : BaseForm) (p : OpSpec) : Prop where
  row : opSpec m x 0 0 false = some p
  based : p.base ≠ none
  index : x < 4
  d : bitOf p.fields 3 = false → f.d = 0#6
  a : bitOf p.fields 2 = false → f.a = 0#6
  b : bitOf p.fields 1 = false → f.b = 0#6
  guard : f.neg = true → f.guard ≠ 7#3

theorem base_check_eq_none {m x : Nat} {f : BaseForm} : f.check m x = none ↔ ∃ p, BaseLegal m x f p := by
  unfold BaseForm.check
  constructor
  · split
    · exact fun h => nomatch h
    · next p hp =>
      simp only [refuse_eq_none]
      intro h
      refine ⟨p, hp, ?_, ?_, ?_, ?_, ?_, ?_⟩ <;> simp_all
  · rintro ⟨p, hrow, hbase, hidx, hd, ha, hb, hg⟩
    simp only [hrow, refuse_eq_none]
    simp_all

/-- What a base word with a literal must be to pass. -/
structure ShortLegal (m x : Nat) (f : ExtForm) (p : OpSpec) : Prop where
  row : opSpec m x 0 0 (1600 ≤ f.a.toNat && f.a.toNat ≤ 1663) = some p
  based : p.base ≠ none
  d : bitOf p.fields 3 = false → f.d = 0#11
  a : bitOf p.fields 2 = false → f.a = 0#11
  guard : f.neg = true → f.guard ≠ 7#3
  literal : f.lit ≠ none
  second : bitOf p.fields 1 = true ∧ f.b = 0#11
  plain : f.ty = 0#4 ∧ f.mods = 0#10 ∧ f.c = 0#11
  tokens : (p.mask = false → f.mask = 0#16) ∧ p.tok = f.outv ∧ (f.outv = false → f.out = 0#4)

theorem shortLegal_of_check {m x : Nat} {f : ExtForm} (hs : f.short = true) (h : f.check m x = none) : ∃ p, ShortLegal m x f p := by
  revert h
  unfold ExtForm.check
  dsimp only
  split
  · exact fun h => nomatch h
  · next p hp =>
    simp only [refuse_eq_none]
    intro h
    simp [hs, Option.isSome_iff_ne_none] at h
    obtain ⟨hg, -, ⟨⟨⟨hd, ha⟩, -⟩, -⟩, -, -, hlit, ⟨⟨hmask, htok⟩, hout⟩, ⟨⟨⟨hbase, hsome⟩, hty⟩, hmods⟩, hc⟩ := h
    simp only [hty, hmods] at hp
    exact ⟨p, hp, hbase, hd, ha, hg, hsome, hlit hsome, ⟨hty, hmods, hc⟩, hmask, htok, hout⟩

/-! ### Base words with a literal (R82, R84) -/

/-- The base word's fields of a form with a literal. -/
def shortFields (f : ExtForm) : BaseForm :=
  { neg := f.neg, guard := f.guard, d := f.d.extractLsb' 0 6, a := f.a.extractLsb' 0 6, b := 0 }

theorem shortWord_eq (m x : Nat) (f : ExtForm) : f.shortWord m x = (shortFields f).word m x 2 := rfl

/-- The base registers of the operation are scalars. -/
def scalarBase (m x : Nat) : Bool := (baseClass m x).getD false

/-- The name that a field of the base word stands for: none where the operation does not use the field. -/
def baseField (m x : Nat) (p : OpSpec) (bit : Nat) (r : BitVec 6) : BitVec 11 := if bitOf p.fields bit then baseName (scalarBase m x) r else 0

theorem toExt_of_row {m x : Nat} {p : OpSpec} (hrow : opSpec m x 0 0 false = some p) (g : BaseForm) :
    g.toExt m x = { short := false, neg := g.neg, guard := g.guard, ty := 0, d := baseField m x p 3 g.d, a := baseField m x p 2 g.a
                    b := baseField m x p 1 g.b, c := 0, mods := 0, mask := 0, outv := false, out := 0, lit := none } := by
  simp only [BaseForm.toExt, hrow, baseField, scalarBase]

theorem baseField_low {m x bit : Nat} {p : OpSpec} {n : BitVec 11} (hunused : bitOf p.fields bit = false → n = 0#11)
    (hused : bitOf p.fields bit = true → baseNamed (scalarBase m x) n = true) : baseField m x p bit (n.extractLsb' 0 6) = n := by
  unfold baseField
  split
  · next h => exact baseName_of_baseNamed (hused h)
  · next h => exact (hunused (by simpa using h)).symm

theorem low_baseField {m x bit : Nat} {p : OpSpec} {r : BitVec 6} (hunused : bitOf p.fields bit = false → r = 0#6) :
    (baseField m x p bit r).extractLsb' 0 6 = r := by
  unfold baseField
  split
  · exact baseName_low _ r
  · next h => rw [hunused (by simpa using h)]; rfl

/-- Whether source A names a queue bears on the modifiers alone. -/
theorem opSpec_fields (m x : Nat) (aq : Bool) : (opSpec m x 0 0 aq).map OpSpec.fields = (opSpec m x 0 0 false).map OpSpec.fields := by
  unfold opSpec
  split
  · unfold specRegister
    split <;> simp only [apply_ite (Option.map OpSpec.fields), Option.map_some, Option.map_none, OpSpec.reg]
  · rfl

theorem shortNames_iff {m x : Nat} {f : ExtForm} {p : OpSpec} (hrow : opSpec m x 0 0 false = some p) (hs : f.short = true) :
    f.shortNames m x = true ↔ x < 4 ∧ (bitOf p.fields 3 = true → baseNamed (scalarBase m x) f.d = true) ∧
      (bitOf p.fields 2 = true → baseNamed (scalarBase m x) f.a = true) := by
  have hfits (n : BitVec 11) :
      (if (baseClass m x).getD false then 1536 ≤ n.toNat && n.toNat < 1600 else n.toNat < 64) = baseNamed (scalarBase m x) n := rfl
  simp only [ExtForm.shortNames, hrow, hs, hfits]
  cases bitOf p.fields 3 <;> cases bitOf p.fields 2 <;> simp [and_assoc]

/-- The row of a form with a literal that a base word can hold is that of the base word. -/
theorem ShortLegal.row_base {m x : Nat} {f : ExtForm} {p : OpSpec} (hp : ShortLegal m x f p) (hs : f.short = true)
    (hnames : f.shortNames m x = true) : opSpec m x 0 0 false = some p := by
  have hrow := hp.row
  obtain ⟨q, hq⟩ : ∃ q, opSpec m x 0 0 false = some q :=
    Option.isSome_iff_exists.1 ((opSpec_isSome m x 0 0 _).symm.trans (Option.isSome_iff_exists.2 ⟨p, hrow⟩))
  have hfields : p.fields = q.fields := by
    have := opSpec_fields m x (1600 ≤ f.a.toNat && f.a.toNat ≤ 1663)
    rw [hrow, hq] at this
    exact Option.some.inj this
  obtain ⟨-, -, hused⟩ := (shortNames_iff hq hs).1 hnames
  have hqueue : (1600 ≤ f.a.toNat && f.a.toNat ≤ 1663) = false := by
    cases h : bitOf p.fields 2
    · rw [hp.a h]; rfl
    · exact not_queue_of_baseNamed (hused (hfields ▸ h))
  rwa [hqueue] at hrow

/-- R82, R84: a form with a literal that passes reads back from its base word, which passes too. -/
theorem short_reads_back {m x : Nat} {f : ExtForm} (hs : f.short = true) (hcheck : f.check m x = none) (hnames : f.shortNames m x = true) :
    ∃ v, f.lit = some v ∧ (shortFields f).check m x = none ∧ ExtForm.ofShort m x (f.shortWord m x) v = f := by
  obtain ⟨p, hp⟩ := shortLegal_of_check hs hcheck
  have hrow := hp.row_base hs hnames
  obtain ⟨v, hv⟩ := Option.ne_none_iff_exists'.1 hp.literal
  obtain ⟨hx, hd, ha⟩ := (shortNames_iff hrow hs).1 hnames
  obtain ⟨hty, hmods, hc⟩ := hp.plain
  obtain ⟨hmask, htok, hout⟩ := hp.tokens
  obtain ⟨hmask0, htok0⟩ := (opSpec_fits m x 0 0 false p hrow).2 (Option.isSome_iff_ne_none.2 hp.based)
  have houtv : f.outv = false := htok.symm.trans htok0
  refine ⟨v, hv, base_check_eq_none.2 ⟨p, hrow, hp.based, hx, ?_, ?_, fun _ => rfl, hp.guard⟩, ?_⟩
  · intro h
    simp only [shortFields, hp.d h]
    rfl
  · intro h
    simp only [shortFields, hp.a h]
    rfl
  · rw [ExtForm.ofShort, shortWord_eq, Laws.base_word_fields, toExt_of_row hrow]
    simp only [shortFields, baseField_low hp.d hd, baseField_low hp.a ha]
    have hb := hp.second.2
    have hm := hmask hmask0
    have ho := hout houtv
    cases f
    simp_all

/-- R82, R84: a base word of an operation without source B in it, with a literal, stands for a form that has this base word. -/
theorem short_of_base {m x : Nat} {w : BitVec 32} (v : BitVec 64) (hlen : w.extractLsb' 0 2 = 2#2) (hm : (w.extractLsb' 2 6).toNat = m)
    (hx : (w.extractLsb' 30 2).toNat = x) (hcheck : (BaseForm.ofWord w).check m x = none) (hb : (BaseForm.ofWord w).b = 0#6) :
    (ExtForm.ofShort m x w v).shortNames m x = true ∧ (ExtForm.ofShort m x w v).shortWord m x = w := by
  obtain ⟨p, hp⟩ := base_check_eq_none.1 hcheck
  have hform : ExtForm.ofShort m x w v = { (BaseForm.ofWord w).toExt m x with short := true, b := 0, lit := some v } := rfl
  rw [toExt_of_row hp.row] at hform
  have hfields : shortFields (ExtForm.ofShort m x w v) = BaseForm.ofWord w := by
    rw [hform]
    simp only [shortFields, low_baseField hp.d, low_baseField hp.a]
    rw [show (0 : BitVec 6) = (BaseForm.ofWord w).b from hb.symm]
  constructor
  · refine (shortNames_iff hp.row rfl).2 ⟨hp.index, fun h => ?_, fun h => ?_⟩
    all_goals
      simp only [hform, baseField, h, if_true]
      exact baseNamed_baseName _ _
  · rw [shortWord_eq, hfields, ← hm, ← hx]
    have hword := base_word_ofWord w
    rwa [hlen] at hword

/-! ### Encodings and their words -/

/-- The encoding passes every check of R97, or of R284. -/
def legalEnc (e : Enc) : Bool :=
  match e with
  | .step => true
  | .base m x f => (f.check m x).isNone
  | .ext m x f => (f.check m x).isNone && f.shortNames m x
  | .barge op f => (f.check op).isNone

theorem wf_eq (i : Instr) : i.wf = (i.formOk && legalEnc i.enc) := by
  unfold Instr.wf legalEnc
  cases i.enc <;> rfl

/-- The words of an encoding. -/
def encWords (e : Enc) : List (BitVec 32) :=
  match e with
  | .step => []
  | .base m x f => [f.word m x 0]
  | .ext m x f => if f.short then f.shortWord m x :: litWords f.lit else f.word0 m x :: f.word1 :: f.word2 :: litWords f.lit
  | .barge op f => [(f.word op).extractLsb' 0 32, (f.word op).extractLsb' 32 32]

theorem encode_eq (i : Instr) : encode i = encWords i.enc := by
  unfold encode encWords
  cases i.enc <;> rfl

/-- The encoding is of a group's words. -/
def groupEnc (e : Enc) : Bool :=
  match e with
  | .base _ _ _ | .ext _ _ _ => true
  | .step | .barge _ _ => false

theorem base_major_index {m x : Nat} {f : BaseForm} (h : f.check m x = none) : 0 < m ∧ m < 64 ∧ x < 4 := by
  obtain ⟨p, hp⟩ := base_check_eq_none.1 h
  exact ⟨(opSpec_major hp.row).1, (opSpec_major hp.row).2, hp.index⟩

theorem row_of_ext_check {m x : Nat} {f : ExtForm} (h : f.check m x = none) :
    ∃ p, opSpec m x f.ty.toNat f.mods.toNat (1600 ≤ f.a.toNat && f.a.toNat ≤ 1663) = some p := by
  refine Option.isSome_iff_exists.1 (Option.isSome_iff_ne_none.2 (fun hrow => ?_))
  simp [ExtForm.check, hrow] at h

theorem ext_major_index {m x : Nat} {f : ExtForm} (h : f.check m x = none) : 0 < m ∧ m < 64 ∧ x < 16 := by
  obtain ⟨p, hp⟩ := row_of_ext_check h
  have hx := (opSpec_fits _ _ _ _ _ p hp).1
  exact ⟨(opSpec_major hp).1, (opSpec_major hp).2, by omega⟩

/-- R84 bounds the names of a form with a literal in a base word alone. -/
theorem shortNames_of_long {m x : Nat} {f : ExtForm} (hs : f.short = false) (h : f.check m x = none) : f.shortNames m x = true := by
  obtain ⟨p, hp⟩ := row_of_ext_check h
  obtain ⟨q, hq⟩ := Option.isSome_iff_exists.1 ((opSpec_isSome ..).symm.trans (Option.isSome_iff_exists.2 ⟨p, hp⟩))
  simp [ExtForm.shortNames, hq, hs]

/-! ### What the decoder answers for each length of words (R81) -/

variable {w0 w1 w2 w3 w4 : BitVec 32} {e : Enc}

theorem accept_eq_ok {c : Option DecodeError} {e' : Enc} : accept c e = .ok e' ↔ c = none ∧ e = e' := by
  cases c <;> simp [accept]

theorem decodeWords_base {m x : Nat} {f : BaseForm} (h : legalEnc (.base m x f) = true) :
    decodeWords (f.word m x 0) w1 w2 w3 w4 = .ok (.base m x f) := by
  have hcheck : f.check m x = none := Option.isNone_iff_eq_none.1 h
  obtain ⟨hm0, hm, hx⟩ := base_major_index hcheck
  simp only [decodeWords, Laws.base_word_len, Laws.base_word_major, Laws.base_word_idx, Laws.base_word_fields, BitVec.toNat_ofNat,
    Nat.mod_eq_of_lt hm, Nat.mod_eq_of_lt hx, hcheck]
  simp [hm0.ne', accept]

theorem decodeWords_short {m x : Nat} {f : ExtForm} (hs : f.short = true) (h : legalEnc (.ext m x f) = true) :
    ∃ v, f.lit = some v ∧ decodeWords (f.shortWord m x) (v.extractLsb' 0 32) (v.extractLsb' 32 32) w3 w4 = .ok (.ext m x f) := by
  simp only [legalEnc, Bool.and_eq_true, Option.isNone_iff_eq_none] at h
  obtain ⟨hcheck, hnames⟩ := h
  obtain ⟨v, hv, hbase, hback⟩ := short_reads_back hs hcheck hnames
  obtain ⟨hm0, hm, hx⟩ := base_major_index hbase
  refine ⟨v, hv, ?_⟩
  rw [shortWord_eq] at hback ⊢
  simp only [decodeWords, Laws.base_word_len, Laws.base_word_major, Laws.base_word_idx, Laws.base_word_fields, BitVec.toNat_ofNat,
    Nat.mod_eq_of_lt hm, Nat.mod_eq_of_lt hx, Laws.literal_words, hback, hbase, hcheck]
  simp [hm0.ne', accept, shortFields]

theorem decodeWords_long {m x : Nat} {f : ExtForm} (hs : f.short = false) (h : legalEnc (.ext m x f) = true)
    (hlit : f.lit = none ∨ f.lit = some (w4 ++ w3)) :
    decodeWords (f.word0 m x) f.word1 f.word2 w3 w4 = .ok (.ext m x f) := by
  simp only [legalEnc, Bool.and_eq_true, Option.isNone_iff_eq_none] at h
  obtain ⟨hcheck, hnames⟩ := h
  obtain ⟨hm0, hm, hx⟩ := ext_major_index hcheck
  have hform : ({ f with short := false } : ExtForm) = f := by rw [← hs]
  have hback := Laws.ext_words_fields m x f
  rw [hform] at hback
  simp only [decodeWords, Laws.ext_word0_len, Laws.ext_word0_major, Laws.ext_word0_idx, Laws.ext_word0_top, BitVec.toNat_ofNat,
    Nat.mod_eq_of_lt hm, Nat.mod_eq_of_lt hx]
  rcases hlit with hlit | hlit
  · rw [hlit] at hback
    simp [hlit, hback, hcheck, hm0.ne', accept]
  · rw [hlit] at hback
    simp [hlit, hback, hcheck, hm0.ne', accept]

/-- A base word that passes is the word of its fields. -/
theorem legal_base (hlen : w0.extractLsb' 0 2 = 0#2) {m x : Nat} (hm : (w0.extractLsb' 2 6).toNat = m) (hx : (w0.extractLsb' 30 2).toNat = x)
    (hcheck : (BaseForm.ofWord w0).check m x = none) :
    legalEnc (.base m x (.ofWord w0)) = true ∧ encWords (.base m x (.ofWord w0)) = [w0, w1, w2, w3, w4].take (wordsOf w0) := by
  have hword := base_word_ofWord w0
  rw [hlen, hm, hx] at hword
  refine ⟨Option.isNone_iff_eq_none.2 hcheck, ?_⟩
  simp only [encWords, wordsOf, hlen]
  exact congrArg (fun w => [w]) hword

/-- A base word with a literal that passes is the word of its fields. -/
theorem legal_short (hlen : w0.extractLsb' 0 2 = 2#2) {m x : Nat} (hm : (w0.extractLsb' 2 6).toNat = m) (hx : (w0.extractLsb' 30 2).toNat = x)
    (hbase : (BaseForm.ofWord w0).check m x = none) (hb : (BaseForm.ofWord w0).b = 0#6)
    (hcheck : (ExtForm.ofShort m x w0 (w2 ++ w1)).check m x = none) :
    legalEnc (.ext m x (.ofShort m x w0 (w2 ++ w1))) = true ∧
      encWords (.ext m x (.ofShort m x w0 (w2 ++ w1))) = [w0, w1, w2, w3, w4].take (wordsOf w0) := by
  obtain ⟨hnames, hword⟩ := short_of_base (w2 ++ w1) hlen hm hx hbase hb
  refine ⟨by simp only [legalEnc, hcheck, hnames]; rfl, ?_⟩
  have hwords : encWords (.ext m x (.ofShort m x w0 (w2 ++ w1))) = w0 :: litWords (some (w2 ++ w1)) := congrArg (· :: _) hword
  rw [hwords, show wordsOf w0 = 3 by simp [wordsOf, hlen]]
  exact congrArg (w0 :: ·) (litWords_append w1 w2)

/-- The literal of an extended form of the length that the first word gives. -/
def extLit (w0 w3 w4 : BitVec 32) : Option (BitVec 64) := if (w0.extractLsb' 0 2).toNat = 3 then some (w4 ++ w3) else none

/-- Extended words that pass are the words of their fields. -/
theorem legal_long (hlen : w0.extractLsb' 0 2 = 1#2 ∨ w0.extractLsb' 0 2 = 3#2) (htop : w0.getLsbD 31 = false) {m x : Nat}
    (hm : (w0.extractLsb' 2 6).toNat = m) (hx : (w0.extractLsb' 8 4).toNat = x)
    (hcheck : (ExtForm.ofWords w0 w1 w2 (extLit w0 w3 w4)).check m x = none) :
    legalEnc (.ext m x (.ofWords w0 w1 w2 (extLit w0 w3 w4))) = true ∧
      encWords (.ext m x (.ofWords w0 w1 w2 (extLit w0 w3 w4))) = [w0, w1, w2, w3, w4].take (wordsOf w0) := by
  have hnames : (ExtForm.ofWords w0 w1 w2 (extLit w0 w3 w4)).shortNames m x = true := shortNames_of_long rfl hcheck
  refine ⟨by simp only [legalEnc, hcheck, hnames]; rfl, ?_⟩
  have hword : w0.extractLsb' 0 2 = (if (extLit w0 w3 w4).isSome then 3#2 else 1#2) →
      encWords (.ext m x (.ofWords w0 w1 w2 (extLit w0 w3 w4))) = w0 :: w1 :: w2 :: litWords (extLit w0 w3 w4) := by
    intro h
    have hword0 := ext_word0_ofWords w0 w1 w2 (extLit w0 w3 w4) htop h
    rw [hm, hx] at hword0
    simp only [encWords, hword0, ext_word1_ofWords, ext_word2_ofWords]
    rfl
  rcases hlen with hlen | hlen
  · have hlit : extLit w0 w3 w4 = none := by simp [extLit, hlen]
    rw [hword (by rw [hlit, hlen]; rfl), hlit, show wordsOf w0 = 3 by simp [wordsOf, hlen]]
    rfl
  · have hlit : extLit w0 w3 w4 = some (w4 ++ w3) := by simp [extLit, hlen]
    rw [hword (by rw [hlit, hlen]; rfl), hlit, show wordsOf w0 = 5 by simp [wordsOf, hlen]]
    exact congrArg (w0 :: w1 :: w2 :: ·) (litWords_append w3 w4)

/-- R81 to R89, R97: words that decode are those of a legal encoding. -/
theorem legal_of_decodeWords (h : decodeWords w0 w1 w2 w3 w4 = .ok e) :
    groupEnc e = true ∧ legalEnc e = true ∧ encWords e = [w0, w1, w2, w3, w4].take (wordsOf w0) := by
  unfold decodeWords at h
  dsimp only at h
  split at h
  · split at h <;> cases h
  split at h
  · next hm hlen =>
    obtain ⟨hcheck, rfl⟩ := accept_eq_ok.1 h
    exact ⟨rfl, legal_base (BitVec.eq_of_toNat_eq hlen) rfl rfl hcheck⟩
  split at h
  · next hm hlen0 hlen =>
    split at h
    · next hbad =>
      rw [(accept_eq_ok.1 h).1] at hbad
      cases hbad
    split at h
    · cases h
    · next hgood hb =>
      obtain ⟨hcheck, rfl⟩ := accept_eq_ok.1 h
      exact ⟨rfl, legal_short (BitVec.eq_of_toNat_eq hlen) rfl rfl (by simpa only [Option.not_isSome_iff_eq_none] using hgood)
        (Decidable.not_not.1 hb) hcheck⟩
  split at h
  · cases h
  · next hm hlen0 hlen2 htop =>
    obtain ⟨hcheck, rfl⟩ := accept_eq_ok.1 h
    have hlen : w0.extractLsb' 0 2 = 1#2 ∨ w0.extractLsb' 0 2 = 3#2 := by
      have := (w0.extractLsb' 0 2).isLt
      simp only [BitVec.toNat_eq, BitVec.toNat_ofNat]
      omega
    exact ⟨rfl, legal_long hlen (by simpa using htop) rfl rfl hcheck⟩

/-! ### The instruction of an encoding -/

/-- R280, R343: the five moves of one opcode, told apart by the queues that they name. -/
theorem mkMov_of_formOk (f : ExtForm) :
    ((Instr.movX f).formOk = true → mkMov f = .movX f) ∧ ((Instr.movQueueWrite f).formOk = true → mkMov f = .movQueueWrite f) ∧
      ((Instr.nmPush f).formOk = true → mkMov f = .nmPush f) ∧ ((Instr.movQueueRead f).formOk = true → mkMov f = .movQueueRead f) ∧
      ((Instr.nmTake f).formOk = true → mkMov f = .nmTake f) := by
  have hd := Laws.queue_halves f.d
  have ha := Laws.queue_halves f.a
  have hdlow := Laws.queue_apart f.d
  have halow := Laws.queue_apart f.a
  unfold mkMov
  refine ⟨fun h => if_pos h, fun h => ?_, fun h => ?_, fun h => ?_, fun h => ?_⟩
  all_goals
    simp only [Instr.formOk, Bool.and_eq_true, Bool.not_eq_true'] at h
    obtain ⟨hin, hout⟩ := h
    simp_all

/-- R111, R185, R303, R307: the writes of one opcode, told apart by the register that they name. -/
theorem mkSwr_of_formOk (f : ExtForm) :
    ((Instr.swr f).formOk = true → mkSwr f = .swr f) ∧ ((Instr.swrTok f).formOk = true → mkSwr f = .swrTok f) ∧
      ((Instr.swrTokx f).formOk = true → mkSwr f = .swrTokx f) ∧ ((Instr.swrMxQ f).formOk = true → mkSwr f = .swrMxQ f) ∧
      ((Instr.swrMxBudget f).formOk = true → mkSwr f = .swrMxBudget f) := by
  simp only [Instr.formOk, mkSwr]
  refine ⟨fun h => ?_, fun h => ?_, fun h => ?_, fun h => ?_, fun h => ?_⟩
  all_goals
    simp at h
    split_ifs
  all_goals first | rfl | omega

/-- R319: the kinds of `rtt`. -/
theorem mkRtt_of_formOk (f : ExtForm) :
    ((Instr.rttRes f).formOk = true → mkRtt f = .rttRes f) ∧ ((Instr.rttEnd f).formOk = true → mkRtt f = .rttEnd f) ∧
      ((Instr.rttSave f).formOk = true → mkRtt f = .rttSave f) := by
  simp only [Instr.formOk, mkRtt, beq_iff_eq]
  refine ⟨fun h => ?_, fun h => ?_, fun h => ?_⟩ <;> simp [h]

/-- R95, R270: the opcode map gives back every instruction that is of the form of its constructor. -/
theorem instr_of_enc (i : Instr) (hform : i.formOk = true) (hstep : i.enc ≠ .step) : i.enc.instr = some i := by
  cases i
  case movX f =>
    obtain ⟨h, -⟩ := mkMov_of_formOk f
    exact congrArg some (h hform)
  case movQueueWrite f =>
    obtain ⟨-, h, -⟩ := mkMov_of_formOk f
    exact congrArg some (h hform)
  case nmPush f =>
    obtain ⟨-, -, h, -⟩ := mkMov_of_formOk f
    exact congrArg some (h hform)
  case movQueueRead f =>
    obtain ⟨-, -, -, h, -⟩ := mkMov_of_formOk f
    exact congrArg some (h hform)
  case nmTake f =>
    obtain ⟨-, -, -, -, h⟩ := mkMov_of_formOk f
    exact congrArg some (h hform)
  case swr f =>
    obtain ⟨h, -⟩ := mkSwr_of_formOk f
    exact congrArg some (h hform)
  case swrTok f =>
    obtain ⟨-, h, -⟩ := mkSwr_of_formOk f
    exact congrArg some (h hform)
  case swrTokx f =>
    obtain ⟨-, -, h, -⟩ := mkSwr_of_formOk f
    exact congrArg some (h hform)
  case swrMxQ f =>
    obtain ⟨-, -, -, h, -⟩ := mkSwr_of_formOk f
    exact congrArg some (h hform)
  case swrMxBudget f =>
    obtain ⟨-, -, -, -, h⟩ := mkSwr_of_formOk f
    exact congrArg some (h hform)
  case rttRes f =>
    obtain ⟨h, -⟩ := mkRtt_of_formOk f
    exact congrArg some (h hform)
  case rttEnd f =>
    obtain ⟨-, h, -⟩ := mkRtt_of_formOk f
    exact congrArg some (h hform)
  case rttSave f =>
    obtain ⟨-, -, h⟩ := mkRtt_of_formOk f
    exact congrArg some (h hform)
  case mwait f => exact congrArg some (if_neg (by simpa [Instr.formOk] using hform))
  case mwaitBounded f => exact congrArg some (if_pos hform)
  case bres f => exact congrArg some (if_neg (by simpa [Instr.formOk] using hform))
  case bresLd f => exact congrArg some (if_pos hform)
  case barrNb f => exact congrArg some (if_neg (by simpa [Instr.formOk] using hform))
  case barrSc f => exact congrArg some (if_pos (beq_iff_eq.1 hform))
  case bwaitSc f => exact congrArg some (if_pos (beq_iff_eq.1 hform))
  case bwaitNb f =>
    have hkind : bits f.x.toNat 11 2 = 2 := beq_iff_eq.1 hform
    exact congrArg some ((if_neg (by omega)).trans (if_pos hkind))
  case bwait f =>
    obtain ⟨hsc, hnb⟩ : bits f.x.toNat 11 2 ≠ 1 ∧ bits f.x.toNat 11 2 ≠ 2 := by simpa [Instr.formOk] using hform
    exact congrArg some ((if_neg hsc).trans (if_neg hnb))
  all_goals first | exact absurd rfl hstep | rfl

/-- R319: `rtt` has three kinds. -/
theorem rtt_kind_of_check {f : ExtForm} (h : f.check 0x27 1 = none) : bits f.mods.toNat 0 2 ≠ 3 := by
  intro hkind
  revert h
  unfold ExtForm.check
  dsimp only
  rw [show opSpec 0x27 1 f.ty.toNat f.mods.toNat (1600 ≤ f.a.toNat && f.a.toNat ≤ 1663) =
    some (.reg none [] 0 3 (bits f.mods.toNat 0 2 ≤ 2)) from rfl]
  simp only [refuse_eq_none, OpSpec.reg, hkind]
  simp

/-- The instruction that a legal encoding stands for has this encoding. -/
theorem enc_of_instr {e : Enc} {i : Instr} (hlegal : legalEnc e = true) (h : e.instr = some i) : i.enc = e ∧ i.formOk = true := by
  cases e with
  | step => cases h
  | base m x f => exact Laws.enc_of_base m x f i h
  | barge op f => exact Laws.enc_of_barge op f i h
  | ext m x f =>
    refine Laws.enc_of_ext m x f i h ?_
    rintro rfl rfl
    simp only [legalEnc, Bool.and_eq_true, Option.isNone_iff_eq_none] at hlegal
    exact rtt_kind_of_check hlegal.1

/-! ### Round trips -/

theorem decode_eq_ok_iff {w0 w1 w2 w3 w4 : BitVec 32} {i : Instr} :
    decode w0 w1 w2 w3 w4 = .ok i ↔ ∃ e, decodeWords w0 w1 w2 w3 w4 = .ok e ∧ e.instr = some i := by
  unfold decode
  cases decodeWords w0 w1 w2 w3 w4 with
  | error c => simp
  | ok e => cases h : e.instr <;> simp [h]

theorem decodeBarge_word {op : Nat} {f : BargeForm} (h : f.check op = none) : decodeBarge (f.word op) = .ok (.barge op f) := by
  have hop : op < 64 := by
    refine Nat.lt_of_not_le (fun hle => ?_)
    have hnone : bargeUse op f.i f.x.toNat = none := by
      unfold bargeUse
      dsimp only
      split <;> first | omega | rfl
    simp [BargeForm.check, hnone] at h
  simp only [decodeBarge, Laws.barge_word_op, Laws.barge_word_fields, BitVec.toNat_ofNat, Nat.mod_eq_of_lt hop, h]
  rfl

/-- R81: the words of a legal encoding of a group decode to it. -/
theorem decodeWords_encWords {e : Enc} (hgroup : groupEnc e = true) (hlegal : legalEnc e = true) :
    decodeWords (nth 0 (encWords e) 0) (nth 0 (encWords e) 1) (nth 0 (encWords e) 2) (nth 0 (encWords e) 3) (nth 0 (encWords e) 4) = .ok e := by
  cases e with
  | step => cases hgroup
  | barge op f => cases hgroup
  | base m x f => exact decodeWords_base hlegal
  | ext m x f =>
    cases hs : f.short
    · cases hv : f.lit with
      | none =>
        simp only [encWords, hs, hv, litWords, nth, Bool.false_eq_true, if_false]
        exact decodeWords_long hs hlegal (.inl hv)
      | some v =>
        simp only [encWords, hs, hv, litWords, nth, Bool.false_eq_true, if_false]
        exact decodeWords_long hs hlegal (.inr (hv.trans (congrArg some (Laws.literal_words v).symm)))
    · obtain ⟨v, hv, hdecode⟩ := decodeWords_short (w3 := 0) (w4 := 0) hs hlegal
      simp only [encWords, hs, hv, litWords, nth, if_true]
      exact hdecode

end Encodings

/-- Settles O3: the decoder evaluates to each instruction. -/
theorem sampleWords : Obligations.SampleWords :=
  ⟨rfl, rfl, rfl, rfl, rfl⟩

/-- Settles O1: the encoder writes the words of the instruction's encoding, which decode to this encoding, and the opcode map gives the
instruction back. -/
theorem decodeEncode : Obligations.DecodeEncode := by
  intro i hwf hstep
  simp only [wf_eq, Bool.and_eq_true] at hwf
  obtain ⟨hform, hlegal⟩ := hwf
  have hinstr := instr_of_enc i hform hstep
  rw [encode_eq]
  cases he : i.enc with
  | step => exact absurd he hstep
  | barge op f =>
    rw [he] at hinstr hlegal
    have hword : nth 0 (encWords (.barge op f)) 1 ++ nth 0 (encWords (.barge op f)) 0 = f.word op := Laws.literal_words (f.word op)
    simp only [decodeInstr, if_true, decodeBargeWord, hword, decodeBarge_word (Option.isNone_iff_eq_none.1 hlegal), hinstr]
  | base m x f =>
    rw [he] at hinstr hlegal
    exact decode_eq_ok_iff.2 ⟨_, decodeWords_encWords rfl hlegal, hinstr⟩
  | ext m x f =>
    rw [he] at hinstr hlegal
    exact decode_eq_ok_iff.2 ⟨_, decodeWords_encWords rfl hlegal, hinstr⟩

/-- Settles O2: words that decode are those of a legal encoding, which is the instruction's own. -/
theorem encodeDecode : Obligations.EncodeDecode := by
  intro w0 w1 w2 w3 w4 i h
  obtain ⟨e, hdecode, hinstr⟩ := decode_eq_ok_iff.1 h
  obtain ⟨-, hlegal, hwords⟩ := legal_of_decodeWords hdecode
  obtain ⟨rfl, hform⟩ := enc_of_instr hlegal hinstr
  exact ⟨by rw [wf_eq, hform, hlegal]; rfl, (encode_eq i).trans hwords⟩

end Sys2Proof.Proofs

/-! Instructions that compute (`Plain`): each one's meaning is `State.compute` of its form, operands and result registers. -/

namespace Sys2Proof.Proofs
open Sys2Proof Sys2Proof.Machine Sys2Proof.Rules

/-- The answer is that of an instruction that computes: its form, its operands, the registers of its result. -/
def RunsCompute (o : Out) (s : State) (f : ExtForm) (u : Use) (n : Nat) : Prop := ∃ x, o = s.compute f u n x

section Shapes

variable (s : State) (f : ExtForm) (ty : Nat)

theorem runs_compute (u : Use) (n : Nat) (x : State → Lanes → Nat → Nat) : RunsCompute (s.compute f u n x) s f u n := ⟨x, rfl⟩

theorem runs_test (u : Use) (x : State → Lanes → Nat → Bool) : RunsCompute (s.test f u x) s f u 1 :=
  ⟨fun s act i => if x s act i then 0xFFFFFFFF else 0, rfl⟩

theorem runs_unary (x : Nat → Nat) : RunsCompute (s.unary f ty x) s f (uses1 (wordsOfTy ty) (wordsOfTy ty)) (wordsOfTy ty) :=
  runs_compute ..

theorem runs_binary (x : Nat → Nat → Nat) :
    RunsCompute (s.binary f ty x) s f (uses2 (wordsOfTy ty) (wordsOfTy ty) (wordsOfTy ty)) (wordsOfTy ty) :=
  runs_compute ..

theorem runs_ternary (x : Nat → Nat → Nat → Nat) :
    RunsCompute (s.ternary f ty x) s f (uses3 (wordsOfTy ty) (wordsOfTy ty) (wordsOfTy ty) (wordsOfTy ty)) (wordsOfTy ty) :=
  runs_compute ..

theorem runs_shift (x : Nat → Nat → Nat) : RunsCompute (s.shift f ty x) s f (uses2 (wordsOfTy ty) (wordsOfTy ty) 1) (wordsOfTy ty) :=
  runs_compute ..

theorem runs_intUnary (x : Int → Int) : RunsCompute (s.intUnary f x) s f (uses1 (words f 1) (words f 1)) (words f 1) :=
  by rw [State.intUnary]; exact runs_unary ..

theorem runs_intBinary (x : Int → Int → Int) : RunsCompute (s.intBinary f x) s f (uses2 (words f 1) (words f 1) (words f 1)) (words f 1) :=
  by rw [State.intBinary]; exact runs_binary ..

theorem runs_voteTruth (y : State → Lanes → Bool) : RunsCompute (voteTruth f s y) s f { d := anyDst 1, a := anySrc 1 } 1 := by
  rw [voteTruth]; exact runs_test ..

theorem cvtSource_eq : cvtSource f = if f.mods.toNat / 16 % 16 = 0 then 1 else f.mods.toNat / 16 % 16 := by
  simp only [cvtSource, bits_eq_div_mod]
  rfl

theorem runs_convert : RunsCompute (convert f s) s (cvtRule f).f (cvtRule f).u (cvtRule f).regs := by
  rw [convert, cvtSource_eq]
  exact ⟨_, rfl⟩

end Shapes

theorem isInt_runs {i : Instr} {r : IntRule} (h : IsInt i r) (s : State) : RunsCompute (exec i s) s r.f r.use (words r.f 1) := by
  cases h with
  | iadd g => rw [Laws.exec_iadd, execIadd, intAdd]; exact runs_intBinary ..
  | iaddX f => rw [Laws.exec_iaddX, execIaddX, intAdd]; exact runs_intBinary ..
  | isub g => rw [Laws.exec_isub, execIsub, intSub]; exact runs_intBinary ..
  | isubX f => rw [Laws.exec_isubX, execIsubX, intSub]; exact runs_intBinary ..
  | imul g => rw [Laws.exec_imul, execImul, intMul]; exact runs_intBinary ..
  | imulX f => rw [Laws.exec_imulX, execImulX, intMul]; exact runs_intBinary ..
  | imad f => rw [Laws.exec_imad, execImad]; exact runs_ternary ..
  | imulh f => rw [Laws.exec_imulh, execImulh]; exact runs_binary ..
  | imin f => rw [Laws.exec_imin, execImin]; exact runs_binary ..
  | imax f => rw [Laws.exec_imax, execImax]; exact runs_binary ..
  | iabs f => rw [Laws.exec_iabs, execIabs]; exact runs_intUnary ..
  | ineg f => rw [Laws.exec_ineg, execIneg]; exact runs_intUnary ..

theorem isBit_runs {i : Instr} {r : BitRule} (h : IsBit i r) (s : State) : RunsCompute (exec i s) s r.f r.u r.regs := by
  cases h with
  | and g => rw [Laws.exec_and, execAnd, bitsAnd]; exact runs_binary ..
  | andX f => rw [Laws.exec_andX, execAndX, bitsAnd]; exact runs_binary ..
  | or g => rw [Laws.exec_or, execOr, bitsOr]; exact runs_binary ..
  | orX f => rw [Laws.exec_orX, execOrX, bitsOr]; exact runs_binary ..
  | xor g => rw [Laws.exec_xor, execXor, bitsXor]; exact runs_binary ..
  | xorX f => rw [Laws.exec_xorX, execXorX, bitsXor]; exact runs_binary ..
  | not g => rw [Laws.exec_not, execNot, bitsNot]; exact runs_unary ..
  | notX f => rw [Laws.exec_notX, execNotX, bitsNot]; exact runs_unary ..
  | bfn3 f => rw [Laws.exec_bfn3, execBfn3]; exact runs_ternary ..
  | shl g => rw [Laws.exec_shl, execShl, bitsShl]; exact runs_shift ..
  | shlX f => rw [Laws.exec_shlX, execShlX, bitsShl]; exact runs_shift ..
  | shr g => rw [Laws.exec_shr, execShr, bitsShr]; exact runs_shift ..
  | shrX f => rw [Laws.exec_shrX, execShrX, bitsShr]; exact runs_shift ..
  | sar g => rw [Laws.exec_sar, execSar, bitsSar]; exact runs_shift ..
  | sarX f => rw [Laws.exec_sarX, execSarX, bitsSar]; exact runs_shift ..
  | rot g => rw [Laws.exec_rot, execRot, bitsRot]; exact runs_shift ..
  | rotX f => rw [Laws.exec_rotX, execRotX, bitsRot]; exact runs_shift ..
  | popc f => rw [Laws.exec_popc, execPopc]; exact runs_compute ..
  | clz f => rw [Laws.exec_clz, execClz]; exact runs_compute ..
  | brev f => rw [Laws.exec_brev, execBrev]; exact runs_unary ..
  | bfe f => rw [Laws.exec_bfe, execBfe]; exact runs_shift ..
  | bfi f => rw [Laws.exec_bfi, execBfi]; exact runs_compute ..

theorem isPermute_runs {i : Instr} {r : MoveRule} (h : IsPermute i r) (s : State) : RunsCompute (exec i s) s r.f r.u r.regs := by
  cases h with
  | perm f => rw [Laws.exec_perm, execPerm]; exact runs_ternary ..
  | lea g => rw [Laws.exec_lea, execLea, loadAddress]; exact runs_shift ..
  | leaX f => rw [Laws.exec_leaX, execLeaX, loadAddress]; exact runs_shift ..

theorem isVote_runs {i : Instr} {r : TestRule} (h : IsVote i r) (s : State) : RunsCompute (exec i s) s r.f r.u 1 := by
  cases h with
  | vall g => rw [Laws.exec_vall, execVall, voteAll]; exact runs_voteTruth ..
  | vallX f => rw [Laws.exec_vallX, execVallX, voteAll]; exact runs_voteTruth ..
  | vany g => rw [Laws.exec_vany, execVany, voteAny]; exact runs_voteTruth ..
  | vanyX f => rw [Laws.exec_vanyX, execVanyX, voteAny]; exact runs_voteTruth ..
  | vuni f => rw [Laws.exec_vuni, execVuni]; exact runs_test ..

theorem isBallot_runs {i : Instr} {r : ValueRule} (h : IsBallot i r) (s : State) : RunsCompute (exec i s) s r.f r.u r.regs := by
  cases h with
  | vbal g => rw [Laws.exec_vbal, execVbal, ballot]; exact runs_compute ..
  | vbalX f => rw [Laws.exec_vbalX, execVbalX, ballot]; exact runs_compute ..
  | vmatch g => rw [Laws.exec_vmatch, execVmatch, matchLanes]; exact runs_compute ..
  | vmatchX f => rw [Laws.exec_vmatchX, execVmatchX, matchLanes]; exact runs_compute ..

theorem isValue_runs {i : Instr} {r : ValueRule} (h : IsValue i r) (s : State) : RunsCompute (exec i s) s r.f r.u r.regs := by
  cases h with
  | cvt g => rw [Laws.exec_cvt, execCvt]; exact runs_convert ..
  | cvtX f => rw [Laws.exec_cvtX, execCvtX]; exact runs_convert ..
  | cpack g => rw [Laws.exec_cpack, execCpack, pack]; exact runs_compute ..
  | cpackX f => rw [Laws.exec_cpackX, execCpackX, pack]; exact runs_compute ..
  | cunpk g => rw [Laws.exec_cunpk, execCunpk, unpack]; exact runs_compute ..
  | cunpkX f => rw [Laws.exec_cunpkX, execCunpkX, unpack]; exact runs_compute ..
  | gred g => rw [Laws.exec_gred, execGred, groupReduce]; exact runs_compute ..
  | gredX f => rw [Laws.exec_gredX, execGredX, groupReduce]; exact runs_compute ..
  | gscan g => rw [Laws.exec_gscan, execGscan, groupScan]; exact runs_compute ..
  | gscanX f => rw [Laws.exec_gscanX, execGscanX, groupScan]; exact runs_compute ..
  | srd f => rw [Laws.exec_srd, execSrd]; exact runs_compute ..
  | pmrd f => rw [Laws.exec_pmrd, execPmrd]; exact runs_compute ..
  | ttest f => rw [Laws.exec_ttest, execTtest]; exact runs_compute ..

/-- Every instruction that computes answers as its operands and the registers of its result say. -/
theorem plain_runs {i : Instr} {f : ExtForm} {u : Use} {n : Nat} (h : Plain i f u n) (s : State) : RunsCompute (exec i s) s f u n := by
  cases h with
  | int r h => exact isInt_runs h s
  | bit r h => exact isBit_runs h s
  | move r h => rw [exec_isMove h s]; exact runs_compute ..
  | permute r h => exact isPermute_runs h s
  | float r h => rw [exec_isFloat h s, floatRun]; exact runs_compute ..
  | test r h => rw [exec_isTest h s]; exact runs_test ..
  | vote r h => exact isVote_runs h s
  | ballot r h => exact isBallot_runs h s
  | value r h => exact isValue_runs h s

end Sys2Proof.Proofs

/-! What an instruction that computes does: its gate, its write of the result (R91, R93) and the passing on of its lanes (R98, R142). -/

namespace Sys2Proof.Proofs
open Sys2Proof Sys2Proof.Machine Sys2Proof.Rules

section Writes

variable {s : State} {f : ExtForm} {u : Use} {n : Nat} {x : State → Lanes → Nat → Nat}

theorem compute_illegal (h : u.bad = true ∨ operandsOk s f u = false) : s.compute f u n x = .next (s.trapAll Cause.illegalOperand) := by
  simp only [State.compute, State.instr, State.instrAny, State.checked, Laws.gate_illegal h]

theorem compute_waits (hbad : u.bad = false) (hok : operandsOk s f u = true) {m : Nat} (hm : m ∈ allNames f u) (hwait : m ∈ awaited s (grp s)) :
    s.compute f u n x = .next s := by
  simp only [State.compute, State.instr, State.instrAny, State.checked, Laws.gate_wait hbad hok m hm hwait]

/-- The group after a write of a result. -/
theorem writeDest_group (s : State) (act : Lanes) (names : List Nat) (x : Nat → Nat) :
    (s.writeDest act names x).group (grp s) = s.me.writeRegs (some (s.me.issuedNow, s.sched.cur.lanes)) act x names 0 := by
  simp [State.writeDest, State.me]

/-- A write of a result changes its own group alone. -/
theorem writeDest_onlyGroup (s : State) (act : Lanes) (names : List Nat) (x : Nat → Nat) : OnlyGroup (grp s) s (s.writeDest act names x) :=
  ⟨fun _ hk => Laws.group_modGroup_other _ _ _ _ hk, rfl⟩

/-- R98, R142: the group after its lanes have passed on. -/
theorem advance_group (s : State) :
    s.advance.group (grp s) = (s.me.place s.sched.cur.lanes s.sched.cur.npc s.sched.cur.hdr).counted := by
  simp [State.advance, State.me]

theorem advance_onlyGroup (s : State) : OnlyGroup (grp s) s s.advance :=
  ⟨fun _ hk => Laws.group_modGroup_other _ _ _ _ hk, rfl⟩

/-- R93: the bits that a path's write of a predicate starts from: what the other path of the cycle has left for it, or the predicate. -/
def predBase (g : Group) (pc n : Nat) : Lanes :=
  ((g.prot.find? (fun e => e.1 != pc && e.2.1 = n)).map (fun o => o.2.2)).getD (g.pred (n - 1664))

/-- R91, R93: a predicate that a path writes, and the note that the write leaves. -/
theorem writeP (g : Group) (pc : Nat) (ls : Lanes) {n : Nat} {a : Lanes} (x : Nat → Nat) (hn : 1664 ≤ n) (hn' : n < 1671) (ha : a ≠ 0#32) :
    let new := mergeLanes (predBase g pc n) (Lanes.ofFn (fun i => x i != 0)) a
    g.writeReg (some (pc, ls)) n a x =
      { g.putP (n - 1664) new with prot := (pc, n, mergeLanes (g.pred (n - 1664)) new ls) :: g.prot } := by
  have hv : ¬ n < 1536 := by omega
  have hs : ¬ n < 1600 := by omega
  have h7 : n - 1664 ≠ 7 := by omega
  unfold Group.writeReg predBase
  simp only [ha, hv, hs, hn, hn', if_false, decide_true, Bool.and_self, if_true]
  cases g.prot.find? (fun e => e.1 != pc && e.2.1 = n) <;> simp [Group.putP, h7]

/-- Notes of writes are no predicate. -/
theorem pred_of_prot (g : Group) (q : List (Nat × Nat × Lanes)) (r : Nat) : ({ g with prot := q } : Group).pred r = g.pred r := rfl

/-- A predicate after a path's write of it, bit by bit. -/
theorem writeP_bit (g : Group) (pc : Nat) (ls : Lanes) {n : Nat} {a : Lanes} (x : Nat → Nat) (hn : 1664 ≤ n) (hn' : n < 1671) (ha : a ≠ 0#32)
    {k : Nat} (hk : k < 32) :
    ((g.writeReg (some (pc, ls)) n a x).pred (n - 1664)).getLsbD k =
      if a.getLsbD k then decide (x k ≠ 0) else (predBase g pc n).getLsbD k := by
  have hword : (x k != 0) = decide (x k ≠ 0) := by rw [Bool.eq_iff_iff]; simp
  rw [writeP g pc ls x hn hn' ha, pred_of_prot, Laws.putP_pred _ _ _ _ (by omega), if_pos rfl, Laws.merge_bit _ _ _ _ hk, Laws.ofFn_bit _ _ hk, hword]

/-- Where no other path has written the predicate, its write starts from what it holds. -/
theorem predBase_of_unwritten {g : Group} {pc n : Nat} (h : ∀ e ∈ g.prot, e.1 = pc ∨ e.2.1 ≠ n) : predBase g pc n = g.pred (n - 1664) := by
  simp only [predBase, Laws.unwritten_find g pc n h, Option.map_none, Option.getD_none]

/-- `pt` and the names after it take nothing. -/
theorem writeReg_of_ge {n : Nat} (g : Group) (path : Option (Nat × Lanes)) (a : Lanes) (x : Nat → Nat) (hn : 1671 ≤ n) :
    g.writeReg path n a x = g := by
  have hv : ¬ n < 1536 := by omega
  have hs : ¬ n < 1600 := by omega
  have hp : ¬ n < 1671 := by omega
  simp [Group.writeReg, hv, hs, hp]

/-- R93: a scalar that another path of the cycle has written stays. -/
theorem writeS_kept (g : Group) (pc : Nat) (ls : Lanes) {n : Nat} {a : Lanes} (x : Nat → Nat) (hn : 1536 ≤ n) (hn' : n < 1600)
    (h : (g.prot.find? (fun e => e.1 != pc && e.2.1 = n)).isSome = true) : g.writeReg (some (pc, ls)) n a x = g := by
  have hv : ¬ n < 1536 := by omega
  simp only [Group.writeReg, hv, hn', h, if_true, if_false]
  split
  · rfl
  · cases a.lowest <;> rfl

/-- A scalar that a path writes leaves a note. -/
theorem writeS_prot (g : Group) (pc : Nat) (ls : Lanes) {n : Nat} {a : Lanes} (x : Nat → Nat) (hn : 1536 ≤ n) (hn' : n < 1600) (ha : a ≠ 0#32)
    (h : ∀ e ∈ g.prot, e.1 = pc ∨ e.2.1 ≠ n) : (g.writeReg (some (pc, ls)) n a x).prot = (pc, n, 0#32) :: g.prot := by
  obtain ⟨e, he, -⟩ := Laws.low_mem a ha
  have hv : ¬ n < 1536 := by omega
  simp only [Group.writeReg, ha, hv, hn', he, Laws.unwritten_find g pc n h, if_true, if_false, Option.isSome_none, Bool.false_eq_true]
  rfl

/-- A lane of a subset is a lane of the set. -/
theorem sub_bit {a b : Lanes} (h : Lanes.sub a b = true) (k : Nat) : a.getLsbD k = true → b.getLsbD k = true := by
  intro ha
  by_contra hb
  have hmeet := congrArg (fun z => z.getLsbD k) (of_decide_eq_true h)
  have hk := BitVec.lt_of_getLsbD ha
  simp_all

end Writes

/-- Settles O14: the gate of an instruction that computes answers that it waits, or lets it pass on. -/
theorem waitsAndIdles : Obligations.WaitsAndIdles := by
  intro i f u n s hplain
  obtain ⟨x, hexec⟩ := plain_runs hplain s
  refine ⟨fun hbad hok ⟨m, hm, hwait⟩ => hexec.trans (compute_waits hbad hok hm hwait), fun hclear hidle => ?_⟩
  exact hexec.trans (Laws.instr_idle hclear hidle _)

/-- Settles O15: each register that a result names is written once, by the rule of its class. -/
theorem resultWritten : Obligations.ResultWritten := by
  intro s act d n j x hact hj hunwritten
  have hgroup := writeDest_group s act (rangeFrom d n) x
  dsimp only
  rw [hgroup]
  obtain ⟨hv, hs, hmark⟩ := Laws.writeRegs_hit s.me.issuedNow s.sched.cur.lanes act x hact n d 0 s.me j hj hunwritten
  simp only [bits_eq_div_mod, Nat.zero_add] at hv hs
  refine ⟨hv, hs, ?_, ?_, hmark, writeDest_onlyGroup s act _ x⟩
  · rintro hd hd' rfl k hk hactive
    have hbit := writeP_bit s.me s.me.issuedNow s.sched.cur.lanes (fun i => bits (x i) (32 * 0) 32) hd hd' hact hk
    rw [if_pos hactive, bits_eq_div_mod] at hbit
    simpa [rangeFrom, Group.writeRegs] using hbit
  · rintro rfl rfl
    exact writeReg_of_ge _ (some (s.me.issuedNow, s.sched.cur.lanes)) _ _ (Nat.le_refl _)

/-- Settles O16: the first path's write leaves a note, by which the second path keeps the scalar and starts from the predicate that stood
before the first one in its own lanes. -/
theorem twoPathsWrite : Obligations.TwoPathsWrite := by
  intro g pa pb la lb aa ab x y n hpaths hdisjoint haa hab haa0 hab0 hfresh
  have hfree : ∀ e ∈ g.prot, e.1 = pa ∨ e.2.1 ≠ n := fun e he => .inr (hfresh e he)
  refine ⟨fun hn hn' => ?_, fun hn hn' k hk => ?_⟩
  · have hnoted := writeS_prot g pa la x hn hn' haa0 hfree
    rw [writeS_kept _ pb lb y hn hn' (by simp [hnoted, hpaths])]
    exact (Laws.writeS_same g pa la n aa x hn hn' haa0 hfree).1
  · rw [writeP_bit _ pb lb y hn hn' hab0 hk]
    have hbase : predBase (g.writeReg (some (pa, la)) n aa x) pb n =
        mergeLanes (g.pred (n - 1664)) (mergeLanes (g.pred (n - 1664)) (Lanes.ofFn (fun i => x i != 0)) aa) la := by
      rw [writeP g pa la x hn hn' haa0, predBase_of_unwritten hfree]
      simp [predBase, hpaths]
    have hword : (x k != 0) = decide (x k ≠ 0) := by rw [Bool.eq_iff_iff]; simp
    rw [hbase, Laws.merge_bit _ _ _ _ hk, Laws.merge_bit _ _ _ _ hk, Laws.ofFn_bit _ _ hk, hword]
    have hla := sub_bit haa k
    have hlb := sub_bit hab k
    have hmeet : ¬ (la.getLsbD k = true ∧ lb.getLsbD k = true) := by
      rintro ⟨h1, h2⟩
      have := congrArg (fun z => z.getLsbD k) hdisjoint
      simp [h1, h2] at this
    cases ha : aa.getLsbD k <;> cases hb : ab.getLsbD k <;> simp_all

/-- Settles O17: the lanes are placed at the next word, and the issue is counted. -/
theorem lanesPassOn : Obligations.LanesPassOn := by
  intro s k hk
  dsimp only
  obtain ⟨pcs, hdrs, need, hplace⟩ := Laws.place_rest s.me s.sched.cur.lanes s.sched.cur.npc s.sched.cur.hdr
  rw [advance_group]
  refine ⟨Laws.place_pc _ _ _ _ _ hk, Laws.place_hdr _ _ _ _ _ hk, ?_, ?_, advance_onlyGroup s⟩
  · rw [hplace]; rfl
  · rw [hplace]; rfl

/-- Settles O18: past its gate an instruction that computes writes its result and passes on. -/
theorem computingFrame : Obligations.ComputingFrame := by
  intro i f u n s t hplain hclear hsome hunwritten hexec
  obtain ⟨x, hruns⟩ := plain_runs hplain s
  rw [hruns, Laws.compute_clear hclear hsome] at hexec
  cases hexec
  exact Laws.wrote s _ _ _ hunwritten

end Sys2Proof.Proofs

/-! Words that no instruction stands for (R97): the turn of a ready path comes to them, and stops every present lane. -/

namespace Sys2Proof.Proofs
open Sys2Proof Sys2Proof.Machine Sys2Proof.Rules

section Undecoded

/-! A word that no instruction stands for -/

theorem mkBase_isSome (m x : Nat) (f g : BaseForm) : (mkBase m x f).isSome = (mkBase m x g).isSome := by
  unfold mkBase
  split
  all_goals first | rfl | (split <;> rfl)

theorem mkExt_isSome (m x : Nat) (f g : ExtForm) : (mkExt m x f).isSome = (mkExt m x g).isSome := by
  unfold mkExt
  split
  all_goals first | rfl | (split <;> rfl)

/-- A base word of zeros. -/
def blankBase : BaseForm := ⟨false, 0, 0, 0, 0⟩

/-- An extended form of zeros. -/
def blankExt : ExtForm := ⟨false, false, 0, 0, 0, 0, 0, 0, 0, 0, false, 0, none⟩

/-- R95: every row of the table with a base form has a base instruction. -/
theorem mkBase_of_row : ∀ m < 64, ∀ x < 4, ∀ p ∈ opSpec m x 0 0 false, p.base.isSome = true → (mkBase m x blankBase).isSome = true := by
  decide +kernel

/-- R95: every row of the table has an extended instruction. -/
theorem mkExt_of_row : ∀ m < 64, ∀ x < 10, (opSpec m x 0 0 false).isSome = true → (mkExt m x blankExt).isSome = true := by
  decide +kernel

/-- Every legal encoding of a group's words stands for an instruction. -/
theorem instr_isSome {e : Enc} (hgroup : groupEnc e = true) (hlegal : legalEnc e = true) : e.instr.isSome = true := by
  cases e with
  | step => cases hgroup
  | barge op f => cases hgroup
  | base m x f =>
    obtain ⟨p, hp⟩ := base_check_eq_none.1 (Option.isNone_iff_eq_none.1 hlegal)
    exact (mkBase_isSome m x f blankBase).trans
      (mkBase_of_row m (opSpec_major hp.row).2 x hp.index p hp.row (Option.isSome_iff_ne_none.2 hp.based))
  | ext m x f =>
    simp only [legalEnc, Bool.and_eq_true, Option.isNone_iff_eq_none] at hlegal
    obtain ⟨p, hp⟩ := row_of_ext_check hlegal.1
    exact (mkExt_isSome m x f blankExt).trans
      (mkExt_of_row m (opSpec_major hp).2 x (Nat.lt_succ_of_le (opSpec_fits _ _ _ _ _ p hp).1)
        ((opSpec_isSome m x _ _ _).symm.trans (Option.isSome_iff_exists.2 ⟨p, hp⟩)))

/-- Words stand for no instruction where a check refuses them, and nowhere else. -/
theorem decodeWords_of_decode_error {w0 w1 w2 w3 w4 : BitVec 32} {c : DecodeError} (h : decode w0 w1 w2 w3 w4 = .error c) :
    decodeWords w0 w1 w2 w3 w4 = .error c := by
  cases hwords : decodeWords w0 w1 w2 w3 w4 with
  | error d => simpa [decode, hwords] using h
  | ok e =>
    obtain ⟨hgroup, hlegal, -⟩ := legal_of_decodeWords hwords
    obtain ⟨i, hi⟩ := Option.isSome_iff_exists.1 (instr_isSome hgroup hlegal)
    simp [decode, hwords, hi] at h

/-! A path that is ready -/

variable {s s1 s2 : State} {g pc va hdr w : Nat} {lanes : Lanes} {ts : List Turn} {ps : List (Nat × Lanes)} {ws : List Nat}

/-- R141, R142: the turn of a ready path comes to its instruction's first word. -/
theorem step_of_ready (h : Ready s s1 s2 g pc va hdr w lanes ts ps ws) : step s = .next (issueWord s1 g pc lanes va hdr w) := by
  have hgroup : (taken s g ts ps).group g = { s.group g with picks := ps } := by simp [taken]
  have hstep : step s = .next (pathTurn (s.modSched (fun c => { c with agenda := ts })) g pc lanes) := by
    simp only [step, agendaOf, h.turn, h.powered, Bool.true_or, if_true, turn]
  have hmay : ((taken s g ts ps).group g).mayIssue = true := by rw [hgroup]; exact h.may
  have hentry : Lanes.sub lanes (((taken s g ts ps).group g).entryLanes pc) = true := by rw [hgroup]; exact h.entry
  have hheaders : runHeaders g headerFuel (taken s g ts ps) pc (((taken s g ts ps).group g).hdr (low lanes)) 0 = .ready va hdr w s1 := by
    rw [hgroup]; exact h.found
  have hpicks : ((s.modSched (fun c => { c with agenda := ts })).group g).picks = (pc, lanes) :: ps := h.picked
  rw [hstep, pathTurn_head hpicks]
  exact congrArg Host.Outcome.next (runEntry_ready hmay h.some hentry hheaders)

/-- R97: a ready path whose words stand for no instruction stops at them, in every lane. -/
theorem issueWord_undecoded (h : Ready s s1 s2 g pc va hdr w lanes ts ps ws) {c : DecodeError}
    (hdecode : decodeWords (BitVec.ofNat 32 w) (BitVec.ofNat 32 (nth 0 ws 0)) (BitVec.ofNat 32 (nth 0 ws 1)) (BitVec.ofNat 32 (nth 0 ws 2))
      (BitVec.ofNat 32 (nth 0 ws 3)) = .error c) :
    issueWord s1 g pc lanes va hdr w = settleHalts (afterIssue s2
      (raiseAt s2 g lanes va hdr (causeAll lanes Cause.illegalInstruction) none) g va (va + 4 * wordsOf (BitVec.ofNat 32 w)) false) (teamOf g) := by
  have hlost : (if va = pc then (s1.group g).need &&& lanes else 0#32) = 0#32 := ite_eq_right_iff.mpr h.clause
  have hinstr : instrAt s1 g va w = .ok (none, s2) := by simp only [instrAt, h.words, hdecode]
  simp only [issueWord, hlost, hinstr]
  simp

end Undecoded

/-- Settles O5: the turn of a ready path comes to its words, which the decoder refuses. -/
theorem undecodedTraps : Obligations.UndecodedTraps := by
  intro s s1 s2 g pc va hdr w lanes ts ps ws c hready hdecode
  rw [step_of_ready hready, issueWord_undecoded hready (decodeWords_of_decode_error hdecode)]
  rfl

end Sys2Proof.Proofs

/-! A double fault (R318) ends a launch and everything its teams have begun: nothing on the way to the end changes what the command processor
keeps (`State.work`), so the outcome it leaves is its own. -/

namespace Sys2Proof.Proofs
open Sys2Proof Sys2Proof.Machine Sys2Proof.Rules

section WorkKept

variable {s t : State}

theorem foldl_work {α : Type} {f : State → α → State} (h : ∀ s x, (f s x).work = s.work) (l : List α) (s : State) :
    (l.foldl f s).work = s.work := by
  induction l generalizing s with
  | nil => rfl
  | cons x xs ih => exact (ih (f s x)).trans (h s x)

/-! Lines and bytes -/

theorem takeLine_work {d l : Nat} (h : s.takeLine d l = some t) : t.work = s.work := by
  unfold State.takeLine at h
  split at h
  · cases h; rfl
  · split at h <;> cases h
    rfl

@[simp] theorem install_work (d k l : Nat) : (s.install d k l).work = s.work := by
  unfold State.install
  split
  · rfl
  · split
    · next s1 h => exact (takeLine_work h :)
    · rfl

@[simp] theorem dropClash_work (l d k : Nat) : (dropClash s l d k).work = s.work := by
  unfold dropClash
  split <;> rfl

theorem readByte_work {d : Option Nat} {k a : Nat} {b : Byte} (h : s.readByte d k a = .ok (b, t)) : t.work = s.work := by
  unfold State.readByte at h
  split at h
  · cases h; rfl
  · split at h <;> cases h
    rfl

theorem readBytes_work {d : Option Nat} {k a n : Nat} {bs : List Byte} (h : s.readBytes d k a n = .ok (bs, t)) : t.work = s.work := by
  induction n generalizing s a bs with
  | zero => cases h; rfl
  | succ n ih =>
    unfold State.readBytes at h
    split at h
    · cases h
    · next b s1 h1 =>
      split at h
      · cases h
      · next bs1 s2 h2 => cases h; exact (ih h2).trans (readByte_work h1)

/-! What an access asks of the host -/

@[simp] theorem logFailure_work (s : State) : (logFailure s).work = s.work := rfl

@[simp] theorem hostPut_work (a x m : Nat) : (hostPut s a x m).work = s.work := by
  unfold hostPut
  split
  · rfl
  · split <;> rfl

@[simp] theorem snoopLoad_work (a n : Nat) : (snoopLoad s a n).work = s.work :=
  foldl_work (fun s l => Laws.send_work s (.biSnpCur (s.hostName l))) _ _

@[simp] theorem snoopStore_work (a n : Nat) : (snoopStore s a n).work = s.work :=
  foldl_work (fun s l => by dsimp only [dropHostCopy]; rw [Laws.modHost_work]; split <;> simp) _ _

@[simp] theorem backInvalidate_work (a n q : Nat) : (backInvalidate s a n q).work = s.work :=
  foldl_work (fun s l => by split; · rfl
                            · split <;> rfl) _ _

theorem obtainLine_work (w : Bool) (s : State) (l : Nat) : (obtainLine w s l).work = s.work := by
  unfold obtainLine
  dsimp only
  split_ifs <;> rfl

@[simp] theorem beforeRead_work (a n : Nat) : (beforeRead s a n).work = s.work := by
  unfold beforeRead
  split_ifs
  · exact foldl_work (obtainLine_work false) _ _
  all_goals simp

@[simp] theorem beforeWrite_work (a q : Nat) (bs : List Byte) : (beforeWrite s a q bs).work = s.work := by
  unfold beforeWrite
  split_ifs
  · exact foldl_work (obtainLine_work true) _ _
  all_goals simp

theorem homeRead_work {k a n : Nat} {bs : List Byte} (h : homeRead s k a n = .ok (bs, t)) : t.work = s.work := by
  simp only [homeRead] at h
  split at h
  · split at h <;> cases h
    simp
  · simpa using readBytes_work h

/-! Translation -/

theorem markEntry_work {e e' : TlbEntry} {flags : Nat} (h : markEntry s e flags = .ok (e', t)) : t.work = s.work := by
  simp only [markEntry] at h
  split_ifs at h
  · cases h; rfl
  · split at h
    · cases h
    · next bs s0 hread =>
      split at h <;> cases h
      simpa using homeRead_work hread

theorem useLeaf_work {e e' : TlbEntry} {k flags : Nat} (h : useLeaf s e k flags = .ok (e', t)) : t.work = s.work := by
  unfold useLeaf at h
  split at h
  · cases h
  · exact markEntry_work h

@[simp] theorem tookLost_work (s : State) : (tookLost s).work = s.work := by
  unfold tookLost
  split <;> rfl

@[simp] theorem keepWalk_work (e : TlbEntry) (seen : List TableWord) : (keepWalk s e seen).work = s.work := by
  simp only [keepWalk, Laws.modXlat_work]
  exact foldl_work (fun s a => beforeRead_work a 8) _ _

@[simp] theorem cacheLeaf_work (o : Nat) (e : TlbEntry) : (cacheLeaf s o e).work = s.work := rfl

theorem translate_work {o asid va k : Nat} {e : TlbEntry} (h : translate s o asid va k = .ok (e, t)) : t.work = s.work := by
  unfold Machine.translate at h
  split at h
  · cases h
  · split at h
    · split at h <;> cases h
      next h1 => split <;> simp [useLeaf_work h1]
    · split at h
      · split at h <;> cases h
        next h1 => simp [useLeaf_work h1]
      · split at h
        · cases h
        · split at h <;> cases h
          next h1 => simp [useLeaf_work h1]

/-! On-chip memories -/

@[simp] theorem scrWrite_work (k o : Nat) (bs : List Byte) : (s.scrWrite k o bs).work = s.work := by
  unfold State.scrWrite
  split <;> rfl

@[simp] theorem dieWrite_work (l d o : Nat) (bs : List Byte) : (s.dieWrite l d o bs).work = s.work := by
  induction bs generalizing s o with
  | nil => rfl
  | cons b bs ih => exact ih _

/-! Accesses made at once -/

theorem loadPart_work {g : Agent} {va n m : Nat} {bs : List Byte} (h : loadPart s g va n m = .ok bs t) : t.work = s.work := by
  unfold loadPart at h
  split at h
  · split at h <;> cases h
  · next e s1 htrans =>
    rw [← translate_work htrans]
    split at h
    · cases h
    · cases h; rfl
    · split_ifs at h
      split at h <;> cases h
      next hread => exact homeRead_work hread
    · split_ifs at h
      split at h
      · split at h <;> cases h
        next hread => exact homeRead_work hread
      · split at h <;> cases h
        next hread =>
        rw [foldl_work (fun s l => install_work _ _ l), readBytes_work hread, beforeRead_work]
        exact foldl_work (fun s l => dropClash_work l _ _) _ _

theorem storeHome_work {d : Option Nat} {va a k q : Nat} {bs : List Byte} {u : Unit} (h : storeHome s d va a k q bs = .ok u t) :
    t.work = s.work := by
  simp only [storeHome, homeWritten] at h
  split at h
  · cases h
  · split at h <;> cases h
    simp

theorem storePart_work {g : Agent} {va n : Nat} {bs : List Byte} {u : Unit} (h : storePart s g va bs n = .ok u t) : t.work = s.work := by
  unfold storePart at h
  split at h
  · split at h <;> cases h
  · next e s1 htrans =>
    rw [← translate_work htrans]
    split at h
    · cases h
    · cases h; simp
    · exact storeHome_work h
    · split_ifs at h
      exact storeHome_work h

theorem loadAll_work {g : Agent} {fuel va n : Nat} {bs : List Byte} (h : loadAll g fuel s va n = .ok bs t) : t.work = s.work := by
  induction fuel generalizing s va n bs with
  | zero => cases h; rfl
  | succ fuel ih =>
    unfold loadAll at h
    split at h
    · cases h; rfl
    · split at h
      · cases h
      · cases h
      · next s1 hpart =>
        split at h <;> cases h
        next hrest => exact (ih hrest).trans (loadPart_work hpart)

theorem storeAll_work {g : Agent} {fuel va : Nat} {bs : List Byte} {u : Unit} (h : storeAll g fuel s va bs = .ok u t) : t.work = s.work := by
  induction fuel generalizing s va bs with
  | zero => cases h; rfl
  | succ fuel ih =>
    unfold storeAll at h
    split at h
    · cases h; rfl
    · split at h
      · cases h
      · cases h
      · next s1 hpart => exact (ih h).trans (storePart_work hpart)

/-! Chambers -/

theorem freeBytes_work (n : Nat) (s : State) : (s.freeBytes n).2.work = s.work := by
  induction n generalizing s with
  | zero => rfl
  | succ n ih => exact ih s.took

theorem readChamber_work {g : Agent} {at_ : ChamberAt} {c : Chamber} (h : readChamber s g at_ = .ok c t) : t.work = s.work := by
  unfold readChamber at h
  split at h
  · cases h; exact freeBytes_work 16 s
  · split at h
    · cases h; rfl
    · split at h <;> cases h
      next hload => exact loadAll_work hload

theorem writeChamber_work {g : Agent} {at_ : ChamberAt} {c : Chamber} {u : Unit} (h : writeChamber s g at_ c = .ok u t) : t.work = s.work := by
  simp only [writeChamber] at h
  split at h
  · cases h; simp
  · split at h <;> cases h
    next u1 s1 hstore => exact (storeAll_work hstore : s1.work = s.work)

theorem arriveAt_work {g : Agent} {at_ : ChamberAt} {n b c sc : Nat} {psn : Bool} {u : Unit} (h : arriveAt s g at_ n b psn c sc = .ok u t) :
    t.work = s.work := by
  unfold arriveAt at h
  split at h
  · cases h
  · cases h
  · next hread => exact (writeChamber_work h).trans (readChamber_work hread)

/-! Retirement -/

@[simp] theorem writeBack_work (sc : Nat) : (writeBack s sc).work = s.work := by
  unfold writeBack
  split <;> rfl

@[simp] theorem tryExport_work (g : Nat) (h : Bool) (k : Nat) : (tryExport s g h k).work = s.work := by
  simp only [tryExport]
  split_ifs
  · rfl
  · rfl
  · split
    · rfl
    · split
      · rfl
      · rfl
      · next harrive => simpa using arriveAt_work harrive

@[simp] theorem lowerWaits_work (g : Nat) (h : Bool) (k : Nat) : (lowerWaits s g h k).work = s.work := by
  simp only [lowerWaits]
  split <;> rfl

@[simp] theorem retireToken_work (g : Nat) (h : Bool) (k b : Nat) (f : Option Failure) : (retireToken s g h k b f).work = s.work := by
  simp [retireToken]

@[simp] theorem outrank_work (id : Nat) : (s.outrank id).work = s.work := by
  unfold State.outrank
  split <;> rfl

@[simp] theorem landResult_work (id : Nat) (f : Option Failure) : (landResult s id f).work = s.work := by
  cases f <;> simp [landResult]

theorem drainOne_work {g k : Nat} {h : Bool} (hone : drainOne s g h k = some t) : t.work = s.work := by
  simp only [drainOne] at hone
  split at hone
  · cases hone
  · split at hone <;> cases hone
    simp

@[simp] theorem drain_work (g : Nat) (h : Bool) (k n : Nat) (s : State) : (drain g h k n s).work = s.work := by
  induction n generalizing s with
  | zero => rfl
  | succ n ih =>
    unfold drain
    split
    · rfl
    · next hone => exact (ih _).trans (drainOne_work hone)

@[simp] theorem flagDone_work (id : Nat) : (flagDone s id).work = s.work := by simp [flagDone]

@[simp] theorem finishOp_work (id b : Nat) (f : Option Failure) : (finishOp s id b f).work = s.work := by
  simp only [finishOp]
  split
  · split_ifs <;> simp
  · simp

/-! Groups, barges and engines that stop -/

@[simp] theorem leaveQueues_work (g : Nat) : (leaveQueues s g).work = s.work := foldl_work (fun s _ => Laws.modCore_work s _ _) _ _

@[simp] theorem leaveSlots_work (g : Nat) : (leaveSlots s g).work = s.work := rfl

@[simp] theorem standStill_work (g : Nat) (m : Mode) : (standStill s g m).work = s.work := by simp [standStill]

@[simp] theorem dropReads_work (g : Nat) : (dropReads s g).work = s.work := foldl_work (fun s p => by simp) _ _

@[simp] theorem stopGroup_work (g : Nat) (m : Mode) : (stopGroup s g m).work = s.work := by
  simp only [stopGroup]
  split <;> simp

theorem cutBarge_work (c : Nat) (s : State) (b : Nat) : (cutBarge c s b).work = s.work := by
  simp only [cutBarge]
  split
  · rw [foldl_work (fun s _ => retireToken_work _ _ _ _ _), foldl_work (fun s id => finishOp_work id _ _)]
    rfl
  · rfl

theorem stopBarge_work (s : State) (b : Nat) : (stopBarge s b).work = s.work := by
  unfold stopBarge stopBargeBy
  split
  · exact cutBarge_work _ _ _
  · rfl

@[simp] theorem emptyEngine_work (c x : Nat) : (emptyEngine s c x).work = s.work :=
  foldl_work (fun s q => by split <;> simp) _ _

@[simp] theorem releaseEngine_work (c : Nat) : (releaseEngine s c).work = s.work := rfl

@[simp] theorem noteReturned_work (c : Nat) (s0 : State) : (noteReturned c s0 s).work = s.work := rfl

theorem stopTeam_work (s : State) (k : Nat) : (stopTeam s k).work = s.work := by
  simp only [stopTeam, noteReturned_work, Laws.modTeam_work]
  have hgroups : ((groupsOf s k).foldl (fun s k =>
      (stopGroup s k .running).modGroup k (fun g => { g with live := 0, active := false, held := false, left := true })) s).work = s.work :=
    foldl_work (fun s k => by simp) _ _
  split
  · rw [releaseEngine_work, emptyEngine_work, foldl_work stopBarge_work, hgroups]
  · rw [foldl_work stopBarge_work, hgroups]

@[simp] theorem drainAll_work (g : Nat) : (drainAll s g).work = s.work := foldl_work (fun s _ => drain_work _ _ _ _ s) _ _

theorem discardGroup_work (s : State) (g : Nat) : (discardGroup s g).work = s.work := by
  unfold discardGroup
  split <;> simp

/-- R318, R389: a launch that ends early keeps the outcome that it has, or takes the one it is given. -/
theorem stopLaunch_outcome (l status c team : Nat) :
    ((stopLaunch s l status c team).launch l).outcome = some ((s.launch l).outcome.getD (status, c, team)) := by
  have hstopped : (((((teamsOfLaunch s l).foldl stopTeam s).groups.filter (fun p => launchOfGrp p.1 = l)).map (fun p => p.1)).foldl discardGroup
      ((teamsOfLaunch s l).foldl stopTeam s)).work = s.work :=
    (foldl_work discardGroup_work _ _).trans (foldl_work stopTeam_work _ _)
  simp only [stopLaunch, Laws.launch_modLaunch]
  exact congrArg (fun w : Work => some ((Sparse.get {} w.launches l).outcome.getD (status, c, team))) hstopped

theorem doubleFault_outcome (g c : Nat) :
    ((doubleFault s g c).launch (launchOfGrp g)).outcome = some ((s.launch (launchOfGrp g)).outcome.getD (4, c, gridTeamOf (teamOf g))) :=
  stopLaunch_outcome _ _ _ _

end WorkKept

section OneCause

/-! One cause in every lane of a set (R97, R310) -/

variable {s : State} {lanes : Lanes}

theorem minOf_eq_min? (l : List Nat) : minOf l = l.min? := by
  induction l with
  | nil => rfl
  | cons x xs ih =>
    rw [minOf, ih, List.min?_cons]
    cases xs.min? <;> rfl

/-- No lane of a set is below its lowest one. -/
theorem low_le {k : Nat} (hk : k ∈ lanes.toList) : low lanes ≤ k := by
  have hsorted : lanes.toList.Pairwise (· < ·) := List.Pairwise.filter _ (by decide)
  rw [low, Lanes.lowest]
  cases hlist : lanes.toList with
  | nil => exact Nat.zero_le k
  | cons e l =>
    rw [hlist] at hk hsorted
    rcases List.mem_cons.1 hk with rfl | hin
    · exact Nat.le_refl _
    · exact Nat.le_of_lt (List.rel_of_pairwise_cons hsorted hin)

theorem low_mem_toList (h : lanes ≠ 0#32) : low lanes ∈ lanes.toList := by
  obtain ⟨e, -, rfl, hin⟩ := Laws.low_mem lanes h
  exact Laws.mem_lanes.2 hin

theorem lowestCause_causeAll (h : lanes ≠ 0#32) (c : Nat) : lowestCause (causeAll lanes c) = c := by
  have hleast : ((causeAll lanes c).map (fun p => p.2)).min? = some c := by
    simp only [causeAll, List.map_map, List.min?_eq_some_iff, List.mem_map, Function.comp]
    exact ⟨⟨_, low_mem_toList h, trivial⟩, fun _ ⟨_, _, hc⟩ => Nat.le_of_eq hc⟩
  rw [lowestCause, minOf_eq_min?, hleast, Option.getD_some]

theorem lowestLane_causeAll (h : lanes ≠ 0#32) (c : Nat) : lowestLane (causeAll lanes c) c = low lanes := by
  have hlanes : ((causeAll lanes c).filter (fun p => p.2 = c)).map (fun p => p.1) = lanes.toList := by
    simp [causeAll, List.filter_map, Function.comp_def]
  have hleast : lanes.toList.min? = some (low lanes) :=
    List.min?_eq_some_iff.2 ⟨low_mem_toList h, fun _ => low_le⟩
  rw [lowestLane, hlanes, minOf_eq_min?, hleast, Option.getD_some]

theorem get_foldl_set_const (c k : Nat) (l : List Nat) (m : Sparse Nat) :
    Sparse.get 0 (l.foldl (fun m i => Sparse.set 0 m i c) m) k = if k ∈ l then c else Sparse.get 0 m k := by
  induction l generalizing m with
  | nil => rfl
  | cons i l ih =>
    rw [List.foldl_cons, ih, Laws.get_set]
    by_cases hl : k ∈ l <;> by_cases hi : k = i <;> simp [hl, hi]

/-- The table of causes that a halt keeps. -/
theorem get_causeAll {k : Nat} (hk : k < 32) (c : Nat) :
    Sparse.get 0 ((causeAll lanes c).foldl (fun m p => Sparse.set 0 m p.1 p.2) []) k = if lanes.getLsbD k then c else 0 := by
  rw [causeAll, List.foldl_map, get_foldl_set_const]
  simp [Laws.mem_lanes, hk]

/-- R97: outside a handler, every present lane traps. -/
theorem trapAll_trapped (hord : Ordinary s) (hsome : s.sched.cur.lanes ≠ 0#32) (c : Nat) :
    Trapped s (s.trapAll c) (fun k => if s.sched.cur.lanes.getLsbD k then c else 0) c (low s.sched.cur.lanes) := by
  have h := Laws.raise_trapped s (causeAll s.sched.cur.lanes c) none hord
  rw [lowestCause_causeAll hsome, lowestLane_causeAll hsome] at h
  exact { h with causes := fun k hk => (h.causes k hk).trans (get_causeAll hk c) }

/-- R318: in a handler, every trap is a double fault. -/
theorem trapAll_handler (hmode : s.me.mode = .handler) (hsome : s.sched.cur.lanes ≠ 0#32) (c : Nat) : s.trapAll c = raiseDouble s (grp s) c := by
  have hmode' : (s.group s.sched.cur.grp).mode = .handler := hmode
  rw [State.trapAll, State.raise]
  simp only [hmode', if_true, lowestCause_causeAll hsome]

/-- R310: the cause of a double fault, or the lower one that the cycle's other path has raised. -/
def lowerCause (d : Option Nat) (c : Nat) : Nat := (d.map (min c)).getD c

theorem raiseDouble_eq (g c : Nat) :
    raiseDouble s g c =
      if (s.group g).picks.isEmpty then doubleFault (s.modGroup g (fun g => { g with dfault := none })) g (lowerCause (s.group g).dfault c)
      else s.modGroup g (fun x => { x.slotTaken with dfault := some (lowerCause (s.group g).dfault c), raisedNow := true }) := by
  cases hd : (s.group g).dfault with
  | none => simp only [raiseDouble, hd, lowerCause, Option.map_none, Option.getD_none]
  | some d =>
    have hlower : (if d < c then d else c) = min c d := by split <;> omega
    simp only [raiseDouble, hd, lowerCause, Option.map_some, Option.getD_some, hlower]

end OneCause

/-- Settles O12: the gate raises the cause in every present lane. -/
theorem illegalOperandTraps : Obligations.IllegalOperandTraps := by
  intro i f u n s hplain hbad hsome
  obtain ⟨x, hruns⟩ := plain_runs hplain s
  have hexec : exec i s = .next (s.trapAll Cause.illegalOperand) := hruns.trans (compute_illegal hbad)
  refine ⟨fun hord => ⟨_, hexec, trapAll_trapped hord hsome _⟩,
    fun hmode => ⟨fun hpicks hnone => ⟨_, hexec, ?_⟩, fun hpicks => ⟨_, hexec, ?_⟩⟩⟩
  · have hpicks' : (s.group (grp s)).picks.isEmpty = true := List.isEmpty_iff.2 hpicks
    have hnone' : (s.launch (launchOfGrp (grp s))).outcome = none := hnone
    rw [trapAll_handler hmode hsome, raiseDouble_eq, if_pos hpicks']
    refine (doubleFault_outcome _ _).trans ?_
    rw [Laws.launch_modGroup_kept, hnone']
    rfl
  · have hpicks' : ¬ (s.group (grp s)).picks.isEmpty = true := fun h => hpicks (List.isEmpty_iff.1 h)
    rw [trapAll_handler hmode hsome, raiseDouble_eq, if_neg hpicks', Laws.group_modGroup]
    exact ⟨rfl, Laws.modGroup_work _ _ _⟩

end Sys2Proof.Proofs

/-! Instructions that issue an operation (`Issues`): special functions, shuffles, scratchpad and global accesses. Past its gate each one only
takes its operation in and passes on. -/

namespace Sys2Proof.Proofs
open Sys2Proof Sys2Proof.Machine Sys2Proof.Rules

section Outgoing

/-! What an issue changes -/

/-- The second group is the first but for flags, tokens, stalls, notes of operations, counters of lanes and counts of issues. -/
def Outgoing (g h : Group) : Prop :=
  ∃ (flags pcs hdrs : Sparse Nat) (toks htoks : Sparse Token) (stalls : List (Nat × Lanes)) (late : List (Nat × Nat × Nat)) (need : Lanes)
      (issued issuedNow idle skid stepLeft : Nat) (skidLeft : Option Nat) (skipBreak : Bool),
    h = { g with
      flags := flags, toks := toks, htoks := htoks, stalls := stalls, late := late, pcs := pcs, hdrs := hdrs, need := need, issued := issued
      issuedNow := issuedNow, idle := idle, skid := skid, stepLeft := stepLeft, skidLeft := skidLeft, skipBreak := skipBreak }

theorem outgoing_refl (g : Group) : Outgoing g g := ⟨_, _, _, _, _, _, _, _, _, _, _, _, _, _, _, rfl⟩

theorem Outgoing.trans {g h k : Group} (hgh : Outgoing g h) (hhk : Outgoing h k) : Outgoing g k := by
  obtain ⟨_, _, _, _, _, _, _, _, _, _, _, _, _, _, _, rfl⟩ := hgh
  obtain ⟨_, _, _, _, _, _, _, _, _, _, _, _, _, _, _, rfl⟩ := hhk
  exact ⟨_, _, _, _, _, _, _, _, _, _, _, _, _, _, _, rfl⟩

theorem outgoing_counted (g : Group) : Outgoing g g.counted := ⟨_, _, _, _, _, _, _, _, _, _, _, _, _, _, _, rfl⟩

theorem outgoing_place (g : Group) (ls : Lanes) (pc h : Nat) : Outgoing g (g.place ls pc h) := by
  obtain ⟨_, _, _, hplace⟩ := Laws.place_rest g ls pc h
  rw [hplace]
  exact ⟨_, _, _, _, _, _, _, _, _, _, _, _, _, _, _, rfl⟩

theorem outgoing_setTok (g : Group) (h : Bool) (t : Nat) (k : Token) : Outgoing g (g.setTok h t k) := by
  cases h <;> exact ⟨_, _, _, _, _, _, _, _, _, _, _, _, _, _, _, rfl⟩

theorem outgoing_noted (g : Group) (fs : Sparse Nat) (l : List (Nat × Nat × Nat)) : Outgoing g { g with late := l, flags := fs } :=
  ⟨_, _, _, _, _, _, _, _, _, _, _, _, _, _, _, rfl⟩

theorem outgoing_stalls (g : Group) (l : List (Nat × Lanes)) : Outgoing g { g with stalls := l } :=
  ⟨_, _, _, _, _, _, _, _, _, _, _, _, _, _, _, rfl⟩

variable {s t : State} {f : ExtForm}

theorem issued_refl (s : State) : Issued s s := ⟨⟨_, _, _, rfl⟩, fun _ _ => rfl, fun _ _ => rfl, outgoing_refl _⟩

theorem cur_of_issued (h : Issued s t) : t.sched.cur = s.sched.cur := by
  obtain ⟨_, _, _, rfl⟩ := h.package
  rfl

theorem issued_modGroup (h : Issued s t) {x : Group → Group} (hx : ∀ g, Outgoing g (x g)) : Issued s (t.modGroup (grp s) x) where
  package := by
    obtain ⟨_, _, _, rfl⟩ := h.package
    exact ⟨_, _, _, rfl⟩
  others k hk := (Laws.group_modGroup_other t _ k x hk).trans (h.others k hk)
  older := h.older
  rest := by
    rw [Laws.group_modGroup]
    exact Outgoing.trans h.rest (hx _)

theorem issued_newOp (o : Op) : Issued s (s.newOp o) :=
  ⟨⟨_, _, _, rfl⟩, fun _ _ => rfl, fun _ hn => Laws.get_insert_other _ _ _ _ _ hn, outgoing_refl _⟩

theorem issued_advance (h : Issued s t) : Issued s t.advance := by
  rw [State.advance, cur_of_issued h]
  exact issued_modGroup h (fun g => (outgoing_place g _ _ _).trans (outgoing_counted _))

theorem issued_issueOp {o : Op} (ho : o.grp = grp s) : Issued s (s.issueOp o) := by
  simp only [State.issueOp, ho]
  refine issued_modGroup (issued_newOp _) (fun g => ?_)
  cases o.flag with
  | none =>
    cases o.tok with
    | none => exact outgoing_noted g g.flags _
    | some k => exact (outgoing_noted g g.flags _).trans (outgoing_setTok _ _ _ _)
  | some b =>
    cases o.tok with
    | none => exact outgoing_noted g _ _
    | some k => exact (outgoing_noted g _ _).trans (outgoing_setTok _ _ _ _)

theorem issued_stallOn (h : Issued s t) (id : Nat) : Issued s (t.stallOn id) := by
  rw [State.stallOn, cur_of_issued h]
  exact issued_modGroup h (fun g => outgoing_stalls g _)

/-- R90, R165: a flag operation that issues, or waits for its flag. -/
theorem issued_issueFlag (s : State) (f : ExtForm) (o : Op) : Issued s (s.issueFlag f o) := by
  have hissue := issued_issueOp (s := s) (o := { o with grp := s.sched.cur.grp, core := s.myCore, flag := s.flagNow f }) rfl
  unfold State.issueFlag
  split
  · exact issued_refl s
  · refine issued_advance ?_
    split
    · exact hissue
    · exact issued_stallOn hissue _

/-- R171, R315: an engine operation that issues, or waits for its token. -/
theorem issued_engineOp (s : State) (f : ExtForm) (o : Op) : Issued s (s.engineOp f o) := by
  simp only [State.engineOp]
  split
  · exact issued_refl s
  · exact issued_advance (issued_issueOp rfl)

/-- An instruction of `State.instr` past its gate. -/
theorem instr_issued {u : Use} {act : Lanes → State → State} (hclear : Clear s f u) (hsome : SomeActive s f)
    (hact : ∀ a, Issued s (act a s)) (hexec : s.instr f u act = .next t) : Issued s t := by
  rw [Laws.instr_clear hclear hsome] at hexec
  cases hexec
  exact hact _

/-- An access past its gate and without a cause. -/
theorem access_issued {u : Use} {chk : Lanes → State → Sparse Nat} {act : Lanes → State → State} (hclear : Clear s f u)
    (hsome : SomeActive s f) (hfence : unfenced s) (hchk : chk (s.active f) s = []) (hact : ∀ a, Issued s (act a s)) (hexec : s.access f u chk act = .next t) :
    Issued s t := by
  rw [Laws.access_clear hclear hsome hfence chk act hchk] at hexec
  cases hexec
  exact hact _

end Outgoing

section Accesses

variable {s t : State} {f : ExtForm} {major idx : Nat}

/-! Operands and sizes of accesses (R196, R211) -/

theorem sizeMod_eq (f : ExtForm) : sizeMod f = f.mods.toNat % 8 := bits_eq_div_mod _ 0 3 |>.trans (by simp)

theorem dataWant_eq (f : ExtForm) : dataWant (typeOf f 5) (sizeMod f) = dataField f := by
  rw [sizeMod_eq]
  rfl

theorem levelUse_access (h : isAtomicOp major idx = false) :
    levelUse major idx f = { d := dataField f, a := base 1, b := field 35 1, dRead := isStoreOp major idx
                             c := if major = 0x15 && idx = 2 then field 35 1 else none } := by
  simp only [levelUse, h, Bool.false_eq_true, if_false, dataWant_eq]
  rfl

theorem levelUse_atomic (h : isAtomicOp major idx = true) : levelUse major idx f = atomicUse f := by
  simp only [levelUse, h, if_true, bits_eq_div_mod]
  rfl

theorem loadSize_eq (f : ExtForm) (n : Nat) : loadSize (typeOf f 5) n = bytesOf f n := by
  unfold loadSize bytesOf
  split <;> simp_all

theorem accessSize_access (hlocal : major ≠ 0x1D) (h : isAtomicOp major idx = false) : accessSize major idx f = dataBytes f := by
  simp only [accessSize, hlocal, h, Bool.false_eq_true, if_false, loadSize_eq]
  exact congrArg (bytesOf f) (sizeMod_eq f)

theorem four_mul_words (f : ExtForm) (n : Nat) : (if isWide (typeOf f n) then 8 else 4) = 4 * words f n := by
  unfold words wordsOfTy
  split <;> rfl

theorem accessSize_atomic (hlocal : major ≠ 0x1D) (h : isAtomicOp major idx = true) : accessSize major idx f = 4 * words f 1 := by
  simp only [accessSize, hlocal, h, if_false, if_true, four_mul_words]

theorem levelCause_eq_zero {l : Launch} {a n : Nat} (hlevel : major = 0x13 ∨ major = 0x14 ∨ major = 0x15 ∨ major = 0x16) (haligned : a % n = 0)
    (hfits : fits l major a n) : levelCause l major a n = 0 := by
  have hbits : ∀ lo w, bits a lo w = a / 2 ^ lo % 2 ^ w := bits_eq_div_mod a
  rcases hlevel with rfl | rfl | rfl | rfl
  all_goals simp [fits] at hfits
  all_goals simp [levelCause, haligned, hbits]
  all_goals omega

/-- A scratchpad access at addresses that its level takes. -/
theorem levelAccess_issued {u : Use} {n : Nat} {go : State → Op → State}
    (hlevel : major = 0x13 ∨ major = 0x14 ∨ major = 0x15 ∨ major = 0x16)
    (huse : levelUse major idx f = u) (hsize : accessSize major idx f = n) (hclear : Clear s f u) (hsome : SomeActive s f) (hfence : unfenced s)
    (hin : inLevel major n f s (s.active f)) (hput : major = 0x15 → idx = 2 → s.opC f 5 (low (s.active f)) < 32) (hgo : ∀ o, Issued s (go s o))
    (hexec : levelAccess major idx f s go = .next t) : Issued s t := by
  subst huse hsize
  refine access_issued hclear hsome hfence (Laws.laneCauses_nil fun k hk hactive => ?_) (fun _ => hgo _) hexec
  obtain ⟨haligned, hfits⟩ := hin k hk hactive
  have hnoput : (major = 0x15 && idx = 2 && decide (32 ≤ s.opC f 5 (low (s.active f)))) = false := by simpa using hput
  rw [hnoput]
  exact levelCause_eq_zero hlevel haligned hfits

/-- `lds`, `ldl` and `ldc`. -/
theorem levelLoad_issued (hlevel : major = 0x13 ∨ major = 0x14 ∨ major = 0x15 ∨ major = 0x16) (hclear : Clear s f (loadUse f))
    (hsome : SomeActive s f) (hwhen : unfenced s ∧ inLevel major (dataBytes f) f s (s.active f) ∧ flagFree f s)
    (hexec : levelFlag .load major 0 f s = .next t) : Issued s t := by
  obtain ⟨hfence, hin, -⟩ := hwhen
  have hatomic : isAtomicOp major 0 = false := by rcases hlevel with rfl | rfl | rfl | rfl <;> rfl
  have hlocal : major ≠ 0x1D := by omega
  have huse : levelUse major 0 f = loadUse f := by
    rw [levelUse_access hatomic]
    rcases hlevel with rfl | rfl | rfl | rfl <;> rfl
  exact levelAccess_issued hlevel huse (accessSize_access hlocal hatomic) hclear hsome hfence hin nofun (fun _ => issued_issueFlag _ _ _) hexec

/-- `atms` and `atmc`. -/
theorem levelAtomic_issued (hlevel : major = 0x13 ∧ idx = 2 ∨ major = 0x15 ∧ idx = 3) (hclear : Clear s f (atomicUse f))
    (hsome : SomeActive s f) (hwhen : unfenced s ∧ inLevel major (4 * words f 1) f s (s.active f) ∧ flagFree f s) (hexec : levelFlag .atom major idx f s = .next t) :
    Issued s t := by
  obtain ⟨hfence, hin, -⟩ := hwhen
  have hatomic : isAtomicOp major idx = true := by rcases hlevel with ⟨rfl, rfl⟩ | ⟨rfl, rfl⟩ <;> rfl
  exact levelAccess_issued (by omega) (levelUse_atomic hatomic) (accessSize_atomic (by omega) hatomic) hclear hsome hfence hin (by omega)
    (fun _ => issued_issueFlag _ _ _) hexec

/-- `stc` and `cput`. -/
theorem levelPosted_issued {u : Use} (huse : levelUse 0x15 idx f = u) (hidx : idx ≠ 3) (hclear : Clear s f u) (hsome : SomeActive s f)
    (hwhen : unfenced s ∧ inLevel 0x15 (dataBytes f) f s (s.active f) ∧ (idx = 2 → s.opC f 5 (low (s.active f)) < 32))
    (hexec : levelPosted idx f s = .next t) : Issued s t := by
  obtain ⟨hfence, hin, hput⟩ := hwhen
  exact levelAccess_issued (by decide) huse (accessSize_access (by decide) (by simp [isAtomicOp, hidx])) hclear hsome hfence hin (fun _ => hput)
    (fun _ => issued_advance (issued_newOp _)) hexec

/-- `ldd` and `std`. -/
theorem levelToken_issued {u : Use} (huse : levelUse 0x16 idx f = u) (hclear : Clear s f u) (hsome : SomeActive s f)
    (hwhen : unfenced s ∧ inLevel 0x16 (dataBytes f) f s (s.active f) ∧ tokenFree f 2 s) (hexec : levelToken idx f s = .next t) :
    Issued s t := by
  obtain ⟨hfence, hin, -⟩ := hwhen
  exact levelAccess_issued (by decide) huse (accessSize_access (by decide) rfl) hclear hsome hfence hin nofun (fun _ => issued_engineOp _ _ _)
    hexec

theorem isScratch_issued {i : Instr} {r : Act} (h : IsScratch i r) (hnow : ¬ StoresNow i) (hclear : Clear s r.f r.u) (hsome : SomeActive s r.f)
    (hwhen : r.when s (s.active r.f)) (hexec : exec i s = .next t) : Issued s t := by
  cases h with
  | lds g => exact levelLoad_issued (.inl rfl) hclear hsome hwhen hexec
  | ldsX f => exact levelLoad_issued (.inl rfl) hclear hsome hwhen hexec
  | ldl g => exact levelLoad_issued (.inr (.inl rfl)) hclear hsome hwhen hexec
  | ldlX f => exact levelLoad_issued (.inr (.inl rfl)) hclear hsome hwhen hexec
  | ldc f => exact levelLoad_issued (.inr (.inr (.inl rfl))) hclear hsome hwhen hexec
  | atms f => exact levelAtomic_issued (.inl ⟨rfl, rfl⟩) hclear hsome hwhen hexec
  | atmc f => exact levelAtomic_issued (.inr ⟨rfl, rfl⟩) hclear hsome hwhen hexec
  | sts g => exact absurd (.sts g) hnow
  | stsX f => exact absurd (.stsX f) hnow
  | stl g => exact absurd (.stl g) hnow
  | stlX f => exact absurd (.stlX f) hnow
  | stc f => exact levelPosted_issued (idx := 1) (levelUse_access rfl) (by decide) hclear hsome hwhen hexec
  | cput f => exact levelPosted_issued (idx := 2) (levelUse_access rfl) (by decide) hclear hsome hwhen hexec
  | ldd f => exact levelToken_issued (idx := 0) (levelUse_access rfl) hclear hsome hwhen hexec
  | std f => exact levelToken_issued (idx := 1) (levelUse_access rfl) hclear hsome hwhen hexec

/-! Special functions and shuffles (R131, R159) -/

theorem specialIssue_issued {k : Nat} (hclear : Clear s f (specialAct k f).u) (hsome : SomeActive s f) (hexec : specialIssue k f s = .next t) :
    Issued s t :=
  instr_issued hclear hsome (fun _ => issued_issueFlag _ _ _) hexec

theorem shuffleIssue_issued {k : Nat} (hclear : Clear s f (shuffleAct k f).u) (hsome : SomeActive s f) (hexec : shuffleIssue k f s = .next t) :
    Issued s t :=
  instr_issued hclear hsome (fun _ => issued_issueFlag _ _ _) hexec

theorem isFlagged_issued {i : Instr} {r : Act} (h : IsFlagged i r) (hclear : Clear s r.f r.u) (hsome : SomeActive s r.f)
    (hexec : exec i s = .next t) : Issued s t := by
  cases h with
  | frcp g => exact specialIssue_issued hclear hsome hexec
  | frcpX f => exact specialIssue_issued hclear hsome hexec
  | frsq g => exact specialIssue_issued hclear hsome hexec
  | frsqX f => exact specialIssue_issued hclear hsome hexec
  | fsqrt g => exact specialIssue_issued hclear hsome hexec
  | fsqrtX f => exact specialIssue_issued hclear hsome hexec
  | fexp2 g => exact specialIssue_issued hclear hsome hexec
  | fexp2X f => exact specialIssue_issued hclear hsome hexec
  | flog2 f => exact specialIssue_issued hclear hsome hexec
  | fsin f => exact specialIssue_issued hclear hsome hexec
  | fcos f => exact specialIssue_issued hclear hsome hexec
  | ftanh f => exact specialIssue_issued hclear hsome hexec
  | shf g => exact shuffleIssue_issued hclear hsome hexec
  | shfX f => exact shuffleIssue_issued hclear hsome hexec
  | shfup g => exact shuffleIssue_issued hclear hsome hexec
  | shfupX f => exact shuffleIssue_issued hclear hsome hexec
  | shfdn g => exact shuffleIssue_issued hclear hsome hexec
  | shfdnX f => exact shuffleIssue_issued hclear hsome hexec
  | shfx g => exact shuffleIssue_issued hclear hsome hexec
  | shfxX f => exact shuffleIssue_issued hclear hsome hexec

/-! Global memory (R211 to R215, R223, R240) -/

theorem addr64_eq (f : ExtForm) (s : State) (k : Nat) : s.addr64 f k = farAddr f s k := by
  have hextend : sextTo 32 64 (s.opB f 5 k) = ((BitVec.ofNat 32 (s.opB f 5 k)).signExtend 64).toNat := by
    rw [sextTo, Laws.signed_toInt, wrap, BitVec.signExtend, BitVec.toNat_ofInt]
    rfl
  rw [State.addr64, farAddr, hextend]

theorem lineUse_eq (f : ExtForm) (scopes : List Nat) : lineUse f scopes = linesUse f scopes := by
  simp only [lineUse, linesUse, bits_eq_div_mod]
  rfl

theorem globalUse_access (h : idx < 2) : globalUse idx f = farUse (idx = 1) f := by
  simp only [globalUse, Nat.not_le.2 h, if_false, dataWant_eq]
  rfl

theorem globalUse_atomic (hidx : idx = 2 ∨ idx = 3) : globalUse idx f = farAtomicUse (idx = 3) f := by
  rcases hidx with rfl | rfl <;> (simp only [globalUse, bits_eq_div_mod, pow_zero, Nat.div_one]; rfl)

theorem globalCause_eq_zero {n a : Nat} (haligned : a % (if isAtomicOp major idx || major = 0x1D then n else min n 4) = 0) :
    globalCause major idx n a = 0 := by
  simp only [globalCause, haligned, ne_eq, not_true_eq_false, if_false]

/-- `ldg`, `stg`, `atg` and `redg`. -/
theorem globalAccess_issued {u : Use} {n : Nat} (huse : globalUse idx f = u)
    (hunit : (if isAtomicOp 0x17 idx || 0x17 = 0x1D then accessSize 0x17 idx f else min (accessSize 0x17 idx f) 4) = n) (hclear : Clear s f u)
    (hsome : SomeActive s f) (hwhen : unfenced s ∧ aligned n f s (s.active f) ∧ tokenFree f 1 s) (hexec : globalAccess idx f s = .next t) :
    Issued s t := by
  obtain ⟨hfence, haligned, -⟩ := hwhen
  subst huse hunit
  refine access_issued hclear hsome hfence (Laws.laneCauses_nil fun k hk hactive => ?_) (fun _ => issued_engineOp _ _ _) hexec
  rw [addr64_eq]
  exact globalCause_eq_zero (haligned k hk hactive)

theorem globalUnit_access (h : idx < 2) :
    (if isAtomicOp 0x17 idx || 0x17 = 0x1D then accessSize 0x17 idx f else min (accessSize 0x17 idx f) 4) = min 4 (dataBytes f) := by
  have hatomic : isAtomicOp 0x17 idx = false := by simp [isAtomicOp]; omega
  rw [accessSize_access (by decide) hatomic, hatomic, Nat.min_comm]
  rfl

theorem globalUnit_atomic (h : 2 ≤ idx) :
    (if isAtomicOp 0x17 idx || 0x17 = 0x1D then accessSize 0x17 idx f else min (accessSize 0x17 idx f) 4) = 4 * words f 1 := by
  have hatomic : isAtomicOp 0x17 idx = true := by simp [isAtomicOp, h]
  rw [accessSize_atomic (by decide) hatomic, hatomic]
  rfl

/-- `cclean` and `cinval`. -/
theorem lineAccess_issued {kind : OpKind} {scopes : List Nat} (hclear : Clear s f (linesUse f scopes)) (hsome : SomeActive s f)
    (hfence : unfenced s) (hexec : lineAccess kind idx scopes f s = .next t) : Issued s t := by
  rw [← lineUse_eq] at hclear
  exact access_issued hclear hsome hfence rfl (fun _ => issued_engineOp _ _ _) hexec

theorem acqr_issued {u : Use} (huse : u = { d := field 3 (words f 5), a := base 2, b := field 35 1
                                            bad := !decide (2 ≤ f.mods.toNat / 8 % 8 ∧ f.mods.toNat / 8 % 8 ≤ 4) })
    (hclear : Clear s f u) (hsome : SomeActive s f)
    (hwhen : unfenced s ∧ farAddr f s (low (s.active f)) % bytesOf f 0 = 0 ∧ tokenFree f 1 s) (hexec : execAcqr f s = .next t) : Issued s t := by
  obtain ⟨hfence, haligned, -⟩ := hwhen
  have hsame : u = { d := dataWant (typeOf f 5) 0, a := baseWant 2, b := offWant
                     bad := !(2 ≤ bits f.mods.toNat 3 3 && bits f.mods.toNat 3 3 ≤ 4) } := by
    rw [huse, bits_eq_div_mod, Bool.decide_and]
    rfl
  have hsize : accessSize 0x1D 2 f = bytesOf f 0 := loadSize_eq f 0
  have hnone : globalCause 0x1D 2 (accessSize 0x1D 2 f) (s.addr64 f (low (s.active f))) = 0 := by
    rw [addr64_eq, hsize]
    exact globalCause_eq_zero haligned
  subst hsame
  exact access_issued hclear hsome hfence (by simp only [hnone]; simp) (fun _ => issued_engineOp _ _ _) hexec

theorem isGlobal_issued {i : Instr} {r : Act} (h : IsGlobal i r) (hclear : Clear s r.f r.u) (hsome : SomeActive s r.f)
    (hwhen : r.when s (s.active r.f)) (hexec : exec i s = .next t) : Issued s t := by
  cases h with
  | ldg f => exact globalAccess_issued (idx := 0) (globalUse_access (by decide)) (globalUnit_access (by decide)) hclear hsome hwhen hexec
  | stg f => exact globalAccess_issued (idx := 1) (globalUse_access (by decide)) (globalUnit_access (by decide)) hclear hsome hwhen hexec
  | atg f => exact globalAccess_issued (idx := 2) (globalUse_atomic (.inl rfl)) (globalUnit_atomic (by decide)) hclear hsome hwhen hexec
  | redg f => exact globalAccess_issued (idx := 3) (globalUse_atomic (.inr rfl)) (globalUnit_atomic (by decide)) hclear hsome hwhen hexec
  | pref f =>
    have hclear' : Clear s f (lineUse f [3, 4]) := lineUse_eq f [3, 4] ▸ hclear
    exact access_issued hclear' hsome hwhen rfl (fun _ => issued_advance (issued_refl s)) hexec
  | cclean f => exact lineAccess_issued hclear hsome hwhen.1 hexec
  | cinval f => exact lineAccess_issued hclear hsome hwhen.1 hexec
  | acqr f => exact acqr_issued rfl hclear hsome hwhen hexec

end Accesses

/-- Settles O19: an instruction of each of the three families past its gate. -/
theorem issuingFrame : Obligations.IssuingFrame := by
  intro i r s t hissues hclear hsome hwhen hexec
  cases hissues with
  | flagged h => exact isFlagged_issued h hclear hsome hexec
  | scratch h hnow => exact isScratch_issued h hnow hclear hsome hwhen hexec
  | global h => exact isGlobal_issued h hclear hsome hwhen hexec

end Sys2Proof.Proofs

/-! Results of chapter 05 that one instruction computes: integer arithmetic (R116), logic, shifts and bit fields (R118 to R120), byte permutes
and address sums (R123), and conversions, reductions and reads of special registers (R111, R132 to R136, R162, R163, R176, R330). Each
instruction is a computation whose value agrees, in the bits the destination holds, with the one its rule names. -/

namespace Sys2Proof.Proofs

open Sys2Proof Sys2Proof.Machine Sys2Proof.Rules

section Values

/-! ### Computations that agree with a value -/

/-- The answer is that of an instruction that computes `v`, as far as the `n` registers of its result hold it. -/
def RunsValue (o : Out) (s : State) (f : ExtForm) (u : Use) (n : Nat) (v : State → Lanes → Nat → Nat) : Prop :=
  ∃ x, o = s.compute f u n x ∧ ∀ act k, x s act k % 2 ^ (32 * n) = v s act k % 2 ^ (32 * n)

theorem runsValue_self (s : State) (f : ExtForm) (u : Use) (n : Nat) (v : State → Lanes → Nat → Nat) : RunsValue (s.compute f u n v) s f u n v :=
  ⟨v, rfl, fun _ _ => rfl⟩

theorem computes_of_runsValue {i : Instr} {s : State} {f : ExtForm} {u : Use} {n : Nat} {v : State → Lanes → Nat → Nat}
    (h : RunsValue (exec i s) s f u n v) (hclear : Clear s f u) (hsome : SomeActive s f) : Computes i s f n (v s (s.active f)) := by
  obtain ⟨x, hexec, hagree⟩ := h
  exact ⟨x s (s.active f), fun k _ _ => hagree _ k, hexec.trans (Laws.compute_clear hclear hsome n x)⟩

theorem widthOf_eq_mul (ty : Nat) : widthOf ty = 32 * wordsOfTy ty := by
  unfold widthOf wordsOfTy
  split <;> rfl

theorem widthOf_pos (ty : Nat) : 0 < widthOf ty := by
  unfold widthOf
  split <;> decide

/-- The registers of a result hold the bits of its type. -/
theorem mod_words {ty a b : Nat} (h : a % 2 ^ widthOf ty = b % 2 ^ widthOf ty) : a % 2 ^ (32 * wordsOfTy ty) = b % 2 ^ (32 * wordsOfTy ty) := by
  rwa [widthOf_eq_mul] at h

/-! ### Integer arithmetic (R116) -/

/-- A number read as two's complement, of any width. -/
theorem signed_eq_toInt (w x : Nat) : signed w x = (BitVec.ofNat w x).toInt := by
  cases w with
  | zero => simp [signed, BitVec.of_length_zero]
  | succ w =>
    have hlt : x % 2 ^ (w + 1) < 2 ^ (w + 1) := Nat.mod_lt _ (by positivity)
    have hpow : 2 ^ (w + 1) = 2 * 2 ^ w := by ring
    simp only [signed, BitVec.toInt_eq_toNat_cond, BitVec.toNat_ofNat, Nat.add_sub_cancel, Nat.add_one_ne_zero, if_false]
    push_cast
    split <;> split <;> omega

theorem wrap_eq_ofInt (w : Nat) (x : Int) : wrap w x = (BitVec.ofInt w x).toNat := by
  rw [wrap, BitVec.toNat_ofInt]
  norm_cast

/-- R58: the range of an integer type is no empty range. -/
theorem clampInt_eq_max_min (isSigned : Bool) (w : Nat) (x : Int) :
    clampInt (intMin isSigned w) (intMax isSigned w) x = max (intMin isSigned w) (min (intMax isSigned w) x) := by
  have hrange : intMin isSigned w ≤ intMax isSigned w := by
    have hsigned : (0 : Int) < 2 ^ (w - 1) := by positivity
    have hplain : (0 : Int) < 2 ^ w := by positivity
    unfold intMin intMax
    split <;> omega
  unfold clampInt
  split_ifs <;> omega

theorem intResult_eq_narrow (ty : Nat) (sat : Bool) (x : Int) : intResult ty sat x = narrow sat (ty = 1 || ty = 3) (widthOf ty) x := by
  cases sat with
  | false => exact wrap_eq_ofInt _ _
  | true =>
    rw [intResult, if_pos rfl, satInt, wrap_eq_ofInt, clampInt_eq_max_min]
    rfl

theorem narrow_number (isSigned : Bool) (w x : Nat) : narrow false isSigned w (number isSigned w x) = x % 2 ^ w := by
  cases isSigned with
  | false => exact (congrArg BitVec.toNat (BitVec.ofInt_natCast w _)).trans (by simp)
  | true => simp [narrow, number]

/-- The computation that a rule of integer arithmetic describes. -/
def intRun (r : IntRule) (s : State) : Out := s.compute r.f r.use (words r.f 1) (fun s _ => r.value s)

theorem intUnary_eq_intRun (f : ExtForm) (s : State) (x : Int → Int) : s.intUnary f x = intRun ⟨f, 1, true, fun _ a _ _ => x a⟩ s := by
  simp only [State.intUnary, intResult_eq_narrow, asInt_eq_number]
  rfl

theorem intBinary_eq_intRun (f : ExtForm) (s : State) (x : Int → Int → Int) :
    s.intBinary f x = intRun ⟨f, 2, true, fun _ a b _ => x a b⟩ s := by
  simp only [State.intBinary, intResult_eq_narrow, asInt_eq_number]
  rfl

theorem execImad_eq_intRun (f : ExtForm) (s : State) : execImad f s = intRun ⟨f, 3, true, fun _ a b c => a * b + c⟩ s := by
  simp only [execImad, intResult_eq_narrow, asInt_eq_number]
  rfl

theorem execImulh_eq_intRun (f : ExtForm) (s : State) : execImulh f s = intRun ⟨f, 2, false, fun w a b _ => a * b / 2 ^ w⟩ s := by
  simp only [execImulh, wrap_eq_ofInt, asInt_eq_number]
  rfl

theorem runsValue_intRun (r : IntRule) (s : State) : RunsValue (intRun r s) s r.f r.use (words r.f 1) (fun s _ => r.value s) :=
  runsValue_self ..

/-- R116: a choice between the operands is the operand whose number is chosen, in the bits of the type. -/
theorem runsValue_choice {f : ExtForm} {s : State} {x : Nat → Nat → Nat} {y : Int → Int → Int}
    (hchoice : ∀ a b, asInt (typeOf f 1) (x a b) = y (asInt (typeOf f 1) a) (asInt (typeOf f 1) b)) :
    RunsValue (s.binary f (typeOf f 1) x) s f (uses2 (words f 1) (words f 1) (words f 1)) (words f 1)
      (fun s _ => IntRule.value ⟨f, 2, false, fun _ a b _ => y a b⟩ s) := by
  refine ⟨fun s _ k => x (s.opA f (typeOf f 1) k) (s.opB f (typeOf f 1) k), rfl, fun act k => mod_words ?_⟩
  simp only [IntRule.value, Bool.false_and, ← asInt_eq_number, ← hchoice]
  rw [asInt_eq_number, narrow_number, Nat.mod_mod]

theorem execImin_runs (f : ExtForm) (s : State) : RunsValue (execImin f s) s f (uses2 (words f 1) (words f 1) (words f 1)) (words f 1)
    (fun s _ => IntRule.value ⟨f, 2, false, fun _ a b _ => min a b⟩ s) := by
  rw [execImin]
  exact runsValue_choice fun a b => by split <;> omega

theorem execImax_runs (f : ExtForm) (s : State) : RunsValue (execImax f s) s f (uses2 (words f 1) (words f 1) (words f 1)) (words f 1)
    (fun s _ => IntRule.value ⟨f, 2, false, fun _ a b _ => max a b⟩ s) := by
  rw [execImax]
  exact runsValue_choice fun a b => by split <;> omega

/-- R116: every integer instruction computes the value of its rule. -/
theorem isInt_value {i : Instr} {r : IntRule} (h : IsInt i r) (s : State) :
    RunsValue (exec i s) s r.f r.use (words r.f 1) (fun s _ => r.value s) := by
  cases h with
  | iadd g => rw [Laws.exec_iadd, execIadd, intAdd, intBinary_eq_intRun]; exact runsValue_intRun ..
  | iaddX f => rw [Laws.exec_iaddX, execIaddX, intAdd, intBinary_eq_intRun]; exact runsValue_intRun ..
  | isub g => rw [Laws.exec_isub, execIsub, intSub, intBinary_eq_intRun]; exact runsValue_intRun ..
  | isubX f => rw [Laws.exec_isubX, execIsubX, intSub, intBinary_eq_intRun]; exact runsValue_intRun ..
  | imul g => rw [Laws.exec_imul, execImul, intMul, intBinary_eq_intRun]; exact runsValue_intRun ..
  | imulX f => rw [Laws.exec_imulX, execImulX, intMul, intBinary_eq_intRun]; exact runsValue_intRun ..
  | imad f => rw [Laws.exec_imad, execImad_eq_intRun]; exact runsValue_intRun ..
  | imulh f => rw [Laws.exec_imulh, execImulh_eq_intRun]; exact runsValue_intRun ..
  | imin f => rw [Laws.exec_imin]; exact execImin_runs f s
  | imax f => rw [Laws.exec_imax]; exact execImax_runs f s
  | iabs f => rw [Laws.exec_iabs, execIabs, intUnary_eq_intRun]; exact runsValue_intRun ..
  | ineg f => rw [Laws.exec_ineg, execIneg, intUnary_eq_intRun]; exact runsValue_intRun ..

/-! ### Numbers bit by bit (R118) -/

theorem ofBits_succ (w : Nat) (x : Nat → Bool) : ofBits (w + 1) x = ofBits w x + (x w).toNat * 2 ^ w := by
  rw [ofBits, List.range_succ, List.foldl_append]
  cases hbit : x w <;> simp [ofBits, hbit]

theorem buildBits_eq_ofBits (x : Nat → Bool) (w : Nat) : buildBits x w = ofBits w x := by
  induction w with
  | zero => rfl
  | succ w ih => rw [buildBits, ofBits_succ, ih]

theorem ofBits_congr {w : Nat} {x y : Nat → Bool} (h : ∀ j, j < w → x j = y j) : ofBits w x = ofBits w y := by
  induction w with
  | zero => rfl
  | succ w ih => rw [ofBits_succ, ofBits_succ, ih fun j hj => h j (by omega), h w (by omega)]

theorem ofBits_lt (w : Nat) (x : Nat → Bool) : ofBits w x < 2 ^ w := by
  induction w with
  | zero => simp [ofBits]
  | succ w ih =>
    have hbit : (x w).toNat * 2 ^ w ≤ 1 * 2 ^ w := Nat.mul_le_mul_right _ (Bool.toNat_le _)
    rw [ofBits_succ, pow_succ]
    omega

/-- The bits of a number built bit by bit. -/
theorem testBit_ofBits (w : Nat) (x : Nat → Bool) (j : Nat) : (ofBits w x).testBit j = (decide (j < w) && x j) := by
  induction w with
  | zero => simp [ofBits]
  | succ w ih =>
    have hsplit : ofBits (w + 1) x = 2 ^ w * (x w).toNat + ofBits w x := by rw [ofBits_succ]; ring
    rw [hsplit, Nat.testBit_two_pow_mul_add _ (ofBits_lt w x)]
    rcases lt_trichotomy j w with hlt | rfl | hgt
    · simp [hlt, ih, Nat.lt_succ_of_lt hlt]
    · cases x j <;> simp
    · have hzero : ((x w).toNat).testBit (j - w) = false := Nat.testBit_lt_two_pow
        (lt_of_le_of_lt (Bool.toNat_le _) (Nat.one_lt_two_pow (by omega)))
      simp [Nat.not_lt.2 hgt.le, hzero, show ¬ j < w + 1 by omega]

/-- A number below a power is the one of its own bits. -/
theorem ofBits_testBit (w n : Nat) : ofBits w n.testBit = n % 2 ^ w := by
  refine Nat.eq_of_testBit_eq fun j => ?_
  rw [testBit_ofBits, Nat.testBit_mod_two_pow]

/-! ### Logic (R118) -/

theorem notOf_eq (w a : Nat) : notOf w a = (~~~ BitVec.ofNat w a).toNat := by
  rw [notOf, BitVec.toNat_not, BitVec.toNat_ofNat]

/-- R118: three bits and a table of eight. -/
theorem bfn3_eq (w : Nat) (m : BitVec 10) (a b c : Nat) : bfn3 w (bits m.toNat 0 8) a b c =
    ofBits w (fun j => m.getLsbD ((a.testBit j).toNat + 2 * (b.testBit j).toNat + 4 * (c.testBit j).toNat)) := by
  rw [bfn3, buildBits_eq_ofBits]
  refine ofBits_congr fun j _ => ?_
  have ha := Bool.toNat_le (a.testBit j)
  have hb := Bool.toNat_le (b.testBit j)
  have hc := Bool.toNat_le (c.testBit j)
  simp only [bitOf, bits, Nat.shiftRight_zero, Nat.testBit_mod_two_pow]
  rw [decide_eq_true (by omega), Bool.true_and]
  rfl

/-! ### Shifts (R119) -/

theorem shlOf_eq (w a k : Nat) : shlOf w a k = (BitVec.ofNat w a <<< k).toNat := by
  rw [shlOf, BitVec.toNat_shiftLeft, BitVec.toNat_ofNat, Nat.shiftLeft_eq, Nat.mod_mul_mod]
  split
  · next hle => exact (Nat.mod_eq_zero_of_dvd ((pow_dvd_pow 2 hle).mul_left a)).symm
  · rfl

theorem shrOf_eq (w a k : Nat) : shrOf w a k = (BitVec.ofNat w a >>> k).toNat := by
  rw [shrOf, BitVec.toNat_ushiftRight, BitVec.toNat_ofNat, Nat.shiftRight_eq_div_pow]
  split
  · next hle => exact (Nat.div_eq_of_lt (lt_of_lt_of_le (Nat.mod_lt _ (by positivity)) (Nat.pow_le_pow_right (by decide) hle))).symm
  · rfl

/-- R119: a number of `w` bits shifted right by `w` or more is its sign. -/
theorem shiftRight_toInt_of_le {w k : Nat} (x : BitVec w) (h : w ≤ k) : x.toInt >>> k = x.toInt / 2 ^ w := by
  have hlow := BitVec.le_toInt x
  have hhigh := BitVec.toInt_lt (x := x)
  have hw : (2 : Int) ^ (w - 1) ≤ 2 ^ w := pow_le_pow_right₀ (by decide) (by omega)
  have hk : (2 : Int) ^ w ≤ 2 ^ k := pow_le_pow_right₀ (by decide) h
  rw [Int.shiftRight_eq_div_pow]
  push_cast
  rcases lt_or_ge x.toInt 0 with hneg | hpos
  · rw [Int.ediv_eq_neg_one_of_neg_of_le hneg (by omega), Int.ediv_eq_neg_one_of_neg_of_le hneg (by omega)]
  · rw [Int.ediv_eq_zero_of_lt hpos (by omega), Int.ediv_eq_zero_of_lt hpos (by omega)]

theorem sarOf_eq (w a k : Nat) :
    sarOf w a k = ((BitVec.ofNat w a).sshiftRight k).toNat := by
  rw [sarOf, signed_eq_toInt, wrap_eq_ofInt, BitVec.sshiftRight]
  rcases le_total w k with h | h
  · rw [shiftRight_toInt_of_le _ h, min_eq_right h]
  · rw [Int.shiftRight_eq_div_pow, min_eq_left h]
    push_cast
    rfl

/-- R119: the bits that leave at the top come in below. -/
theorem rotOf_eq {w : Nat} (hw : 0 < w) (a k : Nat) : rotOf w a k = ((BitVec.ofNat w a).rotateLeft k).toNat := by
  have hk : k % w < w := Nat.mod_lt k hw
  set r := k % w with hr
  set y := a % 2 ^ w with hy
  have hylt : y < 2 ^ w := Nat.mod_lt _ (by positivity)
  have hpow : 2 ^ w = 2 ^ (w - r) * 2 ^ r := by rw [← pow_add]; congr 1; omega
  have hhigh : y * 2 ^ r % 2 ^ w = (y % 2 ^ (w - r)) <<< r := by rw [Nat.shiftLeft_eq, hpow, Nat.mul_mod_mul_right]
  have hlow : y / 2 ^ (w - r) < 2 ^ r := Nat.div_lt_of_lt_mul (hpow ▸ hylt)
  rw [rotOf, BitVec.toNat_rotateLeft, BitVec.toNat_ofNat, ← hr, ← hy, Nat.shiftLeft_eq, Nat.shiftRight_eq_div_pow, hhigh,
    Nat.shiftLeft_add_eq_or_of_lt hlow]

/-! ### Counts of bits (R119) -/

theorem popcOf_eq (x w : Nat) : popcOf x w = ((List.range w).filter x.testBit).length := by
  induction w with
  | zero => rfl
  | succ w ih =>
    rw [popcOf, ih, List.range_succ, List.filter_append, List.length_append]
    cases hbit : x.testBit w <;> simp [bitOf, hbit]

/-- R119: zeros from the top down to the first bit that is set. -/
theorem clzOf_eq (x w : Nat) : clzOf x w = ((List.range w).reverse.takeWhile (fun j => !x.testBit j)).length := by
  induction w with
  | zero => simp [clzOf, Nat.mod_one]
  | succ w ih =>
    have hmod : x % 2 ^ (w + 1) = x % 2 ^ w + 2 ^ w * (x.testBit w).toNat := by
      rw [Nat.mod_pow_succ, Nat.toNat_testBit]
    have hlt : x % 2 ^ w < 2 ^ w := Nat.mod_lt _ (by positivity)
    rw [List.range_succ, List.reverse_append, List.reverse_singleton, List.singleton_append]
    cases hbit : x.testBit w with
    | true =>
      have hlog : (x % 2 ^ (w + 1)).log2 = w := (Nat.log2_eq_iff (by rw [hmod, hbit]; simp)).2 ⟨by
        rw [hmod, hbit]; simp, Nat.mod_lt _ (by positivity)⟩
      rw [List.takeWhile_cons_of_neg (by simp [hbit]), clzOf, if_neg (by rw [hmod, hbit]; simp), hlog]
      simp
    | false =>
      have hsame : x % 2 ^ (w + 1) = x % 2 ^ w := by rw [hmod, hbit]; simp
      rw [List.takeWhile_cons_of_pos (by simp [hbit]), List.length_cons, ← ih, clzOf, clzOf, hsame]
      split
      · rfl
      · next hne =>
        have hlog : (x % 2 ^ w).log2 < w := (Nat.log2_lt hne).2 hlt
        omega

theorem brevOf_eq (x w : Nat) : brevOf x w = (BitVec.ofNat w x).reverse.toNat := by
  rw [brevOf, buildBits_eq_ofBits]
  refine Nat.eq_of_testBit_eq fun j => ?_
  rw [testBit_ofBits, ← BitVec.getLsbD, BitVec.getLsbD_reverse, BitVec.getMsbD_eq_getLsbD]
  rcases Nat.lt_or_ge j w with h | h
  · simp only [BitVec.getLsbD_ofNat, bitOf, h, show w - 1 - j < w by omega, decide_true, Bool.true_and]
  · simp [Nat.not_lt.2 h]

/-! ### Bit fields (R120) -/

theorem sextTo_eq_signExtend (l w x : Nat) : sextTo l w x = ((BitVec.ofNat l x).signExtend w).toNat := by
  rw [sextTo, signed_eq_toInt, wrap_eq_ofInt, BitVec.signExtend]

/-- R120: the field of a number, extended as the type says. -/
theorem bfeOf_eq (ty a b : Nat) : bfeOf ty a b =
    (let x := BitVec.ofNat (clip (b % 256) (b / 256 % 256) (widthOf ty)) (a >>> (b % 256))
     if ty = 1 || ty = 3 then (x.signExtend (widthOf ty)).toNat else x.toNat) := by
  have hp : bits b 0 8 = b % 256 := by simp [bits]
  have hl : fieldLen (b % 256) (bits b 8 8) (widthOf ty) = clip (b % 256) (b / 256 % 256) (widthOf ty) := by
    rw [bits_eq_div_mod]
    rfl
  have hfield (l : Nat) : BitVec.ofNat l (bits a (b % 256) l) = BitVec.ofNat l (a >>> (b % 256)) := by
    simp [bits, ← BitVec.toNat_inj]
  simp only [bfeOf, hp, hl, isSignedTy]
  generalize clip (b % 256) (b / 256 % 256) (widthOf ty) = l
  rw [sextTo_eq_signExtend, hfield]
  by_cases hzero : l = 0
  · subst hzero
    simp [BitVec.of_length_zero (x := BitVec.ofNat 0 _), BitVec.signExtend]
  · rw [if_neg hzero]
    rfl

/-- The bits of a number with a field replaced. -/
theorem testBit_setBits (x lo w v j : Nat) :
    (setBits x lo w v).testBit j = if lo ≤ j ∧ j < lo + w then v.testBit (j - lo) else x.testBit j := by
  have hlow : x % 2 ^ lo < 2 ^ lo := Nat.mod_lt _ (by positivity)
  have hmid : v % 2 ^ w < 2 ^ w := Nat.mod_lt _ (by positivity)
  have hx : x = 2 ^ lo * (2 ^ w * (x / 2 ^ lo / 2 ^ w) + x / 2 ^ lo % 2 ^ w) + x % 2 ^ lo := by
    rw [Nat.div_add_mod, Nat.div_add_mod]
  have hset : setBits x lo w v = 2 ^ lo * (2 ^ w * (x / 2 ^ lo / 2 ^ w) + v % 2 ^ w) + x % 2 ^ lo := by
    rw [setBits, bits_eq_div_mod]
    conv_lhs => enter [1, 1]; rw [hx]
    rw [mul_add, mul_add, mul_comm (x / 2 ^ lo % 2 ^ w), mul_comm (v % 2 ^ w)]
    omega
  rw [hset, Nat.testBit_two_pow_mul_add _ hlow]
  rcases Nat.lt_or_ge j lo with hlt | hle
  · simp [hlt, Nat.not_le.2 hlt]
  rw [if_neg (Nat.not_lt.2 hle), Nat.testBit_two_pow_mul_add _ hmid]
  rcases Nat.lt_or_ge (j - lo) w with hin | hout
  · rw [if_pos hin, if_pos (by omega), Nat.testBit_mod_two_pow, decide_eq_true hin, Bool.true_and]
  · rw [if_neg (Nat.not_lt.2 hout), if_neg (by omega), Nat.testBit_div_two_pow, Nat.testBit_div_two_pow]
    congr 1
    omega

theorem bfiOf_eq (ty a b c : Nat) : bfiOf ty a b c % 2 ^ widthOf ty =
    ofBits (widthOf ty) (fun j => if b % 256 ≤ j && j < b % 256 + clip (b % 256) (b / 256 % 256) (widthOf ty)
      then a.testBit (j - b % 256) else c.testBit j) := by
  have hp : bits b 0 8 = b % 256 := by simp [bits]
  have hl : fieldLen (b % 256) (bits b 8 8) (widthOf ty) = clip (b % 256) (b / 256 % 256) (widthOf ty) := by
    rw [bits_eq_div_mod]
    rfl
  rw [bfiOf, hp, hl, ← ofBits_testBit]
  refine ofBits_congr fun j _ => ?_
  rw [testBit_setBits]
  simp only [Bool.and_eq_true, decide_eq_true_eq]

/-! ### Logic, shifts and bit fields as their rules say -/

variable {f : ExtForm} {s : State}

theorem runsValue_two {x : Nat → Nat → Nat} {y : (w : Nat) → BitVec w → BitVec w → BitVec w}
    (h : ∀ w a b, x a b % 2 ^ w = (y w (BitVec.ofNat w a) (BitVec.ofNat w b)).toNat) :
    RunsValue (s.binary f (typeOf f 5) x) s f (BitRule.two f y).u (BitRule.two f y).regs (fun s _ => (BitRule.two f y).result s) :=
  ⟨_, rfl, fun _ _ => mod_words ((h ..).trans (Nat.mod_eq_of_lt (BitVec.isLt _)).symm)⟩

theorem runsValue_one {x : Nat → Nat} {y : (w : Nat) → BitVec w → BitVec w}
    (h : ∀ a, x a = (y (widthOf (typeOf f 5)) (BitVec.ofNat _ a)).toNat) :
    RunsValue (s.unary f (typeOf f 5) x) s f (BitRule.one f y).u (BitRule.one f y).regs (fun s _ => (BitRule.one f y).result s) :=
  ⟨_, rfl, fun _ k => congrArg (· % _) (h (s.opA f (typeOf f 5) k))⟩

theorem runsValue_shift {x : Nat → Nat → Nat} {y : (w : Nat) → BitVec w → Nat → BitVec w}
    (h : ∀ a b, x a b = (y (widthOf (typeOf f 5)) (BitVec.ofNat _ a) b).toNat) :
    RunsValue (s.shift f (typeOf f 5) x) s f (BitRule.shift f y).u (BitRule.shift f y).regs (fun s _ => (BitRule.shift f y).result s) :=
  ⟨_, rfl, fun _ k => congrArg (· % _) (h (s.opA f (typeOf f 5) k) (s.opB f 5 k))⟩

theorem bitsAnd_runs (f : ExtForm) (s : State) : RunsValue (bitsAnd f s) s f (BitRule.two f (fun _ a b => a &&& b)).u (words f 5)
    (fun s _ => (BitRule.two f (fun _ a b => a &&& b)).result s) := by
  rw [bitsAnd]
  exact runsValue_two fun w a b => by simp only [BitVec.toNat_and, BitVec.toNat_ofNat, Nat.and_mod_two_pow]

theorem bitsOr_runs (f : ExtForm) (s : State) : RunsValue (bitsOr f s) s f (BitRule.two f (fun _ a b => a ||| b)).u (words f 5)
    (fun s _ => (BitRule.two f (fun _ a b => a ||| b)).result s) := by
  rw [bitsOr]
  exact runsValue_two fun w a b => by simp only [BitVec.toNat_or, BitVec.toNat_ofNat, Nat.or_mod_two_pow]

theorem bitsXor_runs (f : ExtForm) (s : State) : RunsValue (bitsXor f s) s f (BitRule.two f (fun _ a b => a ^^^ b)).u (words f 5)
    (fun s _ => (BitRule.two f (fun _ a b => a ^^^ b)).result s) := by
  rw [bitsXor]
  exact runsValue_two fun w a b => by simp only [BitVec.toNat_xor, BitVec.toNat_ofNat, Nat.xor_mod_two_pow]

theorem bitsNot_runs (f : ExtForm) (s : State) : RunsValue (bitsNot f s) s f (BitRule.one f (fun _ a => ~~~ a)).u (words f 5)
    (fun s _ => (BitRule.one f (fun _ a => ~~~ a)).result s) := by
  rw [bitsNot]
  exact runsValue_one fun a => notOf_eq _ a

theorem bitsShl_runs (f : ExtForm) (s : State) : RunsValue (bitsShl f s) s f (BitRule.shift f (fun _ a k => a <<< k)).u (words f 5)
    (fun s _ => (BitRule.shift f (fun _ a k => a <<< k)).result s) := by
  rw [bitsShl]
  exact runsValue_shift fun a b => shlOf_eq _ a b

theorem bitsShr_runs (f : ExtForm) (s : State) : RunsValue (bitsShr f s) s f (BitRule.shift f (fun _ a k => a >>> k)).u (words f 5)
    (fun s _ => (BitRule.shift f (fun _ a k => a >>> k)).result s) := by
  rw [bitsShr]
  exact runsValue_shift fun a b => shrOf_eq _ a b

theorem bitsSar_runs (f : ExtForm) (s : State) : RunsValue (bitsSar f s) s f (BitRule.shift f (fun _ a k => a.sshiftRight k)).u (words f 5)
    (fun s _ => (BitRule.shift f (fun _ a k => a.sshiftRight k)).result s) := by
  rw [bitsSar]
  exact runsValue_shift fun a b => sarOf_eq _ a b

theorem bitsRot_runs (f : ExtForm) (s : State) : RunsValue (bitsRot f s) s f (BitRule.shift f (fun _ a k => a.rotateLeft k)).u (words f 5)
    (fun s _ => (BitRule.shift f (fun _ a k => a.rotateLeft k)).result s) := by
  rw [bitsRot]
  exact runsValue_shift fun a b => rotOf_eq (widthOf_pos _) a b

/-- R118 to R120: every instruction on bits computes the result of its rule. -/
theorem isBit_value {i : Instr} {r : BitRule} (h : IsBit i r) (s : State) : RunsValue (exec i s) s r.f r.u r.regs (fun s _ => r.result s) := by
  cases h with
  | and g => rw [Laws.exec_and, execAnd]; exact bitsAnd_runs ..
  | andX f => rw [Laws.exec_andX, execAndX]; exact bitsAnd_runs ..
  | or g => rw [Laws.exec_or, execOr]; exact bitsOr_runs ..
  | orX f => rw [Laws.exec_orX, execOrX]; exact bitsOr_runs ..
  | xor g => rw [Laws.exec_xor, execXor]; exact bitsXor_runs ..
  | xorX f => rw [Laws.exec_xorX, execXorX]; exact bitsXor_runs ..
  | not g => rw [Laws.exec_not, execNot]; exact bitsNot_runs ..
  | notX f => rw [Laws.exec_notX, execNotX]; exact bitsNot_runs ..
  | bfn3 f => rw [Laws.exec_bfn3, execBfn3, State.ternary]; exact ⟨_, rfl, fun _ k => congrArg (· % _) (bfn3_eq _ f.mods _ _ _)⟩
  | shl g => rw [Laws.exec_shl, execShl]; exact bitsShl_runs ..
  | shlX f => rw [Laws.exec_shlX, execShlX]; exact bitsShl_runs ..
  | shr g => rw [Laws.exec_shr, execShr]; exact bitsShr_runs ..
  | shrX f => rw [Laws.exec_shrX, execShrX]; exact bitsShr_runs ..
  | sar g => rw [Laws.exec_sar, execSar]; exact bitsSar_runs ..
  | sarX f => rw [Laws.exec_sarX, execSarX]; exact bitsSar_runs ..
  | rot g => rw [Laws.exec_rot, execRot]; exact bitsRot_runs ..
  | rotX f => rw [Laws.exec_rotX, execRotX]; exact bitsRot_runs ..
  | popc f => rw [Laws.exec_popc, execPopc]; exact ⟨_, rfl, fun _ k => congrArg (· % _) (popcOf_eq _ _)⟩
  | clz f => rw [Laws.exec_clz, execClz]; exact ⟨_, rfl, fun _ k => congrArg (· % _) (clzOf_eq _ _)⟩
  | brev f => rw [Laws.exec_brev, execBrev]; exact runsValue_one fun a => brevOf_eq a _
  | bfe f => rw [Laws.exec_bfe, execBfe, State.shift]; exact ⟨_, rfl, fun _ k => congrArg (· % _) (bfeOf_eq _ _ _)⟩
  | bfi f => rw [Laws.exec_bfi, execBfi]; exact ⟨_, rfl, fun _ k => mod_words ((bfiOf_eq ..).trans (Nat.mod_eq_of_lt (ofBits_lt ..)).symm)⟩

/-! ### Byte permutes and address sums (R123) -/

theorem nth_lt {b d : Nat} {l : List Nat} (hd : d < b) (h : ∀ x ∈ l, x < b) (n : Nat) : nth d l n < b := by
  induction l generalizing n with
  | nil => exact hd
  | cons x xs ih =>
    cases n with
    | zero => exact h x List.mem_cons_self
    | succ n => exact ih (fun y hy => h y (List.mem_cons_of_mem x hy)) n

/-- R94: an inline constant of type `.b32` is a word. -/
theorem inlineConst_lt (k : Nat) : inlineConst k 5 < 2 ^ 32 := by
  unfold inlineConst
  split
  · exact (wrap_eq_ofInt 32 _) ▸ BitVec.isLt _
  · exact nth_lt (by decide) (by decide) _

/-- R91: an operand of one register is a word. -/
theorem read_lt (g : Group) (n k : Nat) : g.read 5 n k < 2 ^ 32 := by
  have hwide : isWide 5 = false := rfl
  unfold Group.read
  simp only [hwide, Bool.false_eq_true, if_false, Nat.add_zero]
  split_ifs
  · exact BitVec.isLt _
  · exact BitVec.isLt _
  · decide
  · exact BitVec.isLt _
  · exact BitVec.isLt _
  · decide
  · exact inlineConst_lt _

theorem bits_pair {a : Nat} (ha : a < 2 ^ 32) (b : Nat) {m : Nat} (hm : m < 8) :
    bits (b % 2 ^ 32 * 2 ^ 32 + a % 2 ^ 32) (8 * m) 8 = (b * 2 ^ 32 + a) / 2 ^ (8 * m) % 256 := by
  have hpair : b % 2 ^ 32 * 2 ^ 32 + a % 2 ^ 32 = (b * 2 ^ 32 + a) % 2 ^ 64 := by omega
  have hdvd : 2 ^ (8 * m) * 2 ^ 8 ∣ 2 ^ 64 := by rw [← pow_add]; exact pow_dvd_pow 2 (by omega)
  rw [bits_eq_div_mod, hpair, ← Nat.mod_mul_right_div_self, Nat.mod_mod_of_dvd _ hdvd, Nat.mod_mul_right_div_self]
  rfl

theorem bitOf_seven {y : Nat} (hy : y < 256) : bitOf y 7 = decide (128 ≤ y) := by
  rw [bitOf, Nat.testBit_eq_decide_div_mod_eq]
  exact decide_eq_decide.2 (by omega)

/-- R123: a byte of the pair by its selector. -/
theorem permByte_eq {a : Nat} (ha : a < 2 ^ 32) (b c j : Nat) :
    Machine.permByte (b % 2 ^ 32 * 2 ^ 32 + a % 2 ^ 32) c j = Rules.permByte a b (c / 2 ^ (4 * j)) := by
  have hsel : bits c (4 * j) 4 = c / 2 ^ (4 * j) % 16 := bits_eq_div_mod ..
  have hplace : c / 2 ^ (4 * j) % 16 % 8 = c / 2 ^ (4 * j) % 8 := Nat.mod_mod_of_dvd _ (by decide)
  simp only [Machine.permByte, Rules.permByte, hsel, hplace, bits_pair ha b (Nat.mod_lt _ (by decide : 0 < 8)),
    bitOf_seven (Nat.mod_lt _ (by decide : 0 < 256)), decide_eq_true_eq]

theorem permOf_eq {a : Nat} (ha : a < 2 ^ 32) (b c : Nat) : permOf a b c =
    Rules.permByte a b c + Rules.permByte a b (c / 16) * 2 ^ 8 + Rules.permByte a b (c / 2 ^ 8) * 2 ^ 16 +
      Rules.permByte a b (c / 2 ^ 12) * 2 ^ 24 := by
  simp only [permOf, permByte_eq ha, Nat.mul_zero, pow_zero, Nat.div_one]
  rfl

/-- R123: the index is extended to 64 bits as the type says. -/
theorem leaOf_eq (ty sh a b : Nat) : leaOf ty sh a b = (BitVec.ofNat (widthOf ty)
    (a + (if ty = 3 then (BitVec.ofNat 32 b).signExtend 64 else (BitVec.ofNat 32 b).zeroExtend 64 : BitVec 64).toNat * 2 ^ sh)).toNat := by
  rw [leaOf, BitVec.toNat_ofNat]
  split
  · rw [sextTo_eq_signExtend]
  · rw [BitVec.toNat_setWidth, BitVec.toNat_ofNat, Nat.mod_eq_of_lt (a := b % 2 ^ 32) (by omega)]

theorem loadAddress_runs (f : ExtForm) (s : State) :
    RunsValue (loadAddress f s) s f (leaRule f).u (leaRule f).regs (leaRule f).value := by
  have hshift : bits f.mods.toNat 0 3 = f.mods.toNat % 8 := rfl
  rw [loadAddress, hshift]
  exact ⟨_, rfl, fun _ k => congrArg (· % _) (leaOf_eq (typeOf f 2) (f.mods.toNat % 8) (s.opA f (typeOf f 2) k) (s.opB f 5 k))⟩

/-- R123: permutes and address sums compute the value of their rules. -/
theorem isPermute_value {i : Instr} {r : MoveRule} (h : IsPermute i r) (s : State) : RunsValue (exec i s) s r.f r.u r.regs r.value := by
  cases h with
  | perm f => rw [Laws.exec_perm, execPerm]; exact ⟨_, rfl, fun _ k => congrArg (· % _) (permOf_eq (read_lt _ _ _) (s.opB f 5 k) (s.opC f 5 k))⟩
  | lea g => rw [Laws.exec_lea, execLea]; exact loadAddress_runs ..
  | leaX f => rw [Laws.exec_leaX, execLeaX]; exact loadAddress_runs ..

/-! ### Conversions, reductions, scans and special registers (R111, R132 to R136, R162, R163, R176, R330) -/

/-- R132: to and from floating formats through the exact value, between integers through the integer. -/
theorem cvtOf_eq_value (f : ExtForm) (s : State) (act : Lanes) (k : Nat) :
    cvtOf (typeOf f 6) (cvtSource f) (roundMod f) (satMod f) (s.opA f (cvtSource f) k) = (cvtRule f).value s act k := by
  simp only [cvtOf, cvtRule, cvtSource_eq, asInt_eq_number, intResult_eq_narrow]
  rfl

theorem convert_runs (f : ExtForm) (s : State) : RunsValue (convert f s) s f (cvtRule f).u (cvtRule f).regs (cvtRule f).value := by
  have hsource : (cvtRule f).u = { d := fpDst (wordsOfTy (typeOf f 6)), a := fpSrc (wordsOfTy (cvtSource f)) } := by
    rw [cvtSource_eq]
    rfl
  rw [convert, hsource]
  exact ⟨_, rfl, fun act k => congrArg (· % _) (cvtOf_eq_value f _ act k)⟩

theorem pack_runs (f : ExtForm) (s : State) : RunsValue (pack f s) s f (cpackRule f).u (cpackRule f).regs (cpackRule f).value := by
  have htype : (if packInteger f then typeOf f 8 else 6) = if typeOf f 8 ≤ 2 then typeOf f 8 else 6 := by
    simp only [packInteger, decide_eq_true_eq]
  rw [pack, htype]
  exact runsValue_self ..

theorem groupReduce_runs (f : ExtForm) (s : State) :
    RunsValue (groupReduce f s) s f (gredRule f).u (gredRule f).regs (gredRule f).value := by
  rw [groupReduce, bits_eq_div_mod]
  exact runsValue_self ..

theorem groupScan_runs (f : ExtForm) (s : State) :
    RunsValue (groupScan f s) s f (gscanRule f).u (gscanRule f).regs (gscanRule f).value := by
  rw [groupScan, bits_eq_div_mod]
  exact runsValue_self ..

/-- R111, R132 to R136, R162, R163, R176, R330: each computes the value of its rule. -/
theorem isValue_value {i : Instr} {r : ValueRule} (h : IsValue i r) (s : State) : RunsValue (exec i s) s r.f r.u r.regs r.value := by
  cases h with
  | cvt g => rw [Laws.exec_cvt, execCvt]; exact convert_runs ..
  | cvtX f => rw [Laws.exec_cvtX, execCvtX]; exact convert_runs ..
  | cpack g => rw [Laws.exec_cpack, execCpack]; exact pack_runs ..
  | cpackX f => rw [Laws.exec_cpackX, execCpackX]; exact pack_runs ..
  | cunpk g => rw [Laws.exec_cunpk, execCunpk, unpack]; exact runsValue_self ..
  | cunpkX f => rw [Laws.exec_cunpkX, execCunpkX, unpack]; exact runsValue_self ..
  | gred g => rw [Laws.exec_gred, execGred]; exact groupReduce_runs ..
  | gredX f => rw [Laws.exec_gredX, execGredX]; exact groupReduce_runs ..
  | gscan g => rw [Laws.exec_gscan, execGscan]; exact groupScan_runs ..
  | gscanX f => rw [Laws.exec_gscanX, execGscanX]; exact groupScan_runs ..
  | srd f => rw [Laws.exec_srd, execSrd]; exact runsValue_self ..
  | pmrd f => rw [Laws.exec_pmrd, execPmrd]; exact runsValue_self ..
  | ttest f => rw [Laws.exec_ttest, execTtest]; exact runsValue_self ..

end Values

/-- Settles O21: past its gate each integer instruction writes the value of its rule. -/
theorem integerResults : Obligations.IntegerResults :=
  fun _ _ s h hclear hsome => computes_of_runsValue (isInt_value h s) hclear hsome

/-- Settles O22: past its gate each instruction on bits writes the result of its rule. -/
theorem bitResults : Obligations.BitResults :=
  fun _ _ s h hclear hsome => computes_of_runsValue (isBit_value h s) hclear hsome

/-- Settles O24: past its gate each of them writes the value of its rule. -/
theorem permuteResults : Obligations.PermuteResults :=
  fun _ _ s h hclear hsome => computes_of_runsValue (isPermute_value h s) hclear hsome

/-- Settles O28: past its gate each of them writes the value of its rule. -/
theorem valueResults : Obligations.ValueResults :=
  fun _ _ s h hclear hsome => computes_of_runsValue (isValue_value h s) hclear hsome

end Sys2Proof.Proofs

/-! Control flow (R117, R122, R145 to R154), fences, the register allotment, `csync` and `gsync` (R105, R110, R238, R239, R327, R329), and
writes of special registers (R111, R185, R205, R220, R292, R303, R307): the state that each leaves past its gate, where its condition holds. -/

namespace Sys2Proof.Proofs

open Sys2Proof Sys2Proof.Machine Sys2Proof.Rules

section Acting

variable {i : Instr} {r : Act}

/-! ### From a meaning to the state it leaves -/

/-- A checked instruction whose condition leaves it no cause. -/
theorem acts_of_checked {chk : State → Lanes → State → Sparse Nat} {act : State → Lanes → State → State}
    (hexec : ∀ s, exec i s = s.checked r.f r.u (chk s) (act s)) (hsound : ∀ s, r.when s (s.active r.f) → chk s (s.active r.f) s = [])
    (hnext : ∀ s, SomeActive s r.f → r.when s (s.active r.f) → act s (s.active r.f) s = r.next s (s.active r.f)) : Acts i r :=
  fun s hclear hsome hwhen => by rw [hexec, Laws.checked_clear hclear _ _ (hsound s hwhen), hnext s hsome hwhen]

theorem acts_of_instr {act : Lanes → State → State} (hexec : ∀ s, exec i s = s.instr r.f r.u act)
    (hnext : ∀ s, r.when s (s.active r.f) → act (s.active r.f) s = r.next s (s.active r.f)) : Acts i r :=
  fun s hclear hsome hwhen => by rw [hexec, Laws.instr_clear hclear hsome act, hnext s hwhen]

/-- An instruction that needs no more than its gate, and whose rule is its meaning. -/
theorem acts_of_instr_self (hexec : ∀ s, exec i s = s.instr r.f r.u (fun act s => r.next s act)) : Acts i r :=
  acts_of_instr hexec fun _ _ => rfl

/-- An access that no fence holds, without causes of its own. -/
theorem acts_of_access {act : Lanes → State → State} (hexec : ∀ s, exec i s = s.access r.f r.u (fun _ _ => []) act)
    (hfence : ∀ s, r.when s (s.active r.f) → s.fenced = false)
    (hnext : ∀ s, r.when s (s.active r.f) → act (s.active r.f) s = r.next s (s.active r.f)) : Acts i r :=
  fun s hclear hsome hwhen => by rw [hexec, Laws.access_clear hclear hsome (hfence s hwhen) _ act rfl, hnext s hwhen]

/-! ### Branches (R145, R146) -/

theorem signed_word_mod_four {x : Nat} (h : x % 4 = 0) : signed 32 x % 4 = 0 := by
  simp only [signed]
  split <;> omega

/-- R146: a displacement of whole words. -/
theorem branch_acts {link : Bool} {f : ExtForm} (hexec : ∀ s, exec i s = branchBy link f s) : Acts i (branchAct link f) := by
  simp only [branchBy] at hexec
  refine acts_of_checked hexec (fun s hwhen => if_pos (signed_word_mod_four hwhen)) fun s _ _ => ?_
  simp only [branchAct, ← Laws.signed_toInt]
  rfl

/-- R146: targets within reach, each of whole words. -/
theorem indirect_acts {f : ExtForm} (hexec : ∀ s, exec i s = branchIndirect f s) : Acts i (indirectAct f) := by
  refine acts_of_checked hexec (fun s hwhen => Laws.laneCauses_nil fun k hk hactive => ?_) fun s _ _ => rfl
  obtain ⟨haligned, hreach⟩ := hwhen k hk hactive
  rw [targetCause, if_neg (not_not_intro haligned), if_neg (Nat.not_le.2 hreach)]

/-! ### Join masks (R149, R150) -/

/-- R150: a mask without a site, or with this one, is waited at. -/
theorem mwait_acts {bounded : Bool} {f : ExtForm} (hexec : ∀ s, exec i s = mwaitBy bounded f s) : Acts i (mwaitAct bounded f) := by
  refine acts_of_instr hexec fun s hwhen => if_neg ?_
  have hsite : (s.me.join (maskNo f.a)).site = none ∨ (s.me.join (maskNo f.a)).site = some s.sched.cur.pc := hwhen
  rcases hsite with h | h <;> simp [h]

/-- R117, R122, R145 to R154: control flow and the moves that are no plain result. -/
theorem isControl_acts (h : IsControl i r) : Acts i r := by
  cases h with
  | bra g => exact branch_acts fun s => Laws.exec_bra g s
  | braX f => exact branch_acts fun s => Laws.exec_braX f s
  | call g => exact branch_acts fun s => Laws.exec_call g s
  | callX f => exact branch_acts fun s => Laws.exec_callX f s
  | brx g => exact indirect_acts fun s => Laws.exec_brx g s
  | brxX f => exact indirect_acts fun s => Laws.exec_brxX f s
  | ret g => exact indirect_acts fun s => Laws.exec_ret g s
  | retX f => exact indirect_acts fun s => Laws.exec_retX f s
  | join f => exact acts_of_instr_self fun s => Laws.exec_join f s
  | leave f => exact acts_of_instr_self fun s => Laws.exec_leave f s
  | mset f => exact acts_of_instr_self fun s => Laws.exec_mset f s
  | mget f => exact acts_of_instr_self fun s => Laws.exec_mget f s
  | elect f => exact acts_of_instr_self fun s => Laws.exec_elect f s
  | mwait f => exact mwait_acts fun s => Laws.exec_mwait f s
  | mwaitBounded f => exact mwait_acts fun s => Laws.exec_mwaitBounded f s
  | exit g => exact acts_of_instr_self fun s => Laws.exec_exit g s
  | exitX f => exact acts_of_instr_self fun s => Laws.exec_exitX f s
  | nop g => exact acts_of_instr_self fun s => Laws.exec_nop g s
  | nopX f => exact acts_of_instr_self fun s => Laws.exec_nopX f s
  | yield g => exact acts_of_instr_self fun s => Laws.exec_yield g s
  | yieldX f => exact acts_of_instr_self fun s => Laws.exec_yieldX f s
  | movs g => exact acts_of_instr_self fun s => Laws.exec_movs g s
  | movsX f => exact acts_of_instr_self fun s => Laws.exec_movsX f s
  | movp f => exact acts_of_instr_self fun s => Laws.exec_movp f s
  | iaddc f => exact acts_of_instr_self fun s => Laws.exec_iaddc f s

/-! ### Fences (R238, R239) -/

theorem writeBack_sched (s : State) (sc : Nat) : (writeBack s sc).sched = s.sched := by
  unfold writeBack
  split <;> rfl

/-- R238: the fence of the path in hand, where it waits, is the one its rule speaks of. -/
theorem fenceOf_eq (s : State) (scope : Nat) (rel acq holds : Bool) : fenceOf s scope rel acq holds = s.myFence.getD
    { pc := s.sched.cur.pc, scope := scope, rel := rel, acq := acq, upto := s.sched.nextId, holds := holds } := rfl

theorem pc_of_myFence {s : State} {x : Fence} (h : s.myFence = some x) : x.pc = s.sched.cur.pc := by
  simpa using List.find?_some h

theorem myFence_eq_none {s : State} (h : s.myFence = none) : ¬ ∃ x ∈ s.me.fences, x.pc = s.sched.cur.pc := by
  rintro ⟨x, hx, hpc⟩
  simpa [hpc] using List.find?_eq_none.1 h x hx

theorem fenceStep_done {s : State} {x : Fence} (hdone : x.done s (grp s) = true) (hpc : x.pc = s.sched.cur.pc) : fenceStep s x =
    ((if x.rel then writeBack s x.scope else s).modGroup (grp s) (fun g => g.endFence s.sched.cur.pc)).advance := by
  rw [← hpc]
  exact if_pos hdone

/-- R238: a fence whose wait is over is gone, and its path goes on. -/
theorem fenceBy_over {s : State} {scope : Nat} {rel acq holds : Bool} (h : fenceOver s scope rel acq holds) :
    fenceBy scope rel acq holds s = afterFence s scope rel acq holds := by
  obtain ⟨hdrained, hdone⟩ := h
  rw [fenceOf_eq] at hdone
  cases hmine : s.myFence with
  | some x =>
    simp only [hmine, Option.getD_some] at hdone
    simp only [fenceBy, afterFence, fenceOf_eq, hmine, Option.getD_some, fenceStep_done hdone (pc_of_myFence hmine)]
    rfl
  | none =>
    have hrelease : ¬ (rel = true ∧ scope = 6) := hdrained.resolve_left (myFence_eq_none hmine)
    simp only [hmine, Option.getD_none] at hdone
    have hkeep : (rel && decide (scope = 6)) = false := by simpa using hrelease
    simp only [fenceBy, afterFence, fenceOf_eq, hmine, Option.getD_none, hkeep, Bool.false_eq_true, if_false, fenceStep_done hdone]
    rfl

theorem advance_fences (s : State) : s.advance.me.fences = s.me.fences := by
  obtain ⟨pcs, hdrs, need, hplace⟩ := Laws.place_rest s.me s.sched.cur.lanes s.sched.cur.npc s.sched.cur.hdr
  have hme : s.advance.me = (s.me.place s.sched.cur.lanes s.sched.cur.npc s.sched.cur.hdr).counted := advance_group s
  rw [hme, hplace]
  rfl

/-- R238: the path's own fence does not outlive its wait. -/
theorem afterFence_myFence (s : State) (scope : Nat) (rel acq holds : Bool) : (afterFence s scope rel acq holds).myFence = none := by
  simp only [afterFence]
  generalize hdrain : (if (fenceOf s scope rel acq holds).rel then writeBack s (fenceOf s scope rel acq holds).scope else s) = t
  have hsched : t.sched = s.sched := by
    rw [← hdrain]
    split
    · exact writeBack_sched ..
    · rfl
  rw [State.myFence, advance_fences]
  have hgrp : grp s = grp t := by rw [grp, ← hsched]
  rw [hgrp, ← hsched, State.me, Laws.modGroup_sched, Laws.group_modGroup]
  simp only [State.advance, Laws.modGroup_sched, List.find?_eq_none]
  intro x hx
  obtain ⟨-, hpc⟩ := List.mem_filter.1 hx
  exact mt of_decide_eq_true (by simpa using hpc)

/-- R238: a fence that waits for nothing more. -/
theorem fence_acts {f : ExtForm} (h : IsOrder (.fence f) r) : Acts (.fence f) r := by
  cases h
  have hscope : bits f.mods.toNat 3 3 = scope f := bits_eq_div_mod ..
  have hkind : bits f.mods.toNat 0 2 = f.mods.toNat % 4 := rfl
  have hacq : f.mods.toNat % 4 % 2 = f.mods.toNat % 2 := Nat.mod_mod_of_dvd _ (by decide)
  have hexec (s : State) := (Laws.exec_fence f s).trans (execFence.eq_1 f s)
  simp only [hscope, hkind, hacq] at hexec
  exact acts_of_instr hexec fun s hwhen => fenceBy_over hwhen

/-- R239: a `tfence` whose fence is over has the walkers start anew. -/
theorem tfence_acts {f : ExtForm} (h : IsOrder (.tfence f) r) : Acts (.tfence f) r := by
  cases h
  have hscope : bits f.mods.toNat 3 3 = scope f := bits_eq_div_mod ..
  have hbad : (scope f != 4 && scope f != 5) = !(scope f = 4 || scope f = 5) := by
    rw [Bool.not_or]
    rfl
  have hexec (s : State) := (Laws.exec_tfence f s).trans (execTfence.eq_1 f s)
  simp only [hscope, hbad] at hexec
  refine acts_of_access hexec (fun s hwhen => hwhen.1) fun s hwhen => ?_
  dsimp only
  rw [fenceBy_over hwhen.2, afterFence_myFence]
  rfl

/-! ### The register allotment (R105, R110) -/

/-- R110: at once, or where the launch grants no more than the prologue holds. -/
theorem racq_acts {f : ExtForm} (hexec : ∀ s, exec i s = acquire f s) : Acts i (racqAct f) := by
  refine acts_of_instr hexec fun s hwhen => ?_
  simp only [racqAct]
  cases hheld : s.me.held with
  | true => rfl
  | false =>
    have hfull : s.myLaunch.full = 32 := hwhen.resolve_left (by simp [hheld])
    simp [hfull]

/-- R110: nothing outstanding writes `v32` or above. -/
theorem rrel_acts {f : ExtForm} (hexec : ∀ s, exec i s = relinquish f s) : Acts i (rrelAct f) := by
  refine acts_of_instr hexec fun s hwhen => ?_
  simp only [rrelAct]
  cases hheld : s.me.held with
  | false => simp
  | true =>
    have hnone : (pendingRegs s s.sched.cur.grp).any (fun n => 32 ≤ n && n < 1536) = false := by
      simp only [List.any_eq_false, Bool.and_eq_true, decide_eq_true_eq]
      intro n hn
      have := hwhen hheld n hn
      omega
    simp [hnone]

/-! ### `csync` and `gsync` (R327, R329) -/

/-- R327: `csync` passes on; `csync.team` does where its generation has come. -/
theorem csync_acts {f : ExtForm} (h : IsOrder (.csync f) r) : Acts (.csync f) r := by
  cases h
  have hexec (s : State) := (Laws.exec_csync f s).trans (execCsync.eq_1 f s)
  refine acts_of_checked hexec (fun s hwhen => ?_) fun s hsome hwhen => ?_
  · refine if_neg fun hcause => ?_
    simp only [Bool.and_eq_true, Bool.not_eq_true'] at hcause
    obtain ⟨⟨hteam, -⟩, houtside⟩ := hcause
    obtain ⟨hinside, -⟩ := hwhen hteam
    simp [houtside] at hinside
  · have hteam : bitOf f.mods.toNat 0 = f.mods.getLsbD 0 := rfl
    dsimp only
    rw [if_neg hsome, hteam]
    cases hkind : f.mods.getLsbD 0 with
    | false => rfl
    | true =>
      obtain ⟨-, n, hmine, hcome⟩ := hwhen hkind
      simp only [hmine]
      rw [if_pos hcome]
      rfl

/-- R329: `gsync` passes on where its generation has come. -/
theorem gsync_acts {f : ExtForm} (h : IsOrder (.gsync f) r) : Acts (.gsync f) r := by
  cases h
  have hexec (s : State) := (Laws.exec_gsync f s).trans (execGsync.eq_1 f s)
  refine acts_of_checked hexec (fun s hwhen => ?_) fun s hsome hwhen => ?_
  · simp [hwhen.1]
  · obtain ⟨hgrid, n, hmine, hcome⟩ := hwhen
    dsimp only
    rw [if_neg hsome, hmine]
    exact if_pos hcome

/-- R105, R110, R238, R239, R327, R329: each instruction that orders. -/
theorem isOrder_acts (h : IsOrder i r) : Acts i r := by
  cases h with
  | fence f => exact fence_acts (.fence f)
  | tfence f => exact tfence_acts (.tfence f)
  | racq g => exact racq_acts fun s => Laws.exec_racq g s
  | racqX f => exact racq_acts fun s => Laws.exec_racqX f s
  | rrel g => exact rrel_acts fun s => Laws.exec_rrel g s
  | rrelX f => exact rrel_acts fun s => Laws.exec_rrelX f s
  | csync f => exact csync_acts (.csync f)
  | gsync f => exact gsync_acts (.gsync f)

/-! ### Writes of special registers (R111, R185, R205, R220, R292, R303, R307) -/

theorem swrValue_eq (s : State) (f : ExtForm) (act : Lanes) : swrValue s f act = written s f act := by
  unfold swrValue written
  split <;> rfl

/-- A write that takes effect at once, where its register may be written. -/
theorem swr_acts {f : ExtForm} {bad : State → Bool} {go : State → State → Nat → State} {when : State → Lanes → Prop} {next : State → Nat → State}
    (hexec : ∀ s, exec i s = swrBy f (bad s) s (go s)) (hopen : ∀ s act, when s act → bad s = false)
    (hnext : ∀ s x, go s s x = next s x) : Acts i (swrAct f.a.toNat f when next) := by
  intro s hclear hsome hwhen
  have hbad : bad s = false := hopen s _ hwhen
  rw [hexec, hbad, swrBy]
  refine (Laws.instr_clear hclear hsome _).trans (congrArg _ ?_)
  simp only [hnext, swrValue_eq]
  rfl

/-- R205, R220, R292, R307: in a handler, the registers that only a handler writes. -/
theorem swr_plain_acts {f : ExtForm} {next : State → Nat → State} (hopen : (128 ≤ f.a.toNat ∧ f.a.toNat < 172) ∨ (192 ≤ f.a.toNat ∧ f.a.toNat < 256))
    (hnext : ∀ s x, writeSpecial f.a.toNat s x = next s x) : Acts (.swr f) (swrAct f.a.toNat f (fun s _ => handling s) next) := by
  refine swr_acts (fun s => Laws.exec_swr f s) (fun s _ (hwhen : inHandler s.me = true) => ?_) (fun s x => hnext s x)
  have hrange : ((128 ≤ f.a.toNat && f.a.toNat < 172) || (192 ≤ f.a.toNat && f.a.toNat < 256)) = true := by simpa using hopen
  rw [State.handlerNow, hwhen]
  simp only [hrange]
  rfl

theorem swrTok_acts {f : ExtForm} (h : IsSwr (.swrTok f) r) : Acts (.swrTok f) r := by
  cases h
  exact swr_acts (fun s => (Laws.exec_swrTok f s).trans (execSwrTok.eq_1 f s)) (fun s _ hwhen => congrArg Bool.not hwhen) fun s x => rfl

theorem swrTokx_acts {f : ExtForm} (h : IsSwr (.swrTokx f) r) : Acts (.swrTokx f) r := by
  cases h
  refine swr_acts (fun s => (Laws.exec_swrTokx f s).trans (execSwrTokx.eq_1 f s)) (fun s _ hwhen => congrArg Bool.not hwhen) fun s x => ?_
  rw [bits_eq_div_mod x 60 3]
  rfl

/-- R303: a value of 0 or above 64 changes nothing. -/
theorem swrMxBudget_acts {f : ExtForm} (h : IsSwr (.swrMxBudget f) r) : Acts (.swrMxBudget f) r := by
  cases h
  refine swr_acts (fun s => (Laws.exec_swrMxBudget f s).trans (execSwrMxBudget.eq_1 f s)) (fun s _ hwhen => ?_) fun s x => ?_
  · exact congrArg Bool.not ((Bool.or_eq_true ..).mpr hwhen)
  · simp only [Bool.or_eq_true, decide_eq_true_eq]

/-- R307: images are discarded, or enter the empty queue of the engine that the team holds. -/
theorem swrMxQ_acts {f : ExtForm} {when : State → Lanes → Prop} {next : State → Nat → State} (hhandling : ∀ s act, when s act → handling s)
    (hfits : ∀ s act, when s act → written s f act % 16 = 0 ∨
      (written s f act % 16 ≤ 8 ∧ (s.engine s.myCore).holder = some (team s) ∧ (s.engine s.myCore).queue = []))
    (hnext : ∀ s act, when s act → next s (written s f act) =
      if written s f act % 16 = 0 then s.modEngine s.myCore (fun e => { e with images := [], nimages := 0, parked := [] })
      else (loadQueue s.myCore (team s) (grp s) (written s f act % 16) 0 s).modEngine s.myCore (fun e =>
        { e with images := [], nimages := 0, parked := [] })) :
    Acts (.swrMxQ f) (swrAct 177 f when next) := by
  intro s hclear hsome hwhen
  have hopen : (!s.handlerNow) = false := congrArg Bool.not (hhandling s _ hwhen)
  rw [Laws.exec_swrMxQ, execSwrMxQ, hopen]
  simp only [swrValue_eq]
  refine (Laws.checked_clear hclear _ _ (if_pos ?_)).trans (congrArg _ ?_)
  · rcases hfits s _ hwhen with hzero | ⟨hcount, hholder, hqueue⟩
    · simp [hzero]
    · simp [hcount, hholder, hqueue]
  · rw [if_neg hsome]
    exact congrArg State.advance (hnext s _ hwhen).symm

/-- R111, R185, R205, R220, R292, R303, R307: every register that can be written. -/
theorem isSwr_acts (h : IsSwr i r) : Acts i r := by
  cases h with
  | barrier f h => exact swr_plain_acts (.inl (by omega)) fun s x => if_pos h.2
  | tokf f h => exact swr_plain_acts (.inl (by omega)) fun s x => by rw [writeSpecial, if_neg (by omega), if_pos h.2]
  | signed f h => exact swr_plain_acts (.inl (by omega)) fun s x => by rw [writeSpecial, if_neg (by omega), if_neg (by omega), if_pos h.2]; rfl
  | image f h => exact swr_plain_acts (.inr h) fun s x => by rw [writeSpecial, if_neg (by omega), if_neg (by omega), if_neg (by omega)]
  | swrTok f => exact swrTok_acts (.swrTok f)
  | swrTokx f => exact swrTokx_acts (.swrTokx f)
  | swrMxBudget f => exact swrMxBudget_acts (.swrMxBudget f)
  | discard f =>
    exact swrMxQ_acts (fun s act hwhen => hwhen.1) (fun s act hwhen => .inl hwhen.2) fun s act hwhen => (if_pos hwhen.2).symm
  | load f =>
    refine swrMxQ_acts (fun s act hwhen => hwhen.1) (fun s act hwhen => .inr ?_) fun s act hwhen => (if_neg ?_).symm
    · obtain ⟨-, -, hcount, hholder, hqueue⟩ := hwhen
      exact ⟨hcount, hholder, hqueue⟩
    · obtain ⟨-, hpos, -⟩ := hwhen
      exact hpos.ne'

end Acting

/-- Settles O29: past its gate, where its condition holds, each leaves the state of its rule. -/
theorem controlActs : Obligations.ControlActs := fun _ _ h => isControl_acts h

/-- Settles O36: a fence that is over, an allotment that can be taken or given back, and generations that have come. -/
theorem orderingActs : Obligations.OrderingActs := fun _ _ h => isOrder_acts h

/-- Settles O37: past its gate, where its register may be written, each leaves the state of its rule. -/
theorem specialWriteActs : Obligations.SpecialWriteActs := fun _ _ h => isSwr_acts h

end Sys2Proof.Proofs

/-! The turn of a ready path runs the instruction that its words decode to (R112, R138 to R143). -/

namespace Sys2Proof.Proofs

open Sys2Proof Sys2Proof.Machine Sys2Proof.Rules

section Decoded

variable {s s1 s2 : State} {g pc va hdr w : Nat} {lanes : Lanes} {ts : List Turn} {ps : List (Nat × Lanes)} {ws : List Nat}

/-- R112, R141: without a breakpoint and unbarred, the encoding that a path finds runs with its sources read. -/
theorem issueWord_decoded (h : Ready s s1 s2 g pc va hdr w lanes ts ps ws) {e : Enc}
    (hdecode : decodeWords (BitVec.ofNat 32 w) (BitVec.ofNat 32 (nth 0 ws 0)) (BitVec.ofNat 32 (nth 0 ws 1)) (BitVec.ofNat 32 (nth 0 ws 2))
      (BitVec.ofNat 32 (nth 0 ws 3)) = .ok e)
    (hbreak : breakAt s2 g va = false) (hbarred : Enc.barred e (s2.group g) va lanes = false) :
    issueWord s1 g pc lanes va hdr w = settleHalts (afterIssue s2
      (undoLatches s2 ((runEnc e (readSources (inHand s2 g lanes va (va + 4 * wordsOf (BitVec.ofNat 32 w)) hdr) g lanes e (va != pc))).orElse s2) g)
      g va (va + 4 * wordsOf (BitVec.ofNat 32 w)) (Enc.alone e)) (teamOf g) := by
  have hlost : (if va = pc then (s1.group g).need &&& lanes else 0#32) = 0#32 := ite_eq_right_iff.mpr h.clause
  have hinstr : instrAt s1 g va w = .ok (some e, s2) := by simp only [instrAt, h.words, hdecode]
  simp only [issueWord, hlost, hinstr, hbreak, issueEnc, hbarred]
  rfl

end Decoded

/-- Settles O4: the encoding found is the instruction's own, and its run is the instruction's meaning. -/
theorem stepRunsDecoded : Obligations.StepRunsDecoded := by
  intro s s1 s2 g pc va hdr w lanes ts ps ws i hready hdecode hbreak hbarred
  obtain ⟨e, hwords, hinstr⟩ := decode_eq_ok_iff.1 hdecode
  obtain ⟨-, hlegal, -⟩ := legal_of_decodeWords hwords
  obtain ⟨rfl, -⟩ := enc_of_instr hlegal hinstr
  rw [step_of_ready hready, issueWord_decoded hready hwords hbreak hbarred, Laws.run_enc _ i _ hinstr]

end Sys2Proof.Proofs

/-! Special functions (R131) and shuffles (R159): the operation that each issues past its gate, with the values its sources hold. -/

namespace Sys2Proof.Proofs

open Sys2Proof Sys2Proof.Machine Sys2Proof.Rules

section Flagged

variable {i : Instr} {r : Act} {f : ExtForm} {k : Nat}

/-- R131: the operation holds each active lane's result, rounded as the instruction's mode says. -/
theorem special_acts (hexec : ∀ s, exec i s = specialIssue k f s) : Acts i (specialAct k f) :=
  acts_of_instr_self hexec

/-- R159: where the source lies within the segment, a lane reads it; elsewhere the rule names the lane itself. -/
theorem getD_shuffleFrom (k w j x : Nat) : (shuffleFrom k w j x).getD j = source k w j x := by
  have hbase : j - j % w = j / w * w := Nat.sub_eq_of_eq_add (Nat.div_add_mod' j w).symm
  unfold shuffleFrom source
  rw [hbase]
  match k with
  | 0 => rfl
  | 1 | 2 =>
    simp only [Bool.and_eq_true, decide_eq_true_eq]
    split <;> rfl
  | k + 3 =>
    have hne : k + 3 ≠ 0 ∧ k + 3 ≠ 1 ∧ k + 3 ≠ 2 := by omega
    simp only [hne, if_false]
    exact apply_ite (Option.getD · j) (x % 32 < w) _ _

/-- R159: a source that is not present gives the lane its own. -/
theorem shuffleVal_eq (k w : Nat) (present : Lanes) (a : Nat → Nat) (j x : Nat) :
    shuffleVal k w present a j x = a (if present.getLsbD (source k w j x) then source k w j x else j) := by
  rw [← getD_shuffleFrom, shuffleVal]
  cases shuffleFrom k w j x with
  | none => simp
  | some m => exact (apply_ite a _ _ _).symm

/-- R159: the operation holds, for each active lane, what the lane it reads holds now. -/
theorem shuffle_acts (hexec : ∀ s, exec i s = shuffleIssue k f s) : Acts i (shuffleAct k f) := by
  refine acts_of_instr hexec fun s _ => ?_
  simp only [shuffleVal_eq]
  rfl

/-- R131, R159: the special functions and the shuffles. -/
theorem isFlagged_acts (h : IsFlagged i r) : Acts i r := by
  cases h with
  | frcp g => exact special_acts fun s => Laws.exec_frcp g s
  | frcpX f => exact special_acts fun s => Laws.exec_frcpX f s
  | frsq g => exact special_acts fun s => Laws.exec_frsq g s
  | frsqX f => exact special_acts fun s => Laws.exec_frsqX f s
  | fsqrt g => exact special_acts fun s => Laws.exec_fsqrt g s
  | fsqrtX f => exact special_acts fun s => Laws.exec_fsqrtX f s
  | fexp2 g => exact special_acts fun s => Laws.exec_fexp2 g s
  | fexp2X f => exact special_acts fun s => Laws.exec_fexp2X f s
  | flog2 f => exact special_acts fun s => Laws.exec_flog2 f s
  | fsin f => exact special_acts fun s => Laws.exec_fsin f s
  | fcos f => exact special_acts fun s => Laws.exec_fcos f s
  | ftanh f => exact special_acts fun s => Laws.exec_ftanh f s
  | shf g => exact shuffle_acts fun s => Laws.exec_shf g s
  | shfX f => exact shuffle_acts fun s => Laws.exec_shfX f s
  | shfup g => exact shuffle_acts fun s => Laws.exec_shfup g s
  | shfupX f => exact shuffle_acts fun s => Laws.exec_shfupX f s
  | shfdn g => exact shuffle_acts fun s => Laws.exec_shfdn g s
  | shfdnX f => exact shuffle_acts fun s => Laws.exec_shfdnX f s
  | shfx g => exact shuffle_acts fun s => Laws.exec_shfx g s
  | shfxX f => exact shuffle_acts fun s => Laws.exec_shfxX f s

end Flagged

/-- Settles O30: past its gate each issues its operation, with what its sources hold. -/
theorem flaggedActs : Obligations.FlaggedActs := fun _ _ h => isFlagged_acts h

end Sys2Proof.Proofs

/-! Votes (R161). A truth value, or a mask of lanes, is computed from the active lanes alone: the model takes it over the list of the active
lanes, the rule over all 32 lanes with the inactive ones left out. For each family one lemma says which test or computation the instruction
is, with the operands and the value that the rule names. -/

namespace Sys2Proof.Proofs

open Sys2Proof Sys2Proof.Machine Sys2Proof.Rules

section Votes

variable {i : Instr}

/-! ### Quantifying over a set of lanes -/

theorem laneList_eq_range : laneList = List.range 32 := rfl

theorem all_toList (lanes : Lanes) (p : Nat → Bool) : lanes.toList.all p = (List.range 32).all (fun k => !lanes.getLsbD k || p k) := by
  rw [Lanes.toList, List.all_filter, laneList_eq_range]

theorem any_toList (lanes : Lanes) (p : Nat → Bool) : lanes.toList.any p = (List.range 32).any (fun k => lanes.getLsbD k && p k) := by
  rw [Lanes.toList, List.any_filter, laneList_eq_range]

/-- The word of a set of lanes has the set's bits. -/
theorem toNat_ofFn_eq_laneWord (x : Nat → Bool) : (Lanes.ofFn x).toNat = laneWord x := by
  refine Nat.eq_of_testBit_eq fun k => ?_
  rw [BitVec.testBit_toNat, laneWord, testBit_ofBits]
  by_cases hk : k < 32
  · rw [Laws.ofFn_bit x k hk]
    simp [hk]
  · rw [BitVec.getLsbD_of_ge _ _ (Nat.not_lt.1 hk)]
    simp [hk]

/-! ### What a lane votes -/

/-- R161: the names of predicates and masks are 1664 to 1683. -/
theorem voteBit_eq_vote (s : State) (f : ExtForm) : voteBit s f = vote s f := by
  funext k
  have hname : (1664 ≤ f.a.toNat ∧ f.a.toNat < 1684) ↔ 1664 ≤ f.a.toNat ∧ f.a.toNat ≤ 1683 := and_congr_right' Nat.lt_succ_iff
  simp only [voteBit, vote, bitOf, Bool.and_eq_true, decide_eq_true_eq, hname]
  split
  · rfl
  · exact Bool.eq_iff_iff.2 (by simp)

/-! ### The votes -/

theorem voteAll_eq_test (f : ExtForm) (s : State) : voteAll f s = s.test f (allRule f).u (allRule f).value := by
  simp only [voteAll, voteTruth, all_toList, voteBit_eq_vote]
  rfl

theorem voteAny_eq_test (f : ExtForm) (s : State) : voteAny f s = s.test f (anyRule f).u (anyRule f).value := by
  simp only [voteAny, voteTruth, any_toList, voteBit_eq_vote]
  rfl

/-- R161: that the active lanes hold one bit pattern is that each holds the lowest one's. -/
theorem execVuni_eq_test (f : ExtForm) (s : State) : execVuni f s =
    s.test f { d := anyDst 1, a := numSrc (wordsOfTy (typeOf f 5)) } (fun s act _ =>
      (List.range 32).all (fun k => !act.getLsbD k || s.opA f (typeOf f 5) k = s.opA f (typeOf f 5) (low act))) := by
  simp only [execVuni, all_toList]
  rfl

theorem ballot_eq_compute (f : ExtForm) (s : State) : ballot f s = s.compute f (vbalRule f).u (vbalRule f).regs (vbalRule f).value := by
  simp only [ballot, toNat_ofFn_eq_laneWord, voteBit_eq_vote]
  rfl

theorem matchLanes_eq_compute (f : ExtForm) (s : State) :
    matchLanes f s = s.compute f (vmatchRule f).u (vmatchRule f).regs (vmatchRule f).value := by
  simp only [matchLanes, toNat_ofFn_eq_laneWord]
  rfl

/-- R161: every vote with a truth value is the test of its rule. -/
theorem exec_isVote {r : TestRule} (h : IsVote i r) (s : State) : exec i s = s.test r.f r.u r.value := by
  cases h with
  | vall g => rw [Laws.exec_vall, execVall, voteAll_eq_test]; rfl
  | vallX f => rw [Laws.exec_vallX, execVallX, voteAll_eq_test]; rfl
  | vany g => rw [Laws.exec_vany, execVany, voteAny_eq_test]; rfl
  | vanyX f => rw [Laws.exec_vanyX, execVanyX, voteAny_eq_test]; rfl
  | vuni f => rw [Laws.exec_vuni, execVuni_eq_test]

/-- R161: every vote with a mask of lanes is the computation of its rule. -/
theorem exec_isBallot {r : ValueRule} (h : IsBallot i r) (s : State) : exec i s = s.compute r.f r.u r.regs r.value := by
  cases h with
  | vbal g => rw [Laws.exec_vbal, execVbal, ballot_eq_compute]; rfl
  | vbalX f => rw [Laws.exec_vbalX, execVbalX, ballot_eq_compute]; rfl
  | vmatch g => rw [Laws.exec_vmatch, execVmatch, matchLanes_eq_compute]; rfl
  | vmatchX f => rw [Laws.exec_vmatchX, execVmatchX, matchLanes_eq_compute]; rfl

end Votes

/-- Settles O27: past its gate each vote writes what its rule computes from the active lanes, a truth value or a mask of lanes. -/
theorem voteResults : Obligations.VoteResults :=
  ⟨fun _ _ s h hclear hsome => tests_of_exec_eq_test (exec_isVote h s) hclear hsome,
    fun _ _ s h hclear hsome => computes_of_exec_eq_compute (exec_isBallot h s) hclear hsome⟩

end Sys2Proof.Proofs

/-! A poisoned register (R167, R174): past the checks that come before it, an instruction that computes traps in its active lanes. -/

namespace Sys2Proof.Proofs

open Sys2Proof Sys2Proof.Machine Sys2Proof.Rules

section Poisoned

variable {s : State} {f : ExtForm} {u : Use} {n : Nat} {x : State → Lanes → Nat → Nat}

/-! ### The causes of a consumed poison -/

/-- A key that no entry has reads as the default. -/
theorem get_eq_default {m : Sparse Nat} {k : Nat} (h : ∀ p ∈ m, p.1 ≠ k) : Sparse.get 0 m k = 0 := by
  induction m with
  | nil => rfl
  | cons p m ih =>
    obtain ⟨hp, hm⟩ := List.forall_mem_cons.1 h
    rw [Sparse.get, if_neg (Ne.symm hp), ih hm]

/-- An entry above every key of a table is its last. -/
theorem set_eq_append {m : Sparse Nat} {k v : Nat} (hv : v ≠ 0) (h : ∀ p ∈ m, p.1 < k) : Sparse.set 0 m k v = m ++ [(k, v)] := by
  rw [Sparse.set, if_neg hv]
  induction m with
  | nil => rfl
  | cons p m ih =>
    obtain ⟨hp, hm⟩ := List.forall_mem_cons.1 h
    rw [Sparse.insert, if_neg hp.not_gt, if_neg hp.ne', ih hm, List.cons_append]

/-- R170: a lane takes the cause of a consumed poison, unless it has a lower one. -/
def notePoison (m : Sparse Nat) (i : Nat) : Sparse Nat :=
  if Sparse.get 0 m i = 0 || Cause.poisonConsumed < Sparse.get 0 m i then Sparse.set 0 m i Cause.poisonConsumed else m

theorem foldl_notePoison {l : List Nat} {m : Sparse Nat} (hl : l.Pairwise (· < ·)) (h : ∀ k ∈ l, ∀ p ∈ m, p.1 < k) :
    l.foldl notePoison m = m ++ l.map (fun i => (i, Cause.poisonConsumed)) := by
  induction l generalizing m with
  | nil => simp
  | cons k l ih =>
    obtain ⟨hk, hl⟩ := List.pairwise_cons.1 hl
    obtain ⟨hmk, hml⟩ := List.forall_mem_cons.1 h
    have hnote : notePoison m k = m ++ [(k, Cause.poisonConsumed)] := by
      rw [notePoison, get_eq_default fun p hp => (hmk p hp).ne]
      exact set_eq_append (v := Cause.poisonConsumed) (by decide) hmk
    rw [List.foldl_cons, hnote, ih hl, List.append_assoc]
    · rfl
    · simp only [List.mem_append, List.mem_singleton]
      rintro j hj p (hp | rfl)
      · exact hml j hj p hp
      · exact hk j hj

/-- R167: without other causes, each active lane has that of a consumed poison. -/
theorem withPoison_nil (act : Lanes) : withPoison act true [] = causeAll act Cause.poisonConsumed :=
  foldl_notePoison (List.Pairwise.filter _ (by decide)) nofun

/-! ### The gate -/

/-- Outside a handler, a marked register that is read is met at the gate. -/
theorem gate_poisoned (hbad : u.bad = false) (hok : operandsOk s f u = true) (hfree : ∀ m ∈ allNames f u, m ∉ awaited s (grp s))
    (hmark : ∃ m ∈ readNames f u, Sparse.get 0 s.me.marks m ≠ 0) (hout : inHandler s.me = false) : ∃ k, gate s f u = .go (some k) := by
  have hnowait : (allNames f u).any (fun m => decide (m ∈ awaited s s.sched.cur.grp)) = false := by
    simpa only [List.any_eq_false, decide_eq_true_eq] using hfree
  have hfound : (poisonedName s.me (readNames f u)).isSome = true := by
    simpa [poisonedName, hout] using hmark
  obtain ⟨m, hm⟩ := Option.isSome_iff_exists.1 hfound
  simp [gate, hbad, hok, hnowait, hm]

/-- R310: past the gate with a poison, an instruction that computes raises it. -/
theorem compute_poisoned {k : Option Nat} (hgate : gate s f u = .go (some k)) (hsome : SomeActive s f) :
    ∃ tok, s.compute f u n x = .next (s.raise (causeAll (s.active f) Cause.poisonConsumed) 0 tok false) := by
  have hcauses : (causeAll (s.active f) Cause.poisonConsumed).isEmpty = false := by
    simpa [causeAll] using List.ne_nil_of_mem (low_mem_toList hsome)
  simp only [State.compute, State.instr, State.instrAny, State.checked, hgate, Option.isSome_some, withPoison_nil, hcauses, Bool.false_eq_true,
    if_false]
  exact ⟨_, rfl⟩

/-- R310: one cause in every lane of a set, raised at an ordinary moment. -/
theorem raise_causeAll_trapped {lanes : Lanes} (hord : Ordinary s) (hsome : lanes ≠ 0#32) (c : Nat) (tok : Option (Nat × Nat)) :
    Trapped s (s.raise (causeAll lanes c) 0 tok false) (fun k => if lanes.getLsbD k then c else 0) c (low lanes) := by
  have h := Laws.raise_trapped s (causeAll lanes c) tok hord
  rw [lowestCause_causeAll hsome, lowestLane_causeAll hsome] at h
  exact { h with causes := fun k hk => (h.causes k hk).trans (get_causeAll hk c) }

end Poisoned

/-- Settles O13: the gate lets the poison through, and its cause is all that the instruction raises. -/
theorem poisonTraps : Obligations.PoisonTraps := by
  intro i f u n s hplain hbad hok hfree hmark hsome hord
  obtain ⟨x, hruns⟩ := plain_runs hplain s
  have hout : inHandler s.me = false := by simp [inHandler, hord.runs]
  obtain ⟨k, hgate⟩ := gate_poisoned hbad hok hfree hmark hout
  obtain ⟨tok, hraise⟩ := compute_poisoned hgate hsome
  exact ⟨_, hruns.trans hraise, raise_causeAll_trapped hord hsome _ tok⟩

end Sys2Proof.Proofs

/-! Tokens (R171, R173, R176, R178): the state that each token instruction leaves past its gate, where its condition holds. -/

namespace Sys2Proof.Proofs

open Sys2Proof Sys2Proof.Machine Sys2Proof.Rules

section Tokens

variable {i : Instr} {r : Act} {s : State} {f : ExtForm} {act : Lanes}

/-! ### Masks of tokens (R175) -/

theorem testBit_mask (x t : Nat) : (x % 65536).testBit t = (decide (t < 16) && x.testBit t) := Nat.testBit_mod_two_pow x 16 t

/-- The tokens of a mask are those that its low sixteen bits name. -/
theorem maskTokens_eq_named (s : State) (f : ExtForm) (act : Lanes) : maskTokens (opB0 s f act % 65536) = named s f act := by
  rw [maskTokens, rangeFrom_zero_eq_range, named]
  refine List.filter_congr fun t ht => ?_
  rw [bitOf, testBit_mask, decide_eq_true (List.mem_range.1 ht), Bool.true_and]

/-- A mask that names no token is zero. -/
theorem mask_eq_zero (h : named s f act = []) : opB0 s f act % 65536 = 0 := by
  refine Nat.eq_of_testBit_eq fun t => ?_
  rw [testBit_mask, Nat.zero_testBit, Bool.and_eq_false_imp, decide_eq_true_eq]
  exact fun ht => Bool.eq_false_iff.2 (List.filter_eq_nil_iff.1 h t (List.mem_range.2 ht))

/-! ### Waits and sleeps (R176) -/

/-- `.tol`, `.bo` and `.psn` stand in one bit. -/
theorem altMod_eq (f : ExtForm) : altMod f = f.mods.getLsbD 7 := rfl

/-- R176: once the count has come, a `twait` reports the poison with `.tol`, and passes a clean token without. -/
theorem twait_acts (h : IsToken (.twait f) r) : Acts (.twait f) r := by
  cases h
  refine acts_of_instr (fun s => Laws.exec_twait f s) fun s hwhen => ?_
  obtain ⟨hcount, hsound⟩ := hwhen
  dsimp only
  rw [if_neg (Nat.not_lt.2 hcount), altMod_eq]
  cases hkind : f.mods.getLsbD 7 with
  | true => rfl
  | false =>
    have hclean : (s.myTok f.a.toNat).poison = false := hsound.resolve_left (Bool.eq_false_iff.1 hkind)
    simp only [hclean, Bool.false_eq_true, if_false]

/-- R176: what a `tsleep.any`, or a `tsleep`, waits for has come. -/
theorem sleepDone_of_when {any : Bool} (h : if any then named s f act = [] ∨ (∃ t ∈ named s f act, (s.myTok t).count = 0)
      else ∀ t ∈ named s f act, (s.myTok t).count = 0) :
    opB0 s f act % 65536 = 0 ∨ sleepDone s.me (opB0 s f act % 65536) any = true := by
  cases any with
  | true =>
    refine h.imp mask_eq_zero fun hone => ?_
    simpa [sleepDone, maskTokens_eq_named, State.myTok] using hone
  | false =>
    refine .inr ?_
    simpa [sleepDone, maskTokens_eq_named, State.myTok] using h

theorem tsleep_acts (h : IsToken (.tsleep f) r) : Acts (.tsleep f) r := by
  cases h
  refine acts_of_instr (fun s => Laws.exec_tsleep f s) fun s hwhen => if_pos ?_
  simp only [Bool.or_eq_true, decide_eq_true_eq]
  exact sleepDone_of_when hwhen

/-! ### Clears (R178) -/

theorem tokenIdle_iff (t : Nat) : s.me.tokenIdle (inHandler s.me) t = true ↔ idle s t := by
  simp [Group.tokenIdle, idle, State.myTok]

/-- R178: with all of its tokens idle, a `tclr` clears those it has not cleared before. -/
theorem tclr_acts (h : IsToken (.tclr f) r) : Acts (.tclr f) r := by
  cases h
  refine acts_of_instr (fun s => Laws.exec_tclr f s) fun s hwhen => ?_
  have htodo : (maskTokens (s.opB f 5 (low (s.active f)) % 65536)).filter (fun t => !bitOf (Sparse.get 0 s.me.clears s.sched.cur.pc) t) =
      uncleared s f (s.active f) := congrArg (List.filter _) (maskTokens_eq_named s f (s.active f))
  have hidle : (uncleared s f (s.active f)).takeWhile (s.me.tokenIdle (inHandler s.me)) = uncleared s f (s.active f) :=
    List.takeWhile_eq_self_iff.2 fun t ht => tokenIdle_iff t |>.2 (hwhen t ht)
  simp only [htodo, hidle, if_true]
  rfl

/-! ### Joins and signals (R171, R173, R178) -/

/-- A free token takes an operation of class 0, which is then there. -/
theorem hasOp_engineOp {o : Op} (hcls : o.kind.cls = 0) (hfree : tokenFree f 0 s) : (s.engineOp f o).hasOp s.sched.nextId = true := by
  obtain ⟨hroom, hheld⟩ := hfree
  refine Laws.engineOp_has s f o (hcls ▸ hroom) ?_
  exact hheld.imp (fun hmask => congrArg BitVec.toNat hmask) fun hfew => .inr (.inr hfew)

/-- R178: a `tjoin` without preconditions retires as it issues. -/
theorem tjoin_acts (h : IsToken (.tjoin f) r) : Acts (.tjoin f) r := by
  cases h
  refine acts_of_instr (fun s => Laws.exec_tjoin f s) fun s hwhen => ?_
  simp only [hasOp_engineOp (o := { kind := .tjoin, major := 0x19, idx := 4, active := s.active f }) rfl hwhen, Bool.and_true,
    decide_eq_true_eq]
  rfl

/-- R178: a `tsig` retires as it issues. -/
theorem tsig_acts (h : IsToken (.tsig f) r) : Acts (.tsig f) r := by
  cases h
  exact acts_of_instr (fun s => Laws.exec_tsig f s) fun s hwhen => if_pos (hasOp_engineOp rfl hwhen)

/-- R171, R173, R176, R178: each token instruction. -/
theorem isToken_acts (h : IsToken i r) : Acts i r := by
  cases h with
  | twait f => exact twait_acts (.twait f)
  | tsleep f => exact tsleep_acts (.tsleep f)
  | tclr f => exact tclr_acts (.tclr f)
  | tjoin f => exact tjoin_acts (.tjoin f)
  | tsig f => exact tsig_acts (.tsig f)

end Tokens

/-- Settles O33: past its gate, where its condition holds, each token instruction leaves the state of its rule. -/
theorem tokenActs : Obligations.TokenActs := fun _ _ h => isToken_acts h

end Sys2Proof.Proofs

/-! Chambers (R177, R183, R184, R418): the state that each chamber instruction leaves past its gate, at a chamber that its address reaches. -/

namespace Sys2Proof.Proofs

open Sys2Proof Sys2Proof.Machine Sys2Proof.Rules

section Chambers

variable {i : Instr} {r : Act} {s t : State} {f : ExtForm} {u : Use} {act : Lanes} {c : ChamberAt} {x : Chamber} {kind : AccessKind}

/-! ### Addresses and scopes (R180, R183) -/

theorem scopeMod_eq (f : ExtForm) : scopeMod f = scope f := bits_eq_div_mod ..

theorem chamberAddr_eq (s : State) (f : ExtForm) (act : Lanes) : s.chamberAddr f act = chamberAddr f s act := by
  rw [State.chamberAddr, chamberAddr, scopeMod_eq, addr64_eq]
  rfl

/-! ### An access at a chamber (R418) -/

/-- Past its gate, at a chamber that is reached, the instruction leaves the state that its access gives. -/
theorem chamberInstr_ok {go : Lanes → State → ChamberAt → Acc Unit} (hclear : Clear s f (chamberUse f u)) (hsome : SomeActive s f)
    (hreached : reached kind f s (s.active f) c) (hgo : go (s.active f) s c = .ok () t) : chamberInstr f u kind s go = .next t := by
  obtain ⟨hfence, hcause, hplace⟩ := hreached
  simp only [chamberInstr, scopeMod_eq, chamberAddr_eq]
  refine (Laws.access_clear hclear hsome hfence _ _ ?_).trans ?_
  · exact if_pos ((if_neg hsome).trans hcause)
  · simp only [hplace, hgo]

/-- A chamber instruction whose access gives the state of its rule. -/
theorem acts_of_chamber {go : State → Lanes → State → ChamberAt → Acc Unit} (hexec : ∀ s, exec i s = chamberInstr r.f u kind s (go s))
    (huse : r.u = chamberUse r.f u) (hreached : ∀ s, r.when s (s.active r.f) → reached kind r.f s (s.active r.f) c)
    (hgo : ∀ s, r.when s (s.active r.f) → go s (s.active r.f) s c = .ok () (r.next s (s.active r.f))) : Acts i r :=
  fun s hclear hsome hwhen => (hexec s).trans (chamberInstr_ok (huse ▸ hclear) hsome (hreached s hwhen) (hgo s hwhen))

/-- R226: no earlier arrival is on its way. -/
theorem arrivalsPending_of_settled (h : settled s f act) : arrivalsPending s f act = false := h

/-! ### Set-up and arrivals (R184) -/

/-- R184: with no arrival of the group on its way, a `chini` writes the chamber. -/
theorem chini_acts (h : IsChamber (.chini f) c r) : Acts (.chini f) r := by
  cases h
  refine acts_of_chamber (c := c) (fun s => Laws.exec_chini f s) rfl (fun s hwhen => hwhen.1) fun s hwhen => ?_
  obtain ⟨-, hsettled, t, hwrite⟩ := hwhen
  simp only [arrivalsPending_of_settled hsettled, Bool.false_eq_true, if_false, scopeMod_eq, hwrite, Acc.into]

/-- R184: a `charr` is on its way as an operation of its own. -/
theorem charr_acts (h : IsChamber (.charr f) c r) : Acts (.charr f) r := by
  cases h
  refine acts_of_chamber (c := c) (fun s => Laws.exec_charr f s) rfl (fun s hwhen => hwhen) fun s _ => ?_
  rw [chamberAddr_eq]
  rfl

/-! ### Exports (R177) -/

/-- R177: a token that is not armed is armed, and delivers at once where its count is 0. -/
theorem texp_acts (h : IsChamber (.texp f) c r) : Acts (.texp f) r := by
  cases h
  refine acts_of_chamber (c := c) (fun s => Laws.exec_texp f s) rfl (fun s hwhen => hwhen.1) fun s hwhen => ?_
  obtain ⟨-, hidle⟩ := hwhen
  simp only [hidle, Bool.false_eq_true, if_false, scopeMod_eq, chamberAddr_eq]

/-! ### Waits and reads (R184) -/

/-- R184: a phase that has passed lets a `chwait` go, with its poison reported or with none. -/
theorem chwait_acts (h : IsChamberRead (.chwait f) c x t r) : Acts (.chwait f) r := by
  cases h
  refine acts_of_chamber (c := c) (fun s => Laws.exec_chwait f s) rfl (fun s hwhen => hwhen.1) fun s hwhen => ?_
  obtain ⟨-, hsettled, hread, hphase, hscope, hsound⟩ := hwhen
  have hleft : ¬ x.phase = s.phaseOperand f (s.active f) := hphase
  simp only [arrivalsPending_of_settled hsettled, Bool.false_eq_true, if_false, scopeMod_eq, hread, Acc.into, hleft, hscope, bne_self_eq_false,
    altMod_eq]
  cases hkind : f.mods.getLsbD 7 with
  | true => rfl
  | false =>
    have hclean : x.poison = false := hsound.resolve_left (Bool.eq_false_iff.1 hkind)
    simp only [hclean, Bool.false_eq_true, if_false]

/-- R184: what a `chtest` reports: the phase is no longer the one named. -/
theorem phase_bne (s : State) (f : ExtForm) (act : Lanes) (b : Bool) : (b != s.phaseOperand f act) = decide (b ≠ phaseBit s f act) := by
  rw [State.phaseOperand, phaseBit, Bool.eq_iff_iff, bne_iff_ne, decide_eq_true_iff]

theorem chtest_acts (h : IsChamberRead (.chtest f) c x t r) : Acts (.chtest f) r := by
  cases h
  refine acts_of_chamber (c := c) (fun s => Laws.exec_chtest f s) rfl (fun s hwhen => hwhen.1) fun s hwhen => ?_
  obtain ⟨-, hsettled, hread⟩ := hwhen
  simp only [arrivalsPending_of_settled hsettled, Bool.false_eq_true, if_false, hread, Acc.into, phase_bne]

/-- R177, R184: each instruction that writes a chamber. -/
theorem isChamber_acts (h : IsChamber i c r) : Acts i r := by
  cases h with
  | chini f => exact chini_acts (.chini f c)
  | charr f => exact charr_acts (.charr f c)
  | texp f => exact texp_acts (.texp f c)

/-- R184: each instruction that reads a chamber. -/
theorem isChamberRead_acts (h : IsChamberRead i c x t r) : Acts i r := by
  cases h with
  | chwait f => exact chwait_acts (.chwait f c x t)
  | chtest f => exact chtest_acts (.chtest f c x t)

end Chambers

/-- Settles O34: past its gate, at a chamber that is reached, each chamber instruction leaves the state of its rule. -/
theorem chamberActs : Obligations.ChamberActs := ⟨fun _ _ _ h => isChamber_acts h, fun _ _ _ _ _ h => isChamberRead_acts h⟩

end Sys2Proof.Proofs

/-! Scratchpads (R195 to R200): the state that each access leaves past its gate, at addresses that its level takes. -/

namespace Sys2Proof.Proofs

open Sys2Proof Sys2Proof.Machine Sys2Proof.Rules

section Scratchpads

variable {i : Instr} {r : Act} {s : State} {f : ExtForm} {u : Use} {major idx n : Nat} {go : State → Op → State}

/-- R195: past its gate, at addresses that its level takes, an access does with its operation what `go` says. -/
theorem levelAccess_ok (hlevel : major = 0x13 ∨ major = 0x14 ∨ major = 0x15 ∨ major = 0x16) (huse : levelUse major idx f = u)
    (hsize : accessSize major idx f = n) (hclear : Clear s f u) (hsome : SomeActive s f) (hfence : unfenced s)
    (hin : inLevel major n f s (s.active f)) (hput : major = 0x15 → idx = 2 → s.opC f 5 (low (s.active f)) < 32) :
    levelAccess major idx f s go = .next (go s (s.accessOp major idx f (s.active f) (addrOf f s))) := by
  subst huse hsize
  refine Laws.access_clear hclear hsome hfence _ _ (Laws.laneCauses_nil fun k hk hactive => ?_)
  obtain ⟨haligned, hfits⟩ := hin k hk hactive
  have hnoput : (major = 0x15 && idx = 2 && decide (32 ≤ s.opC f 5 (low (s.active f)))) = false := by simpa using hput
  rw [hnoput]
  exact levelCause_eq_zero hlevel haligned hfits

/-- `lds`, `ldl` and `ldc`. -/
theorem levelLoad_acts (hlevel : major = 0x13 ∨ major = 0x14 ∨ major = 0x15) (hexec : ∀ s, exec i s = levelFlag .load major 0 f s) :
    Acts i (loadAct major 0 .load (loadUse f) (dataBytes f) f) := by
  intro s hclear hsome ⟨hfence, hin, _⟩
  have hatomic : isAtomicOp major 0 = false := by rcases hlevel with rfl | rfl | rfl <;> rfl
  have huse : levelUse major 0 f = loadUse f := by
    rw [levelUse_access hatomic]
    rcases hlevel with rfl | rfl | rfl <;> rfl
  exact (hexec s).trans (levelAccess_ok (by omega) huse (accessSize_access (by omega) hatomic) hclear hsome hfence hin nofun)

/-- `atms` and `atmc`. -/
theorem levelAtomic_acts (hlevel : major = 0x13 ∧ idx = 2 ∨ major = 0x15 ∧ idx = 3) (hexec : ∀ s, exec i s = levelFlag .atom major idx f s) :
    Acts i (loadAct major idx .atom (atomicUse f) (4 * words f 1) f) := by
  intro s hclear hsome ⟨hfence, hin, _⟩
  have hatomic : isAtomicOp major idx = true := by rcases hlevel with ⟨rfl, rfl⟩ | ⟨rfl, rfl⟩ <;> rfl
  exact (hexec s).trans (levelAccess_ok (by omega) (levelUse_atomic hatomic) (accessSize_atomic (by omega) hatomic) hclear hsome hfence hin
    (by omega))

/-- A store to the core scratchpad or a slice of a lane: the state it leaves past its gate. -/
theorem levelStore_ok (hlevel : major = 0x13 ∨ major = 0x14) (hclear : Clear s f (storeUse f)) (hsome : SomeActive s f) (hfence : unfenced s)
    (hin : inLevel major (dataBytes f) f s (s.active f)) : levelStore major f s = .next ((storeAct major f).next s (s.active f)) := by
  have hatomic : isAtomicOp major 1 = false := by rcases hlevel with rfl | rfl <;> rfl
  have huse : levelUse major 1 f = storeUse f := by
    rw [levelUse_access hatomic]
    rcases hlevel with rfl | rfl <;> rfl
  exact levelAccess_ok (by omega) huse (accessSize_access (by omega) hatomic) hclear hsome hfence hin (by omega)

/-- `sts` and `stl`. -/
theorem levelStore_acts (hlevel : major = 0x13 ∨ major = 0x14) (hexec : ∀ s, exec i s = levelStore major f s) : Acts i (storeAct major f) :=
  fun s hclear hsome ⟨hfence, hin⟩ => (hexec s).trans (levelStore_ok hlevel hclear hsome hfence hin)

/-- `stc` and `cput`. -/
theorem levelPosted_acts (hidx : idx ≠ 3) (huse : levelUse 0x15 idx f = u) (hexec : ∀ s, exec i s = levelPosted idx f s) :
    Acts i (postedAct idx u f) := by
  intro s hclear hsome ⟨hfence, hin, hput⟩
  exact (hexec s).trans (levelAccess_ok (by decide) huse (accessSize_access (by decide) (by simp [isAtomicOp, hidx])) hclear hsome hfence hin
    fun _ => hput)

/-- `ldd` and `std`. -/
theorem levelToken_acts (huse : levelUse 0x16 idx f = u) (hexec : ∀ s, exec i s = levelToken idx f s) : Acts i (dieAct idx u f) := by
  intro s hclear hsome ⟨hfence, hin, _⟩
  exact (hexec s).trans (levelAccess_ok (by decide) huse (accessSize_access (by decide) rfl) hclear hsome hfence hin nofun)

/-- R195 to R200: each scratchpad access. -/
theorem isScratch_acts (h : IsScratch i r) : Acts i r := by
  cases h with
  | lds g => exact levelLoad_acts (.inl rfl) fun s => Laws.exec_lds g s
  | ldsX f => exact levelLoad_acts (.inl rfl) fun s => Laws.exec_ldsX f s
  | ldl g => exact levelLoad_acts (.inr (.inl rfl)) fun s => Laws.exec_ldl g s
  | ldlX f => exact levelLoad_acts (.inr (.inl rfl)) fun s => Laws.exec_ldlX f s
  | ldc f => exact levelLoad_acts (.inr (.inr rfl)) fun s => Laws.exec_ldc f s
  | atms f => exact levelAtomic_acts (.inl ⟨rfl, rfl⟩) fun s => Laws.exec_atms f s
  | atmc f => exact levelAtomic_acts (.inr ⟨rfl, rfl⟩) fun s => Laws.exec_atmc f s
  | sts g => exact levelStore_acts (.inl rfl) fun s => Laws.exec_sts g s
  | stsX f => exact levelStore_acts (.inl rfl) fun s => Laws.exec_stsX f s
  | stl g => exact levelStore_acts (.inr rfl) fun s => Laws.exec_stl g s
  | stlX f => exact levelStore_acts (.inr rfl) fun s => Laws.exec_stlX f s
  | stc f => exact levelPosted_acts (by decide) (levelUse_access rfl) fun s => Laws.exec_stc f s
  | cput f => exact levelPosted_acts (by decide) (levelUse_access rfl) fun s => Laws.exec_cput f s
  | ldd f => exact levelToken_acts (levelUse_access rfl) fun s => Laws.exec_ldd f s
  | std f => exact levelToken_acts (levelUse_access rfl) fun s => Laws.exec_std f s

end Scratchpads

/-- Settles O31: past its gate, at addresses that its level takes, each access leaves the state of its rule. -/
theorem scratchpadActs : Obligations.ScratchpadActs := fun _ _ h => isScratch_acts h

end Sys2Proof.Proofs

/-! Named barriers (R203 to R205) and semaphores (R206 to R208): the state that each instruction leaves past its gate, where its condition
holds. -/

namespace Sys2Proof.Proofs

open Sys2Proof Sys2Proof.Machine Sys2Proof.Rules

section Synchronising

variable {i : Instr} {r : Act} {s : State} {f : ExtForm} {act : Lanes}

/-! ### Counts and arrivals (R203, R204) -/

theorem nbOutside_of_inRange (h : inRange f s act) : nbOutside f act s = false := by
  obtain ⟨hpos, hmembers⟩ := h
  rw [nbOutside, maxMembers, decide_eq_false (Nat.not_lt.2 hmembers), decide_eq_false (Nat.pos_iff_ne_zero.1 hpos)]
  rfl

/-- R204: the barrier takes the arrival of a count that it accepts. -/
theorem arrive_of_countOk (h : countOk f s act) :
    (barrier s f.a.toNat).arrive (some (idxOf (grp s))) (opB0 s f act) = some (arrived f s act) := by
  obtain ⟨-, -, hlike⟩ := h
  simp only [Barrier.arrive, arrived]
  by_cases hmember : bitOf (barrier s f.a.toNat).mask (idxOf (grp s)) = true
  · exact (if_pos hmember).trans (congrArg some (if_pos hmember).symm)
  · have hcount : ((barrier s f.a.toNat).expected != 0 && opB0 s f act != (barrier s f.a.toNat).expected) = false := by
      simpa [or_iff_not_imp_left] using hlike.resolve_left hmember
    rw [hcount]
    exact (if_neg hmember).trans (congrArg some (if_neg hmember).symm)

theorem nbCause_of_countOk (h : countOk f s act) : nbCause f act s = [] := by
  have ⟨hpos, hmembers, _⟩ := h
  have hin : nbOutside f act s = false := nbOutside_of_inRange ⟨hpos, hmembers⟩
  have hlike : nbUnlike f act s = false := by rw [nbUnlike, arrive_of_countOk h]; rfl
  simp only [nbCause, hin, hlike, Bool.or_self, Bool.and_false, Bool.false_eq_true, if_false]

/-- R204: an `nbarr` arrives, once. -/
theorem nbarr_acts (h : IsSync (.nbarr f) r) : Acts (.nbarr f) r := by
  cases h
  refine acts_of_checked (fun s => Laws.exec_nbarr f s) (fun s hwhen => nbCause_of_countOk hwhen) fun s hsome hwhen => ?_
  refine (if_neg hsome).trans ?_
  simp only [State.arriveNb, arrive_of_countOk hwhen, Option.getD_some]

/-! ### Waits at a barrier (R204, R205) -/

/-- R204: a wait that has ended passes, and so does a group that has not arrived. -/
theorem nbwait_acts (h : IsSync (.nbwait f) r) : Acts (.nbwait f) r := by
  cases h
  refine acts_of_instr (fun s => Laws.exec_nbwait f s) fun s hwhen => ?_
  dsimp only at hwhen ⊢
  cases hmine : s.myNbWait f.a.toNat with
  | some w =>
    have hflipped : w.2.2 = true := by simpa only [hmine] using hwhen
    simp only [hflipped, if_true, Option.isSome_some]
  | none =>
    have habsent : bitOf (barrier s f.a.toNat).mask (idxOf (grp s)) = false := by simpa only [hmine, bitOf] using hwhen
    simp only [habsent, Bool.false_eq_true, if_false, Option.isSome_none]

/-- R204, R205: an `nbsync` whose wait has ended, or whose phase has passed while its group was halted, is over. -/
theorem nbsync_acts (h : IsSync (.nbsync f) r) : Acts (.nbsync f) r := by
  cases h
  intro s hclear hsome hwhen
  have hactive : ¬ s.active f = 0#32 := hsome
  rw [Laws.exec_nbsync, execNbsync]
  dsimp only at hwhen ⊢
  cases hmine : s.myNbWait f.a.toNat with
  | some w =>
    have hflipped : w.2.2 = true := by simpa only [hmine] using hwhen
    refine (Laws.checked_clear hclear _ _ ?_).trans ?_
    · rw [hmine, nbsyncCause, Option.isSome_some, if_pos rfl]
    · simp only [hactive, hmine, hflipped, if_false, if_true]
      rfl
  | none =>
    obtain ⟨hpend, hin, hphase⟩ : bitOf s.me.nbpend f.a.toNat = true ∧ inRange f s (s.active f) ∧
        (barrier s f.a.toNat).phase ≠ bitOf s.me.nbph f.a.toNat := by simpa only [hmine, bitOf] using hwhen
    refine (Laws.checked_clear hclear _ _ ?_).trans ?_
    · simp only [hmine, nbsyncCause, Option.isSome_none, hpend, nbOutside_of_inRange hin, Bool.and_false, Bool.false_eq_true, if_false, if_true]
    · have hflipped : ((barrier s f.a.toNat).phase != bitOf s.me.nbph f.a.toNat) = true := bne_iff_ne.2 hphase
      simp only [hactive, hmine, hpend, hflipped, if_false, if_true]
      rfl

/-! ### Semaphores (R208) -/

theorem semCause_of_semOk (h : semOk f s act) : semCause f act s = [] := by
  have hno : decide (32 ≤ s.opA f 5 (low act)) = false := decide_eq_false (Nat.not_le.2 h)
  simp only [semCause, hno, Bool.and_false, Bool.false_eq_true, if_false]

theorem sinc_acts (hexec : ∀ s, exec i s = increment f s) : Acts i (sincAct f) :=
  acts_of_checked hexec (fun _ hwhen => semCause_of_semOk hwhen) fun _ hsome _ => if_neg hsome

theorem sread_acts (hexec : ∀ s, exec i s = readSem f s) : Acts i (sreadAct f) :=
  acts_of_checked hexec (fun _ hwhen => semCause_of_semOk hwhen) fun _ _ _ => rfl

/-! ### Waits at a semaphore (R208) -/

/-- R208: who joins an empty queue is at its head. -/
theorem semQueue_joinSem {core k : Nat} (w : Waiter) (h : s.semQueue core k = []) : (s.joinSem core k w).semQueue core k = [w] := by
  have hqueue : Sparse.get [] (s.core core).semQueues k = [] := h
  simp [State.joinSem, State.semQueue, hqueue]

/-- Who joins a queue leaves every count. -/
theorem sem_joinSem (s : State) (core k : Nat) (w : Waiter) (j : Nat) : (s.joinSem core k w).sem core j = s.sem core j := by
  unfold State.joinSem
  split
  · rfl
  · simp [State.sem]

/-- R208: the path in hand stands in the queue of a semaphore, and its group notes that it waits there. -/
def queuedAt (s : State) (k : Nat) : State :=
  let s1 := s.joinSem s.myCore k (.path (grp s) s.sched.cur.pc)
  if (k, s.sched.cur.pc) ∈ s.me.semWaits then s1
  else s1.modGroup (grp s) (fun g => { g with semWaits := g.semWaits ++ [(k, s.sched.cur.pc)] })

theorem queuedAt_core (s : State) (k c : Nat) : (queuedAt s k).core c = (s.joinSem s.myCore k (.path (grp s) s.sched.cur.pc)).core c := by
  simp only [queuedAt]
  split <;> rfl

/-- R208: a path that joins an empty queue of a semaphore whose count suffices is the one that passes. -/
theorem queuedAt_passes {k n : Nat} (hempty : s.semQueue s.myCore k = []) (henough : n ≤ s.sem s.myCore k) :
    (((queuedAt s k).semQueue s.myCore k).head? = some (.path (grp s) s.sched.cur.pc) && decide (n ≤ (queuedAt s k).sem s.myCore k)) = true := by
  have hqueue : (queuedAt s k).semQueue s.myCore k = [.path (grp s) s.sched.cur.pc] := by
    rw [State.semQueue, queuedAt_core]
    exact semQueue_joinSem _ hempty
  have hcount : (queuedAt s k).sem s.myCore k = s.sem s.myCore k := by
    rw [State.sem, queuedAt_core]
    exact sem_joinSem ..
  rw [hqueue, hcount, decide_eq_true henough]
  simp

/-- R208: an `swait` of 0 passes at once, one of more where nobody waits and the count suffices. -/
theorem swait_acts (hexec : ∀ s, exec i s = waitSem f s) : Acts i (swaitAct f) := by
  refine acts_of_checked hexec (fun _ hwhen => semCause_of_semOk hwhen.1) fun s hsome hwhen => (if_neg hsome).trans ?_
  obtain ⟨-, hpasses⟩ := hwhen
  by_cases hzero : opB0 s f (s.active f) = 0
  · exact (if_pos hzero).trans (if_pos hzero).symm
  · obtain ⟨hempty, henough⟩ := hpasses.resolve_left hzero
    exact (if_neg hzero).trans ((if_pos (queuedAt_passes hempty henough)).trans (if_neg hzero).symm)

/-- R203 to R208: each barrier and semaphore instruction. -/
theorem isSync_acts (h : IsSync i r) : Acts i r := by
  cases h with
  | nbarr f => exact nbarr_acts (.nbarr f)
  | nbwait f => exact nbwait_acts (.nbwait f)
  | nbsync f => exact nbsync_acts (.nbsync f)
  | sinc g => exact sinc_acts fun s => Laws.exec_sinc g s
  | sincX f => exact sinc_acts fun s => Laws.exec_sincX f s
  | swait g => exact swait_acts fun s => Laws.exec_swait g s
  | swaitX f => exact swait_acts fun s => Laws.exec_swaitX f s
  | sread g => exact sread_acts fun s => Laws.exec_sread g s
  | sreadX f => exact sread_acts fun s => Laws.exec_sreadX f s

end Synchronising

/-- Settles O35: past its gate, where its condition holds, each barrier and semaphore instruction leaves the state of its rule. -/
theorem barrierActs : Obligations.BarrierActs := fun _ _ h => isSync_acts h

end Sys2Proof.Proofs

/-! Synchronisation of barges (R208, R233, R281, R282): the state that each arrival, wait, fence and end of a run leaves where its condition
holds. -/

namespace Sys2Proof.Proofs

open Sys2Proof Sys2Proof.Machine Sys2Proof.Rules

section BargeSync

variable {i : Instr} {r : StepRule} {s t : State} {f : BargeForm} {c : ChamberAt} {sc : Nat}

/-! ### Operands (R270) -/

theorem xbits_eq (f : BargeForm) (lo n : Nat) : f.xbits lo n = xfield f lo n := bits_eq_div_mod ..

theorem areg_toNat (s : State) (n : BitVec 4) : (areg s n).toNat = s.areg n.toNat := BitVec.toNat_ofNat ..

theorem srcA_toNat (f : BargeForm) (s : State) : (srcA f s).toNat = s.bA f := areg_toNat s f.a

theorem semAmount_eq (f : BargeForm) (s : State) : semAmount s f = amount f s := by rw [semAmount, amount, areg_toNat]

theorem semaphoreNo_eq (f : BargeForm) : bits f.imm.toNat 0 5 = semaphoreNo f := by simp [bits_eq_div_mod, semaphoreNo]

theorem barrierNo_eq (f : BargeForm) : bits f.imm.toNat 0 4 = barrierNo f := by simp [bits_eq_div_mod, barrierNo]

theorem memberCount_eq (f : BargeForm) : bits f.imm.toNat 8 6 = memberCount f := bits_eq_div_mod ..

/-- R180: the chamber that the instruction names. -/
theorem bargeChamber_ok (h : bchamber f s c) : bargeChamber s (xfield f 8 3) (s.bA f) = .ok c := by
  obtain ⟨hscope, haligned, hplace⟩ := h
  have hgood : badChamberScope (xfield f 8 3) = false := by simpa [badChamberScope, or_iff_not_imp_left] using hscope
  rw [srcA_toNat] at haligned hplace
  simp only [bargeChamber, hgood, Bool.false_eq_true, if_false, haligned, ne_eq, not_true_eq_false, hplace]

/-! ### Releases (R233, R282) -/

theorem copying_of_landed (h : landed s) : s.copying = false := by
  have hnone : s.bargeNow.flight = [] := h
  rw [State.copying, hnone]
  rfl

theorem bargePerformed_of_ownDone (h : ownDone s sc) : bargePerformed s sc = true := by
  obtain ⟨hcopies, hstores, hhost⟩ := h
  simp only [bargePerformed, Bool.and_eq_true, Bool.or_eq_true, decide_eq_true_eq, List.all_eq_true, Bool.not_eq_true', decide_eq_false_iff_not]
  refine ⟨⟨fun c hc => ?_, or_iff_not_imp_left.2 fun hwide => ?_⟩, or_iff_not_imp_left.2 fun hwide => hhost (Nat.not_lt.1 hwide)⟩
  · obtain ⟨hfault, hunits⟩ := hcopies c hc
    exact ⟨Option.isNone_iff_eq_none.2 hfault, hunits⟩
  · obtain ⟨hfwd, hpend, hinvals⟩ := hstores (Nat.not_lt.1 hwide)
    exact ⟨⟨hfwd, hpend⟩, hinvals⟩

/-- R233: the barge in hand notes with which number its release has begun. -/
def releasing (s : State) : State := onBarge s (fun x => { x with rel := some (relFrom s) })

theorem bge_releasing (s : State) : bge (releasing s) = { bge s with rel := some (relFrom s) } :=
  Laws.barge_modBarge s _ (fun x => { x with rel := some (relFrom s) })

theorem landed_releasing (h : landed s) : landed (releasing s) := by rw [landed, bge_releasing]; exact h

theorem ownDone_releasing (h : ownDone s sc) : ownDone (releasing s) sc := by
  obtain ⟨hcopies, hrest⟩ := h
  exact ⟨by rw [bge_releasing]; exact hcopies, hrest⟩

/-- A condition that holds wherever it is needed stops nothing. -/
theorem needed_and_not {p : Prop} [Decidable p] {b : Bool} (h : p → b = true) : (decide p && !b) = false := by
  rwa [Bool.and_eq_false_imp, decide_eq_true_eq, Bool.not_eq_false']

/-- R233: once a release is complete, what waits for it acts. -/
theorem bargeRelease_released {go : State → State} (h : released s sc) : s.bargeRelease sc go = go (atRelease s sc) := by
  obtain ⟨hlanded, hown, hdie, hhost⟩ := h
  have hnone := copying_of_landed (landed_releasing hlanded)
  have hdone := bargePerformed_of_ownDone (ownDone_releasing hown)
  have hfrom : (releasing s).bargeNow.rel.getD 0 = relFrom s := congrArg (fun x : Barge => x.rel.getD 0) (bge_releasing s)
  have hdies := needed_and_not (b := dieReleased (releasing s) (dieOf (bcore s)) (relFrom s)) hdie
  have hhosts := needed_and_not (b := hostReleased (releasing s) (relFrom s)) hhost
  have hgo : ((releasing s).copying || !bargePerformed (releasing s) sc ||
      (decide (4 ≤ sc) && !dieReleased (releasing s) (dieOf (bcore s)) ((releasing s).bargeNow.rel.getD 0)) ||
      (decide (5 ≤ sc) && !hostReleased (releasing s) ((releasing s).bargeNow.rel.getD 0))) = false := by
    rw [hnone, hdone, hfrom, hdies, hhosts]
    rfl
  exact if_neg (Bool.eq_false_iff.1 hgo)

/-! ### What a release leaves (R182, R227) -/

/-- R227: beside the note of the release, what is written back changes the memory alone. -/
theorem atRelease_eq (s : State) (sc : Nat) : ∃ m, atRelease s sc = { releasing s with mem := m } := by
  by_cases hsystem : 5 ≤ sc
  · exact ⟨_, if_pos hsystem⟩
  · exact ⟨_, if_neg hsystem⟩

theorem atRelease_team (s : State) (sc k : Nat) : (atRelease s sc).team k = s.team k := by
  obtain ⟨m, h⟩ := atRelease_eq s sc
  rw [h]
  rfl

theorem atRelease_sem (s : State) (sc core k : Nat) : (atRelease s sc).sem core k = s.sem core k := by
  obtain ⟨m, h⟩ := atRelease_eq s sc
  rw [h]
  rfl

theorem atRelease_bargeTeam (s : State) (sc : Nat) : (atRelease s sc).bargeTeam = s.bargeTeam := by
  obtain ⟨m, h⟩ := atRelease_eq s sc
  rw [h]
  rfl

theorem atRelease_teamAgent (s : State) (sc k : Nat) : teamAgent (atRelease s sc) k = teamAgent s k := by
  obtain ⟨m, h⟩ := atRelease_eq s sc
  rw [h]
  rfl

theorem atRelease_bargeNow (s : State) (sc : Nat) : (atRelease s sc).bargeNow = { s.bargeNow with rel := some (relFrom s) } := by
  obtain ⟨m, h⟩ := atRelease_eq s sc
  rw [h]
  exact bge_releasing s

theorem atRelease_since (s : State) (sc : Nat) : (atRelease s sc).bargeNow.since = s.bargeNow.since := by rw [atRelease_bargeNow]

theorem atRelease_areg (s : State) (sc k : Nat) : (atRelease s sc).areg k = s.areg k := by rw [State.areg, atRelease_bargeNow, State.areg]

theorem atRelease_semAmount (f : BargeForm) (s : State) (sc : Nat) : semAmount (atRelease s sc) f = amount f s := by
  rw [← semAmount_eq, semAmount, atRelease_areg, semAmount]

/-- R233, R282: an instruction that releases, once its release is complete. -/
theorem next_of_release {go : State → State} (h : released s sc) (hgo : go (atRelease s sc) = t) :
    (.next (s.bargeRelease sc go) : Out) = .next t := by rw [bargeRelease_released h, hgo]

/-! ### Arrivals (R204, R208, R281) -/

/-- R204: a barge counts as one more member each time. -/
theorem arrive_barge {b : Barrier} {n : Nat} (h : b.expected = 0 ∨ b.expected = n) :
    b.arrive none n = some { b with expected := n, arrived := b.arrived + 1 } := by
  refine if_neg ?_
  rcases h with h | h <;> simp [h]

/-- R204, R281: after its release a `barr.nb` arrives with a count that the barrier accepts. -/
theorem barrNb_turns (h : IsBargeSync (.barrNb f) r) : Turns (.barrNb f) r := by
  cases h
  intro s ⟨hkind, hpos, hmembers, hlike, hreleased⟩
  have harrive := arrive_barge hlike
  have hfew : decide (maxMembers (s.launch (launchOfTeam s.bargeTeam)) < memberCount f) = false := decide_eq_false (Nat.not_lt.2 hmembers)
  have hcount : (decide (xfield f 11 2 ≠ 0) || decide (memberCount f = 0) ||
      decide (maxMembers (s.launch (launchOfTeam s.bargeTeam)) < memberCount f)) = false := by
    simp [hfew, hkind, Nat.pos_iff_ne_zero.1 hpos]
  rw [Laws.exec_barrNb, execBarrNb]
  simp only [xbits_eq, memberCount_eq, barrierNo_eq, hcount, Bool.false_eq_true, if_false, harrive]
  exact next_of_release hreleased (by simp only [atRelease_team, harrive])

/-- R181, R281: after its release a `barr.sc` arrives at its chamber. -/
theorem barrSc_turns (h : IsBargeSync (.barrSc f) r) : Turns (.barrSc f) r := by
  cases h with
  | barrSc f c t =>
    intro s ⟨hkind, hplace, hreleased, harrive⟩
    rw [areg_toNat] at harrive
    have hat : arriveAt (atRelease s (xfield f 8 3)) (teamAgent s s.bargeTeam) c (if bitOf f.x.toNat 7 then 0 else 1)
        (s.areg f.b.toNat % 2 ^ 32) false 0 (xfield f 8 3) = .ok () t := harrive
    rw [Laws.exec_barrSc, execBarrSc]
    simp only [xbits_eq, hkind, ne_eq, not_true_eq_false, if_false, bargeChamber_ok hplace]
    exact next_of_release hreleased (by simp only [atRelease_areg, atRelease_bargeTeam, atRelease_teamAgent, hat])

/-- R208, R281: after its release a `bsem` raises its semaphore. -/
theorem bsem_turns (h : IsBargeSync (.bsem f) r) : Turns (.bsem f) r := by
  cases h
  intro s hreleased
  refine (Laws.exec_bsem f s).trans (next_of_release hreleased ?_)
  simp only [atRelease_semAmount, atRelease_sem, semaphoreNo_eq]
  rfl

/-! ### Waits (R184, R204, R208, R281) -/

/-- A change of the barge in hand leaves every semaphore. -/
theorem sem_modNow (s : State) (x : Barge → Barge) (core k : Nat) : (s.modNow x).sem core k = s.sem core k := rfl

/-- R208: a barge that joins an empty queue of a semaphore whose count suffices is the one that passes. -/
theorem joinSem_passes {core k b n : Nat} (x : Barge → Barge) (hempty : s.semQueue core k = []) (henough : n ≤ s.sem core k) :
    ((((s.joinSem core k (.barge b)).modNow x).semQueue core k).head? = some (.barge b) &&
      decide (n ≤ ((s.joinSem core k (.barge b)).modNow x).sem core k)) = true := by
  have hqueue : ((s.joinSem core k (.barge b)).modNow x).semQueue core k = [.barge b] := semQueue_joinSem (.barge b) hempty
  rw [hqueue, sem_modNow, sem_joinSem, decide_eq_true henough]
  simp

/-- R208, R281: a `bwait` of more than 0 passes where nobody waits and the count suffices, one of 0 at once. -/
theorem bwait_turns (h : IsBargeSync (.bwait f) r) : Turns (.bwait f) r := by
  cases h with
  | bwait f =>
    intro s ⟨hkind, hsome, hlanded, hempty, henough⟩
    rw [Laws.exec_bwait, execBwait]
    simp only [xbits_eq, hkind, semaphoreNo_eq, semAmount_eq, copying_of_landed hlanded, hsome, ne_eq, not_true_eq_false, Bool.false_eq_true, if_false]
    refine (if_pos (joinSem_passes _ hempty henough)).trans ?_
    rw [sem_modNow, sem_joinSem]
    rfl
  | bwaitZero f =>
    intro s ⟨hkind, hzero, hlanded⟩
    rw [Laws.exec_bwait, execBwait]
    simp only [xbits_eq, hkind, semAmount_eq, hzero, copying_of_landed hlanded, ne_eq, not_true_eq_false, Bool.false_eq_true, if_false, if_true]

/-- R184, R281: a `bwait.sc` passes a sound chamber whose phase has left the one it names. -/
theorem bwaitSc_turns (h : IsBargeSync (.bwaitSc f) r) : Turns (.bwaitSc f) r := by
  cases h with
  | bwaitSc f c x t =>
    intro s ⟨hplace, hlanded, hread, hphase, hscope, hsound⟩
    have hpassed : ¬ x.phase = bitOf f.imm.toNat 0 := hphase
    have hhere : readChamber s (teamAgent s s.bargeTeam) c = .ok x t := hread
    rw [Laws.exec_bwaitSc, execBwaitSc]
    simp only [xbits_eq, bargeChamber_ok hplace, copying_of_landed hlanded, hhere, hpassed, hscope, hsound, bne_self_eq_false, Bool.false_eq_true,
      if_false]

/-- R204, R281: a `bwait.nb` passes where the phase is the other one already, or has flipped while it waited. -/
theorem bwaitNb_turns (h : IsBargeSync (.bwaitNb f) r) : Turns (.bwaitNb f) r := by
  cases h with
  | bwaitNb f =>
    intro s ⟨hkind, hlanded, hfresh, hphase⟩
    have hpassed : ¬ ((s.team s.bargeTeam).nb (barrierNo f)).phase = bitOf f.imm.toNat 8 := hphase
    have hnone : s.bargeNow.nbWait = none := hfresh
    rw [Laws.exec_bwaitNb, execBwaitNb]
    simp only [xbits_eq, hkind, barrierNo_eq, copying_of_landed hlanded, hnone, hpassed, ne_eq, not_true_eq_false, Bool.false_eq_true, if_false]
  | bwaitNbFlipped f n =>
    intro s ⟨hkind, hlanded, hflipped⟩
    have hwait : s.bargeNow.nbWait = some (n, true) := hflipped
    rw [Laws.exec_bwaitNb, execBwaitNb]
    simp only [xbits_eq, hkind, copying_of_landed hlanded, hwait, ne_eq, not_true_eq_false, Bool.false_eq_true, if_false, if_true]

/-! ### Fences (R282) -/

/-- R282: a `bfence` waits for the barge's own accesses alone. -/
theorem bfence_turns (h : IsBargeSync (.bfence f) r) : Turns (.bfence f) r := by
  cases h
  intro s ⟨hlow, hhigh, hown⟩
  rw [Laws.exec_bfence, execBfence]
  simp only [xbits_eq, hlow, hhigh, bargePerformed_of_ownDone hown, decide_false, Bool.or_self, Bool.false_eq_true, if_false, if_true]

/-! ### The end of a run (R281) -/

/-- R281: after its release a `btok` retires the oldest operation of the run, which is not its last. -/
theorem btok_turns (h : IsBargeSync (.btok f) r) : Turns (.btok f) r := by
  cases h
  intro s ⟨hleft, hreleased⟩
  refine ((Laws.exec_btok f s).trans (if_neg (Nat.not_le.2 hleft))).trans (next_of_release hreleased ?_)
  simp only [atRelease_since]
  rfl

/-- R281: after its release a `bend` retires what is left of the run, and the barge is idle. -/
theorem bend_turns (h : IsBargeSync (.bend f) r) : Turns (.bend f) r := by
  cases h
  intro s hreleased
  refine (Laws.exec_bend f s).trans (next_of_release hreleased ?_)
  simp only [atRelease_since, State.modNow]

/-- R208, R233, R281, R282: each instruction by which a barge arrives, waits, fences or ends its run. -/
theorem isBargeSync_turns (h : IsBargeSync i r) : Turns i r := by
  cases h with
  | barrNb f => exact barrNb_turns (.barrNb f)
  | barrSc f c t => exact barrSc_turns (.barrSc f c t)
  | bsem f => exact bsem_turns (.bsem f)
  | bwait f => exact bwait_turns (.bwait f)
  | bwaitZero f => exact bwait_turns (.bwaitZero f)
  | bwaitSc f c x t => exact bwaitSc_turns (.bwaitSc f c x t)
  | bwaitNb f => exact bwaitNb_turns (.bwaitNb f)
  | bwaitNbFlipped f n => exact bwaitNb_turns (.bwaitNbFlipped f n)
  | bfence f => exact bfence_turns (.bfence f)
  | btok f => exact btok_turns (.btok f)
  | bend f => exact bend_turns (.bend f)

end BargeSync

/-- Settles O48: where its condition holds, with its release complete, each of them leaves the state of its rule. -/
theorem bargeSync : Obligations.BargeSync := fun _ _ h => isBargeSync_turns h

end Sys2Proof.Proofs

/-! Stores to the core scratchpad and the slices of the lanes (R192, R195, R196, R200): where each number of the table of operations names one
entry, `sts` and `stl` store each active lane's data and leave everything else alone; where a number names two, they need not. -/

namespace Sys2Proof.Proofs

open Sys2Proof Sys2Proof.Machine Sys2Proof.Rules

section Stores

variable {s t u v : State} {f : ExtForm} {o : Op} {id major : Nat}

/-! ### Tables of bytes -/

/-- Every byte of the second table is one that `P` puts at its key, or that of the first table where `P` puts none. -/
def Overwrites (m m' : Sparse Byte) (P : Nat → Byte → Prop) : Prop :=
  ∀ x, P x (Sparse.get 0#8 m' x) ∨ (Sparse.get 0#8 m' x = Sparse.get 0#8 m x ∧ ∀ b, ¬ P x b)

variable {m m' m'' : Sparse Byte} {P Q : Nat → Byte → Prop}

theorem overwrites_refl (h : ∀ x b, ¬ P x b) : Overwrites m m P := fun x => .inr ⟨rfl, h x⟩

theorem Overwrites.trans (h : Overwrites m m' P) (h' : Overwrites m' m'' Q) : Overwrites m m'' (fun x b => P x b ∨ Q x b) := by
  intro x
  rcases h' x with hQ | ⟨hsame, hnoQ⟩
  · exact .inl (.inr hQ)
  · rw [hsame]
    exact (h x).imp .inl fun ⟨hkept, hnoP⟩ => ⟨hkept, fun b => not_or.2 ⟨hnoP b, hnoQ b⟩⟩

theorem Overwrites.congr (h : Overwrites m m' P) (hiff : ∀ x b, P x b ↔ Q x b) : Overwrites m m' Q := by
  have hsame : P = Q := funext fun x => funext fun b => propext (hiff x b)
  exact hsame ▸ h

theorem overwrites_set (m : Sparse Byte) (k : Nat) (b : Byte) : Overwrites m (Sparse.set 0#8 m k b) (fun x c => x = k ∧ c = b) := by
  intro x
  rw [Laws.get_set]
  by_cases hx : x = k
  · exact .inl ⟨hx, if_pos hx⟩
  · exact .inr ⟨if_neg hx, fun _ h => hx h.1⟩

/-- Bytes put one after the other: the first at its key, the others from the next key on. -/
theorem placed_cons (key : Nat → Nat) (b : Byte) (bs : List Byte) (x : Nat) (c : Byte) :
    ((x = key 0 ∧ c = b) ∨ ∃ j, bs[j]? = some c ∧ x = key (j + 1)) ↔ ∃ j, (b :: bs)[j]? = some c ∧ x = key j := by
  constructor
  · rintro (⟨hx, hc⟩ | ⟨j, hj, hx⟩)
    · exact ⟨0, congrArg some hc.symm, hx⟩
    · exact ⟨j + 1, hj, hx⟩
  · rintro ⟨_ | j, hj, hx⟩
    · exact .inl ⟨hx, (Option.some.inj hj).symm⟩
    · exact .inr ⟨j, hj, hx⟩

theorem overwrites_putBytes (m : Sparse Byte) (k : Nat) (bs : List Byte) :
    Overwrites m (putBytes m k bs) (fun x c => ∃ j, bs[j]? = some c ∧ x = k + j) := by
  induction bs generalizing m k with
  | nil => exact overwrites_refl fun x b ⟨j, hj, _⟩ => by simp at hj
  | cons b bs ih =>
    refine ((overwrites_set m k b).trans (ih (Sparse.set 0#8 m k b) (k + 1))).congr fun x c => ?_
    simpa only [Nat.add_assoc, Nat.add_comm 1, Nat.add_zero] using placed_cons (fun j => k + j) b bs x c

/-! ### The bytes of a number -/

theorem getElem?_toBytes (x n j : Nat) (b : Byte) : (toBytes x n)[j]? = some b ↔ j < n ∧ b = BitVec.ofNat 8 (x / 2 ^ (8 * j)) := by
  induction n generalizing x j with
  | zero => simp [toBytes]
  | succ n ih =>
    cases j with
    | zero => simp [toBytes, eq_comm]
    | succ j =>
      have hbyte : x / 256 / 2 ^ (8 * j) = x / 2 ^ (8 * (j + 1)) := by
        rw [Nat.div_div_eq_div_mul, show 256 = 2 ^ 8 from rfl, ← Nat.pow_add, Nat.add_comm 8, Nat.mul_succ]
      simp only [toBytes, List.getElem?_cons_succ, ih, Nat.add_lt_add_iff_right, hbyte]

/-! ### The table of operations (R172, R200) -/

theorem mem_insert_sparse {α : Type} {m : Sparse α} {k : Nat} {x : α} {p : Nat × α} (h : p ∈ Sparse.insert m k x) : p.1 = k ∨ p ∈ m := by
  induction m with
  | nil => exact .inl (by simpa [Sparse.insert] using congrArg Prod.fst (List.mem_singleton.1 h))
  | cons q m ih =>
    rw [Sparse.insert] at h
    split_ifs at h with hlt heq
    · exact (List.mem_cons.1 h).imp (congrArg Prod.fst) fun h => h
    · exact (List.mem_cons.1 h).imp (congrArg Prod.fst) (List.mem_cons_of_mem _)
    · rcases List.mem_cons.1 h with h | h
      · exact .inr (h ▸ List.mem_cons_self)
      · exact (ih h).imp_right (List.mem_cons_of_mem _)

/-- The second operation is the first, of which parts may have been performed. -/
def Progress (o p : Op) : Prop := ∃ vals performed homed, p = { o with vals := vals, performed := performed, homed := homed }

theorem progress_refl (o : Op) : Progress o o := ⟨_, _, _, rfl⟩

theorem progress_part {p : Op} (h : Progress o p) (k : Nat) (bs : List Byte) : Progress o (((p.keep k bs).did k).atHome k) := by
  obtain ⟨_, _, _, rfl⟩ := h
  exact ⟨_, _, _, rfl⟩

/-- In the second table operation `id` is `o` in progress; the other entries are those of the first. -/
structure Performing (old : Sparse Op) (id : Nat) (o : Op) (ops : Sparse Op) : Prop where
  has : Sparse.has ops id = true
  progress : Progress o (Sparse.get {} ops id)
  older : ∀ n, n ≠ id → Sparse.get {} ops n = Sparse.get {} old n
  entries : ∀ p ∈ ops, p.1 = id ∨ p ∈ old

theorem performing_insert (old : Sparse Op) (id : Nat) (o : Op) : Performing old id o (Sparse.insert old id o) where
  has := Laws.has_insert _ _ _
  progress := by rw [Laws.get_insert_same]; exact progress_refl o
  older _ hn := Laws.get_insert_other _ _ _ _ _ hn
  entries _ hp := mem_insert_sparse hp

variable {old : Sparse Op}

theorem performing_modOp {x : Op → Op} (h : Performing old id o u.ops) (hx : ∀ p, Progress o p → Progress o (x p)) :
    Performing old id o (u.modOp id x).ops := by
  have hops : (u.modOp id x).ops = Sparse.insert u.ops id (x (u.op id)) := by
    rw [State.modOp, State.hasOp, h.has, if_pos rfl]
    rfl
  rw [hops]
  refine ⟨Laws.has_insert _ _ _, ?_, fun n hn => ?_, fun p hp => ?_⟩
  · rw [Laws.get_insert_same]
    exact hx _ h.progress
  · rw [Laws.get_insert_other _ _ _ _ _ hn, h.older n hn]
  · exact (mem_insert_sparse hp).elim .inl (h.entries p)

/-- R200: nothing that the group has issued before operation `id` is still to be performed. -/
def Quiet (ops : Sparse Op) (id g : Nat) : Prop := ∀ p ∈ ops, p.1 < id → p.2.grp = g → p.2.left = []

theorem quiet_of_performing {g : Nat} (h : Quiet old id g) (hops : Performing old id o u.ops) : Quiet u.ops id g :=
  fun p hp hlt => (hops.entries p hp).elim (fun heq => absurd heq (Nat.ne_of_lt hlt)) fun hold => h p hold hlt

/-- R200: nothing is performed before an access of a quiet group. -/
theorem performOlder_quiet {g : Nat} (h : Quiet u.ops id g) (a n : Nat) : performOlder u g id a n = u := by
  have hnone : partsBefore u g id a n = [] := by
    refine congrArg Prod.snd ((List.foldl_ext _ (fun acc _ => acc) _ fun acc p hp => ?_).trans (List.foldl_fixed _))
    simp only [List.mem_reverse, List.mem_filter, Bool.and_eq_true, decide_eq_true_eq] at hp
    obtain ⟨hmem, ⟨hlt, hgrp⟩, -⟩ := hp
    rw [h p hmem hlt hgrp]
    rfl
  rw [performOlder, hnone]
  rfl

/-! ### What the parts of a store write -/

/-- The second state is the first but for bytes of one level that `P` puts, notes of chambers and predictions, and the table of operations. -/
structure LevelWritten (tab other : Scratch → Sparse Byte) (P : Nat → Byte → Prop) (u v : State) : Prop where
  state : ∃ scr spoiled ops, v = { u with scr := scr, mem := { u.mem with spoiled := spoiled }, ops := ops }
  die : v.scr.die = u.scr.die
  other : other v.scr = other u.scr
  bytes : Overwrites (tab u.scr) (tab v.scr) P

variable {tab other : Scratch → Sparse Byte} {key : Nat → Nat → Nat}

theorem levelWritten_refl (h : ∀ x b, ¬ P x b) : LevelWritten tab other P u u := ⟨⟨_, _, _, rfl⟩, rfl, rfl, overwrites_refl h⟩

theorem LevelWritten.trans (h : LevelWritten tab other P s u) (h' : LevelWritten tab other Q u v) :
    LevelWritten tab other (fun x b => P x b ∨ Q x b) s v where
  state := by
    obtain ⟨_, _, _, rfl⟩ := h.state
    obtain ⟨_, _, _, rfl⟩ := h'.state
    exact ⟨_, _, _, rfl⟩
  die := h'.die.trans h.die
  other := h'.other.trans h.other
  bytes := h.bytes.trans h'.bytes

theorem LevelWritten.congr (h : LevelWritten tab other P u v) (hiff : ∀ x b, P x b ↔ Q x b) : LevelWritten tab other Q u v :=
  ⟨h.state, h.die, h.other, h.bytes.congr hiff⟩

theorem LevelWritten.modOp (h : LevelWritten tab other P u v) (x : Op → Op) : LevelWritten tab other P u (v.modOp id x) := by
  have hops : v.modOp id x = { v with ops := (v.modOp id x).ops } := by
    unfold State.modOp
    split <;> rfl
  obtain ⟨⟨_, _, _, rfl⟩, hdie, hother, hbytes⟩ := h
  rw [hops]
  exact ⟨⟨_, _, _, rfl⟩, hdie, hother, hbytes⟩

/-- R200: writes of an operation's parts reach one level, each lane's addresses at its keys. -/
def WritesLevel (s : State) (o : Op) (tab other : Scratch → Sparse Byte) (key : Nat → Nat → Nat) : Prop :=
  ∀ u k bs, u.teams = s.teams → (levelWrite u o k bs).ops = u.ops ∧
    LevelWritten tab other (fun x b => ∃ j, bs[j]? = some b ∧ x = key (k / 4) (o.at_ k + j)) u (levelWrite u o k bs)

/-- R187: a part of an `sts`. -/
theorem writesLevel_core (hmajor : o.major = 0x13) (hlive : (s.team (teamOf o.grp)).exited = false) :
    WritesLevel s o Scratch.core Scratch.lane (fun _ a => teamOf o.grp * 2 ^ 20 + a) := by
  intro u k bs hteams
  have hthere : (u.team (teamOf o.grp)).exited = false := by rw [State.team, hteams]; exact hlive
  have hwrite : levelWrite u o k bs = u.scrWrite (teamOf o.grp) (o.at_ k) bs := by simp only [levelWrite, hmajor]
  rw [hwrite, State.scrWrite, hthere]
  exact ⟨rfl, ⟨_, _, _, rfl⟩, rfl, rfl, (overwrites_putBytes _ _ bs).congr fun x b => by simp only [Nat.add_assoc]⟩

theorem laneWrite_written (u : State) (g i a : Nat) (bs : List Byte) : (u.laneWrite g i a bs).ops = u.ops ∧
    LevelWritten Scratch.lane Scratch.core (fun x b => ∃ j, bs[j]? = some b ∧ x = g * 2 ^ 20 + laneOffset i (a + j)) u (u.laneWrite g i a bs) := by
  induction bs generalizing u a with
  | nil => exact ⟨rfl, levelWritten_refl fun x b ⟨j, hj, _⟩ => by simp at hj⟩
  | cons b bs ih =>
    obtain ⟨hops, hrest⟩ := ih (u.modScr (fun c => { c with lane := Sparse.set 0#8 c.lane (g * 2 ^ 20 + laneOffset i a) b })) (a + 1)
    have hfirst : LevelWritten Scratch.lane Scratch.core (fun x c => x = g * 2 ^ 20 + laneOffset i a ∧ c = b) u
        (u.modScr (fun c => { c with lane := Sparse.set 0#8 c.lane (g * 2 ^ 20 + laneOffset i a) b })) :=
      ⟨⟨_, _, _, rfl⟩, rfl, rfl, overwrites_set _ _ b⟩
    refine ⟨hops, (hfirst.trans hrest).congr fun x c => ?_⟩
    simpa only [Nat.add_assoc, Nat.add_comm 1, Nat.add_zero] using placed_cons (fun j => g * 2 ^ 20 + laneOffset i (a + j)) b bs x c

/-- R192: a part of an `stl`. -/
theorem writesLevel_lane (hmajor : o.major = 0x14) :
    WritesLevel s o Scratch.lane Scratch.core (fun i a => o.grp * 2 ^ 20 + laneOffset i a) := by
  intro u k bs _
  have hwrite : levelWrite u o k bs = u.laneWrite o.grp (k / 4) (o.at_ k) bs := by simp only [levelWrite, hmajor]
  rw [hwrite]
  exact laneWrite_written u o.grp (k / 4) (o.at_ k) bs

/-! ### All parts of a store -/

/-- A part of the operation puts the byte at the key. -/
def PartPuts (o : Op) (key : Nat → Nat → Nat) (k x : Nat) (b : Byte) : Prop :=
  ∃ j, (o.storeBytes k [])[j]? = some b ∧ x = key (k / 4) (o.at_ k + j)

theorem storeBytes_of_progress {p : Op} (h : Progress o p) (hplain : o.atomic = false) (k : Nat) (bs : List Byte) :
    p.storeBytes k bs = o.storeBytes k [] := by
  obtain ⟨_, _, _, rfl⟩ := h
  exact (if_neg (Bool.eq_false_iff.1 hplain)).trans (if_neg (Bool.eq_false_iff.1 hplain)).symm

/-- A store performs a part by writing its bytes. -/
theorem levelPart_written (hstore : o.storing = true) (hplain : o.atomic = false) (hwrites : WritesLevel s o tab other key)
    (hops : Performing old id o u.ops) (hteams : u.teams = s.teams) (k : Nat) :
    Performing old id o (levelPart u id k).ops ∧ LevelWritten tab other (PartPuts o key k) u (levelPart u id k) := by
  have hprogress : Progress o (u.op id) := hops.progress
  have hgo : (u.op id).storing = true := by
    obtain ⟨_, _, _, hop⟩ := hprogress
    rw [hop]
    exact hstore
  have hwrite (bs : List Byte) : levelWrite u (u.op id) k bs = levelWrite u o k bs := by
    obtain ⟨_, _, _, hop⟩ := hprogress
    rw [hop]
    rfl
  obtain ⟨hkept, hwritten⟩ := hwrites u k (o.storeBytes k []) hteams
  rw [levelPart, hgo, if_pos rfl, storeBytes_of_progress hprogress hplain, hwrite]
  exact ⟨performing_modOp (hkept ▸ hops) fun p hp => progress_part hp k _, hwritten.modOp _⟩

/-- A step of `performLevelAll`: what comes before the part, then the part. -/
def performStep (id : Nat) (u : State) (k : Nat) : State :=
  let o := u.op id
  levelPart (match partPlace u o k with
    | some a => performOlder u o.grp id a (o.span k).2
    | none => u) id k

theorem performLevelAll_eq (u : State) (id : Nat) : performLevelAll u id = (u.op id).left.foldl (performStep id) u := rfl

/-- R200: nothing comes before a part of a quiet group. -/
theorem performStep_quiet (hquiet : Quiet old id o.grp) (hops : Performing old id o u.ops) (k : Nat) :
    performStep id u k = levelPart u id k := by
  have hgrp : (u.op id).grp = o.grp := by
    obtain ⟨_, _, _, hop⟩ : Progress o (u.op id) := hops.progress
    rw [hop]
  simp only [performStep]
  cases partPlace u (u.op id) k with
  | none => rfl
  | some a => simp only [hgrp, performOlder_quiet (quiet_of_performing hquiet hops)]

/-- The parts of a list, one after the other. -/
theorem parts_written (hstore : o.storing = true) (hplain : o.atomic = false) (hwrites : WritesLevel s o tab other key)
    (hquiet : Quiet old id o.grp) (hops : Performing old id o u.ops) (hteams : u.teams = s.teams) (ks : List Nat) :
    Performing old id o (ks.foldl (performStep id) u).ops ∧
      LevelWritten tab other (fun x b => ∃ k ∈ ks, PartPuts o key k x b) u (ks.foldl (performStep id) u) := by
  induction ks generalizing u with
  | nil => exact ⟨hops, levelWritten_refl fun x b ⟨k, hk, _⟩ => by simp at hk⟩
  | cons k ks ih =>
    obtain ⟨hops', hfirst⟩ := levelPart_written hstore hplain hwrites hops hteams k
    have hteams' : (levelPart u id k).teams = s.teams := by
      obtain ⟨_, _, _, hstate⟩ := hfirst.state
      rw [hstate]
      exact hteams
    obtain ⟨hall, hrest⟩ := ih hops' hteams'
    rw [List.foldl_cons, performStep_quiet hquiet hops]
    exact ⟨hall, (hfirst.trans hrest).congr fun x b => by simp only [List.exists_mem_cons_iff]⟩

/-- R200: a store of a quiet group performs its parts alone. -/
theorem performLevelAll_written (hstore : o.storing = true) (hplain : o.atomic = false) (hwrites : WritesLevel s o tab other key)
    (hquiet : Quiet s.ops s.sched.nextId o.grp) :
    let v := performLevelAll (s.newOp o) s.sched.nextId
    Performing s.ops s.sched.nextId o v.ops ∧ LevelWritten tab other (fun x b => ∃ k ∈ o.left, PartPuts o key k x b) (s.newOp o) v := by
  have hop : (s.newOp o).op s.sched.nextId = o := Laws.get_insert_same ..
  rw [performLevelAll_eq, hop]
  exact parts_written hstore hplain hwrites hquiet (u := s.newOp o) (performing_insert ..) rfl o.left

/-! ### The bytes of a lane (R196, R200) -/

theorem get_map_self {α : Type} (d : α) (x : Nat → α) {ls : List Nat} {i : Nat} (h : i ∈ ls) : Sparse.get d (ls.map (fun j => (j, x j))) i = x i := by
  induction ls with
  | nil => cases h
  | cons j ls ih =>
    by_cases hij : i = j
    · rw [hij]
      exact if_pos rfl
    · exact (if_neg hij).trans (ih ((List.mem_cons.1 h).resolve_left hij))

/-- Parts of a lane's access: the whole of it, or its words. -/
def laneParts (o : Op) (i : Nat) : List Nat :=
  if oneUnit (Sparse.get 0 o.addr i) o.size then [4 * i] else (rangeFrom 0 (o.size / 4)).map (fun j => 4 * i + j)

/-- A part of a store puts the bytes of its span. -/
theorem partPuts_iff {i k off n : Nat} (hlane : k / 4 = i) (hspan : o.span k = (off, n)) (hplain : o.atomic = false) (x : Nat) (b : Byte) :
    PartPuts o key k x b ↔ ∃ j, j < n ∧ b = BitVec.ofNat 8 (Sparse.get 0 o.data i / 2 ^ (8 * (off + j))) ∧
      x = key i (Sparse.get 0 o.addr i + (off + j)) := by
  simp only [PartPuts, Op.storeBytes, Op.at_, hplain, Bool.false_eq_true, if_false, hspan, hlane, getElem?_toBytes, Nat.div_div_eq_div_mul,
    ← Nat.pow_add, ← Nat.mul_add, Nat.add_assoc, and_assoc]

/-- A lane's access puts the byte at the key: one of its data, at its own address. -/
def LanePuts (o : Op) (key : Nat → Nat → Nat) (i x : Nat) (b : Byte) : Prop :=
  ∃ j, j < o.size ∧ b = BitVec.ofNat 8 (Sparse.get 0 o.data i / 2 ^ (8 * j)) ∧ x = key i (Sparse.get 0 o.addr i + j)

/-- R200: an access of up to 8 bytes is one part. -/
theorem unitPart_puts {i : Nat} (hunit : oneUnit (Sparse.get 0 o.addr i) o.size = true) (hplain : o.atomic = false) (x : Nat) (b : Byte) :
    (∃ k ∈ laneParts o i, PartPuts o key k x b) ↔ LanePuts o key i x b := by
  have hlane : 4 * i / 4 = i := by omega
  have hspan : o.span (4 * i) = (0, o.size) := by rw [Op.span, hlane, hunit, if_pos rfl]
  simp only [laneParts, hunit, if_true, List.mem_singleton, exists_eq_left, partPuts_iff hlane hspan hplain, LanePuts, Nat.zero_add]

/-- R200: an access of 16 bytes is four words. -/
theorem wordParts_put {i : Nat} (hwords : oneUnit (Sparse.get 0 o.addr i) o.size = false) (hsize : o.size = 16) (hplain : o.atomic = false)
    (x : Nat) (b : Byte) : (∃ k ∈ laneParts o i, PartPuts o key k x b) ↔ LanePuts o key i x b := by
  have hparts : laneParts o i = (rangeFrom 0 4).map (fun r => 4 * i + r) := by rw [laneParts, hwords, hsize]; rfl
  have hpart {r : Nat} (hr : r < 4) := partPuts_iff (o := o) (key := key) (i := i) (k := 4 * i + r) (off := 4 * r) (n := 4) (by omega) (by
    rw [Op.span, show (4 * i + r) / 4 = i by omega, hwords, show (4 * i + r) % 4 = r by omega]
    rfl) hplain x b
  simp only [hparts, List.mem_map, Laws.mem_rangeFrom, LanePuts, hsize]
  constructor
  · rintro ⟨_, ⟨r, hr, rfl⟩, hputs⟩
    have hr : r < 4 := by omega
    obtain ⟨j, hj, hb, hx⟩ := (hpart hr).1 hputs
    exact ⟨4 * r + j, by omega, hb, hx⟩
  · rintro ⟨j, hj, hb, hx⟩
    have hr : j / 4 < 4 := by omega
    refine ⟨4 * i + j / 4, ⟨j / 4, by omega, rfl⟩, (hpart hr).2 ⟨j % 4, by omega, ?_, ?_⟩⟩
    · rwa [Nat.div_add_mod]
    · rwa [Nat.div_add_mod]

/-- R196, R200: at an address aligned to its size, an access's parts put the bytes of its data. -/
theorem laneParts_put {i : Nat} (haligned : Sparse.get 0 o.addr i % o.size = 0) (hsize : o.size ≤ 8 ∨ o.size = 16) (hplain : o.atomic = false)
    (x : Nat) (b : Byte) : (∃ k ∈ laneParts o i, PartPuts o key k x b) ↔ LanePuts o key i x b := by
  by_cases hunit : o.size ≤ 8
  · exact unitPart_puts (by simp [oneUnit, hunit, haligned]) hplain x b
  · exact wordParts_put (by simp [oneUnit, hunit]) (hsize.resolve_left hunit) hplain x b

/-! ### The operation of a store (R196) -/

variable {act : Lanes}

/-- R195: the operation that an `sts` or an `stl` issues and performs. -/
abbrev storeOp (major : Nat) (f : ExtForm) (s : State) (act : Lanes) : Op := access major 1 .posted f s act

theorem storeOp_atomic (hlevel : major = 0x13 ∨ major = 0x14) : (storeOp major f s act).atomic = false := by
  rcases hlevel with rfl | rfl <;> rfl

theorem storeOp_storing (hlevel : major = 0x13 ∨ major = 0x14) : (storeOp major f s act).storing = true := by
  rcases hlevel with rfl | rfl <;> rfl

theorem storeOp_size (hlevel : major = 0x13 ∨ major = 0x14) : (storeOp major f s act).size = dataBytes f :=
  accessSize_access (major := major) (idx := 1) (by omega) (by rcases hlevel with rfl | rfl <;> rfl)

theorem storeOp_addr {i : Nat} (hi : i ∈ act.toList) : Sparse.get 0 (storeOp major f s act).addr i = addrOf f s i := get_map_self 0 (addrOf f s) hi

theorem storeOp_data (hlevel : major = 0x13 ∨ major = 0x14) {i : Nat} (hi : i ∈ act.toList) :
    Sparse.get 0 (storeOp major f s act).data i = s.storeData f (typeOf f 5) (sizeMod f) i := by
  rcases hlevel with rfl | rfl <;> exact get_map_self 0 (fun i => s.storeData f (typeOf f 5) (sizeMod f) i) hi

theorem storeOp_left : (storeOp major f s act).left = act.toList.flatMap (laneParts (storeOp major f s act)) := by
  have hall : (storeOp major f s act).left = (storeOp major f s act).parts.filter (fun k => !decide (k ∈ ([] : List Nat))) := rfl
  exact hall.trans (List.filter_eq_self.2 fun _ _ => rfl)

theorem dataBytes_le (h : f.mods.toNat % 8 ≠ 5) : dataBytes f ≤ 8 := by
  simp only [dataBytes, bytesOf, h, if_false]
  split_ifs <;> decide

theorem dataBytes_sixteen (h : f.mods.toNat % 8 = 5) : dataBytes f = 16 := by simp [dataBytes, bytesOf, h]

/-! ### The data of a store (R91, R92, R196) -/

/-- R91, R92: an operand of the class of vectors, or of those of vectors and scalars, is one of them, aligned to its registers. -/
theorem nameOk_register {g : Group} {l : Launch} {cls n w : Nat} (hcls : cls = 1 ∨ cls = 3) (hw : w ∣ 1536)
    (h : nameOk g l { cls := cls, words := w } n = true) : (n < 1536 ∨ 1536 ≤ n ∧ n < 1600 ∧ cls = 3) ∧ w ∣ n := by
  by_cases hv : n < 1536
  · simp only [nameOk, hv, if_true, regOk, Bool.and_eq_true, decide_eq_true_eq] at h
    exact ⟨.inl hv, Nat.dvd_of_mod_eq_zero h.2.1⟩
  · have hlow : 1536 ≤ n := Nat.not_lt.1 hv
    by_cases hs : n < 1600
    · simp only [nameOk, hv, hs, if_false, if_true, regOk, Bool.and_eq_true, decide_eq_true_eq] at h
      obtain ⟨hbit, haligned, -⟩ := h
      have hscalar : cls = 3 := hcls.resolve_left fun hone => by rw [hone] at hbit; cases hbit
      exact ⟨.inr ⟨hlow, hs, hscalar⟩, (Nat.dvd_sub_iff_left hlow hw).1 (Nat.dvd_of_mod_eq_zero haligned)⟩
    · have hnone : bitOf cls 2 = false ∧ bitOf cls 3 = false ∧ bitOf cls 4 = false ∧ bitOf cls 5 = false := by
        rcases hcls with rfl | rfl <;> decide
      obtain ⟨hp, hpt, hm, hc⟩ := hnone
      simp [nameOk, hv, hs, hp, hpt, hm, hc] at h

theorem dataRegs_dvd (f : ExtForm) : dataRegs f ∣ 1536 := by
  unfold dataRegs words wordsOfTy
  split_ifs <;> decide

/-- R92, R196: the data of a store stand in vectors, or in scalars where they are not four registers, aligned. -/
theorem data_register (hclear : Clear s f (storeUse f)) :
    (f.d.toNat < 1536 ∨ 1536 ≤ f.d.toNat ∧ f.d.toNat < 1600 ∧ f.mods.toNat % 8 ≠ 5) ∧ dataRegs f ∣ f.d.toNat := by
  have hname : nameOk s.me s.myLaunch { cls := if f.mods.toNat % 8 = 5 then 1 else 3, words := dataRegs f } f.d.toNat = true := by
    have hall := hclear.operands
    simp only [operandsOk, Bool.and_eq_true] at hall
    obtain ⟨⟨⟨⟨-, hdata⟩, -⟩, -⟩, -⟩ := hall
    exact hdata
  obtain ⟨hclass, haligned⟩ := nameOk_register (by split_ifs <;> simp) (dataRegs_dvd f) hname
  refine ⟨hclass.imp_right fun ⟨hlow, hhigh, hthree⟩ => ⟨hlow, hhigh, fun hfour => ?_⟩, haligned⟩
  rw [if_pos hfour] at hthree
  cases hthree

theorem read_word_lt {g : Group} {n : Nat} (h : n < 1600) (i : Nat) : g.read 5 n i < 2 ^ 32 := by
  have hfive : isWide 5 = false := rfl
  simp only [Group.read, h, hfive, Bool.false_eq_true, if_true, if_false, Nat.add_zero]
  split
  · exact BitVec.isLt _
  · exact BitVec.isLt _

/-- R91: an operand of a type that is not wide is a word. -/
theorem read_narrow {g : Group} {ty n : Nat} (h : n < 1600) (hty : isWide ty = false) (i : Nat) : g.read ty n i = g.read 5 n i := by
  have hfive : isWide 5 = false := rfl
  simp only [Group.read, h, hty, hfive, if_true]

/-- R91: an operand of a wide type is its word and that of the next register. -/
theorem read_wide {g : Group} {ty n : Nat} (h : n < 1600) (hty : isWide ty = true) (hpair : 2 ∣ n) (i : Nat) :
    g.read ty n i = g.read 5 n i + g.read 5 (n + 1) i * 2 ^ 32 := by
  have hfive : isWide 5 = false := rfl
  by_cases hv : n < 1536
  · have hnext : n + 1 < 1536 := by omega
    simp only [Group.read, hv, hnext, hty, hfive, Bool.false_eq_true, if_true, if_false, Nat.add_zero]
  · have hnext : ¬ n + 1 < 1536 := by omega
    have hnext' : n + 1 < 1600 := by omega
    have hindex : n + 1 - 1536 = n - 1535 := by omega
    simp only [Group.read, hv, h, hnext, hnext', hindex, hty, hfive, Bool.false_eq_true, if_true, if_false, Nat.add_zero]

theorem low_digit {c w : Nat} (h : w < c) (x : Nat) : (w + x * c) % c = w := by rw [Nat.add_mul_mod_self_right, Nat.mod_eq_of_lt h]

theorem high_digits {c w : Nat} (h : w < c) (x : Nat) : (w + x * c) / c = x := by
  rw [Nat.add_mul_div_right _ _ (Nat.zero_lt_of_lt h), Nat.div_eq_of_lt h, Nat.zero_add]

/-- Four digits, the lowest first, as one number. -/
theorem four_digits (c : Nat) (x : Nat → Nat) : [0, 1, 2, 3].foldl (fun y k => y + x k * c ^ k) 0 = x 0 + (x 1 + (x 2 + x 3 * c) * c) * c := by
  simp only [List.foldl]
  ring

/-- R196: the data of `.x4`: four words. -/
theorem storeData_eq_digits (s : State) (f : ExtForm) (ty i : Nat) : s.storeData f ty 5 i =
    [0, 1, 2, 3].foldl (fun y k => y + s.me.read 5 (f.d.toNat + k) i * (2 ^ 32) ^ k) 0 := by
  have hrange : rangeFrom 0 4 = [0, 1, 2, 3] := rfl
  rw [State.storeData, if_pos rfl, hrange]
  simp only [Nat.pow_mul]

theorem storeData_four {ty i r : Nat} (h : f.d.toNat + 4 ≤ 1536) (hr : r < 4) :
    s.storeData f ty 5 i / 2 ^ (32 * r) % 2 ^ 32 = s.me.read 5 (f.d.toNat + r) i := by
  have hword (k : Nat) (hk : k < 4) : s.me.read 5 (f.d.toNat + k) i < 2 ^ 32 := read_word_lt (by omega) i
  have h0 := hword 0 (by decide)
  have h1 := hword 1 (by decide)
  have h2 := hword 2 (by decide)
  have h3 := hword 3 (by decide)
  rw [storeData_eq_digits, four_digits (2 ^ 32) (fun k => s.me.read 5 (f.d.toNat + k) i), Nat.pow_mul]
  generalize 2 ^ 32 = c at h0 h1 h2 h3
  interval_cases r <;> simp only [pow_succ, pow_zero, Nat.div_one, Nat.one_mul, ← Nat.div_div_eq_div_mul, high_digits h0, high_digits h1,
    high_digits h2, low_digit h0, low_digit h1, low_digit h2, Nat.mod_eq_of_lt h3]

/-- R196: data that is not four registers has more than four bytes where its type is wide. -/
theorem wide_of_dataBytes {j : Nat} (hj : j < dataBytes f) (hhigh : 4 ≤ j) (hone : f.mods.toNat % 8 ≠ 5) : isWide (typeOf f 5) = true := by
  by_cases hty : typeOf f 5 = 4
  · rw [hty]
    rfl
  · exfalso
    simp only [dataBytes, bytesOf, hone, hty, if_false] at hj
    split_ifs at hj <;> omega

/-- R196: a word of a store's data is that of its register. -/
theorem storeData_word (hclear : Clear s f (storeUse f)) (i : Nat) {j : Nat} (hj : j < dataBytes f) :
    s.storeData f (typeOf f 5) (sizeMod f) i / 2 ^ (32 * (j / 4)) % 2 ^ 32 = s.me.read 5 (f.d.toNat + j / 4) i := by
  obtain ⟨hclass, haligned⟩ := data_register hclear
  rw [sizeMod_eq]
  by_cases hfour : f.mods.toNat % 8 = 5
  · have hregs : dataRegs f = 4 := if_pos hfour
    rw [dataBytes_sixteen hfour] at hj
    rw [hregs] at haligned
    rw [hfour]
    exact storeData_four (by omega) (by omega)
  · have hdata : s.storeData f (typeOf f 5) (f.mods.toNat % 8) i = s.me.read (typeOf f 5) f.d.toNat i := if_neg hfour
    have hlow : f.d.toNat < 1600 := by omega
    have hword := read_word_lt (g := s.me) hlow i
    rw [hdata]
    cases hty : isWide (typeOf f 5) with
    | true =>
      have hregs : dataRegs f = 2 := by simp [dataRegs, words, wordsOfTy, hfour, hty]
      rw [hregs] at haligned
      have hnext := read_word_lt (g := s.me) (n := f.d.toNat + 1) (by omega) i
      have hpair : j / 4 = 0 ∨ j / 4 = 1 := by
        have := dataBytes_le hfour
        omega
      rw [read_wide hlow hty haligned]
      rcases hpair with hr | hr <;> rw [hr]
      · simpa only [Nat.mul_zero, pow_zero, Nat.div_one, Nat.add_zero] using low_digit hword _
      · rw [Nat.mul_one, high_digits hword, Nat.mod_eq_of_lt hnext]
    | false =>
      have hr : j / 4 = 0 := by
        by_contra hne
        have hwide := wide_of_dataBytes hj (by omega) hfour
        rw [hty] at hwide
        cases hwide
      rw [read_narrow hlow hty, hr]
      simpa only [Nat.mul_zero, pow_zero, Nat.div_one, Nat.add_zero] using Nat.mod_eq_of_lt hword

/-- A byte of a number is that of its word. -/
theorem byte_of_word (x w j : Nat) (h : x / 2 ^ (32 * (j / 4)) % 2 ^ 32 = w) :
    BitVec.ofNat 8 (x / 2 ^ (8 * j)) = BitVec.ofNat 8 (w / 2 ^ (8 * (j % 4))) := by
  have hsplit : 8 * j = 32 * (j / 4) + 8 * (j % 4) := by omega
  have hr : j % 4 < 4 := Nat.mod_lt _ (by decide)
  rw [hsplit, Nat.pow_add, ← Nat.div_div_eq_div_mul, ← h]
  generalize x / 2 ^ (32 * (j / 4)) = y
  generalize j % 4 = r at hr
  apply BitVec.eq_of_toNat_eq
  simp only [BitVec.toNat_ofNat]
  interval_cases r <;> omega

/-- R196: a byte of a store's data is that of its register. -/
theorem storeData_byte (hclear : Clear s f (storeUse f)) (i : Nat) {j : Nat} (hj : j < dataBytes f) :
    BitVec.ofNat 8 (s.storeData f (typeOf f 5) (sizeMod f) i / 2 ^ (8 * j)) = storedByte f s i j :=
  byte_of_word _ _ _ (storeData_word hclear i hj)

/-! ### What a store leaves -/

/-- R195, R196: the bytes that the active lanes store, each at its key. -/
def LanesStore (f : ExtForm) (s : State) (act : Lanes) (key : Nat → Nat → Nat) (x : Nat) (b : Byte) : Prop :=
  ∃ i j, i < 32 ∧ act.getLsbD i = true ∧ j < dataBytes f ∧ x = key i (addrOf f s i + j) ∧ b = storedByte f s i j

/-- R195, R196, R200: the parts of a store's operation put what the active lanes store. -/
theorem parts_put_iff (hlevel : major = 0x13 ∨ major = 0x14) (hclear : Clear s f (storeUse f)) (hin : inLevel major (dataBytes f) f s act)
    (x : Nat) (b : Byte) : (∃ k ∈ (storeOp major f s act).left, PartPuts (storeOp major f s act) key k x b) ↔ LanesStore f s act key x b := by
  have hsize : (storeOp major f s act).size ≤ 8 ∨ (storeOp major f s act).size = 16 := by
    rw [storeOp_size hlevel]
    exact (em (f.mods.toNat % 8 = 5)).symm.imp dataBytes_le dataBytes_sixteen
  have hlane (i : Nat) (hi : i ∈ act.toList) : (∃ k ∈ laneParts (storeOp major f s act) i, PartPuts (storeOp major f s act) key k x b) ↔
      ∃ j, j < dataBytes f ∧ x = key i (addrOf f s i + j) ∧ b = storedByte f s i j := by
    obtain ⟨hi32, hactive⟩ := Laws.mem_lanes.1 hi
    have haligned : Sparse.get 0 (storeOp major f s act).addr i % (storeOp major f s act).size = 0 := by
      rw [storeOp_addr hi, storeOp_size hlevel]
      exact (hin i hi32 hactive).1
    rw [laneParts_put haligned hsize (storeOp_atomic hlevel), LanePuts, storeOp_size hlevel, storeOp_addr hi, storeOp_data hlevel hi]
    refine exists_congr fun j => and_congr_right fun hj => ?_
    rw [storeData_byte hclear i hj, and_comm]
  simp only [storeOp_left, List.mem_flatMap, LanesStore]
  constructor
  · rintro ⟨k, ⟨i, hi, hk⟩, hputs⟩
    obtain ⟨hi32, hactive⟩ := Laws.mem_lanes.1 hi
    obtain ⟨j, hj⟩ := (hlane i hi).1 ⟨k, hk, hputs⟩
    exact ⟨i, j, hi32, hactive, hj⟩
  · rintro ⟨i, j, hi32, hactive, hj⟩
    have hi := Laws.mem_lanes.2 ⟨hi32, hactive⟩
    obtain ⟨k, hk, hputs⟩ := (hlane i hi).2 ⟨j, hj⟩
    exact ⟨k, ⟨i, hi, hk⟩, hputs⟩

theorem regBit_of_outgoing {g h : Group} (hgo : Outgoing g h) (n k : Nat) : regBit h n k = regBit g n k := by
  obtain ⟨_, _, _, _, _, _, _, _, _, _, _, _, _, _, _, rfl⟩ := hgo
  rfl

/-- What passes on keeps every register and every other group. -/
theorem advance_keeps (s : State) : (∀ g n k, regBit (s.advance.group g) n k = regBit (s.group g) n k) ∧
    ∀ k, k ≠ grp s → s.advance.group k = s.group k := by
  have hothers := (advance_onlyGroup s).others
  refine ⟨fun g n k => ?_, hothers⟩
  by_cases hg : g = grp s
  · rw [hg, advance_group]
    exact regBit_of_outgoing ((outgoing_place _ _ _ _).trans (outgoing_counted _)) n k
  · rw [hothers g hg]

/-- The frame of a store: what stands outside the bytes of its level. -/
theorem storedFrame_of_written (hwritten : LevelWritten tab other P (s.newOp o) v) (hops : Performing s.ops s.sched.nextId o v.ops) :
    StoredFrame s (v.dropOp s.sched.nextId).advance := by
  obtain ⟨⟨_, _, _, hstate⟩, hdie, -, -⟩ := hwritten
  have hgroups (k : Nat) : (v.dropOp s.sched.nextId).group k = s.group k := by rw [hstate]; rfl
  have hgrp : grp (v.dropOp s.sched.nextId) = grp s := by rw [hstate]; rfl
  obtain ⟨hregs, hothers⟩ := advance_keeps (v.dropOp s.sched.nextId)
  exact {
    memory := fun a => by rw [hstate]; rfl
    registers := fun g n k _ _ => (hregs g n k).trans (by rw [hgroups])
    others := fun k hk => (hothers k (hgrp ▸ hk)).trans (hgroups k)
    older := fun n hn => (Laws.get_erase_other _ _ _ _ hn).trans (hops.older n hn)
    die := hdie
    rest := by rw [hstate]; exact ⟨rfl, rfl, rfl, rfl, rfl, rfl⟩ }

/-- Each number of the table of operations names one entry. -/
def NumbersName (s : State) : Prop := ∀ p ∈ s.ops, s.op p.1 = p.2

theorem numbersName_reset : NumbersName State.reset := fun _ hp => absurd hp List.not_mem_nil

theorem quiet_of_scratchQuiet (hnames : NumbersName s) (h : scratchQuiet s) : Quiet s.ops s.sched.nextId (grp s) :=
  fun p hp _ hgrp => (congrArg Op.left (hnames p hp)).symm.trans ((h p hp).2 hgrp)

/-- R200: the store is performed as it issues. -/
theorem store_written (hlevel : major = 0x13 ∨ major = 0x14) (hclear : Clear s f (storeUse f)) (hin : inLevel major (dataBytes f) f s act)
    (hwrites : WritesLevel s (storeOp major f s act) tab other key) (hnames : NumbersName s) (hquiet : scratchQuiet s) :
    let t := (storeAct major f).next s act
    StoredFrame s t ∧ other t.scr = other s.scr ∧ Overwrites (tab s.scr) (tab t.scr) (LanesStore f s act key) := by
  obtain ⟨hops, hwritten⟩ := performLevelAll_written (storeOp_storing hlevel) (storeOp_atomic hlevel) hwrites (quiet_of_scratchQuiet hnames hquiet)
  exact ⟨storedFrame_of_written hwritten hops, hwritten.other, hwritten.bytes.congr (parts_put_iff hlevel hclear hin)⟩

/-- A byte that the lanes store, and no other lane at its key, is there. -/
theorem stored_byte {i j : Nat} (h : Overwrites m m' (LanesStore f s act key)) (hi : i < 32) (hactive : act.getLsbD i = true)
    (hj : j < dataBytes f) (hone : ∀ i' j', i' < 32 → act.getLsbD i' = true → j' < dataBytes f → key i (addrOf f s i + j) = key i' (addrOf f s i' + j') →
      i' = i ∧ j' = j) : Sparse.get 0#8 m' (key i (addrOf f s i + j)) = storedByte f s i j := by
  rcases h (key i (addrOf f s i + j)) with ⟨i', j', hi', hactive', hj', hx, hb⟩ | ⟨-, hnone⟩
  · obtain ⟨rfl, rfl⟩ := hone i' j' hi' hactive' hj' hx
    exact hb
  · exact absurd ⟨i, j, hi, hactive, hj, rfl, rfl⟩ (hnone (storedByte f s i j))

theorem kept_byte {x : Nat} (h : Overwrites m m' (LanesStore f s act key))
    (hx : ∀ i j, i < 32 → act.getLsbD i = true → j < dataBytes f → x ≠ key i (addrOf f s i + j)) : Sparse.get 0#8 m' x = Sparse.get 0#8 m x := by
  rcases h x with ⟨i, j, hi, hactive, hj, hkey, -⟩ | ⟨hkept, -⟩
  · exact absurd hkey (hx i j hi hactive hj)
  · exact hkept

/-- R187, R195, R200: what `sts` leaves. -/
theorem coreStored (hclear : Clear s f (storeUse f)) (hin : inLevel 0x13 (dataBytes f) f s act) (hlive : (s.team (team s)).exited = false)
    (hnames : NumbersName s) (hquiet : scratchQuiet s) : CoreStored f act s ((storeAct 0x13 f).next s act) := by
  obtain ⟨hframe, hlane, hbytes⟩ := store_written (.inl rfl) hclear hin (writesLevel_core rfl hlive) hnames hquiet
  refine ⟨fun k j hk hactive hj halone => ?_, fun x hx => kept_byte hbytes hx, hlane, hframe⟩
  refine stored_byte hbytes hk hactive hj fun i' j' hi' hactive' hj' hkey => ?_
  have hsame : i' = k := by
    by_contra hne
    have := halone i' hi' hactive' hne
    omega
  subst hsame
  exact ⟨rfl, by omega⟩

/-- R192, R195, R200: what `stl` leaves. -/
theorem laneStored (hclear : Clear s f (storeUse f)) (hin : inLevel 0x14 (dataBytes f) f s act) (hnames : NumbersName s) (hquiet : scratchQuiet s) :
    LaneStored f act s ((storeAct 0x14 f).next s act) := by
  obtain ⟨hframe, hcore, hbytes⟩ := store_written (.inr rfl) hclear hin (writesLevel_lane rfl) hnames hquiet
  refine ⟨fun k j hk hactive hj => ?_, fun x hx => kept_byte hbytes hx, hcore, hframe⟩
  refine stored_byte hbytes hk hactive hj fun i' j' hi' _ _ hkey => ?_
  simp only [laneOffset] at hkey
  have hlanes : i' = k := by omega
  subst hlanes
  exact ⟨rfl, by omega⟩

/-- R192, R195, R196, R200: `sts` stores each active lane's data and leaves everything else alone. -/
theorem sts_stores {i : Instr} (hinstr : i = .stsX f ∨ ∃ g : BaseForm, i = .sts g ∧ f = g.toExt 0x13 1) (hnames : NumbersName s)
    (hclear : Clear s f (storeUse f)) (hsome : SomeActive s f) (hfence : unfenced s) (hin : inLevel 0x13 (dataBytes f) f s (s.active f))
    (hquiet : scratchQuiet s) (hlive : (s.team (team s)).exited = false) : ∃ t, exec i s = .next t ∧ CoreStored f (s.active f) s t := by
  have hexec : exec i s = levelStore 0x13 f s := by
    rcases hinstr with rfl | ⟨g, rfl, rfl⟩
    · exact Laws.exec_stsX f s
    · exact Laws.exec_sts g s
  exact ⟨_, hexec.trans (levelStore_ok (.inl rfl) hclear hsome hfence hin), coreStored hclear hin hlive hnames hquiet⟩

/-- R192, R195, R196, R200: `stl` stores each active lane's data in its own slice and leaves everything else alone. -/
theorem stl_stores {i : Instr} (hinstr : i = .stlX f ∨ ∃ g : BaseForm, i = .stl g ∧ f = g.toExt 0x14 1) (hnames : NumbersName s)
    (hclear : Clear s f (storeUse f)) (hsome : SomeActive s f) (hfence : unfenced s) (hin : inLevel 0x14 (dataBytes f) f s (s.active f))
    (hquiet : scratchQuiet s) : ∃ t, exec i s = .next t ∧ LaneStored f (s.active f) s t := by
  have hexec : exec i s = levelStore 0x14 f s := by
    rcases hinstr with rfl | ⟨g, rfl, rfl⟩
    · exact Laws.exec_stlX f s
    · exact Laws.exec_stl g s
  exact ⟨_, hexec.trans (levelStore_ok (.inr rfl) hclear hsome hfence hin), laneStored hclear hin hnames hquiet⟩

end Stores

section Doubled

/-! ### A table with two entries of one number -/

/-- A store of the word in `v4` to the address in `v1` and `v2`. -/
def wordStore : ExtForm := { zeroForm with d := 4, a := 1, b := 2 }

/-- A store of lane 0 to address 0 that is still to be performed. -/
def pendingStore : Op :=
  { kind := .posted, major := 0x13, idx := 1, f := some wordStore, active := 1, addr := [(0, 0)] }

/-- Lane 0 has a store in hand, and the table of operations holds two entries of number 0: a read finds the first, which has nothing left to
perform, and a walk through the table meets `pendingStore` too. -/
def doubled : State :=
  { State.reset.setLaunch 0 placedLaunch with
    ops := [(0, {}), (0, pendingStore)]
    sched := { State.reset.sched with nextId := 1, cur := { State.reset.sched.cur with lanes := 1 } } }

theorem doubled_active : doubled.active wordStore = 1#32 := by decide

theorem doubled_clear : Clear doubled wordStore (storeUse wordStore) :=
  ⟨by decide, by decide, by decide, .inr fun _ _ => rfl⟩

theorem doubled_inLevel : inLevel 0x13 (dataBytes wordStore) wordStore doubled (doubled.active wordStore) := by
  unfold inLevel fits
  decide

/-- No entry of the table has anything left by its number. -/
theorem doubled_quiet : scratchQuiet doubled := by
  unfold scratchQuiet
  decide

/-- The store performs `pendingStore` first, by its number, and so changes the older operation of that number. -/
theorem doubled_older : (((storeAct 0x13 wordStore).next doubled 1#32).op 0).performed = [0] := by decide

end Doubled

/-- Refutes O20: `scratchQuiet` looks at the operation that an entry's number names, where the store looks at every entry, and in `doubled` these
differ: the store changes an older operation. Where each number names one entry, the statement is `sts_stores` and `stl_stores`. -/
theorem not_scratchpadStores : ¬ Obligations.ScratchpadStores := by
  intro h
  have hsome : SomeActive doubled wordStore := by rw [SomeActive, doubled_active]; decide
  obtain ⟨t, hexec, hstored⟩ := h.1 (.stsX wordStore) wordStore doubled (.inl rfl) doubled_clear hsome rfl doubled_inLevel doubled_quiet rfl
  have hnext := levelStore_ok (.inl rfl) doubled_clear hsome rfl doubled_inLevel
  rw [Laws.exec_stsX, execStsX, hnext, doubled_active] at hexec
  cases hexec
  have holder := congrArg Op.performed (hstored.frame.older 0 (by decide))
  rw [doubled_older] at holder
  cases holder

end Sys2Proof.Proofs

/-! Global memory (R211 to R215, R223, R240): the state that each access, prefetch, clean, invalidation and acquire leaves past its gate, at
addresses that are aligned. -/

namespace Sys2Proof.Proofs

open Sys2Proof Sys2Proof.Machine Sys2Proof.Rules

section GlobalMemory

variable {i : Instr} {r : Act} {f : ExtForm} {u : Use} {idx n : Nat}

/-- R211: the addresses of the lanes are those that the rule gives. -/
theorem addr64_eq_farAddr (f : ExtForm) (s : State) : s.addr64 f = farAddr f s := funext (addr64_eq f s)

/-- R211 to R215: `ldg`, `stg`, `atg` and `redg`. -/
theorem globalAccess_acts (huse : globalUse idx f = u)
    (hunit : (if isAtomicOp 0x17 idx || 0x17 = 0x1D then accessSize 0x17 idx f else min (accessSize 0x17 idx f) 4) = n)
    (hexec : ∀ s, exec i s = globalAccess idx f s) : Acts i (globalAct idx u n f) := by
  subst huse hunit
  intro s hclear hsome ⟨hfence, haligned, _⟩
  refine (hexec s).trans ((Laws.access_clear hclear hsome hfence _ _ (Laws.laneCauses_nil fun k hk hactive => ?_)).trans ?_)
  · rw [addr64_eq]
    exact globalCause_eq_zero (haligned k hk hactive)
  · simp only [globalAct, addr64_eq_farAddr]

/-- R223: `cclean` and `cinval`. -/
theorem lineAccess_acts {kind : OpKind} {scopes : List Nat} (hexec : ∀ s, exec i s = lineAccess kind idx scopes f s) :
    Acts i (lineAct idx kind scopes f) := by
  simp only [lineAccess, lineUse_eq, addr64_eq_farAddr] at hexec
  exact acts_of_access hexec (fun _ ⟨hfence, _⟩ => hfence) fun _ _ => rfl

/-- R223: a prefetch passes on. -/
theorem pref_acts (h : IsGlobal (.pref f) r) : Acts (.pref f) r := by
  cases h
  have hexec (s : State) : exec (.pref f) s = s.access f (linesUse f [3, 4]) (fun _ _ => []) (fun _ s => s.advance) := by
    rw [Laws.exec_pref, execPref, lineUse_eq]
  exact acts_of_access hexec (fun _ hfence => hfence) fun _ _ => rfl

/-- R240: the operands of an acquire, with the scopes that it takes. -/
theorem acqrUse_eq (f : ExtForm) :
    ({ d := dataWant (typeOf f 5) 0, a := baseWant 2, b := offWant
       bad := !(2 ≤ bits f.mods.toNat 3 3 && bits f.mods.toNat 3 3 ≤ 4) } : Use) =
    { d := field 3 (words f 5), a := base 2, b := field 35 1
      bad := !decide (2 ≤ f.mods.toNat / 8 % 8 ∧ f.mods.toNat / 8 % 8 ≤ 4) } := by
  rw [bits_eq_div_mod, Bool.decide_and]
  rfl

/-- R212: an acquire at an aligned address has no cause. -/
theorem acqrCause_eq_zero {s : State} {k : Nat} (haligned : farAddr f s k % bytesOf f 0 = 0) :
    globalCause 0x1D 2 (accessSize 0x1D 2 f) (s.addr64 f k) = 0 := by
  have hsize : accessSize 0x1D 2 f = bytesOf f 0 := loadSize_eq f 0
  rw [addr64_eq, hsize]
  exact globalCause_eq_zero haligned

/-- R240: an acquire issues for its lowest active lane. -/
theorem acqr_acts (h : IsGlobal (.acqr f) r) : Acts (.acqr f) r := by
  cases h
  intro s hclear hsome ⟨hfence, haligned, _⟩
  refine (Laws.access_clear (acqrUse_eq f ▸ hclear) hsome hfence _ _ ?_).trans ?_
  · rw [acqrCause_eq_zero haligned]
    simp
  · simp only [addr64_eq_farAddr]
    rfl

/-- R211 to R215, R223, R240: each global-memory instruction. -/
theorem isGlobal_acts (h : IsGlobal i r) : Acts i r := by
  cases h with
  | ldg f => exact globalAccess_acts (globalUse_access (by decide)) (globalUnit_access (by decide)) fun s => Laws.exec_ldg f s
  | stg f => exact globalAccess_acts (globalUse_access (by decide)) (globalUnit_access (by decide)) fun s => Laws.exec_stg f s
  | atg f => exact globalAccess_acts (globalUse_atomic (.inl rfl)) (globalUnit_atomic (by decide)) fun s => Laws.exec_atg f s
  | redg f => exact globalAccess_acts (globalUse_atomic (.inr rfl)) (globalUnit_atomic (by decide)) fun s => Laws.exec_redg f s
  | pref f => exact pref_acts (.pref f)
  | cclean f => exact lineAccess_acts fun s => Laws.exec_cclean f s
  | cinval f => exact lineAccess_acts fun s => Laws.exec_cinval f s
  | acqr f => exact acqr_acts (.acqr f)

end GlobalMemory

/-- Settles O32: past its gate, at aligned addresses, each global-memory instruction leaves the state of its rule. -/
theorem globalMemoryActs : Obligations.GlobalMemoryActs := fun _ _ h => isGlobal_acts h

end Sys2Proof.Proofs

/-! Invalidations, `biasset`, the traps and the ways out of a handler (R249, R319, R326, R328, R401): the state that each leaves past its gate,
where its condition holds. -/

namespace Sys2Proof.Proofs

open Sys2Proof Sys2Proof.Machine Sys2Proof.Rules

section SystemInstructions

variable {i : Instr} {r : Act} {s : State} {f : ExtForm}

/-! ### Privileged accesses (R249, R401) -/

/-- An access that no fence holds, and that has no causes of its own where its condition holds. -/
theorem acts_of_sound_access {chk : State → Lanes → State → Sparse Nat} {act : State → Lanes → State → State}
    (hexec : ∀ s, exec i s = s.access r.f r.u (chk s) (act s)) (hfence : ∀ s, r.when s (s.active r.f) → unfenced s)
    (hsound : ∀ s, SomeActive s r.f → r.when s (s.active r.f) → chk s (s.active r.f) s = [])
    (hnext : ∀ s, SomeActive s r.f → r.when s (s.active r.f) → act s (s.active r.f) s = r.next s (s.active r.f)) : Acts i r :=
  fun s hclear hsome hwhen => by
    rw [hexec, Laws.access_clear hclear hsome (hfence s hwhen) _ _ (hsound s hsome hwhen), hnext s hsome hwhen]

theorem privilegedNow_of_privileged (h : privileged s) : s.privilegedNow = true := (Bool.or_eq_true ..).mpr h

/-- R249: a group that may run privileged instructions has the causes of the instruction alone. -/
theorem privCause_eq_nil {act : Lanes} (h : privileged s) : privCause act s 0 = [] := by
  simp [privCause, privilegedNow_of_privileged h]

/-- R249: the invalidation of a range, of the pages of an address space, or of all. -/
theorem tlbinv_acts (h : IsSystem (.tlbinv f) r) : Acts (.tlbinv f) r := by
  cases h
  have hexec (s : State) := (Laws.exec_tlbinv f s).trans (execTlbinv.eq_1 f s)
  have hkind : bits f.mods.toNat 0 2 = f.mods.toNat % 4 := rfl
  simp only [hkind] at hexec
  exact acts_of_sound_access hexec (fun _ ⟨hfence, _⟩ => hfence) (fun _ _ ⟨_, hpriv, _⟩ => privCause_eq_nil hpriv) fun _ _ _ => rfl

/-- R401: a flip of 1 to 4096 whole granules. -/
theorem biasset_acts (h : IsSystem (.biasset f) r) : Acts (.biasset f) r := by
  cases h
  refine acts_of_sound_access (fun s => (Laws.exec_biasset f s).trans (execBiasset.eq_1 f s)) (fun _ ⟨hfence, _⟩ => hfence)
    (fun s _ ⟨_, hpriv, haligned, hpos, hmost, _⟩ => ?_) fun _ _ _ => rfl
  have hcount : (decide (s.opB f 5 (low (s.active f)) = 0) || decide (4096 < s.opB f 5 (low (s.active f)))) = false := by
    simp [Nat.pos_iff_ne_zero.1 hpos, Nat.not_lt.2 hmost]
  simp only [haligned, hcount, ne_eq, not_true_eq_false, Bool.false_eq_true, if_false]
  exact privCause_eq_nil hpriv

/-- R328: the discards of one of the three scopes. -/
theorem icinv_acts (h : IsSystem (.icinv f) r) : Acts (.icinv f) r := by
  cases h
  have hexec (s : State) := (Laws.exec_icinv f s).trans (execIcinv.eq_1 f s)
  simp only [icinvUse, scopeMod_eq] at hexec
  exact acts_of_access hexec (fun _ ⟨hfence, _⟩ => hfence) fun _ _ => rfl

/-! ### Ways out of a handler (R319) -/

/-- R319: in a handler, with nothing of the handler outstanding, an `rtt` does what its kind says. -/
theorem rtt_acts {go : State → State} {when : State → Lanes → Prop} {next : State → Lanes → State}
    (hexec : ∀ s, exec i s = rttBy f s go) (hdone : ∀ s act, when s act → handling s ∧ handlerDone s.me = true)
    (hgo : ∀ s act, when s act → go s = next s act) : Acts i { f := f, u := {}, when := when, next := next } := by
  refine acts_of_checked (r := { f := f, u := {}, when := when, next := next }) hexec (fun s hwhen => ?_) fun s hsome hwhen => ?_
  · have hinside : inHandler s.me = true := (hdone s _ hwhen).1
    simp [hinside]
  · dsimp only
    rw [if_neg hsome, if_pos (hdone s _ hwhen).2]
    exact hgo s _ hwhen

theorem rttSave_acts (h : IsSystem (.rttSave f) r) : Acts (.rttSave f) r := by
  cases h
  exact rtt_acts (fun s => Laws.exec_rttSave f s) (fun _ _ ⟨hinside, hdone, _⟩ => ⟨hinside, hdone⟩)
    fun s _ ⟨_, _, hpreempt⟩ => if_pos hpreempt

/-- R319: the frame and its images, both read whole, are restored. -/
theorem rttRes_acts (h : IsSystem (.rttRes f) r) : Acts (.rttRes f) r := by
  cases h with
  | rttRes f bs imgs s1 s2 =>
    refine rtt_acts (fun s => Laws.exec_rttRes f s) (fun _ _ ⟨hinside, hdone, _⟩ => ⟨hinside, hdone⟩) fun s _ ⟨_, _, hframe, himages⟩ => ?_
    have hcount : min 4 (bits (frameField bs 0x18 8) 32 4) = heldCount bs := congrArg (min 4) (bits_eq_div_mod ..)
    simp only [resume, hframe, hcount, himages]
    rfl

/-- R249, R319, R326, R328, R401: each invalidation, each trap and each way out of a handler. -/
theorem isSystem_acts (h : IsSystem i r) : Acts i r := by
  cases h with
  | icinv f => exact icinv_acts (.icinv f)
  | tlbinv f => exact tlbinv_acts (.tlbinv f)
  | biasset f => exact biasset_acts (.biasset f)
  | trap f => exact acts_of_instr_self fun s => Laws.exec_trap f s
  | brk f => exact acts_of_instr_self fun s => Laws.exec_brk f s
  | rttEnd f => exact rtt_acts (fun s => Laws.exec_rttEnd f s) (fun _ _ hwhen => hwhen) fun _ _ _ => rfl
  | rttSave f => exact rttSave_acts (.rttSave f)
  | rttRes f bs imgs s1 s2 => exact rttRes_acts (.rttRes f bs imgs s1 s2)

end SystemInstructions

/-- Settles O38: past its gate, where its condition holds, each leaves the state of its rule. -/
theorem systemActs : Obligations.SystemActs := fun _ _ h => isSystem_acts h

end Sys2Proof.Proofs

/-! Barges and the engine's reservation (R264 to R267, R287, R292): the state that each instruction of a group leaves past its gate, at a barge of
its team, where its condition holds. -/

namespace Sys2Proof.Proofs

open Sys2Proof Sys2Proof.Machine Sys2Proof.Rules

section BargeControl

variable {i : Instr} {r : Act} {s : State} {f : ExtForm} {act : Lanes}

/-! ### The barge in question (R259, R263) -/

theorem bargeKey_eq_bargeNo (h : bargeOk f s act) : s.bargeKey f act = bargeNo f s act := by
  obtain ⟨-, hfour⟩ := h
  exact congrArg (4 * team s + ·) (Nat.mod_eq_of_lt hfour)

/-- R259, R263: a barge of the team has the causes of the instruction alone. -/
theorem bargeCause_eq_nil {own : Nat → Nat} (hsome : act ≠ 0#32) (h : bargeOk f s act) (hown : own (opB0 s f act) = 0) :
    bargeCause f act s own = [] := by
  obtain ⟨hmine, hfour⟩ := h
  simp [bargeCause, hsome, Nat.not_le.2 hmine, Nat.not_le.2 hfour, hown]

/-- R264: the token takes the operations of the run. -/
theorem runBusy_of_runFree (h : runFree f s) : runBusy f s (1 + segMod f) = false := by
  rw [segMod, bits_eq_div_mod, pow_zero, Nat.div_one]
  exact h

/-- R171, R173: an operation without preconditions is there once it issues, and is not held. -/
theorem engineOp_started {cls : Nat} {o : Op} (hcls : o.kind.cls = cls) (hfree : tokenFree f cls s) (hmask : f.mask = 0#16) :
    ((s.engineOp f o).hasOp s.sched.nextId && !((s.engineOp f o).op s.sched.nextId).held) = true := by
  subst hcls
  obtain ⟨hroom, -⟩ := hfree
  have hzero : f.mask.toNat = 0 := congrArg BitVec.toNat hmask
  rw [Laws.engineOp_has s f o hroom (.inl hzero), Laws.engineOp_op s f o hroom (.inl hzero), Laws.engineEntry, hzero]
  rfl

/-! ### Starting and stopping (R264, R265) -/

/-- R264: a barge at rest is armed with its arguments. -/
theorem bgo_acts (h : IsBargeControl (.bgo f) r) : Acts (.bgo f) r := by
  cases h
  refine acts_of_sound_access (fun s => Laws.exec_bgo f s) (fun _ ⟨hfence, _⟩ => hfence)
    (fun s hsome ⟨_, hbarge, haligned, _⟩ => bargeCause_eq_nil hsome hbarge (if_neg (not_not_intro haligned))) fun s _ hwhen => ?_
  obtain ⟨-, hbarge, -, hrest, hfree⟩ := hwhen
  simp only [bargeKey_eq_bargeNo hbarge, show (s.barge (bargeNo f s (s.active f))).busy = false from hrest, runBusy_of_runFree hfree,
    Bool.false_eq_true, if_false]
  rfl

/-- R266: a barge at rest that is not idle is armed again. -/
theorem bres_acts (h : IsBargeControl (.bres f) r) : Acts (.bres f) r := by
  cases h
  refine acts_of_sound_access (fun s => Laws.exec_bres f s) (fun _ ⟨hfence, _⟩ => hfence)
    (fun s hsome ⟨_, hbarge, _⟩ => bargeCause_eq_nil hsome hbarge rfl) fun s _ hwhen => ?_
  obtain ⟨-, hbarge, hrest, hkept, hfree⟩ := hwhen
  simp only [bargeKey_eq_bargeNo hbarge, show (s.barge (bargeNo f s (s.active f))).busy = false from hrest, runBusy_of_runFree hfree, hkept,
    Bool.or_self, Bool.false_eq_true, if_false]

/-- R265: without preconditions a stop is there as it issues, and acts. -/
theorem bstop_acts (h : IsBargeControl (.bstop f) r) : Acts (.bstop f) r := by
  cases h
  refine acts_of_sound_access (fun s => Laws.exec_bstop f s) (fun _ ⟨hfence, _⟩ => hfence)
    (fun s hsome ⟨_, hbarge, _⟩ => bargeCause_eq_nil hsome hbarge rfl) fun s _ hwhen => ?_
  obtain ⟨-, hbarge, hmask, hfree⟩ := hwhen
  simp only [bargeKey_eq_bargeNo hbarge]
  exact if_pos (engineOp_started rfl hfree hmask)

/-! ### Records (R266, R267) -/

/-- R266: a barge at rest takes a sound record that lies in the scratchpad. -/
theorem bresLd_acts (h : IsBargeControl (.bresLd f) r) : Acts (.bresLd f) r := by
  cases h
  refine acts_of_sound_access (fun s => Laws.exec_bresLd f s) (fun _ ⟨hfence, _⟩ => hfence) (fun s hsome hwhen => ?_) fun s _ hwhen => ?_
  · obtain ⟨-, hbarge, -, haligned, hfits, hsound⟩ := hwhen
    refine bargeCause_eq_nil hsome hbarge ?_
    simp only [haligned, Nat.not_lt.2 hfits, hsound, Bool.and_false, ne_eq, not_true_eq_false, Bool.false_eq_true, if_false]
  · obtain ⟨-, hbarge, hrest, -⟩ := hwhen
    simp only [bargeKey_eq_bargeNo hbarge, show (s.barge (bargeNo f s (s.active f))).busy = false from hrest, Bool.false_eq_true, if_false]

/-- R267: a doubleword of the status record. -/
theorem bstat_acts (h : IsBargeControl (.bstat f) r) : Acts (.bstat f) r := by
  cases h
  refine acts_of_sound_access (fun s => Laws.exec_bstat f s) (fun _ ⟨hfence, _⟩ => hfence)
    (fun s hsome ⟨_, hbarge, hword⟩ => bargeCause_eq_nil hsome hbarge (if_neg (Nat.not_le.2 hword))) fun s _ hwhen => ?_
  obtain ⟨-, hbarge, -⟩ := hwhen
  simp only [bargeKey_eq_bargeNo hbarge]
  rfl

/-! ### The engine's reservation (R287) -/

/-- R287: an engine that is free, or the team's already, is reserved. -/
theorem mxres_acts (h : IsBargeControl (.mxres f) r) : Acts (.mxres f) r := by
  cases h
  refine acts_of_instr (fun s => Laws.exec_mxres f s) fun s _ => ?_
  cases hholder : (s.engine s.myCore).holder <;> simp [hholder]

theorem releaseEngine_eq {core team : Nat} (h : (s.engine core).holder = some team) : releaseEngine s core =
    (s.modEngine core (fun e => { e with holder := none, zeroing := true })).modScr (fun c =>
      { c with zero := c.zero.filter (fun z => z.team ≠ team) }) := by
  have hother (z : ZeroTile) : (some z.team != some team) = decide (z.team ≠ team) := by simp [bne, beq_eq_decide]
  simp only [releaseEngine, h, hother]

/-- R287: an engine with an empty queue is given back. -/
theorem mxrel_acts (h : IsBargeControl (.mxrel f) r) : Acts (.mxrel f) r := by
  cases h
  refine acts_of_instr (fun s => Laws.exec_mxrel f s) fun s hwhen => ?_
  dsimp only
  by_cases hmine : (s.engine s.myCore).holder = some (team s)
  · rw [releaseEngine_eq hmine, hwhen hmine, if_pos hmine, bne, beq_iff_eq.2 hmine]
    rfl
  · rw [if_neg hmine]
    exact if_pos (bne_iff_ne.2 hmine)

/-- R264 to R267, R287, R292: each instruction on barges and on the engine's reservation. -/
theorem isBargeControl_acts (h : IsBargeControl i r) : Acts i r := by
  cases h with
  | bgo f => exact bgo_acts (.bgo f)
  | bres f => exact bres_acts (.bres f)
  | bstop f => exact bstop_acts (.bstop f)
  | bresLd f => exact bresLd_acts (.bresLd f)
  | bstat f => exact bstat_acts (.bstat f)
  | mxres f => exact mxres_acts (.mxres f)
  | mxrel f => exact mxrel_acts (.mxrel f)
  | mxsign f => exact acts_of_instr_self fun s => Laws.exec_mxsign f s

end BargeControl

/-- Settles O39: past its gate, where its condition holds, each leaves the state of its rule. -/
theorem bargeControlActs : Obligations.BargeControlActs := fun _ _ h => isBargeControl_acts h

end Sys2Proof.Proofs

/-! Matrix instructions (R291 to R300, R308): with every lane signed, the elected lane's operation enters the queue of its engine. -/

namespace Sys2Proof.Proofs

open Sys2Proof Sys2Proof.Machine Sys2Proof.Rules

section MatrixIssue

variable {i : Instr} {s : State} {f : ExtForm} {major idx e : Nat} {useA useB : Bool}

theorem offsetCause_eq_zero {o : Nat} (h : recordAt s o) : offsetCause s o = 0 := by
  obtain ⟨haligned, hfits⟩ := h
  rw [offsetCause, if_neg (not_not_intro haligned), if_neg (Nat.not_lt.2 hfits)]

/-- R294, R308: a legal shape, records that lie in the scratchpad, and an engine that the team holds give no cause. -/
theorem issueCause_eq_zero (h : MatrixReady s f major idx useA useB e) : issueCause major idx useA useB f s e = 0 := by
  have ha : (if useA then offsetCause s (s.opA f 5 e) else 0) = 0 := ite_eq_right_iff.2 fun hused => offsetCause_eq_zero (h.a hused)
  have hb : (if useB then offsetCause s (s.opB f 5 e) else 0) = 0 := ite_eq_right_iff.2 fun hused => offsetCause_eq_zero (h.b hused)
  simp only [issueCause, h.shape, ha, hb, if_pos h.holder]
  rfl

/-- R171, R300: with room in the queue and in the token the operation issues. -/
theorem issueMatrix_ready (h : MatrixReady s f major idx useA useB e) :
    issueMatrix major idx useA useB f e s = afterMatrix s f major idx useA useB e := by
  have hroom : (decide (8 ≤ (s.engine s.myCore).queue.length) || tokenBusy s.me (inHandler s.me) f.out.toNat 4 1) = false := by
    rw [h.token, decide_eq_false (Nat.not_le.2 h.queue)]
    rfl
  simp only [issueMatrix, hroom, Bool.false_eq_true, if_false]
  rfl

/-- R291: the lanes that the instruction acts for have signed, and lane `e` of them issues it. -/
theorem matrixBy_elected (hclear : Clear s f (matrixUse useA useB)) (he : Elected s f e) (h : MatrixReady s f major idx useA useB e) :
    matrixBy major idx useA useB f s = .next (afterMatrix s f major idx useA useB e) := by
  have hgate : gate s f { d := declWant, a := if useA then countWant else none, b := if useB then countWant else none, c := shapeWant } =
      .go none := Laws.gate_clear hclear
  have hfirst : (if f.d = 1671#11 then s.me.live else (s.me.join (maskNo f.d)).members &&& s.me.live).lowest = some e := he.first
  have hsigned : (!(decide (f.d = 1671#11) || Lanes.sub (if f.d = 1671#11 then s.me.live else (s.me.join (maskNo f.d)).members &&& s.me.live)
      (s.me.join (maskNo f.d)).signed) || s.fenced) = false := by
    rw [show s.fenced = false from h.unfenced, Bool.or_false, Bool.not_eq_false', Bool.or_eq_true, decide_eq_true_eq]
    exact he.signed
  simp only [matrixBy, hgate, hfirst, he.present, hsigned, he.guarded, issueCause_eq_zero h, issueMatrix_ready h, withPoison,
    Option.isSome_none, Bool.not_true, Bool.false_eq_true, if_false, if_true, List.isEmpty_nil]

theorem isMatrix_exec (h : IsMatrix i f major idx useA useB) : exec i s = matrixBy major idx useA useB f s := by
  cases h with
  | mma f => exact Laws.exec_mma f s
  | mmac f => exact Laws.exec_mmac f s
  | mxclr f => exact Laws.exec_mxclr f s
  | mxld f => exact Laws.exec_mxld f s
  | mxst f => exact Laws.exec_mxst f s
  | mxscl f => exact Laws.exec_mxscl f s

end MatrixIssue

/-- Settles O40: each matrix instruction is one of `matrixBy`, whose elected lane passes all its checks. -/
theorem matrixIssues : Obligations.MatrixIssues := fun _ _ _ _ _ _ _ _ h hclear he hready =>
  (isMatrix_exec h).trans (matrixBy_elected hclear he hready)

end Sys2Proof.Proofs

/-! Queues (R280, R343, R344, R351, R352), near memory (R339, R340, R350, R353), the fabric (R364 to R366) and collectives (R372, R376): the state
that each instruction leaves past its gate, where its condition holds. -/

namespace Sys2Proof.Proofs

open Sys2Proof Sys2Proof.Machine Sys2Proof.Rules

section Queues

variable {i : Instr} {r : Act} {s : State} {f : ExtForm} {act : Lanes}

/-! ### Barge queues (R280) -/

/-- R280: a team with barges has the causes of the access alone. -/
theorem noBarges_eq_nil {extra : Bool} (h : s.myLaunch.barges ≠ 0) (hextra : extra = false) : noBarges act s extra = [] := by
  simp [noBarges, h, hextra]

/-- R280: a queue with room takes the entry. -/
theorem movQueueWrite_acts (h : IsQueue (.movQueueWrite f) r) : Acts (.movQueueWrite f) r := by
  cases h
  refine acts_of_checked (fun s => (Laws.exec_movQueueWrite f s).trans (execMovQueueWrite.eq_1 f s)) (fun s ⟨hbarges, _⟩ => noBarges_eq_nil hbarges rfl) fun s hsome hwhen => ?_
  obtain ⟨-, hroom⟩ := hwhen
  dsimp only
  rw [if_neg hsome, if_neg (Nat.not_le.2 hroom)]

/-- R280: a read of a queue that holds an entry issues. -/
theorem movQueueRead_acts (h : IsQueue (.movQueueRead f) r) : Acts (.movQueueRead f) r := by
  cases h
  refine acts_of_checked (fun s => (Laws.exec_movQueueRead f s).trans (execMovQueueRead.eq_1 f s)) (fun s ⟨hbarges, hentry, _⟩ => noBarges_eq_nil hbarges ?_) fun s hsome _ => ?_
  · rw [List.isEmpty_eq_false_iff.2 hentry, Bool.false_and]
  · exact if_neg hsome

/-! ### Command queues (R343, R344) -/

theorem slotKey_eq_slotNo (s : State) (n : Nat) : s.slotKey n = slotNo s n := rfl

theorem pushed_eq_commands (h : act ≠ 0#32) : pushed s f act = commands s f act := by
  simp only [pushed, if_neg h, commands]

/-- R343: a configured slot, which no `nmcfg` waits for, takes commands that are sound while its queue has room. -/
theorem nmPush_acts (h : IsQueue (.nmPush f) r) : Acts (.nmPush f) r := by
  cases h
  refine acts_of_sound_access (fun s => (Laws.exec_nmPush f s).trans (execNmPush.eq_1 f s)) (fun s ⟨hfence, _⟩ => hfence) (fun s hsome hwhen => ?_) fun s hsome hwhen => ?_
  · obtain ⟨-, hconf, -, hsound, -⟩ := hwhen
    have hgood : (commands s f (s.active f)).any (cmdBad (s.slot (slotNo s (queueNo f.d)))) = false :=
      List.any_eq_false.2 fun c hc => Bool.eq_false_iff.1 (hsound c hc)
    simp [slotKey_eq_slotNo, pushed_eq_commands hsome, show (s.slot (slotNo s (queueNo f.d))).configured = true from hconf, hgood]
  · obtain ⟨-, -, hwaits, -, hroom⟩ := hwhen
    have hfits : (s.slot (slotNo s (queueNo f.d))).cmds.length + (commands s f (s.active f)).length ≤ cmdRoom := hroom
    simp only [slotKey_eq_slotNo, pushed_eq_commands hsome, show (s.slot (slotNo s (queueNo f.d))).cfgWaits = [] from hwaits,
      Nat.not_lt.2 hfits, List.isEmpty_nil, Bool.not_true, decide_false, Bool.or_self, Bool.false_eq_true, if_false]

/-- R344: the oldest completion of a configured slot is taken at issue. -/
theorem nmTake_acts (h : IsQueue (.nmTake f) r) : Acts (.nmTake f) r := by
  cases h with
  | take f e es =>
    refine acts_of_checked (fun s => (Laws.exec_nmTake f s).trans (execNmTake.eq_1 f s)) (fun s hwhen => ?_) fun s hsome hwhen => ?_
    · obtain ⟨hconf, hdone, -⟩ := hwhen
      simp [slotKey_eq_slotNo, show (s.slot (slotNo s (queueNo f.a - 16))).configured = true from hconf,
        show (s.slot (slotNo s (queueNo f.a - 16))).done = e :: es from hdone]
    · obtain ⟨-, hdone, hfree⟩ := hwhen
      dsimp only
      simp only [if_neg hsome, slotKey_eq_slotNo, show (s.slot (slotNo s (queueNo f.a - 16))).done = e :: es from hdone,
        show flagFull s.me (s.flagNow f) = false from hfree, Bool.false_eq_true, if_false]
      rfl

/-! ### Tests and flushes (R351, R352) -/

theorem not_isEmpty_eq_decide {α : Type} [DecidableEq α] (l : List α) : (!l.isEmpty) = decide (l ≠ []) := by cases l <;> rfl

/-- R351: the test of a queue, command queues and completion queues by their slot. -/
theorem queueTest_eq (s : State) (q : Nat) : queueTest s q =
    if q < 16 then decide ((s.slot (slotNo s (q % 16))).cmds.length ≤ 224) else if q < 32 then decide ((s.slot (slotNo s (q % 16))).done ≠ [])
    else if q < 48 then decide ((s.queueOf (team s) q).length < 8) else decide (s.queueOf (team s) q ≠ []) := by
  simp only [queueTest, slotKey_eq_slotNo, not_isEmpty_eq_decide]
  split
  · next hcmd => simp only [cmdRoom, Nat.mod_eq_of_lt hcmd, Nat.add_le_add_iff_right (n := 32) (k := 224)]
  · split
    · next hcmd hdone =>
      have hslot : q % 16 = q - 16 := by omega
      rw [hslot]
    · rfl

/-- What a `qpoll` asks of its state; stated of any number, so that the test of the number is not computed. -/
theorem queueAbsent_eq_false {q : Nat}
    (h : unfenced s ∧ if q < 32 then (s.slot (slotNo s (q % 16))).configured = true else s.myLaunch.barges ≠ 0) : queueAbsent s q = false := by
  obtain ⟨-, hthere⟩ := h
  simp only [queueAbsent, slotKey_eq_slotNo]
  split
  · next hnear => rw [(if_pos hnear).mp hthere, Bool.not_true]
  · next hfar => exact decide_eq_false ((if_neg hfar).mp hthere)

/-- R351: the test of a queue that is there. -/
theorem qpoll_acts (h : IsQueue (.qpoll f) r) : Acts (.qpoll f) r := by
  cases h
  have hname : queueName f.a 63 = (decide (1600 ≤ f.a.toNat) && decide (f.a.toNat ≤ 1663)) := rfl
  have hexec (s : State) := (Laws.exec_qpoll f s).trans (execQpoll.eq_1 f s)
  simp only [hname, queueTest_eq] at hexec
  refine acts_of_sound_access hexec (fun s => And.left) (fun s _ hwhen => ?_) fun s _ _ => rfl
  have hpresent : queueAbsent s (queueNo f.a) = false := queueAbsent_eq_false hwhen
  simp [hpresent]

/-- R352: a flush notes what has been pushed before it. -/
theorem qflush_acts (h : IsQueue (.qflush f) r) : Acts (.qflush f) r := by
  cases h
  have hname : queueName f.a 15 = (decide (1600 ≤ f.a.toNat) && decide (f.a.toNat ≤ 1615)) := rfl
  have hexec (s : State) := (Laws.exec_qflush f s).trans (execQflush.eq_1 f s)
  simp only [hname] at hexec
  exact acts_of_access hexec (fun _ ⟨hfence, _⟩ => hfence) fun _ _ => rfl

/-! ### Records in the scratchpad (R339, R350, R353, R376) -/

theorem addr32_eq_addrOf (f : ExtForm) (s : State) (k : Nat) : s.addr32 f k = addrOf f s k := rfl

/-- A record that lies whole in the scratchpad gives no cause. -/
theorem recordCause_eq_nil {n : Nat} (h : recordIn n f s act) :
    (if act = 0#32 then [] else if addrOf f s (low act) % n ≠ 0 then causeAll act Cause.misaligned
      else if s.myLaunch.scratch * 256 < addrOf f s (low act) + n then causeAll act Cause.scratchBound else []) = [] := by
  obtain ⟨haligned, hfits⟩ := h
  rw [if_neg (not_not_intro haligned), if_neg (Nat.not_lt.2 hfits), ite_self]

theorem nmv_acts (h : IsQueue (.nmv f) r) : Acts (.nmv f) r := by
  cases h
  exact acts_of_sound_access (fun s => (Laws.exec_nmv f s).trans (execNmv.eq_1 f s)) (fun _ ⟨hfence, _⟩ => hfence)
    (fun _ _ ⟨_, hrecord, _⟩ => recordCause_eq_nil hrecord) fun _ _ _ => rfl

/-- R339: the rows of a record. -/
theorem rows_tableOf (f : ExtForm) (s : State) (act : Lanes) : (tableOf f s act).rows = askedRows f s act := bits_eq_div_mod ..

/-- R350: with nothing left in the slot's queue, a record of no rows releases the slot. -/
theorem nmcfgAct_release (hidle : (s.slot (slotNo s f.c.toNat)).cmds = []) (hrows : askedRows f s act = 0) : nmcfgAct f act s =
    ((endCfgWait (releaseSlot (afterOlder f s act) (slotNo s f.c.toNat)) (slotNo s f.c.toNat)).writeTruth act f.d.toNat (fun _ => true)).advance := by
  rw [← rows_tableOf] at hrows
  simp only [tableOf, recordWord, afterOlder, team, grp] at hrows
  simp only [nmcfgAct, slotKey_eq_slotNo, addr32_eq_addrOf, hidle, List.isEmpty_nil, Bool.not_true, Bool.false_eq_true, if_false, hrows, if_true,
    afterOlder, team, grp]

/-- R339, R340: a sound record of some rows, whose table has its place, configures the slot. -/
theorem nmcfgAct_configure {stack : Nat} {t : State} (hidle : (s.slot (slotNo s f.c.toNat)).cmds = []) (hrows : askedRows f s act ≠ 0)
    (hsound : (tableOf f s act).cause s.myLaunch.scratch = 0)
    (hstack : tableStack (afterOlder f s act) s.myCore (launchOfTeam (team s)) (tableOf f s act).base = .ok (stack, t)) :
    nmcfgAct f act s = ((endCfgWait (configure t (slotNo s f.c.toNat) stack (tableOf f s act)).1 (slotNo s f.c.toNat)).writeTruth act f.d.toNat
      (fun _ => (configure t (slotNo s f.c.toNat) stack (tableOf f s act)).2)).advance := by
  rw [← rows_tableOf] at hrows
  simp only [tableOf, recordWord, afterOlder, team, grp] at hrows hsound hstack ⊢
  simp only [nmcfgAct, slotKey_eq_slotNo, addr32_eq_addrOf, hidle, List.isEmpty_nil, Bool.not_true, Bool.false_eq_true, if_false, hrows, hsound,
    hstack, ne_eq, not_true_eq_false]

/-- R339, R350: an `nmcfg` whose record lies in the scratchpad acts. -/
theorem nmcfg_acts {when : State → Lanes → Prop} {next : State → Lanes → State}
    (hrecord : ∀ s act, when s act → unfenced s ∧ recordIn 32 f s act) (hnext : ∀ s act, when s act → nmcfgAct f act s = next s act) :
    Acts (.nmcfg f)
      { f := f, u := { d := onePred, a := base 1, b := small, bad := decide (16 ≤ f.c.toNat) }, when := when, next := next } := by
  intro s hclear hsome hwhen
  obtain ⟨hfence, hin⟩ := hrecord s _ hwhen
  exact (Laws.access_clear hclear hsome hfence _ _ (recordCause_eq_nil hin)).trans (congrArg _ (hnext s _ hwhen))

/-- R280, R339, R340, R343, R344, R350 to R353: each instruction on queues and near memory. -/
theorem isQueue_acts (h : IsQueue i r) : Acts i r := by
  cases h with
  | write f => exact movQueueWrite_acts (.write f)
  | read f => exact movQueueRead_acts (.read f)
  | push f => exact nmPush_acts (.push f)
  | take f e es => exact nmTake_acts (.take f e es)
  | qpoll f => exact qpoll_acts (.qpoll f)
  | qflush f => exact qflush_acts (.qflush f)
  | nmv f => exact nmv_acts (.nmv f)
  | release f =>
    exact nmcfg_acts (fun _ _ ⟨hfence, hrecord, _⟩ => ⟨hfence, hrecord⟩) fun _ _ ⟨_, _, hidle, hrows⟩ => nmcfgAct_release hidle hrows
  | configure f stack t =>
    exact nmcfg_acts (fun _ _ ⟨hfence, hrecord, _⟩ => ⟨hfence, hrecord⟩) fun _ _ ⟨_, _, hidle, hrows, hsound, hstack⟩ =>
      nmcfgAct_configure hidle hrows hsound hstack

end Queues

section Fabric

variable {i : Instr} {r : Act} {s : State} {f : ExtForm} {act : Lanes} {o : Op}

/-! ### The issue of an operation (R364 to R366) -/

/-- R171: a token that takes the operation has it once it issues. -/
theorem hasOp_engineOp_of_free {cls : Nat} (hcls : o.kind.cls = cls) (hfree : tokenFree f cls s) : (s.engineOp f o).hasOp s.sched.nextId = true := by
  subst hcls
  obtain ⟨hroom, hheld⟩ := hfree
  exact Laws.engineOp_has s f o hroom (hheld.imp (congrArg BitVec.toNat) fun hfew => .inr (.inr hfew))

theorem held_engineOp {cls : Nat} (hcls : o.kind.cls = cls) (hfree : tokenFree f cls s) (hmask : f.mask ≠ 0#16) :
    ((s.engineOp f o).op s.sched.nextId).held = true := by
  subst hcls
  obtain ⟨hroom, hheld⟩ := hfree
  have hsome : f.mask.toNat ≠ 0 := fun hzero => hmask (BitVec.eq_of_toNat_eq hzero)
  rw [Laws.engineOp_op s f o hroom (hheld.imp (congrArg BitVec.toNat) fun hfew => .inr (.inr hfew))]
  exact bne_iff_ne.2 hsome

/-- R226, R364 to R366: an operation that reaches a peer's memory issues, and waits or starts. -/
theorem issueFabric_free (hpod : o.toPod = true) (hcls : o.kind.cls = 6) (hfree : tokenFree f 6 s) (hmay : mayHold o f s) :
    issueFabric f o s = fabricNext o f s := by
  have hflush : o.kind ≠ .wcflush := fun hk => by simp [Op.toPod, hk] at hpod
  have hthere := hasOp_engineOp_of_free (o := o) hcls hfree
  by_cases hmask : f.mask = 0#16
  · by_cases hblocked : podBlocked s s.sched.nextId o = true
    · have hroom : ¬ 4 ≤ heldOps s s.sched.cur.grp := Nat.not_le.2 (hmay hmask hblocked)
      simp [issueFabric, fabricNext, hmask, hpod, hblocked, hroom, hthere, hflush]
    · have hstarted : ((s.engineOp f o).op s.sched.nextId).held = false := by
        simpa [hthere] using engineOp_started (o := o) hcls hfree hmask
      simp [issueFabric, fabricNext, hmask, hblocked, hthere, hflush, hstarted]
  · simp [issueFabric, fabricNext, hmask, hthere, hflush, held_engineOp (o := o) hcls hfree hmask]

/-- R363, R366: a `wcflush` notes what stands in the buffer as it issues. -/
theorem wcflush_acts (h : IsFabric (.wcflush f) r) : Acts (.wcflush f) r := by
  cases h
  refine acts_of_access (fun s => Laws.exec_wcflush f s) (fun _ ⟨hfence, _⟩ => hfence) fun s ⟨_, hfree⟩ => ?_
  have hthere := hasOp_engineOp_of_free (o := { kind := .wcflush, major := 0x25, idx := 3, active := s.active f }) rfl hfree
  simp [issueFabric, hthere, Op.toPod]

/-! ### Puts, remote loads and atomics (R364 to R366) -/

/-- R365: an instruction that reaches a peer's memory, at addresses that are aligned. -/
theorem remote_acts {u : Use} {n idx : Nat} {op : ExtForm → State → Lanes → Op}
    (hunit : (if isAtomicOp 0x25 idx || 0x25 = 0x1D then accessSize 0x25 idx f else min (accessSize 0x25 idx f) 4) = n)
    (hpod : ∀ s act, (op f s act).toPod = true ∧ (op f s act).kind.cls = 6)
    (hexec : ∀ s, exec i s = s.access f u (fun act s => laneCauses act (fun k => globalCause 0x25 idx (accessSize 0x25 idx f) (farAddr f s k)))
      (fun act s => issueFabric f (op f s act) s)) : Acts i (fabricAct u n op f) := by
  subst hunit
  refine acts_of_sound_access hexec (fun _ ⟨hfence, _⟩ => hfence) (fun s _ ⟨_, haligned, _⟩ => ?_) fun s _ ⟨_, _, hfree, hmay⟩ => ?_
  · exact Laws.laneCauses_nil fun k hk hactive => globalCause_eq_zero (haligned k hk hactive)
  · obtain ⟨hto, hcls⟩ := hpod s (s.active f)
    exact issueFabric_free hto hcls hfree hmay

theorem rld_acts (h : IsFabric (.rld f) r) : Acts (.rld f) r := by
  cases h
  have hexec (s : State) := (Laws.exec_rld f s).trans (execRld.eq_1 f s)
  simp only [addr64_eq_farAddr, addr64_eq, dataWant_eq] at hexec
  refine remote_acts (idx := 1) ?_ (fun _ _ => ⟨rfl, rfl⟩) hexec
  rw [accessSize_access (by decide) rfl, Nat.min_comm]
  rfl

theorem ratom_acts (h : IsFabric (.ratom f) r) : Acts (.ratom f) r := by
  cases h
  have hexec (s : State) := (Laws.exec_ratom f s).trans (execRatom.eq_1 f s)
  simp only [addr64_eq_farAddr, addr64_eq, bits_eq_div_mod, pow_zero, Nat.div_one] at hexec
  refine remote_acts (idx := 2) ?_ (fun _ _ => ⟨rfl, rfl⟩) hexec
  rw [accessSize_atomic (by decide) rfl]
  rfl

/-- R364: a `put` whose bytes the buffer has room for. -/
theorem put_acts (h : IsFabric (.put f) r) : Acts (.put f) r := by
  cases h
  have hexec (s : State) := (Laws.exec_put f s).trans (execPut.eq_1 f s)
  simp only [addr64_eq_farAddr, addr64_eq, dataWant_eq] at hexec
  refine acts_of_sound_access hexec (fun _ ⟨hfence, _⟩ => hfence) (fun s _ hwhen => ?_) fun s _ hwhen => ?_
  · obtain ⟨-, hcounter, haligned, -⟩ := hwhen
    have hunit : (if isAtomicOp 0x25 0 || 0x25 = 0x1D then accessSize 0x25 0 f else min (accessSize 0x25 0 f) 4) = min 4 (dataBytes f) := by
      rw [accessSize_access (by decide) rfl, Nat.min_comm]
      rfl
    have hsound : laneCauses (s.active f) (fun k => globalCause 0x25 0 (accessSize 0x25 0 f) (farAddr f s k)) = [] :=
      Laws.laneCauses_nil fun k hk hactive => globalCause_eq_zero (hunit ▸ haligned k hk hactive)
    simp [hsound, hcounter]
  · obtain ⟨-, -, -, hfree, hmay, hroom⟩ := hwhen
    have hfits : (decide (f.mask = 0) && !podBlocked s s.sched.nextId (putOp f s (s.active f)) && !putFits s (putOp f s (s.active f))) = false := by
      by_cases hmask : f.mask = 0#16
      · cases hblocked : podBlocked s s.sched.nextId (putOp f s (s.active f)) with
        | true => simp
        | false => simp [hroom hmask hblocked]
      · simp [hmask]
    exact (if_neg (Bool.eq_false_iff.1 hfits)).trans (issueFabric_free rfl rfl hfree hmay)

/-! ### Collectives (R372, R376) -/

/-- R372: a `clplan` or `clgo` with an aligned block. -/
theorem plan_acts {kind : OpKind} {idx : Nat} (hexec : ∀ s, exec i s = planIssue kind idx f s) : Acts i (planAct kind idx f) := by
  simp only [planIssue, addr64_eq] at hexec
  refine acts_of_sound_access hexec (fun _ ⟨hfence, _⟩ => hfence) (fun s _ ⟨_, haligned, _⟩ => ?_) fun _ _ _ => rfl
  simp [haligned]

/-- R376: an `rring` whose record lies in the scratchpad. -/
theorem rring_acts (h : IsFabric (.rring f) r) : Acts (.rring f) r := by
  cases h
  exact acts_of_sound_access (fun s => (Laws.exec_rring f s).trans (execRring.eq_1 f s)) (fun _ ⟨hfence, _⟩ => hfence)
    (fun _ _ ⟨_, hrecord, _⟩ => recordCause_eq_nil hrecord) fun _ _ _ => rfl

/-- R364 to R366, R372, R376: each instruction of the fabric and of collectives. -/
theorem isFabric_acts (h : IsFabric i r) : Acts i r := by
  cases h with
  | put f => exact put_acts (.put f)
  | rld f => exact rld_acts (.rld f)
  | ratom f => exact ratom_acts (.ratom f)
  | wcflush f => exact wcflush_acts (.wcflush f)
  | clplan f => exact plan_acts fun s => Laws.exec_clplan f s
  | clgo f => exact plan_acts fun s => Laws.exec_clgo f s
  | rring f => exact rring_acts (.rring f)

end Fabric

/-- Settles O41: past its gate, where its condition holds, each leaves the state of its rule. -/
theorem queueAndFabricActs : Obligations.QueueAndFabricActs := ⟨fun _ _ h => isQueue_acts h, fun _ _ h => isFabric_acts h⟩

end Sys2Proof.Proofs

/-! The flow of a barge's program (R270 to R272): instructions that write a register, branches, jumps and loops. -/

namespace Sys2Proof.Proofs

open Sys2Proof Sys2Proof.Machine Sys2Proof.Rules

section BargeFlow

variable {i : Instr} {r : StepRule} {s : State} {f : BargeForm}

/-! ### Operands (R270) -/

theorem simm_eq (f : BargeForm) : f.simm = (f.imm.signExtend 64).toNat := by
  rw [BargeForm.simm, sextTo, Laws.signed_toInt, wrap, BitVec.signExtend, BitVec.toNat_ofInt, BitVec.ofNat_toNat, BitVec.setWidth_eq]
  rfl

theorem srcB_toNat (f : BargeForm) (s : State) : (srcB f s).toNat = s.bB f := by
  rw [srcB, State.bB, simm_eq]
  split
  · rfl
  · exact areg_toNat s f.b

theorem signed_areg (v : BitVec 64) : signed 64 v.toNat = v.toInt := by
  rw [Laws.signed_toInt64, BitVec.ofNat_toNat, BitVec.setWidth_eq]

theorem signed_imm (f : BargeForm) : signed 32 f.imm.toNat = f.imm.toInt := by
  rw [Laws.signed_toInt, BitVec.ofNat_toNat, BitVec.setWidth_eq]

/-! ### Values (R270) -/

/-- R270: a register takes the low 64 bits of a value. -/
theorem bargeSet_eq {v : BitVec 64} {n : Nat} (h : n % 2 ^ 64 = v.toNat) : s.bargeSet f n = goOn (setA s f v) := by
  rw [State.bargeSet, h]
  rfl

theorem bargeSet_toNat (v : BitVec 64) : s.bargeSet f v.toNat = goOn (setA s f v) := bargeSet_eq (Nat.mod_eq_of_lt v.isLt)

theorem bmovi_value (f : BargeForm) (s : State) :
    (if bitOf f.x.toNat 12 then s.areg f.d.toNat % 2 ^ 32 + f.imm.toNat * 2 ^ 32 else f.simm) =
      (if xbit f 12 then f.imm ++ (areg s f.d).setWidth 32 else f.imm.signExtend 64).toNat := by
  have hbit : bitOf f.x.toNat 12 = xbit f 12 := rfl
  rw [hbit]
  split
  · rw [BitVec.toNat_append, BitVec.toNat_setWidth, areg_toNat, ← Nat.shiftLeft_add_eq_or_of_lt (Nat.mod_lt _ (by decide)), Nat.shiftLeft_eq,
      Nat.add_comm]
  · exact simm_eq f

theorem bshr_value (f : BargeForm) (s : State) :
    (if bitOf f.x.toNat 12 then wrap 64 (signed 64 (s.bA f) / 2 ^ (s.bB f % 64)) else s.bA f / 2 ^ (s.bB f % 64)) =
      (if xbit f 12 then (srcA f s).sshiftRight ((srcB f s).toNat % 64) else srcA f s >>> ((srcB f s).toNat % 64)).toNat := by
  have hbit : bitOf f.x.toNat 12 = xbit f 12 := rfl
  rw [← srcA_toNat, ← srcB_toNat, signed_areg, wrap_eq_ofInt, hbit]
  split
  · rw [BitVec.sshiftRight, Int.shiftRight_eq_div_pow]
    push_cast
    rfl
  · rw [BitVec.toNat_ushiftRight, Nat.shiftRight_eq_div_pow]

theorem bit_eq_toNat (b : Bool) : bit b = (if b then 1 else 0 : BitVec 64).toNat := by cases b <;> rfl

theorem bcmp_value (f : BargeForm) (s : State) :
    bit (intCond (f.xbits 10 3) (if bitOf f.x.toNat 9 then signed 64 (s.bA f) else (s.bA f : Int))
      (if bitOf f.x.toNat 9 then signed 64 (s.bB f) else (s.bB f : Int))) =
      (if compared f (srcA f s) (srcB f s) then 1 else 0 : BitVec 64).toNat := by
  have hbit : bitOf f.x.toNat 9 = xbit f 9 := rfl
  rw [← srcA_toNat, ← srcB_toNat, signed_areg, signed_areg, intCond_eq_relation, xbits_eq, hbit, compared]
  exact bit_eq_toNat _

/-- R270: each instruction that computes a value. -/
theorem isBargeValue_exec {w : State → Prop} {v : State → BitVec 64} (h : IsBargeValue i f w v) (hwhen : w s) :
    exec i s = .next (goOn (setA s f (v s))) := by
  cases h with
  | bmov f => rw [Laws.exec_bmov, execBmov, ← srcA_toNat, bargeSet_toNat]
  | bmovi f => rw [Laws.exec_bmovi, execBmovi, bmovi_value, bargeSet_toNat]
  | badd f => rw [Laws.exec_badd, execBadd, ← srcA_toNat, ← srcB_toNat, bargeSet_eq (BitVec.toNat_add ..).symm]
  | bsub f =>
    rw [Laws.exec_bsub, execBsub, ← srcA_toNat, ← srcB_toNat, Nat.add_comm, bargeSet_eq (BitVec.toNat_sub ..).symm]
  | bmul f => rw [Laws.exec_bmul, execBmul, ← srcA_toNat, ← srcB_toNat, bargeSet_eq (BitVec.toNat_mul ..).symm]
  | bshl f =>
    rw [Laws.exec_bshl, execBshl, ← srcA_toNat, ← srcB_toNat, ← Nat.shiftLeft_eq, bargeSet_eq (BitVec.toNat_shiftLeft ..).symm]
  | bshr f => rw [Laws.exec_bshr, execBshr, bshr_value, bargeSet_toNat]
  | band f => rw [Laws.exec_band, execBand, ← srcA_toNat, ← srcB_toNat, ← BitVec.toNat_and, bargeSet_toNat]
  | bor f => rw [Laws.exec_bor, execBor, ← srcA_toNat, ← srcB_toNat, ← BitVec.toNat_or, bargeSet_toNat]
  | bcmp f =>
    rw [Laws.exec_bcmp, execBcmp]
    simp only [bcmp_value, bargeSet_toNat]
    rw [xbits_eq, if_neg (Nat.not_le.2 hwhen)]

/-! ### Where a barge goes next (R271, R272) -/

/-- R272: the test at the end of a loop's body. -/
theorem loopEnd_cons (e : Nat) (t : LoopEntry) (ts : List LoopEntry) : loopEnd e (t :: ts) =
    if t.stop ≠ e then (t :: ts, e + 8)
    else if (t.count + (2 ^ 32 - 1)) % 2 ^ 32 ≠ 0 then ({ t with count := (t.count + (2 ^ 32 - 1)) % 2 ^ 32 } :: ts, t.start)
    else loopEnd e ts := by
  rw [loopEnd, Nat.add_sub_assoc (by decide)]
  simp only [Nat.pos_iff_ne_zero]

/-- R272: the end of a loop's body, as the rule says it. -/
theorem loopEnd_of_loopTail {e p : Nat} {ts l : List LoopEntry} (h : LoopTail e ts l p) : loopEnd e ts = (l, p) := by
  induction h with
  | out => rfl
  | inside t ts hstop => rw [loopEnd_cons, if_pos hstop]
  | again t ts hstop hmore => rw [loopEnd_cons, if_neg (not_not_intro hstop), if_pos hmore]
  | leave t ts l p hstop hdone hout ih => rw [loopEnd_cons, if_neg (not_not_intro hstop), if_neg (not_not_intro hdone), ih]

/-- R272: the loops that a jump leaves, as the rule says them. -/
theorem leaveLoops_of_loopsLeft {g : Nat} {ts l : List LoopEntry} (h : LoopsLeft g ts l) : leaveLoops g ts = l := by
  induction h with
  | none => rfl
  | stay t ts hin => exact if_pos (by simpa using hin)
  | leave t ts l hout hrest ih => exact (if_neg (by simpa using hout)).trans ih

/-- R272: an address that ends no body is followed by the next one. -/
theorem loopEnd_of_inside {e : Nat} {ts : List LoopEntry} (h : ∀ t ∈ ts, t.stop ≠ e) : loopEnd e ts = (ts, e + 8) := by
  cases ts with
  | nil => rfl
  | cons t ts => exact if_pos (h t List.mem_cons_self)

theorem bargeTarget_eq (f : BargeForm) (s : State) : s.bargeTarget f = targetOf f s := by
  rw [State.bargeTarget, signed_imm]
  rfl

/-- R272: the barge goes on with the next instruction. -/
theorem bargeStep_of_loopTail {p : Nat} {l : List LoopEntry} (h : LoopTail (bge s).pc (bge s).loops l p) :
    s.bargeStep = onBarge s (fun x => wentOn x l p) :=
  congrArg (fun e : List LoopEntry × Nat => s.setBarge s.sched.cur.barge ((bge s).over e.1 e.2)) (loopEnd_of_loopTail h)

/-- R271, R272: the barge jumps. -/
theorem bargeJump_of_loopsLeft {g : Nat} {l : List LoopEntry} (h : LoopsLeft g (bge s).loops l) :
    s.bargeJump g = onBarge s (fun x => wentOn x l g) :=
  congrArg (fun l => s.setBarge s.sched.cur.barge ((bge s).over l g)) (leaveLoops_of_loopsLeft h)

/-- R271: the condition of a `bbr`. -/
theorem bbrTaken_iff (f : BargeForm) (s : State) : ((s.bA f = 0) = (bitOf f.x.toNat 12 = true)) ↔ ((srcA f s = 0) ↔ xbit f 12 = true) := by
  rw [eq_iff_iff, ← srcA_toNat, BitVec.toNat_eq]
  rfl

theorem bbr_turns (h : IsBargeFlow (.bbr f) f r) : Turns (.bbr f) r := by
  cases h with
  | taken f l =>
    intro s ⟨haligned, htaken, hloops⟩
    rw [Laws.exec_bbr, execBbr, if_neg (not_not_intro haligned), if_pos ((bbrTaken_iff f s).2 htaken), bargeTarget_eq,
      bargeJump_of_loopsLeft hloops]
  | notTaken f l p =>
    intro s ⟨haligned, hnot, hloops⟩
    rw [Laws.exec_bbr, execBbr, if_neg (not_not_intro haligned), if_neg (mt (bbrTaken_iff f s).1 hnot), bargeStep_of_loopTail hloops]

theorem bjmp_turns (h : IsBargeFlow (.bjmp f) f r) : Turns (.bjmp f) r := by
  cases h with
  | relative f l =>
    intro s ⟨himm, haligned, hloops⟩
    rw [Laws.exec_bjmp, execBjmp, if_pos himm, if_neg (not_not_intro haligned), bargeTarget_eq, bargeJump_of_loopsLeft hloops]
  | indirect f l =>
    intro s ⟨himm, haligned, hnear, hloops⟩
    rw [srcA_toNat] at haligned hnear hloops
    rw [Laws.exec_bjmp, execBjmp, if_neg (Bool.eq_false_iff.1 himm), if_neg (not_not_intro haligned), if_neg (Nat.not_le.2 hnear),
      bargeJump_of_loopsLeft hloops, ← srcA_toNat]

theorem iterations_eq (f : BargeForm) (s : State) : (if f.i then f.x.toNat else s.bA f % 2 ^ 32) = iterations f s := by
  rw [iterations, srcA_toNat]

/-- R272: a body of whole instructions that ends behind the `bloop`. -/
theorem bloop_legal (hpos : 0 < f.imm.toInt) (haligned : f.imm.toNat % 8 = 0) :
    (decide (signed 32 f.imm.toNat ≤ 0) || decide (f.imm.toNat % 8 ≠ 0)) = false := by
  rw [signed_imm, decide_eq_false (Int.not_le.2 hpos), decide_eq_false (not_not_intro haligned), Bool.or_self]

theorem bloop_turns (h : IsBargeFlow (.bloop f) f r) : Turns (.bloop f) r := by
  cases h with
  | enter f =>
    intro s ⟨hpos, haligned, hsome, hroom⟩
    rw [Laws.exec_bloop, execBloop]
    simp only [bloop_legal hpos haligned, iterations_eq, bargeTarget_eq, Bool.false_eq_true, if_false]
    rw [if_neg (Nat.pos_iff_ne_zero.1 hsome), if_neg (Nat.not_le.2 hroom)]
    rfl
  | skip f =>
    intro s ⟨hpos, haligned, hzero, hinside⟩
    have hnext : loopEnd (bge s).pc (bge s).loops = ((bge s).loops, (bge s).pc + 8) := loopEnd_of_inside hinside
    rw [Laws.exec_bloop, execBloop]
    simp only [bloop_legal hpos haligned, iterations_eq, bargeTarget_eq, Bool.false_eq_true, if_false, hzero, if_true, hnext]
    exact congrArg (fun n => Host.Outcome.next (s.setBarge s.sched.cur.barge ((bge s).over (bge s).loops n))) (if_pos rfl)

/-- R271, R272: each branch, each jump and each loop. -/
theorem isBargeFlow_turns (h : IsBargeFlow i f r) : Turns i r := by
  cases h with
  | fall f l p => exact fun s hloops => (Laws.exec_bnop f s).trans (congrArg _ (bargeStep_of_loopTail hloops))
  | taken f l => exact bbr_turns (.taken f l)
  | notTaken f l p => exact bbr_turns (.notTaken f l p)
  | relative f l => exact bjmp_turns (.relative f l)
  | indirect f l => exact bjmp_turns (.indirect f l)
  | enter f => exact bloop_turns (.enter f)
  | skip f => exact bloop_turns (.skip f)

end BargeFlow

/-- Settles O46: values by the arithmetic of 64-bit words, branches and loops by the loop stack that their rule leaves. -/
theorem bargeFlow : Obligations.BargeFlow :=
  ⟨fun _ _ _ _ h _ hwhen => isBargeValue_exec h hwhen, fun _ _ _ h => isBargeFlow_turns h⟩

end Sys2Proof.Proofs

/-! Faults that a barge's instruction finds in its own fields (R284): each comes to its cause before it does anything else. -/

namespace Sys2Proof.Proofs

open Sys2Proof Sys2Proof.Machine Sys2Proof.Rules

section BargeFaultsFound

variable {i : Instr} {s : State} {w : State → Prop} {c : Nat} {f : BargeForm}

/-- R284: the fault that the barge in hand notes. -/
theorem bargeFail_eq (s : State) (c : Nat) : s.bargeFail { cause := c } = faulted s c := rfl

theorem barrNb_faults (hbad : xfield f 11 2 ≠ 0 ∨ memberCount f = 0) : exec (.barrNb f) s = .next (faulted s Cause.illegalOperand) := by
  rw [Laws.exec_barrNb, execBarrNb]
  simp only [xbits_eq, memberCount_eq]
  refine if_pos ?_
  rcases hbad with hkind | hcount
  · simp [hkind]
  · simp [hcount]

theorem bloop_faults (hbad : f.imm.toInt ≤ 0 ∨ f.imm.toNat % 8 ≠ 0) : exec (.bloop f) s = .next (faulted s Cause.illegalOperand) := by
  rw [Laws.exec_bloop, execBloop]
  simp only [signed_imm]
  exact if_pos (by simpa using hbad)

/-- R272: a fifth loop. -/
theorem bloopDeep_faults (hpos : 0 < f.imm.toInt) (haligned : f.imm.toNat % 8 = 0) (hsome : iterations f s ≠ 0) (hdeep : 4 ≤ (bge s).loops.length) :
    exec (.bloop f) s = .next (faulted s Cause.illegalOperand) := by
  rw [Laws.exec_bloop, execBloop]
  simp only [bloop_legal hpos haligned, iterations_eq, Bool.false_eq_true, if_false]
  rw [if_neg hsome, if_pos hdeep]
  rfl

/-- R280: a read of an empty queue that no group is left to fill. -/
theorem bqinDead_faults (hlow : 32 ≤ f.imm.toNat) (hhigh : f.imm.toNat < 48) (hlanded : landed s)
    (hempty : s.queueOf (bteam s) f.imm.toNat = []) (hdead : liveGroupsOf s (bteam s) = []) :
    exec (.bqin f) s = .next (faulted s Cause.queueProtocol) := by
  have hempty' : s.queueOf s.bargeTeam f.imm.toNat = [] := hempty
  have hdead' : liveGroupsOf s s.bargeTeam = [] := hdead
  rw [Laws.exec_bqin, execBqin]
  simp only [hlow, hhigh, copying_of_landed hlanded, hempty', hdead', decide_true, Bool.and_self, Bool.not_true, Bool.false_eq_true, if_false,
    List.isEmpty_nil, if_true]
  rfl

/-- R270, R272, R280, R281, R284: each condition and its cause. -/
theorem bargeFaults_exec (h : BargeFaults i w c) (hwhen : w s) : exec i s = .next (faulted s c) := by
  cases h with
  | bcmp f =>
    rw [Laws.exec_bcmp, execBcmp, xbits_eq]
    exact if_pos hwhen
  | bbr f => exact (Laws.exec_bbr f s).trans (if_pos hwhen)
  | bjmp f =>
    obtain ⟨himm, hodd⟩ := hwhen
    exact (Laws.exec_bjmp f s).trans ((if_pos himm).trans (if_pos hodd))
  | bjmpOdd f =>
    obtain ⟨himm, hodd⟩ := hwhen
    rw [srcA_toNat] at hodd
    rw [Laws.exec_bjmp, execBjmp, if_neg (Bool.eq_false_iff.1 himm), if_pos hodd, bargeFail_eq]
  | bjmpFar f =>
    obtain ⟨himm, haligned, hfar⟩ := hwhen
    rw [srcA_toNat] at haligned hfar
    rw [Laws.exec_bjmp, execBjmp, if_neg (Bool.eq_false_iff.1 himm), if_neg (not_not_intro haligned), if_pos hfar, bargeFail_eq]
  | bloop f => exact bloop_faults hwhen
  | bloopDeep f =>
    obtain ⟨hpos, haligned, hsome, hdeep⟩ := hwhen
    exact bloopDeep_faults hpos haligned hsome hdeep
  | bqin f =>
    refine (Laws.exec_bqin f s).trans (if_pos ?_)
    simp only [Bool.not_eq_true', Bool.and_eq_false_iff, decide_eq_false_iff_not]
    exact hwhen.imp Nat.not_le.2 Nat.not_lt.2
  | bqinDead f =>
    obtain ⟨hlow, hhigh, hlanded, hempty, hdead⟩ := hwhen
    exact bqinDead_faults hlow hhigh hlanded hempty hdead
  | bqout f =>
    refine (Laws.exec_bqout f s).trans (if_pos ?_)
    simp only [Bool.not_eq_true', Bool.and_eq_false_iff, decide_eq_false_iff_not]
    exact hwhen.imp Nat.not_le.2 Nat.not_lt.2
  | barrNb f => exact barrNb_faults hwhen
  | barrSc f =>
    rw [Laws.exec_barrSc, execBarrSc, xbits_eq f 11 2]
    exact if_pos hwhen
  | bwait f =>
    rw [Laws.exec_bwait, execBwait, xbits_eq]
    exact if_pos hwhen
  | bwaitNb f =>
    rw [Laws.exec_bwaitNb, execBwaitNb, xbits_eq]
    exact if_pos hwhen
  | bfence f =>
    rw [Laws.exec_bfence, execBfence, xbits_eq]
    exact if_pos (by simpa using hwhen)
  | btok f => exact (Laws.exec_btok f s).trans (if_pos hwhen)

end BargeFaultsFound

/-- Settles O49: each instruction tests its own fields first, and notes the fault of its cause. -/
theorem bargeFaultsFound : Obligations.BargeFaultsFound := fun _ _ _ h _ hwhen => bargeFaults_exec h hwhen

end Sys2Proof.Proofs

/-! Data of a barge's program (R273 to R280, R282): loads of indices, addresses and queues, copies, which begin, and their units. -/

namespace Sys2Proof.Proofs

open Sys2Proof Sys2Proof.Machine Sys2Proof.Rules

section BargeData

variable {i : Instr} {r : StepRule} {s t : State} {f : BargeForm} {b : Nat} {c : Flight}

/-! ### Indices and addresses (R274, R279) -/

theorem indexAddr_eq (f : BargeForm) (s : State) : (s.bA f + f.simm) % 2 ^ 64 = (srcA f s + f.imm.signExtend 64).toNat := by
  rw [BitVec.toNat_add, srcA_toNat, simm_eq]

/-- R279: an index, extended as its size and sign say. -/
theorem indexValue_eq (f : BargeForm) (bs : List Byte) :
    wrap 64 (indexValue (xfield f 9 2) (bitOf f.x.toNat 8) (ofBytes bs)) = (indexRead f bs).toNat := by
  have hbit : bitOf f.x.toNat 8 = xbit f 8 := rfl
  rw [hbit, indexValue, indexRead, wrap_eq_ofInt]
  split
  · rw [signed_eq_toInt, BitVec.signExtend]
  · rw [BitVec.ofInt_natCast]

theorem bldi_turns (h : IsBargeData (.bldi f) r) : Turns (.bldi f) r := by
  cases h with
  | bldi f bs t =>
    intro s ⟨horder, hread⟩
    have horder' : s.readsBehind (xfield f 11 2) ((srcA f s + f.imm.signExtend 64).toNat) (2 ^ xfield f 9 2) = false := horder
    have hread' : spaceRead s s.bargeTeam (xfield f 11 2) ((srcA f s + f.imm.signExtend 64).toNat) (2 ^ xfield f 9 2) = .ok bs t := hread
    rw [Laws.exec_bldi, execBldi]
    simp only [xbits_eq, indexAddr_eq, horder', hread', Bool.false_eq_true, if_false, indexValue_eq, bargeSet_toNat]

/-- R274: the coordinates in the registers from B. -/
theorem coords_eq (f : BargeForm) (s : State) (n : Nat) : s.coords f.b.toNat n = pointOf f s n := by
  rw [State.coords, pointOf, rangeFrom_eq_range', List.range'_eq_map_range, List.map_map]
  refine List.map_congr_left fun k _ => ?_
  have hword : s.areg (f.b.toNat + k) = (BitVec.ofNat 64 (Sparse.get 0 (bge s).a (f.b.toNat + k))).toNat := (BitVec.toNat_ofNat ..).symm
  rw [Function.comp, hword, signed_areg]

theorem layoutAt_ok {n : Nat} {v : BitVec 64} {l : Layout} (h : layoutRead s v l) (hn : v.toNat = n) : s.layoutAt n = .ok l := by
  obtain ⟨horder, hread⟩ := h
  subst hn
  exact (if_neg (Bool.eq_false_iff.1 horder)).trans hread

theorem baddr_turns (h : IsBargeData (.baddr f) r) : Turns (.baddr f) r := by
  cases h with
  | baddr f l =>
    intro s ⟨hlayout, hregs⟩
    rw [Laws.exec_baddr, execBaddr]
    simp only [layoutAt_ok hlayout (srcA_toNat f s), coords_eq]
    rw [if_neg (Nat.not_lt.2 hregs), bargeSet_eq (BitVec.toNat_ofNat ..).symm]

/-! ### Queues (R280) -/

theorem bqin_turns (h : IsBargeData (.bqin f) r) : Turns (.bqin f) r := by
  cases h with
  | bqin f e es =>
    intro s ⟨hlow, hhigh, hlanded, hqueue⟩
    have hqueue' : s.queueOf s.bargeTeam f.imm.toNat = e :: es := hqueue
    rw [Laws.exec_bqin, execBqin]
    simp only [hlow, hhigh, copying_of_landed hlanded, hqueue', decide_true, Bool.and_self, Bool.not_true, Bool.false_eq_true, if_false]
    rw [bargeSet_eq (BitVec.toNat_ofNat ..).symm]

/-- R280: with its copies to be performed to their end, and no barge before it, a `bqout` enters. -/
theorem bqout_turns (h : IsBargeData (.bqout f) r) : Turns (.bqout f) r := by
  cases h with
  | bqout f =>
    intro s ⟨hlow, hhigh, hpass, hroom, hfirst⟩
    rw [Laws.exec_bqout, execBqout]
    simp only [hlow, hhigh, hpass, hfirst, decide_true, Bool.and_self, Bool.not_true, Bool.false_and, Bool.or_self, Bool.false_eq_true, if_false,
      ← srcA_toNat]
    exact if_neg (Nat.not_le.2 hroom)

/-! ### Copies begin (R273, R275 to R277, R282) -/

/-- R273, R282: both records are read, and nothing stops the copy. -/
theorem beginCopy_begun {op : Nat} {check : Layout → Layout → Nat} {d l : Layout} (hrec : records f s d l) (hsound : check d l = 0) :
    beginCopy op check f s = begun op f s := by
  obtain ⟨hdst, hsrc⟩ := hrec
  have htwo : twoRecords s f = .ok (d, l) := by
    simp only [twoRecords, layoutAt_ok hdst (areg_toNat s f.d), layoutAt_ok hsrc (srcA_toNat f s)]
  simp only [beginCopy, htwo, hsound, ne_eq, not_true_eq_false, if_false, begun, recordNow, areg_toNat, srcA_toNat]
  rfl

theorem maskCause_eq_zero {ok : Bool} (h : f.imm = 0 ∨ (ok = true ∧ maskFits f s)) : maskCause s f.imm.toNat ok = 0 := by
  rcases h with hnone | ⟨hok, hfits⟩
  · exact if_pos (congrArg BitVec.toNat hnone)
  · have hthere : f.imm.toNat / 2 ^ clusterSize s s.bargeTeam = 0 := Nat.div_eq_of_lt hfits
    simp [maskCause, hok, hthere]

theorem boxCause_eq_zero {d l : Layout} (htile : d.tile ≠ l.tile) (hrank : d.rank = l.rank) (hsize : d.esize = l.esize)
    (hregs : f.b.toNat + d.rank ≤ 16) (hmask : f.imm = 0 ∨ (d.tile = true ∧ d.space = 1 ∧ maskFits f s)) : boxCause s f d l = 0 := by
  have hgood : (decide (d.tile = l.tile) || decide (d.rank ≠ l.rank) || decide (d.esize ≠ l.esize) || decide (16 < f.b.toNat + d.rank)) = false := by
    simp [htile, hrank, hsize, hrank ▸ hregs]
  rw [boxCause, hgood]
  refine maskCause_eq_zero (hmask.imp_right fun ⟨hto, hspace, hfits⟩ => ⟨?_, hfits⟩)
  rw [hto, hspace]
  rfl

theorem rowsOk_of_shapesAgree {d l : Layout} (h : shapesAgree f d l) : rowsOk f d l = true := by
  obtain ⟨hrank, hrank', hsize, hdim, hindex⟩ := h
  simp [rowsOk, hrank, hrank', hsize, hdim, xbits_eq, hindex]

theorem rowsCause_eq_zero {d l : Layout} (hshape : shapesAgree f d l) (hmask : f.imm = 0 ∨ (d.space = 1 ∧ maskFits f s)) : rowsCause s f d l = 0 := by
  rw [rowsCause, rowsOk_of_shapesAgree hshape]
  exact maskCause_eq_zero (hmask.imp_right fun ⟨hspace, hfits⟩ => ⟨decide_eq_true hspace, hfits⟩)

theorem poolCause_eq_zero {d l : Layout} (hshape : shapesAgree f d l) (hfmt : xfield f 6 2 ≠ 3)
    (hsize : d.esize = if xfield f 6 2 = 1 then 2 else 4) : poolCause f d l = 0 := by
  simp [poolCause, rowsOk_of_shapesAgree hshape, xbits_eq, hfmt, hsize]

/-- R273 to R277, R279, R280, R282: each instruction that loads, addresses, queues or begins a copy. -/
theorem isBargeData_turns (h : IsBargeData i r) : Turns i r := by
  cases h with
  | bldi f bs t => exact bldi_turns (.bldi f bs t)
  | baddr f l => exact baddr_turns (.baddr f l)
  | bqin f e es => exact bqin_turns (.bqin f e es)
  | bqout f => exact bqout_turns (.bqout f)
  | bcopy f d l =>
    intro s ⟨hrec, htile, hrank, hsize, hregs, hmask⟩
    exact (Laws.exec_bcopy f s).trans (congrArg _ (beginCopy_begun hrec (boxCause_eq_zero htile hrank hsize hregs hmask)))
  | bgath f d l =>
    intro s ⟨hrec, hshape, hmask⟩
    exact (Laws.exec_bgath f s).trans (congrArg _ (beginCopy_begun hrec (rowsCause_eq_zero hshape hmask)))
  | bscat f d l =>
    intro s ⟨hrec, hshape, hmask⟩
    exact (Laws.exec_bscat f s).trans (congrArg _ (beginCopy_begun hrec (rowsCause_eq_zero hshape hmask)))
  | bpool f d l =>
    intro s ⟨hrec, hshape, hfmt, hsize⟩
    exact (Laws.exec_bpool f s).trans (congrArg _ (beginCopy_begun hrec (poolCause_eq_zero hshape hfmt hsize)))

/-! ### Units of a copy in flight (R275 to R278) -/

/-- R278: every write of the unit passes its check, is behind nothing, and is made in every target. -/
theorem writeUnit_ok {m : Mover} {srcs : List Nat} {ws : List (Nat × List Byte)} (hchecks : ∀ w ∈ ws, writeStop s m.team m.dst w.1 m.esize = 0)
    (hfree : ∀ n ∈ m.targets, ∀ w ∈ ws, behindPath s m.accesses n m.dst w.1 m.esize = false)
    (hwrites : writeTargets m srcs ws s m.targets = .ok () t) : writeUnit m srcs s ws = .ok t := by
  have hnone : ws.find? (fun w => writeStop s m.team m.dst w.1 m.esize != 0) = none :=
    List.find?_eq_none.2 fun w hw => by simp [hchecks w hw]
  have hopen : m.targets.any (fun t => ws.any (fun w => behindPath s m.accesses t m.dst w.1 m.esize)) = false :=
    List.any_eq_false.2 fun n hn => Bool.eq_false_iff.1 (List.any_eq_false.2 fun w hw => Bool.eq_false_iff.1 (hfree n hn w hw))
  simp only [writeUnit, hnone, hopen, hwrites, Bool.false_eq_true, if_false]

theorem rowIn_eq (l : Layout) (k : Int) : rowIn l k = decide (0 ≤ k ∧ k < l.dim 1) := (Bool.decide_and ..).symm

/-- R276: the moves of a gather's row. -/
theorem rowMoves_gather (n : Nat) (k : Int) (h : c.op = 0x14) : c.rowMoves n k = Rules.rowMoves false c.dst c.src n k := by
  simp [Flight.rowMoves, h, Rules.rowMoves, rowIn_eq]

/-- R276: the moves of a scatter's row. -/
theorem rowMoves_scatter (n : Nat) (k : Int) (h : c.op = 0x15) : c.rowMoves n k = Rules.rowMoves true c.dst c.src n k := by
  simp [Flight.rowMoves, h, Rules.rowMoves, rowIn_eq]

/-- R275, R276: the unit of a box, a gather or a scatter is a run of its moves. -/
theorem copyUnit_of_unitMoves {es : Moves} {u : State} (h : UnitMoves s b c es u) :
    copyUnit s b c c.unit = runUnit (c.mover s b c.unit) (unspecified s b c) u es := by
  cases h with
  | box hop => simp only [copyUnit, unspecified, hop, if_true]; rfl
  | gather k u hop hindex => simp [copyUnit, unspecified, hop, hindex, rowMoves_gather _ _ hop]
  | scatter k u hop hindex => simp [copyUnit, unspecified, hop, hindex, rowMoves_scatter _ _ hop]

/-- R275 to R278: what a unit reads it writes, after the checks. -/
theorem copyUnit_of_unitReads {ws : List (Nat × List Byte)} {u : State} (h : UnitReads s b c ws u) :
    copyUnit s b c c.unit = writeUnit (c.mover s b c.unit) (unspecified s b c) u ws := by
  cases h with
  | moves es t u vs hmoves hread =>
    rw [copyUnit_of_unitMoves hmoves, runUnit, hread]
  | pool acc t hop hsums =>
    have hnone : unspecified s b c = [] := if_neg (by simp [hop])
    simp only [copyUnit, hop, xbits_eq, hsums, hnone]

theorem copyUnit_ok (h : UnitDone s b c t) : copyUnit s b c c.unit = .ok t := by
  obtain ⟨ws, u, hreads, hchecks, hfree, hwrites⟩ := h
  rw [copyUnit_of_unitReads hreads]
  exact writeUnit_ok hchecks hfree hwrites

/-- R278, R330: the next unit of a copy is performed and counted. -/
theorem copyUnits_one {k : Nat} (hcopy : (s.barge b).flight[k]? = some c) (hsound : c.fault = none) (hmore : c.unit < c.units)
    (hdone : UnitDone s b c t) : copyUnits b k 1 s = unitCounted b k c t := by
  have hgo : (c.fault.isSome || decide (c.units ≤ c.unit)) = false := by
    rw [hsound, decide_eq_false (Nat.not_le.2 hmore)]
    rfl
  simp only [copyUnits, hcopy, hgo, Bool.false_eq_true, if_false, copyUnit_ok hdone]
  rfl

end BargeData

/-- Settles O47: each instruction leaves the state of its rule, and the next unit of a copy is a run of its moves. -/
theorem bargeData : Obligations.BargeData :=
  ⟨fun _ _ h => isBargeData_turns h, fun _ _ _ _ _ hcopy hsound hmore hdone => copyUnits_one hcopy hsound hmore hdone⟩

end Sys2Proof.Proofs

/-! What management sets (R392, R412, R414): every setting is a change that the management controller makes for a requester that it admits. -/

namespace Sys2Proof.Proofs

open Sys2Proof Sys2Proof.Machine Sys2Proof.Rules

section Settings

variable {i : Instr} {s : State} {w : State → Prop} {n : State → State} {go : State → State}

/-! ### Requests to the management controller (R392, R412, R414) -/

theorem admits_iff (m : Mgmt) : m.admits = true ↔ m.asking % 3 = 1 ∧ m.asking ∈ m.sessions := by
  rw [Mgmt.admits, transportOf, Bool.and_eq_true, decide_eq_true_iff, decide_eq_true_iff]

theorem managed_entitled (hruns : controllerRuns s) (hsession : entitled s) : managed s go = .next (go s) := by
  simp [managed, runsStage_controller.2 hruns, (admits_iff s.mgmt).2 hsession]

theorem managed_refused (hruns : controllerRuns s) (hnone : ¬ entitled s) : managed s go = .next (s.send .refusedRequest) := by
  have hrefused : s.mgmt.admits = false := Bool.eq_false_iff.2 (mt (admits_iff s.mgmt).1 hnone)
  simp [managed, runsStage_controller.2 hruns, hrefused]

theorem managed_unheard (hdown : ¬ controllerRuns s) : managed s go = .next s := by
  have hnone : s.runsStage 1 = false := Bool.eq_false_iff.2 (mt runsStage_controller.1 hdown)
  simp [managed, hnone]

/-! ### The settings (R41, R44, R253, R255, R357, R359, R361, R384, R392 to R394, R396, R407, R409) -/

/-- The change that management makes: with the values that the setting takes, it is the one of its rule. -/
def Manages (i : Instr) (w : State → Prop) (n : State → State) : Prop :=
  ∃ go : State → State, (∀ s, exec i s = managed s go) ∧ ∀ s, w s → go s = n s

/-- R255: the load waits for the accesses that were in flight as it was first asked for. -/
theorem execKeySlotLoad_eq (k : Nat) (x : Option Nat) (s : State) : execKeySlotLoad k x s = managed s (fun s =>
    if 64 ≤ k then s
    else if keyInFlight s (k + 1) (loadFrom s k) then s.modXlat (fun y => { y with loads := Sparse.set 0 y.loads k (loadFrom s k) })
    else loadKeySlot k x s) := by
  refine congrArg (managed s) (funext fun s => ?_)
  cases hnoted : Sparse.get 0 s.xlat.loads k <;> simp [loadFrom, hnoted]

/-- R253, R255: a load for which no access under the slot is in flight, and one that waits. -/
theorem keySlotLoad_manages {k : Nat} {x : Option Nat} (h : IsSetting (.keySlotLoad k x) w n) : Manages (.keySlotLoad k x) w n := by
  refine ⟨_, fun s => (Laws.exec_keySlotLoad k x s).trans (execKeySlotLoad_eq k x s), fun s hwhen => ?_⟩
  cases h with
  | keySlot k x =>
    obtain ⟨hk, hidle⟩ := hwhen
    exact (if_neg (Nat.not_le.2 hk)).trans (if_neg (Bool.eq_false_iff.1 hidle))
  | keySlotWaits k x =>
    obtain ⟨hk, hbusy⟩ := hwhen
    exact (if_neg (Nat.not_le.2 hk)).trans (if_pos hbusy)

theorem stationKeyLoad_manages {k d x : Nat} (h : IsSetting (.stationKeyLoad k d x) w n) : Manages (.stationKeyLoad k d x) w n := by
  refine ⟨_, fun s => Laws.exec_stationKeyLoad k d x s, fun s hwhen => ?_⟩
  cases h with
  | sendKey k x => exact if_neg (by simp [Nat.not_le.2 hwhen])
  | receiveKey k x => exact if_neg (by simp [Nat.not_le.2 hwhen])

theorem isSetting_manages (h : IsSetting i w n) : Manages i w n := by
  cases h with
  | podIdentifier k => exact ⟨_, fun s => Laws.exec_setPodIdentifier k s, fun _ hk => if_pos hk⟩
  | exportSegment k e => exact ⟨_, fun s => Laws.exec_setExportSegment k e s, fun _ hk => if_pos hk⟩
  | keySlot k x => exact keySlotLoad_manages (.keySlot k x)
  | keySlotWaits k x => exact keySlotLoad_manages (.keySlotWaits k x)
  | ideKey p x => exact ⟨_, fun s => Laws.exec_ideKeyLoad p x s, fun _ hp => if_pos hp⟩
  | sendKey k x => exact stationKeyLoad_manages (.sendKey k x)
  | receiveKey k x => exact stationKeyLoad_manages (.receiveKey k x)
  | hdmKeyNone => exact ⟨_, fun s => Laws.exec_setHdmKey none s, fun _ _ => rfl⟩
  | hdmKey k => exact ⟨_, fun s => Laws.exec_setHdmKey (some k) s, fun _ hk => if_pos hk⟩
  | window p b l => exact ⟨_, fun s => Laws.exec_setSpace3Window p b l s, fun _ hp => if_pos (by simpa [memoryPort] using hp)⟩
  | privileges x => exact ⟨_, fun s => Laws.exec_setPrivilegeMask x s, fun _ _ => rfl⟩
  | threshold c d =>
    exact ⟨_, fun s => Laws.exec_setHotThreshold c d s, fun _ ⟨hc, hlow, hhigh⟩ => if_pos (by simp [coreCount, hc, hlow, hhigh])⟩
  | marks d a b => exact ⟨_, fun s => Laws.exec_setReserveMarks d a b s, fun _ hd => if_pos hd⟩
  | retirement k x => exact ⟨_, fun s => Laws.exec_setRetirementThreshold k x s, fun _ hk => if_pos hk⟩
  | powerLimit x => exact ⟨_, fun s => Laws.exec_setPowerLimit x s, fun _ ⟨hlow, hhigh⟩ => if_pos (by simp [hlow, hhigh])⟩

end Settings

/-- Settles O50: every setting is made through the management controller, which hears it, refuses it or takes it. -/
theorem settingsTaken : Obligations.SettingsTaken := by
  refine ⟨fun i w n h s hruns hsession hwhen => ?_, fun i w n h s hruns hnone => ?_, fun i w n h s hdown => ?_⟩ <;>
    obtain ⟨go, hexec, hgo⟩ := isSetting_manages h
  · rw [hexec, managed_entitled hruns hsession, hgo s hwhen]
  · rw [hexec, managed_refused hruns hnone]
  · rw [hexec, managed_unheard hdown]

end Sys2Proof.Proofs

/-! Queue registers, queue commands, the debug mailbox's registers and BAR0 (R313, R385 to R391, R395): what each write answers. -/

namespace Sys2Proof.Proofs

open Sys2Proof Sys2Proof.Machine Sys2Proof.Rules

section Queues

variable {s : State} {i : Instr} {r : StepRule} {q k n x o op id : Nat} {high : Bool}

/-! ### A doubleword of BAR0 as a write leaves it (R385) -/

/-- What BAR0 hands to a register when a write covers it, or its high or low half. -/
def dwordWritten (old n x : Nat) (high : Bool) : Nat := setBits old (if high && n = 4 then 32 else 0) (8 * n) x

/-- The write covers the low half. -/
def coversLow (n : Nat) (high : Bool) : Bool := !(high && n = 4)

/-- The write covers the high half. -/
def coversHigh (n : Nat) (high : Bool) : Bool := n = 8 || high

theorem testBit_dwordWritten (hn : regSize n) {j : Nat} (hj : j < 64) (old x : Nat) :
    (dwordWritten old n x high).testBit j = (afterWrite old n x high).testBit j := by
  rcases hn with rfl | rfl
  · cases high
    · have hlow : x % 2 ^ 32 < 2 ^ 32 := Nat.mod_lt _ (by decide)
      simp only [dwordWritten, afterWrite, testBit_setBits, Bool.false_and, Bool.false_eq_true, if_false, Nat.zero_le, Nat.sub_zero,
        true_and, Nat.zero_add, Nat.reduceMul, Nat.reduceEqDiff]
      rw [mul_comm, Nat.testBit_two_pow_mul_add _ hlow, Nat.testBit_mod_two_pow, Nat.testBit_div_two_pow, Nat.testBit_mod_two_pow]
      by_cases h : j < 32
      · simp [h]
      · simp [h, hj, Nat.sub_add_cancel (Nat.not_lt.1 h)]
    · have hlow : old % 2 ^ 32 < 2 ^ 32 := Nat.mod_lt _ (by decide)
      simp only [dwordWritten, afterWrite, testBit_setBits, Bool.true_and, decide_true, if_true, Nat.reduceMul, Nat.reduceEqDiff, if_false]
      rw [mul_comm, Nat.testBit_two_pow_mul_add _ hlow, Nat.testBit_mod_two_pow, Nat.testBit_mod_two_pow]
      by_cases h : j < 32
      · simp [h, Nat.not_le.2 h]
      · simp [h, hj, Nat.not_lt.1 h, show j - 32 < 32 by omega]
  · have hfull : afterWrite old 8 x high = x % 2 ^ 64 := rfl
    rw [hfull, Nat.testBit_mod_two_pow]
    simp [dwordWritten, testBit_setBits, hj]

/-- Fields of a doubleword do not see what lies above it. -/
theorem dwordWritten_and (hn : regSize n) {m : Nat} (hm : m < 2 ^ 64) (old x : Nat) :
    dwordWritten old n x high &&& m = afterWrite old n x high &&& m := by
  refine Nat.eq_of_testBit_eq fun j => ?_
  rw [Nat.testBit_and, Nat.testBit_and]
  by_cases hj : j < 64
  · rw [testBit_dwordWritten hn hj]
  · have hout : m.testBit j = false := Nat.testBit_lt_two_pow (hm.trans_le (Nat.pow_le_pow_right (by decide) (Nat.not_lt.1 hj)))
    rw [hout, Bool.and_false, Bool.and_false]

theorem dwordWritten_field (hn : regSize n) {lo w : Nat} (hw : lo + w ≤ 64) (old x : Nat) :
    bits (dwordWritten old n x high) lo w = afterWrite old n x high / 2 ^ lo % 2 ^ w := by
  rw [bits_eq_div_mod]
  refine Nat.eq_of_testBit_eq fun j => ?_
  rw [Nat.testBit_mod_two_pow, Nat.testBit_mod_two_pow, Nat.testBit_div_two_pow, Nat.testBit_div_two_pow]
  by_cases hj : j < w
  · rw [testBit_dwordWritten hn (by omega)]
  · simp [hj]

/-! ### Which register a write reaches (R385, R387, R391) -/

theorem barOk_iff : barOk o n = true ↔ regSize n ∧ o % n = 0 ∧ o + n ≤ 2 ^ 24 := by
  simp only [barOk, regSize, Bool.and_eq_true, Bool.or_eq_true, decide_eq_true_eq, and_assoc]

/-- Offset within its doubleword of a write that covers the high half or starts at the low one. -/
def halfOff (n : Nat) (high : Bool) : Nat := if high && n = 4 then 4 else 0

/-- R385: what a write to BAR0 changes, by the doubleword it falls on. -/
theorem barWrite_dword {a : Nat} (hn : regSize n) (ha : a % 8 = 0) (hin : a + 8 ≤ 2 ^ 24) : barWrite s (a + halfOff n high) n x =
    if 0x10000 ≤ a && a < 0x11000 then
      writeQueue s ((a - 0x10000) / 64) (a % 64 / 8) (dwordWritten (barWord s a) n x high) (coversLow n high) (coversHigh n high)
    else if 0x20000 ≤ a && a < 0x20100 then writeMail s (a - 0x20000) (dwordWritten (barWord s a) n x high) (coversLow n high)
    else if 0x80000 ≤ a && a < 0x88000 then
      s.modXlat (fun t => { t with
        roots := Sparse.set 0 t.roots ((a - 0x80000) / 8) (dwordWritten (barWord s a) n x high &&& rootKeep) })
    else s := by
  have hword : a / 8 * 8 = a := by omega
  have hword4 : (a + 4) / 8 * 8 = a := by omega
  have hhalf : (a + 4) % 8 = 4 := by omega
  have hoff : a + halfOff n high = a ∧ n = 8 ∨ a + halfOff n high = a ∧ n = 4 ∧ high = false ∨
      a + halfOff n high = a + 4 ∧ n = 4 ∧ high = true := by
    rcases hn with rfl | rfl <;> cases high <;> simp [halfOff]
  rcases hoff with ⟨ho, rfl⟩ | ⟨ho, rfl, rfl⟩ | ⟨ho, rfl, rfl⟩
  · have hok : barOk a 8 = true := barOk_iff.2 ⟨hn, by omega, by omega⟩
    simp [ho, barWrite, hok, hword, ha, dwordWritten, coversLow, coversHigh]
  · have hok : barOk a 4 = true := barOk_iff.2 ⟨hn, by omega, by omega⟩
    simp [ho, barWrite, hok, hword, ha, dwordWritten, coversLow, coversHigh]
  · have hok : barOk (a + 4) 4 = true := barOk_iff.2 ⟨hn, by omega, by omega⟩
    simp [ho, barWrite, hok, hword4, hhalf, dwordWritten, coversLow, coversHigh]

theorem barWrite_queue (hq : q < 64) (hk : k < 8) (hn : regSize n) : barWrite s (queueOff q k n high) n x =
    writeQueue s q k (dwordWritten (s.queueReg q k) n x high) (coversLow n high) (coversHigh n high) := by
  have hin : (0x10000 ≤ 0x10000 + 64 * q + 8 * k && 0x10000 + 64 * q + 8 * k < 0x11000) = true := by simp; omega
  have hword : barWord s (0x10000 + 64 * q + 8 * k) = s.queueReg q k := by
    rw [barWord, if_neg (by omega), if_pos hin, State.queueReg]
    congr 1
    omega
  refine (barWrite_dword hn (by omega) (by omega)).trans ?_
  rw [if_pos hin, hword]
  congr 1 <;> omega

theorem barWrite_mail (hk : k < 32) (hn : regSize n) : barWrite s (mailboxOff k n high) n x =
    writeMail s (8 * k) (dwordWritten (s.mail (8 * k)) n x high) (coversLow n high) := by
  have hoff : mailboxOff k n high = 0x20000 + 8 * k + halfOff n high := by
    simp only [mailboxOff, halfOff, Bool.and_eq_true, decide_eq_true_eq]
  have hout : (0x10000 ≤ 0x20000 + 8 * k && 0x20000 + 8 * k < 0x11000) = false := by simp; omega
  have hin : (0x20000 ≤ 0x20000 + 8 * k && 0x20000 + 8 * k < 0x20100) = true := by simp; omega
  have hword : barWord s (0x20000 + 8 * k) = s.mail (8 * k) := by
    rw [barWord, if_neg (by omega), hout, if_neg (by decide), if_pos hin, State.mail, Nat.add_sub_cancel_left]
  rw [hoff, barWrite_dword hn (by omega) (by omega), hout, if_neg (by decide), if_pos hin, hword, Nat.add_sub_cancel_left]

theorem barWrite_root (hk : k < 4096) : barWrite s (0x80000 + 8 * k) 8 x =
    s.modXlat (fun t => { t with roots := Sparse.set 0 t.roots k (x % 2 ^ 64 &&& rootKeep) }) := by
  have hqueue : (0x10000 ≤ 0x80000 + 8 * k && 0x80000 + 8 * k < 0x11000) = false := by simp; omega
  have hmail : (0x20000 ≤ 0x80000 + 8 * k && 0x80000 + 8 * k < 0x20100) = false := by simp; omega
  have hin : (0x80000 ≤ 0x80000 + 8 * k && 0x80000 + 8 * k < 0x88000) = true := by simp; omega
  have hnum : (0x80000 + 8 * k - 0x80000) / 8 = k := by omega
  refine (barWrite_dword (a := 0x80000 + 8 * k) (high := false) (.inr rfl) (by omega) (by omega)).trans ?_
  rw [hqueue, if_neg (by decide), hmail, if_neg (by decide), if_pos hin, hnum, dwordWritten_and (.inr rfl) (by decide)]
  rfl

/-- R385: a write to the status area and to the tracker of bias has no effect. -/
theorem barWrite_readOnly (hok : barOk o n = true) (h : o < 0x10000 ∨ (0x200000 ≤ o ∧ o < 0xF80000)) : barWrite s o n x = s := by
  have hqueue : (0x10000 ≤ o / 8 * 8 && o / 8 * 8 < 0x11000) = false := by simp; omega
  have hmail : (0x20000 ≤ o / 8 * 8 && o / 8 * 8 < 0x20100) = false := by simp; omega
  have hroot : (0x80000 ≤ o / 8 * 8 && o / 8 * 8 < 0x88000) = false := by simp; omega
  simp [barWrite, hok, hqueue, hmail, hroot]

/-! ### The registers of a queue (R387, R388) -/

@[simp] theorem queueReg_setQueueReg_same (s : State) (q k x : Nat) : (s.setQueueReg q k x).queueReg q k = x := Laws.get_set_same ..

theorem queueReg_setQueueReg_other (s : State) (q x : Nat) {k j : Nat} (h : j ≠ k) : (s.setQueueReg q k x).queueReg q j = s.queueReg q j :=
  Laws.get_set_other _ _ _ _ _ (by omega)

theorem ringCode_kept (x : Nat) : bits (x &&& queueKeep 0) 32 5 = ringCode x := by
  rw [bits_eq_div_mod, ringCode]
  refine Nat.eq_of_testBit_eq fun j => ?_
  simp only [Nat.testBit_mod_two_pow, Nat.testBit_div_two_pow, Nat.testBit_and]
  by_cases hj : j < 5
  · have hkeep : (queueKeep 0).testBit (j + 32) = true := by interval_cases j <;> decide
    rw [hkeep, Bool.and_true]
  · simp [hj]

/-- QCFG's number after a write, as BAR0 hands it over. -/
def qcfgHanded (s : State) (q n x : Nat) : Nat := dwordWritten (s.queueReg q 0) n x true

theorem qcfgHanded_on (hn : regSize n) : bitOf (qcfgHanded s q n x) 63 = (qcfgWritten s q n x).testBit 63 :=
  testBit_dwordWritten hn (by decide) _ _

theorem enables_eq (hn : regSize n) : (if n = 4 then bitOf x 31 else bitOf x 63) = (qcfgWritten s q n x).testBit 63 := by
  simp only [← qcfgHanded_on hn, qcfgHanded, dwordWritten, bitOf, testBit_setBits]
  rcases hn with rfl | rfl <;> simp

theorem writeQcfg_on (hn : regSize n) (hon : queueEnabled s q = true) : writeQcfg s q (qcfgHanded s q n x) =
    s.setQueueReg q 0 (setBits (setBits (s.queueReg q 0) 37 3 (qcfgWritten s q n x / 2 ^ 37 % 2 ^ 3)) 63 1
      (bit ((qcfgWritten s q n x).testBit 63))) := by
  have hfield : bits (qcfgHanded s q n x) 37 3 = qcfgWritten s q n x / 2 ^ 37 % 2 ^ 3 := dwordWritten_field hn (by decide) _ _
  rw [queueEnabled] at hon
  simp only [writeQcfg, hon, if_true, hfield, qcfgHanded_on hn]

theorem writeQcfg_off (hn : regSize n) (hoff : queueEnabled s q = false) (hstays : (qcfgWritten s q n x).testBit 63 = false) :
    writeQcfg s q (qcfgHanded s q n x) = s.setQueueReg q 0 (qcfgWritten s q n x &&& queueKeep 0) := by
  have hkept : qcfgHanded s q n x &&& queueKeep 0 = qcfgWritten s q n x &&& queueKeep 0 := dwordWritten_and hn (by decide) _ _
  rw [queueEnabled] at hoff
  simp [writeQcfg, hoff, qcfgHanded_on hn, hstays, hkept]

theorem writeQcfg_enables (hn : regSize n) (hoff : queueEnabled s q = false) (hon : (qcfgWritten s q n x).testBit 63 = true) :
    writeQcfg s q (qcfgHanded s q n x) =
      if 4 ≤ ringCode (qcfgWritten s q n x) ∧ ringCode (qcfgWritten s q n x) ≤ 16 then queueSet s q (qcfgWritten s q n x)
      else queueFails (queueSet s q (qcfgWritten s q n x)) q 4 0 := by
  have hkept : qcfgHanded s q n x &&& queueKeep 0 = qcfgWritten s q n x &&& queueKeep 0 := dwordWritten_and hn (by decide) _ _
  have hset : (((s.setQueueReg q 0 (qcfgHanded s q n x &&& queueKeep 0)).setQueueReg q 4 (queueTail s q)).setQueueReg q 6 0).setQueueReg q 7 0 =
      queueSet s q (qcfgWritten s q n x) := by rw [hkept, queueSet, queueTail]
  have hring : queueRinglog (queueSet s q (qcfgWritten s q n x)) q = ringCode (qcfgWritten s q n x) := by
    simp [queueRinglog, queueSet, queueReg_setQueueReg_other, ringCode_kept]
  rw [queueEnabled] at hoff
  simp [writeQcfg, hoff, qcfgHanded_on hn, hon, hset, hring, queueError_eq_queueFails]

theorem writeTail_eq (s : State) (q x : Nat) : writeTail s q x =
    if queueEnabled s q = true ∧ 2 ^ ringCode (s.queueReg q 0) < entriesOf (s.setQueueReg q 3 (x % 2 ^ 32)) q then
      queueFails (s.setQueueReg q 3 (x % 2 ^ 32)) q 3 0
    else s.setQueueReg q 3 (x % 2 ^ 32) := by
  have hsame : (s.setQueueReg q 3 (x % 2 ^ 32)).queueReg q 0 = s.queueReg q 0 := queueReg_setQueueReg_other s q _ (by decide)
  simp only [writeTail, queueEnabled, queueRinglog, hsame, bits_eq_div_mod, Bool.and_eq_true, decide_eq_true_eq, queueError_eq_queueFails]
  rfl

theorem dwordWritten_low (hn : regSize n) (old : Nat) : dwordWritten old n x false % 2 ^ 32 = x % 2 ^ 32 := by
  refine Nat.eq_of_testBit_eq fun j => ?_
  simp only [Nat.testBit_mod_two_pow, dwordWritten, testBit_setBits, Bool.false_and, Bool.false_eq_true, if_false]
  by_cases hj : j < 32
  · have hin : j < 8 * n := by rcases hn with rfl | rfl <;> omega
    simp [hj, hin]
  · simp [hj]

/-! ### The events of queue registers (R387, R388) -/

theorem execQueueEnable_eq (hq : q < 64) (hn : regSize n) (hoff : queueEnabled s q = false) (hon : (qcfgWritten s q n x).testBit 63 = true) :
    execQueueEnable q n x s = .next (writeQcfg s q (qcfgHanded s q n x)) := by
  rw [← enables_eq hn] at hon
  simp [execQueueEnable, hoff, hon, Nat.not_le.2 hq, barWrite_queue hq (show 0 < 8 by decide) hn, writeQueue, coversHigh, qcfgHanded]

theorem execQueueDisable_eq (hq : q < 64) (hn : regSize n) (hon : queueEnabled s q = true)
    (hoff : (qcfgWritten s q n x).testBit 63 = false) : execQueueDisable q n x s = .next (writeQcfg s q (qcfgHanded s q n x)) := by
  rw [← enables_eq hn] at hoff
  simp [execQueueDisable, hoff, hon, Nat.not_le.2 hq, barWrite_queue hq (show 0 < 8 by decide) hn, writeQueue, coversHigh, qcfgHanded]

theorem execQtailWrite_eq (hq : q < 64) (hn : regSize n) : execQtailWrite q n x s = .next
    (if queueEnabled s q = true ∧ 2 ^ ringCode (s.queueReg q 0) < entriesOf (s.setQueueReg q 3 (x % 2 ^ 32)) q then
      queueFails (s.setQueueReg q 3 (x % 2 ^ 32)) q 3 0
    else s.setQueueReg q 3 (x % 2 ^ 32)) := by
  have htail : writeTail s q (dwordWritten (s.queueReg q 3) n x false) = writeTail s q x := by
    rw [writeTail_eq, writeTail_eq, dwordWritten_low hn]
  rw [execQtailWrite, if_neg (Nat.not_le.2 hq), barWrite_queue hq (by decide) hn, ← writeTail_eq, ← htail]
  rfl

theorem execRegisterWrite_qcfg (hq : q < 64) (hn : regSize n) :
    execRegisterWrite (queueOff q 0 n true) n x s = .next (writeQcfg s q (qcfgHanded s q n x)) := by
  simp [execRegisterWrite, barWrite_queue hq (show 0 < 8 by decide) hn, writeQueue, coversHigh, qcfgHanded]

/-- R387: the addresses of a ring and of its sequence number are written while the queue is off. -/
theorem execRegisterWrite_base (hq : q < 64) (hk : k = 1 ∨ k = 2) (hn : regSize n) : execRegisterWrite (queueOff q k n high) n x s =
    .next (if queueEnabled s q then s else s.setQueueReg q k (afterWrite (s.queueReg q k) n x high &&& queueKeep k)) := by
  rcases hk with rfl | rfl
  · rw [execRegisterWrite, barWrite_queue hq (by decide) hn, ← dwordWritten_and hn (by decide)]
    rfl
  · rw [execRegisterWrite, barWrite_queue hq (by decide) hn, ← dwordWritten_and hn (by decide)]
    rfl

theorem execRegisterWrite_reported (hq : q < 64) (hk : k = 4 ∨ k = 6 ∨ k = 7) (hn : regSize n) :
    execRegisterWrite (queueOff q k n high) n x s = .next s := by
  rw [execRegisterWrite, barWrite_queue hq (by omega) hn]
  rcases hk with rfl | rfl | rfl <;> rfl

/-! ### Commands (R389, R390) -/

/-- QCMD's number with an operation and a launch written, as BAR0 hands it over. -/
def qcmdHanded (s : State) (q op id : Nat) : Nat := dwordWritten (s.queueReg q 5) 8 (op % 256 * 2 ^ 56 + id % 2 ^ 32) true

theorem qcmdHanded_op (s : State) (q op id : Nat) : bits (qcmdHanded s q op id) 56 8 = op % 256 := by
  rw [qcmdHanded, dwordWritten_field (.inr rfl) (by decide), afterWrite, if_pos rfl]
  omega

theorem qcmdHanded_launch (s : State) (q op id : Nat) : qcmdHanded s q op id % 2 ^ 32 = id % 2 ^ 32 := by
  have hlow := dwordWritten_field (high := true) (.inr rfl) (show 0 + 32 ≤ 64 by decide) (s.queueReg q 5) (op % 256 * 2 ^ 56 + id % 2 ^ 32)
  rw [bits_eq_div_mod, afterWrite, if_pos rfl] at hlow
  rw [qcmdHanded]
  omega

theorem writeQueue_qcmd (s : State) (q x : Nat) (lo : Bool) :
    writeQueue s q 5 x lo true = if bits (s.queueReg q 5) 48 8 = 1 then s else command s q x := rfl

theorem qcmd_eq (hq : q < 64) : qcmd q op id s =
    .next (if s.queueReg q 5 / 2 ^ 48 % 2 ^ 8 = 1 then s else command s q (qcmdHanded s q op id)) := by
  rw [qcmd, if_neg (Nat.not_le.2 hq), barWrite_queue hq (by decide) (.inr rfl), ← bits_eq_div_mod, ← writeQueue_qcmd s q _ (coversLow 8 true)]
  rfl

theorem command_notTaken (hdown : ¬ hubRuns s) : command s q x = s := by
  have hnone : s.runsStage 2 = false := Bool.eq_false_iff.2 (mt runsStage_hub.1 hdown)
  simp [command, hnone]

theorem qcmd_taken (hfree : commandFree s q) : qcmd q op id s = .next (command s q (qcmdHanded s q op id)) := by
  obtain ⟨hq, hidle, -⟩ := hfree
  rw [qcmd_eq hq, if_neg hidle]

theorem quickEnd_eq (s : State) (q op id code : Nat) : quickEnd s q op (id % 2 ^ 32) code = commandEnds s q op id code := rfl

section Taken

variable (hfree : commandFree s q)
include hfree

theorem command_invalid (hop : ¬ (1 ≤ op % 256 ∧ op % 256 ≤ 3)) :
    command s q (qcmdHanded s q op id) = commandEnds s q (op % 256) id 3 := by
  have hbad : op % 256 = 0 ∨ 4 ≤ op % 256 := by omega
  simp only [command, runsStage_hub.2 hfree.2.2, qcmdHanded_op, qcmdHanded_launch, hbad, Bool.not_true, Bool.false_eq_true, if_false,
    Bool.or_eq_true, decide_eq_true_eq, if_true, quickEnd_eq]

theorem command_noLaunch (hop : 1 ≤ op ∧ op ≤ 3) (hnone : launchNamed s q (id % 2 ^ 32) = none) :
    command s q (qcmdHanded s q op id) = commandEnds s q op id 2 := by
  have hlow : op % 256 = op := by omega
  have hgood : ¬ (op = 0 ∨ 4 ≤ op) := by omega
  simp only [command, runsStage_hub.2 hfree.2.2, qcmdHanded_op, qcmdHanded_launch, hlow, hgood, hnone, Bool.not_true, Bool.false_eq_true,
    if_false, Bool.or_eq_true, decide_eq_true_eq, quickEnd_eq]

variable (hlaunch : launchNamed s q (id % 2 ^ 32) = some k)
include hlaunch

theorem command_preEmpt : command s q (qcmdHanded s q 1 id) = preemptLaunch s q (id % 2 ^ 32) k := by
  simp [command, runsStage_hub.2 hfree.2.2, qcmdHanded_op, qcmdHanded_launch, hlaunch, -Nat.reducePow]

theorem command_resume : command s q (qcmdHanded s q 2 id) = resumeLaunch s q (id % 2 ^ 32) k := by
  simp [command, runsStage_hub.2 hfree.2.2, qcmdHanded_op, qcmdHanded_launch, hlaunch, -Nat.reducePow]

theorem command_cancel : command s q (qcmdHanded s q 3 id) = cancelLaunch s q (id % 2 ^ 32) k := by
  simp [command, runsStage_hub.2 hfree.2.2, qcmdHanded_op, qcmdHanded_launch, hlaunch, -Nat.reducePow]

end Taken

theorem stopping_iff (l : Launch) :
    (l.stage = .preempted || l.halting || l.cancelled || l.outcome.isSome) = true ↔ stopping l := by
  simp only [stopping, Bool.or_eq_true, decide_eq_true_eq, or_assoc, Option.isSome_iff_ne_none]

theorem exec_command (h : IsCommand i q op id) : exec i s = qcmd q op id s := by
  rcases h with ⟨rfl, rfl⟩ | ⟨rfl, rfl⟩ | ⟨rfl, rfl⟩
  · exact Laws.exec_preEmpt q id s
  · exact Laws.exec_resume q id s
  · exact Laws.exec_cancel q id s

theorem isCommand_op (h : IsCommand i q op id) : 1 ≤ op ∧ op ≤ 3 := by
  rcases h with ⟨-, rfl⟩ | ⟨-, rfl⟩ | ⟨-, rfl⟩ <;> decide

/-! ### The debug mailbox (R391) -/

theorem execRegisterWrite_mail (hk : k < 32) (hn : regSize n) : execRegisterWrite (mailboxOff k n high) n x s =
    .next (writeMail s (8 * k) (dwordWritten (s.mail (8 * k)) n x high) (coversLow n high)) := by
  rw [execRegisterWrite, barWrite_mail hk hn]

theorem mailKeep_lt (o : Nat) : mailKeep o < 2 ^ 64 := by
  unfold mailKeep
  split_ifs <;> decide

theorem writeMail_busy {lo : Bool} (hbusy : mailboxBusy s) : writeMail s o x lo = s := if_pos hbusy

theorem writeMail_field {lo : Bool} (hidle : ¬ mailboxBusy s) (ho : o ≠ 0x18) : writeMail s o x lo = s.setMail o (x &&& mailKeep o) :=
  (if_neg hidle).trans (if_neg ho)

theorem mailboxGoes_iff (hn : regSize n) (old : Nat) :
    (coversLow n high && bitOf (dwordWritten old n x high) 0) = true ↔ mailboxGoes n x high := by
  rcases hn with rfl | rfl <;> cases high <;> simp [coversLow, mailboxGoes, dwordWritten, bitOf, testBit_setBits, -Nat.testBit_zero]

theorem writeMail_rest (hn : regSize n) (hidle : ¬ mailboxBusy s) (hstays : ¬ mailboxGoes n x high) :
    writeMail s 0x18 (dwordWritten (s.mail 0x18) n x high) (coversLow n high) = s :=
  (if_neg hidle).trans ((if_pos rfl).trans (if_neg (mt (mailboxGoes_iff hn _).1 hstays)))

theorem writeMail_go (hn : regSize n) (hidle : ¬ mailboxBusy s) (hgoes : mailboxGoes n x high) :
    writeMail s 0x18 (dwordWritten (s.mail 0x18) n x high) (coversLow n high) =
      if 1 ≤ mailboxCode s ∧ mailboxCode s ≤ 9 then s.setMail 0x18 (setBits (s.mail 0x18) 0 1 1) else mailNoCommand s := by
  have hcode : bits (s.mail 0) 56 8 = mailboxCode s := bits_eq_div_mod ..
  refine (if_neg hidle).trans ((if_pos rfl).trans ((if_pos ((mailboxGoes_iff hn _).2 hgoes)).trans ?_))
  simp only [hcode, Bool.and_eq_true, decide_eq_true_eq, mailNoCommand, mailEnd, bit, Bool.false_eq_true, if_false, Nat.zero_mul,
    Nat.add_zero]
  rfl

end Queues

/-- Settles O52: each event answers what the equation of its case says. -/
theorem queueEvents : Obligations.QueueEvents := by
  intro i r h s hwhen
  cases h with
  | enable q n x =>
    obtain ⟨hq, hn, hoff, hon, hring⟩ := hwhen
    rw [Laws.exec_queueEnable, execQueueEnable_eq hq hn hoff hon, writeQcfg_enables hn hoff hon, if_pos hring]
  | enableBad q n x =>
    obtain ⟨hq, hn, hoff, hon, hring⟩ := hwhen
    rw [Laws.exec_queueEnable, execQueueEnable_eq hq hn hoff hon, writeQcfg_enables hn hoff hon, if_neg hring]
  | disable q n x =>
    obtain ⟨hq, hn, hon, hoff⟩ := hwhen
    rw [Laws.exec_queueDisable, execQueueDisable_eq hq hn hon hoff, writeQcfg_on hn hon, hoff]
    rfl
  | tail q n x =>
    obtain ⟨hq, hn, hfits⟩ := hwhen
    have hkept : ¬ (queueEnabled s q = true ∧ 2 ^ ringCode (s.queueReg q 0) < entriesOf (s.setQueueReg q 3 (x % 2 ^ 32)) q) := by
      rintro ⟨hon, hover⟩
      rcases hfits with hoff | hfits
      · exact Bool.false_ne_true (hoff.symm.trans hon)
      · exact Nat.not_le.2 hover hfits
    rw [Laws.exec_qtailWrite, execQtailWrite_eq hq hn, if_neg hkept]
  | tailOver q n x =>
    obtain ⟨hq, hn, hover⟩ := hwhen
    rw [Laws.exec_qtailWrite, execQtailWrite_eq hq hn, if_pos hover]
  | root k n x =>
    obtain ⟨hk, rfl⟩ := hwhen
    rw [Laws.exec_registerWrite, execRegisterWrite, barWrite_root hk]
  | unsupported o n x =>
    have hbad : barOk o n = false := Bool.eq_false_iff.2 (mt barOk_iff.1 hwhen)
    rw [Laws.exec_registerWrite, execRegisterWrite, barWrite, hbad]
    rfl
  | readOnly o n x =>
    obtain ⟨hn, halign, hin, hkept⟩ := hwhen
    rw [Laws.exec_registerWrite, execRegisterWrite, barWrite_readOnly (barOk_iff.2 ⟨hn, halign, hin⟩) hkept]
  | config q n x =>
    obtain ⟨hq, hn, hoff, hstays⟩ := hwhen
    rw [Laws.exec_registerWrite, execRegisterWrite_qcfg hq hn, writeQcfg_off hn hoff hstays]
  | priority q n x =>
    obtain ⟨hq, hn, hon, hstays⟩ := hwhen
    rw [Laws.exec_registerWrite, execRegisterWrite_qcfg hq hn, writeQcfg_on hn hon, hstays]
    rfl
  | base q k n x high =>
    obtain ⟨hq, hk, hn, hoff⟩ := hwhen
    rw [Laws.exec_registerWrite, execRegisterWrite_base hq hk hn, hoff]
    rfl
  | baseHeld q k n x high =>
    obtain ⟨hq, hk, hn, hon⟩ := hwhen
    rw [Laws.exec_registerWrite, execRegisterWrite_base hq hk hn, if_pos hon]
  | reported q k n x high =>
    obtain ⟨hq, hk, hn⟩ := hwhen
    rw [Laws.exec_registerWrite, execRegisterWrite_reported hq hk hn]
  | mailHeld k n x high =>
    obtain ⟨hk, hn, hbusy⟩ := hwhen
    rw [Laws.exec_registerWrite, execRegisterWrite_mail hk hn, writeMail_busy hbusy]
  | mailWrite k n x high =>
    obtain ⟨hk, hother, hn, hidle⟩ := hwhen
    rw [Laws.exec_registerWrite, execRegisterWrite_mail hk hn, writeMail_field hidle (by omega), dwordWritten_and hn (mailKeep_lt _)]
    rfl
  | mailGo n x high =>
    obtain ⟨hn, hidle, hgoes, hcode⟩ := hwhen
    rw [Laws.exec_registerWrite, execRegisterWrite_mail (by decide) hn, writeMail_go hn hidle hgoes, if_pos hcode]
  | mailNoCode n x high =>
    obtain ⟨hn, hidle, hgoes, hcode⟩ := hwhen
    rw [Laws.exec_registerWrite, execRegisterWrite_mail (by decide) hn, writeMail_go hn hidle hgoes, if_neg hcode]
  | mailRest n x high =>
    obtain ⟨hn, hidle, hstays⟩ := hwhen
    rw [Laws.exec_registerWrite, execRegisterWrite_mail (by decide) hn, writeMail_rest hn hidle hstays]
  | busy q op id i h =>
    obtain ⟨hq, hbusy⟩ := hwhen
    rw [exec_command h, qcmd_eq hq, if_pos hbusy]
  | notTaken q op id i h =>
    obtain ⟨hq, hdown⟩ := hwhen
    rw [exec_command h, qcmd_eq hq, command_notTaken hdown, ite_self]
  | noLaunch q op id i h =>
    obtain ⟨hfree, hnone⟩ := hwhen
    rw [exec_command h, qcmd_taken hfree, command_noLaunch hfree (isCommand_op h) hnone]
  | preEmpt q id k =>
    obtain ⟨hfree, hlaunch, hgoes⟩ := hwhen
    rw [exec_command (.inl ⟨rfl, rfl⟩), qcmd_taken hfree, command_preEmpt hfree hlaunch]
    exact congrArg _ (if_neg (mt (stopping_iff _).1 hgoes))
  | preEmptLate q id k =>
    obtain ⟨hfree, hlaunch, hlate⟩ := hwhen
    rw [exec_command (.inl ⟨rfl, rfl⟩), qcmd_taken hfree, command_preEmpt hfree hlaunch]
    exact congrArg _ (if_pos ((stopping_iff _).2 hlate))
  | resume q id k =>
    obtain ⟨hfree, hlaunch, hsaved⟩ := hwhen
    rw [exec_command (.inr (.inl ⟨rfl, rfl⟩)), qcmd_taken hfree, command_resume hfree hlaunch]
    simp only [resumeLaunch, hsaved, if_true, quickEnd_eq, Bool.and_eq_true]
  | resumeLate q id k =>
    obtain ⟨hfree, hlaunch, hlate⟩ := hwhen
    rw [exec_command (.inr (.inl ⟨rfl, rfl⟩)), qcmd_taken hfree, command_resume hfree hlaunch]
    exact congrArg _ (if_neg hlate)
  | cancel q id k =>
    obtain ⟨hfree, hlaunch⟩ := hwhen
    rw [exec_command (.inr (.inr ⟨rfl, rfl⟩)), qcmd_taken hfree, command_cancel hfree hlaunch]
    simp only [cancelLaunch, Bool.and_eq_true, Option.isNone_iff_eq_none, and_assoc]
    rfl
  | invalidOp q op id =>
    obtain ⟨hfree, hop⟩ := hwhen
    have hother : (1 ≤ op % 256 && op % 256 ≤ 3) = false := Bool.eq_false_iff.2 (by simpa using hop)
    rw [Laws.exec_qcmdInvalidOp, execQcmdInvalidOp, hother, qcmd_taken hfree, command_invalid hfree hop]
    rfl
  | unclaimed a => exact Laws.exec_unclaimedRequest a s

end Sys2Proof.Proofs

/-! Host accesses to device memory, and coherence with host and pooled memory (R394 to R396, R398 to R400): what each request answers. -/

namespace Sys2Proof.Proofs

open Sys2Proof Sys2Proof.Machine Sys2Proof.Rules

section HostAccesses

variable {s t : State} {q : Request} {o d m e a l : Nat} {bs : List Byte}

/-! ### A request arrives (R394, R399, R400) -/

theorem hostLine_iff : (hdmLine o && hostCxl s) = true ↔ hostLine s o := by
  constructor
  · intro h
    obtain ⟨hline, hcxl⟩ := Bool.and_eq_true_iff.1 h
    obtain ⟨haligned, hsmall⟩ := Bool.and_eq_true_iff.1 hline
    exact ⟨of_decide_eq_true haligned, of_decide_eq_true hsmall, hcxl⟩
  · rintro ⟨haligned, hsmall, hcxl⟩
    exact Bool.and_eq_true_iff.2 ⟨Bool.and_eq_true_iff.2 ⟨decide_eq_true haligned, decide_eq_true hsmall⟩, hcxl⟩

theorem hostRequest_now (hline : hostLine s o) (hfree : biasWait s (hdmAddr o) = false) : hostRequest s o q = (hostServe q s).getD s := by
  rw [hostRequest, hostLine_iff.2 hline, hfree]
  rfl

theorem hostRequest_later (hline : hostLine s o) (hwait : biasWait s (hdmAddr o) = true) : hostRequest s o q = hostLater s o q := by
  rw [hostRequest, hostLine_iff.2 hline, hwait]
  rfl

theorem hostServe_read (hfree : noGa s (hdmAddr o / 128)) : hostServe (.read o) s = some (hostRead s o) :=
  if_neg (Bool.eq_false_iff.1 hfree)

theorem hostServe_write (hfree : noGa s (hdmAddr o / 128)) : hostServe (.write o d m) s = some ((hostWrite s o d m).send (.hostCmp o)) :=
  if_neg (Bool.eq_false_iff.1 hfree)

theorem hostServe_held (hga : ¬ noGa s (hdmAddr o / 128)) (hq : q = .read o ∨ ∃ d m, q = .write o d m) : hostServe q s = none := by
  have hpending : s.mem.gaAny (hdmAddr o / 128) = true := Bool.not_eq_false _ ▸ hga
  rcases hq with rfl | ⟨d, m, rfl⟩
  · exact if_pos hpending
  · exact if_pos hpending

/-! ### Reads and writes at the home (R253, R394, R395) -/

theorem hostRead_noKey (hempty : keyEmpty (recalled s o) (recalled s o).host.hdmKey = true) :
    hostRead s o = hostPoison (recalled s o) o := if_pos hempty

theorem hostRead_fails (hkey : keyEmpty (recalled s o) (recalled s o).host.hdmKey = false)
    (hread : (recalled s o).readBytes none (recalledKey s o) (hdmAddr o) 64 = .error e) : hostRead s o = hostPoison (recalled s o) o := by
  refine (if_neg (Bool.eq_false_iff.1 hkey)).trans ?_
  rw [recalledKey, recalled] at hread
  rw [hread]
  rfl

theorem hostRead_done (hkey : keyEmpty (recalled s o) (recalled s o).host.hdmKey = false)
    (hread : (recalled s o).readBytes none (recalledKey s o) (hdmAddr o) 64 = .ok (bs, t)) :
    hostRead s o = keepHostCopy (t.send (.hostData o (ofBytes bs) false)) (hdmAddr o / 64) (ofBytes bs) := by
  refine (if_neg (Bool.eq_false_iff.1 hkey)).trans ?_
  rw [recalledKey, recalled] at hread
  rw [hread]

theorem hostWrite_eq (s : State) (o d m : Nat) : hostWrite s o d m = hostWritten s o d m := rfl

theorem execHostWriteBack_held (hline : hostLine s o) (hbias : hostBias s (hdmAddr o) = true)
    (hheld : Sparse.has s.host.copies (hdmAddr o / 64) = true) (hfree : noGa s (hdmAddr o / 128)) :
    execHostWriteBack o d s = .next ((hostWritten s o d (2 ^ 64 - 1)).modHost (fun h =>
      { h with copies := Sparse.insert h.copies (hdmAddr o / 64) { data := d % 2 ^ 512, dirty := false } })) := by
  have hfree' : s.mem.gaAny (hdmAddr o / 128) = false := hfree
  rw [execHostWriteBack]
  simp only [hostLine_iff.2 hline, hbias, hheld, hfree', Bool.and_self, Bool.not_true, Bool.or_self, Bool.false_eq_true, if_false,
    hostWrite_eq]

/-! ### Pooled and host memory (R396) -/

theorem execBisnpReceived_inWindow {p : Nat} {after : Option Nat} (hp : p = 1 ∨ p = 2) (ho : o < 2 ^ 48)
    (hlow : (Sparse.get (0, 0) s.host.windows p).1 * 2 ^ 28 ≤ o) (hhigh : o < (Sparse.get (0, 0) s.host.windows p).2 * 2 ^ 28)
    (hfree : noGa s ((3 * 2 ^ 48 + o) / 128)) :
    execBisnpReceived p o after s = .next ((giveUp s ((3 * 2 ^ 48 + o) / 128) after).send (.biRspI (3 * 2 ^ 48 + o))) := by
  have hport : memoryPort p = true := by simpa [memoryPort] using hp
  refine if_neg ?_
  rw [hport, decide_eq_true ho, decide_eq_true hlow, decide_eq_true hhigh]
  exact Bool.eq_false_iff.1 hfree

theorem execHostSnoop_read {inv : Bool} {after : Option Nat} (hspace : spaceOf a = 4) (hcxl : hostCxl s = true) (hfree : noGa s (a / 128))
    (hread : (recallLine s (a / 128)).readBytes none 0 (128 * (a / 128)) 128 = .ok (bs, t)) :
    execHostSnoop a inv after s = .next
      (let t1 := t.send (.snoopAnswer (128 * (a / 128)) (ofBytes bs))
       if inv then holdLine (giveUp t1 (a / 128) after) (a / 128) 0
       else holdLine (t1.modMem (fun m => { m with dirtyHome := m.dirtyHome.filter (fun l => l != a / 128) })) (a / 128)
        (min 1 (Sparse.get 0 s.host.lines (a / 128)))) := by
  have hserved : (decide (spaceOf a ≠ 4) || !hostCxl s || s.mem.gaAny (a / 128)) = false := by
    rw [hspace, hcxl, show s.mem.gaAny (a / 128) = false from hfree]
    rfl
  rw [execHostSnoop, hserved]
  simp only [Bool.false_eq_true, if_false, hread]

end HostAccesses

/-- Settles O53: each event answers what the equation of its case says. -/
theorem hostEvents : Obligations.HostEvents := by
  intro i r h s hwhen
  cases h with
  | read o bs t =>
    obtain ⟨⟨hline, hfree, hga⟩, hkey, hread⟩ := hwhen
    rw [Laws.exec_hostHdmRead, execHostHdmRead, hostRequest_now hline hfree, hostServe_read hga, Option.getD_some,
      hostRead_done hkey hread]
  | readNoKey o =>
    obtain ⟨⟨hline, hfree, hga⟩, hempty⟩ := hwhen
    rw [Laws.exec_hostHdmRead, execHostHdmRead, hostRequest_now hline hfree, hostServe_read hga, Option.getD_some,
      hostRead_noKey hempty]
  | readFails o e =>
    obtain ⟨⟨hline, hfree, hga⟩, hkey, hread⟩ := hwhen
    rw [Laws.exec_hostHdmRead, execHostHdmRead, hostRequest_now hline hfree, hostServe_read hga, Option.getD_some,
      hostRead_fails hkey hread]
  | readLater o =>
    obtain ⟨hline, hwait⟩ := hwhen
    rw [Laws.exec_hostHdmRead, execHostHdmRead, hostRequest_later hline hwait]
  | write o d m =>
    obtain ⟨hline, hfree, hga⟩ := hwhen
    rw [Laws.exec_hostHdmWrite, execHostHdmWrite, hostRequest_now hline hfree, hostServe_write hga, Option.getD_some, hostWrite_eq]
  | writeLater o d m =>
    obtain ⟨hline, hwait⟩ := hwhen
    rw [Laws.exec_hostHdmWrite, execHostHdmWrite, hostRequest_later hline hwait]
  | gaHolds o i h =>
    obtain ⟨hline, hfree, hga⟩ := hwhen
    rcases h with rfl | ⟨d, m, rfl⟩
    · rw [Laws.exec_hostHdmRead, execHostHdmRead, hostRequest_now hline hfree, hostServe_held hga (.inl rfl), Option.getD_none]
    · rw [Laws.exec_hostHdmWrite, execHostHdmWrite, hostRequest_now hline hfree, hostServe_held hga (.inr ⟨d, m, rfl⟩), Option.getD_none]
  | writeBack o d =>
    obtain ⟨hline, hbias, hheld, hga⟩ := hwhen
    rw [Laws.exec_hostWriteBack, execHostWriteBack_held hline hbias hheld hga]
  | bisnp p o after =>
    obtain ⟨hp, ho, hlow, hhigh, hga⟩ := hwhen
    rw [Laws.exec_bisnpReceived, execBisnpReceived_inWindow hp ho hlow hhigh hga]
  | snoop a inv after bs t =>
    obtain ⟨hspace, hcxl, hga, hread⟩ := hwhen
    rw [Laws.exec_hostSnoop, execHostSnoop_read hspace hcxl hga hread]

end Sys2Proof.Proofs

/-! The debug mailbox (R323, R324, R391): every command but HALT and STEP is asked of a team that stands, and so are refused alike. -/

namespace Sys2Proof.Proofs

open Sys2Proof Sys2Proof.Machine Sys2Proof.Rules

section Debugger

variable {s : State} {i : Instr} {code t grp n w : Nat} {go : Nat → State} {act : Nat → Nat → State}

/-! ### A command asked of a team that stands (R323) -/

theorem mailCode_of_asked (h : asked code s) : mailCode s = code := by
  obtain ⟨hgo, hcode⟩ := h
  exact (if_pos hgo).trans ((bits_eq_div_mod ..).trans hcode)

theorem mailEnd_eq (s : State) (status : Nat) (pending poison : Bool) : mailEnd s status pending poison = answers s status pending poison :=
  rfl

section Asked

variable (hasked : asked code s)
include hasked

theorem onStopped_stopped (h : stoppedTeam s t) : onStopped code s go = .next (go t) := by
  obtain ⟨hteam, houtside, hstands⟩ := h
  simp [onStopped, mailCode_of_asked hasked, hteam, houtside, hstands]

theorem onStopped_noTeam (hnone : mailTeam s = none) : onStopped code s go = .next (answers s 3 false false) := by
  simp [onStopped, mailCode_of_asked hasked, hnone, dbgNoName, mailEnd_eq]

theorem onStopped_handler (hteam : mailTeam s = some t) (hin : teamInHandler s t = true) :
    onStopped code s go = .next (answers s 4 false false) := by
  simp [onStopped, mailCode_of_asked hasked, hteam, hin, dbgHandler, mailEnd_eq]

theorem onStopped_running (hteam : mailTeam s = some t) (houtside : teamInHandler s t = false) (hruns : inDebugStop s t = false) :
    onStopped code s go = .next (answers s 2 false false) := by
  simp [onStopped, mailCode_of_asked hasked, hteam, houtside, hruns, dbgNotStopped, mailEnd_eq]

theorem onRegister_stopped (h : stoppedRegister s t grp n) : onRegister code s act = .next (act grp n) := by
  obtain ⟨hteam, hgroup, hreg⟩ := h
  rw [onRegister, onStopped_stopped hasked hteam]
  simp only [hgroup, hreg]

end Asked

/-! ### The commands (R323, R324) -/

theorem execReadRegister_vector (hasked : asked 3 s) (h : stoppedRegister s t grp n) (hn : n < 1536) : execReadRegister s =
    .next (answers (s.setValues (fun k => (s.group grp).readV n k)) 0 (regPending s grp n) (Sparse.get 0 (s.group grp).marks n != 0)) := by
  rw [execReadRegister, onRegister_stopped hasked h]
  simp only [hn, if_true]
  rfl

theorem execReadRegister_scalar (hasked : asked 3 s) (h : stoppedRegister s t grp n) (hlow : 1536 ≤ n) (hn : n < 1600) :
    execReadRegister s = .next (answers (s.setMail 0x80 ((s.group grp).readS (n - 1536))) 0 (regPending s grp n)
      (Sparse.get 0 (s.group grp).marks n != 0)) := by
  rw [execReadRegister, onRegister_stopped hasked h]
  simp only [Nat.not_lt.2 hlow, hn, if_false, if_true]
  rfl

theorem execReadRegister_predicate (hasked : asked 3 s) (h : stoppedRegister s t grp n) (hlow : 1600 ≤ n) :
    execReadRegister s = .next (answers (s.setMail 0x80 ((s.group grp).pred (n - 1664)).toNat) 0 (regPending s grp n)
      (Sparse.get 0 (s.group grp).marks n != 0)) := by
  rw [execReadRegister, onRegister_stopped hasked h]
  simp only [Nat.not_lt.2 hlow, Nat.not_lt.2 (show 1536 ≤ n by omega), if_false]
  rfl

theorem execReadSpecial_named (hasked : asked 6 s) (h : stoppedTeam s t) (hgroup : mailGroup s t = some grp)
    (hn : n = s.mail 0x10 % 2 ^ 57) (hw : sregWidth n = some w) : execReadSpecial s =
    .next (answers (s.setMail 0x80 (Machine.special s grp n (low (s.group grp).live) % 2 ^ w)) 0 false false) := by
  have hname : bits (s.mail 0x10) 0 57 = n := by rw [bits_eq_div_mod, Nat.pow_zero, Nat.div_one, hn]
  rw [execReadSpecial, onStopped_stopped hasked h]
  simp only [hgroup, hname, hw]
  rfl

theorem execSetBreakpoint_stopped (hasked : asked 8 s) (h : stoppedTeam s t) : execSetBreakpoint s =
    .next (answers (s.modTeam t (fun x => { x with
      breaks := Sparse.set 0 x.breaks (breakWord s / 2 ^ 60 % 4)
        (if (breakWord s).testBit 59 then breakWord s % 2 ^ 57 + 1 else 0) })) 0 false false) := by
  rw [execSetBreakpoint, onStopped_stopped hasked h]
  simp only [bits_eq_div_mod, Nat.pow_zero, Nat.div_one]
  rfl

theorem execHalt_noTeam (hasked : asked 1 s) (hnone : mailTeam s = none) : execHalt s = .next (answers s 3 false false) := by
  simp [execHalt, mailCode_of_asked hasked, hnone, dbgNoName, mailEnd_eq]

theorem execHalt_stands (hasked : asked 1 s) (hteam : mailTeam s = some t) (hstands : inDebugStop s t = true) :
    execHalt s = .next (answers s 0 false false) := by
  simp [execHalt, mailCode_of_asked hasked, hteam, hstands, dbgDone, mailEnd_eq]

theorem execHalt_asks (hasked : asked 1 s) (hteam : mailTeam s = some t) (hruns : inDebugStop s t = false)
    (hnew : (s.team t).debug = false) (hfirst : (s.team t).wantDebug = false) : execHalt s = .next (askDebug s t) := by
  simp [execHalt, mailCode_of_asked hasked, hteam, hruns, hnew, hfirst]

theorem execStep_starts (hasked : asked 9 s) (h : stoppedTeam s t) (hfirst : (s.team t).stepping = false) :
    execStep s = .next (continueTeam s t true) := by
  simp only [execStep, mailCode_of_asked hasked, if_true, h.1, hfirst, Bool.false_eq_true, if_false, onStopped_stopped hasked h]

theorem execStep_stepped (hasked : asked 9 s) (hteam : mailTeam s = some t) (hsteps : (s.team t).stepping = true)
    (hstand : (standing s t).all (fun k => (s.group k).mode = .debugStop) = true) :
    execStep s = .next (answers (s.modTeam t (fun x => { x with stepping := false })) 0 false false) := by
  simp only [execStep, mailCode_of_asked hasked, if_true, hteam, hsteps, hstand]
  rfl

theorem isDebug_turns {r : StepRule} (h : IsDebug i r) : Turns i r := by
  intro s hwhen
  cases h with
  | halted t =>
    obtain ⟨hasked, hteam, hstands⟩ := hwhen
    rw [Laws.exec_halt, execHalt_stands hasked hteam hstands]
  | halt t =>
    obtain ⟨hasked, hteam, hruns, hnew, hfirst⟩ := hwhen
    rw [Laws.exec_halt, execHalt_asks hasked hteam hruns hnew hfirst]
  | noTeam =>
    obtain ⟨hasked, hnone⟩ := hwhen
    rw [Laws.exec_halt, execHalt_noTeam hasked hnone]
  | resume t =>
    obtain ⟨hasked, hteam⟩ := hwhen
    rw [Laws.exec_debugResume, execDebugResume, onStopped_stopped hasked hteam]
    rfl
  | readVector t grp n =>
    obtain ⟨hasked, hreg, hn⟩ := hwhen
    rw [Laws.exec_readRegister, execReadRegister_vector hasked hreg hn]
  | readScalar t grp n =>
    obtain ⟨hasked, hreg, hlow, hn⟩ := hwhen
    rw [Laws.exec_readRegister, execReadRegister_scalar hasked hreg hlow hn]
  | readPredicate t grp n =>
    obtain ⟨hasked, hreg, hlow⟩ := hwhen
    rw [Laws.exec_readRegister, execReadRegister_predicate hasked hreg hlow]
  | write t grp n =>
    obtain ⟨hasked, hreg, hlanded⟩ := hwhen
    rw [Laws.exec_writeRegister, execWriteRegister, onRegister_stopped hasked hreg, if_neg (Bool.eq_false_iff.1 hlanded)]
    rfl
  | writeBusy t grp n =>
    obtain ⟨hasked, hreg, hpending⟩ := hwhen
    rw [Laws.exec_writeRegister, execWriteRegister, onRegister_stopped hasked hreg, if_pos hpending]
    rfl
  | force t grp n =>
    obtain ⟨hasked, hreg⟩ := hwhen
    rw [Laws.exec_forceWrite, execForceWrite, onRegister_stopped hasked hreg]
    rfl
  | special t grp n w =>
    obtain ⟨hasked, hteam, hgroup, hn, hw⟩ := hwhen
    rw [Laws.exec_readSpecial, execReadSpecial_named hasked hteam hgroup hn hw]
  | deliver t =>
    obtain ⟨hasked, hteam⟩ := hwhen
    rw [Laws.exec_deliver, execDeliver, onStopped_stopped hasked hteam]
    rfl
  | breakpoint t =>
    obtain ⟨hasked, hteam⟩ := hwhen
    rw [Laws.exec_setBreakpoint, execSetBreakpoint_stopped hasked hteam]
  | step t =>
    obtain ⟨hasked, hteam, hfirst⟩ := hwhen
    rw [Laws.exec_step, execStep_starts hasked hteam hfirst]
  | stepped t =>
    obtain ⟨hasked, hteam, hsteps, hstand⟩ := hwhen
    rw [Laws.exec_step, execStep_stepped hasked hteam hsteps hstand]

/-- The commands that are refused alike: each is asked of a team that stands. -/
theorem exec_onStopped (h : (i, code) ∈ [(Instr.debugResume, 2), (.readRegister, 3), (.writeRegister, 4), (.forceWrite, 5),
    (.readSpecial, 6), (.deliver, 7), (.setBreakpoint, 8)]) : ∃ go, exec i s = onStopped code s go := by
  simp only [List.mem_cons, Prod.mk.injEq, List.not_mem_nil, or_false] at h
  obtain ⟨rfl, rfl⟩ | ⟨rfl, rfl⟩ | ⟨rfl, rfl⟩ | ⟨rfl, rfl⟩ | ⟨rfl, rfl⟩ | ⟨rfl, rfl⟩ | ⟨rfl, rfl⟩ := h
  · exact ⟨_, Laws.exec_debugResume s⟩
  · exact ⟨_, Laws.exec_readRegister s⟩
  · exact ⟨_, Laws.exec_writeRegister s⟩
  · exact ⟨_, Laws.exec_forceWrite s⟩
  · exact ⟨_, Laws.exec_readSpecial s⟩
  · exact ⟨_, Laws.exec_deliver s⟩
  · exact ⟨_, Laws.exec_setBreakpoint s⟩

theorem debugRefused_exec {w : State → Prop} {st : Nat} (h : DebugRefused i code w st) (hasked : asked code s) (hwhen : w s) :
    exec i s = .next (answers s st false false) := by
  cases h with
  | noName h =>
    obtain ⟨go, hexec⟩ := exec_onStopped (s := s) h
    rw [hexec, onStopped_noTeam hasked hwhen]
  | handler t h =>
    obtain ⟨go, hexec⟩ := exec_onStopped (s := s) h
    obtain ⟨hteam, hin⟩ := hwhen
    rw [hexec, onStopped_handler hasked hteam hin]
  | running t h =>
    obtain ⟨go, hexec⟩ := exec_onStopped (s := s) h
    obtain ⟨hteam, houtside, hruns⟩ := hwhen
    rw [hexec, onStopped_running hasked hteam houtside hruns]

end Debugger

/-- Settles O54: the commands that are done, and those that are refused. -/
theorem debugCommands : Obligations.DebugCommands :=
  ⟨fun _ _ h => isDebug_turns h, fun _ _ _ _ h _ hasked hwhen => debugRefused_exec h hasked hwhen⟩

end Sys2Proof.Proofs

/-! Page walks, words fetched ahead, stores forwarded and acknowledged, and flips of bias (R228 to R230, R245 to R250, R399, R400): what
each event answers where it is enabled. -/

namespace Sys2Proof.Proofs

open Sys2Proof Sys2Proof.Machine Sys2Proof.Rules

section MemorySystem

variable {s t u v : State} {c a va k e g l w : Nat} {x y : TlbEntry} {seen : List TableWord} {st : Store} {sts : List Store} {f : Flip}

/-! ### Walks and words fetched ahead (R245 to R250) -/

theorem walkAsked_taken (h : walkAsked s c a va k) :
    (!(c < coreCount && a < 4096 && va < 2 ^ 57 && asksWalk s c a va k) || (tlbFind s c a va).isSome ||
      (walkJoined s a va).isSome || walkers ≤ s.xlat.walks.length) = false := by
  obtain ⟨hc, ha, hva, hasks, hcache, hjoin, hfree⟩ := h
  simp [coreCount, walkers, hc, ha, hva, hasks, hcache, hjoin, Nat.not_le.2 hfree, -Nat.reducePow]

theorem execPageWalk_done (h : walkAsked s c a va k) (hwalk : walk s c a va = .ok (x, seen))
    (huse : useLeaf (tookLost s) x k (demandFlags k) = .ok (y, t)) : execPageWalk c a va k s =
      .next ((keepWalk t x seen).modXlat (fun m => { m with walks := m.walks ++ [{ asid := a, page := va / 65536, leaf := y }] })) := by
  rw [execPageWalk, walkAsked_taken h]
  simp only [Bool.false_eq_true, if_false, hwalk, huse]

theorem execPageWalk_fails (h : walkAsked s c a va k) (hwalk : walk s c a va = .error e) : execPageWalk c a va k s = .next s := by
  rw [execPageWalk, walkAsked_taken h]
  simp only [Bool.false_eq_true, if_false, hwalk]

theorem execPageWalk_forbidden (h : walkAsked s c a va k) (hwalk : walk s c a va = .ok (x, seen))
    (huse : useLeaf (tookLost s) x k (demandFlags k) = .error e) : execPageWalk c a va k s = .next s := by
  rw [execPageWalk, walkAsked_taken h]
  simp only [Bool.false_eq_true, if_false, hwalk, huse]

theorem execPageWalk_unasked (h : asksWalk s c a va k = false) : execPageWalk c a va k s = .next s := if_pos (by simp [h])

theorem execRunAheadFetch_kept {n : Nat} (hteam : (teamsOn s c).find? (fun t => (s.launch (launchOfTeam t)).asid = a) = some n)
    (halign : va % 4 = 0) (hva : va < 2 ^ 57) (hleaf : aheadLeaf s c a va = some (x, u))
    (hnew : codeHeld u c a va (x.phys va) (u.leafKey x) = none) (hcode : codeAt u c (launchOfTeam n) x va = .ok (w, v)) :
    execRunAheadFetch c a va s = .next (keepCode v c a va x w) := by
  simp [execRunAheadFetch, hteam, halign, Nat.not_le.2 hva, hleaf, hnew, hcode, -Nat.reducePow]

/-! ### Stores forwarded and acknowledged (R228 to R230) -/

theorem invals_any_eq_false (h : ∀ v ∈ s.mem.invals, v.agent ≠ g) : (s.mem.invals.any fun v => v.agent = g) = false := by
  simpa using h

theorem execEfStoreForward_only (hlanded : ∀ v ∈ s.mem.invals, v.agent ≠ g) (hst : forwardable s g = [st]) :
    execEfStoreForward g s = .next (Machine.forward s st) := by
  rw [execEfStoreForward, invals_any_eq_false hlanded, hst]
  rfl

theorem execEfStoreForward_chosen (hlanded : ∀ v ∈ s.mem.invals, v.agent ≠ g) (hst : forwardable s g = st :: sts) (hmore : sts ≠ []) :
    execEfStoreForward g s = .next (Machine.forward s.took (nth st (st :: sts) (s.freeChoice (sts.length + 1)))) := by
  rw [execEfStoreForward, invals_any_eq_false hlanded, hst]
  cases sts with
  | nil => exact absurd rfl hmore
  | cons st' sts => rfl

/-! ### Flips of bias (R399, R400) -/

theorem execBiasFlipHost_quiet (hflip : flipOf s g true = some f) (hquiet : flipQuiet s g) :
    execBiasFlipHost g s = .next (endFlip (s.modMem (fun m => { m with
      copies := m.copies.filter (fun p => !lineInGranule g (p.1 / 16))
      invals := m.invals.filter (fun v => !lineInGranule g v.line) })) g true) := by
  obtain ⟨hfwd, hga⟩ := hquiet
  have hnone : (s.mem.fwd.any (fun st => lineInGranule g (st.addr / 128)) || s.mem.gaPend.any (fun st => lineInGranule g (st.addr / 128)))
      = false := by
    simpa using ⟨hfwd, hga⟩
  simp [execBiasFlipHost, hflip, hnone]

theorem execBiasFlipDevice_already (hflip : flipOf s g false = some f)
    (hmet : hostCxl s = false ∨ Sparse.get false s.host.bias g = false) : execBiasFlipDevice g s = .next (endFlip s g false) := by
  have hmet' : (!hostCxl s || !Sparse.get false s.host.bias g) = true := by simpa using hmet
  simp [execBiasFlipDevice, hflip, hmet']

section HostBias

variable (hflip : flipOf s g false = some f) (hcxl : hostCxl s = true) (hbias : Sparse.get false s.host.bias g = true)
include hflip hcxl hbias

theorem execBiasFlipDevice_snoops (hnew : f.sent = false) : execBiasFlipDevice g s =
    .next ((sendAll s ((List.range 64).map (fun l => .biSnpInv (Config.hdmDecode s.host.decoder (granuleHdm g + 64 * l))))).modHost (fun h =>
      { h with flips := h.flips.map (fun x => if x = f then { f with sent := true } else x) })) := by
  have hsent : sendAll s ((List.range 64).map (fun l => .biSnpInv (Config.hdmDecode s.host.decoder (granuleHdm g + 64 * l)))) =
      (rangeFrom 0 64).foldl (fun s l => s.send (.biSnpInv (Config.hdmDecode s.host.decoder (granuleHdm g + 64 * l)))) s :=
    List.foldl_map
  simp [execBiasFlipDevice, hflip, hcxl, hbias, hnew, hsent]

theorem execBiasFlipDevice_done (hsent : f.sent = true) (hall : f.replies = 2 ^ 64 - 1) :
    execBiasFlipDevice g s = .next (endFlip s g false) := by
  simp [execBiasFlipDevice, hflip, hcxl, hbias, hsent, hall]

end HostBias

theorem execBirspiReceived_first {d : Option Nat} (hflip : flipOf s g false = some f) (hsent : f.sent = true) (hl : l < 64)
    (hnew : f.replies.testBit l = false) : execBirspiReceived g l d s =
      .next ((dropHostCopy (match writtenBack s (granuleLine g l / 64) d with
        | some x => hostPut s (granuleLine g l) x (2 ^ 64 - 1)
        | none => s) (granuleLine g l / 64)).modHost (fun h => { h with
          flips := h.flips.map (fun x => if x = f then { f with replies := setBits f.replies l 1 1 } else x) })) := by
  have hgoes : (f.sent && decide (l < 64) && !bitOf f.replies l) = true := by simp [hsent, hl, bitOf, hnew]
  simp only [execBirspiReceived, hflip, hgoes, if_true]
  rfl

end MemorySystem

/-- Settles O57: each event answers what the equation of its case says. -/
theorem memoryEvents : Obligations.MemoryEvents := by
  intro i r h s hwhen
  cases h with
  | walk c a va k x y seen t =>
    obtain ⟨hasked, hwalk, huse⟩ := hwhen
    rw [Laws.exec_pageWalk, execPageWalk_done hasked hwalk huse]
  | walkFails c a va k e =>
    obtain ⟨hasked, hwalk⟩ := hwhen
    rw [Laws.exec_pageWalk, execPageWalk_fails hasked hwalk]
  | walkForbids c a va k e x seen =>
    obtain ⟨hasked, hwalk, huse⟩ := hwhen
    rw [Laws.exec_pageWalk, execPageWalk_forbidden hasked hwalk huse]
  | walkUnasked c a va k => rw [Laws.exec_pageWalk, execPageWalk_unasked hwhen]
  | ahead c a va t w x u v =>
    obtain ⟨hteam, halign, hva, hleaf, hnew, hcode⟩ := hwhen
    rw [Laws.exec_runAheadFetch, execRunAheadFetch_kept hteam halign hva hleaf hnew hcode]
  | forward g st =>
    obtain ⟨hlanded, hst⟩ := hwhen
    rw [Laws.exec_efStoreForward, execEfStoreForward_only hlanded hst]
  | forwardOne g st l =>
    obtain ⟨hlanded, hst, hmore⟩ := hwhen
    rw [Laws.exec_efStoreForward, execEfStoreForward_chosen hlanded hst hmore]
  | acknowledge id k st =>
    rw [Laws.exec_gaStoreAcknowledge, execGaStoreAcknowledge, hwhen]
  | toHost g f =>
    obtain ⟨hflip, hquiet⟩ := hwhen
    rw [Laws.exec_biasFlipHost, execBiasFlipHost_quiet hflip hquiet]
  | deviceAlready g f =>
    obtain ⟨hflip, hmet⟩ := hwhen
    rw [Laws.exec_biasFlipDevice, execBiasFlipDevice_already hflip hmet]
  | deviceSnoops g f =>
    obtain ⟨hflip, hcxl, hbias, hnew⟩ := hwhen
    rw [Laws.exec_biasFlipDevice, execBiasFlipDevice_snoops hflip hcxl hbias hnew]
  | deviceDone g f =>
    obtain ⟨hflip, hcxl, hbias, hsent, hall⟩ := hwhen
    rw [Laws.exec_biasFlipDevice, execBiasFlipDevice_done hflip hcxl hbias hsent hall]
  | reply g l f d =>
    obtain ⟨hflip, hsent, hl, hnew⟩ := hwhen
    exact (Laws.exec_birspiReceived g l d s).trans (execBirspiReceived_first hflip hsent hl hnew)

end Sys2Proof.Proofs

/-! The matrix engine, near memory and barges as units (R284, R285, R288, R295 to R306, R345 to R354): what each event answers where it is
enabled. -/

namespace Sys2Proof.Proofs

open Sys2Proof Sys2Proof.Machine Sys2Proof.Rules

section Units

variable {s t u : State} {c n e a b id : Nat} {q : MxOp} {fail : Option (Nat × Failure)} {ts : List Nat} {bs : List Byte}

/-! ### The head of an engine's queue (R295 to R301) -/

theorem queue_of_headOp (h : headOp s c q) : ∃ qs, (s.engine c).queue = q :: qs := List.head?_eq_some_iff.1 h

theorem mayStart_notHeld (h : mayStart s c q) :
    (q.opened || (preempting s q.team && !q.handler) || (q.op != 0 && decide ((s.op q.op).birth = s.cycle c))) = false := by
  obtain ⟨hnew, hfree, hlater⟩ := h
  rcases hfree with hfree | hfree <;> rcases hlater with hlater | hlater <;> simp [hnew, hfree, hlater]

theorem awaitsNothing_all (h : awaitsNothing s q) : (q.waits.all (fun p => p.2 = 0) && observesEarlier s q) = true := by
  obtain ⟨hwaits, hearlier⟩ := h
  simpa [hearlier] using hwaits

theorem execMatrixOperationStart_opens (hhead : headOp s c q) (hmay : mayStart s c q)
    (h : q.started = true ∨ (awaitsNothing s q ∧ poisonBy q.pre (s.group q.grp) q.handler q.mask = none)) :
    execMatrixOperationStart c s = .next (openHead s c q) := by
  obtain ⟨qs, hqueue⟩ := queue_of_headOp hhead
  simp only [execMatrixOperationStart, hqueue, mayStart_notHeld hmay, Bool.false_eq_true, if_false]
  rcases h with hstarted | ⟨hwaits, hclean⟩
  · rw [if_pos hstarted]
  · simp only [awaitsNothing_all hwaits, hclean, Bool.not_true, Bool.false_eq_true, if_false, ite_self]

theorem execMatrixOperationStart_poisoned (hhead : headOp s c q) (hmay : mayStart s c q) (hnew : q.started = false)
    (hwaits : awaitsNothing s q) (hpoison : poisonBy q.pre (s.group q.grp) q.handler q.mask = some e) :
    execMatrixOperationStart c s = .next (poisonHead s c e) := by
  obtain ⟨qs, hqueue⟩ := queue_of_headOp hhead
  simp only [execMatrixOperationStart, hqueue, mayStart_notHeld hmay, hnew, awaitsNothing_all hwaits, hpoison, Bool.not_true,
    Bool.false_eq_true, if_false]

theorem execMatrixOperationStart_held (hhead : headOp s c q) (hpre : preempting s q.team = true) (hown : q.handler = false) :
    execMatrixOperationStart c s = .next s := by
  obtain ⟨qs, hqueue⟩ := queue_of_headOp hhead
  simp [execMatrixOperationStart, hqueue, hpre, hown]

theorem workDone_notOpen (h : workDone s c q) : (!(q.opened && q.started && q.computed)) = false := by
  obtain ⟨-, hopened, hstarted, hcomputed⟩ := h
  simp [hopened, hstarted, hcomputed]

theorem execMatrixOperationRetire_effect (hdone : workDone s c q) (hnew : q.sent = none) (heffect : headEffect s c q = some (t, n, fail)) :
    execMatrixOperationRetire c s = .next (if storesHome t (2048 + c) q.op then
        retireHead t c (sentEnd (t.op q.op) n fail).1 (sentEnd (t.op q.op) n fail).2
      else t.modEngine c (fun e => e.modHead (fun q => { q with sent := some (n, fail) }))) := by
  obtain ⟨qs, hqueue⟩ := queue_of_headOp hdone.1
  simp only [execMatrixOperationRetire, hqueue, workDone_notOpen hdone, hnew, heffect, Bool.false_eq_true, if_false]
  split <;> rfl

theorem execMatrixOperationRetire_stored (hdone : workDone s c q) (hsent : q.sent = some (n, fail))
    (hhome : storesHome s (2048 + c) q.op = true) :
    execMatrixOperationRetire c s = .next (retireHead s c (sentEnd (s.op q.op) n fail).1 (sentEnd (s.op q.op) n fail).2) := by
  obtain ⟨qs, hqueue⟩ := queue_of_headOp hdone.1
  simp only [execMatrixOperationRetire, hqueue, workDone_notOpen hdone, hsent, hhome, Bool.not_true, Bool.false_eq_true, if_false]

/-! ### Cluster tiles (R296) -/

theorem execMmacRendezvous_there (h : tileThere s c n ts) : execMmacRendezvous c n s = .next (resolveTile s ts) := by
  have hfind : (tilesOf s c n).find? (tileReady s) = some ts := h
  simp only [execMmacRendezvous, hfind]

/-- Every team of the tile has announced exactly where nobody is missing among the announcements. -/
theorem length_filterMap_eq_iff {α β : Type} (f : α → Option β) (l : List α) :
    (l.filterMap f).length = l.length ↔ ∀ x ∈ l, ∃ y, f x = some y := by
  induction l with
  | nil => simp
  | cons x l ih =>
    have hle : (l.filterMap f).length ≤ l.length := List.length_filterMap_le f l
    cases hx : f x with
    | none =>
      simp only [List.filterMap_cons_none hx, List.length_cons, List.mem_cons, forall_eq_or_imp, hx]
      constructor
      · intro h; omega
      · rintro ⟨⟨y, hy⟩, -⟩; cases hy
    | some y => simpa [List.filterMap_cons_some hx, hx] using ih

theorem resolveTile_poisoned (h : (ts.filterMap (announcedBy s)).length ≠ ts.length ∨ ∃ q ∈ ts.filterMap (announcedBy s),
    q.terms ≠ (((ts.filterMap (announcedBy s)).head?.map MxOp.terms).getD [])) : resolveTile s ts = poisonTile s ts Cause.illegalOperand :=
  if_pos (by simpa only [Bool.or_eq_true, bne_iff_ne, List.any_eq_true] using h)

theorem resolveTile_memberGone {y : Nat} (hy : y ∈ ts) (hgone : announcedBy s y = none) :
    resolveTile s ts = poisonTile s ts Cause.illegalOperand := by
  refine resolveTile_poisoned (.inl fun hlength => ?_)
  obtain ⟨q, hq⟩ := (length_filterMap_eq_iff _ _).1 hlength y hy
  exact absurd (hgone.symm.trans hq) (by simp)

theorem resolveTile_disagree {x y : Nat} {r : MxOp} (hx : ts.head? = some x) (hq : announcedBy s x = some q) (hy : y ∈ ts)
    (hr : announcedBy s y = some r) (hdiffer : r.terms ≠ q.terms) : resolveTile s ts = poisonTile s ts Cause.illegalOperand := by
  obtain ⟨rest, rfl⟩ := List.head?_eq_some_iff.1 hx
  refine resolveTile_poisoned (.inr ⟨r, List.mem_filterMap.2 ⟨y, hy, hr⟩, ?_⟩)
  simpa [List.filterMap_cons_some hq] using hdiffer

/-- R296: announcements that agree are judged by their records. -/
theorem resolveTile_agrees (h : tileAgrees s ts) : resolveTile s ts =
    match (ts.filterMap (announcedBy s)).find? (fun q => q.bad != 0) with
    | some q => poisonTile s ts q.bad
    | none => ts.foldl (fun s t => s.modEngine (s.team t).core (fun e => e.modHead (fun q => { q with met := true }))) s := by
  obtain ⟨hall, halike⟩ := h
  have hlength := (length_filterMap_eq_iff (announcedBy s) ts).2 hall
  have hterms : ∀ q ∈ ts.filterMap (announcedBy s), q.terms = (((ts.filterMap (announcedBy s)).head?.map MxOp.terms).getD []) := by
    intro q hq
    cases hhead : (ts.filterMap (announcedBy s)).head? with
    | none => rw [List.head?_eq_none_iff.1 hhead] at hq; cases hq
    | some r =>
      obtain ⟨x, hx, hxq⟩ := List.mem_filterMap.1 hq
      obtain ⟨y, hy, hyr⟩ := List.mem_filterMap.1 (List.mem_of_head? hhead)
      exact halike x hx y hy q r hxq hyr
  refine if_neg ?_
  simp only [Bool.or_eq_true, bne_iff_ne, List.any_eq_true, not_or, not_exists, not_and, not_not]
  exact ⟨hlength, hterms⟩

theorem execMmacMulticastLanded_resolved (h : (tilesOf s c n).find? (fun ts => ts.all (inTile s)) = some ts) :
    execMmacMulticastLanded c n s = .next (landTile s c ts) := by
  simp only [execMmacMulticastLanded, h]

/-! ### Parking of a queue (R302, R306) -/

theorem execMatrixQueuePark_parks {team : Nat} (h : parks (decidePark s c) c team) :
    execMatrixQueuePark c s = .next (queueParked c team (decidePark s c)) := by
  obtain ⟨hholder, hpre, hnone, hhead, hown⟩ := h
  rw [ownQueue] at hown
  have hown' : ((decidePark s c).engine c).queue.filter (fun q => !q.handler) ≠ [] := hown
  simp only [execMatrixQueuePark, hholder, hpre, hnone, hhead, List.isEmpty_eq_false_iff.2 hown', Bool.not_false, Bool.and_self, if_true]
  rfl

theorem execMatrixQueuePark_none {team : Nat} (h : parksNone (decidePark s c) c team) :
    execMatrixQueuePark c s = .next (unpredicted team (decidePark s c)) := by
  obtain ⟨hholder, hpre, hown, hgroups⟩ := h
  rw [ownQueue] at hown
  have hmodes : (liveGroupsOf (decidePark s c) team).all (fun k => ((decidePark s c).group k).mode != .handler) = true := by
    simpa using hgroups
  simp only [execMatrixQueuePark, hholder, hpre, hown, hmodes, List.isEmpty_nil, Bool.not_true, Bool.and_false, Bool.and_self,
    Bool.false_eq_true, if_false, if_true]
  rfl

/-! ### Faults and parking of barges (R284, R285) -/

theorem takeFault_run {f : BargeFault} (hflight : ((landCopies s b).barge b).flight = []) (hpending : ((landCopies s b).barge b).pending = some f)
    (hhalt : ((landCopies s b).barge b).halt = false) :
    takeFault s b = runFaulted b { f with ndone := ((landCopies s b).barge b).first } (landCopies s b) := by
  simp only [takeFault, hflight, hpending, settleFault, hhalt, Bool.not_false, if_true]
  rfl

theorem takeFault_copy {x : Flight} {xs : List Flight} {f : BargeFault} (hflight : ((landCopies s b).barge b).flight = x :: xs)
    (hfault : x.fault = some f) (hhome : storesHome (landCopies s b) (bargeAgent b) x.seq = true)
    (hhalt : ((landCopies s b).barge b).halt = false) :
    takeFault s b = runFaulted b f ((landCopies s b).modBarge b (fun y => { y with
      pc := x.pc, a := x.a, loops := x.loops, word := x.word
      since := (((landCopies s b).barge b).since + (f.ndone - x.first) * x.bytes) % 2 ^ 32 })) := by
  simp only [takeFault, hflight, hfault, hhome, settleFault, Laws.barge_modBarge, hhalt, Bool.not_true, Bool.not_false, Bool.false_eq_true,
    if_false, if_true]
  rfl

theorem execBargePark_stands (hsettled : settleBarge s b = t) (hpre : preempting t (teamOfBarge b) = true) (hnew : (t.barge b).parked = false)
    (hbusy : (t.barge b).mode ≠ .idle) (hown : (t.barge b).busy = true → handlerRun t b = false) (hpending : (t.barge b).pending = none)
    (hflight : (t.barge b).flight = []) (hnone : noHeldDest t (teamOfBarge b) = true) : execBargePark b s =
      .next (((t.barge b).ops.foldl forgetOp (leaveSemBarge t b)).modBarge b (fun x => { x with
        parked := true, ops := [], rel := none, nbWait := none })) := by
  have hrun : (!((t.barge b).busy && handlerRun t b)) = true := by
    cases hb : (t.barge b).busy
    · rfl
    · simp [hown hb]
  simp [execBargePark, hsettled, hpre, hnew, hbusy, hrun, hpending, hflight, hnone]

/-! ### Bags (R345, R346, R348) -/

theorem execAccPerform_read (hhead : atHead s n 1 c) (hread : slotRead s n c = .ok bs t) : execAccPerform n s =
    .next (accumulate n c t (.ok (elemsOf (tableFmt (s.slot n).fmt) (rowElems (s.slot n).rowunits (s.slot n).fmt) bs))) := by
  have hcmd : headCmd s n 1 = some c := hhead
  rw [slotRead, rowAddr, teamOfSlot] at hread
  simp only [execAccPerform, hcmd, bits_eq_div_mod, Nat.pow_zero, Nat.div_one, teamOfSlot, hread]
  rfl

theorem execAccPerform_fails (hhead : atHead s n 1 c) (hread : slotRead s n c = .fail e a) :
    execAccPerform n s = .next (accumulate n c s (.error e)) := by
  have hcmd : headCmd s n 1 = some c := hhead
  rw [slotRead, rowAddr, teamOfSlot] at hread
  simp only [execAccPerform, hcmd, bits_eq_div_mod, Nat.pow_zero, Nat.div_one, teamOfSlot, hread]
  rfl

theorem execClosePerform_room (hhead : atHead s n 2 c) (hroom : (s.slot n).done.length < 64) : execClosePerform n s = .next
    ((if (Sparse.get {} (s.slot n).bag (c / 2 ^ 16 % 2 ^ 10)).poisoned then s
      else s.scrWrite (teamOfSlot n) ((s.slot n).bagbase + 4 * rowElems (s.slot n).rowunits (s.slot n).fmt * (c / 2 ^ 16 % 2 ^ 10))
        (bagSums (s.slot n) (c / 2 ^ 16 % 2 ^ 10))).modSlot n (fun y => { y with
      cmds := y.cmds.drop 1
      done := y.done ++ [completionOf (Sparse.get {} (s.slot n).bag (c / 2 ^ 16 % 2 ^ 10)) (c / 2 ^ 16 % 2 ^ 10)]
      bag := Sparse.set {} y.bag (c / 2 ^ 16 % 2 ^ 10) {} })) := by
  have hcmd : headCmd s n 2 = some c := hhead
  have hfits : ¬ doneRoom ≤ (s.slot n).done.length := Nat.not_le.2 hroom
  simp only [execClosePerform, hcmd, bits_eq_div_mod, hfits, if_false]
  rfl

/-! ### `qflush` and `nmv` (R352, R354) -/

theorem execQflushRetire_over (h : flying s id .qflush) (hworking : working s id)
    (hpushed : ∀ c ∈ (s.slot (16 * teamOf (s.op id).grp + (s.op id).x)).cmds, (s.op id).z.head?.getD 0 < c.2) :
    execQflushRetire id s = .next (finishOp s id 0 none) := by
  obtain ⟨-, hkind⟩ := h
  obtain ⟨hthere, hfree, hnew⟩ := hworking
  refine if_pos ?_
  simpa [hthere, hkind, hfree, hnew] using hpushed

section Nmv

variable (h : flying s id .nmv) (hworking : working s id)
  (holder : ∀ p ∈ s.ops, p.1 < id → p.2.grp = (s.op id).grp → p.2.isLevel = true → p.2.left = [])
include h hworking holder

/-- R353: an `nmv` runs once its group's earlier scratchpad accesses are performed. -/
theorem nmv_runs : (!(s.hasOp id && (s.op id).kind = .nmv && !(s.op id).held && (s.op id).result.isNone) ||
    s.ops.any (fun (p : Nat × Op) => p.1 < id && p.2.grp = (s.op id).grp && p.2.isLevel && !p.2.left.isEmpty)) = false := by
  obtain ⟨-, hkind⟩ := h
  obtain ⟨hthere, hfree, hnew⟩ := hworking
  have hnone : s.ops.any (fun (p : Nat × Op) => p.1 < id && p.2.grp = (s.op id).grp && p.2.isLevel && !p.2.left.isEmpty) = false := by
    simp only [List.any_eq_false, Bool.and_eq_true, decide_eq_true_eq, Bool.not_eq_true', List.isEmpty_eq_false_iff]
    rintro p hp ⟨⟨⟨hlt, hgrp⟩, hlevel⟩, hleft⟩
    exact hleft (holder p hp hlt hgrp hlevel)
  rw [hnone]
  simp [hthere, hkind, hfree, hnew]

theorem execNmvRun_badRecord (hbad : (nmvRecord s id).bad = true) :
    execNmvRun id s = .next (finishOp s id 0 (some { cause := Cause.illegalOperand, valid := false })) := by
  have hbad' : (NmvRec.ofWords (fun k => ofBytes (s.scrRead (teamOf (s.op id).grp) ((s.op id).x + 8 * k) 8))
      (nmvFmt (s.op id).form.ty.toNat).bytes).bad = true := hbad
  simp only [execNmvRun, nmv_runs h hworking holder, hbad', Bool.false_eq_true, if_false, if_true]

theorem execNmvRun_done {ys : List Nat} {stack : Nat} (hgood : (nmvRecord s id).bad = false)
    (hx : (nmvRecord s id).xoff + 4 * (nmvRecord s id).cols ≤ (opLaunch s id).scratch * 256)
    (hy : (nmvRecord s id).yoff + 4 * (nmvRecord s id).rows ≤ (opLaunch s id).scratch * 256)
    (hstack : tableStack s (s.op id).core (launchOfGrp (s.op id).grp) (nmvRecord s id).base = .ok (stack, t))
    (hrows : nmvRows (opLaunch s id).asid (launchOfGrp (s.op id).grp) stack (nmvRecord s id) (nmvFmt (s.op id).form.ty.toNat)
      (elemsOf .f32 (nmvRecord s id).cols (s.scrRead (teamOf (s.op id).grp) (nmvRecord s id).xoff (4 * (nmvRecord s id).cols)))
      (nmvRecord s id).rows 0 t = .ok ys u) : execNmvRun id s =
    .next (finishOp (u.scrWrite (teamOf (s.op id).grp) (nmvRecord s id).yoff (ys.flatMap (fun y => toBytes y 4))) id
      (4 * (nmvRecord s id).rows) none) := by
  have hrecord : NmvRec.ofWords (fun k => ofBytes (s.scrRead (teamOf (s.op id).grp) ((s.op id).x + 8 * k) 8))
      (nmvFmt (s.op id).form.ty.toNat).bytes = nmvRecord s id := rfl
  have hlaunch : launchOfTeam (teamOf (s.op id).grp) = launchOfGrp (s.op id).grp := rfl
  have hfits : (decide ((opLaunch s id).scratch * 256 < (nmvRecord s id).xoff + 4 * (nmvRecord s id).cols) ||
      decide ((opLaunch s id).scratch * 256 < (nmvRecord s id).yoff + 4 * (nmvRecord s id).rows)) = false := by
    simp [hx, hy]
  simp only [execNmvRun, nmv_runs h hworking holder, hrecord, hgood, hlaunch, hfits, hstack, hrows, Bool.false_eq_true, if_false]

end Nmv

theorem isUnitEvent_turns {i : Instr} {r : StepRule} (h : IsUnitEvent i r) : Turns i r := by
  intro s hwhen
  cases h with
  | window c => exact Laws.exec_sluiceWindow c s
  | start c q =>
    obtain ⟨hhead, hmay, hstart⟩ := hwhen
    rw [Laws.exec_matrixOperationStart, execMatrixOperationStart_opens hhead hmay hstart]
  | startPoisoned c e q =>
    obtain ⟨hhead, hmay, hnew, hwaits, hpoison⟩ := hwhen
    rw [Laws.exec_matrixOperationStart, execMatrixOperationStart_poisoned hhead hmay hnew hwaits hpoison]
  | startHeld c q =>
    obtain ⟨hhead, hpre, hown⟩ := hwhen
    rw [Laws.exec_matrixOperationStart, execMatrixOperationStart_held hhead hpre hown]
  | retire c n q t f =>
    obtain ⟨hdone, hnew, heffect, hhome⟩ := hwhen
    rw [Laws.exec_matrixOperationRetire, execMatrixOperationRetire_effect hdone hnew heffect, if_pos hhome]
  | stores c n q t f =>
    obtain ⟨hdone, hnew, heffect, haway⟩ := hwhen
    rw [Laws.exec_matrixOperationRetire, execMatrixOperationRetire_effect hdone hnew heffect, if_neg (Bool.eq_false_iff.1 haway)]
  | stored c n q f =>
    obtain ⟨hdone, hsent, hhome⟩ := hwhen
    rw [Laws.exec_matrixOperationRetire, execMatrixOperationRetire_stored hdone hsent hhome]
  | mustAgree c n ts =>
    obtain ⟨hthere, hagrees, hgood⟩ := hwhen
    have hnone : (ts.filterMap (announcedBy s)).find? (fun q => q.bad != 0) = none := by
      rw [List.find?_eq_none]
      intro q hq
      obtain ⟨x, hx, hxq⟩ := List.mem_filterMap.1 hq
      simp [hgood x hx q hxq]
    rw [Laws.exec_mmacRendezvous, execMmacRendezvous_there hthere, resolveTile_agrees hagrees, hnone]
  | disagree c n x ts q =>
    obtain ⟨hthere, hx, hq, y, hy, r, hr, hdiffer⟩ := hwhen
    rw [Laws.exec_mmacRendezvous, execMmacRendezvous_there hthere, resolveTile_disagree hx hq hy hr hdiffer]
  | memberGone c n y ts =>
    obtain ⟨hthere, hy, hgone⟩ := hwhen
    rw [Laws.exec_mmacRendezvous, execMmacRendezvous_there hthere, resolveTile_memberGone hy hgone]
  | badRecord c n ts q =>
    obtain ⟨hthere, hagrees, hbad⟩ := hwhen
    rw [Laws.exec_mmacRendezvous, execMmacRendezvous_there hthere, resolveTile_agrees hagrees, hbad]
  | multicast c n ts =>
    rw [Laws.exec_mmacMulticastLanded, execMmacMulticastLanded_resolved hwhen]
    rfl
  | zeroed c => rw [Laws.exec_tileStoreZeroed, execTileStoreZeroed, if_pos hwhen]
  | park c n => rw [Laws.exec_matrixQueuePark, execMatrixQueuePark_parks hwhen]
  | parkNone c n => rw [Laws.exec_matrixQueuePark, execMatrixQueuePark_none hwhen]
  | fault b f =>
    obtain ⟨hflight, hpending, hhalt⟩ := hwhen
    rw [Laws.exec_bargeFault, execBargeFault, takeFault_run hflight hpending hhalt]
  | copyFault b c cs f =>
    obtain ⟨hflight, hfault, hhome, hhalt⟩ := hwhen
    rw [Laws.exec_bargeFault, execBargeFault, takeFault_copy hflight hfault hhome hhalt]
  | bargePark b t =>
    obtain ⟨hsettled, hpre, hnew, hbusy, hown, hpending, hflight, hnone⟩ := hwhen
    rw [Laws.exec_bargePark, execBargePark_stands hsettled hpre hnew hbusy hown hpending hflight hnone]
  | acc n c bs t =>
    obtain ⟨hhead, hread⟩ := hwhen
    rw [Laws.exec_accPerform, execAccPerform_read hhead hread]
  | accFails n c e a =>
    obtain ⟨hhead, hread⟩ := hwhen
    rw [Laws.exec_accPerform, execAccPerform_fails hhead hread]
  | close n c =>
    obtain ⟨hhead, hroom⟩ := hwhen
    rw [Laws.exec_closePerform, execClosePerform_room hhead hroom]
  | flushed id =>
    obtain ⟨hflying, hworking, hpushed⟩ := hwhen
    rw [Laws.exec_qflushRetire, execQflushRetire_over hflying hworking hpushed]
  | nmv id ys stack t u =>
    obtain ⟨hflying, hworking, holder, hgood, hx, hy, hstack, hrows⟩ := hwhen
    rw [Laws.exec_nmvRun, execNmvRun_done hflying hworking holder hgood hx hy hstack hrows]
  | nmvBad id =>
    obtain ⟨hflying, hworking, holder, hbad⟩ := hwhen
    rw [Laws.exec_nmvRun, execNmvRun_badRecord hflying hworking holder hbad]

end Units

/-- Settles O58: each event answers what the equation of its case says. -/
theorem unitEvents : Obligations.UnitEvents := fun _ _ h => isUnitEvent_turns h

end Sys2Proof.Proofs

/-! The fabric and collectives (R358 to R361, R363, R364, R366, R372 to R377): what each event answers where it is enabled. -/

namespace Sys2Proof.Proofs

open Sys2Proof Sys2Proof.Machine Sys2Proof.Rules

section Fabric

variable {s t u v y z : State} {id n m c a kind g tag : Nat} {far : Option Nat} {d : List FarData} {q : PodRequest} {p : Plan}
  {w : List Nat} {rs : List (Nat × Nat)} {bs st : List Byte}

/-! ### Puts and remote accesses (R363 to R366) -/

theorem remote_inFlight {k : OpKind} (h : remote s id k) :
    (!(s.hasOp id && (s.op id).kind = k && !(s.op id).held && (s.op id).result.isNone)) = false := by
  obtain ⟨⟨hthere, hkind⟩, -, hfree, hnew⟩ := h
  simp [hthere, hkind, hfree, hnew]

theorem putSent_notWaiting (h : putSent s id) :
    ((settledWc s id).core (s.op id).core).wc.any (fun e => decide (id ∈ e.ops) && (!e.draining || e.via.isNone ||
      drainAhead (((settledWc s id).core (s.op id).core).wc.filter (fun x => x = e || !decide (id ∈ x.ops))) e)) = false := by
  rw [List.any_eq_false]
  intro e he
  by_cases hmine : id ∈ e.ops
  · obtain ⟨hdrains, hvia, hfirst⟩ := h e he hmine
    obtain ⟨k, hk⟩ := Option.isSome_iff_exists.1 hvia
    rw [hfirst, hdrains, hk]
    simp
  · simp [hmine]

/-- R366: a put whose entries are answered adds to its counter. -/
theorem execPutRetire_answered (h : remote s id .put) (hfirst : (s.op id).x = 0) (hsent : putSent s id)
    (hcounter : addCounter (noteFar (putAnswered s id) id far) id far = some t) :
    execPutRetire id far s = .next (if (t.op id).x ≠ 0 then t else endRemote t id) := by
  rw [putAnswered] at hcounter
  simp only [execPutRetire, remote_inFlight h, hfirst, putSent_notWaiting hsent, hcounter, Bool.false_eq_true, if_false, bne_self_eq_false,
    bne_iff_ne]
  split <;> rfl

theorem execPutRetire_counted (h : remote s id .put) (hcounts : (s.op id).x ≠ 0) (hquiet : podQuiet (settledWc s id) (s.op id).x = true) :
    execPutRetire id far s = .next (endRemote (settledWc s id) id) := by
  simp only [execPutRetire, remote_inFlight h, bne_iff_ne.2 hcounts, hquiet, Bool.false_eq_true, if_false, if_true]

theorem working_open (h : working s id) : (!(s.hasOp id && !(s.op id).held && (s.op id).result.isNone)) = false := by
  obtain ⟨hthere, hfree, hnew⟩ := h
  simp [hthere, hfree, hnew]

theorem execRemoteAccessRetire_flushed (h : remote s id .wcflush) (hflushed : flushed (settledWc s id) (s.op id) = true) :
    execRemoteAccessRetire id far d s = .next (finishOp (settledWc s id) id 0 none) := by
  obtain ⟨⟨-, hkind⟩, hworking⟩ := h
  simp only [execRemoteAccessRetire, working_open hworking, hkind, hflushed, Bool.false_eq_true, if_false, if_true]

section Access

variable (h : remote s id .rld ∨ remote s id .ratom)
include h

theorem remote_working : working s id := by
  rcases h with ⟨-, hworking⟩ | ⟨-, hworking⟩ <;> exact hworking

theorem remote_kind : (s.op id).kind ≠ .wcflush ∧ (!(s.op id).remote) = false := by
  rcases h with ⟨⟨-, hkind⟩, -⟩ | ⟨⟨-, hkind⟩, -⟩ <;> simp [Op.remote, hkind]

theorem execRemoteAccessRetire_stored (hlater : (s.op id).x ≠ 0) (hquiet : podOpQuiet (settledWc s id) (s.op id) = true) :
    execRemoteAccessRetire id far d s = .next (endRemote (settledWc s id) id) := by
  obtain ⟨hkind, hremote⟩ := remote_kind h
  simp only [execRemoteAccessRetire, working_open (remote_working h), hkind, hremote, bne_iff_ne.2 hlater, hquiet, Bool.false_eq_true,
    if_false, if_true]

end Access

theorem execRemoteAccessRetire_answered (h : answered s id far d t) : execRemoteAccessRetire id far d s =
    .next (if podOpQuiet (gathered s id t) ((gathered s id t).op id) then endRemote (gathered s id t) id else gathered s id t) := by
  obtain ⟨hremote, hfirst, hahead, hsent, hgather⟩ := h
  obtain ⟨hkind, hremote'⟩ := remote_kind hremote
  simp only [execRemoteAccessRetire, working_open (remote_working hremote), hkind, hremote', hfirst, hahead, hsent, hgather,
    bne_self_eq_false, Bool.not_true, Bool.or_self, Bool.false_eq_true, if_false]
  rfl

/-! ### Requests of peers (R357, R358, R360, R361) -/

theorem asksHere_taken (h : asksHere s q) :
    (s.fabric.podId.isNone || !podFits q || !(decide (q.station < stationCount) && (s.station q.station).works)) = false := by
  obtain ⟨hpod, hfits, hstation, hworks⟩ := h
  obtain ⟨k, hk⟩ := Option.ne_none_iff_exists'.1 hpod
  simp [hk, hfits, stationCount, hstation, hworks]

theorem execIncomingPodRequest_performed {x : Nat} (h : asksHere s q) (hchecked : podChecked q = true)
    (hdone : podPerform (goodFlit s q.station) q.kind q.ga q.off q.size q.data q.cmp = .ok x t) : execIncomingPodRequest q s =
    .next (payOwed (t.modFabric (fun f => { f with owed := f.owed ++ [((goodFlit s q.station).sched.nextId, answerTo q true x)] }))) := by
  simp only [execIncomingPodRequest, asksHere_taken h, hchecked, hdone, Bool.not_true, Bool.false_eq_true, if_false]

theorem execIncomingPodRequest_fails (h : asksHere s q) (hchecked : podChecked q = true)
    (hfails : podPerform (goodFlit s q.station) q.kind q.ga q.off q.size q.data q.cmp = .fail c a) :
    execIncomingPodRequest q s = .next (sendAnswer (goodFlit s q.station) (answerTo q false c)) := by
  simp only [execIncomingPodRequest, asksHere_taken h, hchecked, hfails, Bool.not_true, Bool.false_eq_true, if_false]

theorem execIncomingPodRequest_broken (h : asksHere s q) (hbroken : podChecked q = false) :
    execIncomingPodRequest q s = .next (sendAnswer (goodFlit s q.station) (answerTo q false Cause.checkMismatch)) := by
  simp only [execIncomingPodRequest, asksHere_taken h, hbroken, Bool.not_false, Bool.false_eq_true, if_false, if_true]

/-! ### Stations (R358, R359) -/

theorem execStationStart_starts (hn : n < 24) (hdown : (s.station n).down = true) (hlanes : (s.station n).lanes ≠ 0)
    (hcount : (s.station n).count < 2 ^ 63) :
    execStationStart n s = .next (s.modStation n (fun x => { x with down := false, fails := 0 })) :=
  if_pos (by simp [stationCount, hn, hdown, hlanes, hcount, -Nat.reducePow])

theorem execFlitAuthFailure_up (hn : n < 24) (hup : (s.station n).down = false) : execFlitAuthFailure n s =
    .next (if 15 ≤ (s.station n).fails then stopStation (s.modStation n (fun x => { x with fails := x.fails + 1 })) n
      else s.modStation n (fun x => { x with fails := x.fails + 1 })) := by
  have hopen : ¬ (stationCount ≤ n || (s.station n).down) = true := by simp [stationCount, Nat.not_le.2 hn, hup]
  rw [execFlitAuthFailure, if_neg hopen]
  simp only [Laws.station_modStation, Nat.reduceLeDiff]
  split <;> rfl

theorem execStationNonceExhausted_spent (hn : n < 24) (hspent : 2 ^ 63 ≤ (s.station n).count) :
    execStationNonceExhausted n s = .next (stopStation s n) :=
  if_pos (by simp [stationCount, hn, hspent, -Nat.reducePow])

/-! ### Plans (R371, R372) -/

theorem blockOf_open {k : OpKind} (h : blockOf s id k w rs t) :
    (!(s.hasOp id && (s.op id).kind = k && !(s.op id).held && (s.op id).result.isNone)) = false := remote_inFlight ⟨h.1, h.2.1⟩

theorem execClplanRun_good (h : blockOf s id .clplan w rs t) (hstatus : planStatus w (ownId s) (rankIn rs) = 0)
    (haxis : axisOf w = some (a, kind))
    (hstore : t.store (engineOf s (s.op id)) ((s.op id).x + 0xC0) ((planRecord w a kind).flatMap (fun x => toBytes x 8)) = .ok () u) :
    execClplanRun id s = .next (finishOp u id 0 none) := by
  have hopen := blockOf_open h
  obtain ⟨-, -, hread⟩ := h
  simp only [execClplanRun, hopen, hread, haxis, hstatus, hstore, Bool.false_eq_true, if_false, if_true]

theorem enterPlan_starts {s0 : State} (hstatus : putStatus s p 1 0 0 false = .ok () y) (hagree : (presentedFor y p).1 = true)
    (hroute : p.others (present y id p) = [] ∨ workingStations (present y id p) ≠ []) (hstart : tryStart (present y id p) id = .ok () z) :
    enterPlan s0 s id p = .next z := by
  have hreached : (!(p.others (present y id p)).isEmpty && (workingStations (present y id p)).isEmpty) = false := by
    rcases hroute with halone | hstations
    · simp [halone]
    · simp [hstations]
  rw [present] at hreached hstart
  simp only [enterPlan, hstatus, hagree, hreached, hstart, orAbort, Bool.not_true, Bool.false_eq_true, if_false]

theorem execClgoRendezvous_enters (h : blockOf s id .clgo w rs t) (hnew : Sparse.has s.fabric.plans id = false)
    (hfirst : olderClgo s id = false) (hroom : s.fabric.plans.length < planRoom)
    (hload : t.load (engineOf s (s.op id)) ((s.op id).x + 0xC0) 40 = .ok bs u) (haxis : axisOf w = some (a, kind))
    (hstatus : planStatus w (ownId s) (rankIn rs) = 0) (hrecord : recordKept bs = (planRecord w a kind).take 5)
    (hstate : u.load (engineOf s (s.op id)) (meshStatus w) 8 = .ok st v) (hidle : ofBytes st / 2 ^ 62 % 4 ≠ 1)
    (hnone : keptFor v (newPlan s id w rs a kind) = none) :
    execClgoRendezvous id s = enterPlan s v id (newPlan s id w rs a kind) := by
  have hopen := blockOf_open h
  obtain ⟨-, -, hread⟩ := h
  have hidle' : ¬ bits (ofBytes st) 62 2 = 1 := by rw [bits_eq_div_mod]; exact hidle
  simp only [execClgoRendezvous, hopen, hnew, hfirst, Nat.not_le.2 hroom, hread, hload, haxis, hstatus, hrecord, hstate, hidle',
    hnone, decide_false, bne_self_eq_false, Bool.or_self, Bool.false_eq_true, if_false]

/-! ### Chunks, the end of a plan and its aborts (R360, R372, R374, R375) -/

theorem chunkDue_taken (h : chunkDue s id p m c) (hpod : onPod s = true) :
    (!Sparse.has s.fabric.plans id || !onPod s || !p.running || m = p.pos || p.g ≤ m || !decide (c ∈ p.awaits p.pos m) ||
      Sparse.has p.arrived (arrivedKey c m)) = false := by
  obtain ⟨⟨hhas, -, hruns⟩, hother, hm, hawaits, hnew⟩ := h
  simp [hhas, hpod, hruns, hother, Nat.not_le.2 hm, hawaits, hnew]

theorem execChunkArrival_good {x : FarData} (h : chunkDue s id p m c) (hpod : onPod s = true) (hchecks : x.checks = checksOf 0 256 x.data)
    (hwork : workOn (chunkHeld s id p m c x.data) id = .ok () t) : execChunkArrival id m c x s = .next t := by
  have hplan : Sparse.get {} s.fabric.plans id = p := h.1.2.1
  rw [chunkHeld] at hwork
  simp only [execChunkArrival, hplan, chunkDue_taken h hpod, hchecks, hwork, orAbort, bne_self_eq_false, Bool.false_eq_true, if_false]

theorem execChunkArrival_broken {x : FarData} (h : chunkDue s id p m c) (hpod : onPod s = true) (hchecks : x.checks ≠ checksOf 0 256 x.data)
    (habort : abortPlan s id Cause.checkMismatch (ownId s) = some t) : execChunkArrival id m c x s = .next t := by
  have hplan : Sparse.get {} s.fabric.plans id = p := h.1.2.1
  simp only [execChunkArrival, hplan, chunkDue_taken h hpod, bne_iff_ne.2 hchecks, abortOr, habort, Option.getD_some, Bool.false_eq_true,
    if_false, if_true]

theorem execClgoComplete_done (h : Rules.running s id p) (hfinal : p.chunks ≤ p.final.length)
    (hblur : blurChunks p (p.unspecified s) s = .ok () u) (hstatus : putStatus u p 2 0 0 true = .ok () t) : execClgoComplete id s =
    .next (finishOp (awaitNotices (unwatch (t.modFabric (fun f => { f with plans := Sparse.erase f.plans id })) p) p.tag (p.others s)) id
      p.tbytes none) := by
  obtain ⟨hhas, hplan, hruns⟩ := h
  simp only [execClgoComplete, hplan, hhas, hruns, Nat.not_lt.2 hfinal, hblur, hstatus, decide_false, Bool.not_true, Bool.or_self,
    Bool.false_eq_true, if_false]

theorem abortOr_done {s0 : State} (habort : abortPlan s id c (ownId s) = some t) : abortOr s0 s id c = .next t := by
  rw [abortOr, habort, Option.getD_some]

/-! ### Notices and members (R372, R375) -/

theorem here_heard (h : here s) : (!(onPod s && s.runsStage 2)) = false := by
  obtain ⟨hpod, hruns⟩ := h
  rw [hpod, runsStage_hub.2 hruns]
  rfl

theorem execAbortNoticeArrival_spent (h : here s) (hspent : (tag, m) ∈ s.fabric.spent) :
    execAbortNoticeArrival tag m c s = .next (s.modFabric (fun f => { f with spent := f.spent.erase (tag, m) })) := by
  simp only [execAbortNoticeArrival, here_heard h, hspent, Bool.false_eq_true, if_false, if_true]

theorem execAbortNoticeArrival_kept (h : here s) (hspent : (tag, m) ∉ s.fabric.spent) (hnone : planWith s tag m = none) :
    execAbortNoticeArrival tag m c s = .next (s.modFabric (fun f => { f with kept := f.kept ++ [(tag, m, c % 32)] })) := by
  simp only [execAbortNoticeArrival, here_heard h, hspent, hnone, Bool.false_eq_true, if_false]

theorem execAbortNoticeArrival_aborts (h : here s) (hspent : (tag, m) ∉ s.fabric.spent) (hplan : planWith s tag m = some (id, p))
    (habort : abortPlan s id (c % 32) m = some t) : execAbortNoticeArrival tag m c s = .next t := by
  simp only [execAbortNoticeArrival, here_heard h, hspent, hplan, habort, Option.getD_some, Bool.false_eq_true, if_false]

/-- R372: what a member presents goes to the plan of its tag, or is kept. -/
theorem execMemberRendezvous_none (h : here s) (hnone : planWith (noticesCome tag m s) tag m = none) :
    execMemberRendezvous tag kind g n m s = .next (kept tag kind g n m (noticesCome tag m s)) := by
  rw [noticesCome] at hnone
  simp only [execMemberRendezvous, here_heard h, hnone, Bool.false_eq_true, if_false]
  rfl

theorem execMemberRendezvous_kept (h : here s) (hplan : planWith (noticesCome tag m s) tag m = some (id, p))
    (hlater : p.running = true ∨ m ∈ p.present) :
    execMemberRendezvous tag kind g n m s = .next (kept tag kind g n m (noticesCome tag m s)) := by
  have hlater' : (p.running || decide (m ∈ p.present)) = true := by simpa using hlater
  rw [noticesCome] at hplan
  simp only [execMemberRendezvous, here_heard h, hplan, hlater', Bool.false_eq_true, if_false, if_true]
  rfl

section FirstOfMember

variable (h : here s) (hplan : planWith (noticesCome tag m s) tag m = some (id, p)) (hwaits : p.running = false) (hnew : m ∉ p.present)
include h hplan hwaits hnew

theorem execMemberRendezvous_member (hagrees : kind = p.kind ∧ g = p.g ∧ n = p.sbytes)
    (hstart : tryStart ((noticesCome tag m s).modFabric (fun f => { f with
      plans := Sparse.set {} f.plans id { p with present := p.present ++ [m] } })) id = .ok () t) :
    execMemberRendezvous tag kind g n m s = .next t := by
  obtain ⟨rfl, rfl, rfl⟩ := hagrees
  have hfirst : (p.running || decide (m ∈ p.present)) = false := by simp [hwaits, hnew]
  rw [noticesCome] at hplan hstart
  simp only [execMemberRendezvous, here_heard h, hplan, hfirst, hstart, orAbort, decide_true, Bool.and_self, Bool.not_true,
    Bool.false_eq_true, if_false]

theorem execMemberRendezvous_stranger (hdiffers : ¬ (kind = p.kind ∧ g = p.g ∧ n = p.sbytes))
    (habort : abortPlan (noticesCome tag m s) id Cause.illegalOperand (ownId (noticesCome tag m s)) = some t) :
    execMemberRendezvous tag kind g n m s = .next t := by
  have hdiffers' : (!(decide (kind = p.kind) && decide (g = p.g) && decide (n = p.sbytes))) = true := by
    rw [Bool.not_eq_true', Bool.eq_false_iff]
    simpa only [ne_eq, Bool.and_eq_true, decide_eq_true_eq, and_assoc] using hdiffers
  rw [noticesCome] at hplan habort
  simp only [execMemberRendezvous, here_heard h, hplan, hwaits, hnew, hdiffers', decide_false, Bool.or_self, Bool.false_eq_true, if_false,
    if_true, abortOr_done habort]

end FirstOfMember

/-! ### Ring passes (R376, R377) -/

section Rings

variable {r : Ring} {x : Packet}

/-- R376: a member passes as soon as its packet, if it needs one, is there. -/
theorem execRringRun_ready (h : ringReadyAt s id r) : execRringRun id s =
    if r.pos = 0 then .next (passRing s id r (teamOf (s.op id).grp) none)
    else match ringPacket s (s.team (teamOf (s.op id).grp)).core (teamOf (s.op id).grp) r with
      | none => .next s
      | some p => .next (passRing s id r (teamOf (s.op id).grp) (some p)) := by
  obtain ⟨⟨-, hkind⟩, ⟨hthere, hfree, hnew⟩, hresident, holder, rfl, hgood, hnext⟩ := h
  have hfirst : s.ops.any (fun (p : Nat × Op) => p.1 < id && p.2.grp = (s.op id).grp && p.2.isLevel && !p.2.left.isEmpty) = false := by
    simp only [List.any_eq_false, Bool.and_eq_true, decide_eq_true_eq, Bool.not_eq_true', List.isEmpty_eq_false_iff]
    rintro p hp ⟨⟨⟨hlt, hgrp⟩, hlevel⟩, hleft⟩
    exact hleft (holder p hp hlt hgrp hlevel)
  simp only [execRringRun, hthere, hkind, hfree, hnew, hresident, hfirst, hgood, ne_eq, not_true_eq_false, Option.isNone_none,
    decide_true, Bool.not_false, Bool.not_true, Bool.and_self, Bool.or_self, Bool.false_eq_true, if_false, Bool.and_eq_true,
    decide_eq_true_eq, if_neg hnext] <;> rfl

variable (hcomes : s.fabric.transit[n]? = some x) (hresident : (s.team x.team).resident = true)
include hcomes hresident

theorem execRringPacketArrival_taken (hroom : ringIssued s x.team x.id = true ∨
      ((s.team x.team).exited = false ∧ (earlyPackets s x.team).length < packetRoom)) :
    execRringPacketArrival n s = .next ((s.modFabric (fun f => { f with transit := f.transit.eraseIdx n })).modCore (s.team x.team).core
      (fun c => { c with packets := c.packets ++ [x] })) := by
  simp only [execRringPacketArrival, hcomes, hresident, Bool.not_true, Bool.false_eq_true, if_false]
  rcases hroom with hissued | ⟨hlive, hroom⟩
  · simp [hissued]
  · simp [hlive, Nat.not_le.2 hroom]

theorem execRringPacketArrival_full (hlive : (s.team x.team).exited = false) (hearly : ringIssued s x.team x.id = false)
    (hfull : packetRoom ≤ (earlyPackets s x.team).length) : execRringPacketArrival n s = .next s := by
  simp [execRringPacketArrival, hcomes, hresident, hlive, hearly, hfull]

theorem execRringPacketArrival_late (hgone : (s.team x.team).exited = true) (hearly : ringIssued s x.team x.id = false) :
    execRringPacketArrival n s = .next (s.modFabric (fun f => { f with transit := f.transit.eraseIdx n })) := by
  simp [execRringPacketArrival, hcomes, hresident, hgone, hearly]

end Rings

theorem isFabricEvent_turns {i : Instr} {r : StepRule} (h : IsFabricEvent i r) : Turns i r := by
  intro s hwhen
  cases h with
  | timeout c p l => rw [Laws.exec_wcEntryTimeout, execWcEntryTimeout]
  | put id far t =>
    obtain ⟨hremote, hfirst, hsent, hcounter, hover⟩ := hwhen
    rw [Laws.exec_putRetire, execPutRetire_answered hremote hfirst hsent hcounter, if_neg (not_not.2 hover)]
  | putCounts id far t =>
    obtain ⟨hremote, hfirst, hsent, hcounter, hcounts⟩ := hwhen
    rw [Laws.exec_putRetire, execPutRetire_answered hremote hfirst hsent hcounter, if_pos hcounts]
  | putCounted id far =>
    obtain ⟨hremote, hcounts, hquiet⟩ := hwhen
    rw [Laws.exec_putRetire, execPutRetire_counted hremote hcounts hquiet]
  | flush id far d =>
    obtain ⟨hremote, hflushed⟩ := hwhen
    rw [Laws.exec_remoteAccessRetire, execRemoteAccessRetire_flushed hremote hflushed]
  | data id far d t =>
    obtain ⟨hanswered, hquiet⟩ := hwhen
    rw [Laws.exec_remoteAccessRetire, execRemoteAccessRetire_answered hanswered, if_pos hquiet]
  | dataStores id far d t =>
    obtain ⟨hanswered, hopen⟩ := hwhen
    rw [Laws.exec_remoteAccessRetire, execRemoteAccessRetire_answered hanswered, if_neg (Bool.eq_false_iff.1 hopen)]
  | dataStored id far d =>
    obtain ⟨hremote, hlater, hquiet⟩ := hwhen
    rw [Laws.exec_remoteAccessRetire, execRemoteAccessRetire_stored hremote hlater hquiet]
  | request q x t =>
    obtain ⟨hasks, hchecked, hdone⟩ := hwhen
    rw [Laws.exec_incomingPodRequest, execIncomingPodRequest_performed hasks hchecked hdone]
  | requestFails q c a =>
    obtain ⟨hasks, hchecked, hfails⟩ := hwhen
    rw [Laws.exec_incomingPodRequest, execIncomingPodRequest_fails hasks hchecked hfails]
  | requestBroken q =>
    obtain ⟨hasks, hbroken⟩ := hwhen
    rw [Laws.exec_incomingPodRequest, execIncomingPodRequest_broken hasks hbroken]
  | stop n => exact Laws.exec_stationStop n s
  | start n =>
    obtain ⟨hn, hdown, hlanes, hcount⟩ := hwhen
    rw [Laws.exec_stationStart, execStationStart_starts hn hdown hlanes hcount]
  | flit n =>
    obtain ⟨hn, hup, hfew⟩ := hwhen
    rw [Laws.exec_flitAuthFailure, execFlitAuthFailure_up hn hup, if_neg (Nat.not_le.2 hfew)]
  | flitLast n =>
    obtain ⟨hn, hup, hmany⟩ := hwhen
    rw [Laws.exec_flitAuthFailure, execFlitAuthFailure_up hn hup, if_pos hmany]
  | nonces n =>
    obtain ⟨hn, hspent⟩ := hwhen
    rw [Laws.exec_stationNonceExhausted, execStationNonceExhausted_spent hn hspent]
  | planGood id a kind w rs t u =>
    obtain ⟨hblock, hstatus, haxis, hstore⟩ := hwhen
    rw [Laws.exec_clplanRun, execClplanRun_good hblock hstatus haxis hstore]
  | joins id a kind w rs bs st t u v y z =>
    obtain ⟨hblock, hnew, hfirst, hroom, hload, haxis, hstatus, hrecord, hstate, hidle, hnone, hput, hagree, hroute, hstart⟩ := hwhen
    rw [Laws.exec_clgoRendezvous, execClgoRendezvous_enters hblock hnew hfirst hroom hload haxis hstatus hrecord hstate hidle hnone,
      enterPlan_starts hput hagree hroute hstart]
  | chunk id m c x p t =>
    obtain ⟨hdue, hpod, hchecks, hwork⟩ := hwhen
    rw [Laws.exec_chunkArrival, execChunkArrival_good hdue hpod hchecks hwork]
  | chunkBroken id m c x p t =>
    obtain ⟨hdue, hpod, hchecks, habort⟩ := hwhen
    rw [Laws.exec_chunkArrival, execChunkArrival_broken hdue hpod hchecks habort]
  | done id p t u =>
    obtain ⟨hruns, hfinal, hblur, hstatus⟩ := hwhen
    rw [Laws.exec_clgoComplete, execClgoComplete_done hruns hfinal hblur hstatus]
  | spentNotice tag m c =>
    obtain ⟨hhere, hspent⟩ := hwhen
    rw [Laws.exec_abortNoticeArrival, execAbortNoticeArrival_spent hhere hspent]
  | keptNotice tag m c =>
    obtain ⟨hhere, hspent, hnone⟩ := hwhen
    rw [Laws.exec_abortNoticeArrival, execAbortNoticeArrival_kept hhere hspent hnone]
  | notice tag m c id p t =>
    obtain ⟨hhere, hspent, hplan, habort⟩ := hwhen
    rw [Laws.exec_abortNoticeArrival, execAbortNoticeArrival_aborts hhere hspent hplan habort]
  | nobody tag m c =>
    have hnone : onPod s = false := hwhen
    simp [Laws.exec_abortNoticeArrival, execAbortNoticeArrival, hnone]
  | early tag kind g n m =>
    obtain ⟨hhere, hnone⟩ := hwhen
    rw [Laws.exec_memberRendezvous, execMemberRendezvous_none hhere hnone]
  | next tag kind g n m id p =>
    obtain ⟨hhere, hplan, hlater⟩ := hwhen
    rw [Laws.exec_memberRendezvous, execMemberRendezvous_kept hhere hplan hlater]
  | member tag kind g n m id p t =>
    obtain ⟨hhere, hplan, hwaits, hnew, hkind, hg, hn, hstart⟩ := hwhen
    rw [Laws.exec_memberRendezvous, execMemberRendezvous_member hhere hplan hwaits hnew ⟨hkind, hg, hn⟩ hstart]
  | stranger tag kind g n m id p t =>
    obtain ⟨hhere, hplan, hwaits, hnew, hdiffers, habort⟩ := hwhen
    rw [Laws.exec_memberRendezvous, execMemberRendezvous_stranger hhere hplan hwaits hnew hdiffers habort]
  | abort id c t =>
    obtain ⟨hhas, habort⟩ := hwhen
    rw [Laws.exec_planAbort, execPlanAbort, if_pos hhas, abortOr_done habort]
  | ringFirst id r =>
    obtain ⟨hready, hfirst⟩ := hwhen
    rw [Laws.exec_rringRun, execRringRun_ready hready, if_pos hfirst]
  | ringNext id r p =>
    obtain ⟨hready, hlater, hpacket⟩ := hwhen
    rw [Laws.exec_rringRun, execRringRun_ready hready, if_neg hlater, hpacket]
  | packet n p =>
    obtain ⟨hcomes, hresident, hroom⟩ := hwhen
    rw [Laws.exec_rringPacketArrival, execRringPacketArrival_taken hcomes hresident hroom]
  | packetFull n p =>
    obtain ⟨hcomes, hresident, hlive, hearly, hfull⟩ := hwhen
    rw [Laws.exec_rringPacketArrival, execRringPacketArrival_full hcomes hresident hlive hearly hfull]
  | packetLate n p =>
    obtain ⟨hcomes, hresident, hgone, hearly⟩ := hwhen
    rw [Laws.exec_rringPacketArrival, execRringPacketArrival_late hcomes hresident hgone hearly]

end Fabric

/-- Settles O59: each event answers what the equation of its case says. -/
theorem fabricEvents : Obligations.FabricEvents := fun _ _ h => isFabricEvent_turns h

end Sys2Proof.Proofs

/-! `trap` and `brk` (R309, R311, R326): they complete, and so their group stops at the next word. -/

namespace Sys2Proof.Proofs

open Sys2Proof Sys2Proof.Machine Sys2Proof.Rules Sys2Proof.Laws

section Completes

variable {s : State} {cs : Sparse Nat} {code : Nat}

/-- R166: what becomes of queue reads as a group raises touches no group but for its flags and reads. -/
theorem raisedReads_rest (s : State) (team g k : Nat) (last : Bool) :
    SameButReads s (if (s.team team).debug then keepReads s team else if last then dropReads s g else withdrawReads s g) k := by
  split
  · exact sameButReads_of_groups k ⟨rfl, rfl, rfl⟩
  · split
    · exact dropReads_rest s g k
    · exact sameButReads_of_groups k (withdrawReads_rest s g)

/-- R310: nor does the halt that goes to the rest of the team. -/
theorem raisedHalt_rest (s : State) (team g : Nat) (ask : Team → Team) :
    SameButReads s (if teamInHandler s team then s.modTeam team ask else broadcast s team g) g := by
  split
  · exact sameButReads_of_groups g ⟨rfl, rfl, rfl⟩
  · exact broadcast_rest s team g

/-- A group has stopped with a cause, its instruction complete. -/
structure StoppedAfter (s t : State) (cause code lane : Nat) : Prop where
  mode : (t.group (grp s)).mode = .halted
  cause : (t.group (grp s)).cause.cause = cause
  code : (t.group (grp s)).cause.code = code
  lane : (t.group (grp s)).cause.lane = lane
  pcs : ∀ k, k < 32 → (t.group (grp s)).pc k = if s.sched.cur.lanes.getLsbD k then s.sched.cur.npc else s.me.pc k
  issued : (t.group (grp s)).issued = s.me.issued + 1

/-- What a later step of the raise leaves alone. -/
theorem StoppedAfter.sameButReads {t u : State} {cause code lane : Nat} (h : StoppedAfter s t cause code lane) (hsame : SameButReads t u (grp s)) :
    StoppedAfter s u cause code lane := by
  obtain ⟨⟨flags, longFlags, stalls, reads, hgroup⟩, -, -⟩ := hsame
  obtain ⟨hmode, hcause, hcode, hlane, hpcs, hissued⟩ := h
  exact ⟨by rw [hgroup, ← hmode], by rw [hgroup, ← hcause], by rw [hgroup, ← hcode], by rw [hgroup, ← hlane],
    fun k hk => by rw [hgroup, ← hpcs k hk]; rfl, by rw [hgroup, ← hissued]⟩

/-- R311: a raise at an ordinary moment, of an instruction that completes. -/
theorem raise_stoppedAfter (hord : Ordinary s) (tok : Option (Nat × Nat)) :
    StoppedAfter s (s.raise cs code tok true) (lowestCause cs) code (lowestLane cs (lowestCause cs)) := by
  obtain ⟨hruns, hcalm, -⟩ := hord
  have hcalm' : (s.group s.sched.cur.grp).raisedNow = false := hcalm
  have houtside : (s.group s.sched.cur.grp).mode ≠ .handler := by
    have hmode : (s.group s.sched.cur.grp).mode = .running := hruns
    rw [hmode]
    decide
  unfold State.raise
  simp only [houtside, if_false, hcalm', Bool.false_eq_true, Bool.false_and, Bool.not_false, Bool.and_true, decide_true, if_true]
  refine StoppedAfter.sameButReads ?_ (raisedHalt_rest _ _ _ _)
  generalize hnoted : State.modTeam s (teamOf s.sched.cur.grp) _ = s1
  have hteam : SameButReads s s1 (grp s) := by subst hnoted; exact sameButReads_of_groups _ ⟨rfl, rfl, rfl⟩
  generalize hreads : (if (s1.team (teamOf s.sched.cur.grp)).debug = true then keepReads s1 (teamOf s.sched.cur.grp)
      else if (s.group s.sched.cur.grp).picks.isEmpty = true then dropReads s1 s.sched.cur.grp else withdrawReads s1 s.sched.cur.grp) = s2
  have hsame : SameButReads s s2 (grp s) := by subst hreads; exact hteam.trans (raisedReads_rest s1 _ _ _ _)
  obtain ⟨⟨flags, longFlags, stalls, reads, hgroup⟩, -, -⟩ := hsame
  obtain ⟨⟨joins, waits, hstill⟩, -, -⟩ := standStill_rest s2 (grp s) .halted
  have hmoved : ∀ k, k < 32 → (((standStill s2 (grp s) .halted).group (grp s)).place s.sched.cur.lanes s.sched.cur.npc s.sched.cur.hdr).pc k =
      if s.sched.cur.lanes.getLsbD k then s.sched.cur.npc else s.me.pc k := fun k hk => by
    rw [place_pc _ _ _ _ _ hk, hstill, hgroup]
    rfl
  obtain ⟨pcs, hdrs, need, hplace⟩ := place_rest ((standStill s2 (grp s) .halted).group (grp s)) s.sched.cur.lanes s.sched.cur.npc s.sched.cur.hdr
  have hissued : ((standStill s2 (grp s) .halted).group (grp s)).issued = s.me.issued := by rw [hstill, hgroup]; rfl
  have hmode : ((standStill s2 (grp s) .halted).group (grp s)).mode = .halted := by rw [hstill]
  refine ⟨?_, ?_, ?_, ?_, fun k hk => ?_, ?_⟩
  · rw [group_modGroup, hplace]; exact hmode
  · rw [group_modGroup]
  · rw [group_modGroup]
  · rw [group_modGroup]
  · rw [group_modGroup]; exact hmoved k hk
  · rw [group_modGroup, hplace]; exact congrArg (· + 1) hissued

/-- R326: what `trap` and `brk` do past their gate. -/
theorem raiseBy_acts {f : ExtForm} (hclear : Clear s f { b := Rules.small }) (hsome : SomeActive s f) (c : Nat) :
    raiseBy c f s = .next (s.raise (causeAll (s.active f) c) (opB0 s f (s.active f) % 65536) none true) := instr_clear hclear hsome _

theorem exec_raiseBy {i : Instr} {f : ExtForm} {c : Nat} (h : i = .trap f ∧ c = Cause.trap ∨ i = .brk f ∧ c = Cause.breakpoint) (s : State) :
    exec i s = raiseBy c f s := by
  rcases h with ⟨rfl, rfl⟩ | ⟨rfl, rfl⟩
  · exact exec_trap f s
  · exact exec_brk f s

end Completes

/-- Settles O42: each is a raise of its cause in every active lane, whose instruction completes. -/
theorem trapCompletes : Obligations.TrapCompletes := by
  intro f s i c h hclear hsome hord
  obtain ⟨hmode, hcause, hcode, hlane, hpcs, hissued⟩ :=
    raise_stoppedAfter (cs := causeAll (s.active f) c) (code := opB0 s f (s.active f) % 65536) hord none
  rw [lowestCause_causeAll hsome] at hcause hlane
  rw [lowestLane_causeAll hsome] at hlane
  exact ⟨_, (exec_raiseBy h s).trans (raiseBy_acts hclear hsome c), hmode, hcause, hcode, hlane, hpcs, hissued⟩

end Sys2Proof.Proofs

/-! The entry into a handler (R312, R314, R316): where its group then stands, and what its registers hold. -/

namespace Sys2Proof.Proofs

open Sys2Proof Sys2Proof.Machine Sys2Proof.Rules

section HandlerStart

variable {s s1 : State} {g : Group} {frame slot handler i r k : Nat}

/-! ### v0 to v3 (R316) -/

/-- What the handler finds in one of its first four registers. -/
def handlerArg (frame slot : Nat) : Nat → Nat
  | 0 => frame
  | 1 => frame / 2 ^ 32
  | 2 => slot
  | _ => slot / 2 ^ 32

/-- The four registers of one lane. -/
def putArgs (frame slot : Nat) (g : Group) (i : Nat) : Group :=
  (((g.putV 0 i frame).putV 1 i (frame / 2 ^ 32)).putV 2 i slot).putV 3 i (slot / 2 ^ 32)

theorem readV_putArgs (hi : i < 32) (hk : r < 4 → k < 32) :
    (putArgs frame slot g i).readV r k = if r < 4 ∧ k = i then handlerArg frame slot r % 2 ^ 32 else g.readV r k := by
  have hkey (j : Nat) (hj : j < 4) : 32 * r + k = 32 * j + i ↔ r = j ∧ k = i := by omega
  simp only [putArgs, Group.readV, Group.putV, Laws.get_set, hkey 0 (by decide), hkey 1 (by decide), hkey 2 (by decide),
    hkey 3 (by decide)]
  by_cases h : r < 4 ∧ k = i
  · obtain ⟨hr, rfl⟩ := h
    interval_cases r <;> simp [handlerArg]
  · have hother (j : Nat) (hj : j < 4) : ¬ (r = j ∧ k = i) := by rintro ⟨rfl, rfl⟩; exact h ⟨hj, rfl⟩
    rw [if_neg (hother 3 (by decide)), if_neg (hother 2 (by decide)), if_neg (hother 1 (by decide)), if_neg (hother 0 (by decide)), if_neg h]

theorem readV_foldl_putArgs (l : List Nat) (hl : ∀ i ∈ l, i < 32) (hk : r < 4 → k < 32) (g : Group) :
    (l.foldl (putArgs frame slot) g).readV r k = if r < 4 ∧ k ∈ l then handlerArg frame slot r % 2 ^ 32 else g.readV r k := by
  induction l generalizing g with
  | nil => simp
  | cons i l ih =>
    rw [List.foldl_cons, ih (fun j hj => hl j (List.mem_cons_of_mem _ hj)), readV_putArgs (hl i List.mem_cons_self) hk]
    by_cases hr : r < 4 <;> by_cases hmem : k ∈ l <;> by_cases hhead : k = i <;> simp [hr, hmem, hhead]

theorem foldl_putArgs_rest (l : List Nat) (g : Group) : ∃ v, l.foldl (putArgs frame slot) g = { g with v := v } := by
  induction l generalizing g with
  | nil => exact ⟨_, rfl⟩
  | cons i l ih =>
    obtain ⟨v, hv⟩ := ih (putArgs frame slot g i)
    refine ⟨v, ?_⟩
    rw [List.foldl_cons, hv]
    simp only [putArgs, Group.putV]

/-! ### The group at its handler's first word -/

/-- The group's state but for its vector registers. -/
theorem startHandler_rest (g : Group) : ∃ v, (rangeFrom 0 32).foldl (putArgs frame slot) g = { g with v := v } ∧
    g.startHandler handler frame slot = { g with
      v := v, mode := .handler, pcs := g.live.toList.foldl (fun m i => Sparse.set 0 m i handler) g.pcs, need := g.live, p := []
      joins := g.unpark.joins, htoks := [], stalls := [], fetched := [], liveAtEntry := g.live, skipBreak := false, clears := []
      latches := [], savedMarks := if g.entResume then g.savedMarks else g.marks, marks := g.marks.filter (fun p => 3 < p.1) } := by
  obtain ⟨v, hv⟩ := foldl_putArgs_rest (frame := frame) (slot := slot) (rangeFrom 0 32) g
  refine ⟨v, hv, ?_⟩
  have hargs : (rangeFrom 0 32).foldl (fun g i =>
      (((g.putV 0 i frame).putV 1 i (frame / 2 ^ 32)).putV 2 i slot).putV 3 i (slot / 2 ^ 32)) g = { g with v := v } := hv
  rw [Group.startHandler, hargs]
  rfl

theorem startHandler_readV (hk : r < 4 → k < 32) :
    (g.startHandler handler frame slot).readV r k = if r < 4 then handlerArg frame slot r % 2 ^ 32 else g.readV r k := by
  obtain ⟨v, hv, hstart⟩ := startHandler_rest (frame := frame) (slot := slot) (handler := handler) g
  have hlanes : r < 4 → k ∈ rangeFrom 0 32 := fun hr => (Laws.mem_rangeFrom 0 32 k).2 ⟨Nat.zero_le k, by have := hk hr; omega⟩
  have hread : (g.startHandler handler frame slot).readV r k = ({ g with v := v } : Group).readV r k := by rw [hstart]; rfl
  rw [hread, ← hv, readV_foldl_putArgs _ (fun j hj => by have := (Laws.mem_rangeFrom 0 32 j).1 hj; omega) hk]
  by_cases hr : r < 4
  · rw [if_pos ⟨hr, hlanes hr⟩, if_pos hr]
  · rw [if_neg (fun h => hr h.1), if_neg hr]

theorem startHandler_pc (hk : k < 32) (hlive : g.live.getLsbD k = true) : (g.startHandler handler frame slot).pc k = handler := by
  obtain ⟨v, -, hstart⟩ := startHandler_rest (frame := frame) (slot := slot) (handler := handler) g
  rw [hstart, Group.pc, get_foldl_set_const, if_pos (Laws.mem_lanes.2 ⟨hk, hlive⟩)]

theorem startHandler_pred (hr : r < 7) : (g.startHandler handler frame slot).pred r = 0#32 := by
  obtain ⟨v, -, hstart⟩ := startHandler_rest (frame := frame) (slot := slot) (handler := handler) g
  rw [hstart, Group.pred, if_neg (by omega)]
  rfl

/-- A table whose entries are changed alike, where an entry that is not listed stays. -/
theorem get_map_entries {α : Type} {d : α} {f : α → α} (hf : f d = d) (l : Sparse α) (k : Nat) :
    Sparse.get d (l.map (fun p => (p.1, f p.2))) k = f (Sparse.get d l k) := by
  induction l with
  | nil => exact hf.symm
  | cons p l ih =>
    obtain ⟨j, x⟩ := p
    rw [List.map_cons, Sparse.get, Sparse.get, ih]
    split <;> rfl

theorem startHandler_join (m : Nat) : (g.startHandler handler frame slot).join m = { g.join m with parked := 0, site := none, paths := [] } := by
  obtain ⟨v, -, hstart⟩ := startHandler_rest (frame := frame) (slot := slot) (handler := handler) g
  rw [hstart]
  exact get_map_entries (f := fun j : JoinMask => { j with parked := 0, site := none, paths := [] }) rfl g.joins m

/-! ### The entry (R312, R314) -/

theorem store_nil (s : State) (a : Agent) (va : Nat) : s.store a va [] = .ok () s := rfl

theorem enterHandler_written {n : Nat} (hfresh : (s.group n).entPreempt = false) (hfirst : (s.group n).entResume = false)
    (hstore : s.store (agentOn s (coreOfGrp s n) (launchOfGrp n)) (frameAddr s n) (wholeFrame s n 0) = .ok () s1) :
    enterHandler s n = s1.modGroup n (fun x =>
      x.startHandler (s.launch (launchOfGrp n)).handler (frameAddr s n) (slotAddr s1 (teamOf n))) := by
  simp only [enterHandler, hfirst, hfresh, Bool.false_eq_true, if_false, List.length_nil, hstore, List.flatMap_nil, store_nil,
    List.foldl_nil]

end HandlerStart

/-- Settles O43: the entry is the start of the handler over the state that the frame's write leaves. -/
theorem handlerEntered : Obligations.HandlerEntered := by
  intro s s1 g hmode hpicks hfree hlive hfresh hfirst hready hlanded hstore
  have henter := execHandlerEntry_ready hmode hpicks hfree hlive (by rw [hfresh]; exact hready) hlanded (.inl hfresh)
  refine ⟨_, (Laws.exec_handlerEntry g s).trans (henter.trans (congrArg _ (enterHandler_written hfresh hfirst hstore))), ?_⟩
  rw [Laws.group_modGroup]
  obtain ⟨v, -, hstart⟩ := startHandler_rest (frame := frameAddr s g) (slot := slotAddr s1 (teamOf g))
    (handler := (s.launch (launchOfGrp g)).handler) (s1.group g)
  refine ⟨by rw [hstart], by rw [hstart], fun k hk hbit => startHandler_pc hk hbit, fun k hk => ?args, fun r hr => startHandler_pred hr,
    fun m => by rw [startHandler_join]; exact ⟨rfl, rfl, rfl⟩, fun n k hn _ => ?kept, by rw [hstart]⟩
  case args => exact ⟨startHandler_readV fun _ => hk, startHandler_readV fun _ => hk, startHandler_readV fun _ => hk, startHandler_readV fun _ => hk⟩
  case kept => rw [startHandler_readV (by omega), if_neg (by omega)]

end Sys2Proof.Proofs

/-! What `rtt.res` reads back of a frame (R319), and that it is what the entry wrote (R314). -/

namespace Sys2Proof.Proofs

open Sys2Proof Sys2Proof.Machine Sys2Proof.Rules

section Restore

variable {h g : Group} {bs : List Byte} {k n r : Nat}

/-! ### The stages of the restoration (R319) -/

/-- The lanes that come back: alive then and now, and marked live in the frame. -/
def backLanes (h : Group) (bs : List Byte) : Lanes :=
  Lanes.ofFn (fun i => (h.live &&& h.liveAtEntry).getLsbD i && bitOf (frameField bs (0x60 + 8 * i) 8) 63)

/-- Counter and header of one lane. -/
def laneBack (bs : List Byte) (g : Group) (i : Nat) : Group :=
  { g with pcs := Sparse.set 0 g.pcs i (bits (frameField bs (0x60 + 8 * i) 8) 0 57)
           hdrs := Sparse.set 0 g.hdrs i (frameField bs (0x430 + 4 * i) 4) }

/-- One predicate. -/
def predBack (bs : List Byte) (g : Group) (r : Nat) : Group := g.putP r (BitVec.ofNat 32 (frameField bs (0x20 + 4 * r) 4))

/-- The group with counters and headers read back. -/
def lanesBack (h : Group) (bs : List Byte) : Group :=
  { (backLanes h bs).toList.foldl (laneBack bs) h with
    need := Lanes.ofFn (fun i => (backLanes h bs).getLsbD i && savedHeaderBad (frameField bs (0x430 + 4 * i) 4)) }

/-- Then its predicates. -/
def predsBack (h : Group) (bs : List Byte) : Group := (rangeFrom 0 7).foldl (predBack bs) (lanesBack h bs)

/-- Then v0 to v3. -/
def readBack (h : Group) (bs : List Byte) : Group := (rangeFrom 0 4).foldl (fun g r => g.restoreV bs r) (predsBack h bs)

/-- Then its marks, and what the frame's other fields say; the lanes that do not come back have exited. -/
def finishBack (g : Group) (bs : List Byte) (back : Lanes) : Group :=
  { g.restoreMarks (frameField bs 0x360 192) (frameField bs 0x420 8) with
    gen := frameField bs 0x18 4, nbpend := frameField bs 0x42A 2, nbph := frameField bs 0x428 2
    mode := .running, entPreempt := false, entResume := false, cause := {}
    qread := (g.restoreMarks (frameField bs 0x360 192) (frameField bs 0x420 8)).qread.drop 1
    skid := 0, skipBreak := true, genWaits := [], fetched := [], clears := [], latches := []
    joins := (g.restoreMarks (frameField bs 0x360 192) (frameField bs 0x420 8)).unpark.joins }.exitLanes
      ((g.restoreMarks (frameField bs 0x360 192) (frameField bs 0x420 8)).live &&& ~~~ back)

theorem restore_eq (h : Group) (bs : List Byte) : h.restore bs = finishBack (readBack h bs) bs (backLanes h bs) := rfl

/-! ### What each stage reads -/

/-- A fold whose steps leave a part alone leaves it alone. -/
theorem foldl_keeps {α β γ : Type} {F : β → α → β} {part : β → γ} (hstep : ∀ b a, part (F b a) = part b) (l : List α) (b : β) :
    part (l.foldl F b) = part b := by
  induction l generalizing b with
  | nil => rfl
  | cons a l ih => rw [List.foldl_cons, ih, hstep]

theorem predBack_keeps {γ : Type} {part : Group → γ} (hpart : ∀ g p, part { g with p := p } = part g) (g : Group) (r : Nat) :
    part (predBack bs g r) = part g := by
  rw [predBack, Group.putP]
  split
  · rfl
  · exact hpart g _

theorem restoreV_keeps {γ : Type} {part : Group → γ} (hpart : ∀ g v, part { g with v := v } = part g) (g : Group) (r : Nat) :
    part (g.restoreV bs r) = part g := foldl_keeps (fun g _ => hpart g _) laneList g

theorem foldl_laneBack_lane (l : List Nat) (g : Group) :
    (l.foldl (laneBack bs) g).pc k = (if k ∈ l then bits (frameField bs (0x60 + 8 * k) 8) 0 57 else g.pc k) ∧
    (l.foldl (laneBack bs) g).hdr k = if k ∈ l then frameField bs (0x430 + 4 * k) 4 else g.hdr k := by
  induction l generalizing g with
  | nil => simp
  | cons i l ih =>
    obtain ⟨hpc, hhdr⟩ := ih (laneBack bs g i)
    have hlane : (laneBack bs g i).pc k = (if k = i then bits (frameField bs (0x60 + 8 * k) 8) 0 57 else g.pc k) ∧
        (laneBack bs g i).hdr k = if k = i then frameField bs (0x430 + 4 * k) 4 else g.hdr k := by
      simp only [laneBack, Group.pc, Group.hdr, Laws.get_set]
      by_cases hk : k = i
      · subst hk; simp
      · simp [hk]
    rw [List.foldl_cons, hpc, hhdr, hlane.1, hlane.2]
    by_cases hl : k ∈ l <;> by_cases hi : k = i <;> simp [hl, hi]

theorem foldl_predBack_pred (l : List Nat) (hr : r < 7) (g : Group) :
    (l.foldl (predBack bs) g).pred r = if r ∈ l then BitVec.ofNat 32 (frameField bs (0x20 + 4 * r) 4) else g.pred r := by
  induction l generalizing g with
  | nil => simp
  | cons i l ih =>
    have hpred : (predBack bs g i).pred r = if r = i then BitVec.ofNat 32 (frameField bs (0x20 + 4 * r) 4) else g.pred r := by
      have hr7 : r ≠ 7 := by omega
      by_cases hi : i = 7
      · subst hi
        simp [predBack, Group.putP, hr7]
      · simp only [predBack, Group.putP, if_neg hi, Group.pred, if_neg hr7, Laws.get_set]
        by_cases h : r = i
        · subst h; simp
        · simp [h]
    rw [List.foldl_cons, ih, hpred]
    by_cases hl : r ∈ l <;> by_cases hi : r = i <;> simp [hl, hi]

theorem readV_foldl_restoreV (l : List Nat) (hk : k < 32) (g : Group) : (l.foldl (fun g r => g.restoreV bs r) g).readV n k =
    if n ∈ l then frameField bs (0x160 + 128 * n + 4 * k) 4 % 2 ^ 32 else g.readV n k := by
  induction l generalizing g with
  | nil => simp
  | cons i l ih =>
    have hrow : (g.restoreV bs i).readV n k = if n = i then frameField bs (0x160 + 128 * n + 4 * k) 4 % 2 ^ 32 else g.readV n k := by
      have hlanes : k ∈ laneList := List.mem_of_getElem? (getElem?_laneList hk)
      rw [Group.restoreV, Laws.foldl_lanes_readV laneList _ i g (by decide) (by decide) n k hk]
      by_cases h : n = i
      · subst h; simp [hlanes]
      · simp [h]
    rw [List.foldl_cons, ih, hrow]
    by_cases hl : n ∈ l <;> by_cases hi : n = i <;> simp [hl, hi]

/-! ### The group read back -/

theorem lanesBack_keeps {γ : Type} {part : Group → γ}
    (hpart : ∀ g pcs hdrs need, part { g with pcs := pcs, hdrs := hdrs, need := need } = part g) (h : Group) :
    part (lanesBack h bs) = part h :=
  (hpart _ _ _ _).trans (foldl_keeps (F := laneBack bs) (fun g _ => hpart g _ _ g.need) _ h)

theorem predsBack_keeps {γ : Type} {part : Group → γ} (hpart : ∀ g p, part { g with p := p } = part g) (h : Group) :
    part (predsBack h bs) = part (lanesBack h bs) := foldl_keeps (predBack_keeps hpart) _ _

theorem readBack_keeps {γ : Type} {part : Group → γ} (hpart : ∀ g v, part { g with v := v } = part g) (h : Group) :
    part (readBack h bs) = part (predsBack h bs) := foldl_keeps (restoreV_keeps hpart) _ _

theorem readBack_live (h : Group) (bs : List Byte) : (readBack h bs).live = h.live := by
  rw [readBack_keeps (part := Group.live) (fun _ _ => rfl), predsBack_keeps (part := Group.live) (fun _ _ => rfl),
    lanesBack_keeps (part := Group.live) (fun _ _ _ _ => rfl)]

theorem readBack_lane (h : Group) (hk : k < 32) (hback : (backLanes h bs).getLsbD k = true) :
    (readBack h bs).pc k = bits (frameField bs (0x60 + 8 * k) 8) 0 57 ∧ (readBack h bs).hdr k = frameField bs (0x430 + 4 * k) 4 := by
  obtain ⟨hpc, hhdr⟩ := foldl_laneBack_lane (bs := bs) (k := k) (backLanes h bs).toList h
  rw [if_pos (Laws.mem_lanes.2 ⟨hk, hback⟩)] at hpc hhdr
  rw [readBack_keeps (part := fun g => g.pc k) (fun _ _ => rfl), readBack_keeps (part := fun g => g.hdr k) (fun _ _ => rfl),
    predsBack_keeps (part := fun g => g.pc k) (fun _ _ => rfl), predsBack_keeps (part := fun g => g.hdr k) (fun _ _ => rfl)]
  exact ⟨hpc, hhdr⟩

theorem readBack_pred (h : Group) (hr : r < 7) : (readBack h bs).pred r = BitVec.ofNat 32 (frameField bs (0x20 + 4 * r) 4) := by
  rw [readBack_keeps (part := fun g => g.pred r) (fun _ _ => rfl)]
  exact (foldl_predBack_pred (rangeFrom 0 7) hr _).trans (if_pos ((Laws.mem_rangeFrom 0 7 r).2 (by omega)))

theorem readBack_readV (h : Group) (hk : k < 32) : (readBack h bs).readV n k =
    if n < 4 then frameField bs (0x160 + 128 * n + 4 * k) 4 % 2 ^ 32 else h.readV n k := by
  have hmem : n ∈ rangeFrom 0 4 ↔ n < 4 := by rw [Laws.mem_rangeFrom]; omega
  rw [readBack, readV_foldl_restoreV _ hk, predsBack_keeps (part := fun g => g.readV n k) (fun _ _ => rfl),
    lanesBack_keeps (part := fun g => g.readV n k) (fun _ _ _ _ => rfl)]
  simp only [hmem]

/-! ### What the restored group holds -/

theorem finishBack_live (g : Group) (bs : List Byte) (back : Lanes) : (finishBack g bs back).live = g.live &&& ~~~(g.live &&& ~~~ back) := rfl

theorem finishBack_pred (g : Group) (bs : List Byte) (back : Lanes) : (finishBack g bs back).pred = g.pred := rfl

theorem finishBack_readV (g : Group) (bs : List Byte) (back : Lanes) : (finishBack g bs back).readV = g.readV := rfl

theorem finishBack_lane (g : Group) (bs : List Byte) (back : Lanes) : (finishBack g bs back).pc = g.pc ∧ (finishBack g bs back).hdr = g.hdr :=
  ⟨rfl, rfl⟩

theorem finishBack_fields (g : Group) (bs : List Byte) (back : Lanes) : (finishBack g bs back).mode = .running ∧
    (finishBack g bs back).gen = frameField bs 0x18 4 ∧ (finishBack g bs back).nbpend = frameField bs 0x42A 2 ∧
    (finishBack g bs back).nbph = frameField bs 0x428 2 := ⟨rfl, rfl, rfl, rfl⟩

theorem restore_live (hall : h.live = backLanes h bs) : (h.restore bs).live = h.live := by
  rw [restore_eq, finishBack_live, readBack_live, ← hall]
  refine BitVec.eq_of_getLsbD_eq fun k hk => ?_
  simp only [BitVec.getLsbD_and, BitVec.getLsbD_not, hk, decide_true, Bool.true_and]
  cases h.live.getLsbD k <;> rfl

theorem restore_pred (hr : r < 7) : (h.restore bs).pred r = BitVec.ofNat 32 (frameField bs (0x20 + 4 * r) 4) := by
  rw [restore_eq, finishBack_pred, readBack_pred h hr]

theorem restore_readV (hk : k < 32) : (h.restore bs).readV n k =
    if n < 4 then frameField bs (0x160 + 128 * n + 4 * k) 4 % 2 ^ 32 else h.readV n k := by
  rw [restore_eq, finishBack_readV, readBack_readV h hk]

theorem restore_lane (hk : k < 32) (hback : (backLanes h bs).getLsbD k = true) :
    (h.restore bs).pc k = bits (frameField bs (0x60 + 8 * k) 8) 0 57 ∧ (h.restore bs).hdr k = frameField bs (0x430 + 4 * k) 4 := by
  obtain ⟨hpc, hhdr⟩ := finishBack_lane (readBack h bs) bs (backLanes h bs)
  rw [restore_eq, hpc, hhdr]
  exact readBack_lane h hk hback

end Restore

section RoundTrip

variable {s : State} {g held k : Nat} {h : Group}

/-- R319: the frame marks as live exactly the lanes that were. -/
theorem backLanes_frameOf (hlive : h.live = (s.group g).live) (hentry : h.liveAtEntry = h.live)
    (hpc : ∀ k, k < 32 → (s.group g).live.getLsbD k = true → (s.group g).pc k < 2 ^ 57) :
    backLanes h (frameOf s g held) = (s.group g).live := by
  refine BitVec.eq_of_getLsbD_eq fun k hk => ?_
  rw [backLanes, Laws.ofFn_bit _ k hk, hentry, hlive, BitVec.and_self]
  cases hbit : (s.group g).live.getLsbD k with
  | false => rfl
  | true =>
    have hsmall := hpc k hk hbit
    rw [frame_pc List.prefix_rfl hk hsmall, if_pos hbit, Bool.true_and]
    exact testBit_eq_of_div_mod (b := true) (by rw [Bool.toNat_true]; omega)

/-- R314, R319: a live lane's counter comes back from its doubleword. -/
theorem frame_counter (hk : k < 32) (hlive : (s.group g).live.getLsbD k = true) (hpc : (s.group g).pc k < 2 ^ 57) :
    bits (frameField (frameOf s g held) (0x60 + 8 * k) 8) 0 57 = (s.group g).pc k := by
  rw [bits_eq_div_mod, frame_pc List.prefix_rfl hk hpc, if_pos hlive]
  omega

end RoundTrip

/-- Settles O45: every field of the group is read from the place where the frame's table puts it. -/
theorem frameRoundTrip : Obligations.FrameRoundTrip := by
  intro s g held h hgen hheld hlive hentry hlanes x y
  have hbs : frameOf s g held <+: frameOf s g held := List.prefix_rfl
  have hback : backLanes h (frameOf s g held) = x.live := backLanes_frameOf hlive hentry fun k hk hbit => (hlanes k hk hbit).1
  obtain ⟨hphase, hpending⟩ := frame_barriers hbs
  obtain ⟨hgeneration, -⟩ := frame_generation hbs hgen hheld
  have hlow (r k : Nat) (hr : r < 4) (hk : k < 32) : y.readV r k = x.readV r k := by
    rw [restore_readV hk, if_pos hr, frame_v hbs hr hk]
    exact Nat.mod_eq_of_lt (BitVec.isLt _)
  have hpred (r : Nat) (hr : r < 7) : y.pred r = x.pred r := by
    rw [restore_pred hr, frame_pred hbs hr, BitVec.ofNat_toNat, BitVec.setWidth_eq]
  have hlane (k : Nat) (hk : k < 32) (hbit : x.live.getLsbD k = true) : y.pc k = x.pc k ∧ y.hdr k = laneHeader s g k := by
    obtain ⟨hpc, hhdr⟩ := hlanes k hk hbit
    obtain ⟨hcounter, hheader⟩ := restore_lane (h := h) (bs := frameOf s g held) hk (by rw [hback]; exact hbit)
    refine ⟨hcounter.trans (frame_counter hk hbit hpc), hheader.trans ?_⟩
    rw [frame_header hbs hk, if_pos hbit, Nat.mod_eq_of_lt hhdr]
  have hy : y = finishBack (readBack h (frameOf s g held)) (frameOf s g held) (backLanes h (frameOf s g held)) := restore_eq h _
  obtain ⟨hmode, hgen', hpend', hphase'⟩ := finishBack_fields (readBack h (frameOf s g held)) (frameOf s g held) (backLanes h (frameOf s g held))
  rw [← hy] at hmode hgen' hpend' hphase'
  exact ⟨hmode, (restore_live (hlive.trans hback.symm)).trans hlive, hgen'.trans hgeneration, hpend'.trans hpending, hphase'.trans hphase,
    hpred, hlow, hlane, fun n k hn _ hk => (restore_readV hk).trans (if_neg (by omega))⟩

end Sys2Proof.Proofs


/-! What a turn of the agenda does (log 2), what a package without power does (log 74), and memory after reset (log 1). -/

namespace Sys2Proof.Proofs

open Sys2Proof Sys2Proof.Machine Sys2Proof.Rules

section Turns

variable {s : State} {t : Turn} {ts : List Turn}

/-- The turn at the head of the agenda, taken off it, is the step. -/
theorem step_of_turn (hpower : s.mgmt.powered = true ∨ t.isReset = true) (hagenda : s.sched.agenda = t :: ts) :
    step s = turn t (s.modSched (fun c => { c with agenda := ts })) := by
  have hruns : (s.mgmt.powered || t.isReset) = true := by rw [Bool.or_eq_true]; exact hpower
  simp only [step, agendaOf, hagenda, hruns, if_true]

/-- R408: without power no turn but a reset is taken. -/
theorem step_unpowered (hpower : s.mgmt.powered = false) (hagenda : s.sched.agenda = t :: ts) (ht : t.isReset = false) :
    step s = .fault .powerRemoved := by
  simp only [step, agendaOf, hagenda, hpower, ht, Bool.or_self, if_neg Bool.false_ne_true]

theorem isReset_eq_false (h : t ≠ .event .reset) : t.isReset = false := by
  unfold Turn.isReset
  split
  · exact absurd rfl h
  · rfl

theorem bargeTurn_run {b op : Nat} {f : BargeForm} {u : State} {i : Instr} (hlook : bargeLook s b = .run op f u)
    (hi : (Enc.barge op f).instr = some i) : bargeTurn s b = Out.orElse (exec i u) s := by
  simp only [bargeTurn, hlook, Laws.run_enc _ i u hi]

/-- R374: a waiting reduce team goes to a core that may take it. -/
theorem reduceTurn_placed {k core : Nat} {x : ReduceTeam} (hteam : s.fabric.reduces[k]? = some x) (hwaits : x.core = none)
    (hfits : reduceFits s core = true) :
    reduceTurn s k core = s.modFabric (fun y => { y with reduces := y.reduces.modify k (fun x => { x with core := some core }) }) := by
  simp only [reduceTurn, hteam, hwaits, hfits, if_true]

end Turns

/-- Settles O6: the turn at the head of the agenda is what the step does, and each kind of turn does what it names. -/
theorem stepTakesTurn : Obligations.StepTakesTurn := by
  refine ⟨?_, ?_, ?_, ?_⟩
  · intro s t b op f ts i hpower hagenda hlook hi
    rw [step_of_turn (.inl hpower) hagenda, turn, bargeTurn_run hlook hi]
  · intro s b k n ts hpower hagenda
    rw [step_of_turn (.inl hpower) hagenda, turn, copyTurn]
  · intro s k core x ts hpower hagenda hteam hwaits hfits
    have hteam' : (s.modSched (fun c => { c with agenda := ts })).fabric.reduces[k]? = some x := hteam
    rw [step_of_turn (.inl hpower) hagenda, turn, reduceTurn_placed hteam' hwaits hfits]
  · intro s e ts hpower hagenda
    rw [step_of_turn (.inl hpower) hagenda, turn]

/-- Settles O7: a turn that is no reset is not taken, and a reset brings back power. -/
theorem unpoweredStops : Obligations.UnpoweredStops := by
  intro s t ts hpower hagenda
  refine ⟨fun ht => step_unpowered hpower hagenda (isReset_eq_false ht), ?_⟩
  rintro rfl
  exact ⟨_, step_of_turn (.inr rfl) hagenda, rfl⟩

/-- Settles O9: after reset no byte is listed, and a byte that is not listed is 0. -/
theorem resetMemoryCanonical : Obligations.ResetMemoryCanonical := ⟨Laws.reset_wf, fun _ => rfl⟩

end Sys2Proof.Proofs


/-! Memory stays in canonical form (log 1). Only what writes bytes can break the form, and `Laws/Memory.lean` shows that no write does; but a byte
may be written wherever an operation retires, an access is made at once or a store is forwarded, so the claim goes through every operation of the
model. Each has one lemma, in the order of the model's files and made of the lemmas of what it calls: `f_memOk` where `f` hands on a state, `f_wf`
where it hands on a memory, `f_keeps` where it is the meaning of an instruction. Here are the forms in which states are handed on, and how they
compose. -/

namespace Sys2Proof.Proofs

open Sys2Proof Sys2Proof.Machine Sys2Proof.Rules

/-- A meaning answers a next state, whose memory is in canonical form where the memory it found is. -/
def Keeps (s : State) (o : Out) : Prop := ∃ t, o = .next t ∧ (s.memOk → t.memOk)

/-- The state that is there, if one is, has memory in canonical form. -/
def SomeMemOk (r : Option State) : Prop := ∀ t, r = some t → t.memOk

/-- The state that a reading leaves has memory in canonical form. -/
def OkMemOk {ε α : Type} (r : Except ε (α × State)) : Prop := ∀ x t, r = .ok (x, t) → t.memOk

/-- The state that an access leaves has memory in canonical form. -/
def AccMemOk {α : Type} (r : Acc α) : Prop := ∀ x t, r = .ok x t → t.memOk

section Forms

variable {s t u : State} {o p : Out} {c : Prop} [Decidable c] {α ε : Type}

/-- Only memory decides. -/
theorem memOk_of_mem_eq (hmem : t.mem = s.mem) (h : s.memOk) : t.memOk := by
  unfold State.memOk
  rw [hmem]
  exact h

theorem memOk_ite (ht : t.memOk) (hu : u.memOk) : (if c then t else u).memOk := by
  split
  · exact ht
  · exact hu

theorem foldl_memOk {f : State → α → State} (hf : ∀ s x, s.memOk → (f s x).memOk) {l : List α} (h : s.memOk) : (l.foldl f s).memOk := by
  induction l generalizing s with
  | nil => exact h
  | cons x xs ih => exact ih (hf s x h)

theorem keeps_next (h : s.memOk → t.memOk) : Keeps s (.next t) := ⟨t, rfl, h⟩

theorem keeps_ite (ho : Keeps s o) (hp : Keeps s p) : Keeps s (if c then o else p) := by
  split
  · exact ho
  · exact hp

theorem Keeps.from (ho : Keeps t o) (h : s.memOk → t.memOk) : Keeps s o := by
  obtain ⟨u, hu, hkept⟩ := ho
  exact ⟨u, hu, hkept ∘ h⟩

theorem Keeps.orElse (ho : Keeps s o) (h : s.memOk) : (o.orElse t).memOk := by
  obtain ⟨u, rfl, hkept⟩ := ho
  exact hkept h

theorem someMemOk_some (h : t.memOk) : SomeMemOk (some t) := by
  rintro _ ⟨⟩
  exact h

theorem someMemOk_none : SomeMemOk none := nofun

theorem someMemOk_ite {a b : Option State} (ha : SomeMemOk a) (hb : SomeMemOk b) : SomeMemOk (if c then a else b) := by
  split
  · exact ha
  · exact hb

theorem okMemOk_ok {x : α} (h : t.memOk) : OkMemOk (.ok (x, t) : Except ε (α × State)) := by
  rintro _ _ ⟨⟩
  exact h

theorem okMemOk_error {e : ε} : OkMemOk (.error e : Except ε (α × State)) := nofun

theorem okMemOk_ite {a b : Except ε (α × State)} (ha : OkMemOk a) (hb : OkMemOk b) : OkMemOk (if c then a else b) := by
  split
  · exact ha
  · exact hb

theorem accMemOk_ok {x : α} (h : t.memOk) : AccMemOk (.ok x t) := by
  rintro _ _ ⟨⟩
  exact h

theorem accMemOk_fail {n va : Nat} : AccMemOk (.fail n va : Acc α) := nofun

theorem accMemOk_wait : AccMemOk (.wait : Acc α) := nofun

theorem accMemOk_ite {a b : Acc α} (ha : AccMemOk a) (hb : AccMemOk b) : AccMemOk (if c then a else b) := by
  split
  · exact ha
  · exact hb

theorem memOk_of_next (ht : o = .next t) (ho : Keeps s o) (h : s.memOk) : t.memOk := by
  obtain ⟨u, rfl, hkept⟩ := ho
  cases ht
  exact hkept h

theorem memOk_of_some {r : Option State} (ht : r = some t) (hr : SomeMemOk r) : t.memOk := hr t ht

theorem memOk_of_ok {r : Except ε (α × State)} {x : α} (ht : r = .ok (x, t)) (hr : OkMemOk r) : t.memOk := hr x t ht

theorem memOk_of_acc {r : Machine.Acc α} {x : α} (ht : r = .ok x t) (hr : AccMemOk r) : t.memOk := hr x t ht

theorem getD_memOk {a : Option State} (ha : SomeMemOk a) (h : s.memOk) : (a.getD s).memOk := by
  cases a with
  | none => exact h
  | some t => exact ha t rfl

theorem fst_memOk {r : State × α} {x : α} (heq : r = (s, x)) (hr : r.1.memOk) : s.memOk := by
  subst heq
  exact hr

theorem snd_memOk {r : α × State} {x : α} (heq : r = (x, s)) (hr : r.2.memOk) : s.memOk := by
  subst heq
  exact hr

theorem fst_memOk_ite {a b : State × α} (ha : a.1.memOk) (hb : b.1.memOk) : (if c then a else b).1.memOk := by
  split
  · exact ha
  · exact hb

theorem snd_memOk_ite {a b : α × State} (ha : a.2.memOk) (hb : b.2.memOk) : (if c then a else b).2.memOk := by
  split
  · exact ha
  · exact hb

theorem wf_ite {m n : Memory} (hm : m.wf) (hn : n.wf) : (if c then m else n).wf := by
  split
  · exact hm
  · exact hn

theorem foldl_wf {f : Memory → α → Memory} (hf : ∀ m x, m.wf → (f m x).wf) {l : List α} {m : Memory} (h : m.wf) : (l.foldl f m).wf := by
  induction l generalizing m with
  | nil => exact h
  | cons x xs ih => exact ih (hf m x h)

end Forms

end Sys2Proof.Proofs


/-! Memory stays in canonical form (log 1): the parts of the state, physical memory, translation and chambers. -/

namespace Sys2Proof.Proofs

open Sys2Proof Sys2Proof.Machine Sys2Proof.Rules

section Kept

variable {s : State}

/-! ### The parts of the state -/

theorem setGroup_memOk {k : Nat} {g : Machine.Group} (h : s.memOk) : (s.setGroup k g).memOk := h

theorem modGroup_memOk {k : Nat} {f : Machine.Group → Machine.Group} (h : s.memOk) : (s.modGroup k f).memOk := setGroup_memOk h

theorem setTeam_memOk {k : Nat} {t : Team} (h : s.memOk) : (s.setTeam k t).memOk := h

theorem modTeam_memOk {k : Nat} {f : Team → Team} (h : s.memOk) : (s.modTeam k f).memOk := setTeam_memOk h

theorem setBarge_memOk {k : Nat} {b : Barge} (h : s.memOk) : (s.setBarge k b).memOk := h

theorem modBarge_memOk {k : Nat} {f : Barge → Barge} (h : s.memOk) : (s.modBarge k f).memOk := setBarge_memOk h

theorem setCore_memOk {k : Nat} {c : Machine.Core} (h : s.memOk) : (s.setCore k c).memOk := h

theorem modCore_memOk {k : Nat} {f : Machine.Core → Machine.Core} (h : s.memOk) : (s.modCore k f).memOk := setCore_memOk h

theorem modEngine_memOk {k : Nat} {f : Engine → Engine} (h : s.memOk) : (s.modEngine k f).memOk := modCore_memOk h

theorem setLaunch_memOk {k : Nat} {l : Launch} (h : s.memOk) : (s.setLaunch k l).memOk := h

theorem modLaunch_memOk {k : Nat} {f : Launch → Launch} (h : s.memOk) : (s.modLaunch k f).memOk := setLaunch_memOk h

theorem setCluster_memOk {k : Nat} {c : Cluster} (h : s.memOk) : (s.setCluster k c).memOk := h

theorem modCluster_memOk {k : Nat} {f : Cluster → Cluster} (h : s.memOk) : (s.modCluster k f).memOk := setCluster_memOk h

theorem modDie_memOk {k : Nat} {f : DieState → DieState} (h : s.memOk) : (s.modDie k f).memOk := h

theorem modSlice_memOk {die : Nat} {f : SliceState → SliceState} (h : s.memOk) : (s.modSlice die f).memOk := h

theorem modSlot_memOk {k : Nat} {f : Slot → Slot} (h : s.memOk) : (s.modSlot k f).memOk := h

theorem modStation_memOk {k : Nat} {f : Station → Station} (h : s.memOk) : (s.modStation k f).memOk := h

theorem modMem_memOk {f : Memory → Memory} (hf : ∀ m, m.wf → (f m).wf) (h : s.memOk) : (s.modMem f).memOk := hf _ h

theorem modXlat_memOk {f : Xlat → Xlat} (h : s.memOk) : (s.modXlat f).memOk := h

theorem modScr_memOk {f : Scratch → Scratch} (h : s.memOk) : (s.modScr f).memOk := h

theorem modWork_memOk {f : Work → Work} (h : s.memOk) : (s.modWork f).memOk := h

theorem modSched_memOk {f : Sched → Sched} (h : s.memOk) : (s.modSched f).memOk := h

theorem modFabric_memOk {f : Fabric → Fabric} (h : s.memOk) : (s.modFabric f).memOk := h

theorem modHost_memOk {f : HostIf → HostIf} (h : s.memOk) : (s.modHost f).memOk := h

theorem modMgmt_memOk {f : Mgmt → Mgmt} (h : s.memOk) : (s.modMgmt f).memOk := h

theorem send_memOk {m : Message} (h : s.memOk) : (s.send m).memOk := modFabric_memOk h

theorem signal_memOk {v : Nat} (h : s.memOk) : (signal s v).memOk := modHost_memOk h

theorem askReplacement_memOk (h : s.memOk) : (askReplacement s).memOk := signal_memOk (modMgmt_memOk h)

theorem setQueueReg_memOk {q k x : Nat} (h : s.memOk) : (s.setQueueReg q k x).memOk := modHost_memOk h

theorem endCommand_memOk {q k code : Nat} (h : s.memOk) : (endCommand s q k code).memOk := memOk_ite (signal_memOk (setQueueReg_memOk h)) h

theorem setOp_memOk {id : Nat} {o : Op} (h : s.memOk) : (s.setOp id o).memOk := h

theorem modOp_memOk {id : Nat} {f : Op → Op} (h : s.memOk) : (s.modOp id f).memOk := memOk_ite (setOp_memOk h) h

theorem dropOp_memOk {id : Nat} (h : s.memOk) : (s.dropOp id).memOk := h

theorem newOp_memOk {o : Op} (h : s.memOk) : (s.newOp o).memOk := h

theorem took_memOk (h : s.memOk) : s.took.memOk := modSched_memOk h

theorem now_memOk {ts : List Turn} (h : s.memOk) : (s.now ts).memOk := modSched_memOk h

/-! ### Physical memory -/

theorem setTag_wf {m : Memory} {sector : Nat} {t : Tag} (h : m.wf) : (m.setTag sector t).wf := h

theorem found_wf {m : Memory} {a n : Nat} (h : m.wf) : (m.found a n).wf := h

theorem spoil_wf {m : Memory} {a n : Nat} (h : m.wf) : (m.spoil a n).wf := h

theorem setCopy_wf {m : Memory} {line die : Nat} {c : Copy} (h : m.wf) : (m.setCopy line die c).wf := h

theorem install_wf {m : Memory} {die key line : Nat} (h : m.wf) : (m.install die key line).wf := setCopy_wf h

theorem invalidate_wf {m : Memory} {line die : Nat} (h : m.wf) : (m.invalidate line die).wf := setCopy_wf h

theorem invalidateAll_wf {m : Memory} {line except : Nat} (h : m.wf) : (m.invalidateAll line except).wf :=
  foldl_wf (fun _ _ h1 => wf_ite h1 (invalidate_wf h1)) h

theorem takeLine_memOk {die line : Nat} (h : s.memOk) : SomeMemOk (s.takeLine die line) := by
  dsimp only [State.takeLine]
  refine someMemOk_ite (someMemOk_some h) ?_
  split
  · exact someMemOk_none
  · exact someMemOk_some (modMem_memOk (fun _ => setCopy_wf) (took_memOk h))

theorem install_memOk {die key line : Nat} (h : s.memOk) : (s.install die key line).memOk := by
  dsimp only [State.install]
  refine memOk_ite h ?_
  split
  · next heq1 => exact modMem_memOk (fun _ => install_wf) (memOk_of_some heq1 (takeLine_memOk h))
  · exact h

theorem dropFlushed_memOk {line die : Nat} (h : s.memOk) : (dropFlushed s line die).memOk :=
  memOk_ite h (modMem_memOk (fun _ => setCopy_wf) h)

theorem dropClash_memOk {line die key : Nat} (h : s.memOk) : (dropClash s line die key).memOk :=
  memOk_ite (modMem_memOk (fun _ => invalidate_wf) h) h

theorem readByte_memOk {die : Option Nat} {key a : Nat} (h : s.memOk) : OkMemOk (s.readByte die key a) := by
  dsimp only [State.readByte]
  split
  · exact okMemOk_ok (took_memOk h)
  · split
    · exact okMemOk_ok h
    · exact okMemOk_error

theorem readBytes_memOk {die : Option Nat} {key a n : Nat} (h : s.memOk) : OkMemOk (s.readBytes die key a n) := by
  induction n generalizing s a with
  | zero => exact okMemOk_ok h
  | succ n ih =>
    rw [State.readBytes]
    split
    · exact okMemOk_error
    · next heq1 =>
      split
      · exact okMemOk_error
      · next heq2 => exact okMemOk_ok (ih (readByte_memOk h _ _ heq1) _ _ heq2)

theorem scrWrite_memOk {team o : Nat} {bs : List Byte} (h : s.memOk) : (s.scrWrite team o bs).memOk := memOk_ite h (spoil_wf h)

theorem laneWrite_memOk {grp i o : Nat} {bs : List Byte} (h : s.memOk) : (s.laneWrite grp i o bs).memOk := by
  induction bs generalizing s o with
  | nil => exact h
  | cons b bs ih => exact ih (modScr_memOk h)

theorem dieWrite_memOk {launch die o : Nat} {bs : List Byte} (h : s.memOk) : (s.dieWrite launch die o bs).memOk := by
  induction bs generalizing s o with
  | nil => exact h
  | cons b bs ih => exact ih (spoil_wf (m := s.mem) h)

/-! ### Address translation, and accesses that an agent makes at once -/

theorem logFailure_memOk (h : s.memOk) : (logFailure s).memOk := modMgmt_memOk h

theorem hostRuns_wf {key a : Nat} {rs : List (Nat × List Byte)} {m n : Memory} (h : m.wf) (hr : hostRuns key a rs m = some n) : n.wf := by
  induction rs generalizing m with
  | nil =>
    cases hr
    exact h
  | cons r rs ih =>
    rw [hostRuns] at hr
    split at hr
    · cases hr
    · exact ih (Laws.homeWrite_wf _ _ _ _ h) hr

theorem hostPut_memOk {a data mask : Nat} (h : s.memOk) : (hostPut s a data mask).memOk := by
  refine memOk_ite (logFailure_memOk h) ?_
  split
  · exact logFailure_memOk h
  · next hruns => exact hostRuns_wf h hruns

theorem snoopLoad_memOk {a n : Nat} (h : s.memOk) : (snoopLoad s a n).memOk := foldl_memOk (fun _ _ => send_memOk) h

theorem dropHostCopy_memOk {l : Nat} (h : s.memOk) : (dropHostCopy s l).memOk := modHost_memOk h

theorem snoopStore_memOk {a n : Nat} (h : s.memOk) : (snoopStore s a n).memOk := by
  dsimp only [snoopStore]
  refine foldl_memOk (fun _ _ h1 => ?_) h
  refine dropHostCopy_memOk ?_
  split
  · exact hostPut_memOk (send_memOk h1)
  · exact send_memOk h1

theorem backInvalidate_memOk {a n seq : Nat} (h : s.memOk) : (backInvalidate s a n seq).memOk :=
  foldl_memOk (fun _ _ h1 => memOk_ite h1 (memOk_ite (modHost_memOk h1) (modHost_memOk (send_memOk h1)))) h

theorem obtainLine_memOk {write : Bool} {line : Nat} (h : s.memOk) : (obtainLine write s line).memOk :=
  memOk_ite (memOk_ite h (modHost_memOk (send_memOk h))) (memOk_ite h (modHost_memOk (send_memOk h)))

theorem beforeRead_memOk {a n : Nat} (h : s.memOk) : (beforeRead s a n).memOk :=
  memOk_ite (memOk_ite (foldl_memOk (fun _ _ => obtainLine_memOk) h) (send_memOk h)) (memOk_ite (snoopLoad_memOk h) h)

theorem beforeWrite_memOk {a seq : Nat} {bs : List Byte} (h : s.memOk) : (beforeWrite s a seq bs).memOk :=
  memOk_ite (memOk_ite (foldl_memOk (fun _ _ => obtainLine_memOk) h) (send_memOk h))
      (memOk_ite h (memOk_ite (snoopStore_memOk h) (backInvalidate_memOk h)))

theorem homeRead_memOk {key a n : Nat} (h : s.memOk) : OkMemOk (homeRead s key a n) := by
  dsimp only [homeRead]
  refine okMemOk_ite ?_ (readBytes_memOk (beforeRead_memOk h))
  split
  · exact okMemOk_error
  · exact okMemOk_ok (modSched_memOk (beforeRead_memOk h))

theorem markEntry_memOk {t : TlbEntry} {flags : Nat} (h : s.memOk) : OkMemOk (markEntry s t flags) := by
  dsimp only [markEntry]
  refine okMemOk_ite (okMemOk_ok h) ?_
  refine okMemOk_ite okMemOk_error ?_
  refine okMemOk_ite okMemOk_error ?_
  split
  · exact okMemOk_error
  · next heq1 =>
    split
    · exact okMemOk_error
    · exact okMemOk_ok (Laws.pkgWrite_wf _ _ _ _ (beforeWrite_memOk (memOk_of_ok heq1 (homeRead_memOk h))))

theorem keepWalk_memOk {t : TlbEntry} {seen : List TableWord} (h : s.memOk) : (keepWalk s t seen).memOk :=
  modXlat_memOk (foldl_memOk (fun _ _ => beforeRead_memOk) h)

theorem cacheLeaf_memOk {owner : Nat} {t : TlbEntry} (h : s.memOk) : (cacheLeaf s owner t).memOk := modXlat_memOk h

theorem tookLost_memOk (h : s.memOk) : (tookLost s).memOk := memOk_ite h (took_memOk h)

theorem useLeaf_memOk {t : TlbEntry} {kind : AccessKind} {flags : Nat} (h : s.memOk) : OkMemOk (useLeaf s t kind flags) := by
  dsimp only [useLeaf]
  split
  · exact okMemOk_error
  · exact markEntry_memOk h

theorem translate_memOk {owner asid va : Nat} {kind : AccessKind} (h : s.memOk) : OkMemOk (Machine.translate s owner asid va kind) := by
  dsimp only [Machine.translate]
  refine okMemOk_ite okMemOk_error ?_
  split
  · split
    · exact okMemOk_error
    · next heq2 =>
      have hs2 := memOk_of_ok heq2 (useLeaf_memOk h)
      exact okMemOk_ok (memOk_ite hs2 (modXlat_memOk hs2))
  · split
    · split
      · exact okMemOk_error
      · next heq3 => exact okMemOk_ok (cacheLeaf_memOk (memOk_of_ok heq3 (useLeaf_memOk h)))
    · split
      · exact okMemOk_error
      · split
        · exact okMemOk_error
        · next heq4 => exact okMemOk_ok (cacheLeaf_memOk (keepWalk_memOk (memOk_of_ok heq4 (useLeaf_memOk (tookLost_memOk h)))))

theorem translateFor_memOk {id owner asid va : Nat} {kind : AccessKind} (h : s.memOk) : OkMemOk (translateFor s id owner asid va kind) := by
  dsimp only [translateFor]
  split
  · exact useLeaf_memOk h
  · exact translate_memOk h

theorem loadPart_memOk {g : Agent} {va n whole : Nat} (h : s.memOk) : AccMemOk (loadPart s g va n whole) := by
  dsimp only [loadPart]
  split
  · exact accMemOk_ite accMemOk_wait accMemOk_fail
  · next heq1 =>
    have hs1 := memOk_of_ok heq1 (translate_memOk h)
    split
    · exact accMemOk_fail
    · exact accMemOk_ok hs1
    · refine accMemOk_ite accMemOk_wait ?_
      split
      · exact accMemOk_fail
      · next heq3 => exact accMemOk_ok (memOk_of_ok heq3 (homeRead_memOk hs1))
    · refine accMemOk_ite accMemOk_wait ?_
      split
      · split
        · exact accMemOk_fail
        · next heq4 => exact accMemOk_ok (memOk_of_ok heq4 (homeRead_memOk hs1))
      · split
        · exact accMemOk_fail
        · next heq4 =>
            exact accMemOk_ok (foldl_memOk (fun _ _ => install_memOk)
                (memOk_of_ok heq4 (readBytes_memOk (beforeRead_memOk (foldl_memOk (fun _ _ => dropClash_memOk) hs1)))))

theorem homeWritten_memOk {va a key seq : Nat} {bs : List Byte} (h : s.memOk) : AccMemOk (homeWritten s va a key seq bs) := by
  dsimp only [homeWritten]
  split
  · exact accMemOk_fail
  · exact accMemOk_ok (Laws.pkgWrite_wf _ _ _ _ (beforeWrite_memOk h))

theorem storeHome_memOk {die : Option Nat} {va a key seq : Nat} {bs : List Byte} (h : s.memOk) : AccMemOk (storeHome s die va a key seq bs) :=
  accMemOk_ite accMemOk_wait (homeWritten_memOk h)

theorem storePart_memOk {g : Agent} {va : Nat} {bs : List Byte} {whole : Nat} (h : s.memOk) : AccMemOk (storePart s g va bs whole) := by
  dsimp only [storePart]
  split
  · exact accMemOk_ite accMemOk_wait accMemOk_fail
  · next heq1 =>
    have hs1 := memOk_of_ok heq1 (translate_memOk h)
    split
    exacts [accMemOk_fail, accMemOk_ok (dieWrite_memOk hs1), storeHome_memOk hs1, accMemOk_ite accMemOk_wait (storeHome_memOk hs1)]

theorem loadAll_memOk {g : Agent} {fuel : Nat} {va n : Nat} (h : s.memOk) : AccMemOk (loadAll g fuel s va n) := by
  induction fuel generalizing s va n with
  | zero => exact accMemOk_ok h
  | succ fuel ih =>
    rw [loadAll]
    refine accMemOk_ite (accMemOk_ok h) ?_
    split
    · exact accMemOk_wait
    · exact accMemOk_fail
    · next heq1 =>
      split
      · exact accMemOk_wait
      · exact accMemOk_fail
      · next heq2 => exact accMemOk_ok (ih (loadPart_memOk h _ _ heq1) _ _ heq2)

theorem storeAll_memOk {g : Agent} {fuel : Nat} {va : Nat} {bs : List Byte} (h : s.memOk) : AccMemOk (storeAll g fuel s va bs) := by
  induction fuel generalizing s va bs with
  | zero => exact accMemOk_ok h
  | succ fuel ih =>
    rw [storeAll]
    refine accMemOk_ite (accMemOk_ok h) ?_
    split
    · exact accMemOk_wait
    · exact accMemOk_fail
    · next heq1 => exact ih (storePart_memOk h _ _ heq1)

theorem load_memOk {g : Agent} {va n : Nat} (h : s.memOk) : AccMemOk (s.load g va n) := loadAll_memOk h

theorem store_memOk {g : Agent} {va : Nat} {bs : List Byte} (h : s.memOk) : AccMemOk (s.store g va bs) := storeAll_memOk h

theorem codeAt_memOk {core launch : Nat} {t : TlbEntry} {va : Nat} (h : s.memOk) : OkMemOk (codeAt s core launch t va) := by
  dsimp only [codeAt]
  split
  · exact okMemOk_error
  · exact okMemOk_ok h
  · refine okMemOk_ite okMemOk_error ?_
    split
    · next heq2 => exact okMemOk_ok (memOk_of_ok heq2 (homeRead_memOk h))
    · exact okMemOk_error
  · refine okMemOk_ite okMemOk_error ?_
    split
    · next heq2 => exact okMemOk_ok (memOk_of_ok heq2 (readBytes_memOk (beforeRead_memOk (dropClash_memOk h))))
    · exact okMemOk_error

theorem keepCode_memOk {core asid va : Nat} {t : TlbEntry} {w : Nat} (h : s.memOk) : (keepCode s core asid va t w).memOk := modXlat_memOk h

theorem fetchWord_memOk {core launch va : Nat} (h : s.memOk) : OkMemOk (fetchWord s core launch va) := by
  dsimp only [fetchWord]
  split
  · exact okMemOk_error
  · next heq1 =>
    have hs1 := memOk_of_ok heq1 (translate_memOk h)
    split
    · exact okMemOk_ok hs1
    · split
      · exact okMemOk_error
      · next heq3 => exact okMemOk_ok (keepCode_memOk (memOk_of_ok heq3 (codeAt_memOk hs1)))

/-! ### Chambers -/

theorem freeBytes_memOk {n : Nat} (h : s.memOk) : (s.freeBytes n).2.memOk := by
  induction n generalizing s with
  | zero => exact h
  | succ n ih => exact ih (took_memOk h)

theorem readChamber_memOk {g : Agent} {at_ : ChamberAt} (h : s.memOk) : AccMemOk (readChamber s g at_) := by
  dsimp only [readChamber]
  refine accMemOk_ite (accMemOk_ok (freeBytes_memOk h)) ?_
  split
  · exact accMemOk_ok h
  · split
    · exact accMemOk_wait
    · exact accMemOk_fail
    · next heq2 => exact accMemOk_ok (memOk_of_acc heq2 (load_memOk h))

theorem writeChamber_memOk {g : Agent} {at_ : ChamberAt} {c : Chamber} (h : s.memOk) : AccMemOk (writeChamber s g at_ c) := by
  dsimp only [writeChamber]
  split
  · exact accMemOk_ok (modMem_memOk (fun _ h2 => h2) (scrWrite_memOk h))
  · split
    · exact accMemOk_wait
    · exact accMemOk_fail
    · next heq2 => exact accMemOk_ok (modMem_memOk (fun _ h3 => h3) (memOk_of_acc heq2 (store_memOk h)))

theorem arriveAt_memOk {g : Agent} {at_ : ChamberAt} {n b : Nat} {psn : Bool} {c sc : Nat} (h : s.memOk) : AccMemOk (arriveAt s g at_ n b psn c sc)
    := by
  dsimp only [arriveAt]
  split
  · exact accMemOk_wait
  · exact accMemOk_fail
  · next heq1 => exact writeChamber_memOk (memOk_of_acc heq1 (readChamber_memOk h))

end Kept

end Sys2Proof.Proofs


/-! Memory stays in canonical form (log 1): operations, their operands and their flags, and the instructions that compute. -/

namespace Sys2Proof.Proofs

open Sys2Proof Sys2Proof.Machine Sys2Proof.Rules

section Kept

variable {s : State}

/-! ### Words that a path fetches, and clauses -/

theorem fetchPath_memOk {grp va : Nat} (h : s.memOk) : OkMemOk (fetchPath s grp va) := okMemOk_ite (okMemOk_ok h) (fetchWord_memOk h)

/-! ### Operations -/

theorem advance_memOk (h : s.memOk) : s.advance.memOk := modGroup_memOk h

theorem begins_memOk (h : s.memOk) : s.begins.memOk := modGroup_memOk h

theorem writeDest_memOk {active : Lanes} {regs : List Nat} {x : Nat → Nat} (h : s.memOk) : (s.writeDest active regs x).memOk :=
  modGroup_memOk h

theorem writeTruth_memOk {active : Lanes} {n : Nat} {x : Nat → Bool} (h : s.memOk) : (s.writeTruth active n x).memOk := writeDest_memOk h

theorem issueOp_memOk {o : Op} (h : s.memOk) : (s.issueOp o).memOk := modGroup_memOk (newOp_memOk h)

theorem stallOn_memOk {id : Nat} (h : s.memOk) : (s.stallOn id).memOk := modGroup_memOk h

theorem lowerWaits_memOk {grp : Nat} {handler : Bool} {t : Nat} (h : s.memOk) : (lowerWaits s grp handler t).memOk :=
  memOk_ite (modEngine_memOk h) h

theorem writeBack_memOk {sc : Nat} (h : s.memOk) : (writeBack s sc).memOk := memOk_ite (modMem_memOk (fun _ h1 => h1) h) h

theorem tryExport_memOk {grp : Nat} {handler : Bool} {t : Nat} (h : s.memOk) : (tryExport s grp handler t).memOk := by
  dsimp only [tryExport]
  refine memOk_ite h ?_
  refine memOk_ite h ?_
  split
  · exact modGroup_memOk h
  · split
    · exact h
    · exact modGroup_memOk h
    · next heq2 => exact modGroup_memOk (memOk_of_acc heq2 (arriveAt_memOk (writeBack_memOk h)))

theorem retireToken_memOk {grp : Nat} {handler : Bool} {t bytes : Nat} {f : Option Failure} (h : s.memOk) :
    (retireToken s grp handler t bytes f).memOk :=
  tryExport_memOk (lowerWaits_memOk (modGroup_memOk h))

theorem outrank_memOk {id : Nat} (h : s.memOk) : (s.outrank id).memOk := memOk_ite h h

theorem landResult_memOk {id : Nat} {f : Option Failure} (h : s.memOk) : (landResult s id f).memOk := by
  dsimp only [landResult]
  split
  · exact outrank_memOk (modGroup_memOk h)
  · exact modGroup_memOk h

theorem drainOne_memOk {grp : Nat} {handler : Bool} {t : Nat} (h : s.memOk) : SomeMemOk (drainOne s grp handler t) := by
  dsimp only [drainOne]
  split
  · exact someMemOk_none
  · split
    · exact someMemOk_none
    · exact someMemOk_some (retireToken_memOk (dropOp_memOk (landResult_memOk (modGroup_memOk h))))

theorem drain_memOk {grp : Nat} {b : Bool} {t n : Nat} (h : s.memOk) : (drain grp b t n s).memOk := by
  induction n generalizing s with
  | zero => exact h
  | succ n ih =>
    rw [drain]
    split
    · exact h
    · next heq1 => exact ih (drainOne_memOk h _ heq1)

theorem flagDone_memOk {id : Nat} (h : s.memOk) : (flagDone s id).memOk := modGroup_memOk (dropOp_memOk (landResult_memOk h))

theorem finishOp_memOk {id bytes : Nat} {f : Option Failure} (h : s.memOk) : (finishOp s id bytes f).memOk := by
  dsimp only [finishOp]
  split
  · exact memOk_ite (modOp_memOk h) (memOk_ite (drain_memOk (modOp_memOk h)) (modOp_memOk h))
  · exact flagDone_memOk h

theorem poisonOp_memOk {id cause : Nat} (h : s.memOk) : (poisonOp s id cause).memOk := finishOp_memOk h

theorem startOp_memOk {id : Nat} (h : s.memOk) : (startOp s id).memOk := by
  dsimp only [startOp]
  refine memOk_ite h ?_
  split
  · exact poisonOp_memOk h
  · split
    · exact finishOp_memOk h
    · exact modOp_memOk h

theorem forgetOp_memOk {id : Nat} (h : s.memOk) : (forgetOp s id).memOk := by
  dsimp only [forgetOp]
  split
  · exact modGroup_memOk (dropOp_memOk h)
  · exact dropOp_memOk h

theorem shelveOp_memOk {id : Nat} (h : s.memOk) : (shelveOp s id).memOk := by
  dsimp only [shelveOp]
  split
  · exact modGroup_memOk (dropOp_memOk h)
  · exact dropOp_memOk h

theorem refill_memOk {o : Op} (h : s.memOk) : (s.refill o).memOk := modGroup_memOk (newOp_memOk h)

theorem noteReturned_memOk {core : Nat} {s0 s : State} (h : s.memOk) : (noteReturned core s0 s).memOk := modCore_memOk h

theorem setQueue_memOk {team q : Nat} {l : List Nat} (h : s.memOk) : (s.setQueue team q l).memOk := modTeam_memOk h

theorem leaveQueues_memOk {grp : Nat} (h : s.memOk) : (leaveQueues s grp).memOk := modGroup_memOk (foldl_memOk (fun _ _ => modCore_memOk) h)

theorem withdrawReads_memOk {grp : Nat} (h : s.memOk) : (withdrawReads s grp).memOk := foldl_memOk (fun _ _ => modOp_memOk) h

theorem dropReads_memOk {grp : Nat} (h : s.memOk) : (dropReads s grp).memOk :=
  foldl_memOk (fun _ _ h1 => modGroup_memOk (dropOp_memOk h1)) h

theorem leaveSlots_memOk {grp : Nat} (h : s.memOk) : (leaveSlots s grp).memOk := h

theorem standStill_memOk {grp : Nat} {m : Mode} (h : s.memOk) : (standStill s grp m).memOk :=
  modGroup_memOk (leaveSlots_memOk (leaveQueues_memOk h))

theorem stopGroup_memOk {grp : Nat} {m : Mode} (h : s.memOk) : (stopGroup s grp m).memOk :=
  memOk_ite (standStill_memOk h) (dropReads_memOk (standStill_memOk h))

theorem dropDead_memOk {grp : Nat} (h : s.memOk) : (dropDead s grp).memOk := modGroup_memOk (dropReads_memOk h)

theorem broadcast_memOk {team except : Nat} (h : s.memOk) : (broadcast s team except).memOk :=
  foldl_memOk (fun _ _ h1 => memOk_ite (took_memOk (modGroup_memOk (memOk_ite h1 (memOk_ite (dropDead_memOk h1) (withdrawReads_memOk h1)))))
      (memOk_ite h1 (memOk_ite (dropDead_memOk h1) (withdrawReads_memOk h1)))) h

theorem cutBarge_memOk {cause : Nat} {b : Nat} (h : s.memOk) : (cutBarge cause s b).memOk :=
  memOk_ite (foldl_memOk (fun _ _ => retireToken_memOk) (foldl_memOk (fun _ _ => finishOp_memOk) (modCore_memOk (modBarge_memOk h)))) h

theorem stopBargeBy_memOk {cause : Nat} {b : Nat} (h : s.memOk) : (stopBargeBy cause s b).memOk :=
  memOk_ite (cutBarge_memOk h) (modBarge_memOk h)

theorem stopBarge_memOk {b : Nat} (h : s.memOk) : (stopBarge s b).memOk := stopBargeBy_memOk h

theorem emptyEngine_memOk {core cause : Nat} (h : s.memOk) : (emptyEngine s core cause).memOk :=
  foldl_memOk (fun _ _ h1 => memOk_ite (finishOp_memOk h1) (retireToken_memOk h1)) (modEngine_memOk h)

theorem releaseEngine_memOk {core : Nat} (h : s.memOk) : (releaseEngine s core).memOk := modScr_memOk (modEngine_memOk h)

theorem stopTeam_memOk {team : Nat} (h : s.memOk) : (stopTeam s team).memOk :=
  noteReturned_memOk (modTeam_memOk (memOk_ite (releaseEngine_memOk (emptyEngine_memOk
      (foldl_memOk (fun _ _ => stopBarge_memOk) (foldl_memOk (fun _ _ h1 => modGroup_memOk (stopGroup_memOk h1)) h))))
      (foldl_memOk (fun _ _ => stopBarge_memOk) (foldl_memOk (fun _ _ h1 => modGroup_memOk (stopGroup_memOk h1)) h))))

theorem drainAll_memOk {grp : Nat} (h : s.memOk) : (drainAll s grp).memOk := foldl_memOk (fun _ _ => drain_memOk) h

theorem discardGroup_memOk {grp : Nat} (h : s.memOk) : (discardGroup s grp).memOk :=
  memOk_ite (modGroup_memOk (drainAll_memOk (modGroup_memOk h))) h

theorem stopLaunch_memOk {launch status cause team : Nat} (h : s.memOk) : (stopLaunch s launch status cause team).memOk :=
  modLaunch_memOk (memOk_of_mem_eq rfl (foldl_memOk (fun _ _ => discardGroup_memOk) (foldl_memOk (fun _ _ => stopTeam_memOk) h)))

theorem doubleFault_memOk {grp cause : Nat} (h : s.memOk) : (doubleFault s grp cause).memOk := modGroup_memOk (stopLaunch_memOk h)

theorem keepReads_memOk {team : Nat} (h : s.memOk) : (keepReads s team).memOk := h

theorem raiseDouble_memOk {grp cause : Nat} (h : s.memOk) : (raiseDouble s grp cause).memOk :=
  memOk_ite (doubleFault_memOk (modGroup_memOk h)) (modGroup_memOk h)

theorem raise_memOk {cs : Sparse Nat} {code : Nat} {tok : Option (Nat × Nat)} {completes : Bool} (h : s.memOk) :
    (s.raise cs code tok completes).memOk :=
  memOk_ite (raiseDouble_memOk h) (memOk_ite (modTeam_memOk (modGroup_memOk
      (standStill_memOk (memOk_ite (keepReads_memOk (modTeam_memOk h))
      (memOk_ite (dropReads_memOk (modTeam_memOk h)) (withdrawReads_memOk (modTeam_memOk h)))))))
      (broadcast_memOk (modGroup_memOk (standStill_memOk (memOk_ite (keepReads_memOk (modTeam_memOk h))
      (memOk_ite (dropReads_memOk (modTeam_memOk h)) (withdrawReads_memOk (modTeam_memOk h))))))))

theorem trapAll_memOk {c : Nat} (h : s.memOk) : (s.trapAll c).memOk := raise_memOk h

theorem trapActive_memOk {active : Lanes} {c : Nat} (h : s.memOk) : (s.trapActive active c).memOk := raise_memOk h

theorem afterHandlers_memOk {team : Nat} (h : s.memOk) : (afterHandlers s team).memOk :=
  memOk_ite h (memOk_ite (broadcast_memOk (modTeam_memOk (modTeam_memOk (foldl_memOk (fun _ _ => broadcast_memOk) h))))
      (modTeam_memOk (foldl_memOk (fun _ _ => broadcast_memOk) h)))

theorem groupExit_memOk {grp : Nat} (h : s.memOk) : (groupExit s grp).memOk :=
  memOk_ite h (memOk_ite (afterHandlers_memOk (noteReturned_memOk (memOk_ite
      (memOk_ite (releaseEngine_memOk (modLaunch_memOk (modTeam_memOk (memOk_ite (modLaunch_memOk (modGroup_memOk h)) (modGroup_memOk h)))))
      (modLaunch_memOk (modTeam_memOk (memOk_ite (modLaunch_memOk (modGroup_memOk h)) (modGroup_memOk h)))))
      (memOk_ite (modLaunch_memOk (modGroup_memOk h)) (modGroup_memOk h)))))
      (noteReturned_memOk (memOk_ite (memOk_ite (releaseEngine_memOk
      (modLaunch_memOk (modTeam_memOk (memOk_ite (modLaunch_memOk (modGroup_memOk h)) (modGroup_memOk h)))))
      (modLaunch_memOk (modTeam_memOk (memOk_ite (modLaunch_memOk (modGroup_memOk h)) (modGroup_memOk h)))))
      (memOk_ite (modLaunch_memOk (modGroup_memOk h)) (modGroup_memOk h)))))

theorem enterHandler_memOk {grp : Nat} (h : s.memOk) : (enterHandler s grp).memOk := by
  dsimp only [enterHandler]
  refine memOk_ite ?_ ?_
  · split
    · exact h
    · exact doubleFault_memOk h
    · next heq1 =>
      split
      · exact h
      · exact doubleFault_memOk h
      · next heq2 => exact modGroup_memOk (memOk_of_acc heq2 (store_memOk (memOk_of_acc heq1 (load_memOk h))))
  · split
    · exact h
    · exact doubleFault_memOk h
    · next heq1 =>
      split
      · exact h
      · exact doubleFault_memOk h
      · next heq2 =>
          exact modGroup_memOk (foldl_memOk (fun _ _ => shelveOp_memOk) (memOk_of_acc heq2 (store_memOk (memOk_of_acc heq1 (store_memOk h)))))

/-! ### Operands and the gate -/

theorem checked_keeps {f : ExtForm} {u : Use} {chk : Lanes → State → Sparse Nat} {act : Lanes → State → State}
    (hact : ∀ x s, s.memOk → (act x s).memOk) : Keeps s (s.checked f u chk act) := by
  dsimp only [State.checked]
  split
  · exact keeps_next trapAll_memOk
  · exact keeps_next id
  · exact keeps_ite (keeps_next (fun h => hact _ _ h)) (keeps_next raise_memOk)

theorem instrAny_keeps {f : ExtForm} {u : Use} {act : Lanes → State → State} (hact : ∀ x s, s.memOk → (act x s).memOk) : Keeps s (s.instrAny f u act)
    :=
  checked_keeps (fun _ _ => hact _ _)

theorem instr_keeps {f : ExtForm} {u : Use} {act : Lanes → State → State} (hact : ∀ x s, s.memOk → (act x s).memOk) : Keeps s (s.instr f u act) :=
  instrAny_keeps (fun _ _ h1 => memOk_ite (advance_memOk h1) (hact _ _ h1))

theorem compute_keeps {f : ExtForm} {u : Use} {words : Nat} {x : State → Lanes → Nat → Nat} : Keeps s (s.compute f u words x) :=
  instr_keeps (fun _ _ h1 => advance_memOk (writeDest_memOk h1))

theorem test_keeps {f : ExtForm} {u : Use} {x : State → Lanes → Nat → Bool} : Keeps s (s.test f u x) :=
  instr_keeps (fun _ _ h1 => advance_memOk (writeTruth_memOk h1))

/-! ### Truth values and completion flags -/

theorem issueFlag_memOk {f : ExtForm} {o : Op} (h : s.memOk) : (s.issueFlag f o).memOk := by
  dsimp only [State.issueFlag]
  refine memOk_ite h ?_
  refine advance_memOk ?_
  split
  · exact issueOp_memOk h
  · exact stallOn_memOk (issueOp_memOk h)

theorem engineOp_memOk {f : ExtForm} {o : Op} (h : s.memOk) : (s.engineOp f o).memOk := memOk_ite h (advance_memOk (issueOp_memOk h))

theorem access_keeps {f : ExtForm} {u : Use} {chk : Lanes → State → Sparse Nat} {act : Lanes → State → State}
    (hact : ∀ x s, s.memOk → (act x s).memOk) : Keeps s (s.access f u chk act) :=
  keeps_ite (keeps_next id) (checked_keeps (fun _ _ h1 => memOk_ite (advance_memOk h1) (hact _ _ h1)))

/-! ### Integer, bit, compare and move instructions -/

theorem unary_keeps {f : ExtForm} {ty : Nat} {x : Nat → Nat} : Keeps s (s.unary f ty x) := compute_keeps

theorem binary_keeps {f : ExtForm} {ty : Nat} {x : Nat → Nat → Nat} : Keeps s (s.binary f ty x) := compute_keeps

theorem ternary_keeps {f : ExtForm} {ty : Nat} {x : Nat → Nat → Nat → Nat} : Keeps s (s.ternary f ty x) := compute_keeps

theorem shift_keeps {f : ExtForm} {ty : Nat} {x : Nat → Nat → Nat} : Keeps s (s.shift f ty x) := compute_keeps

theorem intBinary_keeps {f : ExtForm} {x : Int → Int → Int} : Keeps s (s.intBinary f x) := by
  unfold State.intBinary
  exact binary_keeps

theorem intUnary_keeps {f : ExtForm} {x : Int → Int} : Keeps s (s.intUnary f x) := by
  unfold State.intUnary
  exact unary_keeps

theorem intAdd_keeps {f : ExtForm} : Keeps s (intAdd f s) := intBinary_keeps

theorem intSub_keeps {f : ExtForm} : Keeps s (intSub f s) := intBinary_keeps

theorem intMul_keeps {f : ExtForm} : Keeps s (intMul f s) := intBinary_keeps

theorem execIadd_keeps {f : BaseForm} : Keeps s (execIadd f s) := intAdd_keeps

theorem execIaddX_keeps {f : ExtForm} : Keeps s (execIaddX f s) := intAdd_keeps

theorem execIsub_keeps {f : BaseForm} : Keeps s (execIsub f s) := intSub_keeps

theorem execIsubX_keeps {f : ExtForm} : Keeps s (execIsubX f s) := intSub_keeps

theorem execImul_keeps {f : BaseForm} : Keeps s (execImul f s) := intMul_keeps

theorem execImulX_keeps {f : ExtForm} : Keeps s (execImulX f s) := intMul_keeps

theorem execImad_keeps {f : ExtForm} : Keeps s (execImad f s) := by
  unfold execImad
  exact ternary_keeps

theorem execImulh_keeps {f : ExtForm} : Keeps s (execImulh f s) := by
  unfold execImulh
  exact binary_keeps

theorem execImin_keeps {f : ExtForm} : Keeps s (execImin f s) := by
  unfold execImin
  exact binary_keeps

theorem execImax_keeps {f : ExtForm} : Keeps s (execImax f s) := by
  unfold execImax
  exact binary_keeps

theorem execIabs_keeps {f : ExtForm} : Keeps s (execIabs f s) := intUnary_keeps

theorem execIneg_keeps {f : ExtForm} : Keeps s (execIneg f s) := intUnary_keeps

theorem execIaddc_keeps {f : ExtForm} : Keeps s (execIaddc f s) :=
  instr_keeps (fun _ _ h1 => advance_memOk (writeDest_memOk (writeDest_memOk h1)))

theorem bitsAnd_keeps {f : ExtForm} : Keeps s (bitsAnd f s) := binary_keeps

theorem bitsOr_keeps {f : ExtForm} : Keeps s (bitsOr f s) := binary_keeps

theorem bitsXor_keeps {f : ExtForm} : Keeps s (bitsXor f s) := binary_keeps

theorem bitsNot_keeps {f : ExtForm} : Keeps s (bitsNot f s) := unary_keeps

theorem execAnd_keeps {f : BaseForm} : Keeps s (execAnd f s) := bitsAnd_keeps

theorem execAndX_keeps {f : ExtForm} : Keeps s (execAndX f s) := bitsAnd_keeps

theorem execOr_keeps {f : BaseForm} : Keeps s (execOr f s) := bitsOr_keeps

theorem execOrX_keeps {f : ExtForm} : Keeps s (execOrX f s) := bitsOr_keeps

theorem execXor_keeps {f : BaseForm} : Keeps s (execXor f s) := bitsXor_keeps

theorem execXorX_keeps {f : ExtForm} : Keeps s (execXorX f s) := bitsXor_keeps

theorem execNot_keeps {f : BaseForm} : Keeps s (execNot f s) := bitsNot_keeps

theorem execNotX_keeps {f : ExtForm} : Keeps s (execNotX f s) := bitsNot_keeps

theorem execBfn3_keeps {f : ExtForm} : Keeps s (execBfn3 f s) := ternary_keeps

theorem bitsShl_keeps {f : ExtForm} : Keeps s (bitsShl f s) := shift_keeps

theorem bitsShr_keeps {f : ExtForm} : Keeps s (bitsShr f s) := shift_keeps

theorem bitsSar_keeps {f : ExtForm} : Keeps s (bitsSar f s) := shift_keeps

theorem bitsRot_keeps {f : ExtForm} : Keeps s (bitsRot f s) := shift_keeps

theorem execShl_keeps {f : BaseForm} : Keeps s (execShl f s) := bitsShl_keeps

theorem execShlX_keeps {f : ExtForm} : Keeps s (execShlX f s) := bitsShl_keeps

theorem execShr_keeps {f : BaseForm} : Keeps s (execShr f s) := bitsShr_keeps

theorem execShrX_keeps {f : ExtForm} : Keeps s (execShrX f s) := bitsShr_keeps

theorem execSar_keeps {f : BaseForm} : Keeps s (execSar f s) := bitsSar_keeps

theorem execSarX_keeps {f : ExtForm} : Keeps s (execSarX f s) := bitsSar_keeps

theorem execRot_keeps {f : BaseForm} : Keeps s (execRot f s) := bitsRot_keeps

theorem execRotX_keeps {f : ExtForm} : Keeps s (execRotX f s) := bitsRot_keeps

theorem execPopc_keeps {f : ExtForm} : Keeps s (execPopc f s) := compute_keeps

theorem execClz_keeps {f : ExtForm} : Keeps s (execClz f s) := compute_keeps

theorem execBrev_keeps {f : ExtForm} : Keeps s (execBrev f s) := by
  unfold execBrev
  exact unary_keeps

theorem execBfe_keeps {f : ExtForm} : Keeps s (execBfe f s) := shift_keeps

theorem execBfi_keeps {f : ExtForm} : Keeps s (execBfi f s) := compute_keeps

theorem intCompare_keeps {f : ExtForm} : Keeps s (intCompare f s) := test_keeps

theorem execIcmp_keeps {f : BaseForm} : Keeps s (execIcmp f s) := intCompare_keeps

theorem execIcmpX_keeps {f : ExtForm} : Keeps s (execIcmpX f s) := intCompare_keeps

theorem execIcmpc_keeps {f : ExtForm} : Keeps s (execIcmpc f s) := test_keeps

theorem moveBits_keeps {f : ExtForm} : Keeps s (moveBits f s) := unary_keeps

theorem execMov_keeps {f : BaseForm} : Keeps s (execMov f s) := moveBits_keeps

theorem execMovX_keeps {f : ExtForm} : Keeps s (execMovX f s) := moveBits_keeps

theorem execSel_keeps {f : ExtForm} : Keeps s (execSel f s) := compute_keeps

theorem moveLane_keeps {f : ExtForm} : Keeps s (moveLane f s) := instr_keeps (fun _ _ h1 => advance_memOk (writeDest_memOk h1))

theorem execMovs_keeps {f : BaseForm} : Keeps s (execMovs f s) := moveLane_keeps

theorem execMovsX_keeps {f : ExtForm} : Keeps s (execMovsX f s) := moveLane_keeps

theorem broadcastLane_keeps {f : ExtForm} : Keeps s (broadcastLane f s) := compute_keeps

theorem execBcast_keeps {f : BaseForm} : Keeps s (execBcast f s) := broadcastLane_keeps

theorem execBcastX_keeps {f : ExtForm} : Keeps s (execBcastX f s) := broadcastLane_keeps

theorem execMovp_keeps {f : ExtForm} : Keeps s (execMovp f s) :=
  instr_keeps (fun _ _ h1 => memOk_ite (advance_memOk (modGroup_memOk h1)) (advance_memOk (writeTruth_memOk h1)))

theorem execPerm_keeps {f : ExtForm} : Keeps s (execPerm f s) := ternary_keeps

theorem loadAddress_keeps {f : ExtForm} : Keeps s (loadAddress f s) := shift_keeps

theorem execLea_keeps {f : BaseForm} : Keeps s (execLea f s) := loadAddress_keeps

theorem execLeaX_keeps {f : ExtForm} : Keeps s (execLeaX f s) := loadAddress_keeps

/-! ### Control flow -/

theorem branch_memOk {target : Nat → Nat} (h : s.memOk) : (s.branch target).memOk := modGroup_memOk h

theorem branchBy_keeps {link : Bool} {f : ExtForm} : Keeps s (branchBy link f s) := by
  unfold branchBy
  exact checked_keeps (fun _ _ h1 => branch_memOk (memOk_ite (writeDest_memOk h1) h1))

theorem branchIndirect_keeps {f : ExtForm} : Keeps s (branchIndirect f s) := checked_keeps (fun _ _ => branch_memOk)

theorem execBra_keeps {f : BaseForm} : Keeps s (execBra f s) := branchBy_keeps

theorem execBraX_keeps {f : ExtForm} : Keeps s (execBraX f s) := branchBy_keeps

theorem execBrx_keeps {f : BaseForm} : Keeps s (execBrx f s) := branchIndirect_keeps

theorem execBrxX_keeps {f : ExtForm} : Keeps s (execBrxX f s) := branchIndirect_keeps

theorem execCall_keeps {f : BaseForm} : Keeps s (execCall f s) := branchBy_keeps

theorem execCallX_keeps {f : ExtForm} : Keeps s (execCallX f s) := branchBy_keeps

theorem execRet_keeps {f : BaseForm} : Keeps s (execRet f s) := branchIndirect_keeps

theorem execRetX_keeps {f : ExtForm} : Keeps s (execRetX f s) := branchIndirect_keeps

theorem modJoin_memOk {k : Nat} {x : JoinMask → JoinMask} (h : s.memOk) : (s.modJoin k x).memOk := modGroup_memOk h

theorem execJoin_keeps {f : ExtForm} : Keeps s (execJoin f s) := instr_keeps (fun _ _ h1 => advance_memOk (modJoin_memOk h1))

theorem execLeave_keeps {f : ExtForm} : Keeps s (execLeave f s) := instr_keeps (fun _ _ h1 => advance_memOk (modJoin_memOk h1))

theorem park_memOk {k : Nat} {act : Lanes} {p : Parked} (h : s.memOk) : (s.park k act p).memOk := modGroup_memOk (modJoin_memOk h)

theorem mwaitBy_keeps {bounded : Bool} {f : ExtForm} : Keeps s (mwaitBy bounded f s) :=
  instr_keeps (fun _ _ h1 => memOk_ite h1 (park_memOk h1))

theorem execMwait_keeps {f : ExtForm} : Keeps s (execMwait f s) := mwaitBy_keeps

theorem execMwaitBounded_keeps {f : ExtForm} : Keeps s (execMwaitBounded f s) := mwaitBy_keeps

theorem execElect_keeps {f : ExtForm} : Keeps s (execElect f s) := instr_keeps (fun _ _ h1 => advance_memOk (writeTruth_memOk h1))

theorem execMset_keeps {f : ExtForm} : Keeps s (execMset f s) := instr_keeps (fun _ _ h1 => advance_memOk (modJoin_memOk h1))

theorem execMget_keeps {f : ExtForm} : Keeps s (execMget f s) := instr_keeps (fun _ _ h1 => advance_memOk (writeDest_memOk h1))

theorem execMwaitDeadline_keeps {grp mask : Nat} : Keeps s (execMwaitDeadline grp mask s) :=
  keeps_ite (keeps_next modGroup_memOk) (keeps_next id)

theorem exitGroup_keeps {f : ExtForm} : Keeps s (exitGroup f s) := instr_keeps (fun _ _ h1 => groupExit_memOk (modGroup_memOk h1))

theorem execExit_keeps {f : BaseForm} : Keeps s (execExit f s) := exitGroup_keeps

theorem execExitX_keeps {f : ExtForm} : Keeps s (execExitX f s) := exitGroup_keeps

theorem passOn_keeps {f : ExtForm} : Keeps s (passOn f s) := instr_keeps (fun _ _ => advance_memOk)

theorem execNop_keeps {f : BaseForm} : Keeps s (execNop f s) := passOn_keeps

theorem execNopX_keeps {f : ExtForm} : Keeps s (execNopX f s) := passOn_keeps

theorem yieldSlot_keeps {f : ExtForm} : Keeps s (yieldSlot f s) := instr_keeps (fun _ _ h1 => advance_memOk (modGroup_memOk h1))

theorem execYield_keeps {f : BaseForm} : Keeps s (execYield f s) := yieldSlot_keeps

theorem execYieldX_keeps {f : ExtForm} : Keeps s (execYieldX f s) := yieldSlot_keeps

/-! ### Floating-point and conversion instructions -/

theorem fpUnary_keeps {f : ExtForm} {ty : Nat} {x : Nat → Nat} : Keeps s (s.fpUnary f ty x) := compute_keeps

theorem fpBinary_keeps {f : ExtForm} {ty : Nat} {x : Nat → Nat → Nat} : Keeps s (s.fpBinary f ty x) := compute_keeps

theorem fpTernary_keeps {f : ExtForm} {ty : Nat} {x : Nat → Nat → Nat → Nat} : Keeps s (s.fpTernary f ty x) := compute_keeps

theorem floatAdd_keeps {f : ExtForm} : Keeps s (floatAdd f s) := fpBinary_keeps

theorem floatMul_keeps {f : ExtForm} : Keeps s (floatMul f s) := fpBinary_keeps

theorem floatMin_keeps {f : ExtForm} : Keeps s (floatMin f s) := fpBinary_keeps

theorem execFadd_keeps {f : BaseForm} : Keeps s (execFadd f s) := floatAdd_keeps

theorem execFaddX_keeps {f : ExtForm} : Keeps s (execFaddX f s) := floatAdd_keeps

theorem execFmul_keeps {f : BaseForm} : Keeps s (execFmul f s) := floatMul_keeps

theorem execFmulX_keeps {f : ExtForm} : Keeps s (execFmulX f s) := floatMul_keeps

theorem execFfma_keeps {f : ExtForm} : Keeps s (execFfma f s) := fpTernary_keeps

theorem execFmin_keeps {f : BaseForm} : Keeps s (execFmin f s) := floatMin_keeps

theorem execFminX_keeps {f : ExtForm} : Keeps s (execFminX f s) := floatMin_keeps

theorem execFmax_keeps {f : ExtForm} : Keeps s (execFmax f s) := fpBinary_keeps

theorem execFsub_keeps {f : ExtForm} : Keeps s (execFsub f s) := fpBinary_keeps

theorem packedAdd_keeps {f : ExtForm} : Keeps s (packedAdd f s) := fpBinary_keeps

theorem packedMul_keeps {f : ExtForm} : Keeps s (packedMul f s) := fpBinary_keeps

theorem packedMin_keeps {f : ExtForm} : Keeps s (packedMin f s) := fpBinary_keeps

theorem execHadd2_keeps {f : BaseForm} : Keeps s (execHadd2 f s) := packedAdd_keeps

theorem execHadd2X_keeps {f : ExtForm} : Keeps s (execHadd2X f s) := packedAdd_keeps

theorem execHmul2_keeps {f : BaseForm} : Keeps s (execHmul2 f s) := packedMul_keeps

theorem execHmul2X_keeps {f : ExtForm} : Keeps s (execHmul2X f s) := packedMul_keeps

theorem execHfma2_keeps {f : ExtForm} : Keeps s (execHfma2 f s) := fpTernary_keeps

theorem execHmin2_keeps {f : BaseForm} : Keeps s (execHmin2 f s) := packedMin_keeps

theorem execHmin2X_keeps {f : ExtForm} : Keeps s (execHmin2X f s) := packedMin_keeps

theorem execHmax2_keeps {f : ExtForm} : Keeps s (execHmax2 f s) := fpBinary_keeps

theorem doubleAdd_keeps {f : ExtForm} : Keeps s (doubleAdd f s) := fpBinary_keeps

theorem doubleMul_keeps {f : ExtForm} : Keeps s (doubleMul f s) := fpBinary_keeps

theorem execDadd_keeps {f : BaseForm} : Keeps s (execDadd f s) := doubleAdd_keeps

theorem execDaddX_keeps {f : ExtForm} : Keeps s (execDaddX f s) := doubleAdd_keeps

theorem execDmul_keeps {f : BaseForm} : Keeps s (execDmul f s) := doubleMul_keeps

theorem execDmulX_keeps {f : ExtForm} : Keeps s (execDmulX f s) := doubleMul_keeps

theorem execDfma_keeps {f : ExtForm} : Keeps s (execDfma f s) := fpTernary_keeps

theorem execDmin_keeps {f : ExtForm} : Keeps s (execDmin f s) := fpBinary_keeps

theorem execDmax_keeps {f : ExtForm} : Keeps s (execDmax f s) := fpBinary_keeps

theorem floatCompare_keeps {t : Fmt} {ty : Nat} {f : ExtForm} : Keeps s (floatCompare t ty f s) := test_keeps

theorem execFcmp_keeps {f : BaseForm} : Keeps s (execFcmp f s) := floatCompare_keeps

theorem execFcmpX_keeps {f : ExtForm} : Keeps s (execFcmpX f s) := floatCompare_keeps

theorem execDcmp_keeps {f : BaseForm} : Keeps s (execDcmp f s) := floatCompare_keeps

theorem execDcmpX_keeps {f : ExtForm} : Keeps s (execDcmpX f s) := floatCompare_keeps

theorem execFclass_keeps {f : ExtForm} : Keeps s (execFclass f s) := test_keeps

theorem specialIssue_keeps {k : Nat} {f : ExtForm} : Keeps s (specialIssue k f s) := instr_keeps (fun _ _ => issueFlag_memOk)

theorem execFrcp_keeps {f : BaseForm} : Keeps s (execFrcp f s) := specialIssue_keeps

theorem execFrcpX_keeps {f : ExtForm} : Keeps s (execFrcpX f s) := specialIssue_keeps

theorem execFrsq_keeps {f : BaseForm} : Keeps s (execFrsq f s) := specialIssue_keeps

theorem execFrsqX_keeps {f : ExtForm} : Keeps s (execFrsqX f s) := specialIssue_keeps

theorem execFsqrt_keeps {f : BaseForm} : Keeps s (execFsqrt f s) := specialIssue_keeps

theorem execFsqrtX_keeps {f : ExtForm} : Keeps s (execFsqrtX f s) := specialIssue_keeps

theorem execFexp2_keeps {f : BaseForm} : Keeps s (execFexp2 f s) := specialIssue_keeps

theorem execFexp2X_keeps {f : ExtForm} : Keeps s (execFexp2X f s) := specialIssue_keeps

theorem execFlog2_keeps {f : ExtForm} : Keeps s (execFlog2 f s) := specialIssue_keeps

theorem execFsin_keeps {f : ExtForm} : Keeps s (execFsin f s) := specialIssue_keeps

theorem execFcos_keeps {f : ExtForm} : Keeps s (execFcos f s) := specialIssue_keeps

theorem execFtanh_keeps {f : ExtForm} : Keeps s (execFtanh f s) := specialIssue_keeps

theorem execSpecialFunctionLand_keeps {op : Nat} : Keeps s (execSpecialFunctionLand op s) :=
  keeps_ite (keeps_next flagDone_memOk) (keeps_next id)

theorem convert_keeps {f : ExtForm} : Keeps s (convert f s) := compute_keeps

theorem execCvt_keeps {f : BaseForm} : Keeps s (execCvt f s) := convert_keeps

theorem execCvtX_keeps {f : ExtForm} : Keeps s (execCvtX f s) := convert_keeps

theorem roundIntegral_keeps {f : ExtForm} : Keeps s (roundIntegral f s) := fpUnary_keeps

theorem execFrnd_keeps {f : BaseForm} : Keeps s (execFrnd f s) := roundIntegral_keeps

theorem execFrndX_keeps {f : ExtForm} : Keeps s (execFrndX f s) := roundIntegral_keeps

theorem pack_keeps {f : ExtForm} : Keeps s (pack f s) := compute_keeps

theorem execCpack_keeps {f : BaseForm} : Keeps s (execCpack f s) := pack_keeps

theorem execCpackX_keeps {f : ExtForm} : Keeps s (execCpackX f s) := pack_keeps

theorem unpack_keeps {f : ExtForm} : Keeps s (unpack f s) := compute_keeps

theorem execCunpk_keeps {f : BaseForm} : Keeps s (execCunpk f s) := unpack_keeps

theorem execCunpkX_keeps {f : ExtForm} : Keeps s (execCunpkX f s) := unpack_keeps

/-! ### Lane exchange, votes, group reductions and scans -/

theorem shuffleIssue_keeps {k : Nat} {f : ExtForm} : Keeps s (shuffleIssue k f s) := instr_keeps (fun _ _ => issueFlag_memOk)

theorem execShf_keeps {f : BaseForm} : Keeps s (execShf f s) := shuffleIssue_keeps

theorem execShfX_keeps {f : ExtForm} : Keeps s (execShfX f s) := shuffleIssue_keeps

theorem execShfup_keeps {f : BaseForm} : Keeps s (execShfup f s) := shuffleIssue_keeps

theorem execShfupX_keeps {f : ExtForm} : Keeps s (execShfupX f s) := shuffleIssue_keeps

theorem execShfdn_keeps {f : BaseForm} : Keeps s (execShfdn f s) := shuffleIssue_keeps

theorem execShfdnX_keeps {f : ExtForm} : Keeps s (execShfdnX f s) := shuffleIssue_keeps

theorem execShfx_keeps {f : BaseForm} : Keeps s (execShfx f s) := shuffleIssue_keeps

theorem execShfxX_keeps {f : ExtForm} : Keeps s (execShfxX f s) := shuffleIssue_keeps

theorem execShuffleLand_keeps {op : Nat} : Keeps s (execShuffleLand op s) := keeps_ite (keeps_next flagDone_memOk) (keeps_next id)

theorem voteTruth_keeps {f : ExtForm} {y : State → Lanes → Bool} : Keeps s (voteTruth f s y) := test_keeps

theorem voteAll_keeps {f : ExtForm} : Keeps s (voteAll f s) := voteTruth_keeps

theorem voteAny_keeps {f : ExtForm} : Keeps s (voteAny f s) := voteTruth_keeps

theorem ballot_keeps {f : ExtForm} : Keeps s (ballot f s) := compute_keeps

theorem matchLanes_keeps {f : ExtForm} : Keeps s (matchLanes f s) := compute_keeps

theorem execVall_keeps {f : BaseForm} : Keeps s (execVall f s) := voteAll_keeps

theorem execVallX_keeps {f : ExtForm} : Keeps s (execVallX f s) := voteAll_keeps

theorem execVany_keeps {f : BaseForm} : Keeps s (execVany f s) := voteAny_keeps

theorem execVanyX_keeps {f : ExtForm} : Keeps s (execVanyX f s) := voteAny_keeps

theorem execVbal_keeps {f : BaseForm} : Keeps s (execVbal f s) := ballot_keeps

theorem execVbalX_keeps {f : ExtForm} : Keeps s (execVbalX f s) := ballot_keeps

theorem execVmatch_keeps {f : BaseForm} : Keeps s (execVmatch f s) := matchLanes_keeps

theorem execVmatchX_keeps {f : ExtForm} : Keeps s (execVmatchX f s) := matchLanes_keeps

theorem execVuni_keeps {f : ExtForm} : Keeps s (execVuni f s) := test_keeps

theorem groupReduce_keeps {f : ExtForm} : Keeps s (groupReduce f s) := compute_keeps

theorem execGred_keeps {f : BaseForm} : Keeps s (execGred f s) := groupReduce_keeps

theorem execGredX_keeps {f : ExtForm} : Keeps s (execGredX f s) := groupReduce_keeps

theorem groupScan_keeps {f : ExtForm} : Keeps s (groupScan f s) := compute_keeps

theorem execGscan_keeps {f : BaseForm} : Keeps s (execGscan f s) := groupScan_keeps

theorem execGscanX_keeps {f : ExtForm} : Keeps s (execGscanX f s) := groupScan_keeps

end Kept

end Sys2Proof.Proofs


/-! Memory stays in canonical form (log 1): accesses to memory, the pod, order, tokens, registers and the frontier. -/

namespace Sys2Proof.Proofs

open Sys2Proof Sys2Proof.Machine Sys2Proof.Rules

section Kept

variable {s : State}

/-! ### Parts of accesses of groups -/

theorem levelWrite_memOk {o : Op} {k : Nat} {bs : List Byte} (h : s.memOk) : (levelWrite s o k bs).memOk := by
  dsimp only [levelWrite]
  split
  exacts [scrWrite_memOk h, laneWrite_memOk h, scrWrite_memOk h, dieWrite_memOk h]

theorem levelPart_memOk {id k : Nat} (h : s.memOk) : (levelPart s id k).memOk := modOp_memOk (memOk_ite (levelWrite_memOk h) h)

theorem performLevel_memOk {id k : Nat} (h : s.memOk) : (performLevel s id k).memOk := memOk_ite h (levelPart_memOk h)

theorem performOlder_memOk {grp upto a n : Nat} (h : s.memOk) : (performOlder s grp upto a n).memOk :=
  foldl_memOk (fun _ _ => levelPart_memOk) h

theorem performLevelAll_memOk {id : Nat} (h : s.memOk) : (performLevelAll s id).memOk := by
  dsimp only [performLevelAll]
  refine foldl_memOk (fun _ _ h1 => ?_) h
  refine levelPart_memOk ?_
  split
  · exact performOlder_memOk h1
  · exact h1

theorem failPart_memOk {id k cause : Nat} (h : s.memOk) : (failPart s id k cause).memOk := modOp_memOk h

theorem recall_wf {m : Memory} {line die : Nat} {st : Store} (h : m.wf) : (m.recall line die st).wf := by
  unfold Memory.recall
  exact h

theorem readCached_memOk {die a key n : Nat} (h : s.memOk) : AccMemOk (readCached s die a key n) := by
  dsimp only [readCached]
  refine accMemOk_ite accMemOk_wait ?_
  split
  · exact accMemOk_fail
  · next heq1 => exact accMemOk_ok (install_memOk (memOk_of_ok heq1 (readBytes_memOk (beforeRead_memOk (dropClash_memOk h)))))

theorem readHome_memOk {a key n : Nat} (h : s.memOk) : AccMemOk (readHome s a key n) := by
  dsimp only [readHome]
  split
  · exact accMemOk_fail
  · next heq1 => exact accMemOk_ok (memOk_of_ok heq1 (homeRead_memOk h))

theorem writeHome_memOk {a key seq : Nat} {bs : List Byte} (h : s.memOk) : AccMemOk (writeHome s a key seq bs) := by
  dsimp only [writeHome]
  split
  · exact accMemOk_fail
  · exact accMemOk_ok (Laws.homeWrite_wf _ _ _ _ (beforeWrite_memOk h))

theorem putCopy_memOk {st : Store} (h : s.memOk) : AccMemOk (putCopy s st) := by
  dsimp only [putCopy]
  refine accMemOk_ite accMemOk_wait ?_
  split
  · exact accMemOk_fail
  · split
    · exact accMemOk_ite accMemOk_wait (homeWritten_memOk (dropClash_memOk h))
    · next heq2 => exact accMemOk_ok (modMem_memOk (fun _ h3 => h3) (memOk_of_some heq2 (takeLine_memOk (dropClash_memOk h))))

theorem putPending_memOk {st : Store} (h : s.memOk) : AccMemOk (putPending s st) :=
  accMemOk_ite accMemOk_wait (accMemOk_ok (modMem_memOk (fun _ h1 => h1) h))

theorem storeCopy_memOk {id k a key : Nat} {bs : List Byte} (h : s.memOk) : AccMemOk (storeCopy s id k a key bs) :=
  accMemOk_ite accMemOk_wait (putCopy_memOk h)

theorem bindPending_memOk {id k a key : Nat} {bs : List Byte} (h : s.memOk) : AccMemOk (bindPending s id k a key bs) :=
  accMemOk_ite accMemOk_wait (putPending_memOk h)

theorem atomicHome_memOk {id k a key : Nat} (h : s.memOk) : AccMemOk (atomicHome s id k a key) := by
  dsimp only [atomicHome]
  refine accMemOk_ite accMemOk_wait ?_
  split
  · exact accMemOk_wait
  · exact accMemOk_fail
  · next heq1 =>
    split
    · exact accMemOk_wait
    · exact accMemOk_fail
    · next heq2 => exact accMemOk_ok (modMem_memOk (fun _ => recall_wf) (memOk_of_acc heq2 (writeHome_memOk (memOk_of_acc heq1 (readHome_memOk h)))))

/-- What a store after a read leaves, where the store keeps memory. -/
theorem accMemOk_stored {w : Machine.Acc Unit} {old : List Byte} {home : Bool} (hw : AccMemOk w) : AccMemOk (match w with
    | .wait => Machine.Acc.wait
    | .fail c x => .fail c x
    | .ok _ s2 => .ok (old, home) s2) := by
  cases w with
  | wait => exact accMemOk_wait
  | fail c x => exact accMemOk_fail
  | ok u s => exact accMemOk_ok (hw u s rfl)

theorem accMemOk_andStore {r : Machine.Acc (List Byte)} {w : List Byte → State → Machine.Acc Unit} {reads home : Bool} (hr : AccMemOk r)
    (hw : ∀ old (s : State), s.memOk → AccMemOk (w old s)) : AccMemOk (match r with
    | .wait => Machine.Acc.wait
    | .fail c x => .fail c x
    | .ok old s1 =>
      if reads then .ok (old, true) s1
      else
        match w old s1 with
        | .wait => .wait
        | .fail c x => .fail c x
        | .ok _ s2 => .ok (old, home) s2) := by
  cases r with
  | wait => exact accMemOk_wait
  | fail c x => exact accMemOk_fail
  | ok old s =>
    have h := hr old s rfl
    exact accMemOk_ite (accMemOk_ok h) (accMemOk_stored (hw old s h))

theorem placePart_memOk {id k : Nat} {p : Place} (h : s.memOk) : AccMemOk (placePart s id k p) := by
  cases p with
  | bad c => exact accMemOk_fail
  | bank off =>
    dsimp only [placePart]
    exact accMemOk_ite (accMemOk_ok h) (accMemOk_ok (dieWrite_memOk h))
  | home a key =>
    dsimp only [placePart]
    refine accMemOk_ite accMemOk_wait ?_
    exact accMemOk_andStore (accMemOk_ite (accMemOk_ok h) (readHome_memOk h)) fun _ _ => homeWritten_memOk
  | cached a key =>
    dsimp only [placePart]
    refine accMemOk_ite (accMemOk_ite accMemOk_wait ?_) (accMemOk_ite ?_ (accMemOk_ite (accMemOk_ite ?_ ?_) (accMemOk_ite ?_ (accMemOk_ite ?_ ?_))))
    · split
      · exact accMemOk_wait
      · exact accMemOk_fail
      · next heq1 =>
        have hread := memOk_of_acc heq1 (readHome_memOk h)
        exact accMemOk_ite (accMemOk_ok hread) (accMemOk_ok hread)
    · split
      · exact accMemOk_wait
      · exact accMemOk_fail
      · next heq1 =>
        have hread := memOk_of_acc heq1 (readCached_memOk h)
        exact accMemOk_ite (accMemOk_ok hread) (accMemOk_ok hread)
    · exact accMemOk_andStore (readCached_memOk h) fun _ _ => bindPending_memOk
    · exact accMemOk_ite (accMemOk_ok h) (accMemOk_stored (bindPending_memOk h))
    · split
      · exact accMemOk_wait
      · exact accMemOk_fail
      · next heq1 => exact accMemOk_ok (memOk_of_acc heq1 (atomicHome_memOk h))
    · exact accMemOk_andStore (readCached_memOk h) fun _ _ => storeCopy_memOk
    · exact accMemOk_ite (accMemOk_ok h) (accMemOk_stored (storeCopy_memOk h))

theorem leaveLine_memOk {r : Request} (h : s.memOk) : (leaveLine s r).memOk := memOk_ite h (modHost_memOk h)

/-- R230: what a part in turn has performed. -/
theorem arrivedPart_ok {s t u : State} {id k : Nat} {p : Place} {x : List Byte × Bool} (h : s.memOk)
    (hpart : arrivedPart s id k p = (t, some (.ok x u))) : u.memOk := by
  unfold arrivedPart at hpart
  split at hpart
  · obtain ⟨-, hacc⟩ := Prod.mk.inj hpart
    exact memOk_of_acc (Option.some.inj hacc) (placePart_memOk h)
  · split at hpart
    · cases hpart
    · split at hpart
      · cases hpart
      · obtain ⟨-, hacc⟩ := Prod.mk.inj hpart
        exact memOk_of_acc (Option.some.inj hacc) (placePart_memOk h)

theorem globalPart_memOk {id k : Nat} (h : s.memOk) : (globalPart s id k).memOk := by
  dsimp only [globalPart]
  split
  · exact memOk_ite h (failPart_memOk h)
  · next heq1 =>
    have hleaf := memOk_of_ok heq1 (translateFor_memOk h)
    split
    · exact h
    · exact leaveLine_memOk (failPart_memOk (modOp_memOk hleaf))
    · next heq2 =>
      have hpart := arrivedPart_ok (modOp_memOk hleaf) heq2
      exact leaveLine_memOk (modOp_memOk (memOk_ite (modCore_memOk hpart) hpart))
    · exact h

theorem performPart_memOk {id k : Nat} (h : s.memOk) : (performPart s id k).memOk :=
  memOk_ite h (memOk_ite h (memOk_ite (levelPart_memOk h) (memOk_ite h (globalPart_memOk h))))

theorem performTurn_memOk {id k : Nat} (h : s.memOk) : (performTurn s id k).memOk :=
  memOk_ite (performPart_memOk h) (foldl_memOk (fun _ _ => performPart_memOk) h)

/-! ### Invalidations and bias -/

theorem discardCode_memOk {o : Op} (h : s.memOk) : (discardCode s o).memOk := modXlat_memOk h

theorem removeLeaves_memOk {o : Op} (h : s.memOk) : (removeLeaves s o).memOk := modXlat_memOk h

theorem tlbStep_memOk {id : Nat} (h : s.memOk) : (tlbStep s id).1.memOk := memOk_ite (modOp_memOk (removeLeaves_memOk h)) h

theorem biasFail_memOk {id cause : Nat} (h : s.memOk) : (biasFail s id cause).memOk := modOp_memOk h

theorem biasAsk_memOk {id : Nat} {k : Nat} (h : s.memOk) : (biasAsk id s k).memOk := by
  dsimp only [biasAsk]
  split
  · exact biasFail_memOk h
  · next heq1 =>
    have hs1 := memOk_of_ok heq1 (translate_memOk h)
    exact memOk_ite (biasFail_memOk (modOp_memOk hs1)) (memOk_ite (modOp_memOk hs1) (memOk_ite (modOp_memOk hs1) (modHost_memOk (modOp_memOk hs1))))

theorem biasStep_memOk {id : Nat} (h : s.memOk) : (biasStep s id).1.memOk := by
  unfold biasStep
  exact fst_memOk_ite (fst_memOk_ite (modOp_memOk (foldl_memOk (fun _ _ => biasAsk_memOk) h)) h) h

theorem endFlip_memOk {granule : Nat} {bias : Bool} (h : s.memOk) : (endFlip s granule bias).memOk := modHost_memOk h

theorem execBiasFlipHost_keeps {granule : Nat} : Keeps s (execBiasFlipHost granule s) := by
  dsimp only [execBiasFlipHost]
  split
  · exact keeps_next id
  · exact keeps_ite (keeps_next id) (keeps_next (fun h => endFlip_memOk (modMem_memOk (fun _ h2 => h2) h)))

theorem execBiasFlipDevice_keeps {granule : Nat} : Keeps s (execBiasFlipDevice granule s) := by
  dsimp only [execBiasFlipDevice]
  split
  · exact keeps_next id
  · exact keeps_ite (keeps_next endFlip_memOk) (keeps_ite (keeps_next (fun h => modHost_memOk (foldl_memOk (fun _ _ => send_memOk) h)))
        (keeps_ite (keeps_next endFlip_memOk) (keeps_next id)))

theorem execBirspiReceived_keeps {granule line : Nat} {dirty : Option Nat} : Keeps s (execBirspiReceived granule line dirty s) := by
  dsimp only [execBirspiReceived]
  split
  · exact keeps_next id
  · refine keeps_ite ?_ (keeps_next id)
    refine keeps_next (fun h => ?_)
    refine modHost_memOk ?_
    refine dropHostCopy_memOk ?_
    split
    · exact hostPut_memOk h
    · exact h

/-! ### Instructions of the scratchpads and of global memory, forwarding and acknowledgement -/

theorem levelAccess_keeps {major idx : Nat} {f : ExtForm} {go : State → Op → State} (hgo : ∀ s x, s.memOk → (go s x).memOk) : Keeps s
    (levelAccess major idx f s go) :=
  access_keeps (fun _ _ => hgo _ _)

theorem levelFlag_keeps {kind : OpKind} {major idx : Nat} {f : ExtForm} : Keeps s (levelFlag kind major idx f s) :=
  levelAccess_keeps (fun _ _ => issueFlag_memOk)

theorem levelStore_keeps {major : Nat} {f : ExtForm} : Keeps s (levelStore major f s) :=
  levelAccess_keeps (fun _ _ h1 => advance_memOk (dropOp_memOk (performLevelAll_memOk (newOp_memOk h1))))

theorem levelPosted_keeps {idx : Nat} {f : ExtForm} : Keeps s (levelPosted idx f s) :=
  levelAccess_keeps (fun _ _ h1 => advance_memOk (newOp_memOk h1))

theorem levelToken_keeps {idx : Nat} {f : ExtForm} : Keeps s (levelToken idx f s) := levelAccess_keeps (fun _ _ => engineOp_memOk)

theorem execLds_keeps {f : BaseForm} : Keeps s (execLds f s) := levelFlag_keeps

theorem execLdsX_keeps {f : ExtForm} : Keeps s (execLdsX f s) := levelFlag_keeps

theorem execSts_keeps {f : BaseForm} : Keeps s (execSts f s) := levelStore_keeps

theorem execStsX_keeps {f : ExtForm} : Keeps s (execStsX f s) := levelStore_keeps

theorem execAtms_keeps {f : ExtForm} : Keeps s (execAtms f s) := levelFlag_keeps

theorem execLdl_keeps {f : BaseForm} : Keeps s (execLdl f s) := levelFlag_keeps

theorem execLdlX_keeps {f : ExtForm} : Keeps s (execLdlX f s) := levelFlag_keeps

theorem execStl_keeps {f : BaseForm} : Keeps s (execStl f s) := levelStore_keeps

theorem execStlX_keeps {f : ExtForm} : Keeps s (execStlX f s) := levelStore_keeps

theorem execLdc_keeps {f : ExtForm} : Keeps s (execLdc f s) := levelFlag_keeps

theorem execStc_keeps {f : ExtForm} : Keeps s (execStc f s) := levelPosted_keeps

theorem execCput_keeps {f : ExtForm} : Keeps s (execCput f s) := levelPosted_keeps

theorem execAtmc_keeps {f : ExtForm} : Keeps s (execAtmc f s) := levelFlag_keeps

theorem execLdd_keeps {f : ExtForm} : Keeps s (execLdd f s) := levelToken_keeps

theorem execStd_keeps {f : ExtForm} : Keeps s (execStd f s) := levelToken_keeps

theorem execScratchpadLoadLand_keeps {op : Nat} : Keeps s (execScratchpadLoadLand op s) :=
  keeps_ite (keeps_next (fun h => flagDone_memOk (modOp_memOk (performLevelAll_memOk h)))) (keeps_next id)

theorem execScratchpadAtomicLand_keeps {op : Nat} : Keeps s (execScratchpadAtomicLand op s) :=
  keeps_ite (keeps_next (fun h => flagDone_memOk (performLevelAll_memOk h))) (keeps_next id)

theorem postedEnd_memOk {op : Nat} (h : s.memOk) : (postedEnd s op).memOk := memOk_ite (dropOp_memOk h) h

theorem execPostedWriteLand_keeps {op lane : Nat} : Keeps s (execPostedWriteLand op lane s) := by
  dsimp only [execPostedWriteLand]
  refine keeps_ite ?_ (keeps_next id)
  refine keeps_next (fun h => ?_)
  refine postedEnd_memOk ?_
  refine foldl_memOk (fun _ _ h1 => ?_) h
  refine performLevel_memOk ?_
  split
  · exact performOlder_memOk h1
  · exact h1

theorem execCputIncrement_keeps {op team : Nat} : Keeps s (execCputIncrement op team s) :=
  keeps_ite (keeps_next (fun h => postedEnd_memOk (modOp_memOk (memOk_ite (modCore_memOk h) h)))) (keeps_next id)

theorem execDieScratchpadRetire_keeps {op : Nat} : Keeps s (execDieScratchpadRetire op s) :=
  keeps_ite (keeps_next (fun h => finishOp_memOk (modOp_memOk h))) (keeps_next id)

theorem globalAccess_keeps {idx : Nat} {f : ExtForm} : Keeps s (globalAccess idx f s) := access_keeps (fun _ _ => engineOp_memOk)

theorem execLdg_keeps {f : ExtForm} : Keeps s (execLdg f s) := globalAccess_keeps

theorem execStg_keeps {f : ExtForm} : Keeps s (execStg f s) := globalAccess_keeps

theorem execAtg_keeps {f : ExtForm} : Keeps s (execAtg f s) := globalAccess_keeps

theorem execRedg_keeps {f : ExtForm} : Keeps s (execRedg f s) := globalAccess_keeps

theorem execPref_keeps {f : ExtForm} : Keeps s (execPref f s) := access_keeps (fun _ _ => advance_memOk)

theorem lineAccess_keeps {kind : OpKind} {idx : Nat} {scopes : List Nat} {f : ExtForm} : Keeps s (lineAccess kind idx scopes f s) :=
  access_keeps (fun _ _ => engineOp_memOk)

theorem execCclean_keeps {f : ExtForm} : Keeps s (execCclean f s) := lineAccess_keeps

theorem execCinval_keeps {f : ExtForm} : Keeps s (execCinval f s) := lineAccess_keeps

theorem cleanLine_memOk {id lane : Nat} (h : s.memOk) : SomeMemOk (cleanLine s id lane) := by
  dsimp only [cleanLine]
  split
  · exact someMemOk_ite someMemOk_none (someMemOk_some (modOp_memOk h))
  · next heq1 =>
    have hs1 := memOk_of_ok heq1 (translate_memOk h)
    refine someMemOk_ite (someMemOk_some hs1) ?_
    split
    · exact someMemOk_some (modOp_memOk hs1)
    · exact someMemOk_some hs1
    · exact someMemOk_some hs1
    · exact someMemOk_ite someMemOk_none (someMemOk_some (memOk_ite (modMem_memOk (fun _ => invalidate_wf)
          (memOk_ite (modMem_memOk (fun _ h3 => h3) hs1) hs1)) (memOk_ite (modMem_memOk (fun _ h3 => h3) hs1) hs1)))

theorem cleanLines_memOk {id : Nat} {ls : List Nat} (h : s.memOk) : SomeMemOk (cleanLines s id ls) := by
  induction ls generalizing s with
  | nil => exact someMemOk_some h
  | cons l ls ih =>
    rw [cleanLines]
    split
    · exact someMemOk_none
    · next heq1 => exact ih (cleanLine_memOk h _ heq1)

theorem unlose_memOk {o : Op} (h : s.memOk) : (unlose s o).memOk := by
  dsimp only [unlose]
  refine memOk_ite h ?_
  refine foldl_memOk (fun _ _ h1 => ?_) h
  split
  · exact h1
  · exact modMem_memOk (fun _ => found_wf) h1

theorem execGlobalAccessRetire_keeps {op : Nat} : Keeps s (execGlobalAccessRetire op s) := by
  dsimp only [execGlobalAccessRetire]
  refine keeps_ite (keeps_next id) ?_
  refine keeps_ite (keeps_ite (keeps_next (fun h => finishOp_memOk (modOp_memOk (memOk_ite (unlose_memOk h) h)))) (keeps_next id)) ?_
  refine keeps_ite ?_ (keeps_ite (keeps_next (fun h => finishOp_memOk (discardCode_memOk h)))
      (keeps_ite (keeps_next (fun h => memOk_ite (finishOp_memOk (tlbStep_memOk h)) (tlbStep_memOk h)))
      (keeps_ite (keeps_next (fun h => memOk_ite (finishOp_memOk (biasStep_memOk h)) (biasStep_memOk h))) (keeps_next id))))
  split
  · exact keeps_next id
  · next heq1 => exact keeps_next (fun h => finishOp_memOk (memOk_of_some heq1 (cleanLines_memOk h)))

theorem failStore_memOk {st : Store} {cause : Nat} (h : s.memOk) : (failStore s st cause).memOk :=
  memOk_ite (modBarge_memOk h) (memOk_ite (modOp_memOk h) (failPart_memOk h))

theorem forward_memOk {st : Store} (h : s.memOk) : (forward s st).memOk := by
  dsimp only [forward]
  split
  · exact failStore_memOk (invalidate_wf (Laws.homeWrite_wf _ _ _ _ (beforeWrite_memOk (modMem_memOk (fun _ h2 => h2) h))))
  · exact dropFlushed_memOk (modOp_memOk (Laws.wf_of_cells _ _ rfl (Laws.homeWrite_wf _ _ _ _ (beforeWrite_memOk (modMem_memOk (fun _ h2 => h2) h)))))

theorem execEfStoreForward_keeps {agent : Nat} : Keeps s (execEfStoreForward agent s) := by
  dsimp only [execEfStoreForward]
  refine keeps_ite (keeps_next id) ?_
  split
  exacts [keeps_next id, keeps_next forward_memOk, keeps_next (fun h => forward_memOk (took_memOk h))]

theorem acknowledge_memOk {st : Store} (h : s.memOk) : (acknowledge s st).memOk := by
  dsimp only [acknowledge]
  refine memOk_ite ?_ ?_
  · split
    · exact failPart_memOk (modMem_memOk (fun _ h2 => h2) h)
    · next heq1 =>
      have hs1 := memOk_of_ok heq1 (homeRead_memOk (modMem_memOk (fun _ h1 => h1) h))
      split
      · exact failStore_memOk (Laws.homeWrite_wf _ _ _ _ (beforeWrite_memOk hs1))
      · exact modOp_memOk (wf_ite (found_wf (invalidateAll_wf (Laws.homeWrite_wf _ _ _ _ (beforeWrite_memOk hs1))))
            (invalidateAll_wf (Laws.homeWrite_wf _ _ _ _ (beforeWrite_memOk hs1))))
  · split
    · exact failStore_memOk (Laws.homeWrite_wf _ _ _ _ (beforeWrite_memOk (modMem_memOk (fun _ h2 => h2) h)))
    · exact modOp_memOk (wf_ite (found_wf (invalidateAll_wf (Laws.homeWrite_wf _ _ _ _ (beforeWrite_memOk (modMem_memOk (fun _ h2 => h2) h)))))
          (invalidateAll_wf (Laws.homeWrite_wf _ _ _ _ (beforeWrite_memOk (modMem_memOk (fun _ h2 => h2) h)))))

theorem execGaStoreAcknowledge_keeps {op k : Nat} : Keeps s (execGaStoreAcknowledge op k s) := by
  dsimp only [execGaStoreAcknowledge]
  split
  · exact keeps_next id
  · exact keeps_next acknowledge_memOk

theorem loseBytes_memOk {key a : Nat} {bs : List Byte} (h : s.memOk) : (loseBytes s key a bs).memOk := by
  dsimp only [loseBytes]
  split
  · exact h
  · exact modMem_memOk (fun _ h2 => h2) h

theorem losePart_memOk {id k : Nat} (h : s.memOk) : (losePart s id k).memOk := by
  dsimp only [losePart]
  split
  · exact h
  · split
    · exact loseBytes_memOk h
    · split
      · exact h
      · exact loseBytes_memOk h

theorem losePodPart_memOk {op : Nat} {p : Nat × Nat × Nat} (h : s.memOk) : (losePodPart op s p).memOk := by
  dsimp only [losePodPart]
  split
  · exact h
  · refine memOk_ite h ?_
    split
    · exact h
    · refine memOk_ite (loseBytes_memOk h) ?_
      split
      · exact h
      · exact loseBytes_memOk h

theorem losePod_memOk {op : Nat} (h : s.memOk) : (losePod s op).memOk :=
  finishOp_memOk (modCore_memOk (foldl_memOk (fun _ _ => losePodPart_memOk) h))

theorem execAckLost_keeps {op : Nat} : Keeps s (execAckLost op s) :=
  keeps_ite (keeps_next id) (keeps_ite (keeps_next losePod_memOk) (keeps_next
      (fun h => finishOp_memOk (modMem_memOk (fun _ h1 => h1) (foldl_memOk (fun _ _ => losePart_memOk) h)))))

theorem loseStore_memOk {st : Store} (h : s.memOk) : (loseStore s st).memOk :=
  failStore_memOk (modMem_memOk (fun _ h1 => h1) (loseBytes_memOk h))

theorem loseOverdue_memOk {core : Nat} (h : s.memOk) : (loseOverdue s core).memOk := by
  dsimp only [loseOverdue]
  refine foldl_memOk (fun _ _ => loseStore_memOk) ?_
  refine foldl_memOk (fun _ _ h1 => ?_) h
  split
  · next heq2 => exact memOk_of_next heq2 execAckLost_keeps h1
  · exact h1

/-! ### Requests to peers -/

theorem podFail_memOk {id part va n cause : Nat} (h : s.memOk) : (podFail s id part va n cause).memOk := modOp_memOk h

theorem dropEntry_memOk {core : Nat} {e : WcEntry} (h : s.memOk) : (dropEntry s core e).memOk := modCore_memOk h

theorem sendBy_memOk {n bytes : Nat} {m : Flit → Message} (h : s.memOk) : (sendBy s n bytes m).memOk := modStation_memOk (send_memOk h)

theorem sendTo_memOk {peer line bytes : Nat} {m : Flit → Message} (h : s.memOk) : (sendTo s peer line bytes m).memOk := by
  dsimp only [sendTo]
  split
  · exact h
  · exact sendBy_memOk h

theorem goodFlit_memOk {n : Nat} (h : s.memOk) : (goodFlit s n).memOk := modStation_memOk h

theorem failEntry_memOk {core : Nat} {e : WcEntry} {c : Nat} (h : s.memOk) : (failEntry s core e c).memOk :=
  foldl_memOk (fun _ _ h1 => memOk_ite (foldl_memOk (fun _ _ => podFail_memOk) h1) h1) (dropEntry_memOk h)

theorem sendEntry_memOk {core : Nat} {e : WcEntry} (h : s.memOk) : (sendEntry core s e).memOk := by
  dsimp only [sendEntry]
  refine memOk_ite h ?_
  split
  exacts [h, failEntry_memOk h, modCore_memOk (sendBy_memOk h)]

theorem sendEntries_memOk {core : Nat} (h : s.memOk) : (sendEntries s core).memOk := foldl_memOk (fun _ _ => sendEntry_memOk) h

theorem drainEntries_memOk {core : Nat} {sel : WcEntry → Bool} (h : s.memOk) : (drainEntries s core sel).memOk :=
  sendEntries_memOk (modCore_memOk h)

theorem sendPart_memOk {id : Nat} {p : Nat × Nat × Nat} (h : s.memOk) : (sendPart id s p).memOk := by
  dsimp only [sendPart]
  split
  · exact h
  · refine memOk_ite h ?_
    split
    exacts [h, modOp_memOk (podFail_memOk h), modOp_memOk (sendBy_memOk h)]

theorem sendParts_memOk {id : Nat} (h : s.memOk) : (sendParts s id).memOk := memOk_ite h (foldl_memOk (fun _ _ => sendPart_memOk) h)

theorem sendHeld_memOk {core : Nat} (h : s.memOk) : (sendHeld s core).memOk :=
  foldl_memOk (fun _ _ => sendParts_memOk) (sendEntries_memOk h)

theorem goodFlits_memOk {ns : List Nat} (h : s.memOk) : (goodFlits s ns).memOk := foldl_memOk (fun _ _ => goodFlit_memOk) h

theorem sendAnswer_memOk {a : Answer} (h : s.memOk) : (sendAnswer s a).memOk := by
  dsimp only [sendAnswer]
  split
  · exact h
  · exact sendBy_memOk h

theorem payOwed_memOk (h : s.memOk) : (payOwed s).memOk := memOk_ite h (foldl_memOk (fun _ _ => sendAnswer_memOk) (modFabric_memOk h))

/-! ### What a release waits for -/

theorem fenceStep_memOk {x : Fence} (h : s.memOk) : (fenceStep s x).memOk :=
  memOk_ite (advance_memOk (modGroup_memOk (memOk_ite (writeBack_memOk h) h))) (memOk_ite h (begins_memOk (modGroup_memOk h)))

theorem fenceBy_memOk {scope : Nat} {rel acq holds : Bool} (h : s.memOk) : (fenceBy scope rel acq holds s).memOk := by
  dsimp only [fenceBy]
  split
  · exact fenceStep_memOk h
  · exact fenceStep_memOk (memOk_ite (drainEntries_memOk h) h)

theorem execFence_keeps {f : ExtForm} : Keeps s (execFence f s) := instr_keeps (fun _ _ => fenceBy_memOk)

theorem execTfence_keeps {f : ExtForm} : Keeps s (execTfence f s) :=
  access_keeps (fun _ _ h1 => memOk_ite (modXlat_memOk (fenceBy_memOk h1)) (fenceBy_memOk h1))

theorem execAcqr_keeps {f : ExtForm} : Keeps s (execAcqr f s) := access_keeps (fun _ _ => engineOp_memOk)

/-! ### Token and chamber instructions -/

theorem reportPoison_memOk {act : Lanes} {f : ExtForm} {poison : Bool} (h : s.memOk) : (s.reportPoison act f poison).memOk :=
  advance_memOk (writeTruth_memOk h)

theorem execTwait_keeps {f : ExtForm} : Keeps s (execTwait f s) :=
  instr_keeps (fun _ _ h1 => memOk_ite h1 (memOk_ite (reportPoison_memOk h1) (memOk_ite (raise_memOk h1) (advance_memOk h1))))

theorem execTtest_keeps {f : ExtForm} : Keeps s (execTtest f s) := instr_keeps (fun _ _ h1 => advance_memOk (writeDest_memOk h1))

theorem execTsleep_keeps {f : ExtForm} : Keeps s (execTsleep f s) :=
  instr_keeps (fun _ _ h1 => memOk_ite (advance_memOk (modGroup_memOk h1)) (memOk_ite h1 (begins_memOk (modGroup_memOk h1))))

theorem execTjoin_keeps {f : ExtForm} : Keeps s (execTjoin f s) :=
  instr_keeps (fun _ _ h1 => memOk_ite (finishOp_memOk (engineOp_memOk h1)) (engineOp_memOk h1))

theorem execTsig_keeps {f : ExtForm} : Keeps s (execTsig f s) :=
  instr_keeps (fun _ _ h1 => memOk_ite (finishOp_memOk (engineOp_memOk h1)) (engineOp_memOk h1))

theorem execTclr_keeps {f : ExtForm} : Keeps s (execTclr f s) :=
  instr_keeps (fun _ _ h1 => memOk_ite (advance_memOk (modGroup_memOk (modGroup_memOk h1)))
      (memOk_ite h1 (begins_memOk (modGroup_memOk (modGroup_memOk h1)))))

theorem chamberInstr_keeps {f : ExtForm} {u : Use} {kind : AccessKind} {go : Lanes → State → ChamberAt → Machine.Acc Unit}
    (hgo : ∀ x s x1, s.memOk → AccMemOk (go x s x1)) : Keeps s (chamberInstr f u kind s go) := by
  dsimp only [chamberInstr]
  refine access_keeps (fun _ _ h1 => ?_)
  split
  · exact h1
  · split
    · exact h1
    · exact trapActive_memOk h1
    · next heq3 => exact memOk_of_acc heq3 (hgo _ _ _ h1)

theorem into_memOk {α β : Type} {r : Machine.Acc α} {k : α → State → Machine.Acc β} (hr : AccMemOk r) (hk : ∀ x s, s.memOk → AccMemOk (k x s)) :
    AccMemOk (r.into k) := by
  cases r with
  | wait => exact accMemOk_wait
  | fail c a => exact accMemOk_fail
  | ok x s => exact hk x s (hr x s rfl)

theorem execTexp_keeps {f : ExtForm} : Keeps s (execTexp f s) :=
  chamberInstr_keeps (fun _ _ _ h1 => accMemOk_ite accMemOk_wait (accMemOk_ok (tryExport_memOk (advance_memOk (modGroup_memOk h1)))))

theorem noteChamber_memOk {g : Agent} {at_ : ChamberAt} (h : s.memOk) : (noteChamber s g at_).memOk := by
  dsimp only [noteChamber]
  split
  · exact modMem_memOk (fun _ h2 => h2) h
  · exact h

theorem execChini_keeps {f : ExtForm} : Keeps s (execChini f s) :=
  chamberInstr_keeps (fun _ _ _ h1 => accMemOk_ite accMemOk_wait (into_memOk (writeChamber_memOk h1)
      (fun _ _ h2 => accMemOk_ok (advance_memOk (noteChamber_memOk h2)))))

theorem execCharr_keeps {f : ExtForm} : Keeps s (execCharr f s) :=
  chamberInstr_keeps (fun _ _ _ h1 => accMemOk_ok (advance_memOk (newOp_memOk h1)))

theorem execChamberArrive_keeps {op : Nat} : Keeps s (execChamberArrive op s) := by
  dsimp only [execChamberArrive]
  refine keeps_ite (keeps_next id) ?_
  split
  · exact keeps_next dropOp_memOk
  · split
    · exact keeps_next id
    · exact keeps_next dropOp_memOk
    · next heq2 => exact keeps_next (fun h => dropOp_memOk (memOk_of_acc heq2 (arriveAt_memOk (writeBack_memOk h))))

theorem execChwait_keeps {f : ExtForm} : Keeps s (execChwait f s) :=
  chamberInstr_keeps (fun _ _ _ h1 => accMemOk_ite accMemOk_wait (into_memOk (readChamber_memOk h1)
      (fun _ _ h2 => accMemOk_ite accMemOk_wait (accMemOk_ite (accMemOk_ok (trapActive_memOk h2))
      (accMemOk_ite (accMemOk_ok (reportPoison_memOk h2)) (accMemOk_ite (accMemOk_ok (trapActive_memOk h2)) (accMemOk_ok (advance_memOk h2))))))))

theorem execChtest_keeps {f : ExtForm} : Keeps s (execChtest f s) :=
  chamberInstr_keeps (fun _ _ _ h1 => accMemOk_ite accMemOk_wait (into_memOk (readChamber_memOk h1)
      (fun _ _ h2 => accMemOk_ok (advance_memOk (writeTruth_memOk h2)))))

/-! ### The vector allotment and the special registers -/

theorem grantSpare_memOk {core : Nat} (h : s.memOk) : (grantSpare s core).memOk := by
  dsimp only [grantSpare]
  refine foldl_memOk (fun _ _ h1 => ?_) h
  refine memOk_ite ?_ h1
  split
  · exact modGroup_memOk h1
  · exact h1

theorem grantPool_memOk {core : Nat} (h : s.memOk) : (grantPool s core).memOk := by
  dsimp only [grantPool]
  split
  · exact memOk_ite (modGroup_memOk h) h
  · exact h

theorem execRacqGrant_keeps {core : Nat} : Keeps s (execRacqGrant core s) := keeps_next (fun h => grantPool_memOk (grantSpare_memOk h))

theorem acquire_keeps {f : ExtForm} : Keeps s (acquire f s) :=
  instr_keeps (fun _ _ h1 => memOk_ite (advance_memOk h1) (memOk_ite (advance_memOk (modGroup_memOk h1)) (begins_memOk (modGroup_memOk h1))))

theorem execRacq_keeps {f : BaseForm} : Keeps s (execRacq f s) := acquire_keeps

theorem execRacqX_keeps {f : ExtForm} : Keeps s (execRacqX f s) := acquire_keeps

theorem relinquish_keeps {f : ExtForm} : Keeps s (relinquish f s) :=
  instr_keeps (fun _ _ h1 => memOk_ite (advance_memOk h1) (memOk_ite (memOk_ite h1 (begins_memOk (modGroup_memOk h1)))
      (advance_memOk (noteReturned_memOk (modGroup_memOk h1)))))

theorem execRrel_keeps {f : BaseForm} : Keeps s (execRrel f s) := relinquish_keeps

theorem execRrelX_keeps {f : ExtForm} : Keeps s (execRrelX f s) := relinquish_keeps

theorem execSrd_keeps {f : ExtForm} : Keeps s (execSrd f s) := compute_keeps

theorem execPmrd_keeps {f : ExtForm} : Keeps s (execPmrd f s) := compute_keeps

theorem swrBy_keeps {f : ExtForm} {bad : Bool} {go : State → Nat → State} (hgo : ∀ s x, s.memOk → (go s x).memOk) : Keeps s (swrBy f bad s go) :=
  instr_keeps (fun _ _ h1 => advance_memOk (hgo _ _ h1))

theorem setMyTok_memOk {t : Nat} {f : Token → Token} (h : s.memOk) : (s.setMyTok t f).memOk := modGroup_memOk h

theorem writeSpecial_memOk {n : Nat} {x : Nat} (h : s.memOk) : (writeSpecial n s x).memOk :=
  memOk_ite (modTeam_memOk h) (memOk_ite (setMyTok_memOk h) (memOk_ite (modJoin_memOk h) (modEngine_memOk h)))

theorem execSwr_keeps {f : ExtForm} : Keeps s (execSwr f s) := swrBy_keeps (fun _ _ => writeSpecial_memOk)

theorem execSwrTok_keeps {f : ExtForm} : Keeps s (execSwrTok f s) := by
  unfold execSwrTok
  exact swrBy_keeps (fun _ _ h1 => tryExport_memOk (setMyTok_memOk h1))

theorem execSwrTokx_keeps {f : ExtForm} : Keeps s (execSwrTokx f s) := by
  unfold execSwrTokx
  exact swrBy_keeps (fun _ _ h1 => tryExport_memOk (setMyTok_memOk h1))

theorem execSwrMxBudget_keeps {f : ExtForm} : Keeps s (execSwrMxBudget f s) := swrBy_keeps (fun _ _ h1 => memOk_ite h1 (modEngine_memOk h1))

theorem loadQueue_memOk {core teamKey self n k : Nat} (h : s.memOk) : (loadQueue core teamKey self n k s).memOk := by
  induction n generalizing s k with
  | zero => exact h
  | succ n ih => exact ih (modEngine_memOk (refill_memOk h))

theorem execSwrMxQ_keeps {f : ExtForm} : Keeps s (execSwrMxQ f s) := by
  unfold execSwrMxQ
  exact checked_keeps (fun _ _ h1 => advance_memOk (memOk_ite h1 (memOk_ite (modEngine_memOk h1) (modEngine_memOk (loadQueue_memOk h1)))))

/-! ### Named barriers, semaphores, `csync` and `gsync` -/

theorem setNb_memOk {team k : Nat} {b : Barrier} (h : s.memOk) : (s.setNb team k b).memOk := modTeam_memOk h

theorem arriveNb_memOk {k n : Nat} (h : s.memOk) : (s.arriveNb k n).memOk := setNb_memOk h

theorem execNbarr_keeps {f : ExtForm} : Keeps s (execNbarr f s) :=
  checked_keeps (fun _ _ h1 => memOk_ite (advance_memOk h1) (advance_memOk (arriveNb_memOk h1)))

theorem beginNb_memOk {k : Nat} (h : s.memOk) : (s.beginNb k).memOk := begins_memOk (modGroup_memOk h)

theorem endNb_memOk (h : s.memOk) : s.endNb.memOk := modGroup_memOk h

theorem execNbwait_keeps {f : ExtForm} : Keeps s (execNbwait f s) := by
  dsimp only [execNbwait]
  refine instr_keeps (fun _ _ h1 => ?_)
  split
  · exact memOk_ite (advance_memOk (endNb_memOk h1)) h1
  · exact memOk_ite (beginNb_memOk h1) (advance_memOk h1)

theorem execNbsync_keeps {f : ExtForm} : Keeps s (execNbsync f s) := by
  dsimp only [execNbsync]
  refine checked_keeps (fun _ _ h1 => ?_)
  refine memOk_ite (advance_memOk h1) ?_
  split
  · exact memOk_ite (advance_memOk (endNb_memOk (modGroup_memOk h1))) h1
  · exact memOk_ite (memOk_ite (advance_memOk (endNb_memOk (modGroup_memOk h1))) (beginNb_memOk h1))
        (beginNb_memOk (modGroup_memOk (arriveNb_memOk h1)))

theorem settleNb_memOk {team k : Nat} (h : s.memOk) : (settleNb s team k).memOk :=
  memOk_ite (foldl_memOk (fun _ _ h1 => memOk_ite (modBarge_memOk h1) h1) (foldl_memOk (fun _ _ => modGroup_memOk) (setNb_memOk h))) h

theorem settleBarriers_memOk {team : Nat} (h : s.memOk) : (settleBarriers s team).memOk := foldl_memOk (fun _ _ => settleNb_memOk) h

theorem setSem_memOk {core k x : Nat} (h : s.memOk) : (s.setSem core k x).memOk := modCore_memOk h

theorem increment_keeps {f : ExtForm} : Keeps s (increment f s) :=
  checked_keeps (fun _ _ h1 => memOk_ite (advance_memOk h1) (advance_memOk (setSem_memOk h1)))

theorem execSinc_keeps {f : BaseForm} : Keeps s (execSinc f s) := increment_keeps

theorem execSincX_keeps {f : ExtForm} : Keeps s (execSincX f s) := increment_keeps

theorem joinSem_memOk {core k : Nat} {w : Waiter} (h : s.memOk) : (s.joinSem core k w).memOk := memOk_ite h (modCore_memOk h)

theorem leaveSem_memOk {core k : Nat} {w : Waiter} (h : s.memOk) : (s.leaveSem core k w).memOk := modCore_memOk h

theorem endSem_memOk (h : s.memOk) : s.endSem.memOk := modGroup_memOk (foldl_memOk (fun _ _ => leaveSem_memOk) h)

theorem waitSem_keeps {f : ExtForm} : Keeps s (waitSem f s) :=
  checked_keeps (fun _ _ h1 => memOk_ite (advance_memOk (endSem_memOk h1))
      (memOk_ite (advance_memOk (endSem_memOk h1)) (memOk_ite (advance_memOk
      (endSem_memOk (setSem_memOk (memOk_ite (joinSem_memOk h1) (modGroup_memOk (joinSem_memOk h1))))))
      (memOk_ite (memOk_ite (joinSem_memOk h1) (modGroup_memOk (joinSem_memOk h1)))
      (begins_memOk (memOk_ite (joinSem_memOk h1) (modGroup_memOk (joinSem_memOk h1))))))))

theorem execSwait_keeps {f : BaseForm} : Keeps s (execSwait f s) := waitSem_keeps

theorem execSwaitX_keeps {f : ExtForm} : Keeps s (execSwaitX f s) := waitSem_keeps

theorem readSem_keeps {f : ExtForm} : Keeps s (readSem f s) := checked_keeps (fun _ _ h1 => advance_memOk (writeDest_memOk h1))

theorem execSread_keeps {f : BaseForm} : Keeps s (execSread f s) := readSem_keeps

theorem execSreadX_keeps {f : ExtForm} : Keeps s (execSreadX f s) := readSem_keeps

theorem execCsync_keeps {f : ExtForm} : Keeps s (execCsync f s) := by
  dsimp only [execCsync]
  refine checked_keeps (fun _ _ h1 => ?_)
  refine memOk_ite (advance_memOk h1) ?_
  refine memOk_ite (advance_memOk (modGroup_memOk h1)) ?_
  split
  · exact memOk_ite (advance_memOk (modGroup_memOk (modGroup_memOk h1))) (modGroup_memOk h1)
  · exact begins_memOk (modGroup_memOk (modGroup_memOk h1))

theorem settleCsync_memOk {team : Nat} (h : s.memOk) : (settleCsync s team).memOk := memOk_ite (modTeam_memOk h) h

theorem settleGrid_memOk {launch : Nat} (h : s.memOk) : (settleGrid s launch).memOk := memOk_ite (modLaunch_memOk h) h

theorem arriveGrid_memOk (h : s.memOk) : (arriveGrid s).memOk := by
  dsimp only [arriveGrid]
  split
  · exact memOk_ite h (modLaunch_memOk (begins_memOk (modGroup_memOk h)))
  · exact begins_memOk (modGroup_memOk h)

theorem execGsync_keeps {f : ExtForm} : Keeps s (execGsync f s) := by
  dsimp only [execGsync]
  refine checked_keeps (fun _ _ h1 => ?_)
  refine memOk_ite (advance_memOk h1) ?_
  split
  · exact memOk_ite (advance_memOk (modGroup_memOk h1)) h1
  · exact memOk_ite (arriveGrid_memOk h1) (begins_memOk (modGroup_memOk h1))

theorem execIcinv_keeps {f : ExtForm} : Keeps s (execIcinv f s) := access_keeps (fun _ _ => engineOp_memOk)

theorem execTlbinv_keeps {f : ExtForm} : Keeps s (execTlbinv f s) := access_keeps (fun _ _ => engineOp_memOk)

theorem execBiasset_keeps {f : ExtForm} : Keeps s (execBiasset f s) := access_keeps (fun _ _ => engineOp_memOk)

/-! ### The frontier of a group -/

/-- What a path finds at its counter leaves memory in canonical form. -/
def LookMemOk : Look → Prop
  | .wait _ => True
  | .stop _ _ _ s => s.memOk
  | .ready _ _ _ s => s.memOk

theorem lookMemOk_after {flags : Nat} {l : Look} (h : LookMemOk l) : LookMemOk (l.after flags) := by
  unfold Look.after
  split
  · exact h
  · exact trivial

theorem runHeaders_memOk {grp fuel : Nat} {va hdr flags : Nat} (h : s.memOk) : LookMemOk (runHeaders grp fuel s va hdr flags) := by
  induction fuel generalizing s va hdr flags with
  | zero => exact trivial
  | succ fuel ih =>
    rw [runHeaders]
    split
    · split
      · exact trivial
      · exact lookMemOk_after h
    · next heq1 =>
      have hword := fetchPath_memOk h _ _ heq1
      dsimp only
      split
      · exact lookMemOk_after hword
      · split
        · exact lookMemOk_after hword
        · exact ih hword

theorem fetchWords_memOk {grp n : Nat} {va : Nat} (h : s.memOk) : OkMemOk (fetchWords grp n s va) := by
  induction n generalizing s va with
  | zero => exact okMemOk_ok h
  | succ n ih =>
    rw [fetchWords]
    split
    · exact okMemOk_error
    · next heq1 =>
      split
      · exact okMemOk_error
      · next heq2 => exact okMemOk_ok (ih (fetchPath_memOk h _ _ heq1) _ _ heq2)

theorem instrAt_memOk {grp va word : Nat} (h : s.memOk) : OkMemOk (instrAt s grp va word) := by
  dsimp only [instrAt]
  split
  · exact okMemOk_ite (okMemOk_ok h) okMemOk_error
  · next heq1 =>
    have hs1 := memOk_of_ok heq1 (fetchWords_memOk h)
    split
    · exact okMemOk_ok hs1
    · exact okMemOk_ok hs1

end Kept

end Sys2Proof.Proofs


/-! Memory stays in canonical form (log 1): traps, barges and the matrix engine. -/

namespace Sys2Proof.Proofs

open Sys2Proof Sys2Proof.Machine Sys2Proof.Rules

section Kept

variable {s : State}

/-! ### Traps, handlers and the ways out of them -/

theorem raiseBy_keeps {cause : Nat} {f : ExtForm} : Keeps s (raiseBy cause f s) := instr_keeps (fun _ _ => raise_memOk)

theorem execTrap_keeps {f : ExtForm} : Keeps s (execTrap f s) := raiseBy_keeps

theorem execBrk_keeps {f : ExtForm} : Keeps s (execBrk f s) := raiseBy_keeps

theorem raiseLanes_memOk {grp : Nat} {lanes : Lanes} {cause : Nat} (h : s.memOk) : (raiseLanes s grp lanes cause).memOk :=
  modGroup_memOk (raise_memOk (modSched_memOk h))

theorem raiseInPlace_memOk {grp cause : Nat} (h : s.memOk) : (raiseInPlace s grp cause).memOk := raiseLanes_memOk h

theorem execWatchdog_keeps {grp : Nat} : Keeps s (execWatchdog grp s) := keeps_ite (keeps_next raiseInPlace_memOk) (keeps_next id)

theorem execHandlerEntry_keeps {grp : Nat} : Keeps s (execHandlerEntry grp s) := keeps_ite (keeps_next enterHandler_memOk) (keeps_next id)

theorem rttBy_keeps {f : ExtForm} {go : State → State} (hgo : ∀ s, s.memOk → (go s).memOk) : Keeps s (rttBy f s go) :=
  checked_keeps (fun _ _ h1 => memOk_ite (advance_memOk h1) (memOk_ite (hgo _ h1) h1))

theorem refillAll_memOk {grp core : Nat} {bs : List Byte} {n k : Nat} (h : s.memOk) : (refillAll grp core bs n k s).memOk := by
  induction n generalizing s k with
  | zero => exact modGroup_memOk h
  | succ n ih => exact ih (refill_memOk h)

theorem reissueRead_memOk {grp : Nat} {q : QRead} (h : s.memOk) : (reissueRead grp s q).memOk :=
  memOk_ite (memOk_ite h (raiseLanes_memOk h)) (memOk_ite (issueOp_memOk h) (modGroup_memOk (issueOp_memOk h)))

theorem resume_memOk (h : s.memOk) : (resume s).memOk := by
  dsimp only [resume]
  split
  · exact h
  · exact doubleFault_memOk h
  · next heq1 =>
    split
    · exact h
    · exact doubleFault_memOk h
    · next heq2 =>
        exact afterHandlers_memOk (groupExit_memOk (drainAll_memOk (foldl_memOk (fun _ _ => reissueRead_memOk)
            (modGroup_memOk (refillAll_memOk (modGroup_memOk (memOk_of_acc heq2 (load_memOk (memOk_of_acc heq1 (load_memOk h))))))))))

theorem execRttRes_keeps {f : ExtForm} : Keeps s (execRttRes f s) := rttBy_keeps (fun _ => resume_memOk)

theorem endLaunch_memOk (h : s.memOk) : (endLaunch s).memOk := modGroup_memOk (stopLaunch_memOk h)

theorem execRttEnd_keeps {f : ExtForm} : Keeps s (execRttEnd f s) := rttBy_keeps (fun _ => endLaunch_memOk)

theorem dropScratch_memOk {team : Nat} (h : s.memOk) : (dropScratch s team).memOk := modScr_memOk h

theorem clearSems_memOk {core : Nat} (h : s.memOk) : (clearSems s core).memOk := memOk_ite h (modCore_memOk h)

theorem reclaimTeam_memOk {team : Nat} (h : s.memOk) : (reclaimTeam s team).memOk :=
  clearSems_memOk (modTeam_memOk (foldl_memOk (fun _ _ => setBarge_memOk)
      (dropScratch_memOk (modCore_memOk (modFabric_memOk (memOk_ite (modEngine_memOk
      (releaseEngine_memOk (foldl_memOk (fun _ _ => modGroup_memOk) h))) (foldl_memOk (fun _ _ => modGroup_memOk) h)))))))

theorem settlePreempt_memOk {launch : Nat} (h : s.memOk) : (settlePreempt s launch).memOk :=
  memOk_ite (endCommand_memOk (modLaunch_memOk h)) h

theorem tryReclaim_memOk {team : Nat} (h : s.memOk) : (tryReclaim s team).memOk :=
  memOk_ite h (settlePreempt_memOk (modCluster_memOk (foldl_memOk (fun _ _ => reclaimTeam_memOk) h)))

theorem saveGroup_memOk (h : s.memOk) : (saveGroup s).memOk := memOk_ite (tryReclaim_memOk (modGroup_memOk h)) (endLaunch_memOk h)

theorem execRttSave_keeps {f : ExtForm} : Keeps s (execRttSave f s) := rttBy_keeps (fun _ => saveGroup_memOk)

/-! ### Accesses in the four spaces of a record -/

theorem spaceRead_memOk {team sp a n : Nat} (h : s.memOk) : AccMemOk (spaceRead s team sp a n) := by
  dsimp only [spaceRead]
  refine accMemOk_ite (accMemOk_ite accMemOk_fail (load_memOk h)) ?_
  refine accMemOk_ite accMemOk_fail ?_
  split
  exacts [accMemOk_ok h, accMemOk_ok h, accMemOk_ok h]

theorem globalWrite_memOk {w : Writer} {a : Nat} {bs : List Byte} (h : s.memOk) : AccMemOk (globalWrite s w a bs) := by
  dsimp only [globalWrite]
  split
  · exact accMemOk_ite accMemOk_wait accMemOk_fail
  · next heq1 =>
    have hleaf := translate_memOk h _ _ heq1
    split
    · exact accMemOk_fail
    · exact accMemOk_ok (dieWrite_memOk hleaf)
    · exact storeHome_memOk hleaf
    · refine accMemOk_ite accMemOk_wait ?_
      split
      · exact accMemOk_fail
      · exact accMemOk_ite (putPending_memOk hleaf) (putCopy_memOk hleaf)

theorem spaceWrite_memOk {w : Machine.Writer} {team sp a : Nat} {bs : List Byte} (h : s.memOk) : AccMemOk (spaceWrite s w team sp a bs) := by
  dsimp only [spaceWrite]
  refine accMemOk_ite (globalWrite_memOk h) ?_
  split
  exacts [accMemOk_ok (scrWrite_memOk h), accMemOk_ok (scrWrite_memOk h), accMemOk_ok (dieWrite_memOk h)]

/-! ### Barges -/

theorem retireRun_memOk {b bytes : Nat} {f : Option Failure} (h : s.memOk) : (retireRun s b bytes f).memOk := by
  dsimp only [retireRun]
  refine memOk_ite h ?_
  split
  · exact finishOp_memOk (modBarge_memOk h)
  · exact retireToken_memOk (modBarge_memOk h)

theorem retireRest_memOk {b : Nat} {f : Option Failure} (h : s.memOk) : (retireRest s b f).memOk :=
  foldl_memOk (fun _ _ => retireRun_memOk) h

theorem leaveSemBarge_memOk {b : Nat} (h : s.memOk) : (leaveSemBarge s b).memOk := memOk_ite h (modBarge_memOk (leaveSem_memOk h))

theorem startBarge_memOk {b : Nat} (h : s.memOk) : (startBarge s b).memOk := by
  dsimp only [startBarge]
  refine memOk_ite h ?_
  split
  · exact modBarge_memOk (retireRest_memOk h)
  · exact modBarge_memOk h

theorem haltForBarge_memOk {b : Nat} (h : s.memOk) : (haltForBarge s b).memOk :=
  memOk_ite (broadcast_memOk (modTeam_memOk h)) (raiseInPlace_memOk h)

theorem raiseHeld_memOk {team : Nat} (h : s.memOk) : (raiseHeld s team).memOk := by
  dsimp only [raiseHeld]
  split
  · exact h
  · exact memOk_ite h (haltForBarge_memOk (modTeam_memOk h))

theorem landCopies_memOk {b : Nat} (h : s.memOk) : (landCopies s b).memOk := memOk_ite h (modBarge_memOk h)

theorem settleFault_memOk {b : Nat} {f : BargeFault} (h : s.memOk) : (settleFault s b f).memOk :=
  memOk_ite (modBarge_memOk (retireRest_memOk (leaveSemBarge_memOk h)))
      (memOk_ite (modTeam_memOk (modBarge_memOk (retireRest_memOk (leaveSemBarge_memOk h))))
      (haltForBarge_memOk (modBarge_memOk (retireRest_memOk (leaveSemBarge_memOk h)))))

theorem takeFault_memOk {s0 : State} {b : Nat} (h : s0.memOk) : (takeFault s0 b).memOk := by
  dsimp only [takeFault]
  split
  · split
    · exact landCopies_memOk h
    · exact settleFault_memOk (landCopies_memOk h)
  · split
    · exact landCopies_memOk h
    · exact memOk_ite (landCopies_memOk h) (settleFault_memOk (modBarge_memOk (landCopies_memOk h)))

theorem execBargeFault_keeps {b : Nat} : Keeps s (execBargeFault b s) := keeps_next takeFault_memOk

theorem issueRun_memOk {f : ExtForm} {b n : Nat} {ids : List Nat} (h : s.memOk) : (issueRun f b n s ids).1.memOk := by
  induction n generalizing s ids with
  | zero => exact h
  | succ n ih => exact ih (issueOp_memOk h)

theorem dropHeld_memOk {b : Nat} (h : s.memOk) : (dropHeld s b).memOk := modTeam_memOk h

theorem armBarge_memOk {f : ExtForm} {b : Nat} {x : Barge} (h : s.memOk) : (armBarge f b s x).memOk :=
  startBarge_memOk (setBarge_memOk (dropHeld_memOk (issueRun_memOk h)))

theorem execBgo_keeps {f : ExtForm} : Keeps s (execBgo f s) :=
  access_keeps (fun _ _ h1 => memOk_ite (memOk_ite (advance_memOk (memOk_ite (writeTruth_memOk h1) h1)) h1)
      (memOk_ite h1 (advance_memOk (armBarge_memOk (memOk_ite (writeTruth_memOk h1) h1)))))

theorem execBres_keeps {f : ExtForm} : Keeps s (execBres f s) :=
  access_keeps (fun _ _ h1 => memOk_ite h1 (memOk_ite (advance_memOk (foldl_memOk (fun _ _ => finishOp_memOk) (issueRun_memOk h1)))
      (advance_memOk (armBarge_memOk h1))))

theorem stopNow_memOk {id : Nat} (h : s.memOk) : (stopNow s id).memOk :=
  memOk_ite (takeFault_memOk h) (finishOp_memOk (stopBarge_memOk (takeFault_memOk h)))

theorem settleBarge_memOk {b : Nat} (h : s.memOk) : (settleBarge s b).memOk := by
  dsimp only [settleBarge]
  refine foldl_memOk (fun _ _ => stopNow_memOk) ?_
  split
  · exact stopBargeBy_memOk (takeFault_memOk h)
  · exact takeFault_memOk h

theorem execBstop_keeps {f : ExtForm} : Keeps s (execBstop f s) :=
  access_keeps (fun _ _ h1 => memOk_ite (stopNow_memOk (engineOp_memOk h1)) (engineOp_memOk h1))

theorem refillRun_memOk {b core n : Nat} (h : s.memOk) : (refillRun b core n s).memOk := by
  induction n generalizing s with
  | zero => exact h
  | succ n ih => exact ih (modBarge_memOk (refill_memOk h))

theorem loadBarge_memOk {w : Nat → Nat} {b : Nat} (h : s.memOk) : (loadBarge w b s).memOk :=
  startBarge_memOk (refillRun_memOk (setBarge_memOk h))

theorem execBresLd_keeps {f : ExtForm} : Keeps s (execBresLd f s) :=
  access_keeps (fun _ _ h1 => memOk_ite h1 (advance_memOk (loadBarge_memOk h1)))

theorem execBstat_keeps {f : ExtForm} : Keeps s (execBstat f s) := access_keeps (fun _ _ h1 => advance_memOk (writeDest_memOk h1))

theorem execBargePark_keeps {b : Nat} {s0 : State} : Keeps s0 (execBargePark b s0) :=
  keeps_ite (keeps_next (fun h => modBarge_memOk (foldl_memOk (fun _ _ => forgetOp_memOk) (leaveSemBarge_memOk (settleBarge_memOk h)))))
      (keeps_next settleBarge_memOk)

/-! ### The instructions of barges -/

theorem modNow_memOk {g : Barge → Barge} (h : s.memOk) : (s.modNow g).memOk := modBarge_memOk h

theorem bargeStep_memOk (h : s.memOk) : s.bargeStep.memOk := modNow_memOk h

theorem bargeJump_memOk {g : Nat} (h : s.memOk) : (s.bargeJump g).memOk := modNow_memOk h

theorem bargeFail_memOk {f : BargeFault} (h : s.memOk) : (s.bargeFail f).memOk := modNow_memOk h

theorem bargeWait_memOk (h : s.memOk) : s.bargeWait.memOk := modNow_memOk h

theorem bargeSet_memOk {f : BargeForm} {v : Nat} (h : s.memOk) : (s.bargeSet f v).memOk := bargeStep_memOk (modNow_memOk h)

theorem execBnop_keeps {_f : BargeForm} : Keeps s (execBnop _f s) := keeps_next bargeStep_memOk

theorem execBmov_keeps {f : BargeForm} : Keeps s (execBmov f s) := keeps_next bargeSet_memOk

theorem execBmovi_keeps {f : BargeForm} : Keeps s (execBmovi f s) := keeps_next bargeSet_memOk

theorem execBadd_keeps {f : BargeForm} : Keeps s (execBadd f s) := keeps_next bargeSet_memOk

theorem execBsub_keeps {f : BargeForm} : Keeps s (execBsub f s) := keeps_next bargeSet_memOk

theorem execBmul_keeps {f : BargeForm} : Keeps s (execBmul f s) := keeps_next bargeSet_memOk

theorem execBshl_keeps {f : BargeForm} : Keeps s (execBshl f s) := keeps_next bargeSet_memOk

theorem execBshr_keeps {f : BargeForm} : Keeps s (execBshr f s) := keeps_next bargeSet_memOk

theorem execBand_keeps {f : BargeForm} : Keeps s (execBand f s) := keeps_next bargeSet_memOk

theorem execBor_keeps {f : BargeForm} : Keeps s (execBor f s) := keeps_next bargeSet_memOk

theorem execBcmp_keeps {f : BargeForm} : Keeps s (execBcmp f s) := keeps_ite (keeps_next bargeFail_memOk) (keeps_next bargeSet_memOk)

theorem execBbr_keeps {f : BargeForm} : Keeps s (execBbr f s) :=
  keeps_ite (keeps_next bargeFail_memOk) (keeps_ite (keeps_next bargeJump_memOk) (keeps_next bargeStep_memOk))

theorem execBjmp_keeps {f : BargeForm} : Keeps s (execBjmp f s) :=
  keeps_ite (keeps_ite (keeps_next bargeFail_memOk) (keeps_next bargeJump_memOk))
      (keeps_ite (keeps_next bargeFail_memOk) (keeps_ite (keeps_next bargeFail_memOk) (keeps_next bargeJump_memOk)))

theorem execBloop_keeps {f : BargeForm} : Keeps s (execBloop f s) :=
  keeps_ite (keeps_next bargeFail_memOk) (keeps_ite (keeps_next modNow_memOk) (keeps_ite (keeps_next bargeFail_memOk) (keeps_next modNow_memOk)))

theorem execBldi_keeps {f : BargeForm} : Keeps s (execBldi f s) := by
  dsimp only [execBldi]
  refine keeps_ite (keeps_next id) ?_
  split
  · exact keeps_next id
  · exact keeps_next bargeFail_memOk
  · next heq1 => exact keeps_next (fun h => bargeSet_memOk (memOk_of_acc heq1 (spaceRead_memOk h)))

theorem execBaddr_keeps {f : BargeForm} : Keeps s (execBaddr f s) := by
  dsimp only [execBaddr]
  split
  · exact keeps_ite (keeps_next id) (keeps_next bargeFail_memOk)
  · exact keeps_ite (keeps_next bargeFail_memOk) (keeps_next bargeSet_memOk)

theorem wordBehind_memOk {b : Nat} {t : TlbEntry} {va : Nat} (h : s.memOk) : OkMemOk (wordBehind s b t va) := by
  dsimp only [wordBehind]
  split
  · exact okMemOk_error
  · next heq1 =>
    split
    · exact okMemOk_error
    · next heq2 => exact okMemOk_ok (memOk_of_ok heq2 (codeAt_memOk (memOk_of_ok heq1 (codeAt_memOk h))))

theorem keepWord_memOk {b : Nat} {t : TlbEntry} {va w : Nat} (h : s.memOk) : (keepWord s b t va w).memOk := modBarge_memOk h

theorem bargeWord_memOk {b va : Nat} (h : s.memOk) : OkMemOk (bargeWord s b va) := by
  dsimp only [bargeWord]
  split
  · exact okMemOk_error
  · next heq1 =>
    have hs1 := memOk_of_ok heq1 (translate_memOk h)
    split
    · exact okMemOk_ok hs1
    · split
      · exact okMemOk_error
      · next heq3 => exact okMemOk_ok (keepWord_memOk (memOk_of_ok heq3 (wordBehind_memOk hs1)))

theorem bargeFetch_memOk {b : Nat} (h : s.memOk) : OkMemOk (bargeFetch s b) := okMemOk_ite okMemOk_error (bargeWord_memOk h)

theorem execBqin_keeps {f : BargeForm} : Keeps s (execBqin f s) := by
  dsimp only [execBqin]
  refine keeps_ite (keeps_next bargeFail_memOk) ?_
  refine keeps_ite (keeps_next id) ?_
  split
  · exact keeps_next (fun h => bargeSet_memOk (setQueue_memOk h))
  · exact keeps_ite (keeps_next bargeFail_memOk) (keeps_next bargeWait_memOk)

theorem readMoves_memOk {m : Mover} {as : List (Option Nat)} (h : s.memOk) : AccMemOk (readMoves m s as) := by
  induction as generalizing s with
  | nil => exact accMemOk_ok h
  | cons a as ih =>
    have hread : AccMemOk (match a with
        | none => Machine.Acc.ok (toBytes 0 m.esize) s
        | some x => if behindPath s m.stores m.team m.src x m.esize then .wait else spaceRead s m.team m.src x m.esize) := by
      split
      · exact accMemOk_ok h
      · exact accMemOk_ite accMemOk_wait (spaceRead_memOk h)
    unfold readMoves
    split
    · exact accMemOk_wait
    · exact accMemOk_fail
    · next heq1 =>
      split
      · exact accMemOk_wait
      · exact accMemOk_fail
      · next heq2 => exact accMemOk_ok (ih (hread _ _ heq1) _ _ heq2)

theorem writeMoves_memOk {m : Mover} {team : Nat} {l : List (Nat × List Byte)} (h : s.memOk) : AccMemOk (writeMoves m team s l) := by
  induction l generalizing s with
  | nil => exact accMemOk_ok h
  | cons p l ih =>
    rw [writeMoves]
    split
    · exact accMemOk_wait
    · exact accMemOk_fail
    · next heq1 => exact ih (spaceWrite_memOk h _ _ heq1)

theorem writeRow_memOk {m : Mover} {team : Nat} {l : List (Nat × List Byte)} (h : s.memOk) : AccMemOk (writeRow m team s l) := by
  refine accMemOk_ite ?_ (writeMoves_memOk h)
  split
  · exact accMemOk_fail
  · exact writeMoves_memOk h

theorem blurBytes_memOk {team sp : Nat} {srcs : List Nat} {a : Nat} {bs : List Byte} (h : s.memOk) :
    (blurBytes team sp srcs s a bs).2.memOk := by
  induction bs generalizing s a with
  | nil => exact h
  | cons b bs ih => exact ih (memOk_ite (took_memOk h) h)

theorem blurMoves_memOk {team sp : Nat} {srcs : List Nat} {l : List (Nat × List Byte)} (h : s.memOk) :
    (blurMoves team sp srcs s l).2.memOk := by
  induction l generalizing s with
  | nil => exact h
  | cons p l ih => exact ih (blurBytes_memOk h)

theorem writeTargets_memOk {m : Mover} {srcs : List Nat} {l : List (Nat × List Byte)} {ts : List Nat} (h : s.memOk) :
    AccMemOk (writeTargets m srcs l s ts) := by
  induction ts generalizing s with
  | nil => exact accMemOk_ok h
  | cons t ts ih =>
    have hblurred : (if srcs.isEmpty then (l, s) else blurMoves t m.dst srcs s l).2.memOk := by
      split
      · exact h
      · exact blurMoves_memOk h
    rw [writeTargets]
    split
    · exact accMemOk_wait
    · exact accMemOk_fail
    · next heq1 => exact ih (writeRow_memOk hblurred _ _ heq1)

/-- The state that a unit of a copy leaves has memory in canonical form. -/
def UnitMemOk (r : UnitEnd) : Prop := ∀ t, r = .ok t → t.memOk

theorem unitMemOk_ok (h : s.memOk) : UnitMemOk (.ok s) := by
  rintro _ ⟨⟩
  exact h

theorem unitMemOk_fail {f : BargeFault} : UnitMemOk (.fail f) := nofun

theorem unitMemOk_wait : UnitMemOk .wait := nofun

theorem writeUnit_memOk {m : Mover} {srcs : List Nat} {ws : List (Nat × List Byte)} (h : s.memOk) : UnitMemOk (writeUnit m srcs s ws) := by
  rw [writeUnit]
  split
  · exact unitMemOk_fail
  · split
    · exact unitMemOk_wait
    · split
      · exact unitMemOk_wait
      · exact unitMemOk_fail
      · next heq1 => exact unitMemOk_ok (writeTargets_memOk h _ _ heq1)

theorem runUnit_memOk {m : Mover} {srcs : List Nat} {es : Moves} (h : s.memOk) : UnitMemOk (runUnit m srcs s es) := by
  rw [runUnit]
  split
  · exact unitMemOk_wait
  · exact unitMemOk_fail
  · next heq1 => exact writeUnit_memOk (readMoves_memOk h _ _ heq1)

theorem readIndex_memOk {m : Mover} {c : Flight} {r : Nat} (h : s.memOk) : AccMemOk (readIndex m s c r) := by
  dsimp only [readIndex]
  refine accMemOk_ite accMemOk_wait ?_
  split
  · exact accMemOk_wait
  · exact accMemOk_fail
  · next heq1 => exact accMemOk_ok (memOk_of_acc heq1 (spaceRead_memOk h))

theorem poolRows_memOk {m : Mover} {c : Flight} {n k : Nat} {s t : State} {acc acc' : List (Option Nat)} (h : s.memOk)
    (hr : poolRows m c n k s acc = .ok (some (acc', t))) : t.memOk := by
  induction n generalizing s k acc with
  | zero =>
    cases hr
    exact h
  | succ n ih =>
    rw [poolRows] at hr
    split at hr
    · cases hr
    · cases hr
    · next heq1 =>
      have hindex := readIndex_memOk h _ _ heq1
      split at hr
      · exact ih hindex hr
      · split at hr
        · cases hr
        · cases hr
        · next heq2 => exact ih (readMoves_memOk hindex _ _ heq2) hr

theorem copyUnit_memOk {b : Nat} {c : Flight} {n : Nat} (h : s.memOk) : UnitMemOk (copyUnit s b c n) := by
  dsimp only [copyUnit]
  split
  · exact runUnit_memOk h
  · split
    · exact unitMemOk_fail
    · exact unitMemOk_wait
    · next heq1 => exact writeUnit_memOk (poolRows_memOk h heq1)
  · split
    · exact unitMemOk_wait
    · exact unitMemOk_fail
    · next heq1 => exact runUnit_memOk (readIndex_memOk h _ _ heq1)

theorem modFlight_memOk {b k : Nat} {g : Flight → Flight} (h : s.memOk) : (s.modFlight b k g).memOk := modBarge_memOk h

theorem copyUnits_memOk {b k n : Nat} (h : s.memOk) : (copyUnits b k n s).memOk := by
  induction n generalizing s with
  | zero => exact h
  | succ n ih =>
    rw [copyUnits]
    split
    · exact h
    · refine memOk_ite h ?_
      split
      · exact h
      · exact modFlight_memOk h
      · next heq1 => exact ih (modCore_memOk (modFlight_memOk (copyUnit_memOk h _ heq1)))

theorem execBqout_keeps {f : BargeForm} : Keeps s (execBqout f s) :=
  keeps_ite (keeps_next bargeFail_memOk) (keeps_ite (keeps_next id) (keeps_ite (keeps_next bargeWait_memOk)
      (keeps_next (fun h => bargeStep_memOk (setQueue_memOk h)))))

theorem copyTurn_memOk {b k n : Nat} (h : s.memOk) : (copyTurn s b k n).memOk := settleBarge_memOk (copyUnits_memOk h)

theorem beginCopy_memOk {op : Nat} {check : Layout → Layout → Nat} {f : BargeForm} (h : s.memOk) : (beginCopy op check f s).memOk := by
  dsimp only [beginCopy]
  split
  · exact memOk_ite h (bargeFail_memOk h)
  · exact memOk_ite (bargeFail_memOk h) (bargeStep_memOk (modNow_memOk (modSched_memOk h)))

theorem execBcopy_keeps {f : BargeForm} : Keeps s (execBcopy f s) := keeps_next beginCopy_memOk

theorem execBgath_keeps {f : BargeForm} : Keeps s (execBgath f s) := keeps_next beginCopy_memOk

theorem execBscat_keeps {f : BargeForm} : Keeps s (execBscat f s) := keeps_next beginCopy_memOk

theorem execBpool_keeps {f : BargeForm} : Keeps s (execBpool f s) := keeps_next beginCopy_memOk

theorem bargeRelease_memOk {sc : Nat} {go : State → State} (hgo : ∀ s, s.memOk → (go s).memOk) (h : s.memOk) : (s.bargeRelease sc go).memOk :=
  memOk_ite (modNow_memOk h) (hgo _ (writeBack_memOk (modNow_memOk h)))

theorem execBtok_keeps {_f : BargeForm} : Keeps s (execBtok _f s) :=
  keeps_ite (keeps_next bargeFail_memOk) (keeps_next (fun h => bargeRelease_memOk (fun _ h1 => bargeStep_memOk (retireRun_memOk (modNow_memOk h1)))
      h))

theorem execBend_keeps {_f : BargeForm} : Keeps s (execBend _f s) :=
  keeps_next (fun h => bargeRelease_memOk (fun _ h1 => modNow_memOk (retireRest_memOk (retireRun_memOk (modNow_memOk h1)))) h)

theorem execBarrNb_keeps {f : BargeForm} : Keeps s (execBarrNb f s) := by
  dsimp only [execBarrNb]
  refine keeps_ite (keeps_next bargeFail_memOk) ?_
  split
  · exact keeps_next bargeFail_memOk
  · refine keeps_next (fun h => ?_)
    refine bargeRelease_memOk (fun _ h2 => ?_) h
    split
    · exact h2
    · exact bargeStep_memOk (setNb_memOk h2)

theorem execBarrSc_keeps {f : BargeForm} : Keeps s (execBarrSc f s) := by
  dsimp only [execBarrSc]
  refine keeps_ite (keeps_next bargeFail_memOk) ?_
  split
  · exact keeps_next bargeFail_memOk
  · refine keeps_next (fun h => ?_)
    refine bargeRelease_memOk (fun _ h2 => ?_) h
    split
    · exact h2
    · exact bargeFail_memOk h2
    · next heq3 => exact bargeStep_memOk (memOk_of_acc heq3 (arriveAt_memOk h2))

theorem execBsem_keeps {f : BargeForm} : Keeps s (execBsem f s) :=
  keeps_next (fun h => bargeRelease_memOk (fun _ h1 => bargeStep_memOk (setSem_memOk h1)) h)

theorem execBwait_keeps {f : BargeForm} : Keeps s (execBwait f s) :=
  keeps_ite (keeps_next bargeFail_memOk) (keeps_ite (keeps_next id) (keeps_ite (keeps_next (fun h => bargeStep_memOk (leaveSemBarge_memOk h)))
      (keeps_ite (keeps_next (fun h => bargeStep_memOk (leaveSemBarge_memOk (setSem_memOk (modNow_memOk (joinSem_memOk h))))))
      (keeps_next (fun h => bargeWait_memOk (modNow_memOk (joinSem_memOk h)))))))

theorem execBwaitSc_keeps {f : BargeForm} : Keeps s (execBwaitSc f s) := by
  dsimp only [execBwaitSc]
  split
  · exact keeps_next bargeFail_memOk
  · refine keeps_ite (keeps_next id) ?_
    split
    · exact keeps_next id
    · exact keeps_next bargeFail_memOk
    · next heq2 =>
      have hs2 (h : s.memOk) := memOk_of_acc heq2 (readChamber_memOk h)
      exact keeps_ite (keeps_next (fun h => bargeWait_memOk (hs2 h)))
          (keeps_ite (keeps_next bargeFail_memOk) (keeps_ite (keeps_next bargeFail_memOk) (keeps_next (fun h => bargeStep_memOk (hs2 h)))))

theorem execBwaitNb_keeps {f : BargeForm} : Keeps s (execBwaitNb f s) := by
  dsimp only [execBwaitNb]
  refine keeps_ite (keeps_next bargeFail_memOk) ?_
  refine keeps_ite (keeps_next id) ?_
  split
  · exact keeps_ite (keeps_next bargeStep_memOk) (keeps_next bargeWait_memOk)
  · exact keeps_ite (keeps_next (fun h => modNow_memOk (bargeWait_memOk h))) (keeps_next bargeStep_memOk)

theorem execBfence_keeps {f : BargeForm} : Keeps s (execBfence f s) :=
  keeps_ite (keeps_next bargeFail_memOk) (keeps_ite (keeps_next (fun h => bargeStep_memOk (writeBack_memOk h))) (keeps_next id))

/-- What a barge finds before it leaves memory in canonical form. -/
def BargeLookMemOk : BargeLook → Prop
  | .rest s => s.memOk
  | .run _ _ s => s.memOk

theorem bargeLook_memOk {b : Nat} (h : s.memOk) : BargeLookMemOk (bargeLook s b) := by
  have hstart : (startBarge (settleBarge s b) b).memOk := startBarge_memOk (settleBarge_memOk h)
  dsimp only [bargeLook]
  split
  · exact hstart
  · split
    · split
      · exact hstart
      · exact bargeFail_memOk (modBarge_memOk (modSched_memOk hstart))
    · next heq1 =>
      have hword := bargeFetch_memOk (modSched_memOk hstart) _ _ heq1
      split
      · exact modBarge_memOk hword
      · exact bargeFail_memOk (modBarge_memOk hword)

theorem execMovQueueWrite_keeps {f : ExtForm} : Keeps s (execMovQueueWrite f s) := by
  unfold execMovQueueWrite
  exact checked_keeps (fun _ _ h1 => memOk_ite (advance_memOk h1) (memOk_ite h1 (advance_memOk (setQueue_memOk h1))))

theorem execMovQueueRead_keeps {f : ExtForm} : Keeps s (execMovQueueRead f s) := by
  unfold execMovQueueRead
  exact checked_keeps (fun _ _ h1 => memOk_ite (advance_memOk h1) (issueFlag_memOk h1))

theorem execQueueReadLand_keeps {op : Nat} : Keeps s (execQueueReadLand op s) := by
  dsimp only [execQueueReadLand]
  refine keeps_ite (keeps_next flagDone_memOk) ?_
  refine keeps_ite (keeps_next id) ?_
  split
  · exact keeps_next id
  · exact keeps_next (fun h => flagDone_memOk (modOp_memOk (setQueue_memOk h)))

/-! ### The matrix engine -/

theorem releaseIdle_memOk {core : Nat} (h : s.memOk) : (releaseIdle s core).memOk := by
  dsimp only [releaseIdle]
  split
  · exact memOk_ite (releaseEngine_memOk h) h
  · exact h

theorem retireHead_memOk {core bytes : Nat} {f : Option Failure} (h : s.memOk) : (retireHead s core bytes f).memOk := by
  dsimp only [retireHead]
  split
  · exact h
  · exact releaseIdle_memOk (memOk_ite (finishOp_memOk (modEngine_memOk h)) (retireToken_memOk (modEngine_memOk h)))

theorem poisonHead_memOk {core cause : Nat} (h : s.memOk) : (poisonHead s core cause).memOk := retireHead_memOk h

theorem openHead_memOk {core : Nat} {q : MxOp} (h : s.memOk) : (openHead s core q).memOk :=
  memOk_ite (modEngine_memOk h) (memOk_ite (poisonHead_memOk (modEngine_memOk h)) (modEngine_memOk (modEngine_memOk h)))

theorem execMatrixOperationStart_keeps {core : Nat} : Keeps s (execMatrixOperationStart core s) := by
  dsimp only [execMatrixOperationStart]
  split
  · exact keeps_next id
  · refine keeps_ite (keeps_next id) ?_
    refine keeps_ite (keeps_next openHead_memOk) ?_
    refine keeps_ite (keeps_next id) ?_
    split
    · exact keeps_next poisonHead_memOk
    · exact keeps_next openHead_memOk

theorem poisonTile_memOk {ts : List Nat} {cause : Nat} (h : s.memOk) : (poisonTile s ts cause).memOk :=
  foldl_memOk (fun _ _ h1 => memOk_ite (poisonHead_memOk h1) h1) h

theorem resolveTile_memOk {ts : List Nat} (h : s.memOk) : (resolveTile s ts).memOk := by
  dsimp only [resolveTile]
  refine memOk_ite (poisonTile_memOk h) ?_
  split
  · exact poisonTile_memOk h
  · exact foldl_memOk (fun _ _ => modEngine_memOk) h

theorem execMmacRendezvous_keeps {cluster tile : Nat} : Keeps s (execMmacRendezvous cluster tile s) := by
  dsimp only [execMmacRendezvous]
  split
  · exact keeps_next id
  · exact keeps_next resolveTile_memOk

theorem landTile_memOk {cluster : Nat} {ts : List Nat} (h : s.memOk) : (landTile s cluster ts).memOk :=
  foldl_memOk (fun _ _ => modEngine_memOk) (foldl_memOk (fun _ _ => foldl_memOk (fun _ _ => scrWrite_memOk)) h)

theorem execMmacMulticastLanded_keeps {cluster tile : Nat} : Keeps s (execMmacMulticastLanded cluster tile s) := by
  dsimp only [execMmacMulticastLanded]
  split
  · exact keeps_next id
  · exact keeps_next landTile_memOk

theorem predict_memOk {core : Nat} {q : MxOp} (h : s.memOk) : (predict core q s).memOk :=
  foldl_memOk (fun _ _ h1 => modScr_memOk (modEngine_memOk h1)) h

theorem newWindow_memOk {core : Nat} (h : s.memOk) : (newWindow s core).memOk := memOk_ite h (modEngine_memOk h)

theorem execSluiceWindow_keeps {core : Nat} : Keeps s (execSluiceWindow core s) := keeps_next newWindow_memOk

theorem decidePark_memOk {core : Nat} (h : s.memOk) : (decidePark s core).memOk := by
  dsimp only [decidePark]
  split
  · exact h
  · exact memOk_ite (modEngine_memOk h) h

theorem engineCycle_memOk {s0 : State} {core : Nat} (h : s0.memOk) : (engineCycle s0 core).memOk := by
  dsimp only [engineCycle]
  split
  · exact decidePark_memOk h
  · exact memOk_ite (decidePark_memOk h) (memOk_ite (modEngine_memOk (decidePark_memOk h))
        (memOk_ite (modEngine_memOk (memOk_ite (decidePark_memOk h) (modEngine_memOk (modCore_memOk (decidePark_memOk h)))))
        (modEngine_memOk (predict_memOk (memOk_ite (decidePark_memOk h) (modEngine_memOk (modCore_memOk (decidePark_memOk h))))))))

/-- The state that a transfer has reached has memory in canonical form. -/
def TransferMemOk (r : Transfer) : Prop := ∀ t n f, r = some (t, n, f) → t.memOk

theorem transferMemOk_some {n : Nat} {f : Option (Nat × Failure)} (h : s.memOk) : TransferMemOk (some (s, n, f)) := by
  rintro _ _ _ ⟨⟩
  exact h

theorem transferMemOk_none : TransferMemOk none := nofun

theorem foldl_transferMemOk {α : Type} {step : Transfer → α → Transfer} (hstep : ∀ t x, TransferMemOk t → TransferMemOk (step t x)) {l : List α}
    {t : Transfer} (h : TransferMemOk t) : TransferMemOk (l.foldl step t) := by
  induction l generalizing t with
  | nil => exact h
  | cons x xs ih => exact ih (hstep t x h)

theorem loadElem_memOk {core : Nat} {q : MxOp} {t : Transfer} {p : Nat × Nat} (ht : TransferMemOk t) : TransferMemOk (loadElem core q t p) := by
  obtain _ | ⟨s, n, f⟩ := t
  · exact transferMemOk_none
  · have h : s.memOk := ht s n f rfl
    dsimp only [loadElem]
    split
    · exact transferMemOk_none
    · exact transferMemOk_some h
    · next heq1 => exact transferMemOk_some (modEngine_memOk (spaceRead_memOk h _ _ heq1))

theorem storeElem_memOk {core : Nat} {q : MxOp} {t : Transfer} {p : Nat × Nat} (ht : TransferMemOk t) : TransferMemOk (storeElem core q t p) := by
  obtain _ | ⟨s, n, f⟩ := t
  · exact transferMemOk_none
  · have h : s.memOk := ht s n f rfl
    dsimp only [storeElem]
    split
    · exact transferMemOk_none
    · exact transferMemOk_some h
    · next heq1 => exact transferMemOk_some (spaceWrite_memOk h _ _ heq1)

theorem headEffect_memOk {core : Nat} {q : MxOp} (h : s.memOk) : TransferMemOk (headEffect s core q) := by
  dsimp only [headEffect]
  split
  · exact transferMemOk_some h
  · split
    · exact transferMemOk_some (modEngine_memOk h)
    · exact foldl_transferMemOk (fun _ _ => loadElem_memOk) (transferMemOk_some h)
    · exact foldl_transferMemOk (fun _ _ => storeElem_memOk) (transferMemOk_some h)
    · exact transferMemOk_some (modEngine_memOk h)

theorem execMatrixOperationRetire_keeps {core : Nat} : Keeps s (execMatrixOperationRetire core s) := by
  dsimp only [execMatrixOperationRetire]
  split
  · exact keeps_next id
  · refine keeps_ite (keeps_next id) ?_
    split
    · exact keeps_ite (keeps_next id) (keeps_next fun h => retireHead_memOk h)
    · split
      · exact keeps_next id
      · next heq1 =>
        have hsent (h : s.memOk) := headEffect_memOk h _ _ _ heq1
        exact keeps_ite (keeps_next fun h => retireHead_memOk (hsent h)) (keeps_next fun h => modEngine_memOk (hsent h))

theorem execTileStoreZeroed_keeps {core : Nat} : Keeps s (execTileStoreZeroed core s) :=
  keeps_ite (keeps_next modEngine_memOk) (keeps_next id)

theorem dropPredictions_memOk {team : Nat} (h : s.memOk) : (dropPredictions s team).memOk := modScr_memOk h

theorem execMatrixQueuePark_keeps {core : Nat} {s0 : State} : Keeps s0 (execMatrixQueuePark core s0) := by
  dsimp only [execMatrixQueuePark]
  split
  · exact keeps_next decidePark_memOk
  · exact keeps_ite (keeps_next (fun h => modTeam_memOk (dropPredictions_memOk
        (modEngine_memOk (foldl_memOk (fun _ _ h2 => memOk_ite (forgetOp_memOk h2) h2) (decidePark_memOk h))))))
        (keeps_ite (keeps_next (fun h => dropPredictions_memOk (decidePark_memOk h))) (keeps_next decidePark_memOk))

theorem execMxres_keeps {f : ExtForm} : Keeps s (execMxres f s) :=
  instr_keeps (fun _ _ h1 => advance_memOk (writeTruth_memOk (memOk_ite (modEngine_memOk h1) h1)))

theorem execMxrel_keeps {f : ExtForm} : Keeps s (execMxrel f s) :=
  instr_keeps (fun _ _ h1 => memOk_ite (advance_memOk h1) (memOk_ite h1 (advance_memOk (releaseEngine_memOk h1))))

theorem execMxsign_keeps {f : ExtForm} : Keeps s (execMxsign f s) := instr_keeps (fun _ _ h1 => advance_memOk (modJoin_memOk h1))

theorem issueMatrix_memOk {major idx : Nat} {useA useB : Bool} {f : ExtForm} {e : Nat} (h : s.memOk) : (issueMatrix major idx useA useB f e s).memOk
    :=
  memOk_ite h (memOk_ite (modEngine_memOk (modOp_memOk (engineOp_memOk h))) (modJoin_memOk (modEngine_memOk (modOp_memOk (engineOp_memOk h)))))

theorem matrixBy_keeps {major idx : Nat} {useA useB : Bool} {f : ExtForm} : Keeps s (matrixBy major idx useA useB f s) := by
  dsimp only [matrixBy]
  split
  · exact keeps_next trapAll_memOk
  · split
    · exact keeps_next trapAll_memOk
    · refine keeps_ite (keeps_next advance_memOk) ?_
      refine keeps_ite (keeps_next id) ?_
      split
      · exact keeps_next id
      · exact keeps_next id
      · exact keeps_ite (keeps_next advance_memOk) (keeps_ite (keeps_next issueMatrix_memOk) (keeps_next raise_memOk))

theorem execMma_keeps {f : ExtForm} : Keeps s (execMma f s) := matrixBy_keeps

theorem execMmac_keeps {f : ExtForm} : Keeps s (execMmac f s) := matrixBy_keeps

theorem execMxclr_keeps {f : ExtForm} : Keeps s (execMxclr f s) := matrixBy_keeps

theorem execMxld_keeps {f : ExtForm} : Keeps s (execMxld f s) := matrixBy_keeps

theorem execMxst_keeps {f : ExtForm} : Keeps s (execMxst f s) := matrixBy_keeps

theorem execMxscl_keeps {f : ExtForm} : Keeps s (execMxscl f s) := matrixBy_keeps

end Kept

end Sys2Proof.Proofs


/-! Memory stays in canonical form (log 1): near memory, the fabric and collectives. -/

namespace Sys2Proof.Proofs

open Sys2Proof Sys2Proof.Machine Sys2Proof.Rules

section Kept

variable {s : State}

/-! ### Near-memory units -/

theorem releaseSlot_memOk {k : Nat} (h : s.memOk) : (releaseSlot s k).memOk := memOk_ite h (modSlot_memOk h)

theorem stackPart_memOk {asid launch stack va n : Nat} (h : s.memOk) : AccMemOk (stackPart s asid launch stack va n) := by
  dsimp only [stackPart]
  split
  · exact accMemOk_ite accMemOk_wait accMemOk_fail
  · next heq1 =>
    have hs1 := memOk_of_ok heq1 (translate_memOk h)
    refine accMemOk_ite accMemOk_fail ?_
    refine accMemOk_ite accMemOk_wait ?_
    split
    · exact accMemOk_fail
    · exact accMemOk_fail
    · split
      · exact accMemOk_fail
      · next heq3 => exact accMemOk_ok (memOk_of_ok heq3 (homeRead_memOk hs1))
    · split
      · exact accMemOk_fail
      · next heq3 => exact accMemOk_ok (memOk_of_ok heq3 (homeRead_memOk hs1))

theorem stackRead_memOk {asid launch stack fuel : Nat} {va n : Nat} (h : s.memOk) : AccMemOk (stackRead asid launch stack fuel s va n) := by
  induction fuel generalizing s va n with
  | zero => exact accMemOk_ok h
  | succ fuel ih =>
    rw [stackRead]
    refine accMemOk_ite (accMemOk_ok h) ?_
    split
    · exact accMemOk_wait
    · exact accMemOk_fail
    · next heq1 =>
      split
      · exact accMemOk_wait
      · exact accMemOk_fail
      · next heq2 => exact accMemOk_ok (ih (stackPart_memOk h _ _ heq1) _ _ heq2)

theorem execAccPerform_keeps {slot : Nat} : Keeps s (execAccPerform slot s) := by
  dsimp only [execAccPerform]
  split
  · exact keeps_next id
  · split
    · exact keeps_next id
    · exact keeps_next modSlot_memOk
    · next heq2 => exact keeps_next (fun h => modSlot_memOk (memOk_of_acc heq2 (stackRead_memOk h)))

theorem execClosePerform_keeps {slot : Nat} : Keeps s (execClosePerform slot s) := by
  dsimp only [execClosePerform]
  split
  · exact keeps_next id
  · exact keeps_ite (keeps_next id) (keeps_next (fun h => modSlot_memOk (memOk_ite h (scrWrite_memOk h))))

theorem execNmPush_keeps {f : ExtForm} : Keeps s (execNmPush f s) :=
  access_keeps (fun _ _ h1 => memOk_ite h1 (advance_memOk (modSlot_memOk h1)))

theorem execNmTake_keeps {f : ExtForm} : Keeps s (execNmTake f s) := by
  dsimp only [execNmTake]
  refine checked_keeps (fun _ _ h1 => ?_)
  refine memOk_ite (advance_memOk h1) ?_
  split
  · exact h1
  · exact memOk_ite h1 (issueFlag_memOk (modSlot_memOk h1))

theorem tableStack_memOk {core launch va : Nat} (h : s.memOk) : OkMemOk (tableStack s core launch va) := by
  dsimp only [tableStack]
  split
  · exact okMemOk_error
  · next heq1 => exact okMemOk_ite okMemOk_error (okMemOk_ok (memOk_of_ok heq1 (translate_memOk h)))

theorem configure_memOk {k stack : Nat} {r : TableRec} (h : s.memOk) : (configure s k stack r).1.memOk :=
  fst_memOk_ite (releaseSlot_memOk h) (modSlot_memOk (memOk_of_mem_eq rfl (releaseSlot_memOk h)))

theorem endCfgWait_memOk {k : Nat} (h : s.memOk) : (endCfgWait s k).memOk := modSlot_memOk h

theorem nmcfgAct_memOk {f : ExtForm} {act : Lanes} (h : s.memOk) : (nmcfgAct f act s).memOk := by
  dsimp only [nmcfgAct]
  refine memOk_ite (memOk_ite h (begins_memOk (modSlot_memOk h))) ?_
  refine memOk_ite (advance_memOk (writeTruth_memOk (endCfgWait_memOk (releaseSlot_memOk (performOlder_memOk h))))) ?_
  refine memOk_ite (trapActive_memOk (endCfgWait_memOk (performOlder_memOk h))) ?_
  split
  · exact memOk_ite h (trapActive_memOk (endCfgWait_memOk (performOlder_memOk h)))
  · next heq1 =>
      exact advance_memOk (writeTruth_memOk (endCfgWait_memOk (configure_memOk (memOk_of_ok heq1 (tableStack_memOk (performOlder_memOk h))))))

theorem execNmcfg_keeps {f : ExtForm} : Keeps s (execNmcfg f s) := access_keeps (fun _ _ => nmcfgAct_memOk)

theorem execQpoll_keeps {f : ExtForm} : Keeps s (execQpoll f s) := access_keeps (fun _ _ h1 => advance_memOk (writeTruth_memOk h1))

theorem execQflush_keeps {f : ExtForm} : Keeps s (execQflush f s) := access_keeps (fun _ _ => engineOp_memOk)

theorem execQflushRetire_keeps {op : Nat} : Keeps s (execQflushRetire op s) :=
  keeps_ite (keeps_next (fun h => finishOp_memOk h)) (keeps_next id)

theorem execNmv_keeps {f : ExtForm} : Keeps s (execNmv f s) := access_keeps (fun _ _ => engineOp_memOk)

theorem nmvRows_memOk {asid launch stack : Nat} {r : NmvRec} {t : Fmt} {x : List XVal} {n i : Nat} (h : s.memOk) :
    AccMemOk (nmvRows asid launch stack r t x n i s) := by
  induction n generalizing s i with
  | zero => exact accMemOk_ok h
  | succ n ih =>
    rw [nmvRows]
    split
    · exact accMemOk_wait
    · exact accMemOk_fail
    · next heq1 =>
      split
      · exact accMemOk_wait
      · exact accMemOk_fail
      · next heq2 => exact accMemOk_ok (ih (stackRead_memOk h _ _ heq1) _ _ heq2)

theorem execNmvRun_keeps {op : Nat} : Keeps s (execNmvRun op s) := by
  dsimp only [execNmvRun]
  refine keeps_ite (keeps_next id) ?_
  refine keeps_ite (keeps_next (fun h => finishOp_memOk h)) ?_
  refine keeps_ite (keeps_next (fun h => finishOp_memOk h)) ?_
  split
  · exact keeps_ite (keeps_next id) (keeps_next (fun h => finishOp_memOk h))
  · next heq1 =>
    have hs1 (h : s.memOk) := memOk_of_ok heq1 (tableStack_memOk h)
    split
    · exact keeps_next id
    · exact keeps_next (fun h => finishOp_memOk (hs1 h))
    · next heq2 => exact keeps_next (fun h => finishOp_memOk (scrWrite_memOk (memOk_of_acc heq2 (nmvRows_memOk (hs1 h)))))

/-! ### The fabric -/

theorem podWrite_memOk {s0 : State} {ga : Bool} {key a : Nat} {bs : List Byte} (h : s0.memOk) : (podWrite s0 ga key a bs).1.memOk :=
  fst_memOk_ite (wf_ite (found_wf (Laws.pkgWrite_wf _ _ _ _ (beforeWrite_memOk h))) (Laws.pkgWrite_wf _ _ _ _ (beforeWrite_memOk h)))
      (modSched_memOk (Laws.wf_of_cells _ _ rfl (Laws.homeWrite_wf _ _ _ _ (beforeWrite_memOk h))))

theorem podPerform_memOk {kind : PodKind} {ga : Bool} {off size data cmp : Nat} (h : s.memOk) :
    AccMemOk (podPerform s kind ga off size data cmp) := by
  have hwrite {s : State} {key a x old : Nat} (h : s.memOk) : AccMemOk (match (podWrite s ga key a (toBytes x size)).2 with
      | some c => Machine.Acc.fail c off
      | none => .ok old (podWrite s ga key a (toBytes x size)).1) := by
    split
    · exact accMemOk_fail
    · exact accMemOk_ok (podWrite_memOk h)
  dsimp only [podPerform]
  split
  · exact accMemOk_fail
  · refine accMemOk_ite accMemOk_wait ?_
    split
    · split
      · exact accMemOk_fail
      · next heq1 => exact accMemOk_ok (homeRead_memOk h _ _ heq1)
    · exact hwrite h
    · split
      · exact accMemOk_fail
      · next heq1 => exact hwrite (homeRead_memOk h _ _ heq1)
    · split
      · exact accMemOk_fail
      · next heq1 => exact hwrite (homeRead_memOk h _ _ heq1)

theorem execIncomingPodRequest_keeps {req : PodRequest} {s0 : State} : Keeps s0 (execIncomingPodRequest req s0) := by
  dsimp only [execIncomingPodRequest]
  refine keeps_ite (keeps_next id) ?_
  refine keeps_ite (keeps_next (fun h => sendAnswer_memOk (goodFlit_memOk h))) ?_
  split
  · exact keeps_next id
  · exact keeps_next (fun h => sendAnswer_memOk (goodFlit_memOk h))
  · next heq1 => exact keeps_next (fun h => payOwed_memOk (modFabric_memOk (memOk_of_acc heq1 (podPerform_memOk (goodFlit_memOk h)))))

theorem podTranslate_memOk {id part va : Nat} (h : s.memOk) : OkMemOk (podTranslate s id part va) := by
  dsimp only [podTranslate]
  split
  · exact okMemOk_error
  · next heq1 => exact okMemOk_ite okMemOk_error (okMemOk_ite okMemOk_error (okMemOk_ok (modOp_memOk (memOk_of_ok heq1 (translate_memOk h)))))

theorem wcRunsPerform_memOk {line : Nat} {ga : Bool} {rs : List (Nat × List Byte)} {c : Option Nat} (h : s.memOk) :
    AccMemOk (wcRunsPerform line ga rs s c) := by
  induction rs generalizing s c with
  | nil => exact accMemOk_ok h
  | cons r rs ih =>
    rw [wcRunsPerform]
    split
    · exact accMemOk_wait
    · exact ih h
    · next heq1 => exact ih (podPerform_memOk h _ _ heq1)

theorem settleEntry_memOk {core : Nat} {e : WcEntry} (h : s.memOk) : (settleEntry core s e).memOk := by
  dsimp only [settleEntry]
  refine memOk_ite h ?_
  refine memOk_ite (memOk_ite h (dropEntry_memOk h)) ?_
  split
  · exact h
  · exact h
  · next heq1 => exact failEntry_memOk (memOk_of_acc heq1 (wcRunsPerform_memOk h))
  · next heq1 => exact modCore_memOk (memOk_of_acc heq1 (wcRunsPerform_memOk h))

theorem wcSettle_memOk {core : Nat} (h : s.memOk) : (wcSettle s core).memOk :=
  payOwed_memOk (foldl_memOk (fun _ _ => settleEntry_memOk) (foldl_memOk (fun _ _ => settleEntry_memOk) (sendHeld_memOk h)))

theorem drainNow_memOk {core : Nat} {sel : WcEntry → Bool} (h : s.memOk) : (drainNow s core sel).memOk :=
  wcSettle_memOk (drainEntries_memOk h)

theorem execWcEntryTimeout_keeps {core peer line : Nat} : Keeps s (execWcEntryTimeout core peer line s) := keeps_next drainNow_memOk

theorem mergePart_memOk {id pa n data : Nat} (h : s.memOk) : (mergePart s id pa n data).memOk :=
  drainEntries_memOk (modCore_memOk (drainEntries_memOk h))

theorem mergeAll_memOk {id : Nat} (h : s.memOk) : (mergeAll s id).memOk := by
  dsimp only [mergeAll]
  refine foldl_memOk (fun _ _ h1 => ?_) h
  split
  · exact podFail_memOk h1
  · next heq2 => exact mergePart_memOk (modOp_memOk (memOk_of_ok heq2 (podTranslate_memOk h1)))

theorem makeRoom_memOk {o : Op} (h : s.memOk) : (makeRoom s o).memOk := memOk_ite h (begins_memOk (drainNow_memOk h))

theorem startPut_memOk {id : Nat} (h : s.memOk) : (startPut s id).memOk :=
  wcSettle_memOk (memOk_ite (drainEntries_memOk (mergeAll_memOk h)) (mergeAll_memOk h))

theorem startRemote_memOk {id : Nat} (h : s.memOk) : (startRemote s id).memOk := by
  dsimp only [startRemote]
  refine wcSettle_memOk ?_
  refine sendParts_memOk ?_
  refine foldl_memOk (fun _ _ h1 => ?_) h
  split
  · exact podFail_memOk h1
  · next heq2 => exact drainEntries_memOk (modOp_memOk (memOk_of_ok heq2 (podTranslate_memOk h1)))

theorem noteFlush_memOk {id : Nat} (h : s.memOk) : (noteFlush s id).memOk := drainNow_memOk (modOp_memOk h)

theorem startFabric_memOk {id : Nat} (h : s.memOk) : (startFabric s id).memOk := by
  dsimp only [startFabric]
  split
  exacts [startPut_memOk h, h, startRemote_memOk h]

theorem execHeldOperationStart_keeps {op : Nat} : Keeps s (execHeldOperationStart op s) :=
  keeps_ite (keeps_next startBarge_memOk) (keeps_ite (keeps_next id)
      (keeps_ite (keeps_next makeRoom_memOk) (keeps_ite (keeps_ite (keeps_next (fun h => stopNow_memOk (startOp_memOk h)))
      (keeps_ite (keeps_next (fun h => startFabric_memOk (startOp_memOk h))) (keeps_next startOp_memOk))) (keeps_next startOp_memOk))))

theorem issueFabric_memOk {f : ExtForm} {o : Op} (h : s.memOk) : (issueFabric f o s).memOk :=
  memOk_ite h (memOk_ite (engineOp_memOk h) (memOk_ite (noteFlush_memOk (engineOp_memOk h))
      (memOk_ite (modOp_memOk (engineOp_memOk h)) (memOk_ite (engineOp_memOk h) (startFabric_memOk (engineOp_memOk h))))))

theorem execPut_keeps {f : ExtForm} : Keeps s (execPut f s) :=
  access_keeps (fun _ _ h1 => memOk_ite (makeRoom_memOk h1) (issueFabric_memOk h1))

theorem execRld_keeps {f : ExtForm} : Keeps s (execRld f s) := access_keeps (fun _ _ => issueFabric_memOk)

theorem execRatom_keeps {f : ExtForm} : Keeps s (execRatom f s) := access_keeps (fun _ _ => issueFabric_memOk)

theorem execWcflush_keeps {f : ExtForm} : Keeps s (execWcflush f s) := access_keeps (fun _ _ => issueFabric_memOk)

theorem noteFar_memOk {id : Nat} {fail : Option Nat} (h : s.memOk) : (noteFar s id fail).memOk := by
  dsimp only [noteFar]
  refine foldl_memOk (fun _ _ h1 => ?_) h
  split
  · exact memOk_ite h1 (podFail_memOk h1)
  · exact h1

theorem endRemote_memOk {id : Nat} (h : s.memOk) : (endRemote s id).memOk := finishOp_memOk h

theorem addCounter_memOk {id : Nat} {fail : Option Nat} (h : s.memOk) : SomeMemOk (addCounter s id fail) := by
  dsimp only [addCounter]
  refine someMemOk_ite (someMemOk_some h) ?_
  split
  · exact someMemOk_ite someMemOk_none (someMemOk_some (modOp_memOk h))
  · next heq1 =>
    have hs1 := memOk_of_ok heq1 (podTranslate_memOk h)
    refine someMemOk_ite someMemOk_none ?_
    refine someMemOk_ite ?_ ?_
    · split
      · exact someMemOk_none
      · exact someMemOk_some (modOp_memOk hs1)
      · split
        · exact someMemOk_some (modOp_memOk (sendBy_memOk hs1))
        · exact someMemOk_some (sendBy_memOk hs1)
    · split
      · exact someMemOk_none
      · exact someMemOk_some (modOp_memOk hs1)
      · next heq2 =>
        have hs2 := memOk_of_acc heq2 (podPerform_memOk hs1)
        exact someMemOk_ite (someMemOk_some hs2) (someMemOk_some (modOp_memOk hs2))

theorem execPutRetire_keeps {op : Nat} {fail : Option Nat} : Keeps s (execPutRetire op fail s) := by
  dsimp only [execPutRetire]
  refine keeps_ite (keeps_next id) ?_
  refine keeps_ite (keeps_ite (keeps_next (fun h => endRemote_memOk (wcSettle_memOk h))) (keeps_next id)) ?_
  refine keeps_ite (keeps_next id) ?_
  split
  · exact keeps_next id
  · next heq1 =>
    have hs1 (h : s.memOk) := memOk_of_some heq1 (addCounter_memOk (noteFar_memOk (modCore_memOk (goodFlits_memOk (wcSettle_memOk h)))))
    exact keeps_ite (keeps_next (fun h => hs1 h)) (keeps_next (fun h => endRemote_memOk (hs1 h)))

theorem gatherPart_memOk {id : Nat} {fail : Option Nat} {data : List FarData} {t : Option State} {p : Nat × Nat × Nat} (ht : SomeMemOk t) :
    SomeMemOk (gatherPart id fail data t p) := by
  cases t with
  | none => exact someMemOk_none
  | some s =>
    have h : s.memOk := ht s rfl
    dsimp only [gatherPart]
    split
    · exact someMemOk_some h
    · refine someMemOk_ite ?_ ?_
      · exact someMemOk_ite (someMemOk_some h) (someMemOk_ite (someMemOk_some (podFail_memOk h)) (someMemOk_some (modOp_memOk h)))
      · split
        · exact someMemOk_none
        · exact someMemOk_some (podFail_memOk h)
        · next heq1 => exact someMemOk_some (modOp_memOk (podPerform_memOk h _ _ heq1))

theorem foldl_gatherPart_memOk {id : Nat} {fail : Option Nat} {data : List FarData} {ps : List (Nat × Nat × Nat)} {t : Option State}
    (ht : SomeMemOk t) : SomeMemOk (ps.foldl (gatherPart id fail data) t) := by
  induction ps generalizing t with
  | nil => exact ht
  | cons p ps ih => exact ih (gatherPart_memOk ht)

theorem execRemoteAccessRetire_keeps {op : Nat} {fail : Option Nat} {data : List FarData} :
    Keeps s (execRemoteAccessRetire op fail data s) := by
  dsimp only [execRemoteAccessRetire]
  refine keeps_ite (keeps_next id) (keeps_ite ?_ (keeps_ite (keeps_next id) (keeps_ite ?_ (keeps_ite (keeps_next id) ?_))))
  · exact keeps_ite (keeps_next fun h => finishOp_memOk (wcSettle_memOk h)) (keeps_next id)
  · exact keeps_ite (keeps_next fun h => endRemote_memOk (wcSettle_memOk h)) (keeps_next id)
  · split
    · exact keeps_next id
    · next heq1 =>
      refine keeps_next fun h => ?_
      have hgathered := foldl_gatherPart_memOk (someMemOk_some (noteFar_memOk (goodFlits_memOk (wcSettle_memOk h)))) _ heq1
      exact memOk_ite (endRemote_memOk (modOp_memOk (modOp_memOk hgathered))) (modOp_memOk (modOp_memOk hgathered))

theorem landEntry_memOk {core k : Nat} (h : s.memOk) : (landEntry s core k).memOk := by
  dsimp only [landEntry]
  split
  · exact h
  · split
    · exact h
    · exact memOk_ite h (wcSettle_memOk (dropEntry_memOk (goodFlit_memOk h)))

theorem badEgress_memOk {core k : Nat} (h : s.memOk) : (badEgress s core k).memOk := by
  dsimp only [badEgress]
  split
  · exact h
  · exact memOk_ite h (failEntry_memOk h)

/-! ### Collectives -/

theorem readRanks_memOk {g : Agent} {base : Nat} {js : List Nat} (h : s.memOk) : AccMemOk (readRanks g base js s) := by
  induction js generalizing s with
  | nil => exact accMemOk_ok h
  | cons j js ih =>
    rw [readRanks]
    split
    · exact accMemOk_wait
    · exact accMemOk_fail
    · next heq1 =>
      split
      · exact accMemOk_wait
      · exact accMemOk_fail
      · next heq2 => exact accMemOk_ok (ih (load_memOk h _ _ heq1) _ _ heq2)

theorem readBlock_memOk {g : Agent} {va : Nat} (h : s.memOk) : AccMemOk (readBlock s g va) := by
  dsimp only [readBlock]
  split
  · exact accMemOk_wait
  · exact accMemOk_fail
  · next heq1 =>
    split
    · exact accMemOk_wait
    · exact accMemOk_fail
    · next heq2 => exact accMemOk_ok (memOk_of_acc heq2 (readRanks_memOk (memOk_of_acc heq1 (load_memOk h))))

theorem failBlock_memOk {id c a : Nat} (h : s.memOk) : (failBlock s id c a).memOk := finishOp_memOk h

theorem poisonPlan_memOk {id c : Nat} (h : s.memOk) : (poisonPlan s id c).memOk := finishOp_memOk h

theorem freeDwords_memOk {n : Nat} (h : s.memOk) : (freeDwords n s).2.memOk := by
  induction n generalizing s with
  | zero => exact h
  | succ n ih => exact ih (took_memOk (took_memOk h))

/-- R372: a plan's words, or free ones where there is none. -/
theorem planWords_memOk {w : List Nat} {axis : Option (Nat × Nat)} {st : Nat} (h : s.memOk) : (match axis with
    | some (a, kind) => if st = 0 then (planRecord w a kind, s) else freeDwords 5 s
    | none => freeDwords 5 s).2.memOk := by
  split
  · exact snd_memOk_ite h (freeDwords_memOk h)
  · exact freeDwords_memOk h

theorem execClplanRun_keeps {op : Nat} : Keeps s (execClplanRun op s) := by
  dsimp only [execClplanRun]
  refine keeps_ite (keeps_next id) ?_
  split
  · exact keeps_next id
  · exact keeps_next failBlock_memOk
  · next heq1 =>
    split
    · exact keeps_next id
    · exact keeps_next fun h => failBlock_memOk (planWords_memOk (readBlock_memOk h _ _ heq1))
    · next heq2 =>
      have hstored (h : s.memOk) := memOk_of_acc heq2 (store_memOk (planWords_memOk (readBlock_memOk h _ _ heq1)))
      exact keeps_next fun h => memOk_ite (finishOp_memOk (hstored h)) (poisonPlan_memOk (hstored h))

theorem loadElement_memOk {p : Plan} {k i : Nat} (h : s.memOk) : AccMemOk (loadElement s p k i) := by
  dsimp only [loadElement]
  split
  · exact accMemOk_wait
  · exact accMemOk_fail
  · next heq1 => exact accMemOk_ok (memOk_of_acc heq1 (load_memOk h))

theorem loadElements_memOk {p : Plan} {k : Nat} {is : List Nat} (h : s.memOk) : AccMemOk (loadElements p k is s) := by
  induction is generalizing s with
  | nil => exact accMemOk_ok h
  | cons i is ih =>
    rw [loadElements]
    split
    · exact accMemOk_wait
    · exact accMemOk_fail
    · next heq1 =>
      split
      · exact accMemOk_wait
      · exact accMemOk_fail
      · next heq2 => exact accMemOk_ok (ih (loadElement_memOk h _ _ heq1) _ _ heq2)

theorem loadContribs_memOk {p : Plan} {c n k : Nat} (h : s.memOk) : AccMemOk (loadContribs p c n k s) := by
  induction n generalizing s k with
  | zero => exact accMemOk_ok h
  | succ n ih =>
    rw [loadContribs]
    split
    · exact accMemOk_wait
    · exact accMemOk_fail
    · next heq1 =>
      split
      · exact accMemOk_wait
      · exact accMemOk_fail
      · next heq2 => exact accMemOk_ok (ih (loadElements_memOk h _ _ heq1) _ _ heq2)

theorem chunkValue_memOk {p : Plan} {c : Nat} (h : s.memOk) : AccMemOk (chunkValue s p c) := by
  dsimp only [chunkValue]
  refine accMemOk_ite (accMemOk_ok h) ?_
  refine accMemOk_ite ?_ ?_
  · split
    · exact accMemOk_wait
    · exact accMemOk_fail
    · next heq1 => exact accMemOk_ok (memOk_of_acc heq1 (loadContribs_memOk h))
  · split
    · exact accMemOk_wait
    · exact accMemOk_fail
    · next heq1 => exact accMemOk_ok (memOk_of_acc heq1 (loadElements_memOk h))

theorem planStore_memOk {p : Plan} {va : Nat} {bs : List Byte} (h : s.memOk) : AccMemOk (planStore s p va bs) := by
  dsimp only [planStore]
  split
  · exact accMemOk_wait
  · exact accMemOk_fail
  · next heq1 => exact accMemOk_ok (modMem_memOk (fun _ h2 => h2) (memOk_of_acc heq1 (store_memOk h)))

theorem sendChunk_memOk {p : Plan} {q x data : Nat} (h : s.memOk) : AccMemOk (sendChunk s p q x data) := by
  dsimp only [sendChunk]
  split
  · exact accMemOk_fail
  · exact accMemOk_ok (sendBy_memOk h)

theorem sendToAll_memOk {p : Plan} {x data : Nat} {qs : List Nat} (h : s.memOk) : AccMemOk (sendToAll p x data qs s) := by
  induction qs generalizing s with
  | nil => exact accMemOk_ok h
  | cons q qs ih =>
    rw [sendToAll]
    split
    · exact accMemOk_wait
    · exact accMemOk_fail
    · next heq1 => exact ih (sendChunk_memOk h _ _ heq1)

theorem finishChunk_memOk {id c : Nat} (h : s.memOk) : AccMemOk (finishChunk s id c) := by
  dsimp only [finishChunk]
  split
  · exact accMemOk_wait
  · exact accMemOk_fail
  · next heq1 =>
    split
    · exact accMemOk_wait
    · exact accMemOk_fail
    · next heq2 =>
      have hs2 := memOk_of_acc heq2 (planStore_memOk (memOk_of_acc heq1 (chunkValue_memOk h)))
      exact accMemOk_ite (sendToAll_memOk (modFabric_memOk hs2)) (accMemOk_ok (modFabric_memOk hs2))

theorem dispatchReduce_memOk {id u : Nat} (h : s.memOk) : (dispatchReduce s id u).memOk := memOk_ite h (modFabric_memOk h)

theorem finishReady_memOk {id : Nat} {cs : List Nat} (h : s.memOk) : AccMemOk (finishReady id cs s) := by
  induction cs generalizing s with
  | nil => exact accMemOk_ok h
  | cons c cs ih =>
    rw [finishReady]
    refine accMemOk_ite (ih h) (accMemOk_ite (ih (dispatchReduce_memOk h)) ?_)
    split
    · exact accMemOk_wait
    · exact accMemOk_fail
    · next heq1 => exact ih (finishChunk_memOk h _ _ heq1)

theorem sumUnit_memOk {id : Nat} {cs : List Nat} (h : s.memOk) : AccMemOk (sumUnit id cs s) := by
  induction cs generalizing s with
  | nil => exact accMemOk_ok h
  | cons c cs ih =>
    rw [sumUnit]
    split
    · exact accMemOk_wait
    · exact accMemOk_fail
    · next heq1 => exact ih (finishChunk_memOk h _ _ heq1)

theorem workOn_memOk {id : Nat} (h : s.memOk) : AccMemOk (workOn s id) := finishReady_memOk h

theorem putStatus_memOk {p : Plan} {state cause peer : Nat} {all : Bool} (h : s.memOk) : AccMemOk (putStatus s p state cause peer all) :=
  store_memOk h

theorem reduceGone_memOk {s0 s : State} (h : s.memOk) : (reduceGone s0 s).memOk :=
  foldl_memOk (fun _ _ h1 => clearSems_memOk (noteReturned_memOk h1)) h

theorem awaitNotices_memOk {tag : Nat} {ms : List Nat} (h : s.memOk) : (awaitNotices s tag ms).memOk := modFabric_memOk h

theorem sendNotices_memOk {p : Plan} {cause : Nat} (h : s.memOk) : (sendNotices s p cause).memOk := foldl_memOk (fun _ _ => sendTo_memOk) h

theorem unwatch_memOk {p : Plan} (h : s.memOk) : (unwatch s p).memOk := modMem_memOk (fun _ h1 => h1) h

theorem abortPlan_memOk {id cause peer : Nat} (h : s.memOk) : SomeMemOk (abortPlan s id cause peer) := by
  dsimp only [abortPlan]
  split
  · exact someMemOk_none
  · exact someMemOk_some (poisonPlan_memOk (awaitNotices_memOk (unwatch_memOk (reduceGone_memOk (modFabric_memOk (sendNotices_memOk h))))))
  · next heq1 =>
      exact someMemOk_some (poisonPlan_memOk (memOk_of_acc heq1 (putStatus_memOk
          (awaitNotices_memOk (unwatch_memOk (reduceGone_memOk (modFabric_memOk (sendNotices_memOk h))))))))

theorem abortOr_keeps {s s0 s1 : State} {id cause : Nat} (h0 : s.memOk → s0.memOk) (h1 : s.memOk → s1.memOk) : Keeps s (abortOr s0 s1 id cause) :=
  keeps_next fun h => getD_memOk (abortPlan_memOk (h1 h)) (h0 h)

theorem orAbort_keeps {s s0 sFail : State} {id : Nat} {w : PlanWork} (hw : s.memOk → AccMemOk w) (h0 : s.memOk → s0.memOk)
    (hfail : s.memOk → sFail.memOk) : Keeps s (orAbort s0 id sFail w) := by
  cases w with
  | wait => exact keeps_next h0
  | fail c a => exact abortOr_keeps h0 hfail
  | ok x s1 => exact keeps_next fun h => hw h x s1 rfl

theorem runReduce_memOk {r : ReduceTeam} (h : s.memOk) : (runReduce s r).memOk := by
  dsimp only [runReduce]
  split
  · exact getD_memOk (abortPlan_memOk h) h
  · split
    · exact h
    · exact getD_memOk (abortPlan_memOk h) h
    · next heq2 => exact reduceGone_memOk (modFabric_memOk (memOk_of_acc heq2 (sumUnit_memOk h)))

theorem fillStaging_memOk {p : Plan} (h : s.memOk) : AccMemOk (fillStaging s p) :=
  accMemOk_ite (accMemOk_ok h) (planStore_memOk (freeBytes_memOk h))

theorem outChunk_memOk {p : Plan} {q x : Nat} (h : s.memOk) : AccMemOk (outChunk s p q x) := by
  dsimp only [outChunk]
  split
  · exact accMemOk_wait
  · exact accMemOk_fail
  · next heq1 => exact accMemOk_ok (memOk_of_acc heq1 (loadElements_memOk h))

theorem sendChunks_memOk {p : Plan} {l : List (Nat × Nat)} (h : s.memOk) : AccMemOk (sendChunks p l s) := by
  induction l generalizing s with
  | nil => exact accMemOk_ok h
  | cons q l ih =>
    rw [sendChunks]
    split
    · exact accMemOk_wait
    · exact accMemOk_fail
    · next heq1 =>
      split
      · exact accMemOk_wait
      · exact accMemOk_fail
      · next heq2 => exact ih (sendChunk_memOk (outChunk_memOk h _ _ heq1) _ _ heq2)

theorem startExchange_memOk {id : Nat} (h : s.memOk) : AccMemOk (startExchange s id) := by
  dsimp only [startExchange]
  split
  · exact accMemOk_wait
  · exact accMemOk_fail
  · next heq1 =>
    split
    · exact accMemOk_wait
    · exact accMemOk_fail
    · next heq2 =>
        exact workOn_memOk (memOk_of_acc heq2 (sendChunks_memOk (memOk_of_acc heq1
            (fillStaging_memOk (modMem_memOk (fun _ h1 => h1) (modFabric_memOk h))))))

theorem tryStart_memOk {id : Nat} (h : s.memOk) : AccMemOk (tryStart s id) := accMemOk_ite (startExchange_memOk h) (accMemOk_ok h)

theorem enterPlan_keeps {s s0 s1 : State} {id : Nat} {p : Plan} (h0 : s.memOk → s0.memOk) (h1 : s.memOk → s1.memOk) :
    Keeps s (enterPlan s0 s1 id p) := by
  dsimp only [enterPlan]
  split
  · exact keeps_next h0
  · exact keeps_next fun h => failBlock_memOk (h1 h)
  · next heq1 =>
    have hstatus (h : s.memOk) := memOk_of_acc heq1 (putStatus_memOk (h1 h))
    refine keeps_ite (abortOr_keeps h0 ?_) (keeps_ite (abortOr_keeps h0 ?_) (orAbort_keeps (fun h => tryStart_memOk ?_) h0 ?_))
    · exact fun h => foldl_memOk (fun _ _ => sendTo_memOk) (modFabric_memOk (hstatus h))
    · exact fun h => foldl_memOk (fun _ _ => sendTo_memOk) (modFabric_memOk (hstatus h))
    · exact foldl_memOk (fun _ _ => sendTo_memOk) (modFabric_memOk (hstatus h))
    · exact fun h => foldl_memOk (fun _ _ => sendTo_memOk) (modFabric_memOk (hstatus h))

theorem abortKept_keeps {s s0 s1 : State} {id : Nat} {p : Plan} {sender cause : Nat} (h0 : s.memOk → s0.memOk) (h1 : s.memOk → s1.memOk) :
    Keeps s (abortKept s0 s1 id p sender cause) := by
  dsimp only [abortKept]
  split
  · exact keeps_next h0
  · exact keeps_next fun h => failBlock_memOk (awaitNotices_memOk (sendNotices_memOk (modFabric_memOk (h1 h))))
  · next heq1 =>
    refine keeps_next fun h => poisonPlan_memOk (memOk_of_acc heq1 (putStatus_memOk ?_))
    exact awaitNotices_memOk (sendNotices_memOk (modFabric_memOk (h1 h)))

theorem execClgoRendezvous_keeps {op : Nat} : Keeps s (execClgoRendezvous op s) := by
  dsimp only [execClgoRendezvous]
  refine keeps_ite (keeps_next id) ?_
  split
  · exact keeps_next id
  · exact keeps_next failBlock_memOk
  · next heq1 =>
    have hs1 (h : s.memOk) := memOk_of_acc heq1 (readBlock_memOk h)
    split
    · exact keeps_next id
    · exact keeps_next (fun h => failBlock_memOk (hs1 h))
    · next heq2 =>
      have hs2 (h : s.memOk) := memOk_of_acc heq2 (load_memOk (hs1 h))
      split
      · exact keeps_next (fun h => poisonPlan_memOk (hs2 h))
      · refine keeps_ite (keeps_next (fun h => poisonPlan_memOk (hs2 h))) ?_
        split
        · exact keeps_next id
        · exact keeps_next (fun h => failBlock_memOk (hs2 h))
        · next heq4 =>
          have hs4 (h : s.memOk) := memOk_of_acc heq4 (load_memOk (hs2 h))
          refine keeps_ite (keeps_next (fun h => poisonPlan_memOk (hs4 h))) ?_
          split
          · exact abortKept_keeps id (fun h => hs4 h)
          · exact enterPlan_keeps id (fun h => hs4 h)

theorem execMemberRendezvous_keeps {tag kind g sbytes sender : Nat} {s0 : State} : Keeps s0 (execMemberRendezvous tag kind g sbytes sender s0) := by
  dsimp only [execMemberRendezvous]
  refine keeps_ite (keeps_next id) ?_
  split
  · exact keeps_next (fun h => modFabric_memOk (modFabric_memOk h))
  · exact keeps_ite (keeps_next (fun h => modFabric_memOk (modFabric_memOk h)))
        (keeps_ite (abortOr_keeps id modFabric_memOk) (orAbort_keeps (fun h => tryStart_memOk (modFabric_memOk (modFabric_memOk h))) id
        (fun h => modFabric_memOk (modFabric_memOk h))))

theorem execChunkArrival_keeps {op pos chunk : Nat} {data : FarData} : Keeps s (execChunkArrival op pos chunk data s) :=
  keeps_ite (keeps_next id) (keeps_ite (abortOr_keeps id id) (orAbort_keeps (fun h => workOn_memOk (modFabric_memOk h)) id modFabric_memOk))

theorem blurChunks_memOk {p : Plan} {vas : List Nat} (h : s.memOk) : AccMemOk (blurChunks p vas s) := by
  induction vas generalizing s with
  | nil => exact accMemOk_ok h
  | cons va vas ih =>
    rw [blurChunks]
    split
    · exact accMemOk_wait
    · exact accMemOk_fail
    · next heq1 => exact ih (planStore_memOk (freeBytes_memOk h) _ _ heq1)

theorem execClgoComplete_keeps {op : Nat} : Keeps s (execClgoComplete op s) := by
  dsimp only [execClgoComplete]
  refine keeps_ite (keeps_next id) ?_
  split
  · exact keeps_next id
  · exact abortOr_keeps id id
  · next heq1 =>
    split
    · exact keeps_next id
    · exact abortOr_keeps id id
    · next heq2 =>
        exact keeps_next (fun h => finishOp_memOk (awaitNotices_memOk
            (unwatch_memOk (modFabric_memOk (memOk_of_acc heq2 (putStatus_memOk (memOk_of_acc heq1 (blurChunks_memOk h))))))))

theorem execPlanAbort_keeps {op cause : Nat} : Keeps s (execPlanAbort op cause s) := keeps_ite (abortOr_keeps id id) (keeps_next id)

theorem execAbortNoticeArrival_keeps {tag sender cause : Nat} : Keeps s (execAbortNoticeArrival tag sender cause s) := by
  dsimp only [execAbortNoticeArrival]
  refine keeps_ite (keeps_next id) ?_
  refine keeps_ite (keeps_next modFabric_memOk) ?_
  split
  · exact keeps_next (fun h => getD_memOk (abortPlan_memOk h) h)
  · exact keeps_next modFabric_memOk

theorem loseRoutes_memOk (h : s.memOk) : (loseRoutes s).memOk :=
  memOk_ite h (foldl_memOk (fun _ _ h1 => getD_memOk (abortPlan_memOk h1) h1) h)

theorem forwardRing_memOk {id : Nat} {r : Machine.Ring} {team : Nat} {poisoned : Bool} {data : List Word} (h : s.memOk) :
    (forwardRing s id r team poisoned data).memOk :=
  memOk_ite (poisonPlan_memOk (memOk_ite h (modFabric_memOk (modTeam_memOk h)))) (finishOp_memOk (memOk_ite h (modFabric_memOk (modTeam_memOk h))))

theorem passRing_memOk {id : Nat} {r : Machine.Ring} {team : Nat} {got : Option Packet} (h : s.memOk) : (passRing s id r team got).memOk := by
  dsimp only [passRing]
  refine memOk_ite ?_ ?_
  · refine forwardRing_memOk ?_
    split
    · exact modCore_memOk h
    · exact h
  · refine memOk_ite ?_ ?_
    · refine poisonPlan_memOk ?_
      split
      · exact modCore_memOk h
      · exact h
    · refine finishOp_memOk ?_
      refine scrWrite_memOk ?_
      split
      · exact modCore_memOk h
      · exact h

theorem execRringRun_keeps {op : Nat} : Keeps s (execRringRun op s) := by
  dsimp only [execRringRun]
  refine keeps_ite (keeps_next id) ?_
  refine keeps_ite (keeps_next poisonPlan_memOk) ?_
  refine keeps_ite (keeps_next id) ?_
  refine keeps_ite (keeps_next passRing_memOk) ?_
  split
  · exact keeps_next id
  · exact keeps_next passRing_memOk

theorem execRringPacketArrival_keeps {packet : Nat} : Keeps s (execRringPacketArrival packet s) := by
  dsimp only [execRringPacketArrival]
  split
  · exact keeps_next id
  · exact keeps_ite (keeps_next id) (keeps_ite (keeps_next modFabric_memOk)
        (keeps_ite (keeps_next id) (keeps_next (fun h => modCore_memOk (modFabric_memOk h)))))

theorem stopStation_memOk {n : Nat} (h : s.memOk) : (stopStation s n).memOk :=
  memOk_ite (loseRoutes_memOk (askReplacement_memOk (modStation_memOk h))) h

theorem execStationStop_keeps {station : Nat} : Keeps s (execStationStop station s) := keeps_next stopStation_memOk

theorem execFlitAuthFailure_keeps {station : Nat} : Keeps s (execFlitAuthFailure station s) :=
  keeps_ite (keeps_next id) (keeps_ite (keeps_next (fun h => stopStation_memOk (modStation_memOk h))) (keeps_next modStation_memOk))

theorem execStationNonceExhausted_keeps {station : Nat} : Keeps s (execStationNonceExhausted station s) :=
  keeps_ite (keeps_next stopStation_memOk) (keeps_next id)

theorem execStationStart_keeps {station : Nat} : Keeps s (execStationStart station s) :=
  keeps_ite (keeps_next modStation_memOk) (keeps_next id)

theorem planIssue_keeps {kind : OpKind} {idx : Nat} {f : ExtForm} : Keeps s (planIssue kind idx f s) :=
  access_keeps (fun _ _ => engineOp_memOk)

theorem execClplan_keeps {f : ExtForm} : Keeps s (execClplan f s) := planIssue_keeps

theorem execClgo_keeps {f : ExtForm} : Keeps s (execClgo f s) := planIssue_keeps

theorem noteRing_memOk {s0 s : State} {team off : Nat} (h : s.memOk) : (noteRing s0 s team off).memOk := memOk_ite h (modTeam_memOk h)

theorem execRring_keeps {f : ExtForm} : Keeps s (execRring f s) := access_keeps (fun _ _ h1 => noteRing_memOk (engineOp_memOk h1))

end Kept

end Sys2Proof.Proofs


/-! Memory stays in canonical form (log 1): management, the host, the debugger, the command processor and degraded operation. -/

namespace Sys2Proof.Proofs

open Sys2Proof Sys2Proof.Machine Sys2Proof.Rules

section Kept

variable {s : State}

/-! ### Management and trust -/

theorem forgetLines_memOk {ls : List Nat} (h : s.memOk) : (forgetLines ls s).memOk := by
  induction ls generalizing s with
  | nil => exact h
  | cons l ls ih => exact ih (Laws.setCells_wf _ _ _ (freeBytes_memOk h))

theorem cleared_memOk {m : Mgmt} (h : s.memOk) : (s.cleared m).memOk := Laws.wf_filter _ _ _ (forgetLines_memOk h)

theorem execReset_keeps : Keeps s (execReset s) := keeps_next cleared_memOk

theorem execThermalShutdown_keeps {sensor deg : Nat} : Keeps s (execThermalShutdown sensor deg s) :=
  keeps_ite (keeps_next fun h => cleared_memOk (m := { powered := false }) h) (keeps_next id)

theorem settleAlarm_memOk (h : s.memOk) : (settleAlarm s).memOk :=
  memOk_ite (signal_memOk (modMgmt_memOk h)) (memOk_ite (signal_memOk (modMgmt_memOk h)) h)

theorem execPowerSample_keeps {milliwatts : Nat} : Keeps s (execPowerSample milliwatts s) :=
  keeps_next (fun h => settleAlarm_memOk (modMgmt_memOk h))

theorem execBootStageLoad_keeps {stage version : Nat} {image : List Nat} : Keeps s (execBootStageLoad stage version image s) :=
  keeps_ite (keeps_next modMgmt_memOk) (keeps_next id)

theorem execNegotiateAlgorithms_keeps {path : Nat} {offers : List Nat} : Keeps s (execNegotiateAlgorithms path offers s) :=
  keeps_ite (keeps_next id) (keeps_ite (keeps_next (fun h => send_memOk (modMgmt_memOk h))) (keeps_next (fun h => send_memOk (modMgmt_memOk h))))

theorem execGetMeasurements_keeps {path nonce : Nat} : Keeps s (execGetMeasurements path nonce s) :=
  keeps_ite (keeps_next id) (keeps_ite (keeps_next (fun h => send_memOk (foldl_memOk (fun _ _ => send_memOk) h))) (keeps_next send_memOk))

theorem execSecureSession_keeps {chainsToAnchor bothAuth : Bool} : Keeps s (execSecureSession chainsToAnchor bothAuth s) :=
  keeps_ite (keeps_next modMgmt_memOk) (keeps_next id)

theorem askFrom_memOk {path : Nat} (h : s.memOk) : (askFrom s path).memOk := modMgmt_memOk h

theorem endSession_memOk {path : Nat} (h : s.memOk) : (endSession s path).memOk := modMgmt_memOk h

theorem managed_keeps {go : State → State} (hgo : ∀ s, s.memOk → (go s).memOk) : Keeps s (managed s go) :=
  keeps_ite (keeps_next id) (keeps_ite (keeps_next (fun h => hgo _ h)) (keeps_next send_memOk))

theorem execSetPodIdentifier_keeps {id : Nat} : Keeps s (execSetPodIdentifier id s) :=
  managed_keeps (fun _ h1 => memOk_ite (modFabric_memOk h1) h1)

theorem execSetExportSegment_keeps {idx entry : Nat} : Keeps s (execSetExportSegment idx entry s) :=
  managed_keeps (fun _ h1 => memOk_ite (modFabric_memOk h1) h1)

theorem loadKeySlot_memOk {slot : Nat} {key : Option Nat} (h : s.memOk) : (loadKeySlot slot key s).memOk :=
  modXlat_memOk (modMem_memOk (fun _ h1 => h1) h)

theorem execKeySlotLoad_keeps {slot : Nat} {key : Option Nat} : Keeps s (execKeySlotLoad slot key s) :=
  managed_keeps (fun _ h1 => memOk_ite h1 (memOk_ite (modXlat_memOk h1) (loadKeySlot_memOk h1)))

theorem execIdeKeyLoad_keeps {port key : Nat} : Keeps s (execIdeKeyLoad port key s) :=
  managed_keeps (fun _ h1 => memOk_ite (modHost_memOk h1) h1)

theorem execStationKeyLoad_keeps {station dir key : Nat} : Keeps s (execStationKeyLoad station dir key s) :=
  managed_keeps (fun _ h1 => memOk_ite h1 (modStation_memOk h1))

theorem execSetHdmKey_keeps {slot : Option Nat} : Keeps s (execSetHdmKey slot s) := by
  dsimp only [execSetHdmKey]
  refine managed_keeps (fun _ h1 => ?_)
  split
  · exact modHost_memOk h1
  · exact memOk_ite (modHost_memOk h1) h1

theorem execSetSpace3Window_keeps {port base limit : Nat} : Keeps s (execSetSpace3Window port base limit s) :=
  managed_keeps (fun _ h1 => memOk_ite (modHost_memOk h1) h1)

theorem execSetPrivilegeMask_keeps {mask : Nat} : Keeps s (execSetPrivilegeMask mask s) := managed_keeps (fun _ => modMgmt_memOk)

theorem execSetHotThreshold_keeps {core deg : Nat} : Keeps s (execSetHotThreshold core deg s) :=
  managed_keeps (fun _ h1 => memOk_ite (modCore_memOk h1) h1)

theorem execSetReserveMarks_keeps {die high low : Nat} : Keeps s (execSetReserveMarks die high low s) :=
  managed_keeps (fun _ h1 => memOk_ite (modDie_memOk h1) h1)

theorem execSetRetirementThreshold_keeps {kind n : Nat} : Keeps s (execSetRetirementThreshold kind n s) :=
  managed_keeps (fun _ h1 => memOk_ite (modMgmt_memOk h1) h1)

theorem countError_memOk {kind unit : Nat} (h : s.memOk) : (countError s kind unit).memOk := memOk_ite (modMgmt_memOk h) h

theorem strikeUnit_memOk {kind unit : Nat} (h : s.memOk) : (strikeUnit s kind unit).memOk := memOk_ite (modMgmt_memOk h) h

theorem unitRetired_memOk {kind unit : Nat} (h : s.memOk) : (unitRetired s kind unit).memOk := modMgmt_memOk h

theorem execSetPowerLimit_keeps {watts : Nat} : Keeps s (execSetPowerLimit watts s) :=
  managed_keeps (fun _ h1 => memOk_ite (settleAlarm_memOk (modMgmt_memOk h1)) h1)

theorem execDynamicCapacityExtent_keeps {port : Nat} {add : Bool} {base len : Nat} : Keeps s (execDynamicCapacityExtent port add base len s) :=
  keeps_ite (keeps_next id) (keeps_next modHost_memOk)

theorem execCoreTemperatureReading_keeps {core deg : Nat} : Keeps s (execCoreTemperatureReading core deg s) :=
  keeps_ite (keeps_next modCore_memOk) (keeps_next id)

theorem execDroopEvent_keeps {core : Nat} : Keeps s (execDroopEvent core s) := keeps_ite (keeps_next modCore_memOk) (keeps_next id)

theorem execDroopQuiet_keeps {core : Nat} : Keeps s (execDroopQuiet core s) := keeps_ite (keeps_next modCore_memOk) (keeps_next id)

theorem beginGang_memOk {k : Nat} (h : s.memOk) : (beginGang s k).memOk := modWork_memOk (modLaunch_memOk h)

theorem execReserveGrow_keeps {die : Nat} : Keeps s (execReserveGrow die s) := keeps_ite (keeps_next modDie_memOk) (keeps_next id)

theorem execReserveShrink_keeps {die : Nat} : Keeps s (execReserveShrink die s) := keeps_ite (keeps_next modDie_memOk) (keeps_next id)

theorem execPortLinkTraining_keeps {port : Nat} {cxl : Bool} {rate width : Nat} : Keeps s (execPortLinkTraining port cxl rate width s) :=
  keeps_ite (keeps_next id) (keeps_next modHost_memOk)

/-! ### The host port -/

theorem queueError_memOk {q code va : Nat} (h : s.memOk) : (queueError s q code va).memOk :=
  signal_memOk (setQueueReg_memOk (setQueueReg_memOk (setQueueReg_memOk h)))

theorem writeQcfg_memOk {q x : Nat} (h : s.memOk) : (writeQcfg s q x).memOk :=
  memOk_ite (setQueueReg_memOk h) (memOk_ite (setQueueReg_memOk h) (memOk_ite
      (setQueueReg_memOk (setQueueReg_memOk (setQueueReg_memOk (setQueueReg_memOk h))))
      (queueError_memOk (setQueueReg_memOk (setQueueReg_memOk (setQueueReg_memOk (setQueueReg_memOk h)))))))

theorem writeTail_memOk {q x : Nat} (h : s.memOk) : (writeTail s q x).memOk :=
  memOk_ite (queueError_memOk (setQueueReg_memOk h)) (setQueueReg_memOk h)

theorem quickEnd_memOk {q op launchid code : Nat} (h : s.memOk) : (quickEnd s q op launchid code).memOk :=
  signal_memOk (setQueueReg_memOk h)

theorem beginCommand_memOk {q op launchid k : Nat} (h : s.memOk) : (beginCommand s q op launchid k).memOk :=
  modHost_memOk (setQueueReg_memOk h)

theorem preemptLaunch_memOk {q launchid k : Nat} (h : s.memOk) : (preemptLaunch s q launchid k).memOk :=
  memOk_ite (quickEnd_memOk h) (settlePreempt_memOk (modLaunch_memOk (beginCommand_memOk h)))

theorem resumeLaunch_memOk {q launchid k : Nat} (h : s.memOk) : (resumeLaunch s q launchid k).memOk :=
  memOk_ite (quickEnd_memOk (memOk_ite (beginGang_memOk (modLaunch_memOk h)) (modLaunch_memOk h))) (quickEnd_memOk h)

theorem cancelLaunch_memOk {q launchid k : Nat} (h : s.memOk) : (cancelLaunch s q launchid k).memOk :=
  stopLaunch_memOk (memOk_ite (modLaunch_memOk (beginCommand_memOk h)) (beginCommand_memOk h))

theorem command_memOk {q x : Nat} (h : s.memOk) : (command s q x).memOk := by
  dsimp only [command]
  refine memOk_ite h ?_
  refine memOk_ite (quickEnd_memOk h) ?_
  split
  · exact quickEnd_memOk h
  · split
    exacts [preemptLaunch_memOk h, resumeLaunch_memOk h, cancelLaunch_memOk h]

theorem writeQcmd_memOk {q x : Nat} {high : Bool} (h : s.memOk) : (writeQcmd s q x high).memOk :=
  memOk_ite h (memOk_ite (command_memOk h) (setQueueReg_memOk h))

theorem writeQueue_memOk {q k x : Nat} {lo hi : Bool} (h : s.memOk) : (writeQueue s q k x lo hi).memOk := by
  dsimp only [writeQueue]
  split
  exacts [memOk_ite (writeQcfg_memOk h) h, memOk_ite h (setQueueReg_memOk h), memOk_ite h (setQueueReg_memOk h), memOk_ite (writeTail_memOk h) h,
      writeQcmd_memOk h, h]

theorem setMail_memOk {off x : Nat} (h : s.memOk) : (s.setMail off x).memOk := modHost_memOk h

theorem mailEnd_memOk {status : Nat} {pending poison : Bool} (h : s.memOk) : (mailEnd s status pending poison).memOk :=
  signal_memOk (setMail_memOk h)

theorem writeMail_memOk {off x : Nat} {lo : Bool} (h : s.memOk) : (writeMail s off x lo).memOk :=
  memOk_ite h (memOk_ite (memOk_ite (memOk_ite (setMail_memOk h) (mailEnd_memOk (took_memOk (setMail_memOk h)))) h) (setMail_memOk h))

theorem barWrite_memOk {off size val : Nat} (h : s.memOk) : (barWrite s off size val).memOk :=
  memOk_ite (send_memOk h) (memOk_ite (writeQueue_memOk h) (memOk_ite (writeMail_memOk h) (memOk_ite (modXlat_memOk h) h)))

theorem execQueueEnable_keeps {q size val : Nat} : Keeps s (execQueueEnable q size val s) :=
  keeps_ite (keeps_next id) (keeps_next barWrite_memOk)

theorem execQueueDisable_keeps {q size val : Nat} : Keeps s (execQueueDisable q size val s) :=
  keeps_ite (keeps_next id) (keeps_next barWrite_memOk)

theorem execQtailWrite_keeps {q size val : Nat} : Keeps s (execQtailWrite q size val s) :=
  keeps_ite (keeps_next id) (keeps_next barWrite_memOk)

theorem execRegisterWrite_keeps {off size val : Nat} : Keeps s (execRegisterWrite off size val s) := keeps_next barWrite_memOk

theorem qcmd_keeps {q op launchid : Nat} : Keeps s (qcmd q op launchid s) := keeps_ite (keeps_next id) (keeps_next barWrite_memOk)

theorem execPreEmpt_keeps {q launchid : Nat} : Keeps s (execPreEmpt q launchid s) := qcmd_keeps

theorem execResume_keeps {q launchid : Nat} : Keeps s (execResume q launchid s) := qcmd_keeps

theorem execCancel_keeps {q launchid : Nat} : Keeps s (execCancel q launchid s) := qcmd_keeps

theorem execQcmdInvalidOp_keeps {q op launchid : Nat} : Keeps s (execQcmdInvalidOp q op launchid s) := keeps_ite (keeps_next id) qcmd_keeps

theorem execUnclaimedRequest_keeps {addr : Nat} : Keeps s (execUnclaimedRequest addr s) := keeps_next send_memOk

theorem landInvals_memOk {agent : Nat} (h : s.memOk) : (landInvals s agent).memOk :=
  foldl_memOk (fun _ _ => modMem_memOk (fun _ => invalidate_wf)) (modMem_memOk (fun _ h1 => h1) h)

theorem pullStores_memOk {l : List Store} (h : s.memOk) : (pullStores l s).memOk := by
  induction l generalizing s with
  | nil => exact h
  | cons st l ih => exact ih (forward_memOk (landInvals_memOk h))

theorem recallLine_memOk {line : Nat} (h : s.memOk) : (recallLine s line).memOk := pullStores_memOk h

theorem keepHostCopy_memOk {l data : Nat} (h : s.memOk) : (keepHostCopy s l data).memOk := memOk_ite h (modHost_memOk h)

theorem hostRead_memOk {off : Nat} (h : s.memOk) : (hostRead s off).memOk := by
  dsimp only [hostRead]
  refine memOk_ite (logFailure_memOk (send_memOk (recallLine_memOk h))) ?_
  split
  · exact logFailure_memOk (send_memOk (recallLine_memOk h))
  · next heq1 => exact keepHostCopy_memOk (send_memOk (memOk_of_ok heq1 (readBytes_memOk (recallLine_memOk h))))

theorem hostWrite_memOk {off data mask : Nat} (h : s.memOk) : (hostWrite s off data mask).memOk :=
  hostPut_memOk (modMem_memOk (fun _ h1 => h1) (modMem_memOk (fun _ => invalidateAll_wf) (recallLine_memOk h)))

theorem hostServe_memOk {r : Request} (h : s.memOk) : SomeMemOk (hostServe r s) := by
  dsimp only [hostServe]
  split
  · exact someMemOk_none
  · exact someMemOk_ite someMemOk_none (someMemOk_some (hostRead_memOk h))
  · exact someMemOk_ite someMemOk_none (someMemOk_some (send_memOk (hostWrite_memOk h)))

theorem hostRequest_memOk {off : Nat} {r : Request} (h : s.memOk) : (hostRequest s off r).memOk :=
  memOk_ite h (memOk_ite (modHost_memOk h) (getD_memOk (hostServe_memOk h) h))

theorem execHostHdmRead_keeps {off : Nat} : Keeps s (execHostHdmRead off s) := keeps_next (fun h => hostRequest_memOk h)

theorem execHostHdmWrite_keeps {off data mask : Nat} : Keeps s (execHostHdmWrite off data mask s) :=
  keeps_next (fun h => hostRequest_memOk h)

theorem execHostWriteBack_keeps {off data : Nat} : Keeps s (execHostWriteBack off data s) :=
  keeps_ite (keeps_next id) (keeps_next (fun h => modHost_memOk (hostWrite_memOk h)))

theorem hostModify_memOk {off data : Nat} (h : s.memOk) : (hostModify s off data).memOk := memOk_ite (modHost_memOk h) h

theorem hostReply_memOk {k : Nat} (h : s.memOk) : (hostReply s k).memOk := by
  dsimp only [hostReply]
  split
  · exact h
  · exact modHost_memOk (dropHostCopy_memOk h)

theorem waitingTurn_memOk (h : s.memOk) : (waitingTurn s).memOk := by
  dsimp only [waitingTurn]
  split
  · exact h
  · exact memOk_ite (performPart_memOk h) (leaveLine_memOk h)
  · split
    · exact h
    · next heq2 => exact modHost_memOk (memOk_of_some heq2 (hostServe_memOk h))

theorem giveUp_memOk {line : Nat} {after : Option Nat} (h : s.memOk) : (giveUp s line after).memOk := by
  dsimp only [giveUp]
  refine modMem_memOk (fun _ h1 => ?_) (recallLine_memOk h)
  split
  · exact Laws.setCells_wf _ _ _ (Laws.wf_of_cells _ _ rfl (invalidateAll_wf h1))
  · exact Laws.wf_of_cells _ _ rfl (invalidateAll_wf h1)

theorem execBisnpReceived_keeps {port off : Nat} {after : Option Nat} : Keeps s (execBisnpReceived port off after s) :=
  keeps_ite (keeps_next id) (keeps_next (fun h => send_memOk (giveUp_memOk h)))

theorem holdLine_memOk {line n : Nat} (h : s.memOk) : (holdLine s line n).memOk := modHost_memOk h

theorem hostMemory_memOk {line data : Nat} (h : s.memOk) : (hostMemory s line data).memOk :=
  memOk_ite (modMem_memOk (fun _ => Laws.setCells_wf _ _ _) h) h

theorem devicePoison_memOk {sector : Nat} (h : s.memOk) : (devicePoison s sector).memOk := memOk_ite (modMem_memOk (fun _ => setTag_wf) h) h

theorem badSector_memOk {sector : Nat} (h : s.memOk) : (badSector s sector).memOk := by
  dsimp only [badSector]
  split
  · exact memOk_ite (modMem_memOk (fun _ => setTag_wf) h) h
  · exact h

theorem badExit_memOk {k : Nat} (h : s.memOk) : (badExit s k).memOk := by
  dsimp only [badExit]
  split
  · exact h
  · exact memOk_ite (failStore_memOk (modMem_memOk (fun _ hm => hm) h)) h

theorem setDecoder_memOk {value : Nat} (h : s.memOk) : (setDecoder s value).memOk := modHost_memOk h

theorem execHostSnoop_keeps {addr : Nat} {inv : Bool} {after : Option Nat} : Keeps s (execHostSnoop addr inv after s) := by
  dsimp only [execHostSnoop]
  refine keeps_ite (keeps_next id) ?_
  split
  · exact keeps_next id
  · next heq1 =>
    have hs1 (h : s.memOk) := memOk_of_ok heq1 (readBytes_memOk (recallLine_memOk h))
    exact keeps_next (fun h => memOk_ite (holdLine_memOk (giveUp_memOk (send_memOk (hs1 h))))
        (holdLine_memOk (modMem_memOk (fun _ h2 => h2) (send_memOk (hs1 h)))))

/-! ### The debugger's commands -/

theorem onStopped_keeps {code : Nat} {go : Nat → State} (hgo : s.memOk → ∀ x, (go x).memOk) : Keeps s (onStopped code s go) := by
  refine keeps_ite (keeps_next id) ?_
  split
  · exact keeps_next mailEnd_memOk
  · exact keeps_ite (keeps_next mailEnd_memOk) (keeps_ite (keeps_next mailEnd_memOk) (keeps_next fun h => hgo h _))

theorem askDebug_memOk {team : Nat} (h : s.memOk) : (askDebug s team).memOk :=
  memOk_ite (modTeam_memOk h) (broadcast_memOk (modTeam_memOk h))

theorem execHalt_keeps : Keeps s (execHalt s) := by
  dsimp only [execHalt]
  refine keeps_ite (keeps_next id) ?_
  split
  · exact keeps_next mailEnd_memOk
  · exact keeps_ite (keeps_next mailEnd_memOk) (keeps_ite (keeps_next id) (keeps_next askDebug_memOk))

theorem continueGroup_memOk {step : Bool} {k : Nat} (h : s.memOk) : (continueGroup step s k).memOk :=
  foldl_memOk (fun _ _ => reissueRead_memOk) (modGroup_memOk h)

theorem continueTeam_memOk {team : Nat} {step : Bool} (h : s.memOk) : (continueTeam s team step).memOk :=
  foldl_memOk (fun _ _ => continueGroup_memOk) (modTeam_memOk h)

theorem execDebugResume_keeps : Keeps s (execDebugResume s) := onStopped_keeps (fun h _ => mailEnd_memOk (continueTeam_memOk h))

theorem onRegister_keeps {code : Nat} {go : Nat → Nat → State} (hgo : s.memOk → ∀ x y, (go x y).memOk) :
    Keeps s (onRegister code s go) := by
  refine onStopped_keeps fun h _ => ?_
  split
  · exact mailEnd_memOk h
  · split
    · exact mailEnd_memOk h
    · exact hgo h _ _

theorem setValues_memOk {f : Nat → Nat} (h : s.memOk) : (s.setValues f).memOk := foldl_memOk (fun _ _ => setMail_memOk) h

theorem execReadRegister_keeps : Keeps s (execReadRegister s) :=
  onRegister_keeps (fun h _ _ => mailEnd_memOk (memOk_ite (setValues_memOk h) (memOk_ite (setMail_memOk h) (setMail_memOk h))))

theorem pokeRegister_memOk {grp n : Nat} (h : s.memOk) : (pokeRegister s grp n).memOk := modGroup_memOk h

theorem execWriteRegister_keeps : Keeps s (execWriteRegister s) :=
  onRegister_keeps (fun h _ _ => memOk_ite (mailEnd_memOk h) (mailEnd_memOk (pokeRegister_memOk h)))

theorem execForceWrite_keeps : Keeps s (execForceWrite s) := onRegister_keeps (fun h _ _ => mailEnd_memOk (pokeRegister_memOk h))

theorem execReadSpecial_keeps : Keeps s (execReadSpecial s) := by
  dsimp only [execReadSpecial]
  refine onStopped_keeps (fun h _ => ?_)
  split
  · exact mailEnd_memOk h
  · split
    · exact mailEnd_memOk h
    · exact mailEnd_memOk (setMail_memOk h)

theorem execDeliver_keeps : Keeps s (execDeliver s) :=
  onStopped_keeps (fun h _ => mailEnd_memOk (modTeam_memOk (foldl_memOk (fun _ _ => dropReads_memOk) (foldl_memOk (fun _ _ => modGroup_memOk) h))))

theorem execSetBreakpoint_keeps : Keeps s (execSetBreakpoint s) := onStopped_keeps (fun h _ => mailEnd_memOk (modTeam_memOk h))

theorem execStep_keeps : Keeps s (execStep s) := by
  dsimp only [execStep]
  split
  · exact keeps_ite (keeps_ite (keeps_next (fun h => mailEnd_memOk (modTeam_memOk h))) (keeps_next id))
        (onStopped_keeps (fun h _ => continueTeam_memOk h))
  · exact onStopped_keeps (fun h _ => continueTeam_memOk h)

/-! ### The command processor and the distributors -/

theorem execRingEntryRead_keeps {q : Nat} : Keeps s (execRingEntryRead q s) := by
  dsimp only [execRingEntryRead]
  refine keeps_ite (keeps_next id) ?_
  split
  · exact keeps_next id
  · exact keeps_next queueError_memOk
  · next heq1 => exact keeps_next (fun h => modWork_memOk (setQueueReg_memOk (memOk_of_acc heq1 (load_memOk h))))

theorem enterQueue_memOk {l : Launch} (h : s.memOk) : (enterQueue s l).memOk := modWork_memOk (setLaunch_memOk h)

theorem execLaunchTake_keeps {q : Nat} : Keeps s (execLaunchTake q s) := by
  dsimp only [execLaunchTake]
  refine keeps_ite (keeps_next id) ?_
  split
  · exact keeps_next id
  · exact keeps_next (fun h => modWork_memOk (queueError_memOk h))
  · next heq1 =>
    have hs1 (h : s.memOk) := memOk_of_acc heq1 (load_memOk h)
    refine keeps_ite (keeps_next (fun h => enterQueue_memOk (hs1 h))) ?_
    refine keeps_ite (keeps_next (fun h => enterQueue_memOk (hs1 h))) ?_
    split
    · exact keeps_next id
    · exact keeps_next (fun h => enterQueue_memOk (hs1 h))
    · next heq2 =>
      have hs2 (h : s.memOk) := memOk_of_acc heq2 (load_memOk (hs1 h))
      split
      · exact keeps_next (fun h => enterQueue_memOk (hs2 h))
      · exact keeps_next (fun h => enterQueue_memOk (hs2 h))

theorem flushLine_memOk {line : Nat} (h : s.memOk) : (flushLine s line).memOk :=
  modMem_memOk (fun _ h1 => Laws.wf_of_cells _ _ rfl (invalidateAll_wf h1)) (recallLine_memOk h)

theorem execEdgeSatisfy_keeps {launch edge : Nat} : Keeps s (execEdgeSatisfy launch edge s) := by
  dsimp only [execEdgeSatisfy]
  refine keeps_ite (keeps_next id) ?_
  split
  · exact keeps_next id
  · split
    · exact keeps_next id
    · exact keeps_ite (keeps_next (fun h => modLaunch_memOk h)) (keeps_ite (keeps_next id)
          (keeps_next (fun h => modLaunch_memOk (foldl_memOk (fun _ _ => flushLine_memOk) h))))

theorem execDispatchBegin_keeps {q : Nat} : Keeps s (execDispatchBegin q s) := by
  dsimp only [execDispatchBegin]
  split
  · exact keeps_next id
  · refine keeps_ite (keeps_next id) ?_
    refine keeps_ite (keeps_next (fun h => modLaunch_memOk h)) ?_
    split
    · exact keeps_next id
    · exact keeps_next (fun h => modLaunch_memOk h)
    · next heq2 =>
      have hs2 (h : s.memOk) := memOk_of_acc heq2 (load_memOk h)
      exact keeps_ite (keeps_next (fun h => modLaunch_memOk (hs2 h)))
          (keeps_ite (keeps_next (fun h => modLaunch_memOk (hs2 h)))
          (keeps_ite (keeps_next (fun h => modLaunch_memOk (modLaunch_memOk (hs2 h))))
          (keeps_next (fun h => beginGang_memOk (modLaunch_memOk (hs2 h))))))

theorem seatGroup_memOk {core k : Nat} (h : s.memOk) : (seatGroup s core k).memOk := modGroup_memOk h

theorem wakeGroup_memOk {core k : Nat} (h : s.memOk) : (wakeGroup s core k).memOk :=
  memOk_ite h (modGroup_memOk (seatGroup_memOk (modGroup_memOk h)))

theorem admitTeam_memOk {launch clu : Nat} {p : Nat × Nat} (h : s.memOk) : (admitTeam launch clu s p).memOk :=
  memOk_ite (memOk_ite (modEngine_memOk (foldl_memOk (fun _ _ => wakeGroup_memOk) (setTeam_memOk h)))
      (foldl_memOk (fun _ _ => wakeGroup_memOk) (setTeam_memOk h))) (foldl_memOk (fun _ _ h1 => seatGroup_memOk (setGroup_memOk h1))
      (setTeam_memOk h))

theorem allotUnits_memOk {launch die : Nat} (h : s.memOk) : (allotUnits s launch die).memOk := memOk_ite h (modScr_memOk h)

theorem commitCluster_memOk {launch clu die col row : Nat} (h : s.memOk) : (commitCluster s launch clu die col row).memOk :=
  modLaunch_memOk (memOk_ite (setCluster_memOk (foldl_memOk (fun _ _ => admitTeam_memOk) (modWork_memOk (allotUnits_memOk h))))
      (modLaunch_memOk (setCluster_memOk (foldl_memOk (fun _ _ => admitTeam_memOk) (modWork_memOk (allotUnits_memOk h))))))

theorem execClusterRequest_keeps {die col row : Nat} : Keeps s (execClusterRequest die col row s) := by
  dsimp only [execClusterRequest]
  split
  · exact keeps_next id
  · split
    · exact keeps_next id
    · exact keeps_ite (keeps_next commitCluster_memOk) (keeps_next id)

theorem releaseTeam_memOk {team : Nat} (h : s.memOk) : (releaseTeam s team).memOk :=
  clearSems_memOk (modTeam_memOk (foldl_memOk (fun _ _ => releaseSlot_memOk) (foldl_memOk (fun _ _ => setBarge_memOk) (dropScratch_memOk h))))

theorem execClusterRelease_keeps {cluster : Nat} : Keeps s (execClusterRelease cluster s) :=
  keeps_ite (keeps_next (fun h => settlePreempt_memOk (modCluster_memOk (foldl_memOk (fun _ _ => releaseTeam_memOk) h)))) (keeps_next id)

theorem retireLaunch_memOk {k : Nat} (h : s.memOk) : (retireLaunch s k).memOk :=
  endCommand_memOk (modScr_memOk (modWork_memOk (modLaunch_memOk h)))

theorem execLaunchComplete_keeps {launch : Nat} : Keeps s (execLaunchComplete launch s) := by
  dsimp only [execLaunchComplete]
  refine keeps_ite (keeps_next id) ?_
  split
  · exact keeps_next id
  · exact keeps_next (fun h => retireLaunch_memOk (queueError_memOk h))
  · next heq1 => exact keeps_next (fun h => retireLaunch_memOk (signal_memOk (writeBack_memOk (memOk_of_acc heq1 (store_memOk h)))))

/-! ### Degraded operation -/

theorem failOps_memOk {core : Nat} (h : s.memOk) : (failOps s core).memOk :=
  foldl_memOk (fun _ _ h1 => memOk_ite (finishOp_memOk h1) h1) (memOk_ite (foldl_memOk (fun _ _ => cutBarge_memOk) h)
      (emptyEngine_memOk (foldl_memOk (fun _ _ => cutBarge_memOk) h)))

theorem loseTeams_memOk {core : Nat} {sync : Bool} (h : s.memOk) : (loseTeams s core sync).memOk :=
  foldl_memOk (fun _ _ h1 => memOk_ite (stopLaunch_memOk h1) (stopLaunch_memOk h1)) h

theorem emptyCore_memOk {core : Nat} (h : s.memOk) : (emptyCore s core).memOk := modFabric_memOk (modCore_memOk h)

theorem loseCore_memOk {core : Nat} {sync : Bool} (h : s.memOk) : (loseCore s core sync).memOk :=
  emptyCore_memOk (loseTeams_memOk (failOps_memOk h))

theorem goOffline_memOk {die : Nat} (h : s.memOk) : (goOffline s die).memOk :=
  askReplacement_memOk (foldl_memOk (fun _ _ => emptyCore_memOk) (foldl_memOk (fun _ _ => loseTeams_memOk)
      (foldl_memOk (fun _ _ => stopLaunch_memOk) (modMem_memOk (fun _ h1 => h1) (foldl_memOk (fun _ _ => failOps_memOk) (modDie_memOk h))))))

theorem reroute_memOk {die : Nat} (h : s.memOk) : (reroute s die).memOk :=
  memOk_ite (modDie_memOk h) (memOk_ite (modDie_memOk h) (goOffline_memOk h))

theorem failLink_memOk {die : Nat} (h : s.memOk) : (failLink s die).memOk :=
  memOk_ite h (foldl_memOk (fun _ _ => reroute_memOk) (reroute_memOk (modDie_memOk h)))

theorem execHubLinkFailure_keeps {die : Nat} : Keeps s (execHubLinkFailure die s) := keeps_next failLink_memOk

theorem execHubLinkRestored_keeps {die : Nat} : Keeps s (execHubLinkRestored die s) := keeps_ite (keeps_next modDie_memOk) (keeps_next id)

theorem execLaneRetirement_keeps {kind idx width : Nat} : Keeps s (execLaneRetirement kind idx width s) := by
  dsimp only [execLaneRetirement]
  refine keeps_ite (keeps_next id) ?_
  split
  · exact keeps_ite (keeps_next id) (keeps_next (fun h => memOk_ite (failLink_memOk (modDie_memOk (unitRetired_memOk h)))
        (modDie_memOk (unitRetired_memOk h))))
  · exact keeps_ite (keeps_next id) (keeps_next (fun h => memOk_ite (stopStation_memOk (modStation_memOk (unitRetired_memOk h)))
        (modStation_memOk (unitRetired_memOk h))))
  · exact keeps_ite (keeps_next (fun h => modHost_memOk (unitRetired_memOk h))) (keeps_next id)

theorem execCoreRetire_keeps {core : Nat} : Keeps s (execCoreRetire core s) := keeps_ite (keeps_next modCore_memOk) (keeps_next id)

theorem execCoreRetirementComplete_keeps {core : Nat} : Keeps s (execCoreRetirementComplete core s) :=
  keeps_ite (keeps_next (fun h => askReplacement_memOk (modCore_memOk h))) (keeps_next id)

theorem execCoreUncorrectable_keeps {core : Nat} : Keeps s (execCoreUncorrectable core s) :=
  keeps_ite (keeps_next (fun h => askReplacement_memOk (modCore_memOk (loseCore_memOk h)))) (keeps_next id)

theorem loseSector_memOk {die : Nat} {sec : Nat} (h : s.memOk) : (loseSector die s sec).memOk :=
  foldl_memOk (fun _ _ => failStore_memOk) (modMem_memOk (fun _ h1 => h1) h)

theorem execSliceFlush_keeps {die slice : Nat} {unreadable : List Nat} : Keeps s (execSliceFlush die slice unreadable s) :=
  keeps_ite (keeps_next id) (keeps_next (fun h => foldl_memOk (fun _ _ => dropFlushed_memOk)
      (askReplacement_memOk (modSlice_memOk (foldl_memOk (fun _ _ => loseSector_memOk) h)))))

theorem execSliceMapSwitch_keeps {die : Nat} : Keeps s (execSliceMapSwitch die s) :=
  keeps_ite (keeps_next id) (keeps_next (fun h => modSlice_memOk (modMem_memOk (fun _ h1 => h1) h)))

theorem execCoreMapAdopt_keeps {core : Nat} : Keeps s (execCoreMapAdopt core s) := keeps_ite (keeps_next id) (keeps_next modSlice_memOk)

theorem quietCycle_memOk {die : Nat} (h : s.memOk) : (quietCycle s die).memOk := memOk_ite (modSlice_memOk h) h

theorem execSliceEnd_keeps {die : Nat} : Keeps s (execSliceEnd die s) := keeps_ite (keeps_next modSlice_memOk) (keeps_next id)

theorem failRow_memOk {stack row : Nat} (h : s.memOk) : (failRow s stack row).memOk :=
  modMem_memOk (fun _ => foldl_wf (fun _ _ => setTag_wf)) h

theorem useSpares_memOk {stack n : Nat} (h : s.memOk) : (useSpares s stack n).memOk := modMgmt_memOk h

theorem execHbmRowRetire_keeps {stack row : Nat} {s0 : State} : Keeps s0 (execHbmRowRetire stack row s0) :=
  keeps_ite (keeps_next id) (keeps_ite (keeps_next (fun h => modMgmt_memOk (failRow_memOk (unitRetired_memOk h))))
      (keeps_ite (keeps_next (fun h => askReplacement_memOk (useSpares_memOk (unitRetired_memOk h))))
      (keeps_next (fun h => useSpares_memOk (unitRetired_memOk h)))))

theorem execHbmBankRetire_keeps {stack bank : Nat} {s0 : State} : Keeps s0 (execHbmBankRetire stack bank s0) :=
  keeps_ite (keeps_next id) (keeps_next (fun h => askReplacement_memOk
      (modMgmt_memOk (memOk_ite (useSpares_memOk (unitRetired_memOk h)) (foldl_memOk (fun _ _ => failRow_memOk) (unitRetired_memOk h))))))

theorem execPageWalk_keeps {core asid va kind : Nat} : Keeps s (execPageWalk core asid va kind s) := by
  dsimp only [execPageWalk]
  refine keeps_ite (keeps_next id) ?_
  split
  · exact keeps_next id
  · split
    · exact keeps_next id
    · next heq2 => exact keeps_next (fun h => modXlat_memOk (keepWalk_memOk (memOk_of_ok heq2 (useLeaf_memOk (tookLost_memOk h)))))

theorem aheadLeaf_memOk {s t : State} {core asid va : Nat} {e : TlbEntry} (h : s.memOk) (hleaf : aheadLeaf s core asid va = some (e, t)) : t.memOk :=
    by
  unfold aheadLeaf at hleaf
  split at hleaf
  · split at hleaf <;> cases hleaf
    exact h
  · split at hleaf
    · cases hleaf
    · split at hleaf <;> cases hleaf
      exact cacheLeaf_memOk (keepWalk_memOk (tookLost_memOk h))

theorem execRunAheadFetch_keeps {core asid va : Nat} : Keeps s (execRunAheadFetch core asid va s) := by
  dsimp only [execRunAheadFetch]
  split
  · exact keeps_next id
  · refine keeps_ite (keeps_next id) ?_
    split
    · exact keeps_next id
    · next heq1 =>
      refine keeps_ite (keeps_next id) ?_
      split
      · exact keeps_next id
      · next heq2 => exact keeps_next fun h => keepCode_memOk (codeAt_memOk (aheadLeaf_memOk h heq1) _ _ heq2)

theorem execLongLatencyFlag_keeps {grp flag : Nat} : Keeps s (execLongLatencyFlag grp flag s) :=
  keeps_ite (keeps_next modGroup_memOk) (keeps_next id)

end Kept

end Sys2Proof.Proofs


/-! Memory stays in canonical form (log 1): the turns of a step. -/

namespace Sys2Proof.Proofs

open Sys2Proof Sys2Proof.Machine Sys2Proof.Rules

section Kept

variable {s : State}

/-! ### An encoding runs -/

theorem runMov_keeps {f : ExtForm} : Keeps s (runMov f s) :=
  keeps_ite execMovX_keeps (keeps_ite execMovQueueWrite_keeps (keeps_ite execNmPush_keeps (keeps_ite execMovQueueRead_keeps execNmTake_keeps)))

theorem runSwr_keeps {f : ExtForm} : Keeps s (runSwr f s) :=
  keeps_ite execSwrTok_keeps (keeps_ite execSwrTokx_keeps (keeps_ite execSwrMxQ_keeps (keeps_ite execSwrMxBudget_keeps execSwr_keeps)))

theorem runRtt_keeps {f : ExtForm} : Keeps s (runRtt f s) := keeps_ite execRttRes_keeps (keeps_ite execRttEnd_keeps execRttSave_keeps)

theorem runBase_keeps {major idx : Nat} {f : BaseForm} : Keeps s (runBase major idx f s) := by
  dsimp only [runBase]
  split
  · split
    exacts [execIadd_keeps, execIsub_keeps, execImul_keeps, keeps_next id]
  · split
    exacts [execAnd_keeps, execOr_keeps, execXor_keeps, execNot_keeps, keeps_next id]
  · split
    exacts [execShl_keeps, execShr_keeps, execSar_keeps, execRot_keeps, keeps_next id]
  · split
    · exact execIcmp_keeps
    · exact keeps_next id
  · split
    exacts [execMov_keeps, execMovs_keeps, execBcast_keeps, keeps_next id]
  · split
    exacts [execFadd_keeps, execFmul_keeps, execFmin_keeps, keeps_next id]
  · split
    · exact execFcmp_keeps
    · exact keeps_next id
  · split
    exacts [execFrcp_keeps, execFrsq_keeps, execFsqrt_keeps, execFexp2_keeps, keeps_next id]
  · split
    exacts [execHadd2_keeps, execHmul2_keeps, execHmin2_keeps, keeps_next id]
  · split
    exacts [execDadd_keeps, execDmul_keeps, execDcmp_keeps, keeps_next id]
  · split
    exacts [execCvt_keeps, execCpack_keeps, execCunpk_keeps, execFrnd_keeps, keeps_next id]
  · split
    · exact execLea_keeps
    · exact keeps_next id
  · split
    exacts [execShf_keeps, execShfup_keeps, execShfdn_keeps, execShfx_keeps, keeps_next id]
  · split
    exacts [execVall_keeps, execVany_keeps, execVbal_keeps, execVmatch_keeps, keeps_next id]
  · split
    exacts [execGred_keeps, execGscan_keeps, keeps_next id]
  · split
    exacts [execBra_keeps, execBrx_keeps, execCall_keeps, execRet_keeps, keeps_next id]
  · split
    exacts [execExit_keeps, execNop_keeps, execYield_keeps, keeps_next id]
  · split
    exacts [execLds_keeps, execSts_keeps, keeps_next id]
  · split
    exacts [execLdl_keeps, execStl_keeps, keeps_next id]
  · split
    exacts [execSinc_keeps, execSwait_keeps, execSread_keeps, keeps_next id]
  · split
    exacts [execRacq_keeps, execRrel_keeps, keeps_next id]
  · exact keeps_next id

theorem runExt_keeps {major idx : Nat} {f : ExtForm} : Keeps s (runExt major idx f s) := by
  dsimp only [runExt]
  split
  · split
    exacts [execIaddX_keeps, execIsubX_keeps, execImulX_keeps, execImad_keeps, execImulh_keeps, execImin_keeps, execImax_keeps, execIabs_keeps,
        execIneg_keeps, execIaddc_keeps, keeps_next id]
  · split
    exacts [execAndX_keeps, execOrX_keeps, execXorX_keeps, execNotX_keeps, execBfn3_keeps, keeps_next id]
  · split
    exacts [execShlX_keeps, execShrX_keeps, execSarX_keeps, execRotX_keeps, execPopc_keeps, execClz_keeps, execBrev_keeps, execBfe_keeps,
        execBfi_keeps, keeps_next id]
  · split
    exacts [execIcmpX_keeps, execIcmpc_keeps, keeps_next id]
  · split
    exacts [runMov_keeps, execSel_keeps, execMovsX_keeps, execBcastX_keeps, execMovp_keeps, keeps_next id]
  · split
    exacts [execFaddX_keeps, execFmulX_keeps, execFfma_keeps, execFminX_keeps, execFmax_keeps, execFsub_keeps, keeps_next id]
  · split
    exacts [execFcmpX_keeps, execFclass_keeps, keeps_next id]
  · split
    exacts [execFrcpX_keeps, execFrsqX_keeps, execFsqrtX_keeps, execFexp2X_keeps, execFlog2_keeps, execFsin_keeps, execFcos_keeps, execFtanh_keeps,
        keeps_next id]
  · split
    exacts [execHadd2X_keeps, execHmul2X_keeps, execHfma2_keeps, execHmin2X_keeps, execHmax2_keeps, keeps_next id]
  · split
    exacts [execDaddX_keeps, execDmulX_keeps, execDfma_keeps, execDcmpX_keeps, execDmin_keeps, execDmax_keeps, keeps_next id]
  · split
    exacts [execCvtX_keeps, execCpackX_keeps, execCunpkX_keeps, execFrndX_keeps, keeps_next id]
  · split
    exacts [execPerm_keeps, execLeaX_keeps, keeps_next id]
  · split
    exacts [execShfX_keeps, execShfupX_keeps, execShfdnX_keeps, execShfxX_keeps, keeps_next id]
  · split
    exacts [execVallX_keeps, execVanyX_keeps, execVbalX_keeps, execVmatchX_keeps, execVuni_keeps, keeps_next id]
  · split
    exacts [execGredX_keeps, execGscanX_keeps, keeps_next id]
  · split
    exacts [execBraX_keeps, execBrxX_keeps, execCallX_keeps, execRetX_keeps, keeps_next id]
  · split
    exacts [execJoin_keeps, execLeave_keeps, keeps_ite execMwaitBounded_keeps execMwait_keeps, execElect_keeps, execMset_keeps, execMget_keeps,
        keeps_next id]
  · split
    exacts [execExitX_keeps, execNopX_keeps, execYieldX_keeps, keeps_next id]
  · split
    exacts [execLdsX_keeps, execStsX_keeps, execAtms_keeps, keeps_next id]
  · split
    exacts [execLdlX_keeps, execStlX_keeps, keeps_next id]
  · split
    exacts [execLdc_keeps, execStc_keeps, execCput_keeps, execAtmc_keeps, keeps_next id]
  · split
    exacts [execLdd_keeps, execStd_keeps, keeps_next id]
  · split
    exacts [execLdg_keeps, execStg_keeps, execAtg_keeps, execRedg_keeps, keeps_next id]
  · split
    exacts [execPref_keeps, execCclean_keeps, execCinval_keeps, keeps_next id]
  · split
    exacts [execTwait_keeps, execTtest_keeps, execTsleep_keeps, execTexp_keeps, execTjoin_keeps, execTclr_keeps, execTsig_keeps, keeps_next id]
  · split
    exacts [execChini_keeps, execCharr_keeps, execChwait_keeps, execChtest_keeps, keeps_next id]
  · split
    exacts [execNbarr_keeps, execNbwait_keeps, execNbsync_keeps, keeps_next id]
  · split
    exacts [execSincX_keeps, execSwaitX_keeps, execSreadX_keeps, keeps_next id]
  · split
    exacts [execFence_keeps, execTfence_keeps, execAcqr_keeps, keeps_next id]
  · split
    exacts [execRacqX_keeps, execRrelX_keeps, keeps_next id]
  · split
    exacts [execSrd_keeps, runSwr_keeps, keeps_next id]
  · split
    exacts [execBgo_keeps, execBstop_keeps, keeps_ite execBresLd_keeps execBres_keeps, execBstat_keeps, keeps_next id]
  · split
    exacts [execMxres_keeps, execMxrel_keeps, execMxsign_keeps, keeps_next id]
  · split
    exacts [execMma_keeps, execMmac_keeps, keeps_next id]
  · split
    exacts [execMxclr_keeps, execMxld_keeps, execMxst_keeps, execMxscl_keeps, keeps_next id]
  · split
    exacts [execNmcfg_keeps, execNmv_keeps, execQpoll_keeps, execQflush_keeps, keeps_next id]
  · split
    exacts [execPut_keeps, execRld_keeps, execRatom_keeps, execWcflush_keeps, keeps_next id]
  · split
    exacts [execClplan_keeps, execClgo_keeps, execRring_keeps, keeps_next id]
  · split
    exacts [execTrap_keeps, runRtt_keeps, execBrk_keeps, execCsync_keeps, execIcinv_keeps, execTlbinv_keeps, execBiasset_keeps, execGsync_keeps,
        keeps_next id]
  · split
    · exact execPmrd_keeps
    · exact keeps_next id
  · exact keeps_next id

theorem runBarge_keeps {op : Nat} {f : BargeForm} : Keeps s (runBarge op f s) := by
  dsimp only [runBarge]
  split
  · exact execBnop_keeps
  · exact execBend_keeps
  · exact execBmov_keeps
  · exact execBmovi_keeps
  · exact execBadd_keeps
  · exact execBsub_keeps
  · exact execBmul_keeps
  · exact execBshl_keeps
  · exact execBshr_keeps
  · exact execBand_keeps
  · exact execBor_keeps
  · exact execBcmp_keeps
  · exact execBbr_keeps
  · exact execBjmp_keeps
  · exact execBloop_keeps
  · exact execBldi_keeps
  · exact execBqin_keeps
  · exact execBqout_keeps
  · exact execBaddr_keeps
  · exact execBcopy_keeps
  · exact execBgath_keeps
  · exact execBscat_keeps
  · exact execBpool_keeps
  · exact keeps_ite execBarrSc_keeps execBarrNb_keeps
  · exact execBsem_keeps
  · exact keeps_ite execBwaitSc_keeps (keeps_ite execBwaitNb_keeps execBwait_keeps)
  · exact execBfence_keeps
  · exact execBtok_keeps
  · exact keeps_next id

theorem runEnc_keeps {e : Enc} : Keeps s (runEnc e s) := by
  dsimp only [runEnc]
  split
  exacts [keeps_next id, runBase_keeps, runExt_keeps, runBarge_keeps]

/-! ### A path issues -/

theorem settleGroup_memOk {k : Nat} (h : s.memOk) : (settleGroup s k).memOk :=
  memOk_ite h (memOk_ite (doubleFault_memOk (modGroup_memOk h)) (memOk_ite (stopGroup_memOk h)
      (memOk_ite (stopGroup_memOk h) (memOk_ite (stopGroup_memOk h) (memOk_ite (stopGroup_memOk h) h)))))

theorem settleHalts_memOk {team : Nat} (h : s.memOk) : (settleHalts s team).memOk := foldl_memOk (fun _ _ => settleGroup_memOk) h

theorem raiseAt_memOk {grp : Nat} {lanes : Lanes} {va hdr : Nat} {cs : Sparse Nat} {tok : Option (Nat × Nat)} (h : s.memOk) :
    (raiseAt s grp lanes va hdr cs tok).memOk :=
  raise_memOk (modSched_memOk h)

theorem afterIssue_memOk {s0 s : State} {grp va npc : Nat} {alone : Bool} (h : s.memOk) : (afterIssue s0 s grp va npc alone).memOk :=
  memOk_ite h (modCore_memOk (modGroup_memOk h))

theorem readSources_memOk {grp : Nat} {lanes : Lanes} {e : Enc} {begins : Bool} (h : s.memOk) : (readSources s grp lanes e begins).memOk :=
  modGroup_memOk h

theorem undoLatches_memOk {s0 s : State} {grp : Nat} (h : s.memOk) : (undoLatches s0 s grp).memOk := memOk_ite (modGroup_memOk h) h

theorem issueEnc_memOk {grp : Nat} {lanes : Lanes} {va npc hdr : Nat} {begins : Bool} {e : Enc} (h : s.memOk) :
    (issueEnc s grp lanes va npc hdr begins e).memOk :=
  memOk_ite h (settleHalts_memOk (afterIssue_memOk (undoLatches_memOk (runEnc_keeps.orElse (readSources_memOk (modSched_memOk h))))))

theorem issueBroken_memOk {grp : Nat} {lanes : Lanes} {va npc hdr : Nat} {begins : Bool} {e : Enc} (h : s.memOk) :
    (issueBroken s grp lanes va npc hdr begins e).memOk := by
  dsimp only [issueBroken]
  split
  · exact h
  · exact settleHalts_memOk (afterIssue_memOk (raiseAt_memOk h))

theorem issueWord_memOk {grp pc : Nat} {lanes : Lanes} {va hdr word : Nat} (h : s.memOk) : (issueWord s grp pc lanes va hdr word).memOk := by
  dsimp only [issueWord]
  refine memOk_ite (settleHalts_memOk (afterIssue_memOk (raiseAt_memOk h))) ?_
  split
  · exact memOk_ite h (settleHalts_memOk (afterIssue_memOk (raiseAt_memOk h)))
  · next heq1 => exact settleHalts_memOk (afterIssue_memOk (raiseAt_memOk (memOk_of_ok heq1 (instrAt_memOk h))))
  · next heq1 =>
    have hs1 := memOk_of_ok heq1 (instrAt_memOk h)
    exact memOk_ite (issueBroken_memOk hs1) (issueEnc_memOk hs1)

theorem runEntry_memOk {grp pc : Nat} {lanes : Lanes} {asks : Bool} (h : s.memOk) : (runEntry s grp pc lanes asks).memOk := by
  refine memOk_ite h ?_
  have hlook := runHeaders_memOk (grp := grp) (fuel := headerFuel) (va := pc) (hdr := (s.group grp).hdr (low lanes)) (flags := 0) h
  split
  · exact h
  · next heq1 =>
    rw [heq1] at hlook
    exact memOk_ite h (settleHalts_memOk (afterIssue_memOk (raiseAt_memOk hlook)))
  · next heq1 =>
    rw [heq1] at hlook
    exact memOk_ite h (issueWord_memOk hlook)

theorem pathTurn_memOk {grp pc : Nat} {lanes : Lanes} (h : s.memOk) : (pathTurn s grp pc lanes).memOk := by
  dsimp only [pathTurn]
  split
  · exact memOk_ite (runEntry_memOk (modGroup_memOk h)) h
  · exact h

theorem execAddressBreakpoint_keeps {grp : Nat} : Keeps s (execAddressBreakpoint grp s) := by
  dsimp only [execAddressBreakpoint]
  split
  · exact keeps_next id
  · split
    · exact keeps_ite (keeps_next (fun h => pathTurn_memOk h)) (keeps_next id)
    · exact keeps_next id

/-! ### Every instruction -/

theorem exec_keeps {i : Instr} : Keeps s (exec i s) := by
  dsimp only [exec]
  split
  exacts [execReset_keeps, execBootStageLoad_keeps, execThermalShutdown_keeps, execPowerSample_keeps, execGetMeasurements_keeps,
      execNegotiateAlgorithms_keeps, execSecureSession_keeps, execSetPodIdentifier_keeps, execSetExportSegment_keeps, execKeySlotLoad_keeps,
      execStationKeyLoad_keeps, execIdeKeyLoad_keeps, execSetHdmKey_keeps, execSetSpace3Window_keeps, execSetPrivilegeMask_keeps,
      execSetHotThreshold_keeps, execSetReserveMarks_keeps, execSetRetirementThreshold_keeps, execSetPowerLimit_keeps,
      execDynamicCapacityExtent_keeps, execCoreTemperatureReading_keeps, execDroopEvent_keeps, execDroopQuiet_keeps, execReserveGrow_keeps,
      execReserveShrink_keeps, execQueueEnable_keeps, execQueueDisable_keeps, execQtailWrite_keeps, execRegisterWrite_keeps, execPreEmpt_keeps,
      execResume_keeps, execCancel_keeps, execQcmdInvalidOp_keeps, execHalt_keeps, execDebugResume_keeps, execReadRegister_keeps,
      execWriteRegister_keeps, execForceWrite_keeps, execReadSpecial_keeps, execDeliver_keeps, execSetBreakpoint_keeps, execStep_keeps,
      execUnclaimedRequest_keeps, execHostHdmRead_keeps, execHostHdmWrite_keeps, execHostWriteBack_keeps, execBisnpReceived_keeps,
      execHostSnoop_keeps, execRingEntryRead_keeps, execLaunchTake_keeps, execEdgeSatisfy_keeps, execDispatchBegin_keeps, execClusterRequest_keeps,
      execClusterRelease_keeps, execLaunchComplete_keeps, execRacqGrant_keeps, execMwaitDeadline_keeps, execSpecialFunctionLand_keeps,
      execShuffleLand_keeps, execScratchpadLoadLand_keeps, execScratchpadAtomicLand_keeps, execQueueReadLand_keeps, execPostedWriteLand_keeps,
      execCputIncrement_keeps, execHeldOperationStart_keeps, execGlobalAccessRetire_keeps, execDieScratchpadRetire_keeps, execChamberArrive_keeps,
      execAckLost_keeps, execWatchdog_keeps, execAddressBreakpoint_keeps, execHandlerEntry_keeps, execPageWalk_keeps, execRunAheadFetch_keeps,
      execEfStoreForward_keeps, execGaStoreAcknowledge_keeps, execWcEntryTimeout_keeps, execSluiceWindow_keeps, execMatrixOperationStart_keeps,
      execMatrixOperationRetire_keeps, execMmacRendezvous_keeps, execMmacMulticastLanded_keeps, execTileStoreZeroed_keeps, execMatrixQueuePark_keeps,
      execBargeFault_keeps, execBargePark_keeps, execAccPerform_keeps, execClosePerform_keeps, execNmvRun_keeps, execQflushRetire_keeps,
      execPutRetire_keeps, execRemoteAccessRetire_keeps, execIncomingPodRequest_keeps, execStationStop_keeps, execStationStart_keeps,
      execFlitAuthFailure_keeps, execStationNonceExhausted_keeps, execClplanRun_keeps, execClgoRendezvous_keeps, execChunkArrival_keeps,
      execPlanAbort_keeps, execAbortNoticeArrival_keeps, execClgoComplete_keeps, execRringRun_keeps, execRringPacketArrival_keeps,
      execHubLinkFailure_keeps, execHubLinkRestored_keeps, execLaneRetirement_keeps, execCoreRetire_keeps, execCoreRetirementComplete_keeps,
      execCoreUncorrectable_keeps, execSliceFlush_keeps, execSliceMapSwitch_keeps, execCoreMapAdopt_keeps, execSliceEnd_keeps,
      execHbmRowRetire_keeps, execHbmBankRetire_keeps, execBiasFlipHost_keeps, execBiasFlipDevice_keeps, execIadd_keeps, execIaddX_keeps,
      execIsub_keeps, execIsubX_keeps, execImul_keeps, execImulX_keeps, execImad_keeps, execImulh_keeps, execImin_keeps, execImax_keeps,
      execIabs_keeps, execIneg_keeps, execIaddc_keeps, execAnd_keeps, execAndX_keeps, execOr_keeps, execOrX_keeps, execXor_keeps, execXorX_keeps,
      execNot_keeps, execNotX_keeps, execBfn3_keeps, execShl_keeps, execShlX_keeps, execShr_keeps, execShrX_keeps, execSar_keeps, execSarX_keeps,
      execRot_keeps, execRotX_keeps, execPopc_keeps, execClz_keeps, execBrev_keeps, execBfe_keeps, execBfi_keeps, execIcmp_keeps, execIcmpX_keeps,
      execIcmpc_keeps, execMov_keeps, execMovX_keeps, execMovQueueWrite_keeps, execMovQueueRead_keeps, execNmPush_keeps, execNmTake_keeps,
      execSel_keeps, execMovs_keeps, execMovsX_keeps, execBcast_keeps, execBcastX_keeps, execMovp_keeps, execPerm_keeps, execLea_keeps,
      execLeaX_keeps, execFadd_keeps, execFaddX_keeps, execFmul_keeps, execFmulX_keeps, execFfma_keeps, execFmin_keeps, execFminX_keeps,
      execFmax_keeps, execFsub_keeps, execFcmp_keeps, execFcmpX_keeps, execFclass_keeps, execFrcp_keeps, execFrcpX_keeps, execFrsq_keeps,
      execFrsqX_keeps, execFsqrt_keeps, execFsqrtX_keeps, execFexp2_keeps, execFexp2X_keeps, execFlog2_keeps, execFsin_keeps, execFcos_keeps,
      execFtanh_keeps, execHadd2_keeps, execHadd2X_keeps, execHmul2_keeps, execHmul2X_keeps, execHfma2_keeps, execHmin2_keeps, execHmin2X_keeps,
      execHmax2_keeps, execDadd_keeps, execDaddX_keeps, execDmul_keeps, execDmulX_keeps, execDfma_keeps, execDcmp_keeps, execDcmpX_keeps,
      execDmin_keeps, execDmax_keeps, execCvt_keeps, execCvtX_keeps, execCpack_keeps, execCpackX_keeps, execCunpk_keeps, execCunpkX_keeps,
      execFrnd_keeps, execFrndX_keeps, execShf_keeps, execShfX_keeps, execShfup_keeps, execShfupX_keeps, execShfdn_keeps, execShfdnX_keeps,
      execShfx_keeps, execShfxX_keeps, execVall_keeps, execVallX_keeps, execVany_keeps, execVanyX_keeps, execVbal_keeps, execVbalX_keeps,
      execVmatch_keeps, execVmatchX_keeps, execVuni_keeps, execGred_keeps, execGredX_keeps, execGscan_keeps, execGscanX_keeps, execBra_keeps,
      execBraX_keeps, execBrx_keeps, execBrxX_keeps, execCall_keeps, execCallX_keeps, execRet_keeps, execRetX_keeps, execJoin_keeps, execLeave_keeps,
      execMwait_keeps, execMwaitBounded_keeps, execElect_keeps, execMset_keeps, execMget_keeps, execExit_keeps, execExitX_keeps, execNop_keeps,
      execNopX_keeps, execYield_keeps, execYieldX_keeps, execLds_keeps, execLdsX_keeps, execSts_keeps, execStsX_keeps, execAtms_keeps, execLdl_keeps,
      execLdlX_keeps, execStl_keeps, execStlX_keeps, execLdc_keeps, execStc_keeps, execCput_keeps, execAtmc_keeps, execLdd_keeps, execStd_keeps,
      execLdg_keeps, execStg_keeps, execAtg_keeps, execRedg_keeps, execPref_keeps, execCclean_keeps, execCinval_keeps, execTwait_keeps,
      execTtest_keeps, execTsleep_keeps, execTexp_keeps, execTjoin_keeps, execTclr_keeps, execTsig_keeps, execChini_keeps, execCharr_keeps,
      execChwait_keeps, execChtest_keeps, execNbarr_keeps, execNbwait_keeps, execNbsync_keeps, execSinc_keeps, execSincX_keeps, execSwait_keeps,
      execSwaitX_keeps, execSread_keeps, execSreadX_keeps, execFence_keeps, execTfence_keeps, execAcqr_keeps, execRacq_keeps, execRacqX_keeps,
      execRrel_keeps, execRrelX_keeps, execSrd_keeps, execSwr_keeps, execSwrTok_keeps, execSwrTokx_keeps, execSwrMxQ_keeps, execSwrMxBudget_keeps,
      execBgo_keeps, execBstop_keeps, execBres_keeps, execBresLd_keeps, execBstat_keeps, execMxres_keeps, execMxrel_keeps, execMxsign_keeps,
      execMma_keeps, execMmac_keeps, execMxclr_keeps, execMxld_keeps, execMxst_keeps, execMxscl_keeps, execNmcfg_keeps, execNmv_keeps,
      execQpoll_keeps, execQflush_keeps, execPut_keeps, execRld_keeps, execRatom_keeps, execWcflush_keeps, execClplan_keeps, execClgo_keeps,
      execRring_keeps, execTrap_keeps, execRttRes_keeps, execRttEnd_keeps, execRttSave_keeps, execBrk_keeps, execCsync_keeps, execIcinv_keeps,
      execTlbinv_keeps, execBiasset_keeps, execGsync_keeps, execPmrd_keeps, execBnop_keeps, execBend_keeps, execBmov_keeps, execBmovi_keeps,
      execBadd_keeps, execBsub_keeps, execBmul_keeps, execBshl_keeps, execBshr_keeps, execBand_keeps, execBor_keeps, execBcmp_keeps, execBbr_keeps,
      execBjmp_keeps, execBloop_keeps, execBldi_keeps, execBqin_keeps, execBqout_keeps, execBaddr_keeps, execBcopy_keeps, execBgath_keeps,
      execBscat_keeps, execBpool_keeps, execBarrNb_keeps, execBarrSc_keeps, execBsem_keeps, execBwait_keeps, execBwaitSc_keeps, execBwaitNb_keeps,
      execBfence_keeps, execBtok_keeps, execLongLatencyFlag_keeps, execBirspiReceived_keeps, execMemberRendezvous_keeps, execPortLinkTraining_keeps]

/-! ### Turns -/

theorem issueTurn_memOk {core quad : Nat} (h : s.memOk) : (issueTurn s core quad).memOk := by
  dsimp only [issueTurn]
  split
  · exact h
  · split
    · exact now_memOk h
    · exact now_memOk (modGroup_memOk h)

theorem setActive_memOk {k : Nat} {on : Bool} (h : s.memOk) : (setActive s k on).memOk := modGroup_memOk h

theorem swapOut_memOk {core quad : Nat} {k : Nat} (h : s.memOk) : (swapOut core quad s k).memOk := by
  dsimp only [swapOut]
  split
  · exact setActive_memOk (setActive_memOk h)
  · exact h

theorem arrangeQuad_memOk {core : Nat} {quad : Nat} (h : s.memOk) : (arrangeQuad core s quad).memOk := by
  dsimp only [arrangeQuad]
  refine foldl_memOk (fun _ _ h1 => ?_) (foldl_memOk (fun _ _ h1 => memOk_ite (swapOut_memOk h1) h1)
      (foldl_memOk (fun _ _ h1 => memOk_ite (setActive_memOk h1) h1) h))
  refine memOk_ite ?_ h1
  split
  · exact setActive_memOk h1
  · exact h1

theorem countCycle_memOk {k : Nat} (h : s.memOk) : (countCycle s k).memOk := memOk_ite h (modGroup_memOk h)

theorem stopForPreempt_memOk {team : Nat} (h : s.memOk) : (stopForPreempt s team).memOk :=
  memOk_ite (drainNow_memOk (modTeam_memOk (foldl_memOk (fun _ _ h1 => memOk_ite (dropDead_memOk h1) (modGroup_memOk (stopGroup_memOk h1))) h))) h

theorem tickGroup_memOk {k : Nat} (h : s.memOk) : (tickGroup s k).memOk := by
  unfold tickGroup
  exact execWatchdog_keeps.orElse (foldl_memOk (fun _ _ => execLongLatencyFlag_keeps.orElse)
      (countCycle_memOk (groupExit_memOk (memOk_ite (modGroup_memOk h) h))))

theorem stopIdle_memOk {k : Nat} (h : s.memOk) : (stopIdle s k).memOk := memOk_ite (stopGroup_memOk h) (memOk_ite (stopGroup_memOk h) h)

theorem retryExports_memOk {k : Nat} (h : s.memOk) : (retryExports s k).memOk :=
  foldl_memOk (fun _ _ h1 => tryExport_memOk (tryExport_memOk h1)) h

theorem tickTeam_memOk {team : Nat} (h : s.memOk) : (tickTeam s team).memOk := by
  unfold tickTeam
  exact tryReclaim_memOk (foldl_memOk (fun _ _ => retryExports_memOk)
      (stopForPreempt_memOk (raiseHeld_memOk (settleHalts_memOk (foldl_memOk (fun _ _ => stopIdle_memOk)
      (foldl_memOk (fun _ _ => tickGroup_memOk) (settleCsync_memOk (settleBarriers_memOk h))))))))

theorem tickTurn_memOk {core : Nat} (h : s.memOk) : (tickTurn s core).memOk := by
  unfold tickTurn
  exact newWindow_memOk (modSched_memOk (loseOverdue_memOk (modCore_memOk
      (foldl_memOk (fun _ _ => modGroup_memOk) (foldl_memOk (fun _ _ => arrangeQuad_memOk)
      (foldl_memOk (fun _ _ => execWcEntryTimeout_keeps.orElse) (wcSettle_memOk
      (engineCycle_memOk (grantPool_memOk (grantSpare_memOk (foldl_memOk (fun _ _ => settleGrid_memOk)
      (foldl_memOk (fun _ _ => tickTeam_memOk) h))))))))))))

theorem meshTurn_memOk {die : Nat} (h : s.memOk) : (meshTurn s die).memOk := quietCycle_memOk (modDie_memOk h)

theorem fetchAhead_memOk {grp va : Nat} (h : s.memOk) : (fetchAhead s grp va).memOk := by
  dsimp only [fetchAhead]
  refine memOk_ite h ?_
  split
  · exact execRunAheadFetch_keeps.orElse h
  · split
    · exact modGroup_memOk (execRunAheadFetch_keeps.orElse h)
    · exact execRunAheadFetch_keeps.orElse h

theorem fetchBarge_memOk {b va : Nat} (h : s.memOk) : (fetchBarge s b va).memOk := by
  refine memOk_ite h ?_
  split
  · exact h
  · next heq1 =>
    have hleaf := aheadLeaf_memOk h heq1
    refine memOk_ite hleaf ?_
    split
    · exact h
    · next heq2 => exact keepWord_memOk (wordBehind_memOk hleaf _ _ heq2)

theorem bargeTurn_memOk {b : Nat} (h : s.memOk) : (bargeTurn s b).memOk := by
  have hlook := bargeLook_memOk (b := b) h
  unfold bargeTurn
  split
  · next heq1 =>
    rw [heq1] at hlook
    exact hlook
  · next heq1 =>
    rw [heq1] at hlook
    exact runEnc_keeps.orElse hlook

theorem evictLine_memOk {line die : Nat} (h : s.memOk) : (evictLine s line die).memOk := memOk_ite h (modMem_memOk (fun _ => setCopy_wf) h)

theorem takeInval_memOk {k : Nat} (h : s.memOk) : (takeInval s k).memOk := by
  dsimp only [takeInval]
  split
  · exact payOwed_memOk h
  · exact payOwed_memOk (modMem_memOk (fun _ h2 => h2) h)

theorem reduceTurn_memOk {k core : Nat} (h : s.memOk) : (reduceTurn s k core).memOk := by
  dsimp only [reduceTurn]
  split
  · exact h
  · split
    · exact runReduce_memOk h
    · exact memOk_ite (modFabric_memOk h) h

theorem turn_keeps {t : Turn} : Keeps s (turn t s) := by
  dsimp only [turn]
  split
  exacts [exec_keeps, keeps_next issueTurn_memOk, keeps_next (fun h => pathTurn_memOk h), keeps_next bargeTurn_memOk, keeps_next copyTurn_memOk,
      keeps_next performTurn_memOk, keeps_next takeInval_memOk, keeps_next evictLine_memOk, keeps_next modXlat_memOk, keeps_next modXlat_memOk,
      keeps_next modXlat_memOk, keeps_next modBarge_memOk, keeps_next modXlat_memOk, keeps_next (fun h => fetchAhead_memOk h), keeps_next
      (fun h => fetchBarge_memOk h), keeps_next reduceTurn_memOk, keeps_next tickTurn_memOk, keeps_next (fun h => meshTurn_memOk h), keeps_next
      landEntry_memOk, keeps_next (fun h => hostModify_memOk h), keeps_next (fun h => hostReply_memOk h), keeps_next (fun h => hostMemory_memOk h),
      keeps_next devicePoison_memOk, keeps_next setDecoder_memOk, keeps_next badSector_memOk, keeps_next badExit_memOk, keeps_next badEgress_memOk,
      keeps_next waitingTurn_memOk, keeps_next countError_memOk, keeps_next strikeUnit_memOk, keeps_next askFrom_memOk, keeps_next endSession_memOk]

end Kept

/-! ### Steps -/

section Steps

variable {s t : State}

/-- With power every step answers a next state, and keeps memory in canonical form. -/
theorem step_keeps (hpower : s.mgmt.powered = true) : Keeps s (step s) := by
  unfold step
  split
  · rw [if_pos hpower]
    exact keeps_next id
  · rw [hpower, Bool.true_or, if_pos rfl]
    exact turn_keeps.from modSched_memOk

theorem step_memOk (h : s.memOk) (ht : step s = .next t) : t.memOk := by
  unfold step at ht
  split at ht
  · split at ht <;> cases ht
    exact h
  · split at ht
    · exact memOk_of_next ht turn_keeps (modSched_memOk h)
    · cases ht

end Steps

/-- Settles O8: every turn of a package with power answers a next state. -/
theorem poweredGoesOn : Obligations.PoweredGoesOn := by
  intro s hpower
  obtain ⟨t, ht, -⟩ := step_keeps hpower
  exact ⟨t, ht⟩

/-- Settles O10: every operation on the state keeps memory in canonical form, and so do the turns made of them. -/
theorem memoryCanonicalKept : Obligations.MemoryCanonicalKept := fun _ _ => step_memOk

end Sys2Proof.Proofs
